-- ==== Sys2Proof/Word.lean ====
section
/-! DEFINITION. The word types of the machine and sparse maps: lists of (key, value) pairs in one canonical form. -/

namespace Sys2Proof

/-- One byte (00 R3). -/
abbrev Byte := BitVec 8
/-- A scalar register's width (05 R97), and that of a special register (05 R102). -/
abbrev W64 := BitVec 64
/-- One lane of a vector row (05 R98), and one instruction word (04 R69). -/
abbrev W32 := BitVec 32
/-- A device virtual address or a physical address (09 R186, R198). -/
abbrev Addr := BitVec 48

/-- A sparse map from Nat: an unlisted key holds the default its reader names. -/
abbrev SMap (α : Type) := List (Nat × α)

namespace SMap

variable {α : Type}

/-- The value at key `k`, `d` where the map lists none. -/
def get (d : α) : SMap α → Nat → α
  | [], _ => d
  | (j, v) :: m, k => if k = j then v else get d m k

/-- Inserts at key `k`, keys rising; an old entry of `k` goes. -/
def put : SMap α → Nat → α → SMap α
  | [], k, v => [(k, v)]
  | (j, w) :: m, k, v =>
    if k < j then (k, v) :: (j, w) :: m
    else if k = j then (k, v) :: m
    else (j, w) :: put m k v

/-- Removes every entry of key `k`. -/
def del : SMap α → Nat → SMap α
  | [], _ => []
  | (j, w) :: m, k => if k = j then del m k else (j, w) :: del m k

/-- Sets key `k` to `v` and keeps the canonical form: a value equal to the default is not listed. -/
def set [DecidableEq α] (d : α) (m : SMap α) (k : Nat) (v : α) : SMap α :=
  if v = d then del m k else put m k v

/-- Every key of the map lies above `b`. -/
def above (b : Nat) : SMap α → Bool
  | [] => true
  | (j, _) :: m => decide (b < j) && above b m

/-- The canonical form: keys strictly rise and no listed value equals the default. -/
def wf [DecidableEq α] (d : α) : SMap α → Bool
  | [] => true
  | (j, v) :: m => above j m && (v != d) && wf d m

/-- The entry listed at key `k`. -/
def find? (m : SMap α) (k : Nat) : Option α :=
  match m with
  | [] => none
  | (j, v) :: m => if k = j then some v else find? m k

end SMap

end Sys2Proof
end

