-- ==== Sys2Proof/Config.lean ====
section
/-! DEFINITION. What the spec leaves open: free values, as constants without a body, applied to the count of free values
drawn (State.nfree) and to a key that says what is read. Nothing can evaluate them, so a statement holds whatever they are. -/

namespace Sys2Proof.Config

/-- A 64-bit value that the spec leaves open. DESIGN CHOICE, log entry 1. -/
opaque freeW64 : Nat → Nat → W64

/-- A lane value that the spec leaves open. DESIGN CHOICE, log entry 1. -/
opaque freeW32 : Nat → Nat → W32

/-- A choice between two outcomes that the spec allows. DESIGN CHOICE, log entry 1. -/
opaque freeBit : Nat → Nat → Bool

/-- A byte that the spec leaves open. DESIGN CHOICE, log entry 1. -/
opaque freeByte : Nat → Nat → Byte

/-- A number that the spec leaves open. DESIGN CHOICE, log entry 1. -/
opaque freeNat : Nat → Nat → Nat

/-- The size of BAR2 is 2^(30 + barLog) bytes, 1 GiB to 512 GiB (17 R381). -/
opaque barLog : Fin 10

end Sys2Proof.Config
end

