-- ==== Sys2Proof/Syntax.lean ====
section
/-! DEFINITION. The instructions: operand forms, and the one inductive of the opcode table's rows. -/

namespace Sys2Proof

/-- Condition of S.B (04 R77). -/
inductive Cond where
  | z | nz | ltz | gez | gtz | lez | always
deriving DecidableEq, Repr

/-- A mask register (06 R127). -/
inductive Mask where
  | em | cm
deriving DecidableEq, Repr

/-- The second operand of a combining mask member: the other mask, or a scalar register (06 R127). -/
inductive MaskY where
  | other
  | reg (a : Fin 32)
deriving DecidableEq, Repr

/-- SZ of LDC (04 R74). -/
inductive LdcSz where
  | w | wu | d
deriving DecidableEq, Repr

/-- An operand selector: a row, a column view or a diagonal view (04 R78, 05 R98). -/
inductive Sel where
  | row (i : Fin 64)
  | col (i : Fin 64)
  | diag (i : Fin 64)
deriving DecidableEq, Repr

/-- Format of a special function (08 R172). -/
inductive SfFmt where
  | f32 | bf16 | f16
deriving DecidableEq, Repr

/-- Target formats of quantisation, and element formats of block-scaled data (04 R80, 07 R145). -/
inductive QFmt where
  | e4m3 | e5m2 | e2m1x | int8 | int4
deriving DecidableEq, Repr

/-- CODE of VCVT (08 R168). -/
inductive CvtCode where
  | f32ToI32 | i32ToF32 | f32ToInt | f32ToBf16 | bf16ToF32 | f32ToF16 | f16ToF32
  | f32ToE4m3 | e4m3ToF32 | f32ToE5m2 | e5m2ToF32
deriving DecidableEq, Repr

/-- Width of VBCST (08 R174). -/
inductive BcSz where
  | w | h | b
deriving DecidableEq, Repr

/-- Operation of VRED (08 R175). -/
inductive RedOp where
  | addI32 | addF32 | minF32 | maxF32 | minI32 | maxI32 | minuI32 | maxuI32
deriving DecidableEq, Repr

/-- q of a load (04 R78). -/
inductive QLoad where
  | plain | wait | waitClr
deriving DecidableEq, Repr

/-- q of a store (04 R78). -/
inductive QStore where
  | plain | full | empty
deriving DecidableEq, Repr

/-- Scope (04 R80). -/
inductive Scope where
  | ctx | core | group | die | device | pod
deriving DecidableEq, Repr

/-- A phaser handle, or none, which encodes as 127 (04 R78). -/
abbrev Hnd := Option (Fin 96)

/-- The lend of a copy-class word (11 R241). -/
structure CopyLend where
  acq : Bool
  rel : Bool
  scope : Scope
  ord : Bool
  opx : Fin 8
deriving DecidableEq, Repr

/-- Registered mode of PHREG (12 R272). -/
inductive RegMode where
  | sig | wait | sigwait
deriving DecidableEq, Repr

/-- Trap causes (16 R356), in the order of their codes 0x01 to 0x17. -/
inductive Cause where
  | illegalEnc | startBit | poolExec | loopOverflow | loopUnderflow | align | scratchRange | feWatchdog
  | xlate | perm | cellStore | remoteFop | engineFault | phaserBroken | mxFault | pkey | trap | brk
  | priv | checkMismatch | poison | waitTimeout | scalePin
deriving DecidableEq, Repr

/-- A fault record: the cause and the TINFO it sets (11 R248). -/
structure FaultRec where
  cause : Cause
  info : W64
  /-- The unit whose storage held the error that a POISON reports (16 R375). -/
  unit : BitVec 16
deriving DecidableEq, Repr

/-- A fault record that names no unit. -/
def FaultRec.of (cause : Cause) (info : W64) : FaultRec := ⟨cause, info, 0⟩

/-- A flit: header and payload (13 R307), and trailer (13 R308). Of a READREQ the payload only gives its length, the number of bytes
asked for. -/
structure Flit where
  dst : BitVec 13
  hc : Fin 4
  ord : Bool
  src : BitVec 13
  pkey : BitVec 16
  type : Fin 16
  opx : Fin 8
  addr : Addr
  tag : BitVec 16
  payload : List Byte
  /-- Link sequence number; link acknowledgement and slots released, which apply to comb line `fline` received at port `fport`, none
  where V is 0; CRC-32C. -/
  lseq : BitVec 16
  lack : BitVec 16 := 0
  free0 : BitVec 16 := 0
  free1 : BitVec 8 := 0
  free2 : BitVec 8 := 0
  fline : Option (Fin 128) := none
  fport : Fin 16 := 0
  crc : W32 := 0
  /-- The requester's transfer offset that a READREQ brings and its READRSP returns: the spec gives it no place in the READREQ.
  DESIGN CHOICE, log entry 38. -/
  off : Addr := 0
  /-- Place of an ORD flit in the stripe order of its origin and target, and the first place that is neither acknowledged as
  performed nor given up: what the target realigns by (13 R316; 14 R339). DESIGN CHOICE, log entry 60. -/
  oseq : Nat := 0
  obase : Nat := 0
deriving DecidableEq, Repr

/-- A lease request as it reaches a receiver or a forwarder (13 R301, R302, R305). -/
structure LeaseReq where
  src : BitVec 13
  dst : BitVec 13
  lid : Fin 256
  /-- The sender's port and the receiving port. -/
  sport : Fin 16
  rport : Fin 16
  line : Fin 128
  qpp : Nat
  offer : BitVec 6
  gmask : BitVec 6
  pkey : BitVec 16
  age : Nat
  order : Nat
  frames : Nat
  /-- The forwarder that relays it. -/
  via : Option (BitVec 13)
deriving DecidableEq, Repr

/-- A receiver's or a forwarder's answer to one port of a lease request (13 R301, R304, R305). -/
inductive LeaseAns where
  | grant (groups : BitVec 6)
  | denied
  | held (groups : BitVec 6) (fnode : BitVec 13)
deriving DecidableEq, Repr

/-- An answer as it comes in, and the node that sent it: the receiver or the forwarder. -/
structure LeaseReply where
  what : LeaseAns
  frm : BitVec 13
deriving DecidableEq, Repr

/-- A TIME flit: the node it comes from, and the SYNC it shows (13 R294). -/
structure TimeFlit where
  src : BitVec 13
  sync : Bool
deriving DecidableEq, Repr

/-- An acknowledgement of a link: the last LSEQ accepted, and whether what follows it was discarded (14 R329). -/
structure LinkAck where
  ack : BitVec 16
  again : Bool
deriving DecidableEq, Repr

/-- A comb line of a notice, and the frame at whose start the change takes effect (14 R337). -/
structure LineFrom where
  line : Fin 128
  fr : Nat
deriving DecidableEq, Repr

/-- Light that is lost: of one comb line, or of every line that its module feeds (01 R20; 14 R333). -/
inductive LostLight where
  | one (k : Fin 128)
  | fed (k : Fin 128)
deriving DecidableEq, Repr

/-- The data of an RFWD message: the port it arrives at, its node, TAG and key (15 R343). -/
structure RfwdData where
  data : List Byte
  p : Fin 16
  src : BitVec 13
  tag : BitVec 16
  pkey : BitVec 16
deriving DecidableEq, Repr

/-- What a load that lands takes from memory: whether the level-1 cache keeps it, and the granules read now (09 R200). -/
structure LoadTake where
  refill : Bool
  gs : BitVec 16
deriving DecidableEq, Repr

/-- Where SECDED finds an error (16 R374). A single-bit error is corrected in place. -/
inductive EccSite where
  | single
  | icache (core granule : Nat)
  | l1 (core granule : Nat)
  | tlb (core : Nat)
  | l2tlb (die : Nat)
  | cleanLine (line : Nat)
  | scratch (core granule : Nat)
  | tile (core granule : Nat)
  | dirtyLine (line : Nat)
  | hbmLine (line : Nat)
  | scaleCache (group : Nat)
  | array (group : Nat)
  | staging (die : Fin 4) (ticket : Nat)
  | meridian (die : Fin 4)
  | port (p : Fin 16)
deriving DecidableEq, Repr


/-- A register that an instruction writes and that a bundle may write only once (04 R81). -/
inductive Dest where
  | s (n : Fin 32)
  | v (n : Fin 64)
  | em
  | cm
deriving DecidableEq, Repr

/-- A register that an instruction reads and that can be scoreboarded (05 R96): `allRows` is a view of the file. -/
inductive Src where
  | s (n : Fin 32)
  | v (n : Fin 64)
  | allRows
deriving DecidableEq, Repr

/-- REASON of ILLEGAL_ENC (04 R83), codes 0x1 to 0xA. -/
inductive Reason where
  | unassigned | reserved | header | compose | view | dest | control | frame | range | poolref
deriving DecidableEq, Repr

/-- What the encoding tables give an instruction word: unit and opcode, operand bits [21:0], lend, whether a header is
required, and what framing and issue check of it (04 R75 to R81, R33; 05 R96, R99). -/
structure WordInfo where
  /-- U × 128 + OP. -/
  uop : Nat
  body : Nat
  lend : Nat := 0
  hdr : Bool := false
  dst : List Dest := []
  src : List Src := []
  /-- Selectors bound by the bank and view rules. -/
  sels : List Sel := []
  hnd : Option (Fin 96) := none
  ring : Option (Fin 8) := none
  /-- An S-unit transfer of R81. -/
  xfer : Bool := false
  /-- HALT, TRAP, ERET, SMC or BRK. -/
  ctl : Bool := false
  /-- endoff of LOOP and LOOPI. -/
  endOff : Option Nat := none
deriving DecidableEq, Repr

/-- Where a replay begins: the LSEQ of the first flit on the lost link, and the LSEQ that it has on the link that replays it (14 R330). -/
structure ReplayAt where
  first : BitVec 16
  start : BitVec 16
deriving DecidableEq, Repr

/-- Slot groups, and the frame from whose start they are meant (14 R334). -/
structure GroupsFrom where
  gs : BitVec 6
  fr : Nat
deriving DecidableEq, Repr

/-- A queue whose registers a happening writes, and whether the Zenith controller writes them: it programs the secure queues (17 R388). -/
structure QueueAt where
  q : Fin 64
  zenith : Bool
deriving DecidableEq, Repr

/-- An offset in BAR0 that a happening writes, and whether the Zenith controller writes there (17 R388). -/
structure RegAt where
  off : Nat
  zenith : Bool
deriving DecidableEq, Repr

/-- The instructions and happenings of the device, one constructor for each row of the opcode table.
The rows that a bundle word encodes come first, then those of the host and the pod that a test would place, then the other happenings
of the device and of its surroundings. -/
inductive Instr where
  /-- R69: One-word bundle 0x8000_0000 that does nothing. -/
  | nop
  /-- R113: sd := sa + sb modulo 2^64. -/
  | add (d a b : Fin 32)
  /-- R113: sd := sa - sb modulo 2^64. -/
  | sub (d a b : Fin 32)
  /-- R113: Bitwise and of two scalar registers. -/
  | and (d a b : Fin 32)
  /-- R113: Bitwise or of two scalar registers. -/
  | or (d a b : Fin 32)
  /-- R113: Bitwise exclusive or of two scalar registers. -/
  | xor (d a b : Fin 32)
  /-- R113: Shift left by the low six bits of sb. -/
  | shl (d a b : Fin 32)
  /-- R113: Logical shift right by the low six bits of sb. -/
  | shr (d a b : Fin 32)
  /-- R113: Arithmetic shift right by the low six bits of sb. -/
  | sra (d a b : Fin 32)
  /-- R113: Low 64 bits of the product. -/
  | mul (d a b : Fin 32)
  /-- R113: High 64 bits of the signed product. -/
  | mulhs (d a b : Fin 32)
  /-- R113: High 64 bits of the unsigned product. -/
  | mulhu (d a b : Fin 32)
  /-- R113: Signed minimum. -/
  | min (d a b : Fin 32)
  /-- R113: Signed maximum. -/
  | max (d a b : Fin 32)
  /-- R113: Unsigned minimum. -/
  | minu (d a b : Fin 32)
  /-- R113: Unsigned maximum. -/
  | maxu (d a b : Fin 32)
  /-- R113: 1 when the sources are equal, otherwise 0. -/
  | seq (d a b : Fin 32)
  /-- R113: Signed less-than test. -/
  | slt (d a b : Fin 32)
  /-- R113: Unsigned less-than test. -/
  | sltu (d a b : Fin 32)
  /-- R115: Selects sa or sb by the condition register in fn. -/
  | sel (d a b c : Fin 32)
  /-- R113: Count of leading zero bits. -/
  | clz (d a : Fin 32)
  /-- R113: Count of one bits. -/
  | popc (d a : Fin 32)
  /-- R116: Extracts a zero-extended bit field. -/
  | extr (d a : Fin 32) (pos len1 : Fin 64)
  /-- R116: Inserts a bit field into sd. -/
  | insr (d a : Fin 32) (pos len1 : Fin 64)
  /-- R113: 32-bit add, sign-extended. -/
  | addw (d a b : Fin 32)
  /-- R117: Adds a widenable immediate. -/
  | addi (d a : Fin 32) (i : Int)
  /-- R117: And with a sign-extended immediate. -/
  | andi (d a : Fin 32) (i : Int)
  /-- R117: Or with a sign-extended immediate. -/
  | ori (d a : Fin 32) (i : Int)
  /-- R117: Exclusive or with a sign-extended immediate. -/
  | xori (d a : Fin 32) (i : Int)
  /-- R117: Shift left by an immediate. -/
  | shli (d a : Fin 32) (i : Int)
  /-- R117: Logical shift right by an immediate. -/
  | shri (d a : Fin 32) (i : Int)
  /-- R117: Arithmetic shift right by an immediate. -/
  | srai (d a : Fin 32) (i : Int)
  /-- R117: Signed less-than against an immediate. -/
  | slti (d a : Fin 32) (i : Int)
  /-- R117: sd := immediate times 4,096. -/
  | lui (d : Fin 32) (i : Int)
  /-- R118: Conditional branch on sa, PC-relative. -/
  | br (c : Cond) (a : Fin 32) (o : Int)
  /-- R118: Unconditional PC-relative jump. -/
  | jmp (o : Int)
  /-- R118: PC-relative call linking into s31. -/
  | call (o : Int)
  /-- R119: Jump to the address in sa; RET is JR s31. -/
  | jr (a : Fin 32)
  /-- R119: Call to the address in sa, linking into s31. -/
  | callr (a : Fin 32)
  /-- R122: Pushes a hardware loop counted by sa. -/
  | loop (a : Fin 32) (e : Nat)
  /-- R122: Pushes a hardware loop with an immediate count. -/
  | loopi (n : Fin 1024) (e : Nat)
  /-- R123: Leaves the innermost hardware loop. -/
  | brkl
  /-- R124: Reads the remaining count of a loop level. -/
  | lidx (d : Fin 32) (k : Fin 6)
  /-- R127: Copies EM or CM to a scalar register. -/
  | msave (d : Fin 32) (m : Mask)
  /-- R127: Loads EM or CM from sa. -/
  | mrest (m : Mask) (a : Fin 32)
  /-- R127: Ands a mask with the other mask or sa. -/
  | mand (m : Mask) (y : MaskY)
  /-- R127: Ors a mask with the other mask or sa. -/
  | mor (m : Mask) (y : MaskY)
  /-- R127: Ands a mask with the complement of Y. -/
  | mandn (m : Mask) (y : MaskY)
  /-- R127: Sets a mask to its low k bits. -/
  | mset (m : Mask) (a : Fin 32)
  /-- R127: Copies the other mask into a mask. -/
  | mcmv (m : Mask)
  /-- R127: Counts the one bits of a mask. -/
  | mpopc (d : Fin 32) (m : Mask)
  /-- R128: Reads a special register. -/
  | rdsr (d : Fin 32) (r : Fin 4096)
  /-- R129: Writes a special register. -/
  | wrsr (r : Fin 4096) (a : Fin 32)
  /-- R74: Loads one or two pool words through the instruction cache. -/
  | ldc (d : Fin 32) (z : LdcSz) (o : Int)
  /-- R161: Lane-wise 32-bit add. -/
  | vaddI32 (d : Fin 64) (a b : Sel)
  /-- R161: Lane-wise 32-bit subtract. -/
  | vsubI32 (d : Fin 64) (a b : Sel)
  /-- R161: Low 32 bits of the lane product. -/
  | vmulI32 (d : Fin 64) (a b : Sel)
  /-- R161: High 32 bits of the signed lane product. -/
  | vmulhI32 (d : Fin 64) (a b : Sel)
  /-- R161: Wrapping add of 16-bit elements. -/
  | vaddI16 (d : Fin 64) (a b : Sel)
  /-- R161: Wrapping subtract of 16-bit elements. -/
  | vsubI16 (d : Fin 64) (a b : Sel)
  /-- R161: Wrapping add of 8-bit elements. -/
  | vaddI8 (d : Fin 64) (a b : Sel)
  /-- R161: Wrapping subtract of 8-bit elements. -/
  | vsubI8 (d : Fin 64) (a b : Sel)
  /-- R161: Saturating add of 16-bit elements. -/
  | vaddsI16 (d : Fin 64) (a b : Sel)
  /-- R161: Saturating subtract of 16-bit elements. -/
  | vsubsI16 (d : Fin 64) (a b : Sel)
  /-- R161: Saturating add of 8-bit elements. -/
  | vaddsI8 (d : Fin 64) (a b : Sel)
  /-- R161: Saturating subtract of 8-bit elements. -/
  | vsubsI8 (d : Fin 64) (a b : Sel)
  /-- R161: Signed lane minimum. -/
  | vminI32 (d : Fin 64) (a b : Sel)
  /-- R161: Signed lane maximum. -/
  | vmaxI32 (d : Fin 64) (a b : Sel)
  /-- R161: Unsigned lane minimum. -/
  | vminuI32 (d : Fin 64) (a b : Sel)
  /-- R161: Unsigned lane maximum. -/
  | vmaxuI32 (d : Fin 64) (a b : Sel)
  /-- R161: Lane-wise and. -/
  | vand (d : Fin 64) (a b : Sel)
  /-- R161: Lane-wise or. -/
  | vor (d : Fin 64) (a b : Sel)
  /-- R161: Lane-wise exclusive or. -/
  | vxor (d : Fin 64) (a b : Sel)
  /-- R162: Three-input bitwise truth table from the header lend. -/
  | vlut3 (d : Fin 64) (a b : Sel) (tt : Fin 256)
  /-- R161: Lane-wise shift left. -/
  | vshl (d : Fin 64) (a b : Sel)
  /-- R161: Lane-wise logical shift right. -/
  | vshr (d : Fin 64) (a b : Sel)
  /-- R161: Lane-wise arithmetic shift right. -/
  | vsra (d : Fin 64) (a b : Sel)
  /-- R162: Funnel shift left by a lent count. -/
  | vfshl (d : Fin 64) (a b : Sel) (n : Fin 32)
  /-- R162: Funnel shift right by a lent count. -/
  | vfshr (d : Fin 64) (a b : Sel) (n : Fin 32)
  /-- R163: Integer equality compare into CM. -/
  | vcmpeqI32 (a b : Sel)
  /-- R163: Signed less-than compare into CM. -/
  | vcmpltI32 (a b : Sel)
  /-- R163: Unsigned less-than compare into CM. -/
  | vcmpltuI32 (a b : Sel)
  /-- R163: FP32 equality compare into CM. -/
  | vcmpeqF32 (a b : Sel)
  /-- R163: FP32 less-than compare into CM. -/
  | vcmpltF32 (a b : Sel)
  /-- R163: FP32 less-or-equal compare into CM. -/
  | vcmpleF32 (a b : Sel)
  /-- R163: FP32 unordered compare into CM. -/
  | vcmpunF32 (a b : Sel)
  /-- R164: Selects lanes by CM. -/
  | vsel (d : Fin 64) (a b : Sel)
  /-- R165: FP32 add under RMODE. -/
  | vfaddF32 (d : Fin 64) (a b : Sel)
  /-- R165: FP32 subtract under RMODE. -/
  | vfsubF32 (d : Fin 64) (a b : Sel)
  /-- R165: FP32 multiply under RMODE. -/
  | vfmulF32 (d : Fin 64) (a b : Sel)
  /-- R165: FP32 fused multiply-add into vd. -/
  | vfmaF32 (d : Fin 64) (a b : Sel)
  /-- R166: FP32 minimum without rounding. -/
  | vfminF32 (d : Fin 64) (a b : Sel)
  /-- R166: FP32 maximum without rounding. -/
  | vfmaxF32 (d : Fin 64) (a b : Sel)
  /-- R165: BF16 pair add. -/
  | vfaddBf16 (d : Fin 64) (a b : Sel)
  /-- R165: BF16 pair multiply. -/
  | vfmulBf16 (d : Fin 64) (a b : Sel)
  /-- R165: BF16 pair fused multiply-add. -/
  | vfmaBf16 (d : Fin 64) (a b : Sel)
  /-- R165: FP16 pair add. -/
  | vfaddF16 (d : Fin 64) (a b : Sel)
  /-- R165: FP16 pair multiply. -/
  | vfmulF16 (d : Fin 64) (a b : Sel)
  /-- R165: FP16 pair fused multiply-add. -/
  | vfmaF16 (d : Fin 64) (a b : Sel)
  /-- R168: Format conversion selected by CODE, PART and RM. -/
  | vcvt (d : Fin 64) (a : Sel) (code : CvtCode) (part : Fin 4) (rm : Bool)
  /-- R170: Quantises FP32 lanes into packed codes with block records. -/
  | vqnt (t : QFmt) (d : Fin 64) (a b : Sel)
  /-- R171: Decodes packed codes to FP32 with block records. -/
  | vdqnt (d : Fin 64) (a b : Sel)
  /-- R169: Largest magnitude of each 32-lane block. -/
  | vbmax (d : Fin 64) (a : Sel)
  /-- R172: Reciprocal. -/
  | vrcp (d : Fin 64) (a : Sel) (f : SfFmt)
  /-- R172: Reciprocal square root. -/
  | vrsq (d : Fin 64) (a : Sel) (f : SfFmt)
  /-- R172: Square root. -/
  | vsqrt (d : Fin 64) (a : Sel) (f : SfFmt)
  /-- R172: Power of two. -/
  | vexp2 (d : Fin 64) (a : Sel) (f : SfFmt)
  /-- R172: Base-2 logarithm. -/
  | vlog2 (d : Fin 64) (a : Sel) (f : SfFmt)
  /-- R172: sin(pi x). -/
  | vsinpi (d : Fin 64) (a : Sel) (f : SfFmt)
  /-- R172: cos(pi x). -/
  | vcospi (d : Fin 64) (a : Sel) (f : SfFmt)
  /-- R172: Hyperbolic tangent. -/
  | vtanh (d : Fin 64) (a : Sel) (f : SfFmt)
  /-- R173: Lane permutation selected by opb. -/
  | vperm (d : Fin 64) (a b : Sel)
  /-- R174: Rotates lanes by a scalar amount. -/
  | vrot (d : Fin 64) (a : Sel) (b : Fin 32)
  /-- R174: Broadcasts a scalar into every lane. -/
  | vbcst (z : BcSz) (d : Fin 64) (b : Fin 32)
  /-- R174: Extracts one lane into a scalar register. -/
  | vext (sx : Bool) (d : Fin 32) (a : Sel) (b : Fin 32)
  /-- R174: Inserts a scalar into one lane. -/
  | vins (d : Fin 64) (b : Fin 32) (k : Fin 64)
  /-- R175: Fixed-tree reduction of 64 lanes into a scalar. -/
  | vred (op : RedOp) (d : Fin 32) (a : Sel)
  /-- R176: Population count over enabled lanes into a scalar. -/
  | vpopc (d : Fin 32) (a : Sel)
  /-- R161: Leading zeros of each lane. -/
  | vclz (d : Fin 64) (a : Sel)
  /-- R176: Lane index or compacted CM position. -/
  | viota (cm : Bool) (d : Fin 64)
  /-- R161: Moves a row or view into a row. -/
  | vmov (d : Fin 64) (a : Sel)
  /-- R177: Adds a sign-extended 8-bit immediate. -/
  | vaddiI32 (d : Fin 64) (a : Sel) (i : BitVec 8)
  /-- R177: And with a sign-extended 8-bit immediate. -/
  | vandi (d : Fin 64) (a : Sel) (i : BitVec 8)
  /-- R177: Shift left by an immediate. -/
  | vshli (d : Fin 64) (a : Sel) (n : Fin 32)
  /-- R177: Logical shift right by an immediate. -/
  | vshri (d : Fin 64) (a : Sel) (n : Fin 32)
  /-- R177: Arithmetic shift right by an immediate. -/
  | vsrai (d : Fin 64) (a : Sel) (n : Fin 32)
  /-- R177: Writes a sign-extended immediate to every lane. -/
  | vmovi (d : Fin 64) (i : BitVec 8)
  /-- R202: Loads a vector row from scratchpad, optionally waiting on full-empty bits. -/
  | ldv (q : QLoad) (d : Fin 64) (a : Fin 32) (o : Int)
  /-- R202: Stores a vector row to scratchpad, optionally setting full-empty bits. -/
  | stv (q : QStore) (v : Fin 64) (a : Fin 32) (o : Int)
  /-- R203: Scalar 8-byte scratchpad load. -/
  | ldsD (q : QLoad) (d a : Fin 32) (o : Int)
  /-- R203: Scalar 4-byte sign-extending scratchpad load. -/
  | ldsW (q : QLoad) (d a : Fin 32) (o : Int)
  /-- R203: Scalar 4-byte zero-extending scratchpad load. -/
  | ldsWu (q : QLoad) (d a : Fin 32) (o : Int)
  /-- R203: Scalar 2-byte scratchpad load. -/
  | ldsH (q : QLoad) (d a : Fin 32) (o : Int)
  /-- R203: Scalar 1-byte scratchpad load. -/
  | ldsB (q : QLoad) (d a : Fin 32) (o : Int)
  /-- R203: Scalar 8-byte scratchpad store. -/
  | stsD (q : QStore) (v a : Fin 32) (o : Int)
  /-- R203: Scalar 4-byte scratchpad store. -/
  | stsW (q : QStore) (v a : Fin 32) (o : Int)
  /-- R203: Scalar 2-byte scratchpad store. -/
  | stsH (q : QStore) (v a : Fin 32) (o : Int)
  /-- R203: Scalar 1-byte scratchpad store. -/
  | stsB (q : QStore) (v a : Fin 32) (o : Int)
  /-- R204: Gathers lanes from scratchpad by an index row. -/
  | ldvg (d : Fin 64) (a : Fin 32) (x : Fin 64)
  /-- R204: Scatters lanes to scratchpad by an index row. -/
  | stvs (v : Fin 64) (a : Fin 32) (x : Fin 64)
  /-- R205: Sets a granule's full-empty bit. -/
  | feset (a : Fin 32) (o : Int)
  /-- R205: Clears a granule's full-empty bit. -/
  | feclr (a : Fin 32) (o : Int)
  /-- R205: Reads 64 full-empty bits into a scalar. -/
  | fetest (d a : Fin 32) (o : Int)
  /-- R206: Scoreboarded 8-byte global load. -/
  | ldgD (f : Bool) (d a : Fin 32) (o : Int)
  /-- R206: Scoreboarded 4-byte global load. -/
  | ldgW (f : Bool) (d a : Fin 32) (o : Int)
  /-- R206: Scoreboarded global load of a vector row. -/
  | ldgv (f : Bool) (d : Fin 64) (a : Fin 32) (o : Int)
  /-- R250: Queues a byte copy between endpoints. -/
  | cpy (l : CopyLend) (a b c : Fin 32) (h : Hnd)
  /-- R251: Queues a strided copy described by a shape record. -/
  | cpys (l : CopyLend) (a b c : Fin 32) (h : Hnd)
  /-- R250: Queues a clear of a destination range. -/
  | cpyz (l : CopyLend) (a c : Fin 32) (h : Hnd)
  /-- R254: Accumulate-on-write 32-bit integer add. -/
  | cpyaAddi32 (l : CopyLend) (a b c : Fin 32) (h : Hnd)
  /-- R254: Accumulate-on-write 64-bit integer add. -/
  | cpyaAddi64 (l : CopyLend) (a b c : Fin 32) (h : Hnd)
  /-- R254: Adds floating-point addends into accumulator cells. -/
  | cpyaAddf (l : CopyLend) (a b c : Fin 32) (h : Hnd)
  /-- R254: Accumulate-on-write minimum. -/
  | cpyaMin (l : CopyLend) (a b c : Fin 32) (h : Hnd)
  /-- R254: Accumulate-on-write maximum. -/
  | cpyaMax (l : CopyLend) (a b c : Fin 32) (h : Hnd)
  /-- R254: Accumulate-on-write or. -/
  | cpyaOr (l : CopyLend) (a b c : Fin 32) (h : Hnd)
  /-- R254: Accumulate-on-write and. -/
  | cpyaAnd (l : CopyLend) (a b c : Fin 32) (h : Hnd)
  /-- R254: Accumulate-on-write exclusive or. -/
  | cpyaXor (l : CopyLend) (a b c : Fin 32) (h : Hnd)
  /-- R255: Fetch-and-add on a global word. -/
  | fopAdd (l : CopyLend) (a b c : Fin 32) (h : Hnd)
  /-- R255: Bounded fetch-and-add on a global word. -/
  | fopBadd (l : CopyLend) (a b c : Fin 32) (h : Hnd)
  /-- R255: Fetch-and-swap on a global word. -/
  | fopSwap (l : CopyLend) (a b c : Fin 32) (h : Hnd)
  /-- R255: Compare-and-swap on a global word. -/
  | fopCas (l : CopyLend) (a b : Fin 32) (h : Hnd)
  /-- R261: Returns the copy engine's status for the context. -/
  | cpyq (c : Fin 32)
  /-- R229: Writes a pair of shadow matrix registers. -/
  | mxcfg (n : Fin 8) (a b : Fin 32)
  /-- R230: Commits one matrix operation to the matrix queue. -/
  | mxgo (h : Hnd)
  /-- R231: Waits until few enough matrix commands are incomplete. -/
  | mxwait (a : Fin 32)
  /-- R232: Takes the tile claim and sets HOLD. -/
  | mxlease
  /-- R218: Offers the odd core's tile store to a pair lease. -/
  | mxleaseJoin
  /-- R232: Clears HOLD. -/
  | mxfree
  /-- R218: Withdraws the join once the partner's wide operations complete. -/
  | mxfreeJoin
  /-- R232: Waits for an empty queue and releases the tile claim. -/
  | mxfreeClaim
  /-- R233: Loads a tile-store region from scratchpad. -/
  | mxld (a b : Fin 32) (st : Bool) (h : Hnd)
  /-- R233: Stores a tile-store region to scratchpad. -/
  | mxst (a b : Fin 32) (st : Bool) (h : Hnd)
  /-- R233: Zeroes a tile-store region. -/
  | mxz (b : Fin 32) (st : Bool) (h : Hnd)
  /-- R234: Sets an operand ring's descriptor. -/
  | ringset (q : Fin 8) (a c : Fin 32)
  /-- R234: Advances a ring's tail by n panels. -/
  | ringpush (q : Fin 8) (a : Fin 32)
  /-- R234: Reads a ring's HEAD and TAIL. -/
  | ringstat (c : Fin 32) (q : Fin 8)
  /-- R235: Declares a scale table. -/
  | sctab (a b c : Fin 32)
  /-- R235: Removes a scale table declaration. -/
  | scinv (a : Fin 32)
  /-- R236: Reads the matrix status word. -/
  | mxstat (c : Fin 32)
  /-- R273: Binds a handle to a phaser object, optionally initialising it. -/
  | phbind (c a : Fin 32) (h : Fin 96)
  /-- R274: Registers a handle in a mode. -/
  | phreg (m : RegMode) (h : Fin 96)
  /-- R274: Drops a handle's registration. -/
  | phdrop (h : Fin 96)
  /-- R275: Delivers one arrival through a handle with a release. -/
  | phsig (p : Scope) (h : Fin 96)
  /-- R276: Waits for the handle's local phase to complete, then acquires. -/
  | phwait (p : Scope) (h : Fin 96)
  /-- R276: Signals and then waits through one handle. -/
  | phnext (p : Scope) (h : Fin 96)
  /-- R275: Delivers n anonymous arrivals with a release. -/
  | phadd (p : Scope) (h : Fin 96) (a : Fin 32)
  /-- R277: Reads the state of a handle's object. -/
  | phtest (c : Fin 32) (h : Fin 96)
  /-- R324: Takes a lease table entry and starts a lease request. -/
  | bwreq (c a b : Fin 32) (h : Hnd)
  /-- R325: Ends a lease and records its end handle. -/
  | bwrel (a : Fin 32) (h : Hnd)
  /-- R326: Reads a lease's summary or port detail. -/
  | bwqry (c a : Fin 32)
  /-- R320: Sends one message through a TX landing ring. -/
  | puts (l : CopyLend) (a b c : Fin 32) (h : Hnd)
  /-- R322: Releases slots of an RX landing ring. -/
  | rels (a b : Fin 32)
  /-- R319: Sets a landing ring from a landing record. -/
  | lrset (c a : Fin 32) (h : Hnd)
  /-- R327: Reads fabric or port status. -/
  | fabst (c a : Fin 32)
  /-- R352: Hands a collective record to the Orrery. -/
  | coll (c a : Fin 32) (h : Fin 96)
  /-- R353: Reads the state of a collective ticket. -/
  | collq (c a : Fin 32)
  /-- R110: Releases gang members into independent streams. -/
  | decpl
  /-- R111: Raises the member's arrival to rejoin the gang and waits. -/
  | rejn
  /-- R279: Waits for earlier commands, then releases and acquires. -/
  | fence (p : Scope)
  /-- R88: Invalidates instruction-cache lines over a range within a scope. -/
  | icinv (p : Scope) (a b : Fin 32)
  /-- R89: Empties the context's fetch buffer. -/
  | fetchb
  /-- R133: Appends a kernel record pointer to a device-fed launch queue. -/
  | launch (c a b : Fin 32)
  /-- R131: Retires the instance once results land; trailing work continues. -/
  | halt
  /-- R359: Completes its bundle and raises cause TRAP. -/
  | trap (a : Fin 32)
  /-- R359: Leaves the handler and transfers to TPC. -/
  | eret
  /-- R372: Posts a service request to the Zenith controller. -/
  | smc (c a b : Fin 32)
  /-- R359: Completes its bundle and raises cause BRK. -/
  | brk
  /-- R371: Waits for a deadline, a wake flag or a phaser event. -/
  | waitev (c a : Fin 32) (h : Hnd)
  /-- R373: Removes TLB entries within a scope. -/
  | tlbinv (p : Scope) (a b : Fin 32)
  /-- R112: Offers the next issue cycle to the other context. -/
  | yield
  /-- R370: Requests a halt of a target instance. -/
  | ctxctlHalt (c a b : Fin 32) (h : Hnd)
  /-- R370: Discards the uncompleted copy commands of a halted target. -/
  | ctxctlFlush (c a b : Fin 32) (h : Hnd)
  /-- R370: Restarts a halted target at CODE_BASE plus an offset. -/
  | ctxctlRestart (c a b : Fin 32) (h : Hnd)
  /-- R370: Resumes a halted target at its PC. -/
  | ctxctlResume (c a b : Fin 32) (h : Hnd)
  /-- R370: Sets a target's wake flag. -/
  | ctxctlWake (c a b : Fin 32) (h : Hnd)
  /-- R369: Reads another instance's WAITST or state word. -/
  | wstat (c a b : Fin 32)
  /-- R47: Host write of a queue's TAIL count, ignored with OVF on overflow; the Zenith controller's, to a secure queue (R388). -/
  | qtailWrite (q : QueueAt) (v : W32)
  /-- R45: Host write of queue configuration, enabling or disabling the queue; the Zenith controller's, of a secure queue (R388). -/
  | qcfgWrite (q : QueueAt) (v : W32)
  /-- R362: Saves and requeues every placed kernel of a queue. -/
  | kstopPreempt (q : QueueAt)
  /-- R362: Kills every placed kernel of a queue with status KILLED. -/
  | kstopKill (q : QueueAt)
  /-- R264: Host write of word 0 initialises a phaser object. -/
  | phaserObjectInit (o : Fin 16384) (phase : W32) (anon : BitVec 16)
  /-- R15: Host write to a BAR0 register that has no row of its own; the Zenith controller's, to a secure queue's (R388). -/
  | registerWrite (off : RegAt) (n : Nat) (v : W64)
  /-- R387: A host read of a BAR0 register returns the device from C1 to C3 to C0 and is answered once exit completes. -/
  | bar0RegisterRead (off n : Nat)
  /-- R381: Host write into HBM through BAR2. -/
  | hostBar2Write (off : Nat) (data : List Byte)
  /-- R381: Host read of HBM through BAR2. -/
  | hostBar2Read (off n : Nat)
  /-- R385: Host lifts quarantine of a unit. -/
  | qliftWrite (u : BitVec 16)
  /-- R387: Host writes its latency tolerance and the device returns to C0. -/
  | ltrWrite (v : W32)
  /-- R384: Host answer RETRY makes parked accesses walk again. -/
  | pfansRetry (asid : Fin 64) (page : W32)
  /-- R384: Host answer FAIL raises XLATE with kind HOSTFAIL. -/
  | pfansFail (asid : Fin 64) (page : W32)
  /-- R303: FCTL.EN is written 1 and the fabric starts synchronising. -/
  | fabricEnable (ports : BitVec 16)
  /-- R303: FCTL.EN is written 0 and every lease ends at once. -/
  | fabricDisable (ports : BitVec 16)
  /-- R303: Writing SRCCAP may revoke the youngest incoming leases. -/
  | lpolWrite (v : W32)
  /-- R303: Revokes a source's incoming leases on named ports. -/
  | revokeWrite (node : BitVec 13) (ports : BitVec 16)
  /-- R317: Writes a partition membership entry, possibly revoking leases. -/
  | membershipWrite (j : Fin 256) (v : W32)
  /-- R311: A WRITE flit is checked and performed at the home slices. -/
  | flitWriteRx (p : Fin 16) (k : Fin 128) (f : Flit)
  /-- R312: A READRSP's bytes are written to the copy's destination. -/
  | flitReadrspRx (p : Fin 16) (k : Fin 128) (f : Flit)
  /-- R312: A performed acknowledgement counts a command's flits as performed. -/
  | performedAckRx (src : BitVec 13) (tag : BitVec 16) (n : Nat) (bad : Option FaultRec)
  /-- R329: A link acknowledgement frees replay-store copies and free slots. -/
  | linkAckRx (p : Fin 16) (k : Fin 128) (a : LinkAck) (f0 f1 f2 : Nat)
  /-- R294: A TIME flit arrives and disciplines Sidereal time. -/
  | timeFlitRx (p : Fin 16) (k : Fin 128) (f : TimeFlit) (agree : Bool)
  /-- R304: A grant, denial or HELD answer reaches the sender. -/
  | leaseAnswerRx (src : BitVec 13) (lid : Fin 256) (p : Fin 16) (a : LeaseReply)
  /-- R297: Ephemeris banks swap at the start of a frame. -/
  | frameBoundary (agree : Bool)
  /-- R374: SECDED detects an error and corrects, drops or poisons. -/
  | eccError (e : EccSite)
  /-- R390: The Zenith controller runs the boot steps. -/
  | powerOnBoot (outcomes : List (Option W32))
  /-- R49: Dispatcher reads entry HEAD and its record and advances HEAD. -/
  | takeQueueEntry (q : Fin 64)
  /-- R53: Dispatcher sees a phase change or break of a named object. -/
  | dependenceEventSeen (o : Fin 16384)
  /-- R59: Dispatcher places the first fitting eligible candidate. -/
  | placementDecision
  /-- R58: An instance starts once its preparation ends. -/
  | instanceStart (x : Nat)
  /-- R62: A preload starts once all its wait entries are satisfied. -/
  | preloadStart (kid : Nat)
  /-- R60: An instance's cycle count reaches BUDGET and the kernel is halted. -/
  | budgetOverrun (kid : Nat)
  /-- R60: Once instances are saved, the kernel becomes a candidate again. -/
  | requeueSettle (kid : Nat)
  /-- R360: When every instance has halted, the kill reruns or finishes the kernel. -/
  | killSettle (kid : Nat)
  /-- R131: A halted instance's trailing work is performed and its context freed. -/
  | instanceRetireDone (x : Nat)
  /-- R386: End of the holdoff interval raises a pending completion interrupt. -/
  | cintHoldoffExpiry
  /-- R67: An instruction-cache line fill from the last-level cache completes. -/
  | icacheFill (core line : Nat) (gs : BitVec 8)
  /-- R68: The fetch buffer takes in a packet ahead of execution. -/
  | fetchBufferFill (x : Nat)
  /-- R92: W reaches 32 and context 1 issues alone. -/
  | forcedIssue (core : Nat)
  /-- R94: A non-interlocked result lands and ORs its flags into ARITH. -/
  | resultLands (x j : Nat)
  /-- R206: A scoreboarded load or status destination lands. -/
  | loadResultLands (x j : Nat) (g : LoadTake)
  /-- R107: A CHECK pair compares a bundle's commit signatures. -/
  | checkSignatureCompare (core : Nat)
  /-- R184: A waiting .W or .WC load issues once its wait set is full. -/
  | feWaitEnd (x : Nat)
  /-- R185: A full-empty wait reaches FEWDOG.LIMIT. -/
  | feWatchdog (x : Nat)
  /-- R368: A blocking wait reaches WAITDOG.LIMIT. -/
  | waitTimeout (x : Nat)
  /-- R276: A phaser wait ends after the satisfying advance. -/
  | phwaitEnd (x : Nat)
  /-- R275: A held-back member signal may issue. -/
  | phsigHoldEnd (x : Nat)
  /-- R238: A copy command waiting for a queue entry takes one and issues. -/
  | copyEntryFree (x : Nat)
  /-- R234: A waiting RINGPUSH finds room and advances TAIL. -/
  | ringpushEnd (x : Nat)
  /-- R230: A matrix command waiting for queue room enters the queue. -/
  | matrixQueueRoom (x : Nat)
  /-- R214: A context waiting for the tile claim takes it. -/
  | tileClaimGrant (x : Nat)
  /-- R231: MXWAIT ends, raising a fault or ORing status into ARITH. -/
  | mxwaitEnd (x : Nat)
  /-- R88: The invalidation is performed in every cache in scope. -/
  | icinvComplete (x : Nat)
  /-- R111: All members have arrived and broadcast resumes from the lead. -/
  | rejnComplete (g : Nat)
  /-- R279: Earlier commands have completed and FENCE releases and acquires. -/
  | fenceComplete (x : Nat)
  /-- R371: A WAITEV event holds and the result is written. -/
  | waitevEnd (x : Nat)
  /-- R373: Every access through removed entries has been performed. -/
  | tlbinvComplete (x : Nat)
  /-- R223: A wait for a scale table or ring to be free ends. -/
  | tableUnpinEnd (x : Nat)
  /-- R194: A page-table walk completes, installing a translation or faulting. -/
  | translationWalkEnd (core : Nat) (asid : Fin 64) (va : Addr)
  /-- R362: A halt request reaches a targeted context. -/
  | haltRequestArrives (x : Nat)
  /-- R363: A context halts at a blocking wait or loop boundary. -/
  | contextHalt (x : Nat)
  /-- R363: PSLACK expires and the context halts mid-iteration. -/
  | forcedHalt (x : Nat)
  /-- R365: A halted instance is written to its save record. -/
  | instanceSave (x : Nat)
  /-- R238: The copy engine starts a queued command. -/
  | commandStart (core j upto : Nat)
  /-- R253: A ring copy waiting for a free slot resumes writing. -/
  | ringPanelRoom (core j upto : Nat)
  /-- R320: A PUTS waiting for a free landing slot sends its message. -/
  | putsSlotRoom (core j : Nat)
  /-- R246: Every write of a command is performed and its arrival delivered. -/
  | commandComplete (core j : Nat)
  /-- R217: The array grants the lease to the next requester. -/
  | mxRunStart (g : Nat)
  /-- R216: A run ends by count, operation limit, requester loss or halt. -/
  | mxRunEnd (g : Nat)
  /-- R221: The array reads a panel once TAIL covers it and pops it. -/
  | mxPanelRead (g : Nat)
  /-- R222: A scale-cache miss is filled. -/
  | scaleMissFill (g t row blk : Nat)
  /-- R230: An operation drains, unpins its tables and arrives at its handle. -/
  | mxOpComplete (g : Nat)
  /-- R216: A suspended operation's partial accumulators are drained. -/
  | mxSuspendComplete (g : Nat)
  /-- R233: MXLD, MXST or MXZ is performed in queue order. -/
  | mxTileCmdComplete (x : Nat)
  /-- R218: The join takes effect after earlier tile commands. -/
  | mxJoinEffect (x : Nat)
  /-- R267: A member signal reaches a phaser object. -/
  | memberSignal (j : Nat)
  /-- R267: An anonymous arrival reaches a phaser object. -/
  | anonymousArrival (j : Nat)
  /-- R268: A registration or drop reaches a phaser object. -/
  | registrationArrives (j : Nat)
  /-- R293: A new slot begins and channels retune during the guard. -/
  | slotBoundary
  /-- R294: The device can no longer hold Sidereal time to within 4 ns. -/
  | syncLoss
  /-- R310: An emitter sends a flit in a sending opportunity. -/
  | flitSend (p : Fin 16) (ch : Fin 18) (j : Nat)
  /-- R311: A ZERO flit is checked and performed. -/
  | flitZeroRx (p : Fin 16) (k : Fin 128) (f : Flit)
  /-- R311: A CPYA or cell-add flit is performed element by element. -/
  | flitAtomicRx (p : Fin 16) (k : Fin 128) (f : Flit)
  /-- R312: A READREQ is checked, read and answered with READRSP flits. -/
  | flitReadreqRx (p : Fin 16) (k : Fin 128) (f : Flit)
  /-- R321: A LAND flit is written into its slot or writes the slot header. -/
  | flitLandRx (p : Fin 16) (k : Fin 128) (f : Flit)
  /-- R314: A flit for another node is forwarded with its hop class raised. -/
  | flitTransitRx (p : Fin 16) (k : Fin 128) (f : Flit)
  /-- R329: 64 accepted flits or 200 ns force a link acknowledgement. -/
  | lackDue (p : Fin 16) (k : Fin 128)
  /-- R330: A REPLAY CTRL flit announces replayed flits of a lost link. -/
  | replayRx (p : Fin 16) (k : Fin 128) (lp : Fin 16) (lk : Fin 128) (first : ReplayAt) (n : Nat)
  /-- R301: A lease request is collected for arbitration. -/
  | leaseRequestRx (r : LeaseReq)
  /-- R305: A forwarder's confirmation reaches the peer. -/
  | leaseConfirmRx (src : BitVec 13) (lid : Fin 256) (p : Fin 16)
  /-- R301: No answer within 16 us fails the port with TIMEOUT. -/
  | leaseAnswerTimeout (lid : Fin 256) (p : Fin 16)
  /-- R304: A release notice ends a lease port. -/
  | releaseNoticeRx (src : BitVec 13) (lid : Fin 256) (p : Fin 16)
  /-- R304: A revocation notice ends a lease port. -/
  | revocationNoticeRx (src : BitVec 13) (lid : Fin 256) (p : Fin 16)
  /-- R301: A CANCEL notice frees a late grant. -/
  | cancelNoticeRx (src : BitVec 13) (lid : Fin 256) (p : Fin 16)
  /-- R300: A displaced sender writes IDLE for its emitter. -/
  | displacementNoticeRx (p : Fin 16) (k : Fin 128) (gs : GroupsFrom)
  /-- R337: A LOSS notice reaches an affected peer. -/
  | lossNoticeRx (out : Bool) (p : Fin 16) (k : Fin 128)
  /-- R337: A SUBST notice reaches an affected peer. -/
  | substNoticeRx (out : Bool) (p : Fin 16) (k : Fin 128) (n : LineFrom)
  /-- R337: A REMOVE notice reaches an affected peer. -/
  | removeNoticeRx (out : Bool) (lid : Option (Fin 256)) (p : Fin 16) (n : LineFrom)
  /-- R339: A SKEW notice removes a port from ORD striping. -/
  | skewNoticeRx (lid : Fin 256) (p : Fin 16)
  /-- R322: A released RHEAD reaches the TX ring's sender. -/
  | rheadNoticeRx (r : Fin 1024) (rhead : W32)
  /-- R331: A flit unacknowledged or unsendable for 1 ms is abandoned. -/
  | flitAbandon (j : Nat)
  /-- R332: A comb line's power stays below threshold for 256 ns. -/
  | lossOfLight (p : Fin 16) (k : LostLight)
  /-- R332: A detector sees no light for 256 ns of an expected window. -/
  | lossOfSignal (p : Fin 16) (ch : Fin 18) (peerLit : Bool)
  /-- R333: A heater passes 90 percent of its range. -/
  | drift (p : Fin 16) (ch : Fin 36)
  /-- R333: The Vernier loop releases a channel to re-lock it. -/
  | retune (p : Fin 16) (ch : Fin 36)
  /-- R333: A retuned channel regains lock. -/
  | retuneRelock (p : Fin 16) (ch : Fin 36)
  /-- R333: A channel fails to regain lock within 200 us. -/
  | lockfail (p : Fin 16) (ch : Fin 36)
  /-- R335: A spare attempt locks or fails and the next repair step follows. -/
  | spareAttemptEnd (p : Fin 16) (k : Fin 128) (locked : Bool)
  /-- R338: Host repair answer: use the spare comb line. -/
  | repansSpareComb (p : Fin 16) (k : Fin 64)
  /-- R338: Host repair answer: use a spare emitter. -/
  | repansSpareEmitter (p : Fin 16) (k : Fin 64)
  /-- R338: Host repair answer: retry the original comb line. -/
  | repansRetryOriginal (p : Fin 16) (k : Fin 64)
  /-- R338: Host repair answer: remove the comb line. -/
  | repansRemove (p : Fin 16) (k : Fin 64)
  /-- R338: No host answer within 10 ms removes the comb line. -/
  | repansTimeout (p : Fin 16) (k : Fin 64)
  /-- R339: A port's ORD skew exceeds 2 us. -/
  | skewDetected (src : BitVec 13) (lid : Fin 256) (p : Fin 16)
  /-- R315: FCTL.RTCOMMIT requests a routing bank swap. -/
  | routingCommit
  /-- R348: An ANNOUNCE makes a collective key known. -/
  | announceRx (die : Fin 4) (comm : BitVec 16) (key : W64)
  /-- R348: The Orrery admits the least known key and sends ADMIT. -/
  | collAdmission (die : Fin 4) (t : Fin 64)
  /-- R348: An ADMIT from a member arrives. -/
  | admitRx (die : Fin 4) (comm : BitVec 16) (key : W64) (rank : Nat)
  /-- R346: The walker begins the transfer of one iteration. -/
  | collTransfer (die : Fin 4) (t : Fin 64)
  /-- R346: An RFWD message lands in a staging slot. -/
  | rfwdMessageRx (die : Fin 4) (comm : BitVec 16) (key : W64) (n : Nat) (d : RfwdData)
  /-- R347: A member's DONE arrives. -/
  | collDoneRx (die : Fin 4) (comm : BitVec 16) (key : W64) (rank : Nat)
  /-- R350: An ABORT faults the member's COLL. -/
  | abortRx (die : Fin 4) (comm : BitVec 16) (key : W64) (dog : Bool)
  /-- R350: A COLL without every ADMIT after 10 ms faults. -/
  | admissionWatchdog (die : Fin 4) (t : Fin 64)
  /-- R387: Returns the power state, then wakes the device to C0. -/
  | pstateRead
  /-- R387: An idle device enters the deepest allowed C-state. -/
  | enterLowPower
  /-- R387: Exit to C0 completes and waiting requests are performed. -/
  | lowPowerExit
  /-- R387: PCI Express power management places the device in D3. -/
  | d3Entry
  /-- R392: Writes a signed quote over the caller's buffer. -/
  | zenithAttest (j : Nat)
  /-- R389: Answers with the FAILED bits of the boot steps. -/
  | zenithBootinfo (j : Nat)
  /-- R389: Changes a world bit of a carve-out, core, port, Orrery, Meridian or queue. -/
  | zenithSetworld (j : Nat)
  /-- R389: Clears FAILED and STARTED of a boot step. -/
  | zenithBootclr (j : Nat)
  /-- R389: Runs diagnostics on a unit. -/
  | zenithDiag (j : Nat) (pass : Bool)
  /-- R385: In hardware mode diagnostics run on an idle quarantined unit. -/
  | zenithAutoDiag (u : BitVec 16) (pass : Bool)
  /-- R376: An uncorrectable dirty-line write-back is charged by writer tag. -/
  | writebackPoison (line : Nat)
  /-- R82: A bundle fails framing or decoding (unassigned OP, zero or B = 0 word begun sequentially, reserved field, composition breach) and raises ILLEGAL_ENC before any effect. -/
  | illegalEnc (x : Nat)
  /-- R71: A bundle is to begin in a packet whose fetch faulted, or in a pool packet, and XLATE, PERM or POOL_EXEC is raised at that address. -/
  | fetchFault (x : Nat)
  /-- R346: A peer Orrery frees an RFWD landing slot, and the sender's waiting RFWD send to that slot goes ahead. -/
  | rfwdSlotFree (die : Fin 4) (comm : BitVec 16) (key : W64) (n : Nat)
  /-- R332: A spare comb's secondary lines lose or regain power while not in use, which changes FABST SPC and whether spare comb lines can be tried. -/
  | spareCombLightChange (p : Fin 16) (on : Bool)
deriving DecidableEq, Repr

end Sys2Proof
end

