-- ==== Sys2Proof/WellFormed.lean ====
section
/-! DEFINITION. Well-formed instructions: the operand values that the encodings of chapters 04 to 16 admit. -/

namespace Sys2Proof

/-- `lo ≤ i ≤ hi`. -/
def inRange (i lo hi : Int) : Bool := decide (lo ≤ i) && decide (i ≤ hi)

/-- The values that a signed field of `n` bits takes alone or widened by a lend (04 R79). -/
def widOk (n : Nat) (i : Int) : Bool :=
  inRange i (-(2 ^ (n - 1) : Int) - 2 ^ n * 256) (2 ^ (n - 1) - 1 + 2 ^ n * 255)

/-- A special register index of the map that RDSR may read (05 R102). -/
def srReadable (i : Nat) : Bool :=
  decide (i < 5) || (decide (16 ≤ i) && decide (i < 20)) || (decide (32 ≤ i) && decide (i < 51)) ||
  (decide (64 ≤ i) && decide (i < 69)) || i == 80 || i == 81 || i == 96 || i == 112 || i == 128 || i == 129 ||
  i == 144 || i == 160 || i == 161

/-- A special register index whose access is RW (05 R102). -/
def srWritable (i : Nat) : Bool :=
  (decide (16 ≤ i) && decide (i < 20)) || i == 64 || i == 66 || i == 96 || i == 160 || i == 161

/-- A copy lend that decode admits: the scope is zero without ACQ and REL (11 R241). -/
def CopyLend.ok (l : CopyLend) : Bool := l.acq || l.rel || l.scope == .ctx

/-- Number of PART values of a VCVT code (08 R168). -/
def CvtCode.parts : CvtCode → Nat
  | .f32ToI32 | .i32ToF32 | .f32ToInt => 1
  | .f32ToBf16 | .bf16ToF32 | .f32ToF16 | .f16ToF32 => 2
  | .f32ToE4m3 | .e4m3ToF32 | .f32ToE5m2 | .e5m2ToF32 => 4

/-- The widening VCVT codes (08 R168). -/
def CvtCode.widening (c : CvtCode) : Bool :=
  c == .bf16ToF32 || c == .f16ToF32 || c == .e4m3ToF32 || c == .e5m2ToF32

/-- The narrowing VCVT codes (08 R168). -/
def CvtCode.narrowing (c : CvtCode) : Bool :=
  c == .f32ToBf16 || c == .f32ToF16 || c == .f32ToE4m3 || c == .f32ToE5m2

/-- The instruction's operands have values that its encoding admits. A happening has no encoding and is well formed. -/
def Instr.wf : Instr → Bool
  | .extr _ _ pos len1 => decide (pos.val + len1.val < 64)
  | .insr _ _ pos len1 => decide (pos.val + len1.val < 64)
  | .addi _ _ i => widOk 12 i
  | .andi _ _ i => widOk 12 i
  | .ori _ _ i => widOk 12 i
  | .xori _ _ i => widOk 12 i
  | .shli _ _ i => inRange i 0 63
  | .shri _ _ i => inRange i 0 63
  | .srai _ _ i => inRange i 0 63
  | .slti _ _ i => widOk 12 i
  | .lui _ i => widOk 12 i
  | .br c a o => widOk 14 o && (c != .always || a == 0)
  | .jmp o => widOk 14 o
  | .call o => widOk 14 o
  | .loop _ e => decide (e < 2097152)
  | .loopi _ e => decide (e < 2097152)
  | .rdsr _ r => srReadable r
  | .wrsr r _ => srWritable r
  | .ldc _ _ o => widOk 12 o
  | .vcvt _ _ code part rm => decide (part.val < code.parts) && (!code.widening || !rm)
  | .ldv _ _ _ o => widOk 9 o
  | .stv _ _ _ o => widOk 9 o
  | .ldsD _ _ _ o => widOk 10 o
  | .ldsW _ _ _ o => widOk 10 o
  | .ldsWu _ _ _ o => widOk 10 o
  | .ldsH _ _ _ o => widOk 10 o
  | .ldsB _ _ _ o => widOk 10 o
  | .stsD _ _ _ o => widOk 10 o
  | .stsW _ _ _ o => widOk 10 o
  | .stsH _ _ _ o => widOk 10 o
  | .stsB _ _ _ o => widOk 10 o
  | .feset _ o => widOk 10 o
  | .feclr _ o => widOk 10 o
  | .fetest _ _ o => widOk 10 o
  | .ldgD _ _ _ o => widOk 11 o
  | .ldgW _ _ _ o => widOk 11 o
  | .ldgv _ _ _ o => widOk 10 o
  | .cpy l _ _ _ _ => l.ok && (fun (x : Nat) => x == 0) l.opx
  | .cpys l _ _ _ _ => l.ok && (fun (x : Nat) => x == 0) l.opx
  | .cpyz l _ _ _ => l.ok && (fun (x : Nat) => x == 0) l.opx
  | .cpyaAddi32 l _ _ _ _ => l.ok && (fun (x : Nat) => x == 0) l.opx
  | .cpyaAddi64 l _ _ _ _ => l.ok && (fun (x : Nat) => x == 0) l.opx
  | .cpyaAddf l _ _ _ _ => l.ok && (fun (x : Nat) => decide (x < 4)) l.opx
  | .cpyaMin l _ _ _ _ => l.ok && (fun (x : Nat) => decide (x < 5)) l.opx
  | .cpyaMax l _ _ _ _ => l.ok && (fun (x : Nat) => decide (x < 5)) l.opx
  | .cpyaOr l _ _ _ _ => l.ok && (fun (x : Nat) => decide (x < 2)) l.opx
  | .cpyaAnd l _ _ _ _ => l.ok && (fun (x : Nat) => decide (x < 2)) l.opx
  | .cpyaXor l _ _ _ _ => l.ok && (fun (x : Nat) => decide (x < 2)) l.opx
  | .fopAdd l _ _ _ _ => l.ok && (fun (x : Nat) => decide (x < 2)) l.opx
  | .fopBadd l _ _ _ _ => l.ok && (fun (x : Nat) => x == 0) l.opx
  | .fopSwap l _ _ _ _ => l.ok && (fun (x : Nat) => decide (x < 2)) l.opx
  | .fopCas l _ _ _ => l.ok && (fun (x : Nat) => decide (x < 2)) l.opx
  | .puts l _ _ _ _ => l.ok && (fun (x : Nat) => x == 0) l.opx
  | .icinv p _ _ => p != .pod
  | .tlbinv p _ _ => p != .pod
  | .nop
  | .add _ _ _
  | .sub _ _ _
  | .and _ _ _
  | .or _ _ _
  | .xor _ _ _
  | .shl _ _ _
  | .shr _ _ _
  | .sra _ _ _
  | .mul _ _ _
  | .mulhs _ _ _
  | .mulhu _ _ _
  | .min _ _ _
  | .max _ _ _
  | .minu _ _ _
  | .maxu _ _ _
  | .seq _ _ _
  | .slt _ _ _
  | .sltu _ _ _
  | .sel _ _ _ _
  | .clz _ _
  | .popc _ _
  | .addw _ _ _
  | .jr _
  | .callr _
  | .brkl
  | .lidx _ _
  | .msave _ _
  | .mrest _ _
  | .mand _ _
  | .mor _ _
  | .mandn _ _
  | .mset _ _
  | .mcmv _
  | .mpopc _ _
  | .vaddI32 _ _ _
  | .vsubI32 _ _ _
  | .vmulI32 _ _ _
  | .vmulhI32 _ _ _
  | .vaddI16 _ _ _
  | .vsubI16 _ _ _
  | .vaddI8 _ _ _
  | .vsubI8 _ _ _
  | .vaddsI16 _ _ _
  | .vsubsI16 _ _ _
  | .vaddsI8 _ _ _
  | .vsubsI8 _ _ _
  | .vminI32 _ _ _
  | .vmaxI32 _ _ _
  | .vminuI32 _ _ _
  | .vmaxuI32 _ _ _
  | .vand _ _ _
  | .vor _ _ _
  | .vxor _ _ _
  | .vlut3 _ _ _ _
  | .vshl _ _ _
  | .vshr _ _ _
  | .vsra _ _ _
  | .vfshl _ _ _ _
  | .vfshr _ _ _ _
  | .vcmpeqI32 _ _
  | .vcmpltI32 _ _
  | .vcmpltuI32 _ _
  | .vcmpeqF32 _ _
  | .vcmpltF32 _ _
  | .vcmpleF32 _ _
  | .vcmpunF32 _ _
  | .vsel _ _ _
  | .vfaddF32 _ _ _
  | .vfsubF32 _ _ _
  | .vfmulF32 _ _ _
  | .vfmaF32 _ _ _
  | .vfminF32 _ _ _
  | .vfmaxF32 _ _ _
  | .vfaddBf16 _ _ _
  | .vfmulBf16 _ _ _
  | .vfmaBf16 _ _ _
  | .vfaddF16 _ _ _
  | .vfmulF16 _ _ _
  | .vfmaF16 _ _ _
  | .vqnt _ _ _ _
  | .vdqnt _ _ _
  | .vbmax _ _
  | .vrcp _ _ _
  | .vrsq _ _ _
  | .vsqrt _ _ _
  | .vexp2 _ _ _
  | .vlog2 _ _ _
  | .vsinpi _ _ _
  | .vcospi _ _ _
  | .vtanh _ _ _
  | .vperm _ _ _
  | .vrot _ _ _
  | .vbcst _ _ _
  | .vext _ _ _ _
  | .vins _ _ _
  | .vred _ _ _
  | .vpopc _ _
  | .vclz _ _
  | .viota _ _
  | .vmov _ _
  | .vaddiI32 _ _ _
  | .vandi _ _ _
  | .vshli _ _ _
  | .vshri _ _ _
  | .vsrai _ _ _
  | .vmovi _ _
  | .ldvg _ _ _
  | .stvs _ _ _
  | .cpyq _
  | .mxcfg _ _ _
  | .mxgo _
  | .mxwait _
  | .mxlease
  | .mxleaseJoin
  | .mxfree
  | .mxfreeJoin
  | .mxfreeClaim
  | .mxld _ _ _ _
  | .mxst _ _ _ _
  | .mxz _ _ _
  | .ringset _ _ _
  | .ringpush _ _
  | .ringstat _ _
  | .sctab _ _ _
  | .scinv _
  | .mxstat _
  | .phbind _ _ _
  | .phreg _ _
  | .phdrop _
  | .phsig _ _
  | .phwait _ _
  | .phnext _ _
  | .phadd _ _ _
  | .phtest _ _
  | .bwreq _ _ _ _
  | .bwrel _ _
  | .bwqry _ _
  | .rels _ _
  | .lrset _ _ _
  | .fabst _ _
  | .coll _ _ _
  | .collq _ _
  | .decpl
  | .rejn
  | .fence _
  | .fetchb
  | .launch _ _ _
  | .halt
  | .trap _
  | .eret
  | .smc _ _ _
  | .brk
  | .waitev _ _ _
  | .yield
  | .ctxctlHalt _ _ _ _
  | .ctxctlFlush _ _ _ _
  | .ctxctlRestart _ _ _ _
  | .ctxctlResume _ _ _ _
  | .ctxctlWake _ _ _ _
  | .wstat _ _ _
  | .qtailWrite _ _
  | .qcfgWrite _ _
  | .kstopPreempt _
  | .kstopKill _
  | .phaserObjectInit _ _ _
  | .registerWrite _ _ _
  | .takeQueueEntry _
  | .dependenceEventSeen _
  | .placementDecision
  | .instanceStart _
  | .preloadStart _
  | .budgetOverrun _
  | .requeueSettle _
  | .killSettle _
  | .instanceRetireDone _
  | .cintHoldoffExpiry
  | .icacheFill _ _ _
  | .fetchBufferFill _
  | .forcedIssue _
  | .resultLands _ _
  | .loadResultLands _ _ _
  | .checkSignatureCompare _
  | .feWaitEnd _
  | .feWatchdog _
  | .waitTimeout _
  | .phwaitEnd _
  | .phsigHoldEnd _
  | .copyEntryFree _
  | .ringpushEnd _
  | .matrixQueueRoom _
  | .tileClaimGrant _
  | .mxwaitEnd _
  | .icinvComplete _
  | .rejnComplete _
  | .fenceComplete _
  | .waitevEnd _
  | .tlbinvComplete _
  | .tableUnpinEnd _
  | .translationWalkEnd _ _ _
  | .pfansRetry _ _
  | .pfansFail _ _
  | .haltRequestArrives _
  | .contextHalt _
  | .forcedHalt _
  | .instanceSave _
  | .commandStart _ _ _
  | .ringPanelRoom _ _ _
  | .putsSlotRoom _ _
  | .commandComplete _ _
  | .mxRunStart _
  | .mxRunEnd _
  | .mxPanelRead _
  | .scaleMissFill _ _ _ _
  | .mxOpComplete _
  | .mxSuspendComplete _
  | .mxTileCmdComplete _
  | .mxJoinEffect _
  | .memberSignal _
  | .anonymousArrival _
  | .registrationArrives _
  | .slotBoundary
  | .frameBoundary _
  | .syncLoss
  | .flitSend _ _ _
  | .timeFlitRx _ _ _ _
  | .flitWriteRx _ _ _
  | .flitZeroRx _ _ _
  | .flitAtomicRx _ _ _
  | .flitReadreqRx _ _ _
  | .flitReadrspRx _ _ _
  | .flitLandRx _ _ _
  | .flitTransitRx _ _ _
  | .linkAckRx _ _ _ _ _ _
  | .performedAckRx _ _ _ _
  | .lackDue _ _
  | .replayRx _ _ _ _ _ _
  | .leaseRequestRx _
  | .leaseAnswerRx _ _ _ _
  | .leaseConfirmRx _ _ _
  | .leaseAnswerTimeout _ _
  | .releaseNoticeRx _ _ _
  | .revocationNoticeRx _ _ _
  | .cancelNoticeRx _ _ _
  | .displacementNoticeRx _ _ _
  | .lossNoticeRx _ _ _
  | .substNoticeRx _ _ _ _
  | .removeNoticeRx _ _ _ _
  | .skewNoticeRx _ _
  | .rheadNoticeRx _ _
  | .flitAbandon _
  | .lossOfLight _ _
  | .lossOfSignal _ _ _
  | .drift _ _
  | .retune _ _
  | .retuneRelock _ _
  | .lockfail _ _
  | .spareAttemptEnd _ _ _
  | .repansSpareComb _ _
  | .repansSpareEmitter _ _
  | .repansRetryOriginal _ _
  | .repansRemove _ _
  | .repansTimeout _ _
  | .skewDetected _ _ _
  | .fabricEnable _
  | .fabricDisable _
  | .routingCommit
  | .lpolWrite _
  | .revokeWrite _ _
  | .membershipWrite _ _
  | .announceRx _ _ _
  | .collAdmission _ _
  | .admitRx _ _ _ _
  | .collTransfer _ _
  | .rfwdMessageRx _ _ _ _ _
  | .collDoneRx _ _ _ _
  | .abortRx _ _ _ _
  | .admissionWatchdog _ _
  | .hostBar2Write _ _
  | .hostBar2Read _ _
  | .qliftWrite _
  | .ltrWrite _
  | .pstateRead
  | .enterLowPower
  | .lowPowerExit
  | .d3Entry
  | .powerOnBoot _
  | .zenithAttest _
  | .zenithBootinfo _
  | .zenithSetworld _
  | .zenithBootclr _
  | .zenithDiag _ _
  | .zenithAutoDiag _ _
  | .eccError _
  | .writebackPoison _
  | .illegalEnc _
  | .fetchFault _
  | .rfwdSlotFree _ _ _ _
  | .spareCombLightChange _ _
  | .bar0RegisterRead _ _ => true

end Sys2Proof
end

