-- ==== Sys2Proof/Decode.lean ====
section
/-! DEFINITION. Decoding and encoding of instruction words and bundles, from the encoding tables of chapters 04 to 16. -/

namespace Sys2Proof

/-! ## Fields -/

/-- The `n`-bit field of `w` whose lowest bit is `lo`. -/
def fld (w lo n : Nat) : Nat := w / 2 ^ lo % 2 ^ n

/-- A 5-bit register number at bit `lo`. -/
def r5 (w lo : Nat) : Fin 32 := Fin.ofNat 32 (w / 2 ^ lo)

/-- A 6-bit row or lane number at bit `lo`. -/
def r6 (w lo : Nat) : Fin 64 := Fin.ofNat 64 (w / 2 ^ lo)

/-- An `n`-bit two's complement field as an integer (00 R8). -/
def sextN (n x : Nat) : Int := if x < 2 ^ (n - 1) then (x : Int) else (x : Int) - 2 ^ n

/-- A signed field of `n` bits widened by lend `l` (04 R79). -/
def wid (n x l : Nat) : Int := sextN n x + 2 ^ n * sextN 9 l

/-- The field that encodes `i` (04 R79). -/
def lowF (n : Nat) (i : Int) : Nat := (i % 2 ^ n).toNat

/-- The lend that encodes `i` beside `lowF n i` (04 R79). -/
def lendF (n : Nat) (i : Int) : Nat := ((i - sextN n (lowF n i)) / 2 ^ n % 512).toNat

/-! ## Codes of operand fields -/

/-- Codes of cond (04 R77). -/
def condCode : Cond → Nat
  | .z => 0 | .nz => 1 | .ltz => 2 | .gez => 3 | .gtz => 4 | .lez => 5 | .always => 6

/-- Reads cond; 0b111 is reserved (04 R77). -/
def condOf : Nat → Option Cond
  | 0 => some .z | 1 => some .nz | 2 => some .ltz | 3 => some .gez | 4 => some .gtz | 5 => some .lez
  | 6 => some .always | _ => none

/-- fn[0] of a mask member (06 R127). -/
def maskCode : Mask → Nat | .em => 0 | .cm => 1

/-- Reads fn[0] of a mask member (06 R127). -/
def maskOf (w : Nat) : Mask := if w % 2 = 0 then .em else .cm

/-- The mask as a destination. -/
def Mask.dest : Mask → Dest | .em => .em | .cm => .cm

/-- fn[1] of a combining mask member (06 R127). -/
def MaskY.code : MaskY → Nat | .other => 0 | .reg _ => 1

/-- The sa field of a combining mask member. -/
def MaskY.regNum : MaskY → Nat | .other => 0 | .reg a => a

/-- The scalar sources of a combining mask member. -/
def MaskY.src : MaskY → List Src | .other => [] | .reg a => [.s a]

/-- Reads Y of a combining mask member (06 R127). -/
def maskYOf (w : Nat) : MaskY := if fld w 1 1 = 0 then .other else .reg (r5 w 12)

/-- Codes of SZ of LDC (04 R74). -/
def ldcCode : LdcSz → Nat | .w => 0 | .wu => 1 | .d => 2

/-- Reads SZ of LDC; 0b11 is reserved (04 R74). -/
def ldcOf : Nat → Option LdcSz
  | 0 => some .w | 1 => some .wu | 2 => some .d | _ => none

/-- An operand selector: dir [7:6], idx [5:0] (04 R78). -/
def selCode : Sel → Nat
  | .row i => i | .col i => 64 + i | .diag i => 128 + i

/-- Reads an operand selector; dir 0b11 is reserved (04 R78). -/
def selOf (x : Nat) : Option Sel :=
  match x / 64 % 4 with
  | 0 => some (.row (Fin.ofNat 64 x))
  | 1 => some (.col (Fin.ofNat 64 x))
  | 2 => some (.diag (Fin.ofNat 64 x))
  | _ => none

/-- The rows that a selector reads. -/
def selSrc : Sel → List Src
  | .row i => [.v i] | .col _ => [.allRows] | .diag _ => [.allRows]

/-- Codes of VCVT (08 R168). -/
def cvtCode : CvtCode → Nat
  | .f32ToI32 => 0 | .i32ToF32 => 1 | .f32ToInt => 2 | .f32ToBf16 => 3 | .bf16ToF32 => 4 | .f32ToF16 => 5
  | .f16ToF32 => 6 | .f32ToE4m3 => 7 | .e4m3ToF32 => 8 | .f32ToE5m2 => 9 | .e5m2ToF32 => 10

/-- Reads CODE of VCVT (08 R168). -/
def cvtOf : Nat → Option CvtCode
  | 0 => some .f32ToI32 | 1 => some .i32ToF32 | 2 => some .f32ToInt | 3 => some .f32ToBf16 | 4 => some .bf16ToF32
  | 5 => some .f32ToF16 | 6 => some .f16ToF32 | 7 => some .f32ToE4m3 | 8 => some .e4m3ToF32 | 9 => some .f32ToE5m2
  | 10 => some .e5m2ToF32 | _ => none

/-- Target codes of VQNT (04 R80). -/
def qfmtCode : QFmt → Nat | .e4m3 => 0 | .e5m2 => 1 | .e2m1x => 2 | .int8 => 3 | .int4 => 4

/-- Reads a target code (04 R80). -/
def qfmtOf : Nat → Option QFmt
  | 0 => some .e4m3 | 1 => some .e5m2 | 2 => some .e2m1x | 3 => some .int8 | 4 => some .int4 | _ => none

/-- imm8 of a special function (08 R172). -/
def sfCode : SfFmt → Nat | .f32 => 0 | .bf16 => 1 | .f16 => 2

/-- Reads imm8 of a special function (08 R172). -/
def sfOf : Nat → Option SfFmt | 0 => some .f32 | 1 => some .bf16 | 2 => some .f16 | _ => none

/-- fn of VBCST (08 R174). -/
def bcCode : BcSz → Nat | .w => 0 | .h => 1 | .b => 2

/-- Reads fn of VBCST (08 R174). -/
def bcOf : Nat → Option BcSz | 0 => some .w | 1 => some .h | 2 => some .b | _ => none

/-- fn of VRED (08 R175). -/
def redCode : RedOp → Nat
  | .addI32 => 0 | .addF32 => 1 | .minF32 => 2 | .maxF32 => 3 | .minI32 => 4 | .maxI32 => 5 | .minuI32 => 6
  | .maxuI32 => 7

/-- Reads fn of VRED (08 R175). -/
def redOf (w : Nat) : RedOp :=
  match w % 8 with
  | 0 => .addI32 | 1 => .addF32 | 2 => .minF32 | 3 => .maxF32 | 4 => .minI32 | 5 => .maxI32 | 6 => .minuI32
  | _ => .maxuI32

/-- q of a load (04 R78). -/
def qloadCode : QLoad → Nat | .plain => 0 | .wait => 1 | .waitClr => 2

/-- Reads q of a load (04 R78). -/
def qloadOf : Nat → Option QLoad | 0 => some .plain | 1 => some .wait | 2 => some .waitClr | _ => none

/-- q of a store (04 R78). -/
def qstoreCode : QStore → Nat | .plain => 0 | .full => 1 | .empty => 2

/-- Reads q of a store (04 R78). -/
def qstoreOf : Nat → Option QStore | 0 => some .plain | 1 => some .full | 2 => some .empty | _ => none

/-- Scope codes (04 R80). -/
def scopeCode : Scope → Nat
  | .ctx => 0 | .core => 1 | .group => 2 | .die => 3 | .device => 4 | .pod => 5

/-- Reads a scope; 0b110 and 0b111 are reserved (04 R80). -/
def scopeOf : Nat → Option Scope
  | 0 => some .ctx | 1 => some .core | 2 => some .group | 3 => some .die | 4 => some .device | 5 => some .pod
  | _ => none

/-- Mode immediate of PHREG (12 R272). -/
def regModeCode : RegMode → Nat | .sig => 1 | .wait => 2 | .sigwait => 3

/-- Reads the mode of PHREG (12 R272). -/
def regModeOf : Nat → Option RegMode | 1 => some .sig | 2 => some .wait | 3 => some .sigwait | _ => none

/-- The h field of an optional handle (04 R78). -/
def hndCode : Hnd → Nat | none => 127 | some h => h

/-- A copy lend's bits (11 R241). -/
def CopyLend.code (l : CopyLend) : Nat :=
  (bif l.acq then 256 else 0) + (bif l.rel then 128 else 0) + scopeCode l.scope * 16 + (bif l.ord then 8 else 0) + l.opx

/-! ## Decoding one word -/

/-- A check whose failure is a reserved field or value (04 R83). -/
def rsv (bad : Bool) (k : Except Reason Instr) : Except Reason Instr := bif bad then .error .reserved else k

/-- A word that takes no lend (04 R80). -/
def noLend (l : Nat) (k : Except Reason Instr) : Except Reason Instr := if l = 0 then k else .error .header

/-- A word that is legal only with a header whose lend bits are legal (04 R79, R80). -/
def hdrOk (ok : Bool) (k : Except Reason Instr) : Except Reason Instr := bif ok then k else .error .header

/-- The two selectors of V.VV (04 R78). -/
def sel2 (w : Nat) (k : Sel → Sel → Except Reason Instr) : Except Reason Instr :=
  match selOf (fld w 8 8), selOf (fld w 0 8) with
  | some a, some b => k a b
  | _, _ => .error .reserved

/-- The selector opa (04 R78). -/
def sel1 (w : Nat) (k : Sel → Except Reason Instr) : Except Reason Instr :=
  match selOf (fld w 8 8) with
  | some a => k a
  | none => .error .reserved

/-- A handle field that may be 127 (04 R78). -/
def withH (w : Nat) (k : Hnd → Except Reason Instr) : Except Reason Instr :=
  if fld w 0 7 = 127 then k none
  else if fld w 0 7 < 96 then k (some (Fin.ofNat 96 (fld w 0 7)))
  else .error .reserved

/-- A handle field that must name a handle (12 R272, 15 R351). -/
def withHReq (w : Nat) (k : Fin 96 → Except Reason Instr) : Except Reason Instr :=
  if fld w 0 7 < 96 then k (Fin.ofNat 96 (fld w 0 7)) else .error .reserved

/-- A copy lend, with the member's test of OPX (11 R241). -/
def copyLend (l : Nat) (opxOk : Nat → Bool) (k : CopyLend → Except Reason Instr) : Except Reason Instr :=
  match scopeOf (fld l 4 3) with
  | none => .error .reserved
  | some p =>
    let y : CopyLend := ⟨fld l 8 1 == 1, fld l 7 1 == 1, p, fld l 3 1 == 1, Fin.ofNat 8 l⟩
    rsv (!y.ok || !opxOk (l % 8)) (k y)

/-- The instruction of word `w` served by lend `l`, `h` telling whether the bundle has a header (04 R75 to R87).
The reason is the lowest of UNASSIGNED, RESERVED and HEADER that applies (R83); bit 31 is not read. -/
def decodeWord (w l : Nat) (h : Bool) : Except Reason Instr :=
  match w / 4194304 % 512 with
  | 0x000 => rsv (w % 4194304 != 0) (noLend l (.ok .nop))
  | 0x001 => rsv (fld w 0 7 != 0) (noLend l (.ok (.add (r5 w 17) (r5 w 12) (r5 w 7))))
  | 0x002 => rsv (fld w 0 7 != 0) (noLend l (.ok (.sub (r5 w 17) (r5 w 12) (r5 w 7))))
  | 0x003 => rsv (fld w 0 7 != 0) (noLend l (.ok (.and (r5 w 17) (r5 w 12) (r5 w 7))))
  | 0x004 => rsv (fld w 0 7 != 0) (noLend l (.ok (.or (r5 w 17) (r5 w 12) (r5 w 7))))
  | 0x005 => rsv (fld w 0 7 != 0) (noLend l (.ok (.xor (r5 w 17) (r5 w 12) (r5 w 7))))
  | 0x006 => rsv (fld w 0 7 != 0) (noLend l (.ok (.shl (r5 w 17) (r5 w 12) (r5 w 7))))
  | 0x007 => rsv (fld w 0 7 != 0) (noLend l (.ok (.shr (r5 w 17) (r5 w 12) (r5 w 7))))
  | 0x008 => rsv (fld w 0 7 != 0) (noLend l (.ok (.sra (r5 w 17) (r5 w 12) (r5 w 7))))
  | 0x009 => rsv (fld w 0 7 != 0) (noLend l (.ok (.mul (r5 w 17) (r5 w 12) (r5 w 7))))
  | 0x00a => rsv (fld w 0 7 != 0) (noLend l (.ok (.mulhs (r5 w 17) (r5 w 12) (r5 w 7))))
  | 0x00b => rsv (fld w 0 7 != 0) (noLend l (.ok (.mulhu (r5 w 17) (r5 w 12) (r5 w 7))))
  | 0x00c => rsv (fld w 0 7 != 0) (noLend l (.ok (.min (r5 w 17) (r5 w 12) (r5 w 7))))
  | 0x00d => rsv (fld w 0 7 != 0) (noLend l (.ok (.max (r5 w 17) (r5 w 12) (r5 w 7))))
  | 0x00e => rsv (fld w 0 7 != 0) (noLend l (.ok (.minu (r5 w 17) (r5 w 12) (r5 w 7))))
  | 0x00f => rsv (fld w 0 7 != 0) (noLend l (.ok (.maxu (r5 w 17) (r5 w 12) (r5 w 7))))
  | 0x010 => rsv (fld w 0 7 != 0) (noLend l (.ok (.seq (r5 w 17) (r5 w 12) (r5 w 7))))
  | 0x011 => rsv (fld w 0 7 != 0) (noLend l (.ok (.slt (r5 w 17) (r5 w 12) (r5 w 7))))
  | 0x012 => rsv (fld w 0 7 != 0) (noLend l (.ok (.sltu (r5 w 17) (r5 w 12) (r5 w 7))))
  | 0x013 => rsv (fld w 5 2 != 0) (noLend l (.ok (.sel (r5 w 17) (r5 w 12) (r5 w 7) (r5 w 0))))
  | 0x014 => rsv (fld w 0 12 != 0) (noLend l (.ok (.clz (r5 w 17) (r5 w 12))))
  | 0x015 => rsv (fld w 0 12 != 0) (noLend l (.ok (.popc (r5 w 17) (r5 w 12))))
  | 0x016 => rsv (decide (64 ≤ fld w 6 6 + fld w 0 6)) (noLend l (.ok (.extr (r5 w 17) (r5 w 12) (r6 w 6) (r6 w 0))))
  | 0x017 => rsv (decide (64 ≤ fld w 6 6 + fld w 0 6)) (noLend l (.ok (.insr (r5 w 17) (r5 w 12) (r6 w 6) (r6 w 0))))
  | 0x018 => rsv (fld w 0 7 != 0) (noLend l (.ok (.addw (r5 w 17) (r5 w 12) (r5 w 7))))
  | 0x020 => .ok (.addi (r5 w 17) (r5 w 12) (wid 12 (fld w 0 12) l))
  | 0x021 => .ok (.andi (r5 w 17) (r5 w 12) (wid 12 (fld w 0 12) l))
  | 0x022 => .ok (.ori (r5 w 17) (r5 w 12) (wid 12 (fld w 0 12) l))
  | 0x023 => .ok (.xori (r5 w 17) (r5 w 12) (wid 12 (fld w 0 12) l))
  | 0x024 => rsv (!inRange (wid 12 (fld w 0 12) l) 0 63) (.ok (.shli (r5 w 17) (r5 w 12) (wid 12 (fld w 0 12) l)))
  | 0x025 => rsv (!inRange (wid 12 (fld w 0 12) l) 0 63) (.ok (.shri (r5 w 17) (r5 w 12) (wid 12 (fld w 0 12) l)))
  | 0x026 => rsv (!inRange (wid 12 (fld w 0 12) l) 0 63) (.ok (.srai (r5 w 17) (r5 w 12) (wid 12 (fld w 0 12) l)))
  | 0x027 => .ok (.slti (r5 w 17) (r5 w 12) (wid 12 (fld w 0 12) l))
  | 0x028 => rsv (fld w 12 5 != 0) (.ok (.lui (r5 w 17) (wid 12 (fld w 0 12) l)))
  | 0x030 => match condOf (fld w 19 3) with
    | none => .error .reserved
    | some c => rsv (c == .always && fld w 14 5 != 0) (.ok (.br c (r5 w 14) (wid 14 (fld w 0 14) l)))
  | 0x031 => rsv (fld w 14 8 != 192) (.ok (.jmp (wid 14 (fld w 0 14) l)))
  | 0x032 => rsv (fld w 14 8 != 192) (.ok (.call (wid 14 (fld w 0 14) l)))
  | 0x033 => rsv (fld w 17 5 != 0 || fld w 0 12 != 0) (noLend l (.ok (.jr (r5 w 12))))
  | 0x034 => rsv (fld w 17 5 != 0 || fld w 0 12 != 0) (noLend l (.ok (.callr (r5 w 12))))
  | 0x038 => rsv (fld w 12 5 != 0) (.ok (.loop (r5 w 17) (fld w 0 12 + 4096 * l)))
  | 0x039 => .ok (.loopi (Fin.ofNat 1024 (w / 4096)) (fld w 0 12 + 4096 * l))
  | 0x03a => rsv (w % 4194304 != 0) (noLend l (.ok .brkl))
  | 0x03b => rsv (fld w 3 14 != 0 || decide (6 ≤ fld w 0 3)) (noLend l (.ok (.lidx (r5 w 17) (Fin.ofNat 6 (fld w 0 3)))))
  | 0x040 => rsv (fld w 1 16 != 0) (noLend l (.ok (.msave (r5 w 17) (maskOf w))))
  | 0x041 => rsv (fld w 17 5 != 0 || fld w 1 11 != 0) (noLend l (.ok (.mrest (maskOf w) (r5 w 12))))
  | 0x042 => rsv (fld w 17 5 != 0 || fld w 2 10 != 0 || (fld w 1 1 == 0 && fld w 12 5 != 0)) (noLend l (.ok (.mand (maskOf w) (maskYOf w))))
  | 0x043 => rsv (fld w 17 5 != 0 || fld w 2 10 != 0 || (fld w 1 1 == 0 && fld w 12 5 != 0)) (noLend l (.ok (.mor (maskOf w) (maskYOf w))))
  | 0x044 => rsv (fld w 17 5 != 0 || fld w 2 10 != 0 || (fld w 1 1 == 0 && fld w 12 5 != 0)) (noLend l (.ok (.mandn (maskOf w) (maskYOf w))))
  | 0x045 => rsv (fld w 17 5 != 0 || fld w 1 11 != 0) (noLend l (.ok (.mset (maskOf w) (r5 w 12))))
  | 0x046 => rsv (fld w 1 21 != 0) (noLend l (.ok (.mcmv (maskOf w))))
  | 0x047 => rsv (fld w 1 16 != 0) (noLend l (.ok (.mpopc (r5 w 17) (maskOf w))))
  | 0x050 => rsv (fld w 12 5 != 0 || !srReadable (fld w 0 12)) (noLend l (.ok (.rdsr (r5 w 17) (Fin.ofNat 4096 w))))
  | 0x051 => rsv (fld w 12 5 != 0 || !srWritable (fld w 0 12)) (noLend l (.ok (.wrsr (Fin.ofNat 4096 w) (r5 w 17))))
  | 0x052 => match ldcOf (fld w 15 2) with
    | none => .error .reserved
    | some z => rsv (fld w 12 3 != 0) (.ok (.ldc (r5 w 17) z (wid 12 (fld w 0 12) l)))
  | 0x080 => sel2 w (fun a b => noLend l (.ok (.vaddI32 (r6 w 16) a b)))
  | 0x081 => sel2 w (fun a b => noLend l (.ok (.vsubI32 (r6 w 16) a b)))
  | 0x082 => sel2 w (fun a b => noLend l (.ok (.vmulI32 (r6 w 16) a b)))
  | 0x083 => sel2 w (fun a b => noLend l (.ok (.vmulhI32 (r6 w 16) a b)))
  | 0x084 => sel2 w (fun a b => noLend l (.ok (.vaddI16 (r6 w 16) a b)))
  | 0x085 => sel2 w (fun a b => noLend l (.ok (.vsubI16 (r6 w 16) a b)))
  | 0x086 => sel2 w (fun a b => noLend l (.ok (.vaddI8 (r6 w 16) a b)))
  | 0x087 => sel2 w (fun a b => noLend l (.ok (.vsubI8 (r6 w 16) a b)))
  | 0x088 => sel2 w (fun a b => noLend l (.ok (.vaddsI16 (r6 w 16) a b)))
  | 0x089 => sel2 w (fun a b => noLend l (.ok (.vsubsI16 (r6 w 16) a b)))
  | 0x08a => sel2 w (fun a b => noLend l (.ok (.vaddsI8 (r6 w 16) a b)))
  | 0x08b => sel2 w (fun a b => noLend l (.ok (.vsubsI8 (r6 w 16) a b)))
  | 0x08c => sel2 w (fun a b => noLend l (.ok (.vminI32 (r6 w 16) a b)))
  | 0x08d => sel2 w (fun a b => noLend l (.ok (.vmaxI32 (r6 w 16) a b)))
  | 0x08e => sel2 w (fun a b => noLend l (.ok (.vminuI32 (r6 w 16) a b)))
  | 0x08f => sel2 w (fun a b => noLend l (.ok (.vmaxuI32 (r6 w 16) a b)))
  | 0x090 => sel2 w (fun a b => noLend l (.ok (.vand (r6 w 16) a b)))
  | 0x091 => sel2 w (fun a b => noLend l (.ok (.vor (r6 w 16) a b)))
  | 0x092 => sel2 w (fun a b => noLend l (.ok (.vxor (r6 w 16) a b)))
  | 0x093 => sel2 w (fun a b => hdrOk (h && decide (l < 256)) (.ok (.vlut3 (r6 w 16) a b (Fin.ofNat 256 l))))
  | 0x094 => sel2 w (fun a b => noLend l (.ok (.vshl (r6 w 16) a b)))
  | 0x095 => sel2 w (fun a b => noLend l (.ok (.vshr (r6 w 16) a b)))
  | 0x096 => sel2 w (fun a b => noLend l (.ok (.vsra (r6 w 16) a b)))
  | 0x097 => sel2 w (fun a b => hdrOk (h && decide (l < 32)) (.ok (.vfshl (r6 w 16) a b (Fin.ofNat 32 l))))
  | 0x098 => sel2 w (fun a b => hdrOk (h && decide (l < 32)) (.ok (.vfshr (r6 w 16) a b (Fin.ofNat 32 l))))
  | 0x099 => rsv (fld w 16 6 != 0) (sel2 w (fun a b => noLend l (.ok (.vcmpeqI32 a b))))
  | 0x09a => rsv (fld w 16 6 != 0) (sel2 w (fun a b => noLend l (.ok (.vcmpltI32 a b))))
  | 0x09b => rsv (fld w 16 6 != 0) (sel2 w (fun a b => noLend l (.ok (.vcmpltuI32 a b))))
  | 0x09c => rsv (fld w 16 6 != 0) (sel2 w (fun a b => noLend l (.ok (.vcmpeqF32 a b))))
  | 0x09d => rsv (fld w 16 6 != 0) (sel2 w (fun a b => noLend l (.ok (.vcmpltF32 a b))))
  | 0x09e => rsv (fld w 16 6 != 0) (sel2 w (fun a b => noLend l (.ok (.vcmpleF32 a b))))
  | 0x09f => rsv (fld w 16 6 != 0) (sel2 w (fun a b => noLend l (.ok (.vcmpunF32 a b))))
  | 0x0a0 => sel2 w (fun a b => noLend l (.ok (.vsel (r6 w 16) a b)))
  | 0x0a1 => sel2 w (fun a b => noLend l (.ok (.vfaddF32 (r6 w 16) a b)))
  | 0x0a2 => sel2 w (fun a b => noLend l (.ok (.vfsubF32 (r6 w 16) a b)))
  | 0x0a3 => sel2 w (fun a b => noLend l (.ok (.vfmulF32 (r6 w 16) a b)))
  | 0x0a4 => sel2 w (fun a b => noLend l (.ok (.vfmaF32 (r6 w 16) a b)))
  | 0x0a5 => sel2 w (fun a b => noLend l (.ok (.vfminF32 (r6 w 16) a b)))
  | 0x0a6 => sel2 w (fun a b => noLend l (.ok (.vfmaxF32 (r6 w 16) a b)))
  | 0x0a8 => sel2 w (fun a b => noLend l (.ok (.vfaddBf16 (r6 w 16) a b)))
  | 0x0a9 => sel2 w (fun a b => noLend l (.ok (.vfmulBf16 (r6 w 16) a b)))
  | 0x0aa => sel2 w (fun a b => noLend l (.ok (.vfmaBf16 (r6 w 16) a b)))
  | 0x0ab => sel2 w (fun a b => noLend l (.ok (.vfaddF16 (r6 w 16) a b)))
  | 0x0ac => sel2 w (fun a b => noLend l (.ok (.vfmulF16 (r6 w 16) a b)))
  | 0x0ad => sel2 w (fun a b => noLend l (.ok (.vfmaF16 (r6 w 16) a b)))
  | 0x0b0 => match cvtOf (fld w 0 5) with
    | none => .error .reserved
    | some c => rsv (decide (c.parts ≤ fld w 5 2) || (c.widening && fld w 7 1 != 0))
        (sel1 w (fun a => noLend l (.ok (.vcvt (r6 w 16) a c (Fin.ofNat 4 (w / 32)) (fld w 7 1 == 1)))))
  | 0x0b1 => sel2 w (fun a b => match h, qfmtOf l with
      | true, some t => .ok (.vqnt t (r6 w 16) a b)
      | _, _ => .error .header)
  | 0x0b2 => sel2 w (fun a b => noLend l (.ok (.vdqnt (r6 w 16) a b)))
  | 0x0b3 => rsv (fld w 0 8 != 0) (sel1 w (fun a => noLend l (.ok (.vbmax (r6 w 16) a))))
  | 0x0b8 => match sfOf (fld w 0 8) with
    | none => .error .reserved
    | some f => sel1 w (fun a => noLend l (.ok (.vrcp (r6 w 16) a f)))
  | 0x0b9 => match sfOf (fld w 0 8) with
    | none => .error .reserved
    | some f => sel1 w (fun a => noLend l (.ok (.vrsq (r6 w 16) a f)))
  | 0x0ba => match sfOf (fld w 0 8) with
    | none => .error .reserved
    | some f => sel1 w (fun a => noLend l (.ok (.vsqrt (r6 w 16) a f)))
  | 0x0bb => match sfOf (fld w 0 8) with
    | none => .error .reserved
    | some f => sel1 w (fun a => noLend l (.ok (.vexp2 (r6 w 16) a f)))
  | 0x0bc => match sfOf (fld w 0 8) with
    | none => .error .reserved
    | some f => sel1 w (fun a => noLend l (.ok (.vlog2 (r6 w 16) a f)))
  | 0x0bd => match sfOf (fld w 0 8) with
    | none => .error .reserved
    | some f => sel1 w (fun a => noLend l (.ok (.vsinpi (r6 w 16) a f)))
  | 0x0be => match sfOf (fld w 0 8) with
    | none => .error .reserved
    | some f => sel1 w (fun a => noLend l (.ok (.vcospi (r6 w 16) a f)))
  | 0x0bf => match sfOf (fld w 0 8) with
    | none => .error .reserved
    | some f => sel1 w (fun a => noLend l (.ok (.vtanh (r6 w 16) a f)))
  | 0x0c0 => sel2 w (fun a b => noLend l (.ok (.vperm (r6 w 16) a b)))
  | 0x0c1 => rsv (fld w 0 3 != 0) (sel1 w (fun a => noLend l (.ok (.vrot (r6 w 16) a (r5 w 3)))))
  | 0x0c2 => match bcOf (fld w 0 3) with
    | none => .error .reserved
    | some z => rsv (fld w 8 8 != 0) (noLend l (.ok (.vbcst z (r6 w 16) (r5 w 3))))
  | 0x0c3 => rsv (fld w 1 2 != 0 || fld w 21 1 != 0) (sel1 w (fun a => noLend l (.ok (.vext (fld w 0 1 == 1) (Fin.ofNat 32 (w / 65536)) a (r5 w 3)))))
  | 0x0c4 => rsv (fld w 0 3 != 0 || fld w 14 2 != 0) (noLend l (.ok (.vins (r6 w 16) (r5 w 3) (r6 w 8))))
  | 0x0c5 => rsv (fld w 3 5 != 0 || fld w 21 1 != 0) (sel1 w (fun a => noLend l (.ok (.vred (redOf w) (Fin.ofNat 32 (w / 65536)) a))))
  | 0x0c6 => rsv (fld w 0 8 != 0 || fld w 21 1 != 0) (sel1 w (fun a => noLend l (.ok (.vpopc (Fin.ofNat 32 (w / 65536)) a))))
  | 0x0c7 => rsv (fld w 0 8 != 0) (sel1 w (fun a => noLend l (.ok (.vclz (r6 w 16) a))))
  | 0x0c8 => rsv (fld w 1 15 != 0) (noLend l (.ok (.viota (fld w 0 1 == 1) (r6 w 16))))
  | 0x0c9 => rsv (fld w 0 8 != 0) (sel1 w (fun a => noLend l (.ok (.vmov (r6 w 16) a))))
  | 0x0ca => sel1 w (fun a => noLend l (.ok (.vaddiI32 (r6 w 16) a (BitVec.ofNat 8 w))))
  | 0x0cb => sel1 w (fun a => noLend l (.ok (.vandi (r6 w 16) a (BitVec.ofNat 8 w))))
  | 0x0cc => rsv (fld w 5 3 != 0) (sel1 w (fun a => noLend l (.ok (.vshli (r6 w 16) a (r5 w 0)))))
  | 0x0cd => rsv (fld w 5 3 != 0) (sel1 w (fun a => noLend l (.ok (.vshri (r6 w 16) a (r5 w 0)))))
  | 0x0ce => rsv (fld w 5 3 != 0) (sel1 w (fun a => noLend l (.ok (.vsrai (r6 w 16) a (r5 w 0)))))
  | 0x0cf => rsv (fld w 8 8 != 0) (noLend l (.ok (.vmovi (r6 w 16) (BitVec.ofNat 8 w))))
  | 0x100 => match qloadOf (fld w 9 2) with
    | none => .error .reserved
    | some q => .ok (.ldv q (r6 w 16) (r5 w 11) (wid 9 (fld w 0 9) l))
  | 0x101 => match qstoreOf (fld w 9 2) with
    | none => .error .reserved
    | some q => .ok (.stv q (r6 w 16) (r5 w 11) (wid 9 (fld w 0 9) l))
  | 0x102 => match qloadOf (fld w 10 2) with
    | none => .error .reserved
    | some q => .ok (.ldsD q (r5 w 17) (r5 w 12) (wid 10 (fld w 0 10) l))
  | 0x103 => match qloadOf (fld w 10 2) with
    | none => .error .reserved
    | some q => .ok (.ldsW q (r5 w 17) (r5 w 12) (wid 10 (fld w 0 10) l))
  | 0x104 => match qloadOf (fld w 10 2) with
    | none => .error .reserved
    | some q => .ok (.ldsWu q (r5 w 17) (r5 w 12) (wid 10 (fld w 0 10) l))
  | 0x105 => match qloadOf (fld w 10 2) with
    | none => .error .reserved
    | some q => .ok (.ldsH q (r5 w 17) (r5 w 12) (wid 10 (fld w 0 10) l))
  | 0x106 => match qloadOf (fld w 10 2) with
    | none => .error .reserved
    | some q => .ok (.ldsB q (r5 w 17) (r5 w 12) (wid 10 (fld w 0 10) l))
  | 0x108 => match qstoreOf (fld w 10 2) with
    | none => .error .reserved
    | some q => .ok (.stsD q (r5 w 17) (r5 w 12) (wid 10 (fld w 0 10) l))
  | 0x109 => match qstoreOf (fld w 10 2) with
    | none => .error .reserved
    | some q => .ok (.stsW q (r5 w 17) (r5 w 12) (wid 10 (fld w 0 10) l))
  | 0x10a => match qstoreOf (fld w 10 2) with
    | none => .error .reserved
    | some q => .ok (.stsH q (r5 w 17) (r5 w 12) (wid 10 (fld w 0 10) l))
  | 0x10b => match qstoreOf (fld w 10 2) with
    | none => .error .reserved
    | some q => .ok (.stsB q (r5 w 17) (r5 w 12) (wid 10 (fld w 0 10) l))
  | 0x110 => rsv (fld w 0 5 != 0) (noLend l (.ok (.ldvg (r6 w 16) (r5 w 11) (r6 w 5))))
  | 0x111 => rsv (fld w 0 5 != 0) (noLend l (.ok (.stvs (r6 w 16) (r5 w 11) (r6 w 5))))
  | 0x118 => rsv (fld w 17 5 != 0 || fld w 10 2 != 0) (.ok (.feset (r5 w 12) (wid 10 (fld w 0 10) l)))
  | 0x119 => rsv (fld w 17 5 != 0 || fld w 10 2 != 0) (.ok (.feclr (r5 w 12) (wid 10 (fld w 0 10) l)))
  | 0x11a => rsv (fld w 10 2 != 0) (.ok (.fetest (r5 w 17) (r5 w 12) (wid 10 (fld w 0 10) l)))
  | 0x120 => .ok (.ldgD (fld w 11 1 == 1) (r5 w 17) (r5 w 12) (wid 11 (fld w 0 11) l))
  | 0x121 => .ok (.ldgW (fld w 11 1 == 1) (r5 w 17) (r5 w 12) (wid 11 (fld w 0 11) l))
  | 0x122 => .ok (.ldgv (fld w 10 1 == 1) (r6 w 16) (r5 w 11) (wid 10 (fld w 0 10) l))
  | 0x180 => withH w (fun h => copyLend l (fun x => x == 0) (fun y => .ok (.cpy y (r5 w 17) (r5 w 12) (r5 w 7) h)))
  | 0x181 => withH w (fun h => copyLend l (fun x => x == 0) (fun y => .ok (.cpys y (r5 w 17) (r5 w 12) (r5 w 7) h)))
  | 0x182 => rsv (fld w 12 5 != 0) (withH w (fun h => copyLend l (fun x => x == 0) (fun y => .ok (.cpyz y (r5 w 17) (r5 w 7) h))))
  | 0x183 => withH w (fun h => copyLend l (fun x => x == 0) (fun y => .ok (.cpyaAddi32 y (r5 w 17) (r5 w 12) (r5 w 7) h)))
  | 0x184 => withH w (fun h => copyLend l (fun x => x == 0) (fun y => .ok (.cpyaAddi64 y (r5 w 17) (r5 w 12) (r5 w 7) h)))
  | 0x185 => withH w (fun h => copyLend l (fun x => decide (x < 4)) (fun y => .ok (.cpyaAddf y (r5 w 17) (r5 w 12) (r5 w 7) h)))
  | 0x186 => withH w (fun h => copyLend l (fun x => decide (x < 5)) (fun y => .ok (.cpyaMin y (r5 w 17) (r5 w 12) (r5 w 7) h)))
  | 0x187 => withH w (fun h => copyLend l (fun x => decide (x < 5)) (fun y => .ok (.cpyaMax y (r5 w 17) (r5 w 12) (r5 w 7) h)))
  | 0x188 => withH w (fun h => copyLend l (fun x => decide (x < 2)) (fun y => .ok (.cpyaOr y (r5 w 17) (r5 w 12) (r5 w 7) h)))
  | 0x189 => withH w (fun h => copyLend l (fun x => decide (x < 2)) (fun y => .ok (.cpyaAnd y (r5 w 17) (r5 w 12) (r5 w 7) h)))
  | 0x18a => withH w (fun h => copyLend l (fun x => decide (x < 2)) (fun y => .ok (.cpyaXor y (r5 w 17) (r5 w 12) (r5 w 7) h)))
  | 0x18b => withH w (fun h => copyLend l (fun x => decide (x < 2)) (fun y => .ok (.fopAdd y (r5 w 17) (r5 w 12) (r5 w 7) h)))
  | 0x18c => withH w (fun h => copyLend l (fun x => x == 0) (fun y => .ok (.fopBadd y (r5 w 17) (r5 w 12) (r5 w 7) h)))
  | 0x18d => withH w (fun h => copyLend l (fun x => decide (x < 2)) (fun y => .ok (.fopSwap y (r5 w 17) (r5 w 12) (r5 w 7) h)))
  | 0x18e => rsv (fld w 7 5 != 0) (withH w (fun h => copyLend l (fun x => decide (x < 2)) (fun y => .ok (.fopCas y (r5 w 17) (r5 w 12) h))))
  | 0x18f => rsv (fld w 12 10 != 0 || fld w 0 7 != 127) (noLend l (.ok (.cpyq (r5 w 7))))
  | 0x190 => rsv (fld w 7 1 != 0 || fld w 11 1 != 0 || fld w 0 7 != 127) (noLend l (.ok (.mxcfg (Fin.ofNat 8 (w / 256)) (r5 w 17) (r5 w 12))))
  | 0x191 => rsv (fld w 7 15 != 0) (withH w (fun h => noLend l (.ok (.mxgo h))))
  | 0x192 => rsv (fld w 7 10 != 0 || fld w 0 7 != 127) (noLend l (.ok (.mxwait (r5 w 17))))
  | 0x193 => rsv (fld w 12 10 != 0 || fld w 0 7 != 127) (match fld w 7 5 with
    | 0 => noLend l (.ok .mxlease)
    | 1 => noLend l (.ok .mxleaseJoin)
    | _ => .error .reserved)
  | 0x194 => rsv (fld w 12 10 != 0 || fld w 0 7 != 127) (match fld w 7 5 with
    | 0 => noLend l (.ok .mxfree)
    | 1 => noLend l (.ok .mxfreeJoin)
    | 2 => noLend l (.ok .mxfreeClaim)
    | _ => .error .reserved)
  | 0x195 => rsv (fld w 8 4 != 0) (withH w (fun h => noLend l (.ok (.mxld (r5 w 17) (r5 w 12) (fld w 7 1 == 1) h))))
  | 0x196 => rsv (fld w 8 4 != 0) (withH w (fun h => noLend l (.ok (.mxst (r5 w 17) (r5 w 12) (fld w 7 1 == 1) h))))
  | 0x197 => rsv (fld w 8 4 != 0 || fld w 17 5 != 0) (withH w (fun h => noLend l (.ok (.mxz (r5 w 12) (fld w 7 1 == 1) h))))
  | 0x198 => rsv (fld w 15 2 != 0 || fld w 0 7 != 127) (noLend l (.ok (.ringset (Fin.ofNat 8 (w / 4096)) (r5 w 17) (r5 w 7))))
  | 0x199 => rsv (fld w 15 2 != 0 || fld w 7 5 != 0 || fld w 0 7 != 127) (noLend l (.ok (.ringpush (Fin.ofNat 8 (w / 4096)) (r5 w 17))))
  | 0x19a => rsv (fld w 15 7 != 0 || fld w 0 7 != 127) (noLend l (.ok (.ringstat (r5 w 7) (Fin.ofNat 8 (w / 4096)))))
  | 0x19b => rsv (fld w 0 7 != 127) (noLend l (.ok (.sctab (r5 w 17) (r5 w 12) (r5 w 7))))
  | 0x19c => rsv (fld w 7 10 != 0 || fld w 0 7 != 127) (noLend l (.ok (.scinv (r5 w 17))))
  | 0x19d => rsv (fld w 12 10 != 0 || fld w 0 7 != 127) (noLend l (.ok (.mxstat (r5 w 7))))
  | 0x1a0 => rsv (fld w 12 5 != 0) (withHReq w (fun h => noLend l (.ok (.phbind (r5 w 7) (r5 w 17) h))))
  | 0x1a1 => match regModeOf (fld w 7 2) with
    | none => .error .reserved
    | some m => rsv (fld w 9 13 != 0) (withHReq w (fun h => noLend l (.ok (.phreg m h))))
  | 0x1a2 => rsv (fld w 7 15 != 0) (withHReq w (fun h => noLend l (.ok (.phdrop h))))
  | 0x1a3 => match scopeOf (fld w 7 3) with
    | none => .error .reserved
    | some p => rsv (fld w 10 12 != 0) (withHReq w (fun h => noLend l (.ok (.phsig p h))))
  | 0x1a4 => match scopeOf (fld w 7 3) with
    | none => .error .reserved
    | some p => rsv (fld w 10 12 != 0) (withHReq w (fun h => noLend l (.ok (.phwait p h))))
  | 0x1a5 => match scopeOf (fld w 7 3) with
    | none => .error .reserved
    | some p => rsv (fld w 10 12 != 0) (withHReq w (fun h => noLend l (.ok (.phnext p h))))
  | 0x1a6 => match scopeOf (fld w 7 3) with
    | none => .error .reserved
    | some p => rsv (fld w 10 7 != 0) (withHReq w (fun h => noLend l (.ok (.phadd p h (r5 w 17)))))
  | 0x1a7 => rsv (fld w 12 10 != 0) (withHReq w (fun h => noLend l (.ok (.phtest (r5 w 7) h))))
  | 0x1b0 => withH w (fun h => noLend l (.ok (.bwreq (r5 w 7) (r5 w 17) (r5 w 12) h)))
  | 0x1b1 => rsv (fld w 7 10 != 0) (withH w (fun h => noLend l (.ok (.bwrel (r5 w 17) h))))
  | 0x1b2 => rsv (fld w 12 5 != 0 || fld w 0 7 != 127) (noLend l (.ok (.bwqry (r5 w 7) (r5 w 17))))
  | 0x1b3 => withH w (fun h => copyLend l (fun x => x == 0) (fun y => .ok (.puts y (r5 w 17) (r5 w 12) (r5 w 7) h)))
  | 0x1b4 => rsv (fld w 7 5 != 0 || fld w 0 7 != 127) (noLend l (.ok (.rels (r5 w 17) (r5 w 12))))
  | 0x1b5 => rsv (fld w 12 5 != 0) (withH w (fun h => noLend l (.ok (.lrset (r5 w 7) (r5 w 17) h))))
  | 0x1b6 => rsv (fld w 12 5 != 0 || fld w 0 7 != 127) (noLend l (.ok (.fabst (r5 w 7) (r5 w 17))))
  | 0x1b8 => rsv (fld w 12 5 != 0) (withHReq w (fun h => noLend l (.ok (.coll (r5 w 7) (r5 w 17) h))))
  | 0x1b9 => rsv (fld w 12 5 != 0 || fld w 0 7 != 127) (noLend l (.ok (.collq (r5 w 7) (r5 w 17))))
  | 0x1bc => rsv (fld w 7 15 != 0 || fld w 0 7 != 127) (noLend l (.ok (.decpl)))
  | 0x1bd => rsv (fld w 7 15 != 0 || fld w 0 7 != 127) (noLend l (.ok (.rejn)))
  | 0x1c0 => match scopeOf (fld w 9 3) with
    | none => .error .reserved
    | some p => rsv (fld w 12 10 != 0 || fld w 7 2 != 0 || fld w 0 7 != 127) (noLend l (.ok (.fence p)))
  | 0x1c1 => match scopeOf (fld w 9 3) with
    | none => .error .reserved
    | some p => rsv (p == .pod) (rsv (fld w 7 2 != 0 || fld w 0 7 != 127) (noLend l (.ok (.icinv p (r5 w 17) (r5 w 12)))))
  | 0x1c2 => rsv (fld w 7 15 != 0 || fld w 0 7 != 127) (noLend l (.ok (.fetchb)))
  | 0x1c3 => rsv (fld w 0 7 != 127) (noLend l (.ok (.launch (r5 w 7) (r5 w 17) (r5 w 12))))
  | 0x1c4 => rsv (fld w 7 15 != 0 || fld w 0 7 != 127) (noLend l (.ok (.halt)))
  | 0x1c5 => rsv (fld w 7 10 != 0 || fld w 0 7 != 127) (noLend l (.ok (.trap (r5 w 17))))
  | 0x1c6 => rsv (fld w 7 15 != 0 || fld w 0 7 != 127) (noLend l (.ok (.eret)))
  | 0x1c7 => rsv (fld w 0 7 != 127) (noLend l (.ok (.smc (r5 w 7) (r5 w 17) (r5 w 12))))
  | 0x1c8 => rsv (fld w 7 15 != 0 || fld w 0 7 != 127) (noLend l (.ok (.brk)))
  | 0x1c9 => rsv (fld w 12 5 != 0) (withH w (fun h => noLend l (.ok (.waitev (r5 w 7) (r5 w 17) h))))
  | 0x1ca => match scopeOf (fld w 9 3) with
    | none => .error .reserved
    | some p => rsv (p == .pod) (rsv (fld w 7 2 != 0 || fld w 0 7 != 127) (noLend l (.ok (.tlbinv p (r5 w 17) (r5 w 12)))))
  | 0x1cc => rsv (fld w 7 15 != 0 || fld w 0 7 != 127) (noLend l (.ok (.yield)))
  | 0x1cd => withH w (fun h => noLend l (.ok (.ctxctlHalt (r5 w 7) (r5 w 17) (r5 w 12) h)))
  | 0x1ce => rsv (fld w 0 7 != 127) (noLend l (.ok (.wstat (r5 w 7) (r5 w 17) (r5 w 12))))
  | _ => .error .unassigned

/-! ## Encoding -/

/-- Operand bits of S.R and E.R (04 R76, R78). -/
def rB (d a b f : Nat) : Nat := d * 131072 + a * 4096 + b * 128 + f

/-- Operand bits of V.VV (04 R78). -/
def vvB (d : Nat) (a b : Sel) : Nat := d * 65536 + selCode a * 256 + selCode b

/-- Row, base and q of M.V (04 R78). -/
def mvB (v a q : Nat) : Nat := v * 65536 + a * 2048 + q * 512

/-- What the encoding tables say of each instruction; a happening has no encoding. -/
def Instr.info : Instr → Option WordInfo
  | .nop => some { uop := 0x0, body := 0 }
  | .add d a b => some { uop := 0x1, body := rB d a b 0, dst := [.s d], src := [.s a, .s b] }
  | .sub d a b => some { uop := 0x2, body := rB d a b 0, dst := [.s d], src := [.s a, .s b] }
  | .and d a b => some { uop := 0x3, body := rB d a b 0, dst := [.s d], src := [.s a, .s b] }
  | .or d a b => some { uop := 0x4, body := rB d a b 0, dst := [.s d], src := [.s a, .s b] }
  | .xor d a b => some { uop := 0x5, body := rB d a b 0, dst := [.s d], src := [.s a, .s b] }
  | .shl d a b => some { uop := 0x6, body := rB d a b 0, dst := [.s d], src := [.s a, .s b] }
  | .shr d a b => some { uop := 0x7, body := rB d a b 0, dst := [.s d], src := [.s a, .s b] }
  | .sra d a b => some { uop := 0x8, body := rB d a b 0, dst := [.s d], src := [.s a, .s b] }
  | .mul d a b => some { uop := 0x9, body := rB d a b 0, dst := [.s d], src := [.s a, .s b] }
  | .mulhs d a b => some { uop := 0xa, body := rB d a b 0, dst := [.s d], src := [.s a, .s b] }
  | .mulhu d a b => some { uop := 0xb, body := rB d a b 0, dst := [.s d], src := [.s a, .s b] }
  | .min d a b => some { uop := 0xc, body := rB d a b 0, dst := [.s d], src := [.s a, .s b] }
  | .max d a b => some { uop := 0xd, body := rB d a b 0, dst := [.s d], src := [.s a, .s b] }
  | .minu d a b => some { uop := 0xe, body := rB d a b 0, dst := [.s d], src := [.s a, .s b] }
  | .maxu d a b => some { uop := 0xf, body := rB d a b 0, dst := [.s d], src := [.s a, .s b] }
  | .seq d a b => some { uop := 0x10, body := rB d a b 0, dst := [.s d], src := [.s a, .s b] }
  | .slt d a b => some { uop := 0x11, body := rB d a b 0, dst := [.s d], src := [.s a, .s b] }
  | .sltu d a b => some { uop := 0x12, body := rB d a b 0, dst := [.s d], src := [.s a, .s b] }
  | .sel d a b c => some { uop := 0x13, body := rB d a b c, dst := [.s d], src := [.s a, .s b, .s c] }
  | .clz d a => some { uop := 0x14, body := rB d a 0 0, dst := [.s d], src := [.s a] }
  | .popc d a => some { uop := 0x15, body := rB d a 0 0, dst := [.s d], src := [.s a] }
  | .extr d a pos len1 => some { uop := 0x16, body := rB d a 0 0 + pos * 64 + len1, dst := [.s d], src := [.s a] }
  | .insr d a pos len1 => some { uop := 0x17, body := rB d a 0 0 + pos * 64 + len1, dst := [.s d], src := [.s a, .s d] }
  | .addw d a b => some { uop := 0x18, body := rB d a b 0, dst := [.s d], src := [.s a, .s b] }
  | .addi d a i => some { uop := 0x20, body := rB d a 0 0 + lowF 12 i, lend := lendF 12 i, dst := [.s d], src := [.s a] }
  | .andi d a i => some { uop := 0x21, body := rB d a 0 0 + lowF 12 i, lend := lendF 12 i, dst := [.s d], src := [.s a] }
  | .ori d a i => some { uop := 0x22, body := rB d a 0 0 + lowF 12 i, lend := lendF 12 i, dst := [.s d], src := [.s a] }
  | .xori d a i => some { uop := 0x23, body := rB d a 0 0 + lowF 12 i, lend := lendF 12 i, dst := [.s d], src := [.s a] }
  | .shli d a i => some { uop := 0x24, body := rB d a 0 0 + lowF 12 i, lend := lendF 12 i, dst := [.s d], src := [.s a] }
  | .shri d a i => some { uop := 0x25, body := rB d a 0 0 + lowF 12 i, lend := lendF 12 i, dst := [.s d], src := [.s a] }
  | .srai d a i => some { uop := 0x26, body := rB d a 0 0 + lowF 12 i, lend := lendF 12 i, dst := [.s d], src := [.s a] }
  | .slti d a i => some { uop := 0x27, body := rB d a 0 0 + lowF 12 i, lend := lendF 12 i, dst := [.s d], src := [.s a] }
  | .lui d i => some { uop := 0x28, body := rB d 0 0 0 + lowF 12 i, lend := lendF 12 i, dst := [.s d] }
  | .br c a o => some { uop := 0x30, body := condCode c * 524288 + a * 16384 + lowF 14 o, lend := lendF 14 o, src := [.s a], xfer := true }
  | .jmp o => some { uop := 0x31, body := 3145728 + lowF 14 o, lend := lendF 14 o, xfer := true }
  | .call o => some { uop := 0x32, body := 3145728 + lowF 14 o, lend := lendF 14 o, xfer := true, dst := [.s 31] }
  | .jr a => some { uop := 0x33, body := rB 0 a 0 0, src := [.s a], xfer := true }
  | .callr a => some { uop := 0x34, body := rB 0 a 0 0, src := [.s a], xfer := true, dst := [.s 31] }
  | .loop a e => some { uop := 0x38, body := rB a 0 0 0 + e % 4096, lend := e / 4096 % 512, src := [.s a], xfer := true, endOff := some e }
  | .loopi n e => some { uop := 0x39, body := n * 4096 + e % 4096, lend := e / 4096 % 512, xfer := true, endOff := some e }
  | .brkl => some { uop := 0x3a, body := 0, xfer := true }
  | .lidx d k => some { uop := 0x3b, body := rB d 0 0 k, dst := [.s d] }
  | .msave d m => some { uop := 0x40, body := rB d 0 0 (maskCode m), dst := [.s d] }
  | .mrest m a => some { uop := 0x41, body := rB 0 a 0 (maskCode m), dst := [m.dest], src := [.s a] }
  | .mand m y => some { uop := 0x42, body := rB 0 y.regNum 0 (maskCode m + 2 * y.code), dst := [m.dest], src := y.src }
  | .mor m y => some { uop := 0x43, body := rB 0 y.regNum 0 (maskCode m + 2 * y.code), dst := [m.dest], src := y.src }
  | .mandn m y => some { uop := 0x44, body := rB 0 y.regNum 0 (maskCode m + 2 * y.code), dst := [m.dest], src := y.src }
  | .mset m a => some { uop := 0x45, body := rB 0 a 0 (maskCode m), dst := [m.dest], src := [.s a] }
  | .mcmv m => some { uop := 0x46, body := maskCode m, dst := [m.dest] }
  | .mpopc d m => some { uop := 0x47, body := rB d 0 0 (maskCode m), dst := [.s d] }
  | .rdsr d r => some { uop := 0x50, body := rB d 0 0 0 + r, dst := [.s d] }
  | .wrsr r a => some { uop := 0x51, body := rB a 0 0 0 + r, src := [.s a] }
  | .ldc d z o => some { uop := 0x52, body := rB d 0 0 0 + ldcCode z * 32768 + lowF 12 o, lend := lendF 12 o, dst := [.s d] }
  | .vaddI32 d a b => some { uop := 0x80, body := vvB d a b, dst := [.v d], src := selSrc a ++ selSrc b, sels := [a, b] }
  | .vsubI32 d a b => some { uop := 0x81, body := vvB d a b, dst := [.v d], src := selSrc a ++ selSrc b, sels := [a, b] }
  | .vmulI32 d a b => some { uop := 0x82, body := vvB d a b, dst := [.v d], src := selSrc a ++ selSrc b, sels := [a, b] }
  | .vmulhI32 d a b => some { uop := 0x83, body := vvB d a b, dst := [.v d], src := selSrc a ++ selSrc b, sels := [a, b] }
  | .vaddI16 d a b => some { uop := 0x84, body := vvB d a b, dst := [.v d], src := selSrc a ++ selSrc b, sels := [a, b] }
  | .vsubI16 d a b => some { uop := 0x85, body := vvB d a b, dst := [.v d], src := selSrc a ++ selSrc b, sels := [a, b] }
  | .vaddI8 d a b => some { uop := 0x86, body := vvB d a b, dst := [.v d], src := selSrc a ++ selSrc b, sels := [a, b] }
  | .vsubI8 d a b => some { uop := 0x87, body := vvB d a b, dst := [.v d], src := selSrc a ++ selSrc b, sels := [a, b] }
  | .vaddsI16 d a b => some { uop := 0x88, body := vvB d a b, dst := [.v d], src := selSrc a ++ selSrc b, sels := [a, b] }
  | .vsubsI16 d a b => some { uop := 0x89, body := vvB d a b, dst := [.v d], src := selSrc a ++ selSrc b, sels := [a, b] }
  | .vaddsI8 d a b => some { uop := 0x8a, body := vvB d a b, dst := [.v d], src := selSrc a ++ selSrc b, sels := [a, b] }
  | .vsubsI8 d a b => some { uop := 0x8b, body := vvB d a b, dst := [.v d], src := selSrc a ++ selSrc b, sels := [a, b] }
  | .vminI32 d a b => some { uop := 0x8c, body := vvB d a b, dst := [.v d], src := selSrc a ++ selSrc b, sels := [a, b] }
  | .vmaxI32 d a b => some { uop := 0x8d, body := vvB d a b, dst := [.v d], src := selSrc a ++ selSrc b, sels := [a, b] }
  | .vminuI32 d a b => some { uop := 0x8e, body := vvB d a b, dst := [.v d], src := selSrc a ++ selSrc b, sels := [a, b] }
  | .vmaxuI32 d a b => some { uop := 0x8f, body := vvB d a b, dst := [.v d], src := selSrc a ++ selSrc b, sels := [a, b] }
  | .vand d a b => some { uop := 0x90, body := vvB d a b, dst := [.v d], src := selSrc a ++ selSrc b, sels := [a, b] }
  | .vor d a b => some { uop := 0x91, body := vvB d a b, dst := [.v d], src := selSrc a ++ selSrc b, sels := [a, b] }
  | .vxor d a b => some { uop := 0x92, body := vvB d a b, dst := [.v d], src := selSrc a ++ selSrc b, sels := [a, b] }
  | .vlut3 d a b tt => some { uop := 0x93, body := vvB d a b, lend := tt, hdr := true, dst := [.v d], src := selSrc a ++ selSrc b ++ [.v d], sels := [a, b] }
  | .vshl d a b => some { uop := 0x94, body := vvB d a b, dst := [.v d], src := selSrc a ++ selSrc b, sels := [a, b] }
  | .vshr d a b => some { uop := 0x95, body := vvB d a b, dst := [.v d], src := selSrc a ++ selSrc b, sels := [a, b] }
  | .vsra d a b => some { uop := 0x96, body := vvB d a b, dst := [.v d], src := selSrc a ++ selSrc b, sels := [a, b] }
  | .vfshl d a b n => some { uop := 0x97, body := vvB d a b, lend := n, hdr := true, dst := [.v d], src := selSrc a ++ selSrc b, sels := [a, b] }
  | .vfshr d a b n => some { uop := 0x98, body := vvB d a b, lend := n, hdr := true, dst := [.v d], src := selSrc a ++ selSrc b, sels := [a, b] }
  | .vcmpeqI32 a b => some { uop := 0x99, body := vvB 0 a b, dst := [.cm], src := selSrc a ++ selSrc b, sels := [a, b] }
  | .vcmpltI32 a b => some { uop := 0x9a, body := vvB 0 a b, dst := [.cm], src := selSrc a ++ selSrc b, sels := [a, b] }
  | .vcmpltuI32 a b => some { uop := 0x9b, body := vvB 0 a b, dst := [.cm], src := selSrc a ++ selSrc b, sels := [a, b] }
  | .vcmpeqF32 a b => some { uop := 0x9c, body := vvB 0 a b, dst := [.cm], src := selSrc a ++ selSrc b, sels := [a, b] }
  | .vcmpltF32 a b => some { uop := 0x9d, body := vvB 0 a b, dst := [.cm], src := selSrc a ++ selSrc b, sels := [a, b] }
  | .vcmpleF32 a b => some { uop := 0x9e, body := vvB 0 a b, dst := [.cm], src := selSrc a ++ selSrc b, sels := [a, b] }
  | .vcmpunF32 a b => some { uop := 0x9f, body := vvB 0 a b, dst := [.cm], src := selSrc a ++ selSrc b, sels := [a, b] }
  | .vsel d a b => some { uop := 0xa0, body := vvB d a b, dst := [.v d], src := selSrc a ++ selSrc b, sels := [a, b] }
  | .vfaddF32 d a b => some { uop := 0xa1, body := vvB d a b, dst := [.v d], src := selSrc a ++ selSrc b, sels := [a, b] }
  | .vfsubF32 d a b => some { uop := 0xa2, body := vvB d a b, dst := [.v d], src := selSrc a ++ selSrc b, sels := [a, b] }
  | .vfmulF32 d a b => some { uop := 0xa3, body := vvB d a b, dst := [.v d], src := selSrc a ++ selSrc b, sels := [a, b] }
  | .vfmaF32 d a b => some { uop := 0xa4, body := vvB d a b, dst := [.v d], src := selSrc a ++ selSrc b ++ [.v d], sels := [a, b] }
  | .vfminF32 d a b => some { uop := 0xa5, body := vvB d a b, dst := [.v d], src := selSrc a ++ selSrc b, sels := [a, b] }
  | .vfmaxF32 d a b => some { uop := 0xa6, body := vvB d a b, dst := [.v d], src := selSrc a ++ selSrc b ++ [.v d], sels := [a, b] }
  | .vfaddBf16 d a b => some { uop := 0xa8, body := vvB d a b, dst := [.v d], src := selSrc a ++ selSrc b, sels := [a, b] }
  | .vfmulBf16 d a b => some { uop := 0xa9, body := vvB d a b, dst := [.v d], src := selSrc a ++ selSrc b, sels := [a, b] }
  | .vfmaBf16 d a b => some { uop := 0xaa, body := vvB d a b, dst := [.v d], src := selSrc a ++ selSrc b ++ [.v d], sels := [a, b] }
  | .vfaddF16 d a b => some { uop := 0xab, body := vvB d a b, dst := [.v d], src := selSrc a ++ selSrc b, sels := [a, b] }
  | .vfmulF16 d a b => some { uop := 0xac, body := vvB d a b, dst := [.v d], src := selSrc a ++ selSrc b, sels := [a, b] }
  | .vfmaF16 d a b => some { uop := 0xad, body := vvB d a b, dst := [.v d], src := selSrc a ++ selSrc b ++ [.v d], sels := [a, b] }
  | .vcvt d a code part rm => some { uop := 0xb0, body := vvB d a (.row 0) + cvtCode code + part * 32 + (bif rm then 128 else 0), dst := [.v d], src := selSrc a ++ (if code.narrowing then [.v d] else []), sels := [a] }
  | .vqnt t d a b => some { uop := 0xb1, body := vvB d a b, lend := qfmtCode t, hdr := true, dst := [.v d], src := selSrc a ++ selSrc b ++ [.v d], sels := [a, b] }
  | .vdqnt d a b => some { uop := 0xb2, body := vvB d a b, dst := [.v d], src := selSrc a ++ selSrc b, sels := [a, b] }
  | .vbmax d a => some { uop := 0xb3, body := vvB d a (.row 0), dst := [.v d], src := selSrc a, sels := [a] }
  | .vrcp d a f => some { uop := 0xb8, body := vvB d a (.row 0) + sfCode f, dst := [.v d], src := selSrc a, sels := [a] }
  | .vrsq d a f => some { uop := 0xb9, body := vvB d a (.row 0) + sfCode f, dst := [.v d], src := selSrc a, sels := [a] }
  | .vsqrt d a f => some { uop := 0xba, body := vvB d a (.row 0) + sfCode f, dst := [.v d], src := selSrc a, sels := [a] }
  | .vexp2 d a f => some { uop := 0xbb, body := vvB d a (.row 0) + sfCode f, dst := [.v d], src := selSrc a, sels := [a] }
  | .vlog2 d a f => some { uop := 0xbc, body := vvB d a (.row 0) + sfCode f, dst := [.v d], src := selSrc a, sels := [a] }
  | .vsinpi d a f => some { uop := 0xbd, body := vvB d a (.row 0) + sfCode f, dst := [.v d], src := selSrc a, sels := [a] }
  | .vcospi d a f => some { uop := 0xbe, body := vvB d a (.row 0) + sfCode f, dst := [.v d], src := selSrc a, sels := [a] }
  | .vtanh d a f => some { uop := 0xbf, body := vvB d a (.row 0) + sfCode f, dst := [.v d], src := selSrc a, sels := [a] }
  | .vperm d a b => some { uop := 0xc0, body := vvB d a b, dst := [.v d], src := selSrc a ++ selSrc b, sels := [a, b] }
  | .vrot d a b => some { uop := 0xc1, body := vvB d a (.row 0) + b * 8, dst := [.v d], src := selSrc a ++ [.s b], sels := [a] }
  | .vbcst z d b => some { uop := 0xc2, body := d * 65536 + b * 8 + bcCode z, dst := [.v d], src := [.s b] }
  | .vext sx d a b => some { uop := 0xc3, body := vvB d a (.row 0) + b * 8 + (bif sx then 1 else 0), dst := [.s d], src := selSrc a ++ [.s b], sels := [a] }
  | .vins d b k => some { uop := 0xc4, body := d * 65536 + k * 256 + b * 8, dst := [.v d], src := [.s b] }
  | .vred op d a => some { uop := 0xc5, body := vvB d a (.row 0) + redCode op, dst := [.s d], src := selSrc a, sels := [a] }
  | .vpopc d a => some { uop := 0xc6, body := vvB d a (.row 0), dst := [.s d], src := selSrc a, sels := [a] }
  | .vclz d a => some { uop := 0xc7, body := vvB d a (.row 0), dst := [.v d], src := selSrc a, sels := [a] }
  | .viota cm d => some { uop := 0xc8, body := d * 65536 + (bif cm then 1 else 0), dst := [.v d] }
  | .vmov d a => some { uop := 0xc9, body := vvB d a (.row 0), dst := [.v d], src := selSrc a, sels := [a] }
  | .vaddiI32 d a i => some { uop := 0xca, body := vvB d a (.row 0) + i.toNat, dst := [.v d], src := selSrc a, sels := [a] }
  | .vandi d a i => some { uop := 0xcb, body := vvB d a (.row 0) + i.toNat, dst := [.v d], src := selSrc a, sels := [a] }
  | .vshli d a n => some { uop := 0xcc, body := vvB d a (.row 0) + n, dst := [.v d], src := selSrc a, sels := [a] }
  | .vshri d a n => some { uop := 0xcd, body := vvB d a (.row 0) + n, dst := [.v d], src := selSrc a, sels := [a] }
  | .vsrai d a n => some { uop := 0xce, body := vvB d a (.row 0) + n, dst := [.v d], src := selSrc a, sels := [a] }
  | .vmovi d i => some { uop := 0xcf, body := d * 65536 + i.toNat, dst := [.v d] }
  | .ldv q d a o => some { uop := 0x100, body := mvB d a (qloadCode q) + lowF 9 o, lend := lendF 9 o, dst := [.v d], src := [.s a] }
  | .stv q v a o => some { uop := 0x101, body := mvB v a (qstoreCode q) + lowF 9 o, lend := lendF 9 o, src := [.v v, .s a] }
  | .ldsD q d a o => some { uop := 0x102, body := rB d a 0 0 + qloadCode q * 1024 + lowF 10 o, lend := lendF 10 o, dst := [.s d], src := [.s a] }
  | .ldsW q d a o => some { uop := 0x103, body := rB d a 0 0 + qloadCode q * 1024 + lowF 10 o, lend := lendF 10 o, dst := [.s d], src := [.s a] }
  | .ldsWu q d a o => some { uop := 0x104, body := rB d a 0 0 + qloadCode q * 1024 + lowF 10 o, lend := lendF 10 o, dst := [.s d], src := [.s a] }
  | .ldsH q d a o => some { uop := 0x105, body := rB d a 0 0 + qloadCode q * 1024 + lowF 10 o, lend := lendF 10 o, dst := [.s d], src := [.s a] }
  | .ldsB q d a o => some { uop := 0x106, body := rB d a 0 0 + qloadCode q * 1024 + lowF 10 o, lend := lendF 10 o, dst := [.s d], src := [.s a] }
  | .stsD q v a o => some { uop := 0x108, body := rB v a 0 0 + qstoreCode q * 1024 + lowF 10 o, lend := lendF 10 o, src := [.s v, .s a] }
  | .stsW q v a o => some { uop := 0x109, body := rB v a 0 0 + qstoreCode q * 1024 + lowF 10 o, lend := lendF 10 o, src := [.s v, .s a] }
  | .stsH q v a o => some { uop := 0x10a, body := rB v a 0 0 + qstoreCode q * 1024 + lowF 10 o, lend := lendF 10 o, src := [.s v, .s a] }
  | .stsB q v a o => some { uop := 0x10b, body := rB v a 0 0 + qstoreCode q * 1024 + lowF 10 o, lend := lendF 10 o, src := [.s v, .s a] }
  | .ldvg d a x => some { uop := 0x110, body := mvB d a 0 + x * 32, dst := [.v d], src := [.s a, .v x] }
  | .stvs v a x => some { uop := 0x111, body := mvB v a 0 + x * 32, src := [.s a, .v x, .v v], sels := [.row v, .row x] }
  | .feset a o => some { uop := 0x118, body := rB 0 a 0 0 + lowF 10 o, lend := lendF 10 o, src := [.s a] }
  | .feclr a o => some { uop := 0x119, body := rB 0 a 0 0 + lowF 10 o, lend := lendF 10 o, src := [.s a] }
  | .fetest d a o => some { uop := 0x11a, body := rB d a 0 0 + lowF 10 o, lend := lendF 10 o, dst := [.s d], src := [.s a] }
  | .ldgD f d a o => some { uop := 0x120, body := rB d a 0 0 + (bif f then 2048 else 0) + lowF 11 o, lend := lendF 11 o, dst := [.s d], src := [.s a] }
  | .ldgW f d a o => some { uop := 0x121, body := rB d a 0 0 + (bif f then 2048 else 0) + lowF 11 o, lend := lendF 11 o, dst := [.s d], src := [.s a] }
  | .ldgv f d a o => some { uop := 0x122, body := mvB d a 0 + (bif f then 1024 else 0) + lowF 10 o, lend := lendF 10 o, dst := [.v d], src := [.s a] }
  | .cpy l a b c h => some { uop := 0x180, body := rB a b c (hndCode h), lend := l.code, src := [.s a, .s b, .s c], hnd := h }
  | .cpys l a b c h => some { uop := 0x181, body := rB a b c (hndCode h), lend := l.code, src := [.s a, .s b, .s c], hnd := h }
  | .cpyz l a c h => some { uop := 0x182, body := rB a 0 c (hndCode h), lend := l.code, src := [.s a, .s c], hnd := h }
  | .cpyaAddi32 l a b c h => some { uop := 0x183, body := rB a b c (hndCode h), lend := l.code, src := [.s a, .s b, .s c], hnd := h }
  | .cpyaAddi64 l a b c h => some { uop := 0x184, body := rB a b c (hndCode h), lend := l.code, src := [.s a, .s b, .s c], hnd := h }
  | .cpyaAddf l a b c h => some { uop := 0x185, body := rB a b c (hndCode h), lend := l.code, src := [.s a, .s b, .s c], hnd := h }
  | .cpyaMin l a b c h => some { uop := 0x186, body := rB a b c (hndCode h), lend := l.code, src := [.s a, .s b, .s c], hnd := h }
  | .cpyaMax l a b c h => some { uop := 0x187, body := rB a b c (hndCode h), lend := l.code, src := [.s a, .s b, .s c], hnd := h }
  | .cpyaOr l a b c h => some { uop := 0x188, body := rB a b c (hndCode h), lend := l.code, src := [.s a, .s b, .s c], hnd := h }
  | .cpyaAnd l a b c h => some { uop := 0x189, body := rB a b c (hndCode h), lend := l.code, src := [.s a, .s b, .s c], hnd := h }
  | .cpyaXor l a b c h => some { uop := 0x18a, body := rB a b c (hndCode h), lend := l.code, src := [.s a, .s b, .s c], hnd := h }
  | .fopAdd l a b c h => some { uop := 0x18b, body := rB a b c (hndCode h), lend := l.code, src := [.s a, .s b, .s c], hnd := h }
  | .fopBadd l a b c h => some { uop := 0x18c, body := rB a b c (hndCode h), lend := l.code, src := [.s a, .s b, .s c], hnd := h }
  | .fopSwap l a b c h => some { uop := 0x18d, body := rB a b c (hndCode h), lend := l.code, src := [.s a, .s b, .s c], hnd := h }
  | .fopCas l a b h => some { uop := 0x18e, body := rB a b 0 (hndCode h), lend := l.code, src := [.s a, .s b], hnd := h }
  | .cpyq c => some { uop := 0x18f, body := rB 0 0 c 127, dst := [.s c] }
  | .mxcfg n a b => some { uop := 0x190, body := rB a b (2 * n) 127, src := [.s a, .s b] }
  | .mxgo h => some { uop := 0x191, body := rB 0 0 0 (hndCode h), hnd := h }
  | .mxwait a => some { uop := 0x192, body := rB a 0 0 127, src := [.s a] }
  | .mxlease => some { uop := 0x193, body := rB 0 0 0 127 }
  | .mxleaseJoin => some { uop := 0x193, body := rB 0 0 1 127 }
  | .mxfree => some { uop := 0x194, body := rB 0 0 0 127 }
  | .mxfreeJoin => some { uop := 0x194, body := rB 0 0 1 127 }
  | .mxfreeClaim => some { uop := 0x194, body := rB 0 0 2 127 }
  | .mxld a b st h => some { uop := 0x195, body := rB a b (bif st then 1 else 0) (hndCode h), src := [.s a, .s b], hnd := h }
  | .mxst a b st h => some { uop := 0x196, body := rB a b (bif st then 1 else 0) (hndCode h), src := [.s a, .s b], hnd := h }
  | .mxz b st h => some { uop := 0x197, body := rB 0 b (bif st then 1 else 0) (hndCode h), src := [.s b], hnd := h }
  | .ringset q a c => some { uop := 0x198, body := rB a q c 127, src := [.s a, .s c], ring := some q }
  | .ringpush q a => some { uop := 0x199, body := rB a q 0 127, src := [.s a], ring := some q }
  | .ringstat c q => some { uop := 0x19a, body := rB 0 q c 127, dst := [.s c], ring := some q }
  | .sctab a b c => some { uop := 0x19b, body := rB a b c 127, src := [.s a, .s b, .s c] }
  | .scinv a => some { uop := 0x19c, body := rB a 0 0 127, src := [.s a] }
  | .mxstat c => some { uop := 0x19d, body := rB 0 0 c 127, dst := [.s c] }
  | .phbind c a h => some { uop := 0x1a0, body := rB a 0 c h, dst := [.s c], src := [.s a], hnd := some h }
  | .phreg m h => some { uop := 0x1a1, body := rB 0 0 (regModeCode m) h, hnd := some h }
  | .phdrop h => some { uop := 0x1a2, body := rB 0 0 0 h, hnd := some h }
  | .phsig p h => some { uop := 0x1a3, body := rB 0 0 (scopeCode p) h, hnd := some h }
  | .phwait p h => some { uop := 0x1a4, body := rB 0 0 (scopeCode p) h, hnd := some h }
  | .phnext p h => some { uop := 0x1a5, body := rB 0 0 (scopeCode p) h, hnd := some h }
  | .phadd p h a => some { uop := 0x1a6, body := rB a 0 (scopeCode p) h, src := [.s a], hnd := some h }
  | .phtest c h => some { uop := 0x1a7, body := rB 0 0 c h, dst := [.s c], hnd := some h }
  | .bwreq c a b h => some { uop := 0x1b0, body := rB a b c (hndCode h), dst := [.s c], src := [.s a, .s b], hnd := h }
  | .bwrel a h => some { uop := 0x1b1, body := rB a 0 0 (hndCode h), src := [.s a], hnd := h }
  | .bwqry c a => some { uop := 0x1b2, body := rB a 0 c 127, dst := [.s c], src := [.s a] }
  | .puts l a b c h => some { uop := 0x1b3, body := rB a b c (hndCode h), lend := l.code, src := [.s a, .s b, .s c], hnd := h }
  | .rels a b => some { uop := 0x1b4, body := rB a b 0 127, src := [.s a, .s b] }
  | .lrset c a h => some { uop := 0x1b5, body := rB a 0 c (hndCode h), dst := [.s c], src := [.s a], hnd := h }
  | .fabst c a => some { uop := 0x1b6, body := rB a 0 c 127, dst := [.s c], src := [.s a] }
  | .coll c a h => some { uop := 0x1b8, body := rB a 0 c h, dst := [.s c], src := [.s a], hnd := some h }
  | .collq c a => some { uop := 0x1b9, body := rB a 0 c 127, dst := [.s c], src := [.s a] }
  | .decpl => some { uop := 0x1bc, body := rB 0 0 0 127 }
  | .rejn => some { uop := 0x1bd, body := rB 0 0 0 127 }
  | .fence p => some { uop := 0x1c0, body := scopeCode p * 512 + 127 }
  | .icinv p a b => some { uop := 0x1c1, body := rB a b 0 0 + scopeCode p * 512 + 127, src := [.s a, .s b] }
  | .fetchb => some { uop := 0x1c2, body := rB 0 0 0 127 }
  | .launch c a b => some { uop := 0x1c3, body := rB a b c 127, dst := [.s c], src := [.s a, .s b] }
  | .halt => some { uop := 0x1c4, body := rB 0 0 0 127, ctl := true }
  | .trap a => some { uop := 0x1c5, body := rB a 0 0 127, src := [.s a], ctl := true }
  | .eret => some { uop := 0x1c6, body := rB 0 0 0 127, ctl := true }
  | .smc c a b => some { uop := 0x1c7, body := rB a b c 127, dst := [.s c], src := [.s a, .s b], ctl := true }
  | .brk => some { uop := 0x1c8, body := rB 0 0 0 127, ctl := true }
  | .waitev c a h => some { uop := 0x1c9, body := rB a 0 c (hndCode h), dst := [.s c], src := [.s a], hnd := h }
  | .tlbinv p a b => some { uop := 0x1ca, body := rB a b 0 0 + scopeCode p * 512 + 127, src := [.s a, .s b] }
  | .yield => some { uop := 0x1cc, body := rB 0 0 0 127 }
  | .ctxctlHalt c a b h => some { uop := 0x1cd, body := rB a b c (hndCode h), dst := [.s c], src := [.s a, .s b], hnd := h }
  | .ctxctlFlush c a b h => some { uop := 0x1cd, body := rB a b c (hndCode h), dst := [.s c], src := [.s a, .s b], hnd := h }
  | .ctxctlRestart c a b h => some { uop := 0x1cd, body := rB a b c (hndCode h), dst := [.s c], src := [.s a, .s b], hnd := h }
  | .ctxctlResume c a b h => some { uop := 0x1cd, body := rB a b c (hndCode h), dst := [.s c], src := [.s a, .s b], hnd := h }
  | .ctxctlWake c a b h => some { uop := 0x1cd, body := rB a b c (hndCode h), dst := [.s c], src := [.s a, .s b], hnd := h }
  | .wstat c a b => some { uop := 0x1ce, body := rB a b c 127, dst := [.s c], src := [.s a, .s b] }
  | .qtailWrite _ _
  | .qcfgWrite _ _
  | .kstopPreempt _
  | .kstopKill _
  | .phaserObjectInit _ _ _
  | .registerWrite _ _ _
  | .takeQueueEntry _
  | .dependenceEventSeen _
  | .placementDecision
  | .instanceStart _
  | .preloadStart _
  | .budgetOverrun _
  | .requeueSettle _
  | .killSettle _
  | .instanceRetireDone _
  | .cintHoldoffExpiry
  | .icacheFill _ _ _
  | .fetchBufferFill _
  | .forcedIssue _
  | .resultLands _ _
  | .loadResultLands _ _ _
  | .checkSignatureCompare _
  | .feWaitEnd _
  | .feWatchdog _
  | .waitTimeout _
  | .phwaitEnd _
  | .phsigHoldEnd _
  | .copyEntryFree _
  | .ringpushEnd _
  | .matrixQueueRoom _
  | .tileClaimGrant _
  | .mxwaitEnd _
  | .icinvComplete _
  | .rejnComplete _
  | .fenceComplete _
  | .waitevEnd _
  | .tlbinvComplete _
  | .tableUnpinEnd _
  | .translationWalkEnd _ _ _
  | .pfansRetry _ _
  | .pfansFail _ _
  | .haltRequestArrives _
  | .contextHalt _
  | .forcedHalt _
  | .instanceSave _
  | .commandStart _ _ _
  | .ringPanelRoom _ _ _
  | .putsSlotRoom _ _
  | .commandComplete _ _
  | .mxRunStart _
  | .mxRunEnd _
  | .mxPanelRead _
  | .scaleMissFill _ _ _ _
  | .mxOpComplete _
  | .mxSuspendComplete _
  | .mxTileCmdComplete _
  | .mxJoinEffect _
  | .memberSignal _
  | .anonymousArrival _
  | .registrationArrives _
  | .slotBoundary
  | .frameBoundary _
  | .syncLoss
  | .flitSend _ _ _
  | .timeFlitRx _ _ _ _
  | .flitWriteRx _ _ _
  | .flitZeroRx _ _ _
  | .flitAtomicRx _ _ _
  | .flitReadreqRx _ _ _
  | .flitReadrspRx _ _ _
  | .flitLandRx _ _ _
  | .flitTransitRx _ _ _
  | .linkAckRx _ _ _ _ _ _
  | .performedAckRx _ _ _ _
  | .lackDue _ _
  | .replayRx _ _ _ _ _ _
  | .leaseRequestRx _
  | .leaseAnswerRx _ _ _ _
  | .leaseConfirmRx _ _ _
  | .leaseAnswerTimeout _ _
  | .releaseNoticeRx _ _ _
  | .revocationNoticeRx _ _ _
  | .cancelNoticeRx _ _ _
  | .displacementNoticeRx _ _ _
  | .lossNoticeRx _ _ _
  | .substNoticeRx _ _ _ _
  | .removeNoticeRx _ _ _ _
  | .skewNoticeRx _ _
  | .rheadNoticeRx _ _
  | .flitAbandon _
  | .lossOfLight _ _
  | .lossOfSignal _ _ _
  | .drift _ _
  | .retune _ _
  | .retuneRelock _ _
  | .lockfail _ _
  | .spareAttemptEnd _ _ _
  | .repansSpareComb _ _
  | .repansSpareEmitter _ _
  | .repansRetryOriginal _ _
  | .repansRemove _ _
  | .repansTimeout _ _
  | .skewDetected _ _ _
  | .fabricEnable _
  | .fabricDisable _
  | .routingCommit
  | .lpolWrite _
  | .revokeWrite _ _
  | .membershipWrite _ _
  | .announceRx _ _ _
  | .collAdmission _ _
  | .admitRx _ _ _ _
  | .collTransfer _ _
  | .rfwdMessageRx _ _ _ _ _
  | .collDoneRx _ _ _ _
  | .abortRx _ _ _ _
  | .admissionWatchdog _ _
  | .hostBar2Write _ _
  | .hostBar2Read _ _
  | .qliftWrite _
  | .ltrWrite _
  | .pstateRead
  | .enterLowPower
  | .lowPowerExit
  | .d3Entry
  | .powerOnBoot _
  | .zenithAttest _
  | .zenithBootinfo _
  | .zenithSetworld _
  | .zenithBootclr _
  | .zenithDiag _ _
  | .zenithAutoDiag _ _
  | .eccError _
  | .writebackPoison _
  | .illegalEnc _
  | .fetchFault _
  | .rfwdSlotFree _ _ _ _
  | .spareCombLightChange _ _
  | .bar0RegisterRead _ _ => none

/-- The word of an instruction without its B bit. -/
def WordInfo.word (x : WordInfo) : Nat := x.uop * 4194304 + x.body

/-- Encodes an instruction as a bundle of its own: a header goes before it where it needs a lend (04 R79). -/
def encode (i : Instr) : List Nat :=
  match i.info with
  | none => []
  | some x =>
    if x.lend = 0 ∧ x.hdr = false then [2147483648 + x.word]
    else [4160749568 + x.lend * 262144, x.word]

/-! ## Decoding a bundle -/

/-- A decoded bundle: its words, and the instructions that they hold in order, header left out. -/
structure Bundle where
  words : List Nat
  items : List Instr
deriving DecidableEq, Repr

/-- Units of a word, S, V, M, E (04 R75). -/
def WordInfo.unit (x : WordInfo) : Nat := x.uop / 128

/-- Two row sources of one bank, or two views (05 R99). -/
def selsBad : List Sel → Bool
  | [.row i, .row j] => i != j && i.val % 2 == j.val % 2
  | [.row _, _] => false
  | [_, .row _] => false
  | [_, _] => true
  | _ => false

/-- A destination that counts for R81: s0 does not. -/
def Dest.counts : Dest → Bool | .s n => n != 0 | _ => true

/-- COMPOSE, VIEW, DEST, CONTROL and RANGE of one word after the words `prev` of its bundle (04 R81, R33). -/
def composeCheck (phlo phcnt rings : Nat) (prev : List WordInfo) (x : WordInfo) : Option Reason :=
  if (prev.any fun y => y.uop == 0 && y.body == 0) ||
     decide ((if x.unit = 1 then 2 else 1) ≤ (prev.filter fun y => y.unit == x.unit).length) then some .compose
  else if selsBad x.sels then some .view
  else if x.dst.any fun d => d.counts && prev.any fun y => y.dst.contains d then some .dest
  else if prev.any fun y => (x.xfer && y.ctl) || (x.ctl && y.xfer) then some .control
  else if (match x.hnd with | some h => decide (h.val < phlo) || decide (phlo + phcnt ≤ h.val) | none => false) ||
     (match x.ring with | some q => decide (rings ≤ q.val) | none => false) then some .range
  else none

/-- One word of a bundle of `n` words: decoded, then checked against the words before it. -/
def decodeItem (phlo phcnt rings n : Nat) (prev : List WordInfo) (w l : Nat) (h : Bool) :
    Except Reason (Instr × WordInfo) :=
  if w / 134217728 % 16 = 15 then .error .header
  else
    match decodeWord w l h with
    | .error r => .error r
    | .ok i =>
      match i.info with
      | none => .error .unassigned
      | some x =>
        match x.endOff with
        | some e =>
          if e < n then .error .reserved
          else match composeCheck phlo phcnt rings prev x with
            | some r => .error r
            | none => .ok (i, x)
        | none =>
          match composeCheck phlo phcnt rings prev x with
          | some r => .error r
          | none => .ok (i, x)

/-- The words from index `k` on, each with its lend; the failing word with the lowest index is reported (04 R83). -/
def decodeItems (phlo phcnt rings n : Nat) (h : Bool) : Nat → List WordInfo → List (Nat × Nat) →
    Except (Nat × Reason × Nat) (List Instr)
  | _, _, [] => .ok []
  | k, prev, (w, l) :: ws =>
    match decodeItem phlo phcnt rings n prev w l h with
    | .error r => .error (k, r, w)
    | .ok (i, x) =>
      match decodeItems phlo phcnt rings n h (k + 1) (prev ++ [x]) ws with
      | .error e => .error e
      | .ok is => .ok (i :: is)

/-- The lend fields of header `h` (04 R79). -/
def lends (h : Nat) : List Nat := [fld h 18 9, fld h 9 9, fld h 0 9]

/-- Pairs each word with its lend. -/
def withLends : List Nat → List Nat → List (Nat × Nat)
  | [], _ => []
  | w :: ws, [] => (w, 0) :: withLends ws []
  | w :: ws, l :: ls => (w, l) :: withLends ws ls

/-- Decodes a framed bundle for a kernel with this handle and ring range (04 R82). A failure gives WIDX, REASON and
WORD of R83. A lend with no word to serve is charged to the header. DEDUCED, log entry 8. -/
def decodeBundle (phlo phcnt rings : Nat) (ws : List Nat) : Except (Nat × Reason × Nat) Bundle :=
  match ws with
  | [] => .error (0, .frame, 0)
  | w :: rest =>
    if 4 < ws.length then .error (0, .frame, w)
    else if w / 134217728 % 16 = 15 then
      if rest.isEmpty || ((lends w).drop rest.length).any (· != 0) then .error (0, .header, w)
      else
        match decodeItems phlo phcnt rings ws.length true 1 [] (withLends rest (lends w)) with
        | .error e => .error e
        | .ok is => .ok ⟨ws, is⟩
    else
      match decodeItems phlo phcnt rings ws.length false 0 [] (withLends ws []) with
      | .error e => .error e
      | .ok is => .ok ⟨ws, is⟩

/-- REASON codes (04 R83). -/
def Reason.code : Reason → Nat
  | .unassigned => 1 | .reserved => 2 | .header => 3 | .compose => 4 | .view => 5 | .dest => 6 | .control => 7
  | .frame => 8 | .range => 9 | .poolref => 10

/-- The bundle that a table row's bits stand for: a word with B = 1 alone; one with B = 0 goes on a bundle, here behind a header
without lends; of a longer row the first word is the header. -/
def tableWords (nbits w : Nat) : List Nat :=
  let v := w % 4294967296
  if 32 < nbits then [v, w / 4294967296 % 4294967296]
  else if v < 2147483648 then [4160749568, v]
  else [v]

/-- The instruction that the decoder reads from a table row's bits, for a kernel with every handle and ring. -/
def decodeTableWord (nbits w : Nat) : Option Instr :=
  match decodeBundle 0 96 8 (tableWords nbits w) with
  | .ok ⟨_, [i]⟩ => some i
  | _ => none

end Sys2Proof
end

