-- ==== Sys2Proof/Machine/Bits.lean ====
section
/-! DEFINITION. Bit fields, sign extension and little-endian byte lists (00 R3, R8). -/

namespace Sys2Proof.Machine

/-- Bits [lo + n − 1 : lo] of a number. -/
def nb (x lo n : Nat) : Nat := x / 2 ^ lo % 2 ^ n

/-- Bits [lo + n − 1 : lo] of a word, as a number. -/
def bf {w : Nat} (x : BitVec w) (lo n : Nat) : Nat := x.toNat / 2 ^ lo % 2 ^ n

/-- Bit `i` of a word. -/
def bitOf {w : Nat} (x : BitVec w) (i : Nat) : Bool := x.getLsbD i

/-- A Boolean as a bit. -/
def b2n (b : Bool) : Nat := bif b then 1 else 0

/-- An `n`-bit two's complement number (00 R8). -/
def sx (n x : Nat) : Int := if x % 2 ^ n < 2 ^ (n - 1) then (x % 2 ^ n : Nat) else (x % 2 ^ n : Nat) - (2 ^ n : Int)

/-- A word of 64 bits from an integer, modulo 2^64. -/
def w64 (i : Int) : W64 := BitVec.ofInt 64 i

/-- The little-endian number of a byte list (00 R3). -/
def leNat : List Byte → Nat
  | [] => 0
  | b :: bs => b.toNat + 256 * leNat bs

/-- `n` little-endian bytes of a number (00 R3). -/
def natLe : Nat → Nat → List Byte
  | 0, _ => []
  | n + 1, x => BitVec.ofNat 8 x :: natLe n (x / 256)

/-- A row whose lane `i` is `f i`. -/
def rowOf (f : Nat → W32) : Vector W32 64 := Vector.ofFn fun i => f i.val

/-- Lane `i` of a row, 0 past the end. -/
def lane (r : Vector W32 64) (i : Nat) : W32 := r.getD i 0

/-- A mask whose bit `i` is `f i`. -/
def maskOfFn (f : Nat → Bool) : W64 := BitVec.ofNat 64 ((List.range 64).foldl (fun a i => a + b2n (f i) * 2 ^ i) 0)

/-- The number of one bits. -/
def popCount {w : Nat} (x : BitVec w) : Nat := (List.range w).foldl (fun a i => a + b2n (x.getLsbD i)) 0

/-- Leading zero bits of a `w`-bit word. -/
def leadZeros {w : Nat} (x : BitVec w) : Nat :=
  (List.range w).foldl (fun a i => if x.getLsbD i then w - 1 - i else a) w

/-- CRC-32C of a byte list: initial value and final XOR all ones, as 05 R107 gives them; the reflected polynomial 0x82F63B78, and the same
ends for a flit (13 R308), are what the name stands for elsewhere. PRESUMED, log entry 62. -/
def crc32c (bs : List Byte) : W32 :=
  let stepBit : W32 → W32 := fun c => bif c.getLsbD 0 then (c >>> 1) ^^^ 0x82F63B78#32 else c >>> 1
  let stepByte : W32 → Byte → W32 := fun c b => (List.range 8).foldl (fun c _ => stepBit c) (c ^^^ b.setWidth 32)
  bs.foldl stepByte 0xFFFFFFFF#32 ^^^ 0xFFFFFFFF#32

end Sys2Proof.Machine
end

