-- ==== Sys2Proof/Machine/State.lean ====
section
/-! DEFINITION. The state of the device as plain data, the reasons a step can stop, and the state after reset. -/

namespace Sys2Proof.Machine

/-! ## A context -/

/-- A vector row: 64 lanes of 32 bits (05 R98). -/
abbrev Row := Vector W32 64

/-- Sixteen bytes: a granule (00 R3). -/
abbrev Gran := BitVec 128

/-- A loop stack entry (05 R101). -/
structure LoopEnt where
  count : W32
  first : Addr
  fin : Addr
deriving DecidableEq, Repr

/-- A blocking wait as WAITST records it (12 R271). -/
structure Wait where
  kind : Nat
  h : Nat := 127
  arg : Nat := 0
  since : W32 := 0
  /-- Of a parked translation, kind 11: the page (bits [47:16] of the VA), and TINFO and TPC of a HOSTFAIL (09 R197). -/
  page : W32 := 0
  info : W64 := 0
  tpc : Addr := 0
deriving DecidableEq, Repr

/-- The value of a result in flight: a scalar register, the lanes of a row, or bits of CM. -/
inductive FVal where
  | s (n : Fin 32) (x : W64)
  | v (n : Fin 64) (x : Row)
  | cm (x : W64)
deriving DecidableEq, Repr

/-- A non-interlocked result that has not reached its bound (05 R94). -/
structure Flight where
  val : FVal
  /-- The lanes or bits it covers; of a scalar, bit 0. -/
  lanes : W64
  /-- The lanes or bits that its landing still writes: a later result to the same place, or an early landing, clears them. -/
  live : W64
  /-- Cycles that still have to pass before it lands. -/
  left : Nat
  /-- Flags that its landing raises (06 R130). -/
  flags : BitVec 7
deriving DecidableEq, Repr

/-- Where a translated global access lands (09 R192, R198): plain memory, the host window, or a cell. -/
inductive GRef where
  | mem (pa : Nat)
  | host (pa : Nat)
  | raw (pa : Nat)
  | cell (pa : Nat) (e0 : BitVec 10) (rfmt : Fin 4)
deriving DecidableEq, Repr

/-- What one read of a global load brings: bytes with their flags, or the unit of a poison (16 R374). -/
inductive LdGot where
  | ok (bs : List Byte) (fl : BitVec 7)
  | poison (unit : BitVec 16)
deriving DecidableEq, Repr

/-- What a scoreboarded destination waits for (05 R96). -/
inductive PendWhat where
  /-- A global load of `size` bytes for each lane (09 R206): the lanes that are still to be read, and what the others have brought. -/
  | load (va : Addr) (size : Nat) (f : Bool) (lanes : List (Nat × GRef)) (got : List (Nat × LdGot))
  /-- A load that a halt discarded: it is issued again on resume (09 R207). -/
  | again (va : Addr) (size : Nat) (f : Bool) (lanes : List Nat)
  /-- A value sampled when the instruction issued. -/
  | ans (x : W64)
  /-- The answer of a Zenith service: service and argument (16 R372). -/
  | smc (svc arg : W64)
  /-- A checker's destination that receives the primary's value (05 R106), with EM as it stood at the issue. -/
  | mirror (em : W64)
deriving DecidableEq, Repr

/-- A scoreboarded destination. -/
structure Pend where
  dst : Dest
  what : PendWhat
  /-- Address of the bundle that issued it. -/
  pc : Addr
  /-- Of a CHECK primary: its checker never issues that bundle, as a trap has come between (05 R106, R108). -/
  alone : Bool := false
deriving DecidableEq, Repr

/-- An item of the byte stream of a commit signature (05 R107): bytes, or what a scoreboarded destination will receive, with EM as it
stood at the issue. -/
inductive SigItem where
  | bytes (bs : List Byte)
  | due (d : Dest) (em : W64)
deriving DecidableEq, Repr

/-- A bundle's commit signature that has not been compared: the bundle's address, its items, the cycles until its last
non-interlocked result has landed, and the cycles since the bundle issued. -/
structure Sig where
  pc : Addr
  items : List SigItem
  left : Nat
  age : Nat := 0
deriving DecidableEq, Repr

/-- A packet in a fetch buffer: its address and its eight words (04 R68). -/
structure Packet where
  va : Addr
  words : List W32
deriving DecidableEq, Repr

/-- An operand ring descriptor (10 R220, 11 R253). -/
structure Ring where
  set : Bool
  base : Nat
  psize : Nat
  cap : Nat
  head : W32
  tail : W32
  claim : W32
  /-- Panels past TAIL that copies have performed whole, while an earlier one is not yet (11 R253). -/
  early : List W32
deriving DecidableEq, Repr

/-- A scale table declaration (10 R222). -/
structure ScDecl where
  base : Nat
  rows : Nat
  blks : Nat
deriving DecidableEq, Repr

/-- A completion handle as a command captured it: the handle, and the object it was bound to (12 R266). -/
structure Arrive where
  h : Fin 96
  obj : Nat
deriving DecidableEq, Repr

/-- A command of a matrix queue (10 R215). -/
inductive MxKind where
  | go (mxc : Vector W64 16)
  | ld (addr region : W64) (st : Bool)
  | st (addr region : W64) (st : Bool)
  | z (region : W64) (st : Bool)
deriving DecidableEq, Repr

/-- A queued matrix command with its progress: chunks done, whether it has started, its C fill or partial accumulators by
element index, the ring counts its reading began at (10 R216, R219); and the scale records, by table and number, that tile
commands have overwritten since it was committed, as they stood then, `none` for a poisoned one (R223). -/
structure MxCmd where
  kind : MxKind
  arr : Option Arrive
  started : Bool
  chunk : Nat
  acc : List W32
  accValid : Bool
  heads : List W32
  kept : List (Nat × Nat × Option Nat)
deriving DecidableEq, Repr

/-- Join state of a context (10 R218): pending with the number of earlier tile commands still to be performed. -/
inductive Join where
  | none
  | pending (ahead : Nat)
  | inEffect
deriving DecidableEq, Repr

/-- Where a halt request comes from (16 R362): a CTXCTL names the core and handle of its arrival. -/
inductive HaltSrc where
  | kill
  | requeue
  | ctxctl (arr : Option (Nat × Arrive))
deriving DecidableEq, Repr

/-- A halt request: its sources, whether it has reached the context, PSLACK as sampled and the cycles since. -/
structure HaltReq where
  kill : Bool
  requeue : Bool
  ctl : Bool
  arrs : List (Nat × Arrive)
  reached : Bool
  slack : Nat
  age : Nat
deriving DecidableEq, Repr

/-- What occupies a context (03 R56, R58, R62; 06 R131; 16 R363). -/
inductive OccSt where
  /-- Reserved and prepared as a preload, not started. -/
  | preload
  /-- Reserved and prepared, not started. -/
  | prepared
  | running
  /-- Halted: it issues nothing until it is resumed, saved or killed. -/
  | halted
  /-- The instance has been written to its save record. -/
  | saved
  /-- HALT has retired the instance; trailing work may remain. -/
  | retired
deriving DecidableEq, Repr

/-- The kernel and instance that occupy a context. -/
structure Occ where
  kid : Nat
  n : Nat
  st : OccSt
deriving DecidableEq, Repr

/-- A context: its registers (05, 06, 07, 16), its engines' part (10, 11) and what occupies it. -/
structure Ctx where
  s : Vector W64 32
  v : Vector Row 64
  em : W64
  cm : W64
  pc : Addr
  /-- The loop stack, innermost entry first. -/
  loops : List LoopEnt
  arith : BitVec 7
  rmode : BitVec 3
  srseed : W64
  rsdctr : W32
  tvec : Addr
  tcause : BitVec 8
  tpc : Addr
  tinfo : W64
  hnd : Bool
  mid : Bool
  self : Bool
  restarted : Bool
  nsave : BitVec 8
  pslack : BitVec 15
  fewdog : W32
  waitdog : W32
  cycle : W64
  kcoord : W64
  kshape : W64
  pkey : BitVec 16
  spbase : Nat
  spsize : Nat
  gmode : BitVec 2
  gdec : Bool
  gchk : Bool
  gskew : BitVec 3
  wait : Option Wait
  flight : List Flight
  pends : List Pend
  fbuf : List Packet
  rings : Vector Ring 8
  mxc : Vector W64 16
  mxq : List MxCmd
  /-- Matrix run-time fault recorded for MXWAIT (10 R227, R231). -/
  mxfault : Option FaultRec
  hold : Bool
  join : Join
  sctab : SMap (Option ScDecl)
  /-- The fault record kept under R248. -/
  frec : Option FaultRec
  hreq : Option HaltReq
  ctlhalt : Bool
  /-- Arrivals of CTXCTL RESTART and RESUME that the context's next issue delivers: core and handle (16 R370). -/
  rarr : List (Nat × Arrive)
  /-- Kind of the wait that has been performed and whose bundle issues next: the model's own latch. -/
  granted : Option Nat
  wake : Bool
  /-- REJN arrival raised (05 R111). -/
  arrived : Bool
  /-- Yielded(x) of 05 R92. -/
  yielded : Bool
  /-- Wait half of a PHNEXT: handle, scope, and the address a trap of it reports (12 R276). -/
  phnext : Option (Fin 96 × Scope × Addr)
  occ : Option Occ
  /-- Values that a CHECK primary's RDSR has read and its checker has still to read, oldest first (05 R106). -/
  mir : List W64
  /-- The same for scoreboarded destinations: what the primary's register received, with the flags of that landing. -/
  mirv : List (FVal × BitVec 7)
  /-- Commit signatures not yet compared, oldest first (05 R107). -/
  sigs : List Sig
  /-- In the fetching core of a gang: the bundles that it has issued in its last advances, newest first, each with its address,
  its words (none for an advance without a bundle) and its successor (05 R104). -/
  stream : List (Addr × List Nat × Addr)
  /-- The boundary that the context stands at is an iteration boundary of its innermost loop (05 R101). -/
  iter : Bool
  /-- The words of the bundle that is being issued, and its sequential successor (04 R69): the model's own latch. -/
  bwords : List Nat
  bsucc : Addr
deriving DecidableEq, Repr

/-- A ring that RINGSET has not set. -/
def Ring.unset : Ring := ⟨false, 0, 0, 0, 0, 0, 0, []⟩

/-- A context as it stands after reset: free, every register at zero but EM, PSLACK (05 R103).
The vector rows and every other register of a free context have no reset value in the spec. DESIGN CHOICE, log entry 3. -/
def Ctx.init : Ctx where
  s := Vector.replicate 32 0
  v := Vector.replicate 64 (Vector.replicate 64 0)
  em := BitVec.allOnes 64
  cm := 0
  pc := 0
  loops := []
  arith := 0
  rmode := 0
  srseed := 0
  rsdctr := 0
  tvec := 0
  tcause := 0
  tpc := 0
  tinfo := 0
  hnd := false
  mid := false
  self := false
  restarted := false
  nsave := 0
  pslack := 16384
  fewdog := 0
  waitdog := 0
  cycle := 0
  kcoord := 0
  kshape := 0
  pkey := 0
  spbase := 0
  spsize := 0
  gmode := 0
  gdec := false
  gchk := false
  gskew := 0
  wait := none
  flight := []
  pends := []
  fbuf := []
  rings := Vector.replicate 8 Ring.unset
  mxc := Vector.replicate 16 0
  mxq := []
  mxfault := none
  hold := false
  join := .none
  sctab := []
  frec := none
  hreq := none
  ctlhalt := false
  rarr := []
  granted := none
  wake := false
  arrived := false
  yielded := false
  phnext := none
  occ := none
  mir := []
  mirv := []
  sigs := []
  stream := []
  iter := false
  bwords := []
  bsucc := 0

/-! ## A core -/

/-- MODE of a handle (12 R266). -/
inductive HMode where
  | none | sig | wait | sigwait
deriving DecidableEq, Repr

/-- A pending registration or drop of a handle (12 R268). -/
inductive HPend where
  | none
  | reg (m : HMode)
  | drop
deriving DecidableEq, Repr

/-- A phaser handle (12 R266). -/
structure Handle where
  obj : Option Nat
  mode : HMode
  pend : HPend
  lph : W32
  sph : W32
  frec : Option FaultRec
deriving DecidableEq, Repr

/-- A handle at instance start: unbound (12 R266). -/
def Handle.unbound : Handle := ⟨none, .none, .none, 0, 0, none⟩

/-- A translation (09 R190 to R192): the VA range it covers and what the leaf says. -/
structure Xl where
  va : Nat
  size : Nat
  pa : Nat
  r : Bool
  w : Bool
  x : Bool
  cell : Bool
  raw : Bool
  sec : Bool
  e0 : BitVec 10
  rfmt : Fin 4
deriving DecidableEq, Repr

/-- A TLB entry, tagged with ASID and world (09 R194). -/
structure Tlbe where
  asid : Nat
  world : Bool
  xl : Xl
deriving DecidableEq, Repr

/-- A cached line of 128 bytes as eight granules (04 R67, 09 R200). -/
abbrev Line := Vector Gran 8

/-- A line of the read-only L1 with the granules that its fill has brought so far (09 R200). -/
abbrev L1Line := Vector (Option Gran) 8

/-- A page-table walk in flight (09 R194): what it walks for, the table entry that it reads next, and its accessors. -/
structure Walk where
  asid : Nat
  world : Bool
  va : Nat
  lvl : Nat
  tab : Nat
  n : Nat
deriving DecidableEq, Repr

/-- A shape record (11 R251). -/
structure Shape where
  run : Nat
  n1 : Nat
  n2 : Nat
  sstr1 : Int
  dstr1 : Int
  sstr2 : Int
  dstr2 : Int
  ring : Option (Fin 8)
deriving DecidableEq, Repr

/-- A command of a copy engine's queue (11 R238): bits [5:0] of its OP, its lend and operands, the context, kernel and
instance that issued it, its captured handle, and its progress. -/
structure Copy where
  /-- Order of issue, and the TAG of its flits. -/
  id : Nat
  op : Nat
  lend : CopyLend
  a : W64
  b : W64
  c : W64
  arr : Option Arrive
  ctx : Nat
  kid : Nat
  n : Nat
  len : Nat
  shape : Option Shape
  /-- First panel claimed of a ring destination (11 R253). -/
  claim : W32
  started : Bool
  /-- The acquire of an ACQ command has been performed. -/
  acqDone : Bool
  /-- Bytes read of the source; of a pod source, bytes asked for. -/
  off : Nat
  /-- Flits sent that the target has not acknowledged as performed (13 R312). -/
  unacked : Nat
  /-- Landing ring and message count of a PUTS (13 R320), and whether the header flit has been sent. -/
  slot : Option (Nat × W32)
  headed : Bool
  /-- Parked for the host on a page, or for a pod copy the unit that is being sent to: bits [47:16] of the VA. -/
  parked : Bool
  page : W32
  /-- Ranges that READREQ flits have asked for and that have not been answered: offset and length. -/
  asked : List (Nat × Nat)
  /-- Bytes performed, or sent; the bytes read that follow them; later answers of a pod source by offset; and the offset at which the
  source ends in a fault, with its record: the bytes go to the destination in order of their offsets (11 R248, R251). -/
  wr : Nat
  buf : List Byte
  got : List (Nat × List Byte)
  bad : Option (Nat × FaultRec)
  fault : Option FaultRec
deriving DecidableEq, Repr

/-- A core: scratchpad, caches, copy engine, tile store, handles (01 R18; 04 R67; 09; 10; 11; 12). -/
structure Core where
  /-- W and Forced of 05 R92. -/
  w : Nat
  forced : Bool
  /-- Scratchpad bytes by offset in the core's 4 MiB. -/
  sp : SMap Byte
  /-- Full-empty bits by granule of the core's scratchpad. -/
  fe : SMap Bool
  /-- Poisoned granules of scratchpad and tile store (16 R374). -/
  spPoison : List Nat
  tilePoison : List Nat
  /-- Instruction cache by line number PA ÷ 128, and the granules of fills in progress. -/
  icache : SMap (Option Line)
  ifill : SMap (List (Nat × Gran))
  /-- Read-only L1. -/
  l1 : SMap (Option L1Line)
  tlb : List Tlbe
  copies : List Copy
  /-- Tile store words by 256 × row + column (10 R212), its status word and its claim. -/
  tile : SMap W32
  tstatus : BitVec 7
  claim : Option Nat
  handles : Vector Handle 96
deriving DecidableEq, Repr

/-- A core after its reset. -/
def Core.init : Core :=
  { w := 0, forced := false, sp := [], fe := [], spPoison := [], tilePoison := [], icache := [], ifill := [], l1 := [],
    tlb := [], copies := [], tile := [], tstatus := 0, claim := none, handles := Vector.replicate 96 Handle.unbound }

/-! ## A matrix group and a die -/

/-- The run of an array: the core served, operations started in it and array cycles spent (10 R216). -/
structure Run where
  core : Nat
  ops : Nat
  cycles : Nat
deriving DecidableEq, Repr

/-- Tag of a record in the scale cache: core, context, table, row, block (10 R222). -/
structure ScTag where
  ctx : Nat
  t : Nat
  row : Nat
  blk : Nat
deriving DecidableEq, Repr

/-- A matrix group: its run, the core (0 to 3) that held the lease last, and the scale cache. -/
structure Group where
  run : Option Run
  last : Nat
  scache : List (ScTag × BitVec 16)
deriving DecidableEq, Repr

/-- A group after reset. -/
def Group.init : Group := ⟨none, 3, []⟩

/-! ## Dispatcher -/

/-- The device's copy of a kernel record (02 R26, R27). -/
structure KRec where
  ctx : Nat
  gang : Nat
  supv : Bool
  preload : Bool
  rerun : Nat
  ovr : Bool
  world : Bool
  msix : Bool
  codeBase : W64
  entry : W32
  dk : Nat
  gk : Nat
  ck : Nat
  sk : Nat
  scratch : Nat
  phlo : Nat
  phcnt : Nat
  rings : Nat
  prio : Nat
  pkey : BitVec 16
  budget : W64
  /-- Wait entries: object and phase of each valid one (02 R28). -/
  waits : List (Option (Nat × W32))
  done : Option Nat
  crec : W64
  srseed : W64
  supidx : Nat
  msixvec : Nat
  args : List W64
deriving DecidableEq, Repr

/-- Completion status codes (17 R380). -/
inductive Status where
  | ok | fault | overrun | depfail | badrec | killed
deriving DecidableEq, Repr

/-- What ends a kernel's run: the status its completion record will carry and the cause, if a cause ended it. -/
structure EndInfo where
  status : Status
  cause : Option Cause
  tpc : Addr
  info : W64
  n : Nat
  unit : BitVec 16
  evict : Bool
  pair : Bool
deriving DecidableEq, Repr

/-- Where a kernel stands in the dispatcher. -/
inductive KSt where
  | cand
  | preloaded
  | placed
  /-- Halting for a requeue (03 R60, 16 R362). -/
  | requeueing (overrun : Bool)
  /-- Halting for a kill (16 R360). -/
  | killing
deriving DecidableEq, Repr

/-- A kernel that the dispatcher holds: a candidate, a preload or a placed kernel (03 R49 to R63). -/
structure Kernel where
  krec : KRec
  q : Nat
  st : KSt
  /-- Wait entries once satisfied. -/
  sat : List Bool
  /-- Core cycle from which the aging count w runs (03 R51, R52). -/
  born : Nat
  /-- Requeued or rerun, so that it stands ahead of a candidate taken from the entries (03 R49). -/
  again : Bool
  /-- A saved kernel resumes from its records (03 R60). -/
  saved : Bool
  reruns : Nat
  ovrcnt : Nat
  /-- Physical context of each instance. -/
  ctxs : List Nat
  /-- Instances that have retired with their trailing work performed (06 R131). -/
  gone : List Nat
  fin : Option EndInfo
  /-- Core cycle in which the kill began (16 R360). -/
  finAt : Nat := 0
  /-- Kernels behind whose rerun it may not be preloaded until they retire (03 R63). -/
  noPre : List Nat
  /-- Kernels that have overrun with OVR = 1 while it stood preloaded behind them: its start waits until they retire (03 R63). -/
  deferred : List Nat := []
  /-- OR of the ARITH of its instances and the largest cycle count, for the completion record (17 R380). -/
  arith : BitVec 7
  cycles : W64
deriving DecidableEq, Repr

/-- A launch queue's register block (03 R45), its candidates in order and the kernel in its save area. -/
structure Queue where
  base : Addr
  log2n : BitVec 5
  qprio : BitVec 3
  src : Bool
  en : Bool
  tail : W32
  head : W32
  err : BitVec 4
  errptr : W64
  save : Addr
  cands : List Nat
  savedKid : Option Nat
  /-- The record that is being read: its address and the 8-byte units that have been read (02 R30). -/
  part : Option (Nat × List Byte)
deriving DecidableEq, Repr

/-- A launch queue after reset (03 R45). -/
def Queue.init : Queue := ⟨0, 4, 0, false, false, 0, 0, 0, 0, 0, [], none, none⟩

/-- What is pending at an object for a handle: the handle's own pending mode, or the drop of a signalling member whose handle has
been bound elsewhere, with that member's signal phase (12 R268, R273). -/
inductive RegWhat where
  | handle
  | gone (sph : W32)
deriving DecidableEq, Repr

/-- A phaser object (12 R263), with the registrations and drops pending at it (R268): core and handle of each. -/
structure Phaser where
  phase : W32
  anon : Nat
  nsig : Nat
  sc0 : Nat
  sc1 : Nat
  acnt : Nat
  broken : Bool
  /-- PHASE when the object broke: whether an entry of 02 R28 had been satisfied before (03 R53). -/
  brokenAt : W32
  pend : List (Nat × Fin 96 × RegWhat)
deriving DecidableEq, Repr

/-- A phaser object after reset. -/
def Phaser.init : Phaser := ⟨0, 0, 0, 0, 0, 0, false, 0, []⟩

/-- A message on its way to a phaser object (12 R267, R268). -/
inductive PhMsg where
  /-- A member signal of a handle, with its signal phase. -/
  | member (obj : Nat) (core : Nat) (h : Fin 96) (p : W32)
  /-- `n` anonymous arrivals, with the fault record they carry, and the handle that will hold it. -/
  | anon (obj : Nat) (n : Nat) (fault : Option FaultRec) (core : Nat) (h : Option (Fin 96))
  /-- A registration or drop of a handle; the drop of a signalling member brings its SPH with it. -/
  | reg (obj : Nat) (core : Nat) (h : Fin 96) (what : RegWhat) (first : Option W32)
deriving DecidableEq, Repr

/-! ## The wavelength fabric -/

/-- A message that leaves the device for the pod other than a data flit: CTRL flits, and what the Orreries say to each other.
The spec gives no bit layout of them. -/
inductive FabMsg where
  | flit (port line : Nat) (f : Flit)
  /-- TIME of 13 R294, on a direct link. -/
  | time (port line : Nat) (sync : Bool)
  /-- A link acknowledgement with the slots released; `again` asks for a replay from the next LSEQ on (14 R329). -/
  | linkAck (port line : Nat) (ack : BitVec 16) (f0 f1 f2 : Nat) (again : Bool)
  | performed (dst : BitVec 13) (tag : BitVec 16) (n : Nat) (bad : Option FaultRec)
  | request (r : LeaseReq)
  | answer (dst src : BitVec 13) (lid port : Nat) (a : LeaseAns)
  | confirm (dst src : BitVec 13) (lid port : Nat)
  | release (dst src : BitVec 13) (lid port : Nat)
  | revoke (dst src : BitVec 13) (lid port : Nat)
  | cancel (dst src : BitVec 13) (lid port : Nat)
  | displace (port line : Nat) (groups : BitVec 6) (fr : Nat)
  /-- LOSS, SUBST and REMOVE name the port and comb line of the node that sends them, whether it is the receiving end, and the frame at
  whose start the change takes effect. -/
  | loss (dst : Option (BitVec 13)) (det : Bool) (port line : Nat)
  | subst (dst : Option (BitVec 13)) (det : Bool) (port line line2 fr : Nat)
  | remove (dst : Option (BitVec 13)) (det : Bool) (lid : Option Nat) (port line fr : Nat)
  | skew (dst : BitVec 13) (lid port : Nat)
  | rhead (dst : BitVec 13) (ring : Nat) (head : W32)
  | replay (port line lport lline : Nat) (first : BitVec 16) (n : Nat) (start : BitVec 16)
  | announce (node : BitVec 13) (die : Fin 4) (comm : BitVec 16) (key : W64)
  | admission (node : BitVec 13) (die : Fin 4) (comm : BitVec 16) (key : W64) (rank : Nat)
  | finished (node : BitVec 13) (die : Fin 4) (comm : BitVec 16) (key : W64) (rank : Nat)
  | abort (node : BitVec 13) (die : Fin 4) (comm : BitVec 16) (key : W64) (dog : Bool)
  | rfwd (node : BitVec 13) (die : Fin 4) (comm : BitVec 16) (key : W64) (n : Nat) (data : List Byte) (src : BitVec 13)
      (tag pkey : BitVec 16)
  | slotFree (node : BitVec 13) (die : Fin 4) (comm : BitVec 16) (key : W64) (n : Nat)
deriving DecidableEq, Repr

/-- A direct link (p, k), k below 64 (13 R292, R309; 14 R329, R330): sending state of line k of port p, and receiving state of
what arrives at port p on comb line k. -/
structure Link where
  /-- Next LSEQ to send, and next LSEQ expected. -/
  tx : BitVec 16
  rx : BitVec 16
  /-- Free-slot counts of the receiver's buffers. -/
  free0 : Nat
  free1 : Nat
  free2 : Nat
  /-- Buffer slots freed and not yet returned to the sender. -/
  owe0 : Nat
  owe1 : Nat
  owe2 : Nat
  /-- Flits accepted since the last LACK was returned. -/
  unack : Nat
  /-- The node whose flits arrive here, as its TIME flits have said. -/
  peer : Option (BitVec 13)
  /-- A replay announced on this link: the lost link, the original LSEQ that comes next, how many flits still follow, and the LSEQ of
  this link with which the next of them comes. -/
  replay : Option (Nat × BitVec 16 × Nat × BitVec 16)
  /-- The first three of a replay that this device sends here. -/
  out : Option (Nat × BitVec 16 × Nat)
deriving DecidableEq, Repr

/-- A link when its port is enabled. -/
def Link.init : Link := ⟨0, 0, 256, 64, 64, 0, 0, 0, 0, none, none, none⟩

/-- Whose flit it is: a copy command, a transfer of the COLL `id` that holds a ticket, a flit in transit (the link it came in on), an answer, or
nobody's any more: a given-up flit that still fills its place in a replay that has been announced (14 R330, R331). -/
inductive FlitOwner where
  | copy (core id : Nat)
  | ticket (die t id : Nat)
  | transit (link : Nat)
  | reply (port : Nat)
  | gone
deriving DecidableEq, Repr

/-- A flit that waits to be sent, with the Sidereal count at which it became ready. -/
structure OutFlit where
  own : FlitOwner
  f : Flit
  since : W64
deriving DecidableEq, Repr

/-- A flit in the replay store (14 R330, R331): the link it was sent on last, none while it waits to be replayed; when it was first sent;
the link and LSEQ that it was first sent with; and whether it is to be sent again on its own link. -/
structure Stored where
  own : FlitOwner
  f : Flit
  link : Option Nat
  since : W64
  orig : Nat
  olseq : BitVec 16
  again : Bool
deriving DecidableEq, Repr

/-- A control message that waits for a sending opportunity: first frame, first and last slot, comb line (`none` for any slot), and the
Sidereal count since which it waits. -/
structure CtlWait where
  fr : Nat
  lo : Nat
  hi : Nat
  line : Option Nat
  since : W64
  msg : FabMsg
deriving DecidableEq, Repr

/-- A verdict of the target's check (13 R311): the command, by SRC, TAG, PKEY and TYPE, the 64 KiB page, the refusal if there is one, and the
address space and page that the check found. -/
structure Verdict where
  src : BitVec 13
  tag : BitVec 16
  pkey : BitVec 16
  type : Fin 16
  page : Nat
  bad : Option FaultRec
  xl : Option (Nat × Xl)
deriving DecidableEq, Repr

/-- ORD flits to one node (13 R316): the path that they took last, the place of the next one in the stripe order, and place, TAG and payload
length of those that have not been acknowledged as performed. -/
structure OrdTx where
  dst : BitVec 13
  path : Nat
  next : Nat
  out : List (Nat × BitVec 16 × Nat)
deriving DecidableEq, Repr

/-- ORD flits from one node (13 R316; 14 R339): the place that is performed next, and the flits that have come before their turn, with the
link each holds a buffer slot of. -/
structure OrdRx where
  src : BitVec 13
  next : Nat
  held : List (Nat × Flit)
deriving DecidableEq, Repr

/-- Standing of one port of an outgoing lease (13 R301, R304). -/
inductive LpSt where
  | requesting
  | granted
  | inEffect
  | over
deriving DecidableEq, Repr

/-- WHY of a lease (13 R326). -/
inductive Why where
  | none | denied | timeout | revoked | repaired | expired | released | noroute
deriving DecidableEq, Repr

/-- One port of an outgoing lease. -/
structure LPort where
  port : Nat
  st : LpSt
  groups : BitVec 6
  fwd : Option (BitVec 13)
  line : Nat
  /-- Frame of effect, and the frame at whose start it ends, once known. -/
  eff : Nat
  fin : Option (Nat × Why)
  age : Nat
  retry : Nat
  /-- First frame in which its request may leave; and, once it has left, the end of its slot and the groups offered. -/
  from_ : Nat
  sent : Option W64
  offer : BitVec 6
  /-- HELD has arrived from the forwarder. -/
  held : Bool
  /-- A SKEW notice took it out of ORD striping from this frame on (14 R339). -/
  noOrd : Option Nat
deriving DecidableEq, Repr

/-- An outgoing lease (13 R300, R304, R324). -/
structure Lease where
  kid : Nat
  core : Nat
  /-- Issue order. -/
  seq : Nat
  peer : BitVec 13
  pkey : BitVec 16
  qpp : Nat
  frames : Nat
  gmask : BitVec 6
  ports : List LPort
  arr : Option Arrive
  endArr : Option (Option Arrive)
  settled : Bool
  took : Bool
  why : Why
  /-- BWREL was issued; the owning kernel has ended. -/
  rel : Bool
  orphan : Bool
  finished : Bool
deriving DecidableEq, Repr

/-- An incoming lease on one port: of a receiver, or of a forwarder, which names the port and line of its second segment. -/
structure Incoming where
  src : BitVec 13
  lid : Nat
  sport : Nat
  rport : Nat
  line : Nat
  groups : BitVec 6
  pkey : BitVec 16
  eff : Nat
  fin : Nat
  seq : Nat
  /-- The forwarder between, at the receiver, and whether its confirmation is still to come. -/
  via : Option (BitVec 13)
  held : Bool
  /-- The second segment, at a forwarder: peer, port, line. -/
  onward : Option (BitVec 13 × Nat × Nat)
deriving DecidableEq, Repr

/-- A forwarder's exchange under way (13 R305): the request, the second segment, the groups that it reserved, the peer's answer,
and the frame of the request. -/
structure Fwding where
  req : LeaseReq
  port : Nat
  line : Nat
  held : Option (BitVec 6)
  answer : Option LeaseAns
  frame : Nat
  /-- The sender's release notice has come already. -/
  ended : Bool
deriving DecidableEq, Repr

/-- What a mark on a port says (13 R300; 14 R335): lines are primary lines, 0 to 63, channels 0 to 35. -/
inductive MarkWhat where
  /-- The port's own comb line is served by the secondary line, or by the primary one again; or it has been removed. -/
  | line (k : Nat) (sec : Bool)
  | lineGone (k : Nat)
  /-- A spare channel stands in for a channel; a channel has been removed. -/
  | spare (b c : Nat)
  | chGone (c : Nat)
  /-- The comb line that arrives has changed, or has been removed by its sender. -/
  | inLine (k : Nat) (sec : Bool)
  | inGone (k : Nat)
  /-- A receiver has displaced the port's comb line in these groups. -/
  | displaced (k : Nat) (gs : BitVec 6)
  /-- The port's comb line `k`, 0 to 127, is lit again; its primary line is received again at its far end; a channel sends again. -/
  | lit (k : Nat)
  | heard (k : Nat)
  | chBack (c : Nat)
deriving DecidableEq, Repr

/-- A mark, in effect from the start of frame `fr` on. -/
structure Mark where
  fr : Nat
  port : Nat
  what : MarkWhat
deriving DecidableEq, Repr

/-- A landing ring (13 R319): `a` and `b` are HEAD and TAIL of a TX ring, RHEAD and RTAIL of an RX ring. -/
structure LandRing where
  kid : Nat
  core : Nat
  asid : Nat
  tx : Bool
  peer : BitVec 13
  plrid : Nat
  slotsz : Nat
  nslot : Nat
  base : Nat
  a : W32
  b : W32
  arr : Option Arrive
  /-- Messages, by full count, of which some data has landed and the header has not. -/
  landing : List W32
deriving DecidableEq, Repr

/-- A repair under way on a port (14 R334, R335, R338). -/
structure Repair where
  port : Nat
  /-- The lost comb line, 0 to 127; of a failed emitter, the lowest of its lines. -/
  line : Nat
  /-- The emitter that has failed, if that is what is repaired. -/
  chan : Option Nat
  /-- The attempt that runs: 0 the other line of the pair, 1 spare emitter 16, 2 spare emitter 17, 3 the lost line itself. -/
  attempt : Nat
  /-- Waiting for REPANS since `since`; or answered through it. -/
  waiting : Bool
  byHost : Bool
  since : W64
  /-- The spare emitter that the attempt needs is trying another line: the attempt has not begun. -/
  queued : Bool := false
deriving DecidableEq, Repr

/-- What an event record says (14 R341); its ports before and after are those of the lease when it is posted. -/
structure EvRec where
  type : Nat
  port : Nat := 0
  chan : Nat := 255
  line : Option Nat := none
  nline : Option Nat := none
  lid : Option Nat := none
  tdet : W64
  tact : W64
  peer : Nat := 0
  pkey : Nat := 0
  replayed : Nat := 0
  pbefore : Nat := 0
  pafter : Nat := 0
  frame : Nat := 0
  notice : Bool := true
  host : Bool := false
deriving DecidableEq, Repr

/-- A level of a collective's loop nest (15 R344). -/
structure Level where
  bound : Nat
  sstr : Int
  dstr : Int
  pcoef : Int
deriving DecidableEq, Repr

/-- A collective record as read (15 R344). -/
structure Coll where
  comm : BitVec 16
  gsize : Nat
  key : W64
  gtab : Nat
  rank : Nat
  levels : List Level
  act : Nat
  stage : Nat
  rxslot : Nat
  slotsz : Nat
  elems : Nat
  sbase : W64
  dbase : W64
  pbase : Int
  efmt : Nat
  rop : Nat
deriving DecidableEq, Repr

/-- A transfer of a collective to another node that is under way: its flits' TAG and node, the address and the data of what has
not been sent yet, and the flits that have not been acknowledged as performed (13 R311, R312). -/
structure Xfer where
  n : Nat
  tag : BitVec 16
  node : BitVec 13
  addr : Nat
  rest : List Byte
  count : Nat
  /-- The fault that its source met, which follows once the bytes below it have been performed (11 R248). -/
  bad : Option FaultRec
deriving DecidableEq, Repr

/-- A ticket (15 R343, R347, R348). -/
structure Ticket where
  coll : Coll
  kid : Nat
  ctx : Nat
  arr : Arrive
  core : Nat
  asid : Nat
  world : Bool
  pkey : BitVec 16
  since : W64
  /-- Number of the COLL among the device's commands: those of its context with a smaller number come before its first read. -/
  id : Nat
  /-- The group table as it was read last: node and die of each rank; and whether ANNOUNCE has gone to them. -/
  group : List (BitVec 13 × Fin 4)
  announced : Bool
  admitted : Bool
  admits : List Nat
  next : Nat
  xfers : List Xfer
  /-- RFWD messages landed; numbers of the messages consumed at the peers whose slots are this member's next; messages that wait for their slot. -/
  msgs : List (Nat × List Byte)
  freed : List Nat
  waiting : List (Nat × List Byte)
  sentDone : Bool
  dones : List Nat
deriving DecidableEq, Repr

/-- An Orrery (15 R343). -/
structure Orrery where
  tickets : SMap (Option Ticket)
  /-- Known keys (KEY, COMM) that are neither admitted nor aborted. -/
  known : List (W64 × BitVec 16)
  /-- What has arrived for a key whose COLL has not issued here: ranks of ADMIT. -/
  early : List (W64 × BitVec 16 × Nat)
  /-- The same for DONE. -/
  earlyDone : List (W64 × BitVec 16 × Nat)
  /-- Staging bytes reserved. -/
  used : Nat
deriving DecidableEq, Repr

/-- The fabric's registers, tables, Ephemeris, links, leases and flits (13, 14). -/
structure Fabric where
  en : Bool
  portEn : BitVec 16
  rtPend : Bool
  srcCap : Nat
  sync : Bool
  /-- Peers whose TIME flits have agreed, and those whose have not, in this frame: node numbers. -/
  timeGood : List Nat
  timeBad : List Nat
  reach : SMap W32
  member : SMap W32
  /-- Routing entries, active and shadow. -/
  rtA : SMap (BitVec 128)
  rtS : SMap (BitVec 128)
  /-- The Ephemeris banks: an entry that is not listed holds ROTOR or IDLE as R297 gives. -/
  eph0 : SMap (Option W32)
  eph1 : SMap (Option W32)
  ephAct : Bool
  /-- What repairs and displacements have changed, oldest first. -/
  marks : List Mark
  lerrCrc : BitVec 16
  lerrRsv : BitVec 16
  leases : SMap (Option Lease)
  leaseSeq : Nat
  incoming : List Incoming
  inSeq : Nat
  /-- Requests collected for arbitration, and exchanges of the forwarder. -/
  reqs : List LeaseReq
  fwds : List Fwding
  /-- Release notices that came before their request was arbitrated: source, LID, the sender's port (13 R304). -/
  early : List (BitVec 13 × Nat × Nat)
  ctlq : List CtlWait
  links : SMap Link
  outq : List OutFlit
  store : List Stored
  /-- Flits that each emitter has sent in this slot. -/
  sent : SMap Nat
  /-- What has left the device, newest first: an output, which nothing reads. -/
  wire : List FabMsg
  verdicts : List Verdict
  ordRx : List OrdRx
  ordTx : List OrdTx
  /-- SYNC of a node's last TIME flit, by node number. -/
  nodeSync : SMap Bool
  /-- The link on which the flits of a lost link are being replayed (14 R330). -/
  replayVia : SMap (Option Nat)
  rings : SMap (Option LandRing)
  /-- Comb lines under LOL, by 128 × port + line; channels without lock, by 36 × port + channel; detectors under LOS. -/
  dark : SMap Bool
  unlocked : SMap Bool
  los : SMap Bool
  /-- The port's own links that a LOSS notice says are lost at the far end, by 128 × port + primary line. -/
  lossTold : SMap Bool
  /-- The port's spare comb gives no light. -/
  spcDark : SMap Bool
  repairs : List Repair
  /-- Links under LOL whose flits have not been restriped yet: port, comb line, and the record that the restripe completes (14 R334). -/
  lol : List (Nat × Nat × EvRec)
  /-- SYNC has fallen, and has not come back since (13 R294). -/
  syncGone : Bool
  /-- Records of light, lock and repair that the start of the next slot posts. -/
  evq : List EvRec
  /-- Source and key of the PKEYMISS records of this frame. -/
  pkeyMiss : List (BitVec 13 × BitVec 16)
deriving DecidableEq, Repr

/-- An Orrery after reset. -/
def Orrery.init : Orrery := ⟨[], [], [], [], 0⟩

/-- The fabric after reset. -/
def Fabric.init : Fabric where
  en := false
  portEn := 0
  rtPend := false
  srcCap := 6
  sync := false
  timeGood := []
  timeBad := []
  reach := []
  member := []
  rtA := []
  rtS := []
  eph0 := []
  eph1 := []
  ephAct := false
  marks := []
  lerrCrc := 0
  lerrRsv := 0
  leases := []
  leaseSeq := 0
  incoming := []
  inSeq := 0
  reqs := []
  fwds := []
  early := []
  ctlq := []
  links := []
  outq := []
  store := []
  sent := []
  wire := []
  verdicts := []
  ordRx := []
  ordTx := []
  nodeSync := []
  replayVia := []
  rings := []
  dark := []
  unlocked := []
  los := []
  lossTold := []
  spcDark := []
  repairs := []
  lol := []
  syncGone := false
  evq := []
  pkeyMiss := []

/-! ## System -/

/-- An export window (09 R187). -/
structure Export where
  v : Bool
  wr : Bool
  add : Bool
  rd : Bool
  asid : Nat
  base : W32
  fin : W32
deriving DecidableEq, Repr

/-- An export window after reset. -/
def Export.init : Export := ⟨false, false, false, false, 0, 0, 0⟩

/-- The object window of a queue (12 R265). -/
structure ObjWin where
  first : Nat
  last : Nat
  v : Bool
deriving DecidableEq, Repr

/-- An object window after reset. -/
def ObjWin.init : ObjWin := ⟨0, 0, false⟩

/-- A record ring in memory: the page-fault ring and the event ring (13 R340, 17 R384). -/
structure RecRing where
  base : Addr
  log2n : BitVec 5
  en : Bool
  vec : BitVec 16
  tail : W32
  head : W32
deriving DecidableEq, Repr

/-- A page on which accesses are parked (09 R197, 11 R249). -/
structure Parked where
  asid : Nat
  /-- Bits [47:16] of the VA. -/
  page : W32
deriving DecidableEq, Repr

/-- A boot-step entry (17 R390). -/
structure BootEnt where
  id : BitVec 8
  opt : Bool
  alt : Bool
  failed : Bool
  started : Bool
  altused : Bool
  failcnt : BitVec 8
  err : W32
deriving DecidableEq, Repr

/-- An empty boot-step entry. -/
def BootEnt.empty : BootEnt := ⟨0, false, false, false, false, false, 0, 0⟩

/-- A quarantined unit (16 R375): its id, whether it is a core of a CHECK_MISMATCH pair whose diagnostics have not passed (R377), and whether
it was detected in host-assisted mode (17 R383). -/
structure Quar where
  unit : BitVec 16
  pair : Bool
  host : Bool
deriving DecidableEq, Repr

/-- System registers, worlds, power, boot and interrupts (16 R375, 17 R381 to R391). -/
structure Sys where
  sysmode : BitVec 5
  pf : RecRing
  pfSeq : W32
  parked : List Parked
  ev : RecRing
  evSeq : W32
  evLost : W32
  cpend : W64
  cintVec : BitVec 16
  cintHold : BitVec 16
  /-- A completion interrupt was raised and its hold-off interval has not ended. -/
  cintBusy : Bool
  /-- A kernel has finished since, so that the end of the interval raises the next one. -/
  cintOwed : Bool
  w2base : Addr
  ltr : W32
  /-- C-state, 0 to 3; `d3` when powered down. -/
  cstate : Nat
  d3 : Bool
  bootst : BitVec 14
  boot : SMap BootEnt
  /-- MREG0 to MREG15, 64 bytes each: by 64 × register + byte. -/
  mreg : SMap Byte
  /-- Quarantined units, with a mark for the cores of a CHECK_MISMATCH pair (16 R375, R377). -/
  quar : List Quar
  worldCarve : SMap Bool
  worldCore : SMap Bool
  worldPort : SMap Bool
  worldOrrery : SMap Bool
  worldMeridian : SMap Bool
  worldQueue : SMap Bool
  /-- MSI-X vectors raised, oldest first. -/
  msix : List (BitVec 16)
  /-- Bytes of the last answered host read, and its error mark (Unsupported Request). -/
  hostRead : List Byte
  hostErr : Bool
  nodeid : BitVec 13
  /-- Sidereal count, and core cycles since reset (01 R21). -/
  sidt : W64
  cyc : Nat
  /-- Core cycle of the dispatcher's last placement decision (03 R59). -/
  decided : Option Nat
  /-- Address-space roots, export windows and object windows (09 R187, R188; 12 R265). -/
  roots : SMap W64
  exports : SMap Export
  objwins : SMap ObjWin
deriving DecidableEq, Repr

/-- The system after reset. -/
def Sys.init : Sys where
  sysmode := 0
  pf := ⟨0, 4, false, 0, 0, 0⟩
  pfSeq := 0
  parked := []
  ev := ⟨0, 6, false, 0, 0, 0⟩
  evSeq := 0
  evLost := 0
  cpend := 0
  cintVec := 0
  cintHold := 0
  cintBusy := false
  cintOwed := false
  w2base := 0
  ltr := 0
  cstate := 0
  d3 := false
  bootst := 0
  boot := []
  mreg := []
  quar := []
  worldCarve := []
  worldCore := []
  worldPort := []
  worldOrrery := []
  worldMeridian := []
  worldQueue := []
  msix := []
  hostRead := []
  hostErr := false
  nodeid := 0
  sidt := 0
  cyc := 0
  decided := none
  roots := []
  exports := []
  objwins := []

/-- A cache line's record in the last-level cache (09 R199, 16 R374): dirty with a writer tag, zero flag,
poison with the unit whose storage held the error. -/
structure LineRec where
  tag : Option (BitVec 12)
  zero : Bool
  poison : Option (BitVec 16)
  /-- Writer tag of poisoned bytes that the slice has written back to make room, whose error is still to be delivered (16 R374). -/
  back : Option (BitVec 12)
deriving DecidableEq, Repr

/-- A line that nothing has written. -/
def LineRec.init : LineRec := ⟨none, false, none, none⟩

/-! ## The machine -/

/-- The whole device. -/
structure State where
  ctxs : SMap Ctx
  cores : SMap Core
  groups : SMap Group
  /-- L2 TLB of each die (09 R194). -/
  l2tlb : SMap (List Tlbe)
  /-- Walks of each die in order of arrival: the first 96 have a walker (09 R194). -/
  walks : SMap (List Walk)
  /-- Physical memory by PA (09 R198): see `memDefault`. -/
  mem : SMap Byte
  lines : SMap LineRec
  queues : SMap Queue
  kernels : SMap (Option Kernel)
  nextKid : Nat
  nextId : Nat
  phasers : SMap Phaser
  /-- Messages on their way to phaser objects. -/
  transit : List PhMsg
  sys : Sys
  fab : Fabric
  orreries : SMap Orrery
  /-- Happenings outside the model's own choice that come next: the model's own field. -/
  agenda : List Instr
  /-- Core whose cycle comes next, and whether the device's own next happening comes before it: the model's own fields. -/
  turn : Nat
  devTurn : Bool
  /-- Physical context whose bundle is executed: the model's own field. -/
  cur : Nat
  /-- Free values drawn so far: the model's own field. DESIGN CHOICE, log entry 1. -/
  nfree : Nat
deriving DecidableEq, Repr

/-- What a byte of memory that nothing has written reads as: the spec gives no contents of HBM after power-on.
DESIGN CHOICE, log entry 5. -/
def memDefault : Byte := 0

/-- Reasons for which the machine stops. -/
inductive Fault where
  /-- The device stands in D3, which it leaves only by a full boot (17 R387): the spec gives it nothing else to do.
  Raised by `step` when no boot is the next happening. Safe: the machine stops. -/
  | poweredDown
deriving DecidableEq, Repr

/-- Reasons for which the model refuses an instruction. -/
inductive Refusal where
  /-- The instruction's meaning has not been written. Raised by the arms of the dispatch only. Safe: the machine stops. -/
  | notModelled (mnemonic : String)
deriving DecidableEq, Repr

/-- The machine right after reset. -/
def State.reset : State where
  ctxs := []
  cores := []
  groups := []
  l2tlb := []
  walks := []
  mem := []
  lines := []
  queues := []
  kernels := []
  nextKid := 0
  nextId := 0
  phasers := []
  transit := []
  sys := Sys.init
  fab := Fabric.init
  orreries := []
  agenda := []
  turn := 0
  devTurn := false
  cur := 0
  nfree := 0

end Sys2Proof.Machine
end

