-- ==== Sys2Proof/Machine/Ops.lean ====
section
/-! DEFINITION. Named operations over the state: accessors, physical memory, scratchpad, halt requests, taking a trap and
returning from one. -/

namespace Sys2Proof.Machine

/-! ## Accessors -/

/-- Physical context `x`. -/
def State.ctx (s : State) (x : Nat) : Ctx := s.ctxs.get Ctx.init x
/-- Replaces physical context `x`. -/
def State.setCtx (s : State) (x : Nat) (c : Ctx) : State := { s with ctxs := s.ctxs.put x c }
/-- Core `k`. -/
def State.core (s : State) (k : Nat) : Core := s.cores.get Core.init k
/-- Replaces core `k`. -/
def State.setCore (s : State) (k : Nat) (c : Core) : State := { s with cores := s.cores.put k c }
/-- Matrix group `g`. -/
def State.group (s : State) (g : Nat) : Group := s.groups.get Group.init g
/-- Replaces matrix group `g`. -/
def State.setGroup (s : State) (g : Nat) (v : Group) : State := { s with groups := s.groups.put g v }
/-- Launch queue `q`. -/
def State.queue (s : State) (q : Nat) : Queue := s.queues.get Queue.init q
/-- Replaces launch queue `q`. -/
def State.setQueue (s : State) (q : Nat) (v : Queue) : State := { s with queues := s.queues.put q v }
/-- Kernel `k`, if the dispatcher holds it. -/
def State.kernel (s : State) (k : Nat) : Option Kernel := s.kernels.get none k
/-- Replaces kernel `k`. -/
def State.setKernel (s : State) (k : Nat) (v : Option Kernel) : State := { s with kernels := s.kernels.put k v }
/-- Phaser object `o`. -/
def State.phaser (s : State) (o : Nat) : Phaser := s.phasers.get Phaser.init o
/-- Replaces phaser object `o`. -/
def State.setPhaser (s : State) (o : Nat) (v : Phaser) : State := { s with phasers := s.phasers.put o v }
/-- Replaces the system registers. -/
def State.upSys (s : State) (f : Sys → Sys) : State := { s with sys := f s.sys }
/-- Changes a context. -/
def State.upCtx (s : State) (x : Nat) (f : Ctx → Ctx) : State := s.setCtx x (f (s.ctx x))
/-- Changes a core. -/
def State.upCore (s : State) (k : Nat) (f : Core → Core) : State := s.setCore k (f (s.core k))
/-- Changes a kernel that the dispatcher holds. -/
def State.upKernel (s : State) (k : Nat) (f : Kernel → Kernel) : State :=
  match s.kernel k with
  | some v => s.setKernel k (some (f v))
  | none => s

/-- The core of a physical context (01 R19). -/
def coreOf (x : Nat) : Nat := x / 2
/-- The group of a core. -/
def groupOf (k : Nat) : Nat := k / 4
/-- The die of a core. -/
def dieOf (k : Nat) : Nat := k / 96

/-- The kernel whose instance or preload occupies a context. -/
def State.kernelOf (s : State) (x : Nat) : Option Kernel :=
  match (s.ctx x).occ with
  | some o => s.kernel o.kid
  | none => none

/-- ASID of a context: the queue its kernel was taken from (09 R188). -/
def State.asidOf (s : State) (x : Nat) : Nat := (s.kernelOf x).elim 0 (·.q)
/-- World of a context: FLAGS.WORLD of its kernel (02 R27). -/
def State.worldOf (s : State) (x : Nat) : Bool := (s.kernelOf x).elim false (·.krec.world)
/-- Handle range and rings of a context's kernel (02 R33). -/
def State.phloOf (s : State) (x : Nat) : Nat := (s.kernelOf x).elim 0 (·.krec.phlo)
def State.phcntOf (s : State) (x : Nat) : Nat := (s.kernelOf x).elim 0 (·.krec.phcnt)
def State.ringsOf (s : State) (x : Nat) : Nat := (s.kernelOf x).elim 0 (·.krec.rings)

/-- Marks free values as drawn. -/
def State.draw (s : State) : State := { s with nfree := s.nfree + 1 }

/-! ## Physical memory (09 R198, R199) -/

/-- Number of the SECDED line of a physical address. -/
def lineOf (pa : Nat) : Nat := pa / 128

/-- The HBM part of the physical map. -/
def inHbm (pa : Nat) : Bool := decide (pa < 2 ^ 39)
/-- The host window of the physical map. -/
def inHost (pa : Nat) : Bool := decide (2 ^ 47 ≤ pa) && decide (pa < 2 ^ 48)

/-- Home slice of an HBM address (09 R198). -/
def homeSlice (pa : Nat) : Nat :=
  let j := nb pa 36 3
  32 * (j / 2) + 16 * (j % 2) + (nb pa 7 4 ^^^ nb pa 11 4 ^^^ nb pa 15 4 ^^^ nb pa 19 4)

/-- Reads `n` bytes of a memory. -/
def memRd (m : SMap Byte) (pa : Nat) : Nat → List Byte
  | 0 => []
  | n + 1 => m.get memDefault pa :: memRd m (pa + 1) n

/-- Writes bytes to a memory, keeping its canonical form. -/
def memWr (m : SMap Byte) (pa : Nat) : List Byte → SMap Byte
  | [] => m
  | b :: bs => memWr (m.set memDefault pa b) (pa + 1) bs

/-- The canonical form of a memory. -/
def Memory.wf (m : SMap Byte) : Bool := m.wf memDefault

/-- Reads `n` bytes at a physical address, at the home slice. -/
def State.rd (s : State) (pa n : Nat) : List Byte := memRd s.mem pa n

/-- Reads a granule at a physical address. -/
def State.rdGran (s : State) (g : Nat) : Gran := BitVec.ofNat 128 (leNat (memRd s.mem (16 * g) 16))

/-- A unit is quarantined (16 R375). -/
def State.quarantined (s : State) (u : Nat) : Bool := s.sys.quar.any fun e => e.unit.toNat == u

/-- The record of one cache line after a write of `bs` at `pa` (09 R199, 16 R374, R375). -/
def lineWrite (r : LineRec) (held : Bool) (tag : BitVec 12) (l pa : Nat) (bs : List Byte) : LineRec :=
  let whole := decide (pa ≤ 128 * l) && decide (128 * l + 128 ≤ pa + bs.length)
  let zeros := ((bs.drop (128 * l - pa)).take (128 * l + 128 - max pa (128 * l))).all (· == 0)
  { tag := if held then some tag else none
    zero := held && zeros && (whole || r.zero)
    poison := if whole then none else r.poison
    back := r.back }

/-- Makes room in a cache of `cap` entries: a full one loses an entry by a free choice, and one that holds `ways` entries or more may
lose one, whose set is full (04 R67; 09 R200: replacement is in no architected order). -/
def makeRoom {α : Type} (cap ways free : Nat) (m : SMap α) : SMap α :=
  if m.length < ways then m
  else if cap ≤ m.length ∨ free % 2 = 1 then m.eraseIdx (free / 2 % m.length)
  else m

/-- Lines that a slice holds: 2 MiB (01 R18). -/
def sliceLines : Nat := 16384

/-- The dirty lines that slice `n` holds, the poisoned ones with them. -/
def dirtyLines (n : Nat) (m : SMap LineRec) : List Nat :=
  (m.filter fun e => e.2.tag.isSome && homeSlice (128 * e.1) == n).map (·.1)

/-- A line is written back: the slice holds it no more. The error of a poisoned one is then to be delivered (16 R374). -/
def LineRec.leave (r : LineRec) : LineRec :=
  { r with tag := none, zero := false, back := if r.poison.isSome then r.tag.or r.back else r.back }

/-- Line `l` is written back. -/
def lineBack (m : SMap LineRec) (l : Nat) : SMap LineRec := m.set LineRec.init l (m.get LineRec.init l).leave

/-- The slice of line `l`, which has been written, holds no more lines than it has room for: another one is written back, by a free
choice. -/
def sliceTrim (free l : Nat) (m : SMap LineRec) : SMap LineRec :=
  let vs := (dirtyLines (homeSlice (128 * l)) m).filter (· != l)
  if vs.length < sliceLines then m else lineBack m (vs.getD (free % vs.length) l)

/-- Updates the records of `n` lines from line `l` on. -/
def lineWrites (s : State) (tag : BitVec 12) (pa : Nat) (bs : List Byte) : Nat → Nat → SMap LineRec → SMap LineRec
  | _, 0, m => m
  | l, n + 1, m =>
    lineWrites s tag pa bs (l + 1) n
      (sliceTrim (Config.freeNat s.nfree (0x670000 + l)) l
        (m.put l (lineWrite (m.get LineRec.init l) (!s.quarantined (12288 + homeSlice (128 * l))) tag l pa bs)))

/-- Writes bytes at a physical address with a writer tag. The host window is uncached and keeps no line record. -/
def State.wr (s : State) (tag : BitVec 12) (pa : Nat) (bs : List Byte) : State :=
  match bs with
  | [] => s
  | _ :: _ =>
    { s with
      mem := memWr s.mem pa bs
      lines := if inHbm pa then
          lineWrites s tag pa bs (lineOf pa) (lineOf (pa + bs.length - 1) + 1 - lineOf pa) s.lines
        else s.lines }

/-- The unit that poisoned some line of these bytes (16 R374). -/
def State.poisonAt (s : State) (pa n : Nat) : Option (BitVec 16) :=
  (List.range (lineOf (pa + n - 1) + 1 - lineOf pa)).findSome? fun i => (s.lines.get LineRec.init (lineOf pa + i)).poison

/-- World bit of the carve-out that covers a physical address (17 R388). -/
def State.carveSecure (s : State) (pa : Nat) : Bool := inHbm pa && s.sys.worldCarve.get false (pa / 2 ^ 26)

/-- Writer tags of the device itself, the host, an Orrery and the pod (09 R199). -/
def tagDevice : BitVec 12 := 0xFFC
def tagHost : BitVec 12 := 0xFFD
def tagOrrery : BitVec 12 := 0xFFE
def tagPod : BitVec 12 := 0xFFF

/-! ## Scratchpad (09 R180 to R183) -/

/-- Reads `n` bytes of a core's scratchpad. -/
def Core.spRd (k : Core) (off n : Nat) : List Byte := memRd k.sp off n

/-- Granules that a write of `n` bytes at `off` covers wholly. -/
def wholeGran (off n g : Nat) : Bool := decide (off ≤ 16 * g) && decide (16 * g + 16 ≤ off + n)

/-- Writes bytes to a core's scratchpad; a write of a whole granule clears its poison (16 R374). -/
def Core.spWr (k : Core) (off : Nat) (bs : List Byte) : Core :=
  { k with sp := memWr k.sp off bs, spPoison := k.spPoison.filter fun g => !wholeGran off bs.length g }

/-- Sets the full-empty bits of `n` granules from granule `g` on. -/
def feFill (m : SMap Bool) (v : Bool) (g : Nat) : Nat → SMap Bool
  | 0 => m
  | n + 1 => feFill (m.set false g v) v (g + 1) n

/-- Sets the full-empty bits of the granules that `n` bytes at `off` touch. -/
def Core.feSet (k : Core) (v : Bool) (off n : Nat) : Core :=
  { k with fe := feFill k.fe v (off / 16) ((off + n - 1) / 16 + 1 - off / 16) }

/-- Full-empty bit of granule `g` of a core's scratchpad. -/
def Core.feGet (k : Core) (g : Nat) : Bool := k.fe.get false g

/-- Some granule that `n` bytes at `off` touch is poisoned. -/
def Core.spPoisoned (k : Core) (off n : Nat) : Bool :=
  k.spPoison.any fun g => decide (off / 16 ≤ g) && decide (g ≤ (off + n - 1) / 16)

/-! ## Halts, kills and traps (16 R355 to R364) -/

/-- A trap on its way to a context: cause, trap address, TINFO, and the unit behind a POISON (16 R375). -/
structure Trap where
  cause : Cause
  tpc : Addr
  info : W64
  unit : BitVec 16 := 0
deriving DecidableEq, Repr

/-- Code of a cause (16 R356). -/
def causeCode : Cause → Nat
  | .illegalEnc => 1 | .startBit => 2 | .poolExec => 3 | .loopOverflow => 4 | .loopUnderflow => 5 | .align => 6
  | .scratchRange => 7 | .feWatchdog => 8 | .xlate => 9 | .perm => 10 | .cellStore => 11 | .remoteFop => 12
  | .engineFault => 13 | .phaserBroken => 14 | .mxFault => 15 | .pkey => 16 | .trap => 17 | .brk => 18 | .priv => 19
  | .checkMismatch => 20 | .poison => 21 | .waitTimeout => 22 | .scalePin => 23

/-- The causes that a handler may take (16 R356). -/
def causeFielded : Cause → Bool
  | .loopOverflow | .loopUnderflow | .align | .feWatchdog | .trap | .brk => true
  | _ => false

/-- A halt request for a context that still runs (16 R362). -/
def Ctx.request (c : Ctx) (src : HaltSrc) : Ctx :=
  match c.occ with
  | some o =>
    if o.st = .running then
      let h := c.hreq.getD ⟨false, false, false, [], false, 0, 0⟩
      { c with hreq := some (match src with
        | .kill => { h with kill := true }
        | .requeue => { h with requeue := true }
        | .ctxctl arr => { h with ctl := true, arrs := h.arrs ++ arr.toList }) }
    else c
  | none => c

/-- A scoreboarded destination that waits for a global load. -/
def Pend.isLoad (p : Pend) : Bool := match p.what with | .load .. => true | _ => false

/-- A scoreboarded destination that waits for a Zenith service. -/
def Pend.isSmc (p : Pend) : Bool := match p.what with | .smc .. => true | _ => false

/-- The commit signatures of a context expect nothing more of these destinations. -/
def Ctx.unsign (c : Ctx) (gone : List Dest) : Ctx :=
  { c with sigs := c.sigs.map fun g => { g with items := g.items.filter fun t => match t with | .due d _ => !gone.contains d | _ => true } }

/-- Drops the outstanding loads of a context, and what its commit signatures expect of them (16 R360). -/
def Ctx.dropLoads (c : Ctx) : Ctx :=
  { c.unsign ((c.pends.filter Pend.isLoad).map (·.dst)) with pends := c.pends.filter fun p => !p.isLoad }

/-- Stops a context where it stands. -/
def Ctx.stop (c : Ctx) : Ctx := { c with occ := c.occ.map fun o => { o with st := .halted }, wait := none, granted := none }

/-- Applies `f` to every context of a list. -/
def State.upCtxs (s : State) (f : Ctx → Ctx) : List Nat → State
  | [] => s
  | x :: xs => (s.upCtx x f).upCtxs f xs

/-- The kernel is being killed: its commands stop and deliver nothing (16 R360). -/
def State.killed (s : State) (kid : Nat) : Bool := (s.kernel kid).any fun k => k.st == .killing

/-- The contexts of a kernel's instances that still hold them (02 R29; 06 R131). -/
def State.ownCtxs (s : State) (kid : Nat) (k : Kernel) : List Nat := k.ctxs.filter fun x => (s.ctx x).occ.any fun o => o.kid == kid

/-- Drops the copy commands of a kernel: each stops at a granule or element boundary and delivers no arrival. -/
def State.dropCopies (s : State) (kid : Nat) : List Nat → State
  | [] => s
  | x :: xs => (s.upCore (coreOf x) fun k => { k with copies := k.copies.filter fun c => c.kid != kid }).dropCopies kid xs

/-- A terminal cause of the cycle in which a kernel's kill began comes before the kill's own, as that of a lower instance (16 R360). -/
def Kernel.outranks (k : Kernel) (cyc : Nat) (e : EndInfo) : Bool :=
  k.finAt == cyc && e.cause.isSome && k.fin.any fun f => f.status == .fault && f.cause.isSome && decide (e.n < f.n)

/-- Begins the kill of a placed kernel (16 R360): every instance receives a halt request, its commands stop and its
outstanding loads are discarded. A kill already under way is not replaced, but by the terminal cause of a lower instance in the same
cycle; a requeue becomes a kill. -/
def State.kill (s : State) (kid : Nat) (e : EndInfo) : State :=
  match s.kernel kid with
  | none => s
  | some k =>
    if k.st = .killing then (if k.outranks s.sys.cyc e then s.setKernel kid (some { k with fin := some e }) else s)
    else
      let s := s.setKernel kid (some { k with st := .killing, fin := some e, finAt := s.sys.cyc })
      (s.upCtxs (fun c => (c.dropLoads).request .kill) (s.ownCtxs kid k)).dropCopies kid (s.ownCtxs kid k)

/-- The context may take a trap of this cause in its handler (16 R357). -/
def Ctx.fields (c : Ctx) (t : Trap) : Bool := causeFielded t.cause && c.tvec != 0 && !c.hnd

/-- Trap `t` of context `x` ends its kernel: the context stops, and the kernel is killed (16 R357). -/
def State.trapKill (s : State) (x : Nat) (t : Trap) : State :=
  let c := s.ctx x
  match c.occ with
  | none => s.setCtx x c.stop
  | some o => (s.setCtx x c.stop).kill o.kid ⟨.fault, some t.cause, t.tpc, t.info, o.n, t.unit, false, false⟩

/-- Enters the handler at TVEC (16 R357); `self` says that the member of a gang has raised the trap itself (05 R108). -/
def Ctx.enterHandler (c : Ctx) (t : Trap) (self : Bool) : Ctx :=
  { c with
    tcause := BitVec.ofNat 8 (causeCode t.cause), tpc := t.tpc, tinfo := t.info, hnd := true, fbuf := [], pc := c.tvec,
    wait := none, granted := none, self := self, stream := [], iter := false }

/-- Takes trap `t` in context `x` (16 R357): a fielded cause enters the handler at TVEC; a terminal cause, or a fielded one
with no handler or inside one, kills the kernel. Entry waits neither for an outstanding LAUNCH nor for results in flight, which land while
the handler runs (05 R96; 06 R134). DESIGN CHOICE, log entry 65. -/
def State.takeTrap (s : State) (x : Nat) (t : Trap) : State :=
  let c := s.ctx x
  if c.fields t then s.setCtx x (c.enterHandler t (c.gmode != 0)) else s.trapKill x t

/-! ## Gangs (05 R104 to R108) -/

/-- The instance in context `x` runs. -/
def Ctx.running (c : Ctx) : Bool := c.occ.any fun o => o.st == .running

/-- The contexts that advance together with context `x`: a gang, a decoupled CHECK pair, or the context alone. -/
def State.gangOf (s : State) (x : Nat) : List Nat :=
  let c := s.ctx x
  let ys := (List.range 4).map fun j => 8 * groupOf (coreOf x) + 2 * j
  let prim := fun (y : Nat) => y - y % 4
  if c.gmode = 1 ∧ c.gdec = false then ys.filter fun y => !(s.ctx y).gdec
  else if c.gmode = 2 then
    if (s.ctx (prim x)).gdec then [prim x, prim x + 2] else ys.filter fun y => !(s.ctx (prim y)).gdec
  else [x]

/-- Those of them that run. -/
def State.runners (s : State) (x : Nat) : List Nat := (s.gangOf x).filter fun y => (s.ctx y).running

/-- The value goes to this destination. -/
def destTakes (d : Dest) (v : FVal) : Bool :=
  match d, v with | .s n, .s m _ => n == m | .v n, .v m _ => n == m | _, _ => false

/-- A destination that takes its value from the CHECK primary. -/
def Pend.isMirror (p : Pend) : Bool := match p.what with | .mirror _ => true | _ => false

/-- A trap cuts the stream of a CHECK pair whose primary is `x`: of what the primary has passed on or will pass on, and of its signatures, only
that of bundles which the checker has issued too remains (05 R106, R107). -/
def State.cutPair (s : State) (x : Nat) : State :=
  let k := s.ctx (x + 2)
  let ds := (k.pends.filter Pend.isMirror).map (·.dst)
  let vs := ds.filterMap fun d => k.mirv.find? fun v => destTakes d v.1
  (s.upCtx x fun c => { c with
    pends := c.pends.map fun p => { p with alone := p.alone || !ds.contains p.dst || vs.any fun v => destTakes p.dst v.1 }
    sigs := c.sigs.take k.sigs.length }).upCtx (x + 2) fun k => { k with mir := [], mirv := vs, sigs := k.sigs.take (s.ctx x).sigs.length }

/-- A trap in a ganged stream (05 R108): `us` are the members, `rs` those that raised one, by number. Every member halts; they enter their
handlers together. Where one of them has raised a cause that is terminal for it, the lowest such kills the kernel, and where one has no
handler or runs in it, the trap itself does (16 R357, R360). DEDUCED, log entry 48. -/
def State.gangTrap (s : State) (us : List Nat) (rs : List (Nat × Trap)) : State :=
  match rs, rs.find? fun r => !(s.ctx r.1).fields r.2 with
  | [], _ => s
  | _, some (y, u) => (s.upCtxs Ctx.stop us).trapKill y u
  | (x, t) :: _, none =>
    if us.all fun y => (s.ctx y).fields t then
      us.foldl (fun s y => s.upCtx y fun c => c.enterHandler t (rs.any fun r => r.1 == y))
        ((us.filter fun y => (s.ctx y).gmode == 2 && !(s.ctx y).gchk).foldl State.cutPair s)
    else (s.upCtxs Ctx.stop us).trapKill x t

/-- A trap that belongs to no advance, in context `x` and with it in its gang (05 R108). -/
def State.trapIn (s : State) (x : Nat) (t : Trap) : State :=
  if (s.ctx x).gmode = 0 then s.takeTrap x t else s.gangTrap (s.runners x) [(x, t)]

/-- ERET's part on the context (16 R359): the fetch buffer is emptied and HND cleared; the transfer to TPC follows. -/
def Ctx.eret (c : Ctx) : Ctx := { c with fbuf := [], hnd := false }

end Sys2Proof.Machine
end

