-- ==== Sys2Proof/Machine/Flags.lean ====
section
/-! DEFINITION. The sticky flags of ARITH (07 R151) and their raising (06 R130). -/

namespace Sys2Proof.Machine

/-- Flags in the positions of ARITH (07 R151). -/
abbrev Flags := BitVec 7

def fIX : Flags := 1
def fUF : Flags := 2
def fOV : Flags := 4
def fINV : Flags := 8
def fDZ : Flags := 16
def fNANIN : Flags := 32
def fSKNF : Flags := 64

/-- `f` when `b` holds, else no flag. -/
def flagIf (b : Bool) (f : Flags) : Flags := bif b then f else 0

/-- ORs flags into a context's ARITH. -/
def Ctx.raiseFlags (c : Ctx) (f : Flags) : Ctx := { c with arith := c.arith ||| f }

end Sys2Proof.Machine
end

