-- ==== Sys2Proof/Machine/Float.lean ====
section
/-! DEFINITION. Number formats: decoding, exact arithmetic, rounding, conversion, quantisation (07 R136 to R151). -/

namespace Sys2Proof.Machine

/-! ## Formats -/

/-- A floating-point format: significand fraction bits, exponent bits, bias; E4M3 has no infinities (07 R136). -/
structure FFmt where
  m : Nat
  ebits : Nat
  bias : Nat
  noInf : Bool
deriving DecidableEq, Repr

def fp32 : FFmt := ⟨23, 8, 127, false⟩
def fp16 : FFmt := ⟨10, 5, 15, false⟩
def bf16 : FFmt := ⟨7, 8, 127, false⟩
def e5m2 : FFmt := ⟨2, 5, 15, false⟩
def e4m3 : FFmt := ⟨3, 4, 7, true⟩

/-- Width in bits. -/
def FFmt.width (f : FFmt) : Nat := f.m + f.ebits + 1
/-- The sign bit's weight. -/
def FFmt.signW (f : FFmt) : Nat := 2 ^ (f.m + f.ebits)
/-- Code of +∞; of E4M3, which has none, the first code past the largest finite one. -/
def FFmt.infCode (f : FFmt) : Nat := if f.noInf then f.signW - 1 else (2 ^ f.ebits - 1) * 2 ^ f.m
/-- Code of the largest finite value. -/
def FFmt.maxCode (f : FFmt) : Nat := f.infCode - 1
/-- The canonical NaN (07 R138). -/
def FFmt.nan (f : FFmt) : Nat := if f.noInf then f.signW - 1 else (2 ^ f.ebits - 1) * 2 ^ f.m + 2 ^ (f.m - 1)
/-- Exponent of the subnormal grid. -/
def FFmt.emin (f : FFmt) : Int := 1 - f.bias - f.m

/-! ## Exact values -/

/-- An exact dyadic value m × 2^e. -/
structure Dy where
  m : Int
  e : Int
deriving DecidableEq, Repr

/-- Scales both to the lesser exponent and adds. -/
def Dy.add (a b : Dy) : Dy :=
  let e := min a.e b.e
  ⟨a.m * 2 ^ (a.e - e).toNat + b.m * 2 ^ (b.e - e).toNat, e⟩
def Dy.mul (a b : Dy) : Dy := ⟨a.m * b.m, a.e + b.e⟩
def Dy.neg (a : Dy) : Dy := ⟨-a.m, a.e⟩
def Dy.sub (a b : Dy) : Dy := a.add b.neg
def Dy.abs (a : Dy) : Dy := ⟨a.m.natAbs, a.e⟩
/-- a < b. -/
def Dy.lt (a b : Dy) : Bool := decide ((a.sub b).m < 0)
/-- a = b as values. -/
def Dy.eq (a b : Dy) : Bool := decide ((a.sub b).m = 0)
/-- Numerator and denominator of the magnitude. -/
def Dy.num (a : Dy) : Nat := a.m.natAbs * 2 ^ a.e.toNat
def Dy.den (a : Dy) : Nat := 2 ^ (-a.e).toNat

/-- The value of a code: a NaN, signalling or quiet, an infinity, or a finite value with its sign (07 R137, R138). -/
inductive FV where
  | nan (sig : Bool)
  | inf (neg : Bool)
  | fin (neg : Bool) (m : Nat) (e : Int)
deriving DecidableEq, Repr

/-- Decodes a code (07 R136, R137). -/
def FFmt.dec (f : FFmt) (c : Nat) : FV :=
  let c := c % 2 ^ f.width
  let neg := decide (f.signW ≤ c)
  let a := c % f.signW
  let ex := a / 2 ^ f.m
  let fr := a % 2 ^ f.m
  if f.noInf then
    if a = f.signW - 1 then .nan false
    else if ex = 0 then .fin neg fr f.emin
    else .fin neg (2 ^ f.m + fr) (ex - 1 + f.emin)
  else if ex = 2 ^ f.ebits - 1 then
    if fr = 0 then .inf neg else .nan (decide (fr < 2 ^ (f.m - 1)))
  else if ex = 0 then .fin neg fr f.emin
  else .fin neg (2 ^ f.m + fr) (ex - 1 + f.emin)

def FV.isNan : FV → Bool | .nan _ => true | _ => false
def FV.isInf : FV → Bool | .inf _ => true | _ => false
def FV.neg? : FV → Bool | .nan _ => false | .inf n => n | .fin n _ _ => n
/-- The exact value of a finite one. -/
def FV.dy : FV → Dy | .fin n m e => ⟨if n then -(m : Int) else m, e⟩ | _ => ⟨0, 0⟩
def FV.isZero : FV → Bool | .fin _ m _ => m == 0 | _ => false
def FV.negate : FV → FV | .nan s => .nan s | .inf n => .inf (!n) | .fin n m e => .fin (!n) m e

/-- Flags of operands: NANIN for a NaN, INV for a signalling one (07 R138). -/
def FV.opFlags : FV → Flags | .nan s => fNANIN ||| flagIf s fINV | _ => 0

/-! ## Rounding (07 R140, R148, R150) -/

/-- Rounding modes; `rsd u` carries the 24 random bits of R150. -/
inductive RM where
  | rne | rtz | rdn | rup
  | rsd (u : Nat)
deriving DecidableEq, Repr

/-- floor(log2(n / d)) for positive n and d. -/
def ilog2 (n d : Nat) : Int :=
  let k : Int := (Nat.log2 n : Int) - Nat.log2 d
  if d * 2 ^ k.toNat ≤ n * 2 ^ (-k).toNat then k else k - 1

/-- A quotient with remainder `r` of `den` rounds away from zero. -/
def roundUp (mode : RM) (neg : Bool) (q r den : Nat) : Bool :=
  match mode with
  | .rne => decide (den < 2 * r) || (2 * r == den && q % 2 == 1)
  | .rtz => false
  | .rdn => neg && r != 0
  | .rup => !neg && r != 0
  | .rsd u =>
    if r = 0 then false
    else if neg then !decide (u * den < (den - r) * 2 ^ 24) else decide (u * den < r * 2 ^ 24)

/-- The overflow value of a format (07 R140). -/
def overflow (f : FFmt) (mode : RM) (neg : Bool) : Nat :=
  if f.noInf then f.maxCode
  else match mode, neg with
    | .rtz, _ => f.maxCode
    | .rdn, false => f.maxCode
    | .rup, true => f.maxCode
    | _, _ => f.infCode

/-- Rounds the magnitude n / d with sign `neg` into a format: code and flags (07 R140). -/
def roundQ (f : FFmt) (mode : RM) (neg : Bool) (n d : Nat) : Nat × Flags :=
  let s := if neg then f.signW else 0
  if n = 0 then (s, 0)
  else
    let g := max f.emin (ilog2 n d - f.m)
    let num := n * 2 ^ (-g).toNat
    let den := d * 2 ^ g.toNat
    let q := num / den
    let r := num % den
    let q' := if roundUp mode neg q r den then q + 1 else q
    -- E × 2^m + M grows with q', also across a power of two
    let code := (g - f.emin).toNat * 2 ^ f.m + q'
    if f.maxCode < code then (s + overflow f mode neg, fOV ||| fIX)
    else (s + code, flagIf (r != 0) fIX ||| flagIf (r != 0 && decide (q' < 2 ^ f.m)) fUF)

/-- Rounds an exact value; an exact zero takes sign `zneg`. -/
def roundDy (f : FFmt) (mode : RM) (zneg : Bool) (x : Dy) : Nat × Flags :=
  if x.m = 0 then (if zneg then f.signW else 0, 0)
  else roundQ f mode (decide (x.m < 0)) x.num x.den

/-- The infinity of a sign as a result; E4M3 gives ±448 with OV and INV. -/
def infCodeOf (f : FFmt) (neg : Bool) : Nat × Flags :=
  let s := if neg then f.signW else 0
  if f.noInf then (s + f.maxCode, fOV ||| fINV) else (s + f.infCode, 0)

/-- Sign of an exact zero sum (07 R139). -/
def zeroSign (mode : RM) (a b : Bool) : Bool := if a == b then a else mode == .rdn

/-- a + b rounded once; `fl` are the flags of the operands. -/
def addV (f : FFmt) (mode : RM) (a b : FV) (fl : Flags) : Nat × Flags :=
  if a.isNan || b.isNan then (f.nan, fl)
  else match a, b with
    | .inf x, .inf y => if x == y then ((infCodeOf f x).1, fl ||| (infCodeOf f x).2) else (f.nan, fl ||| fINV)
    | .inf x, _ => ((infCodeOf f x).1, fl ||| (infCodeOf f x).2)
    | _, .inf y => ((infCodeOf f y).1, fl ||| (infCodeOf f y).2)
    | a, b =>
      let r := roundDy f mode (zeroSign mode a.neg? b.neg?) (a.dy.add b.dy)
      (r.1, fl ||| r.2)

/-- The exact product of two values; a NaN or 0 × ∞ gives a NaN. -/
def mulV (a b : FV) : FV :=
  let n := a.neg? != b.neg?
  match a, b with
  | .nan _, _ => .nan false
  | _, .nan _ => .nan false
  | .inf _, b => if b.isZero then .nan false else .inf n
  | a, .inf _ => if a.isZero then .nan false else .inf n
  | .fin _ m e, .fin _ m' e' => .fin n (m * m') (e + e')

/-- 0 × ∞ (07 R139). -/
def mulInvalid (a b : FV) : Bool := (a.isInf && b.isZero) || (a.isZero && b.isInf)

/-- Flags of two or three operands. -/
def opFlags2 (a b : FV) : Flags := a.opFlags ||| b.opFlags

def fadd (f : FFmt) (mode : RM) (a b : Nat) : Nat × Flags :=
  addV f mode (f.dec a) (f.dec b) (opFlags2 (f.dec a) (f.dec b))
def fsub (f : FFmt) (mode : RM) (a b : Nat) : Nat × Flags :=
  addV f mode (f.dec a) (f.dec b).negate (opFlags2 (f.dec a) (f.dec b))

/-- A value rounded into a format. -/
def roundV (f : FFmt) (mode : RM) (x : FV) (fl : Flags) : Nat × Flags :=
  match x with
  | .nan _ => (f.nan, fl)
  | .inf n => ((infCodeOf f n).1, fl ||| (infCodeOf f n).2)
  | .fin n m e =>
    let r := roundDy f mode n (FV.fin n m e).dy
    (r.1, fl ||| r.2)

def fmul (f : FFmt) (mode : RM) (a b : Nat) : Nat × Flags :=
  let x := f.dec a
  let y := f.dec b
  roundV f mode (mulV x y) (opFlags2 x y ||| flagIf (mulInvalid x y) fINV)

/-- a × b + c rounded once (07 R139). -/
def ffma (f : FFmt) (mode : RM) (a b c : Nat) : Nat × Flags :=
  let x := f.dec a
  let y := f.dec b
  let z := f.dec c
  let fl := opFlags2 x y ||| z.opFlags ||| flagIf (mulInvalid x y) fINV
  if mulInvalid x y || x.isNan || y.isNan || z.isNan then (f.nan, fl) else addV f mode (mulV x y) z fl

/-- Converts a code of one format into another, rounded once. -/
def fconv (src dst : FFmt) (mode : RM) (c : Nat) : Nat × Flags :=
  roundV dst mode (src.dec c) (src.dec c).opFlags

/-- The 24 random bits of R150 for seed, tag and element. -/
def rsdBits (seed : W64) (t : W32) (e : Nat) : Nat :=
  let k : W64 := BitVec.ofNat 64 (512 * t.toNat + e + 1)
  let z := seed + k * 0x9E3779B97F4A7C15#64
  let z := (z ^^^ (z >>> 30)) * 0xBF58476D1CE4E5B9#64
  let z := (z ^^^ (z >>> 27)) * 0x94D049BB133111EB#64
  let z := z ^^^ (z >>> 31)
  bf z 40 24

/-- RMODE as a rounding mode of element `e` of a word with tag `t` (07 R148, R150). -/
def modeOf (rmode : BitVec 3) (seed : W64) (t : W32) (e : Nat) : RM :=
  match rmode.toNat with
  | 1 => .rtz | 2 => .rdn | 3 => .rup | 4 => .rsd (rsdBits seed t e) | _ => .rne

/-! ## Minimum, maximum and comparison (08 R163, R166) -/

/-- a < b with −0 < +0; for values that are no NaN. -/
def ltZero (a b : FV) : Bool :=
  match a, b with
  | .nan _, _ => false
  | _, .nan _ => false
  | .inf x, .inf y => x && !y
  | .inf x, _ => x
  | _, .inf y => !y
  | a, b => if a.isZero && b.isZero then a.neg? && !b.neg? else a.dy.lt b.dy

/-- a < b as FP values: −0 equals +0. -/
def ltV (a b : FV) : Bool :=
  match a, b with
  | .nan _, _ => false
  | _, .nan _ => false
  | .inf x, .inf y => x && !y
  | .inf x, _ => x
  | _, .inf y => !y
  | a, b => a.dy.lt b.dy

/-- a = b as FP values. -/
def eqV (a b : FV) : Bool := !a.isNan && !b.isNan && !ltV a b && !ltV b a

/-- VFMIN (`mx` false) or VFMAX of two FP32 codes without rounding (08 R166). -/
def fminmax (mx : Bool) (a b : Nat) : Nat × Flags :=
  let x := fp32.dec a
  let y := fp32.dec b
  let fl := opFlags2 x y
  if x.isNan && y.isNan then (fp32.nan, fl)
  else if x.isNan then (b, fl)
  else if y.isNan then (a, fl)
  else if ltZero x y == mx then (b, fl) else (a, fl)

/-! ## Integers (07 R141, R143) -/

/-- Clamps to a range, telling whether it clamped. -/
def clamp (lo hi x : Int) : Int × Bool :=
  if x < lo then (lo, true) else if hi < x then (hi, true) else (x, false)

/-- Rounds an exact value to an integer under a mode. -/
def roundInt (mode : RM) (x : Dy) : Int :=
  let neg := decide (x.m < 0)
  let q := x.num / x.den
  let r := x.num % x.den
  let q' : Int := if roundUp mode neg q r x.den then q + 1 else q
  if neg then -q' else q'

/-- A floating-point value converted to an integer format of `w` bits (07 R143). DEDUCED, log entry 18: of a NaN, R143's
"no other flag" stands over R138's NANIN. -/
def fToInt (w : Nat) (mode : RM) (x : FV) : Int × Flags :=
  match x with
  | .nan _ => (0, fINV)
  | .inf n => (if n then -(2 ^ (w - 1) : Int) else 2 ^ (w - 1) - 1, fINV)
  | x =>
    let r := clamp (-(2 ^ (w - 1) : Int)) (2 ^ (w - 1) - 1) (roundInt mode x.dy)
    (r.1, flagIf r.2 fOV ||| flagIf (!(Dy.eq ⟨r.1, 0⟩ x.dy)) fIX)

/-! ## Block-scaled formats (07 R144 to R146) -/

/-- Twice the magnitude of an E2M1X magnitude index. -/
def e2m1Mag (k : Nat) : Nat := match k % 8 with | 0 => 0 | 1 => 1 | 2 => 2 | 3 => 3 | 4 => 4 | 5 => 6 | 6 => 8 | _ => 12

/-- Multiplies a value by 2^k. -/
def FV.scale (x : FV) (k : Int) : FV := match x with | .fin n m e => .fin n m (e + k) | x => x

/-- Width of a code of a target format. -/
def QFmt.bits (t : QFmt) : Nat := match t with | .e2m1x | .int4 => 4 | _ => 8

/-- The value of a code before scaling; `sv` is the record's special value. -/
def qval (t : QFmt) (c sv : Nat) : FV :=
  match t with
  | .e4m3 => e4m3.dec c
  | .e5m2 => e5m2.dec c
  | .e2m1x => if c % 16 = 8 then e4m3.dec sv else .fin (decide (8 ≤ c % 16)) (e2m1Mag c) (-1)
  | .int8 => .fin (decide (sx 8 c < 0)) (sx 8 c).natAbs 0
  | .int4 => .fin (decide (sx 4 c < 0)) (sx 4 c).natAbs 0

/-- Decodes a code in a block with record `rec`: the exact value and whether it is NaN by scale or special value
(07 R145). -/
def qdec (t : QFmt) (c rcd : Nat) : FV :=
  if rcd % 256 = 255 then .nan false else (qval t c (rcd / 256 % 256)).scale ((rcd % 256 : Nat) - 127)

/-- The ordinary finite codes of a target format. -/
def qcands (t : QFmt) : List Nat :=
  match t with
  | .e4m3 => (List.range 256).filter fun c => c % 128 != 127
  | .e5m2 => (List.range 256).filter fun c => c % 128 < 124
  | .e2m1x => (List.range 16).filter fun c => c != 8
  | .int8 => List.range 256
  | .int4 => List.range 16

/-- A tie between two candidates goes to the second (07 R146). -/
def tieBetter (t : QFmt) (neg : Bool) (old new : Nat) : Bool :=
  match t with
  | .e2m1x => if old = 8 then true else if new = 8 then false else new % 2 == 0 && old % 2 == 1
  | .int8 | .int4 => new % 2 == 0 && old % 2 == 1
  | .e4m3 | .e5m2 =>
    -- the two zero codes tie as well: the one with the sign of y stands
    if old % 128 = 0 && new % 128 = 0 then decide (128 ≤ new) == neg else new % 2 == 0 && old % 2 == 1

/-- The nearest candidate to y among the codes given. -/
def nearest (t : QFmt) (sv : Nat) (y : Dy) (cs : List Nat) : Option (Nat × Dy) :=
  cs.foldl (fun best c =>
    let d := ((qval t c sv).dy.sub y).abs
    match best with
    | none => some (c, d)
    | some (b, db) =>
      if d.lt db then some (c, d)
      else if db.lt d then best
      else if tieBetter t (decide (y.m < 0)) b c then some (c, d) else best) none

/-- Largest finite value of a target format; of E2M1X, 6. DESIGN CHOICE, log entry 67. -/
def qmax (t : QFmt) : Int := match t with | .e4m3 => 448 | .e5m2 => 57344 | .e2m1x => 6 | .int8 => 127 | .int4 => 7

/-- The largest code of a sign: of E2M1X that of 6, whatever value the record gives 0b1000. DESIGN CHOICE, log entry 67. -/
def qmaxCode (t : QFmt) (neg : Bool) : Nat :=
  match t, neg with
  | .e4m3, false => 0x7E | .e4m3, true => 0xFE
  | .e5m2, false => 0x7B | .e5m2, true => 0xFB
  | .e2m1x, false => 7 | .e2m1x, true => 15
  | .int8, false => 0x7F | .int8, true => 0x80
  | .int4, false => 7 | .int4, true => 8

/-- |y| exceeds the format's largest finite value (07 R146). -/
def qover (t : QFmt) (y : Dy) : Bool := Dy.lt ⟨qmax t, 0⟩ y.abs

/-- Quantises an FP32 code into the target format with record `rcd` (07 R146). A NaN input sets INV, whatever code it gives (R151). An
infinite one sets OV alone. DESIGN CHOICE, log entries 22 and 67. -/
def quantise (x : Nat) (rcd : Nat) (t : QFmt) : Nat × Flags :=
  let v := fp32.dec x
  let sv := rcd / 256 % 256
  let nanCode : Nat := match t with | .e4m3 => 0x7F | .e5m2 => 0x7E | _ => 0
  let svNan := (e4m3.dec sv).isNan
  if rcd % 256 = 255 then (nanCode, v.opFlags ||| fINV)
  else match v with
    | .nan _ => (if t = .e2m1x && svNan then 8 else nanCode, v.opFlags ||| fINV)
    | .inf n => (qmaxCode t n, fOV)
    | .fin n m e =>
      let y : Dy := ⟨(FV.fin n m e).dy.m, e - ((rcd % 256 : Nat) - 127)⟩
      let special := t = .e2m1x && !svNan && !(e4m3.dec sv).isZero
      -- an exact zero has no nearer candidate than the zero code of its sign
      let c :=
        if m = 0 then (if n && (t = .e4m3 || t = .e5m2) then 0x80 else 0)
        else ((nearest t sv y (qcands t ++ if special then [8] else [])).map (·.1)).getD 0
      let val := if t = .e2m1x && c = 8 && !special then FV.fin false 0 0 else qval t c sv
      (c, flagIf (!(Dy.eq val.dy y)) fIX ||| flagIf (m != 0 && val.isZero) fUF ||| flagIf (qover t y) fOV)

end Sys2Proof.Machine
end

