-- ==== Sys2Proof/Machine/Xlate.lean ====
section
/-! DEFINITION. Global addresses: page-table walks, TLBs, permission and world checks, parked translations (09 R186 to R198). -/

namespace Sys2Proof.Machine

/-- Access kinds of 09 R193. `atom` is a read-modify-write, which needs W and R. -/
inductive Acc where
  | fetch | read | write | atom
deriving DecidableEq, Repr

/-- A translation or permission failure: XLATE or PERM, with the KIND of 09 R196. -/
structure XFault where
  cause : Cause
  kind : Nat
deriving DecidableEq, Repr

/-- Kinds of XLATE (09 R196). -/
def xNomap : XFault := ⟨.xlate, 0x01⟩
def xNoncanon : XFault := ⟨.xlate, 0x02⟩
def xMalformed : XFault := ⟨.xlate, 0x03⟩
def xPod : XFault := ⟨.xlate, 0x04⟩
def xHostfail : XFault := ⟨.xlate, 0x05⟩
/-- Kinds of PERM (09 R196). -/
def xNoread : XFault := ⟨.perm, 0x10⟩
def xWxconf : XFault := ⟨.perm, 0x11⟩
def xSecure : XFault := ⟨.perm, 0x12⟩
def xRaw : XFault := ⟨.perm, 0x13⟩
def xNoexec : XFault := ⟨.perm, 0x14⟩
def xNowrite : XFault := ⟨.perm, 0x15⟩

/-- Reads the 8-byte table entry at `pa`. -/
def State.pte (s : State) (pa : Nat) : Nat := leNat (s.rd pa 8)

/-- log2 of the page size of a leaf at each level (09 R189). -/
def leafLog (lvl : Nat) : Nat := match lvl with | 1 => 30 | 2 => 21 | _ => 16

/-- The leaf entry `e` met at level `lvl` by a walk of `va` (09 R191, R192). -/
def leaf (e lvl va : Nat) : Except XFault Xl :=
  let p := 2 ^ leafLog lvl
  let cell := nb e 5 1 == 1
  let raw := nb e 6 1 == 1
  let val := cell && !raw
  let pa := nb e 16 32 * 65536
  if nb e 8 8 != 0 || nb e 48 4 != 0 || (!val && nb e 52 12 != 0) || (raw && !cell) || (cell && nb e 4 1 == 1) ||
      (val && nb e 62 2 == 3) || pa % (if val then 8 * p else p) != 0 || !(inHbm pa || inHost pa) then .error xMalformed
  else if nb e 3 1 == 1 && nb e 4 1 == 1 then .error xWxconf
  else .ok { va := va / p * p, size := p, pa := pa, r := nb e 2 1 == 1, w := nb e 3 1 == 1, x := nb e 4 1 == 1,
             cell := cell, raw := raw, sec := nb e 7 1 == 1, e0 := BitVec.ofNat 10 (nb e 52 10),
             rfmt := Fin.ofNat 4 (nb e 62 2) }

/-- Index of `va` at a level (09 R189). -/
def levelIdx (va lvl : Nat) : Nat :=
  match lvl with
  | 0 => nb va 39 9 | 1 => nb va 30 9 | 2 => nb va 21 9 | _ => nb va 16 5

/-- What one table entry says: the next table, a translation or a fault (09 R189 to R191). -/
inductive PteSays where
  | next (tab : Nat)
  | ends (r : Except XFault Xl)

/-- Physical memory inside a secure carve-out (17 R388). -/
def State.carved (s : State) (world : Bool) (pa : Nat) : Bool := !world && s.carveSecure pa

/-- Reads the entry of `va` in the table at `tab` of level `lvl`, in the world of the access: a table in a secure carve-out is closed to a
non-secure one (17 R388). -/
def State.walkOne (s : State) (world : Bool) (va lvl tab : Nat) : PteSays :=
  let e := s.pte (tab + 8 * levelIdx va lvl)
  if s.carved world (tab + 8 * levelIdx va lvl) then .ends (.error xSecure)
  else if nb e 0 1 == 0 then .ends (.error xNomap)
  else if nb e 1 1 == 1 then
    let next := nb e 8 40 * 256
    if lvl == 3 || nb e 2 6 != 0 || nb e 48 16 != 0 || (lvl != 2 && next % 4096 != 0) || !inHbm next then
      .ends (.error xMalformed)
    else .next next
  else if lvl == 0 then .ends (.error xMalformed)
  else .ends (leaf e lvl va)

/-- A walk of `va` from the table at `tab`, levels `lvl` on, with `fuel` levels left. -/
def State.walkFrom (s : State) (world : Bool) (va : Nat) : Nat → Nat → Nat → Except XFault Xl
  | 0, _, _ => .error xMalformed
  | fuel + 1, lvl, tab =>
    match s.walkOne world va lvl tab with
    | .ends r => r
    | .next tab => s.walkFrom world va fuel (lvl + 1) tab

/-- The root table of the address space of queue `asid` (09 R188). A root outside HBM is treated as a misplaced table. DEDUCED, log
entry 12. -/
def State.rootOf (s : State) (asid : Nat) : Except XFault Nat :=
  let root := s.sys.roots.get 0 asid
  if bf root 0 1 == 0 then .error xNomap
  else if !inHbm (bf root 12 36 * 4096) then .error xMalformed
  else .ok (bf root 12 36 * 4096)

/-- A page-table walk in the address space of queue `asid`, for an access in a world. -/
def State.walk (s : State) (asid : Nat) (world : Bool) (va : Nat) : Except XFault Xl :=
  match s.rootOf asid with
  | .error f => .error f
  | .ok tab => s.walkFrom world va 4 0 tab

/-- A TLB entry serves this access. -/
def Tlbe.hits (e : Tlbe) (asid : Nat) (world : Bool) (va : Nat) : Bool :=
  e.asid == asid && e.world == world && decide (e.xl.va ≤ va) && decide (va < e.xl.va + e.xl.size)

/-- Looks a VA up in a TLB. -/
def tlbFind (t : List Tlbe) (asid : Nat) (world : Bool) (va : Nat) : Option Xl :=
  (t.find? fun e => e.hits asid world va).map (·.xl)

/-- Installs an entry; in a full TLB another one goes, by a free choice (09 R195). -/
def tlbPut (cap free : Nat) (t : List Tlbe) (e : Tlbe) : List Tlbe :=
  let t := t.filter fun o => !(o.asid == e.asid && o.world == e.world && o.xl.va == e.xl.va && o.xl.size == e.xl.size)
  e :: (if t.length < cap then t else t.eraseIdx (free % t.length)).take (cap - 1)

/-- TLBINV removes this entry (16 R373): one of the ASID whose page meets the range, every one of the ASID, or every one. An empty
range meets no page. -/
def tlbHit (sel : W64) (len : Nat) (e : Tlbe) : Bool :=
  let va := bf sel 0 48
  bitOf sel 63 || (e.asid == bf sel 48 6 &&
    (bitOf sel 62 || (len != 0 && decide (va < e.xl.va + e.xl.size) && decide (e.xl.va < va + len))))

/-- TLBINV stops this walk in flight: the page that it would bring may be one of those removed. -/
def Walk.stopped (sel : W64) (len : Nat) (w : Walk) : Bool :=
  tlbHit sel len ⟨w.asid, w.world, ⟨w.va / 2 ^ 30 * 2 ^ 30, 2 ^ 30, 0, false, false, false, false, false, false, 0, 0⟩⟩

/-- Installs a translation in the L1 TLB of core `k`. -/
def State.tlbFill (s : State) (k asid : Nat) (world : Bool) (x : Xl) : State :=
  s.upCore k fun c => { c with tlb := tlbPut 128 (Config.freeNat s.nfree (0x650000 + k)) c.tlb ⟨asid, world, x⟩ }

/-- Installs a translation in the L2 TLB of die `d`. -/
def State.l2Fill (s : State) (d asid : Nat) (world : Bool) (x : Xl) : State :=
  { s with l2tlb := s.l2tlb.put d (tlbPut 32768 (Config.freeNat s.nfree (0x651000 + d)) (s.l2tlb.get [] d) ⟨asid, world, x⟩) }

/-! ## Walkers (09 R194) -/

/-- Walkers of a die, and accessors that one walk serves. -/
def walkers : Nat := 96
def joiners : Nat := 64

/-- The walk serves a miss of the ASID, world and 64 KiB page. -/
def Walk.serves (w : Walk) (asid : Nat) (world : Bool) (va : Nat) : Bool :=
  w.asid == asid && w.world == world && w.va / 65536 == va / 65536

/-- The walks of die `d`. -/
def State.walksOf (s : State) (d : Nat) : List Walk := s.walks.get [] d
/-- Replaces the walks of die `d`. -/
def State.setWalks (s : State) (d : Nat) (ws : List Walk) : State := { s with walks := s.walks.set [] d ws }

/-- What a walk finds if it goes on now, for an access at `va`. -/
def State.walkRest (s : State) (w : Walk) (va : Nat) : Except XFault Xl := s.walkFrom w.world va (4 - w.lvl) w.lvl w.tab

/-- A walk of die `d` ends: a translation goes into the L2 TLB; a fault installs nothing (09 R195). -/
def State.walkEnds (s : State) (d : Nat) (w : Walk) (r : Except XFault Xl) : State :=
  let s := s.setWalks d ((s.walksOf d).erase w)
  match r with | .ok x => s.l2Fill d w.asid w.world x | .error _ => s

/-- The first `n` walks of die `d` end. -/
def State.endWalks (d : Nat) : Nat → State → State
  | 0, s => s
  | n + 1, s =>
    match s.walksOf d with
    | [] => s
    | w :: _ => State.endWalks d n (s.walkEnds d w (s.walkRest w w.va))

/-- A walk for a miss of both TLBs on die `d`: it joins the one in flight for its page, whose 65th accessor walks again if that one
faults; else it takes a walker, once those before it have ended. DESIGN CHOICE, log entry 64. -/
def State.missWalk (s : State) (d asid : Nat) (world : Bool) (va : Nat) : State × Except XFault Xl :=
  match (s.walksOf d).find? fun w => w.serves asid world va with
  | some w =>
    let r := s.walkRest w va
    let s := s.walkEnds d w r
    (s, match r with | .ok x => .ok x | .error f => if joiners ≤ w.n then s.walk asid world va else .error f)
  | none =>
    let s := State.endWalks d ((s.walksOf d).length + 1 - walkers) s
    (s, s.walk asid world va)

/-- A walk for an access at `va` begins, or an access joins it, without going on yet. -/
def State.walkBegins (s : State) (d asid : Nat) (world : Bool) (va : Nat) : State :=
  let ws := s.walksOf d
  if (tlbFind (s.l2tlb.get [] d) asid world va).isSome then s
  else if ws.any fun w => w.serves asid world va then
    s.setWalks d (ws.map fun w => if w.serves asid world va then { w with n := min joiners (w.n + 1) } else w)
  else match s.rootOf asid with
    | .error _ => s
    | .ok tab => s.setWalks d (ws ++ [⟨asid, world, va, 0, tab, 1⟩])

/-- Walk `j` of die `d`, if it has a walker, reads its next entry. -/
def State.walkSteps (s : State) (d j : Nat) : State :=
  match ((s.walksOf d).take walkers)[j]? with
  | none => s
  | some w =>
    match s.walkOne w.world w.va w.lvl w.tab with
    | .ends r => s.walkEnds d w r
    | .next tab => s.setWalks d ((s.walksOf d).set j { w with lvl := w.lvl + 1, tab := tab })

/-- Finds the translation of a VA for core `k`: L1 TLB, L2 TLB, then a walk (09 R194). -/
def State.lookup (s : State) (k asid : Nat) (world : Bool) (va : Nat) : State × Except XFault Xl :=
  match tlbFind (s.core k).tlb asid world va with
  | some x => (s, .ok x)
  | none =>
    match tlbFind (s.l2tlb.get [] (dieOf k)) asid world va with
    | some x => (s.tlbFill k asid world x, .ok x)
    | none =>
      match s.missWalk (dieOf k) asid world va with
      | (s, .ok x) => ((s.l2Fill (dieOf k) asid world x).tlbFill k asid world x, .ok x)
      | (s, .error f) => (s, .error f)

/-- Physical address of the first byte that an access at `va` touches: raw storage for a value page. -/
def Xl.paOf (x : Xl) (va : Nat) : Nat :=
  if x.cell && !x.raw then x.pa + 32 * ((va - x.va) / 4) else x.pa + (va - x.va)

/-- The checks of 09 R193 and the carve-out check of 17 R388, in the order SECURE, RAW, then the access's own row. DEDUCED, log entry 13. -/
def State.permit (s : State) (world : Bool) (acc : Acc) (x : Xl) (va : Nat) : Except XFault Xl :=
  if !world && (x.sec || s.carveSecure (x.paOf va)) then .error xSecure
  else if !world && x.raw then .error xRaw
  else match acc with
    | .fetch => if x.x then .ok x else .error xNoexec
    | .read => if x.r then .ok x else .error xNoread
    | .write => if x.w then .ok x else .error xNowrite
    | .atom => if !x.w then .error xNowrite else if !x.r then .error xNoread else .ok x

/-- Translates device VA `va` for an access of core `k` (09 R186 to R195). -/
def State.translate (s : State) (k asid : Nat) (world : Bool) (acc : Acc) (va : Nat) : State × Except XFault Xl :=
  match s.lookup k asid world va with
  | (s, .ok x) => (s, s.permit world acc x va)
  | (s, .error f) => (s, .error f)

/-- Form of a 64-bit global address for a core access (09 R186): a device VA, or why it is none. -/
def coreVa (a : W64) : Except XFault Nat :=
  if a.toNat < 2 ^ 48 then .ok a.toNat
  else if bf a 61 3 == 4 then .error xPod
  else .error xNoncanon

/-- Where an access of a page lands. -/
def Xl.ref (x : Xl) (va : Nat) : GRef :=
  let pa := x.paOf va
  if x.cell && !x.raw then .cell pa x.e0 x.rfmt
  else if x.raw then .raw pa
  else if inHost pa then .host pa
  else .mem pa

/-! ## The page-fault service (09 R197, 17 R384) -/

/-- A record ring has room for a record. -/
def RecRing.room (r : RecRing) : Bool := r.en && decide ((r.tail - r.head).toNat < 2 ^ r.log2n.toNat)

/-- Address of the next record of a ring with records of `n` bytes. -/
def RecRing.next (r : RecRing) (n : Nat) : Nat := r.base.toNat + n * (r.tail.toNat % 2 ^ r.log2n.toNat)

/-- A record can be written there: inside the physical map, outside every secure carve-out (13 R340). -/
def State.recWritable (s : State) (pa : Nat) : Bool := (inHbm pa || inHost pa) && !s.carveSecure pa

/-- The 32 bytes of a page-fault record (17 R384). -/
def pfRecord (asid acc : Nat) (seq : W32) (page : W32) (waiters : Nat) (sid : W64) : List Byte :=
  natLe 2 asid ++ natLe 1 acc ++ [0] ++ natLe 4 seq.toNat ++ natLe 8 (page.toNat * 65536) ++ natLe 2 waiters ++
    natLe 6 0 ++ natLe 8 sid.toNat

/-- Raises an MSI-X vector. -/
def State.msi (s : State) (v : BitVec 16) : State := s.upSys fun y => { y with msix := y.msix ++ [v] }

/-- Parks an access on a page: posts one record per ASID and page. `none` when the ring is full or disabled, which answers
FAIL at once, with no record generated (17 R384). A record that may not be written is lost: SEQ counts it, and its page parks all the same.
DEDUCED, log entry 11. -/
def State.park (s : State) (asid acc : Nat) (page : W32) : Option State :=
  if s.sys.parked.any fun p => p.asid == asid && p.page == page then some s
  else if !s.sys.pf.room then none
  else
    let pa := s.sys.pf.next 32
    let s1 := if s.recWritable pa then ((s.wr tagDevice pa (pfRecord asid acc s.sys.pfSeq page 1 s.sys.sidt)).upSys fun y => { y with
      pf := { y.pf with tail := y.pf.tail + 1 } }).msi s.sys.pf.vec else s
    some (s1.upSys fun y => { y with pfSeq := y.pfSeq + 1, parked := y.parked ++ [⟨asid, page⟩] })

/-- The page-fault service is in host-assisted mode (17 R383). -/
def State.hostPf (s : State) : Bool := s.sys.sysmode.getLsbD 0

end Sys2Proof.Machine
end

