-- ==== Sys2Proof/Machine/Cells.lean ====
section
/-! DEFINITION. Accumulator cells: raw layout, adds, reads and clears (11 R256 to R260). -/

namespace Sys2Proof.Machine

/-- A cell: A, N and S (11 R256). -/
structure Cell where
  a : Int
  n : Nat
  s : BitVec 32
deriving DecidableEq, Repr

/-- A cell from its 32 raw bytes. -/
def cellOf (bs : List Byte) : Cell :=
  ⟨sx 192 (leNat (bs.take 24)), leNat ((bs.drop 24).take 4), BitVec.ofNat 32 (leNat ((bs.drop 28).take 4))⟩

/-- The raw bytes of a cell. -/
def Cell.bytes (c : Cell) : List Byte := natLe 24 (c.a % 2 ^ 192).toNat ++ natLe 4 c.n ++ natLe 4 c.s.toNat

/-- A value on the grid 2^e0: ties to even, and whether bits were lost. -/
def gridRound (x : Dy) (e0 : Int) : Int × Bool :=
  let y : Dy := ⟨x.m, x.e - e0⟩
  let d := y.den
  let q := y.num / d
  let r := y.num % d
  let q := if roundUp .rne false q r d then q + 1 else q
  (if y.m < 0 then -(q : Int) else q, r != 0)

/-- A cell add (11 R258). -/
def Cell.add (c : Cell) (e0 : Int) (x : FV) : Cell :=
  let c := if c.n = 2 ^ 32 - 1 then { c with s := c.s ||| 32 } else { c with n := c.n + 1 }
  match x with
  | .nan _ => { c with s := c.s ||| 1 }
  | .inf false => { c with s := c.s ||| 2 }
  | .inf true => { c with s := c.s ||| 4 }
  | .fin .. =>
    if !(x.dy.abs.lt ⟨1, e0 + 127⟩) then { c with s := c.s ||| 8 }
    else
      let q := gridRound x.dy e0
      { c with a := sx 192 ((c.a + q.1) % 2 ^ 192).toNat, s := if q.2 then c.s ||| 16 else c.s }

/-- Format of RFMT. -/
def rfmtOf (r : Fin 4) : FFmt := match r with | 0 => fp32 | 1 => bf16 | _ => fp16

/-- The four value bytes of a cell, with the flags that a load records (11 R259). -/
def Cell.value (c : Cell) (e0 : Int) (r : Fin 4) : Nat × Flags :=
  let f := rfmtOf r
  if bitOf c.s 0 || bitOf c.s 3 || (bitOf c.s 1 && bitOf c.s 2) then (f.nan, fNANIN)
  else if bitOf c.s 1 then (f.infCode, 0)
  else if bitOf c.s 2 then (f.signW + f.infCode, 0)
  else
    let v := roundDy f .rne false ⟨c.a, e0⟩
    (v.1, v.2 &&& (fIX ||| fOV))

/-- e0 of a value page as an exponent. -/
def e0Of (e : BitVec 10) : Int := e.toInt

/-- The cell whose raw storage is at `pa`. -/
def State.cell (s : State) (pa : Nat) : Cell := cellOf (s.rd pa 32)

/-- The value bytes of the cell at raw address `pa`. -/
def State.cellVal (s : State) (pa : Nat) (e : BitVec 10) (r : Fin 4) : List Byte × Flags :=
  let v := (s.cell pa).value (e0Of e) r
  (natLe 4 v.1, v.2)

/-- Performs a cell add at raw address `pa`. -/
def State.cellAdd (s : State) (tag : BitVec 12) (pa : Nat) (e : BitVec 10) (x : FV) : State :=
  s.wr tag pa ((s.cell pa).add (e0Of e) x).bytes

/-- A source element of CPYA.ADDF by its OPX (11 R254). -/
def addend (opx : Nat) (code : Nat) : FV :=
  match opx % 4 with | 0 => fp32.dec code | 1 => bf16.dec code | 2 => fp16.dec code | _ => e4m3.dec code

end Sys2Proof.Machine
end

