-- ==== Sys2Proof/Machine/Fetch.lean ====
section
/-! DEFINITION. Instruction cache, fetch buffer, packets, framing and the beginning of a bundle (04 R66 to R74, R83). -/

namespace Sys2Proof.Machine

/-- What a fetch of code brings. -/
inductive Fetched (α : Type) where
  | ok (a : α)
  | fault (f : XFault)
  | poison (unit : BitVec 16)
deriving DecidableEq, Repr

/-- The eight granules of a line as memory holds them. -/
def State.memLine (s : State) (l : Nat) : Line := Vector.ofFn fun i => s.rdGran (8 * l + i.val)

/-- What a fill of line `l` of core `k` brings: granules that it has read already, and the others from memory (04 R67). -/
def State.fillLine (s : State) (k l : Nat) : Line :=
  let got := (s.core k).ifill.get [] l
  Vector.ofFn fun i => match got.find? fun e => e.1 == i.val with
    | some e => e.2
    | none => s.rdGran (8 * l + i.val)

/-- Installs a filled line in the cache of 512 lines, of which a set holds 8. -/
def Core.icPut (c : Core) (free l : Nat) (v : Line) : Core :=
  { c with
    icache := (if (c.icache.get none l).isSome then c.icache else makeRoom 512 8 free c.icache).put l (some v)
    ifill := c.ifill.del l }

/-- Where the instruction cache of core `k` makes room: a free choice. -/
def State.icRoom (s : State) (k : Nat) : Nat := Config.freeNat s.nfree (0x668000 + k)

/-- The instruction cache's copy of line `l` of core `k`, filled from memory on a miss (04 R67). -/
def State.icacheLine (s : State) (k l : Nat) : State × Fetched Line :=
  match (s.core k).icache.get none l with
  | some v => (s, .ok v)
  | none =>
    match s.poisonAt (128 * l) 128 with
    | some u => (s, .poison u)
    | none => (s.upCore k fun c => c.icPut (s.icRoom k) l (s.fillLine k l), .ok (s.fillLine k l))

/-- Word `j` (0 to 31) of a line. -/
def lineWord (v : Line) (j : Nat) : W32 := (v.getD (j / 4) 0).extractLsb' (32 * (j % 4)) 32

/-- Eight words of a line from word `j` on. -/
def lineWords (v : Line) (j : Nat) : List W32 := (List.range 8).map fun i => lineWord v (j + i)

/-- Fetches the packet at `pk` for context `x` through its core's instruction cache (04 R66 to R68). -/
def State.fetchPacket (s : State) (x pk : Nat) : State × Fetched (List W32) :=
  match s.translate (coreOf x) (s.asidOf x) (s.worldOf x) .fetch pk with
  | (s, .error f) => (s, .fault f)
  | (s, .ok t) =>
    let pa := t.paOf pk
    match s.icacheLine (coreOf x) (pa / 128) with
    | (s, .ok v) => (s, .ok (lineWords v (pa % 128 / 4)))
    | (s, .fault f) => (s, .fault f)
    | (s, .poison u) => (s, .poison u)

/-- The words of the packet at `pk`, if the buffer holds it. -/
def bufFind (b : List Packet) (pk : Nat) : Option (List W32) := (b.find? fun p => p.va.toNat == pk).map (·.words)

/-- Puts a packet into a fetch buffer of four: behind the last one when it follows it, else into an emptied buffer. -/
def bufPut (b : List Packet) (p : Packet) : List Packet :=
  match b.getLast? with
  | some l => if l.va.toNat + 32 = p.va.toNat then (b ++ [p]).drop (b.length + 1 - 4) else [p]
  | none => [p]

/-- The packet at `pk` for context `x`: the buffered copy, else fetched into the buffer (04 R68). DESIGN CHOICE, log entry 9. -/
def State.packet (s : State) (x pk : Nat) : State × Fetched (List W32) :=
  match bufFind (s.ctx x).fbuf pk with
  | some ws => (s, .ok ws)
  | none =>
    match s.fetchPacket x pk with
    | (s, .ok ws) => (s.upCtx x fun c => { c with fbuf := bufPut c.fbuf ⟨BitVec.ofNat 48 pk, ws⟩ }, .ok ws)
    | (s, .fault f) => (s, .fault f)
    | (s, .poison u) => (s, .poison u)

/-- A packet whose first word makes it a pool packet (04 R72). -/
def isPool (ws : List W32) : Bool := bf (ws.getD 0 0) 22 10 == 0x3CB

/-- Bit B of a word. -/
def bBit (w : W32) : Bool := w.getLsbD 31

/-- The words that go on a bundle: B = 0 and not zero (04 R69). -/
def contWords : List W32 → List W32
  | [] => []
  | w :: ws => if bBit w || w == 0 then [] else w :: contWords ws

/-- The bundle that begins at word `i` of a packet (04 R69). -/
def frameAt (ws : List W32) (i : Nat) : List W32 :=
  match ws.drop i with
  | [] => []
  | w :: rest => w :: contWords rest

/-- Sequential successor of a bundle of `n` words at word `i` of the packet at `pk` (04 R69). Past the top of the address space the
contexts' registers take it modulo 2^48. DESIGN CHOICE, log entry 63. -/
def successor (ws : List W32) (pk i n : Nat) : Nat :=
  match ((List.range 8).drop (i + n)).find? fun j => ws.getD j 0 != 0 with
  | some j => pk + 4 * j
  | none => pk + 32

/-- TINFO of ILLEGAL_ENC (04 R83). -/
def encInfo (widx : Nat) (r : Reason) (w : Nat) : W64 := BitVec.ofNat 64 (widx + 16 * r.code + 2 ^ 32 * (w % 2 ^ 32))

/-- TINFO of a translation or permission fault of the M unit (09 R196). -/
def xInfo (f : XFault) (va : Nat) : W64 := BitVec.ofNat 64 (va % 2 ^ 48 + 2 ^ 48 * f.kind)

/-- How a bundle begins at an address. -/
inductive Begin where
  | bundle (b : Bundle) (words : List Nat) (succ : Nat)
  | trap (t : Trap)
  /-- The fetch meets NOMAP in host-assisted mode and parks. -/
  | park
deriving DecidableEq, Repr

/-- TINFO of a POISON that a core access raises: the spec lays none down. DESIGN CHOICE, log entry 10. -/
def State.poisonInfo (s : State) (x : Nat) : W64 := Config.freeW64 s.nfree (0x100000 + x)

/-- Begins the bundle at `a` in context `x` (04 R69 to R72, R82). -/
def State.beginAt (s : State) (x a : Nat) : State × Begin :=
  let pk := a / 32 * 32
  match s.packet x pk with
  | (s, .fault f) =>
    if f = xNomap && s.hostPf then (s, .park)
    else (s, .trap ⟨f.cause, BitVec.ofNat 48 a, BitVec.ofNat 64 (a % 2 ^ 48), 0⟩)
  | (s, .poison u) => (s, .trap ⟨.poison, BitVec.ofNat 48 a, s.poisonInfo x, u⟩)
  | (s, .ok ws) =>
    let i := a % 32 / 4
    let b := frameAt ws i
    if isPool ws then (s, .trap ⟨.poolExec, BitVec.ofNat 48 a, BitVec.ofNat 64 pk, 0⟩)
    else if !bBit (b.getD 0 0) then
      (s, .trap ⟨.illegalEnc, BitVec.ofNat 48 a, encInfo 0 .frame (b.getD 0 0).toNat, 0⟩)
    else
      match decodeBundle (s.phloOf x) (s.phcntOf x) (s.ringsOf x) (b.map (·.toNat)) with
      | .error (k, r, w) => (s, .trap ⟨.illegalEnc, BitVec.ofNat 48 a, encInfo k r w, 0⟩)
      | .ok d => (s, .bundle d (b.map (·.toNat)) (successor ws pk i b.length))

/-- Sequential successor of the bundle framed at `a`, where its packet can be had and the word at `a` has B = 1; else that word
(04 R69, 06 R121). -/
def State.succOf (s : State) (x a : Nat) : State × Fetched (Except W32 Nat) :=
  match s.packet x (a / 32 * 32) with
  | (s, .ok ws) =>
    let w := ws.getD (a % 32 / 4) 0
    (s, .ok (if bBit w then .ok (successor ws (a / 32 * 32) (a % 32 / 4) (frameAt ws (a % 32 / 4)).length) else .error w))
  | (s, .fault f) => (s, .fault f)
  | (s, .poison u) => (s, .poison u)

end Sys2Proof.Machine
end

