-- ==== Sys2Proof/Machine/Loads.lean ====
section
/-! DEFINITION. Reads of global loads: at the home, or through the core's read-only L1, granule by granule between a load's issue and
its landing (09 R200, R206; 12 R285, R286, R289). -/

namespace Sys2Proof.Machine

/-- The bytes that a read of `n` bytes takes: address and length; of a cell, its raw storage. -/
def GRef.span (n : Nat) : GRef → Nat × Nat
  | .mem pa | .host pa | .raw pa => (pa, n)
  | .cell pa _ _ => (pa, 32 * (n / 4))

/-- The read goes to the home: every one but a plain read of plain memory (09 R200; 12 R286). -/
def GRef.home (f : Bool) : GRef → Bool
  | .mem _ => f
  | _ => true

/-- What a read of `n` bytes at the home brings. -/
def State.homeRead (s : State) (n : Nat) : GRef → LdGot
  | .mem pa | .raw pa => match s.poisonAt pa n with | some u => .poison u | none => .ok (s.rd pa n) 0
  | .host pa => .ok (s.rd pa n) 0
  | .cell pa e r =>
    match s.poisonAt pa (32 * (n / 4)) with
    | some u => .poison u
    | none =>
      let v := (List.range (n / 4)).map fun j => s.cellVal (pa + 32 * j) e r
      .ok (v.flatMap (·.1)) (v.foldl (fun a p => a ||| p.2) 0)

/-! ## The read-only L1 (09 R200) -/

/-- A line of which nothing has been filled. -/
def L1Line.empty : L1Line := Vector.replicate 8 none

/-- Granule `j` of a line, if it has been filled. -/
def L1Line.gran (v : L1Line) (j : Nat) : Option Gran := v[j]?.join

/-- Puts a line into the L1. -/
def Core.l1Put (c : Core) (free l : Nat) (v : L1Line) : Core :=
  { c with l1 := (if (c.l1.get none l).isSome then c.l1 else makeRoom 1024 1 free c.l1).put l (some v) }

/-- Reads `n` bytes of one granule through the L1 of core `k`: the copy, or the home, whose granule then fills the L1. With `refill` a
copy that stands is replaced first. -/
def State.l1Read (s : State) (k pa n : Nat) (refill : Bool) : State × LdGot :=
  let l := pa / 128
  let j := pa % 128 / 16
  let line := ((if refill then none else (s.core k).l1.get none l).getD L1Line.empty : L1Line)
  match line.gran j with
  | some g => (s, .ok (((natLe 16 g.toNat).drop (pa % 16)).take n) 0)
  | none =>
    match s.poisonAt pa n with
    | some u => (s, .poison u)
    | none =>
      let fills := (s.poisonAt (128 * l) 128).isNone
      (if fills then s.upCore k fun c => c.l1Put (Config.freeNat s.nfree (0x660000 + k)) l (line.setIfInBounds j (some (s.rdGran (pa / 16))))
        else s, .ok (s.rd pa n) 0)

/-- The fill of line `l` in the L1 of core `k` brings the granules `gs` that it still lacks. -/
def State.l1Fill (s : State) (k l : Nat) (gs : BitVec 8) : State :=
  match (s.core k).l1.get none l with
  | none => s
  | some v =>
    if (s.poisonAt (128 * l) 128).isSome then s
    else s.upCore k fun c => { c with l1 := c.l1.put l (some (Vector.ofFn fun j : Fin 8 =>
      v[j].or (if gs.getLsbD j then some (s.rdGran (8 * l + j.val)) else none))) }

/-! ## Outstanding loads -/

/-- Reads `n` bytes of a translated reference for core `k`. -/
def State.refRead (s : State) (k : Nat) (f refill : Bool) (n : Nat) (g : GRef) : State × LdGot :=
  match g with
  | .mem pa => if f then (s, s.homeRead n g) else s.l1Read k pa n refill
  | _ => (s, s.homeRead n g)

/-- Reads those lanes of a load that `now` selects: the state, the lanes that are left, and what the others have brought. -/
def State.readLanes (k : Nat) (f refill : Bool) (n : Nat) (now : Nat × GRef → Bool) :
    List (Nat × GRef) → State → State × List (Nat × GRef) × List (Nat × LdGot)
  | [], s => (s, [], [])
  | e :: es, s =>
    if now e then
      let (s, g) := s.refRead k f refill n e.2
      let (s, us, gs) := State.readLanes k f refill n now es s
      (s, us, (e.1, g) :: gs)
    else
      let (s, us, gs) := State.readLanes k f refill n now es s
      (s, e :: us, gs)

/-- Two stretches of bytes meet. -/
def meets (a b : Nat × Nat) : Bool := decide (a.1 < b.1 + b.2) && decide (b.1 < a.1 + a.2)

/-- An older load than the one at index `j` has still to read some of these bytes, through the L1 or at the home: a read at the home waits
for it, so that reads of one location do not go backwards (12 R285, R286, R289). -/
def Ctx.olderReads (c : Ctx) (j : Nat) (b : Nat × Nat) : Bool :=
  (c.pends.take j).any fun p => match p.what with
    | .load _ m _ lanes _ => lanes.any fun e => meets (e.2.span m) b
    | _ => false

/-- Outstanding loads read what they have still to read, the oldest first. A plain one may take the core's L1 copy or the home's
bytes. -/
def State.settleReads (k : Nat) : List Pend → State → State × List Pend
  | [], s => (s, [])
  | p :: ps, s =>
    match p.what with
    | .load va n f lanes got =>
      let (s, _, now) := State.readLanes k f (Config.freeNat s.nfree (0x6A0000 + ps.length) % 2 == 1) n (fun _ => true) lanes s
      let (s, ps) := State.settleReads k ps s
      (s, { p with what := .load va n f [] (got ++ now) } :: ps)
    | _ =>
      let (s, ps) := State.settleReads k ps s
      (s, p :: ps)

/-- The word has an effect outside its context, which its context's earlier loads precede: an E-unit word, or a store that sets
full-empty bits (12 R280, R282). -/
def leavesCore (i : Instr) : Bool :=
  match i with
  | .stv .full _ _ _ | .stsD .full _ _ _ | .stsW .full _ _ _ | .stsH .full _ _ _ | .stsB .full _ _ _ | .feset _ _ => true
  | i => match i.info with | some w => w.unit == 3 | none => false

/-- Before such a bundle of context `x` issues its outstanding loads have read: none of them returns a write that it happens-before, nor a
later one than a read that it happens-before (12 R285, R286, R289). DESIGN CHOICE, log entry 58. -/
def State.settleLoads (s : State) (x : Nat) (is : List Instr) : State :=
  if is.any leavesCore && !(s.ctx x).pends.isEmpty then
    let (s, ps) := State.settleReads (coreOf x) (s.ctx x).pends s
    s.upCtx x fun c => { c with pends := ps }
  else s

end Sys2Proof.Machine
end

