-- ==== Sys2Proof/Machine/Operands.lean ====
section
/-! DEFINITION. Operands, destinations and the issue of a bundle: sources read in the cycle of issue (00 R12), results in
flight (05 R94, R95), scoreboards (R96), commit signatures (R107), and where the next bundle is (04 R70, 06 R120, R121). -/

namespace Sys2Proof.Machine

/-! ## Reading sources -/

/-- What a bundle reads: the state and the context as they stand when it issues. -/
structure Iss where
  s : State
  x : Nat
  c : Ctx
  /-- The issuer is a CHECK checker: effects that leave the core are its primary's (05 R106). -/
  chk : Bool

/-- A scalar register has a result in flight. -/
def Ctx.busyS (c : Ctx) (n : Fin 32) : Bool :=
  c.flight.any fun f => match f.val with | .s m _ => m == n | _ => false

/-- Lane `k` of row `n` has a result in flight. -/
def Ctx.busyV (c : Ctx) (n : Fin 64) (k : Nat) : Bool :=
  c.flight.any fun f => match f.val with | .v m _ => m == n && f.lanes.getLsbD k | _ => false

/-- Scalar source `n`: s0 reads zero; a register with a result in flight reads an undefined value (05 R94, R97). -/
def Iss.rS (i : Iss) (n : Fin 32) : W64 :=
  if n = 0 then 0
  else if i.c.busyS n then Config.freeW64 i.s.nfree (64 * i.x + n)
  else i.c.s[n]

/-- Lane `k` of row `n` as a source. -/
def Iss.rV (i : Iss) (n : Fin 64) (k : Nat) : W32 :=
  if i.c.busyV n k then Config.freeW32 i.s.nfree (4096 * i.x + 64 * n + k)
  else lane i.c.v[n] k

/-- Lane `k` of a selector: a row, a column or a diagonal (05 R98). -/
def Iss.rSel (i : Iss) (a : Sel) (k : Nat) : W32 :=
  match a with
  | .row n => i.rV n k
  | .col j => i.rV (Fin.ofNat 64 k) j
  | .diag d => i.rV (Fin.ofNat 64 (k + d)) k

/-- EM as a source. -/
def Iss.em (i : Iss) : W64 := i.c.em

/-- CM as a source: a bit with a compare in flight reads its old or its new value (08 R164). DESIGN CHOICE, log entry 23. -/
def Iss.cm (i : Iss) : W64 :=
  (i.c.flight.zipIdx).foldl (fun a e =>
    match e.1.val with
    | .cm y =>
      maskOfFn fun k =>
        if e.1.lanes.getLsbD k && Config.freeBit i.s.nfree (0x680000 + 0x10000 * e.2 + 64 * i.x + k) then y.getLsbD k else a.getLsbD k
    | _ => a) i.c.cm

/-- One more cycle for a view (05 R94). -/
def viewExtra (sels : List Sel) : Nat := if sels.any fun a => match a with | .row _ => false | _ => true then 1 else 0

/-! ## What a bundle builds -/

/-- Where the next bundle is. -/
inductive Next where
  /-- EndOf runs on this bundle (06 R121). -/
  | seq
  /-- A taken transfer, checked by R70. -/
  | jump (a : W64)
  /-- The sequential successor, without EndOf: a LOOP or LOOPI that pushed. -/
  | fall
  /-- EndOf runs on the bundle framed there: BRKL, or a LOOP or LOOPI with a zero count. -/
  | endAt (e : Addr)
  /-- TRAP or BRK: EndOf runs, then the trap is raised (16 R359). -/
  | trapAfter (c : Cause) (info : W64)
  /-- HALT: the context issues nothing more (06 R131). -/
  | stop
deriving DecidableEq, Repr

/-- What the words of a bundle have built so far: the issuing context, the rest of the state, the next bundle, and the byte
stream of the commit signature (05 R107). -/
structure Out where
  c : Ctx
  s : State
  next : Next
  sig : List SigItem
  /-- RSD tags taken by the bundle's V words (07 R150), and what a WRSR writes to RSDCTR after them. -/
  tags : Nat := 0
  wrRsd : Option W32 := none

/-- How a word ends: its effect, a trap, or a blocking wait in a state that no word of the bundle has changed. -/
inductive Res where
  | ok (o : Out)
  | trap (t : Trap)
  | wait (s : State) (w : Wait)

/-- The effect of a word. -/
abbrev Eff := Iss → Out → Res

/-- An older result to the same place no longer lands there (05 R95). -/
def Flight.cut (f : Flight) (v : FVal) (lanes : W64) : Flight :=
  match f.val, v with
  | .s m _, .s n _ => if m = n then { f with live := 0 } else f
  | .v m _, .v n _ => if m = n then { f with live := f.live &&& ~~~lanes } else f
  | .cm _, .cm _ => { f with live := f.live &&& ~~~lanes }
  | _, _ => f

/-- A written scalar register in the commit signature. -/
def sigS (n : Fin 32) (x : W64) : List SigItem := [.bytes ([0, BitVec.ofNat 8 n] ++ natLe 8 x.toNat)]
/-- A written row. -/
def sigV (n : Fin 64) (x : Row) (em : W64) : List SigItem :=
  [.bytes ([1, BitVec.ofNat 8 n] ++ natLe 8 em.toNat ++
    (List.range 64).flatMap fun k => if em.getLsbD k then natLe 4 (lane x k).toNat else [])]
/-- A written mask. -/
def sigM (cm : Bool) (x : W64) : List SigItem := [.bytes ([2, BitVec.ofNat 8 (b2n cm)] ++ natLe 8 x.toNat)]
/-- A written special register. -/
def sigR (idx : Nat) (x : W64) : List SigItem := [.bytes ([3, 0] ++ natLe 2 idx ++ natLe 8 x.toNat)]
/-- A scratchpad store or full-empty change; `fe` is the new bit, or 0xFF. -/
def sigL (a : Nat) (bs : List Byte) (fe : Nat) : List SigItem :=
  [.bytes ([4, 0] ++ natLe 4 a ++ natLe 2 bs.length ++ bs ++ [BitVec.ofNat 8 fe])]

/-- Writes a scalar register now: bound 1. A write to s0 is discarded (05 R97). -/
def Ctx.putS (c : Ctx) (n : Fin 32) (x : W64) : Ctx :=
  if n = 0 then c
  else { c with s := c.s.set n x, flight := c.flight.map fun f => f.cut (.s n x) 1 }

/-- A scalar result with bound 1. -/
def Out.wS (o : Out) (n : Fin 32) (x : W64) : Out :=
  { o with c := o.c.putS n x, sig := o.sig ++ (if n = 0 then [] else sigS n x) }

/-- An older result in flight after a later one to the same place has been issued: it lands no more, but for a compare, whose bits land
first and are CM's old value for the later one (08 R164). -/
def Flight.behind (f : Flight) (v : FVal) (lanes : W64) : Flight :=
  match v with
  | .cm _ => f
  | v => f.cut v lanes

/-- A result in flight with bound `l`. -/
def Ctx.launch (c : Ctx) (v : FVal) (lanes : W64) (l : Nat) (fl : Flags) : Ctx :=
  { c with flight := c.flight.map (·.behind v lanes) ++ [⟨v, lanes, lanes, l - 1, fl⟩] }

/-- CM once every compare in flight has landed. -/
def Ctx.cmEnd (c : Ctx) : W64 :=
  c.flight.foldl (fun a f => match f.val with | .cm y => (a &&& ~~~f.live) ||| (y &&& f.live) | _ => a) c.cm

/-- A scalar result with bound `l`. One to s0 is discarded, but its flags land. -/
def Out.fS (o : Out) (n : Fin 32) (x : W64) (l : Nat) (fl : Flags) : Out :=
  { o with c := o.c.launch (.s n x) (if n = 0 then 0 else 1) l fl, sig := o.sig ++ (if n = 0 then [] else sigS n x) }

/-- A row result for the lanes of `em`, with bound `l`. -/
def Out.fV (o : Out) (n : Fin 64) (x : Row) (em : W64) (l : Nat) (fl : Flags) : Out :=
  { o with c := o.c.launch (.v n x) em l fl, sig := o.sig ++ sigV n x em }

/-- A compare's bits of CM for the lanes of `em`, with bound `l`. -/
def Out.fCM (o : Out) (x em : W64) (l : Nat) (fl : Flags) : Out :=
  let c := o.c.launch (.cm x) em l fl
  { o with c := c, sig := o.sig ++ sigM true c.cmEnd }

/-- Writes a mask now: bound 1. -/
def Out.wM (o : Out) (m : Mask) (x : W64) : Out :=
  match m with
  | .em => { o with c := { o.c with em := x }, sig := o.sig ++ sigM false x }
  | .cm =>
    { o with
      c := { o.c with cm := x, flight := o.c.flight.map fun f => f.cut (.cm x) (BitVec.allOnes 64) }
      sig := o.sig ++ sigM true x }

/-- A scoreboarded destination (05 R96); the signature waits for what lands there. -/
def Out.pend (o : Out) (d : Dest) (w : PendWhat) : Out :=
  { o with
    c := { o.c with pends := o.c.pends ++ [{ dst := d, what := w, pc := o.c.pc }] }
    sig := o.sig ++ (if d.counts then [.due d o.c.em] else []) }

/-- A scoreboarded scalar destination whose value was sampled at issue. -/
def Out.ans (o : Out) (n : Fin 32) (x : W64) : Out := o.pend (.s n) (.ans x)

/-! ## Landing -/

/-- Writes the live lanes of a result and raises its flags. -/
def Ctx.land (c : Ctx) (f : Flight) : Ctx :=
  let c := c.raiseFlags f.flags
  match f.val with
  | .s n x => if f.live = 0 then c else { c with s := c.s.set n x }
  | .v n x => { c with v := c.v.set n (rowOf fun k => if f.live.getLsbD k then lane x k else lane c.v[n] k) }
  | .cm x => { c with cm := (c.cm &&& ~~~f.live) ||| (x &&& f.live) }

/-- One cycle of the results in flight: those whose bound has passed land (05 R94). -/
def Ctx.tickFlight (c : Ctx) : Ctx :=
  let due := c.flight.filter fun f => f.left == 0
  let rest := (c.flight.filter fun f => f.left != 0).map fun f => { f with left := f.left - 1 }
  due.foldl Ctx.land { c with flight := rest, sigs := c.sigs.map fun g => { g with left := g.left - 1, age := g.age + 1 } }

/-- Every result in flight lands. -/
def Ctx.landAll (c : Ctx) : Ctx := c.flight.foldl Ctx.land { c with flight := [], sigs := c.sigs.map fun g => { g with left := 0 } }

/-- A value comes to a scoreboarded place: older results in flight do not overwrite it (05 R95). -/
def Ctx.comes (c : Ctx) (v : FVal) (lanes : W64) (fl : Flags) : Ctx :=
  ({ c with flight := c.flight.map (·.cut v lanes) } : Ctx).land ⟨v, lanes, lanes, 0, fl⟩

/-! ## Commit signatures (05 R107) -/

/-- What a value adds to the signature that waits for it. -/
def SigItem.fill (v : FVal) (t : SigItem) : List SigItem :=
  match t, v with
  | .due d em, .v n x => if destTakes d v then sigV n x em else [t]
  | .due d _, .s n x => if destTakes d v then sigS n x else [t]
  | t, _ => [t]

/-- The signatures of a context once a value has come to a scoreboarded destination. -/
def Ctx.signed (c : Ctx) (v : FVal) : Ctx := { c with sigs := c.sigs.map fun g => { g with items := g.items.flatMap (SigItem.fill v) } }

/-- The bytes of an item. -/
def SigItem.raw : SigItem → List Byte
  | .bytes bs => bs
  | .due .. => []

/-- The signature: 0 of a bundle that writes nothing, else the CRC-32C of its bytes. -/
def Sig.word (g : Sig) : W32 :=
  let bs := g.items.flatMap SigItem.raw
  if bs.isEmpty then 0 else crc32c bs

/-- The bundle's last result has landed. -/
def Sig.whole (g : Sig) : Bool := g.left == 0 && g.items.all fun t => match t with | .bytes _ => true | .due .. => false

/-! ## Words of the bundle -/

/-- Index and value of the bundle's word of unit `u`, its header left out. -/
def Ctx.unitWord (c : Ctx) (u : Nat) : Nat × Nat :=
  match ((List.range c.bwords.length).zip c.bwords).find? fun p => p.2 / 2 ^ 29 % 4 == u && p.2 / 2 ^ 27 % 16 != 15 with
  | some p => p
  | none => (0, 0)

/-- An E-unit word in the commit signature: the word, then sa, sb and sc. DEDUCED, log entry 25. -/
def Iss.sigE (i : Iss) : List SigItem :=
  let w := (i.c.unitWord 3).2
  [.bytes ([5, 0] ++ natLe 4 w ++ natLe 8 (i.rS (r5 w 17)).toNat ++ natLe 8 (i.rS (r5 w 12)).toNat ++ natLe 8 (i.rS (r5 w 7)).toNat)]

/-- An E-unit word: a checker performs none of it, and its destination receives the primary's value (05 R106). -/
def effE (d : Option (Fin 32)) (e : Eff) : Eff := fun i o =>
  let o := { o with sig := o.sig ++ i.sigE }
  if i.chk then
    match d with
    | some n => .ok (o.pend (.s n) (.mirror o.c.em))
    | none => .ok o
  else e i o

/-- A trap at the issuing bundle. -/
def trapAt (i : Iss) (c : Cause) (info : W64) : Res := .trap ⟨c, i.c.pc, info, 0⟩

/-- A blocking wait of the issuing bundle (12 R271). -/
def waitFor (i : Iss) (kind : Nat) (h : Nat := 127) (arg : Nat := 0) : Res :=
  .wait i.s { kind := kind, h := h, arg := arg, since := i.c.cycle.setWidth 32 }

/-! ## Landing (05 R96, R106) -/

/-- The lanes of a value that lands whole; one for s0 writes nothing. -/
def wholeLanes : FVal → W64
  | .s n _ => if n = 0 then 0 else 1
  | .v _ _ => BitVec.allOnes 64
  | .cm _ => BitVec.allOnes 64

/-- A value reaches its scoreboarded destination in context `x`; a CHECK primary passes it on to its checker, with the flags, but where the
checker never issues the bundle. -/
def State.landVal (s : State) (x : Nat) (v : FVal) (lanes : W64) (fl : Flags) (alone : Bool) : State :=
  let c := s.ctx x
  let c' := (c.comes v lanes fl)
  let w : FVal := match v with | .v n _ => .v n c'.v[n] | v => v
  let s := s.setCtx x (c'.signed w)
  if c.gmode = 2 ∧ c.gchk = false ∧ alone = false then s.upCtx (x + 2) fun p => { p with mirv := p.mirv ++ [(w, fl)] } else s

/-- A scalar answer as a value of its destination. -/
def destVal : Dest → W64 → FVal
  | .s n, x => .s n x
  | .v n, x => .v n (rowOf fun _ => x.setWidth 32)
  | .em, x | .cm, x => .cm x

/-- The value that a load lands, and its lanes. -/
def loadVal (d : Dest) (size : Nat) (vs : List (Nat × List Byte)) : FVal × W64 :=
  match d with
  | .v n =>
    (.v n (rowOf fun i => BitVec.ofNat 32 (leNat ((vs.find? fun p => p.1 == i).elim [] (·.2)))),
      maskOfFn fun i => vs.any fun p => p.1 == i)
  | d =>
    let x := leNat (vs.headD (0, [])).2
    let v := destVal d (if size = 8 then BitVec.ofNat 64 x else w64 (sx 32 x))
    (v, wholeLanes v)

/-- A checker's destination takes the value that its primary has passed on for it, if it has come: a row only in the lanes that its EM enabled
(05 R100, R106). -/
def State.landMirror (s : State) (x : Nat) (d : Dest) (em : W64) : State :=
  match (s.ctx x).mirv.find? fun v => destTakes d v.1 with
  | some v =>
    (s.upCtx x fun c => { c with mirv := c.mirv.erase v }).landVal x v.1 (match v.1 with | .v _ _ => em | w => wholeLanes w) v.2 false
  | none => s

/-- The answers among the scoreboarded destinations land: a halt waits for them (16 R364). -/
def State.landAnswers (s : State) (x : Nat) : List Pend → State
  | [] => s
  | p :: ps =>
    match p.what with
    | .ans v => (s.landVal x (destVal p.dst v) (wholeLanes (destVal p.dst v)) 0 p.alone).landAnswers x ps
    | _ => s.landAnswers x ps

/-- What a retiring checker's destinations have to receive lands. -/
def State.landMirrors (s : State) (x : Nat) : List Pend → State
  | [] => s
  | p :: ps => (match p.what with | .mirror em => s.landMirror x p.dst em | _ => s).landMirrors x ps

/-! ## Running the words, and the next bundle -/

/-- Runs the words in order; the first trap or wait ends the bundle. DEDUCED, log entry 16. -/
def runEffs : List Eff → Iss → Out → Res
  | [], _, o => .ok o
  | e :: es, i, o =>
    match e i o with
    | .ok o => runEffs es i o
    | r => r

/-- EndOf on the bundle at `a`: the loop stack, and the loop start it returns to (06 R121). -/
def endOf (a : Addr) : List LoopEnt → List LoopEnt × Option Addr
  | [] => ([], none)
  | l :: ls =>
    if l.fin = a then
      if 1 < l.count.toNat then ({ l with count := l.count - 1 } :: ls, some l.first) else endOf a ls
    else (l :: ls, none)

/-- A taken transfer to `a`: the buffer is emptied when it does not hold the target's packet (04 R68). -/
def Ctx.goto (c : Ctx) (a : Addr) : Ctx :=
  { c with pc := a, fbuf := if (bufFind c.fbuf (a.toNat / 32 * 32)).isSome then c.fbuf else [] }

/-- The bundle at `a` is the last one of the innermost loop. -/
def Ctx.atEnd (c : Ctx) (a : Addr) : Bool := c.loops.head?.any fun l => l.fin == a

/-- The context after EndOf on its own bundle. DEDUCED, log entry 47. -/
def Ctx.endSeq (c : Ctx) : Ctx :=
  match endOf c.pc c.loops with
  | (ls, some t) => { c with loops := ls }.goto t
  | (ls, none) => { c with loops := ls, pc := c.bsucc }

/-- Appends the commit signature of a bundle in a CHECK pair; the last of its results in flight lands after `left` cycles. -/
def Ctx.sign (c : Ctx) (its : List SigItem) (left : Nat) : Ctx :=
  if c.gmode = 2 then { c with sigs := c.sigs ++ [{ pc := c.pc, items := its, left := left }] } else c

/-- Cycles until the last result that a bundle has put in flight lands: `n` were in flight before it. -/
def Ctx.lastLanding (c : Ctx) (n : Nat) : Nat := (c.flight.drop n).foldl (fun a f => max a (f.left + 1)) 0

/-- How a bundle ends: complete, complete and with a trap raised after it, not issued for a trap, or in a wait. -/
inductive Ended where
  | done (s : State)
  | raised (s : State) (t : Trap)
  | trap (t : Trap)
  | wait (s : State) (w : Wait)

/-- A parked fetch of address `a` (09 R197). -/
def State.parkFetch (s : State) (x a : Nat) : Ended :=
  match s.park (s.asidOf x) 0 (BitVec.ofNat 32 (a / 65536)) with
  | some s' => .wait s' { kind := 11, since := (s.ctx x).cycle.setWidth 32, page := BitVec.ofNat 32 (a / 65536),
                          info := BitVec.ofNat 64 (a % 2 ^ 48), tpc := BitVec.ofNat 48 a }
  | none => .trap ⟨.xlate, BitVec.ofNat 48 a, BitVec.ofNat 64 (a % 2 ^ 48), 0⟩

/-- A taken transfer to `a` (04 R70). `i.s` is the state before the bundle, `s` with context `c` what it has built. A fault at the target
leaves the bundle completed; a target whose fetch parks leaves it unissued until the host has answered. DEDUCED, log entry 55. -/
def jumpTo (i : Iss) (s : State) (c : Ctx) (a : W64) : Ended :=
  if bf a 0 2 != 0 then .trap ⟨.startBit, i.c.pc, a, 0⟩
  else
    let t : Addr := a.setWidth 48
    if 2 ^ 48 ≤ a.toNat then
      .raised (s.setCtx i.x { c with pc := t }) ⟨.xlate, t, t.setWidth 64, 0⟩
    else
      match (s.setCtx i.x (c.goto t)).packet i.x (t.toNat / 32 * 32) with
      | (s', .ok ws) =>
        if isPool ws then .raised s' ⟨.poolExec, t, BitVec.ofNat 64 (t.toNat / 32 * 32), 0⟩
        else if !bBit (ws.getD (t.toNat % 32 / 4) 0) then .trap ⟨.startBit, i.c.pc, a, 0⟩
        else .done s'
      | (s', .fault f) =>
        if f = xNomap && s'.hostPf then
          match i.s.parkFetch i.x t.toNat with
          | .trap t => .raised s' t
          | e => e
        else .raised s' ⟨f.cause, t, t.setWidth 64, 0⟩
      | (s', .poison u) => .raised s' ⟨.poison, t, i.s.poisonInfo i.x, u⟩

/-- The instance is retired: nothing but the request of an SMC is outstanding any more. -/
def Ctx.retire (c : Ctx) : Ctx :=
  { c.unsign (c.pends.map (·.dst)) with
    pends := c.pends.filter Pend.isSmc, occ := c.occ.map fun o => { o with st := .retired }, hreq := none }

/-- HALT's end of a context (06 R131): results in flight and answers land, outstanding loads are discarded. -/
def State.retireCtx (s : State) (x : Nat) : State :=
  let s := s.upCtx x Ctx.landAll
  let s := s.landAnswers x (s.ctx x).pends
  (s.landMirrors x (s.ctx x).pends).upCtx x Ctx.retire

/-- RSDCTR after the bundle (07 R150; 06 R129). DEDUCED, log entry 17. -/
def rsdAfter (i : Iss) (o : Out) : W32 := o.wrRsd.getD (i.c.rsdctr + BitVec.ofNat 32 o.tags)

/-- Ends a bundle: finds the next one, and raises what TRAP and BRK raise after it. Where EndOf cannot frame the bundle at END, of a
LOOP or LOOPI with a zero count or of BRKL, the cause is raised with TPC = END and nothing of the bundle stands (00 R14; 06 R121).
DEDUCED, log entry 57. -/
def finish (i : Iss) (o : Out) : Ended :=
  let at_ := match o.next with
    | .endAt e => o.c.atEnd e
    | _ => o.c.atEnd i.c.pc
  let c := { o.c.sign o.sig (o.c.lastLanding i.c.flight.length) with rsdctr := rsdAfter i o, iter := at_, granted := none }
  match o.next with
  | .seq => .done (o.s.setCtx i.x c.endSeq)
  | .fall => .done (o.s.setCtx i.x { c with pc := c.bsucc })
  | .stop => .done ((o.s.setCtx i.x c).retireCtx i.x)
  | .jump a => jumpTo i o.s c a
  | .trapAfter k info =>
    let c := c.endSeq
    .raised (o.s.setCtx i.x c) ⟨k, c.pc, info, 0⟩
  | .endAt e =>
    match endOf e c.loops with
    | (ls, some t) => .done (o.s.setCtx i.x ({ c with loops := ls }.goto t))
    | (ls, none) =>
      match (o.s.setCtx i.x { c with loops := ls }).succOf i.x e.toNat with
      | (s', .ok (.ok n)) => .done (s'.upCtx i.x fun c => c.goto (BitVec.ofNat 48 n))
      | (_, .ok (.error w)) => .trap ⟨.illegalEnc, e, encInfo 0 .frame w.toNat, 0⟩
      | (s', .fault f) =>
        if f = xNomap && s'.hostPf then i.s.parkFetch i.x e.toNat
        else .trap ⟨f.cause, e, e.setWidth 64, 0⟩
      | (_, .poison u) => .trap ⟨.poison, e, i.s.poisonInfo i.x, u⟩

/-- The issuer of context `x`. -/
def State.iss (s : State) (x : Nat) : Iss :=
  ⟨s, x, s.ctx x, (s.ctx x).gmode == 2 && (s.ctx x).gchk⟩

/-- What the words of a bundle do in context `x`, without committing it. -/
def tryWords (es : List Eff) (s : State) (x : Nat) : Ended :=
  let i := s.iss x
  match runEffs es i { c := i.c, s := s, next := .seq, sig := [] } with
  | .ok o => finish i o
  | .trap t => .trap t
  | .wait s w => .wait s w

/-- The outcome of an end. -/
def Ended.outcome (s : State) (x : Nat) : Ended → Host.Outcome State Fault Refusal
  | .done s' => .next s'.draw
  | .raised s' t => .next (s'.takeTrap x t).draw
  | .trap t => .next (s.takeTrap x t).draw
  | .wait s' w => .next (s'.upCtx x fun c => { c with wait := some w }).draw

/-- Issues the bundle of these words in the context that `cur` names. A trap leaves nothing of the bundle (00 R14); a wait
leaves it unissued. DEDUCED, log entry 15. -/
def issueWords (es : List Eff) (s : State) : Host.Outcome State Fault Refusal :=
  (tryWords es s s.cur).outcome s s.cur

end Sys2Proof.Machine
end

