-- ==== Sys2Proof/Machine/Handles.lean ====
section
/-! DEFINITION. Phaser handles as commands name them: capture at issue, and the cause PHASER_BROKEN (12 R266, R270). -/

namespace Sys2Proof.Machine

/-- TINFO of PHASER_BROKEN (12 R270). -/
def brokenInfo (obj : Nat) (unbound : Bool) (h : Fin 96) (lph : W32) : W64 :=
  BitVec.ofNat 64 (obj % 2 ^ 14 + 2 ^ 14 * b2n unbound + 2 ^ 16 * h.val + 2 ^ 32 * lph.toNat)

/-- Handle `h` of a core. -/
def State.handle (s : State) (k : Nat) (h : Fin 96) : Handle := (s.core k).handles[h]

/-- Changes handle `h` of a core. -/
def State.upHandle (s : State) (k : Nat) (h : Fin 96) (f : Handle → Handle) : State :=
  s.upCore k fun c => { c with handles := c.handles.set h (f c.handles[h]) }

/-- Runs `k` on the object that handle `h` is bound to; an unbound handle raises PHASER_BROKEN. -/
def withObj (i : Iss) (h : Fin 96) (k : Nat → Res) : Res :=
  match (i.s.handle (coreOf i.x) h).obj with
  | some o => k o
  | none => trapAt i .phaserBroken (brokenInfo 0 true h (i.s.handle (coreOf i.x) h).lph)

/-- Captures a completion handle: none for 127 (12 R266). -/
def capture (i : Iss) (h : Hnd) (k : Option Arrive → Res) : Res :=
  match h with
  | none => k none
  | some h => withObj i h fun o => k (some ⟨h, o⟩)

/-- Takes a fault record: its cause at the issuing bundle (11 R248). -/
def trapRec (i : Iss) (f : FaultRec) : Res := .trap ⟨f.cause, i.c.pc, f.info, f.unit⟩

end Sys2Proof.Machine
end

