-- ==== Sys2Proof/Machine/Tables.lean ====
section
/-! DEFINITION. Scale tables: which are pinned, and what a write into one does to its cached records (10 R222, R223);
scratchpad writes of the core and of engines (09 R183, 05 R106). -/

namespace Sys2Proof.Machine

/-- Scale tables that the operations of a matrix queue read (10 R223). -/
def pinsOf (q : List MxCmd) : List Nat :=
  q.flatMap fun m =>
    match m.kind with
    | .go r => (if bitOf r[4] 6 then [bf r[4] 0 6] else []) ++ (if bitOf r[5] 6 then [bf r[5] 0 6] else [])
    | _ => []

/-- Table `d` has a byte in the granules that `n` bytes at local address `a` touch. -/
def ScDecl.meets (d : ScDecl) (a n : Nat) : Bool :=
  decide (0 < n) && decide (a / 16 * 16 < d.base + 2 * (d.rows * d.blks)) && decide (d.base < (a + n + 15) / 16 * 16)

/-- Some table of the list has a byte there. -/
def Ctx.tablesMeet (c : Ctx) (ts : List Nat) (a n : Nat) : Bool :=
  ts.any fun t => match c.sctab.get none t with | some d => d.meets a n | none => false

/-- Local bytes of a context that a pinned table holds (10 R223). -/
def Ctx.pinned (c : Ctx) (a n : Nat) : Bool := c.tablesMeet (pinsOf c.mxq) a n

/-- Byte `off` of the core lies in the partition of a context. -/
def Ctx.holdsOff (c : Ctx) (off : Nat) : Bool := decide (c.spbase ≤ off) && decide (off < c.spbase + c.spsize)

/-- Bytes of core `k` belong to a pinned table of either context. -/
def State.pinnedAt (s : State) (k off n : Nat) : Bool :=
  [2 * k, 2 * k + 1].any fun x => let c := s.ctx x; c.holdsOff off && c.pinned (off - c.spbase) n

/-- Removes the cached scale records that a write of `n` bytes at `off` of core `k` makes stale (10 R223). -/
def State.scStale (s : State) (k off n : Nat) : State :=
  let g := s.group (groupOf k)
  if g.scache.isEmpty then s
  else
    s.setGroup (groupOf k) { g with scache := g.scache.filter fun e =>
      let c := s.ctx e.1.ctx
      !(coreOf e.1.ctx == k && c.holdsOff off && c.tablesMeet [e.1.t] (off - c.spbase) n) }

/-- Writes bytes at `off` of the scratchpad of core `k`. -/
def State.spStore (s : State) (k off : Nat) (bs : List Byte) : State :=
  (s.scStale k off bs.length).upCore k fun c => c.spWr off bs

/-- A change of the full-empty bits of the granules that `n` bytes touch: set, cleared or none. -/
def State.feMark (s : State) (k off n : Nat) (fe : Option Bool) : State :=
  match fe with
  | some v => s.upCore k fun c => c.feSet v off n
  | none => s

/-- Core `k` with byte offset `off` lies in the partition of a CHECK primary: the context of its checker, and the offset
there (05 R106). -/
def State.checker (s : State) (k off : Nat) : Option (Nat × Nat) :=
  ([2 * k, 2 * k + 1].find? fun x => let c := s.ctx x; c.gmode == 2 && !c.gchk && c.holdsOff off).map fun x =>
    (k + 1, off - (s.ctx x).spbase + (s.ctx (x + 2)).spbase)

/-- An engine's or array's write of whole granules: the data with FE set, in one performance (09 R183), and in the checker's
partition at the same moment (05 R106). -/
def State.engStore (s : State) (k off : Nat) (bs : List Byte) : State :=
  let put := fun (s : State) (k off : Nat) => (s.spStore k off bs).feMark k off bs.length (some true)
  match s.checker k off with
  | some (k', off') => put (put s k off) k' off'
  | none => put s k off

end Sys2Proof.Machine
end

