-- ==== Sys2Proof/Machine/MUnit.lean ====
section
/-! DEFINITION. M-unit instructions: scratchpad loads and stores, full-empty bits, global loads (09 R180 to R207). -/

namespace Sys2Proof.Machine

/-! ## Scratchpad addresses -/

/-- TINFO of a scratchpad cause (09 R196). -/
def spInfo (ea : W64) : W64 := (ea.setWidth 48).setWidth 64

/-- The checks of 09 R180 and R181 on an access of `n` bytes aligned to `al`: alignment before range. -/
def spCheck (i : Iss) (ea : W64) (n al : Nat) : Option Cause :=
  if ea.toNat % al != 0 then some .align
  else if i.c.spsize < ea.toNat + n then some .scratchRange
  else none

/-- Runs `k` on a checked local address. -/
def withSp (i : Iss) (ea : W64) (n al : Nat) (k : Nat → Res) : Res :=
  match spCheck i ea n al with
  | some c => trapAt i c (spInfo ea)
  | none => k ea.toNat

/-- Bytes of the issuing context's partition. -/
def Iss.local (i : Iss) (a n : Nat) : List Byte := (i.s.core (coreOf i.x)).spRd (i.c.spbase + a) n

/-- Some of these bytes are poisoned. -/
def Iss.poisoned (i : Iss) (a n : Nat) : Bool := (i.s.core (coreOf i.x)).spPoisoned (i.c.spbase + a) n

/-- POISON of a scratchpad load: its unit is the core (16 R374, R375). DEDUCED, log entry 30. -/
def poisonTrap (i : Iss) : Res := .trap ⟨.poison, i.c.pc, i.s.poisonInfo i.x, BitVec.ofNat 16 (0x1000 + coreOf i.x)⟩

/-- Index from SPBASE of the first empty granule among `n` from local granule `g` on (09 R184). -/
def Iss.firstEmpty (i : Iss) (g n : Nat) : Option Nat :=
  ((List.range n).find? fun j => !(i.s.core (coreOf i.x)).feGet (i.c.spbase / 16 + g + j)).map (g + ·)

/-- The full-empty wait of a load on `n` granules (09 R184). -/
def feWait (i : Iss) (q : QLoad) (g n : Nat) (k : Res) : Res :=
  match q, i.firstEmpty g n with
  | .plain, _ => k
  | _, none => k
  | _, some e => waitFor i 3 127 e

/-- .WC clears the wait set in the same step as the read. -/
def Out.feClear (o : Out) (i : Iss) (q : QLoad) (a n : Nat) : Out :=
  match q with
  | .waitClr => { o with s := o.s.feMark (coreOf i.x) (i.c.spbase + a) n (some false), sig := o.sig ++ sigL a [] 0 }
  | _ => o

/-- The full-empty change of a store. -/
def QStore.fe : QStore → Option Bool | .plain => none | .full => some true | .empty => some false
/-- The same in a commit signature. -/
def QStore.feByte : QStore → Nat | .plain => 255 | .full => 1 | .empty => 0

/-- A store into a pinned table waits (10 R223). -/
def pinWait (i : Iss) (spans : List (Nat × Nat)) (k : Res) : Res :=
  if spans.any fun p => i.c.pinned p.1 p.2 then waitFor i 14 else k

/-- Writes bytes at local address `a`. -/
def Out.store (o : Out) (i : Iss) (a : Nat) (bs : List Byte) : Out :=
  { o with s := o.s.spStore (coreOf i.x) (i.c.spbase + a) bs }

/-! ## LDV and STV (09 R202) -/

/-- Lane `k` of the bytes at `a`. -/
def laneAt (bs : List Byte) (k : Nat) : W32 := BitVec.ofNat 32 (leNat ((bs.drop (4 * k)).take 4))

def effLdv (q : QLoad) (d : Fin 64) (a : Fin 32) (off : Int) : Eff := fun i o =>
  withSp i (i.rS a + w64 (16 * off)) 256 16 fun ea =>
    feWait i q (ea / 16) 16 <|
      if (List.range 64).any fun k => i.em.getLsbD k && i.poisoned (ea + 4 * k) 4 then poisonTrap i
      else
        let bs := i.local ea 256
        .ok ((o.fV d (rowOf fun k => laneAt bs k) i.em 8 0).feClear i q ea 256)

/-- The writes of a row store: a granule whose four lanes are enabled is written whole. -/
def rowWrites (em : W64) (v : Nat → W32) (ea : Nat) : List (Nat × List Byte) :=
  (List.range 16).flatMap fun g =>
    let ks := (List.range 4).map (4 * g + ·)
    if ks.all fun k => em.getLsbD k then [(ea + 16 * g, ks.flatMap fun k => natLe 4 (v k).toNat)]
    else (ks.filter fun k => em.getLsbD k).map fun k => (ea + 4 * k, natLe 4 (v k).toNat)

def effStv (q : QStore) (v : Fin 64) (a : Fin 32) (off : Int) : Eff := fun i o =>
  withSp i (i.rS a + w64 (16 * off)) 256 16 fun ea =>
    let ws := rowWrites i.em (i.rV v) ea
    pinWait i (ws.map fun w => (w.1, w.2.length)) <|
      let o := ws.foldl (fun o w => o.store i w.1 w.2) o
      .ok { o with
        s := o.s.feMark (coreOf i.x) (i.c.spbase + ea) 256 (QStore.fe q)
        sig := o.sig ++ sigL ea (ws.flatMap (·.2)) (QStore.feByte q) }

/-! ## LDS and STS (09 R203) -/

/-- A scalar load of `n` bytes. -/
def ldsN (n : Nat) (sgn : Bool) (q : QLoad) (d a : Fin 32) (off : Int) : Eff := fun i o =>
  withSp i (i.rS a + w64 off) n n fun ea =>
    feWait i q (ea / 16) 1 <|
      if i.poisoned ea n then poisonTrap i
      else
        let x := leNat (i.local ea n)
        .ok ((o.fS d (if sgn then w64 (sx (8 * n) x) else BitVec.ofNat 64 x) 8 0).feClear i q ea n)

def effLdsD (q : QLoad) (d a : Fin 32) (o : Int) : Eff := ldsN 8 false q d a o
def effLdsW (q : QLoad) (d a : Fin 32) (o : Int) : Eff := ldsN 4 true q d a o
def effLdsWu (q : QLoad) (d a : Fin 32) (o : Int) : Eff := ldsN 4 false q d a o
def effLdsH (q : QLoad) (d a : Fin 32) (o : Int) : Eff := ldsN 2 false q d a o
def effLdsB (q : QLoad) (d a : Fin 32) (o : Int) : Eff := ldsN 1 false q d a o

/-- A scalar store of `n` bytes. -/
def stsN (n : Nat) (q : QStore) (v a : Fin 32) (off : Int) : Eff := fun i o =>
  withSp i (i.rS a + w64 off) n n fun ea =>
    pinWait i [(ea, n)] <|
      let bs := natLe n (i.rS v).toNat
      let o := o.store i ea bs
      .ok { o with
        s := o.s.feMark (coreOf i.x) (i.c.spbase + ea) n (QStore.fe q)
        sig := o.sig ++ sigL ea bs (QStore.feByte q) }

def effStsD (q : QStore) (v a : Fin 32) (o : Int) : Eff := stsN 8 q v a o
def effStsW (q : QStore) (v a : Fin 32) (o : Int) : Eff := stsN 4 q v a o
def effStsH (q : QStore) (v a : Fin 32) (o : Int) : Eff := stsN 2 q v a o
def effStsB (q : QStore) (v a : Fin 32) (o : Int) : Eff := stsN 1 q v a o

/-! ## LDVG and STVS (09 R204) -/

/-- Address of lane `k`: sa plus the zero-extended index. -/
def Iss.laneAddr (i : Iss) (a : Fin 32) (x : Fin 64) (k : Nat) : W64 := i.rS a + (i.rV x k).setWidth 64

/-- The enabled lanes. -/
def Iss.lanes (i : Iss) : List Nat := (List.range 64).filter fun k => i.em.getLsbD k

/-- Checks the enabled lanes: the lowest failing one decides. -/
def laneChecks (i : Iss) (a : Fin 32) (x : Fin 64) (k : Res) : Res :=
  match i.lanes.findSome? fun j => (spCheck i (i.laneAddr a x j) 4 4).map fun c => (c, i.laneAddr a x j) with
  | some (c, ea) => trapAt i c (spInfo ea)
  | none => k

def effLdvg (d : Fin 64) (a : Fin 32) (x : Fin 64) : Eff := fun i o =>
  laneChecks i a x <|
    if i.lanes.any fun k => i.poisoned (i.laneAddr a x k).toNat 4 then poisonTrap i
    else .ok (o.fV d (rowOf fun k =>
      if i.em.getLsbD k then BitVec.ofNat 32 (leNat (i.local (i.laneAddr a x k).toNat 4)) else 0) i.em 8 0)

/-- Lanes are stored in rising order: the highest stands. -/
def effStvs (v : Fin 64) (a : Fin 32) (x : Fin 64) : Eff := fun i o =>
  laneChecks i a x <|
    let ws := i.lanes.map fun k => ((i.laneAddr a x k).toNat, natLe 4 (i.rV v k).toNat)
    pinWait i (ws.map fun w => (w.1, 4)) <|
      let o := ws.foldl (fun o w => o.store i w.1 w.2) o
      .ok { o with sig := o.sig ++ ws.flatMap fun w => sigL w.1 w.2 255 }

/-! ## FESET, FECLR and FETEST (09 R205) -/

/-- FESET and FECLR of the granule that holds ea. -/
def feOp (v : Bool) (a : Fin 32) (off : Int) : Eff := fun i o =>
  let ea := i.rS a + w64 off
  if i.c.spsize ≤ ea.toNat then trapAt i .scratchRange (spInfo ea)
  else .ok { o with
    s := o.s.feMark (coreOf i.x) (i.c.spbase + ea.toNat / 16 * 16) 16 (some v)
    sig := o.sig ++ sigL (ea.toNat / 16 * 16) [] (b2n v) }

def effFeset (a : Fin 32) (o : Int) : Eff := feOp true a o
def effFeclr (a : Fin 32) (o : Int) : Eff := feOp false a o
def effFetest (d a : Fin 32) (off : Int) : Eff := fun i o =>
  let ea := i.rS a + w64 off
  let g := ea.toNat / 16
  if i.c.spsize ≤ ea.toNat then trapAt i .scratchRange (spInfo ea)
  else .ok (o.fS d (maskOfFn fun j =>
    decide (16 * (g + j) < i.c.spsize) && (i.s.core (coreOf i.x)).feGet (i.c.spbase / 16 + g + j)) 8 0)

/-! ## LDG and LDGV (09 R206) -/

/-- TINFO of a translation cause at a 64-bit address (09 R196). -/
def gInfo (f : XFault) (a : W64) : W64 := xInfo f (a.toNat % 2 ^ 48)

/-- Translates the read of each lane in rising order of address. -/
def readRefs (k asid : Nat) (world : Bool) : List (Nat × W64) → State → State × Except (XFault × W64) (List (Nat × GRef))
  | [], s => (s, .ok [])
  | (j, a) :: rest, s =>
    match coreVa a with
    | .error f => (s, .error (f, a))
    | .ok va =>
      match s.translate k asid world .read va with
      | (s, .error f) => (s, .error (f, a))
      | (s, .ok x) =>
        match readRefs k asid world rest s with
        | (s, .ok rs) => (s, .ok ((j, x.ref va) :: rs))
        | (s, .error e) => (s, .error e)

/-- Where a fault of a core access leads: parked in host-assisted mode on NOMAP, else a trap (09 R197). -/
def globalFault (i : Iss) (acc : Nat) (f : XFault) (a : W64) : Res :=
  if f = xNomap && i.s.hostPf then
    match i.s.park (i.s.asidOf i.x) acc (BitVec.ofNat 32 (a.toNat % 2 ^ 48 / 65536)) with
    | some s' => .wait s' { kind := 11, since := i.c.cycle.setWidth 32, page := BitVec.ofNat 32 (a.toNat % 2 ^ 48 / 65536),
                            info := gInfo xHostfail a, tpc := i.c.pc }
    | none => trapAt i .xlate (gInfo xHostfail a)
  else trapAt i f.cause (gInfo f a)

/-- A global load into a scoreboarded destination; a CHECK checker's is its primary's value (05 R106). -/
def ldgN (f : Bool) (size al : Nat) (dst : Dest) (a : W64) (lanes : List (Nat × W64)) : Eff := fun i o =>
  if a.toNat % al != 0 then trapAt i .align (spInfo a)
  else if i.chk then .ok (o.pend dst (.mirror o.c.em))
  else
    match readRefs (coreOf i.x) (i.s.asidOf i.x) (i.s.worldOf i.x) lanes o.s with
    | (_, .error (e, fa)) => globalFault i 1 e fa
    | (s', .ok rs) => .ok ({ o with s := s' }.pend dst (.load (a.setWidth 48) size f rs []))

def effLdgD (f : Bool) (d a : Fin 32) (off : Int) : Eff := fun i o =>
  let va := i.rS a + w64 off
  ldgN f 8 8 (.s d) va [(0, va)] i o
def effLdgW (f : Bool) (d a : Fin 32) (off : Int) : Eff := fun i o =>
  let va := i.rS a + w64 off
  ldgN f 4 4 (.s d) va [(0, va)] i o
/-- LDGV: the lane addresses are taken modulo 2^64. DESIGN CHOICE, log entry 63. -/
def effLdgv (f : Bool) (d : Fin 64) (a : Fin 32) (off : Int) : Eff := fun i o =>
  let va := i.rS a + w64 (16 * off)
  ldgN f 4 16 (.v d) va (i.lanes.map fun k => (k, va + BitVec.ofNat 64 (4 * k))) i o

/-! ## The words as bundles of one word -/

/-- LDV as a bundle of one word (R202). -/
def execLdv (q : QLoad) (d : Fin 64) (a : Fin 32) (o : Int) (s : State) : Host.Outcome State Fault Refusal :=
  issueWords [effLdv q d a o] s

/-- STV as a bundle of one word (R202). -/
def execStv (q : QStore) (v : Fin 64) (a : Fin 32) (o : Int) (s : State) : Host.Outcome State Fault Refusal :=
  issueWords [effStv q v a o] s

/-- LDS_D as a bundle of one word (R203). -/
def execLdsD (q : QLoad) (d a : Fin 32) (o : Int) (s : State) : Host.Outcome State Fault Refusal :=
  issueWords [effLdsD q d a o] s

/-- LDS_W as a bundle of one word (R203). -/
def execLdsW (q : QLoad) (d a : Fin 32) (o : Int) (s : State) : Host.Outcome State Fault Refusal :=
  issueWords [effLdsW q d a o] s

/-- LDS_WU as a bundle of one word (R203). -/
def execLdsWu (q : QLoad) (d a : Fin 32) (o : Int) (s : State) : Host.Outcome State Fault Refusal :=
  issueWords [effLdsWu q d a o] s

/-- LDS_H as a bundle of one word (R203). -/
def execLdsH (q : QLoad) (d a : Fin 32) (o : Int) (s : State) : Host.Outcome State Fault Refusal :=
  issueWords [effLdsH q d a o] s

/-- LDS_B as a bundle of one word (R203). -/
def execLdsB (q : QLoad) (d a : Fin 32) (o : Int) (s : State) : Host.Outcome State Fault Refusal :=
  issueWords [effLdsB q d a o] s

/-- STS_D as a bundle of one word (R203). -/
def execStsD (q : QStore) (v a : Fin 32) (o : Int) (s : State) : Host.Outcome State Fault Refusal :=
  issueWords [effStsD q v a o] s

/-- STS_W as a bundle of one word (R203). -/
def execStsW (q : QStore) (v a : Fin 32) (o : Int) (s : State) : Host.Outcome State Fault Refusal :=
  issueWords [effStsW q v a o] s

/-- STS_H as a bundle of one word (R203). -/
def execStsH (q : QStore) (v a : Fin 32) (o : Int) (s : State) : Host.Outcome State Fault Refusal :=
  issueWords [effStsH q v a o] s

/-- STS_B as a bundle of one word (R203). -/
def execStsB (q : QStore) (v a : Fin 32) (o : Int) (s : State) : Host.Outcome State Fault Refusal :=
  issueWords [effStsB q v a o] s

/-- LDVG as a bundle of one word (R204). -/
def execLdvg (d : Fin 64) (a : Fin 32) (x : Fin 64) (s : State) : Host.Outcome State Fault Refusal :=
  issueWords [effLdvg d a x] s

/-- STVS as a bundle of one word (R204). -/
def execStvs (v : Fin 64) (a : Fin 32) (x : Fin 64) (s : State) : Host.Outcome State Fault Refusal :=
  issueWords [effStvs v a x] s

/-- FESET as a bundle of one word (R205). -/
def execFeset (a : Fin 32) (o : Int) (s : State) : Host.Outcome State Fault Refusal :=
  issueWords [effFeset a o] s

/-- FECLR as a bundle of one word (R205). -/
def execFeclr (a : Fin 32) (o : Int) (s : State) : Host.Outcome State Fault Refusal :=
  issueWords [effFeclr a o] s

/-- FETEST as a bundle of one word (R205). -/
def execFetest (d a : Fin 32) (o : Int) (s : State) : Host.Outcome State Fault Refusal :=
  issueWords [effFetest d a o] s

/-- LDG_D as a bundle of one word (R206). -/
def execLdgD (f : Bool) (d a : Fin 32) (o : Int) (s : State) : Host.Outcome State Fault Refusal :=
  issueWords [effLdgD f d a o] s

/-- LDG_W as a bundle of one word (R206). -/
def execLdgW (f : Bool) (d a : Fin 32) (o : Int) (s : State) : Host.Outcome State Fault Refusal :=
  issueWords [effLdgW f d a o] s

/-- LDGV as a bundle of one word (R206). -/
def execLdgv (f : Bool) (d : Fin 64) (a : Fin 32) (o : Int) (s : State) : Host.Outcome State Fault Refusal :=
  issueWords [effLdgv f d a o] s

end Sys2Proof.Machine
end

