-- ==== Sys2Proof/Machine/MxInstr.lean ====
section
/-! DEFINITION. Matrix, ring and scale instructions: shadow set and its checks, the tile claim, the matrix queue, leases, rings
and scale tables (10 R214 to R236). -/

namespace Sys2Proof.Machine

/-! ## Causes and waits -/

/-- MX_FAULT with the TINFO of 10 R227. -/
def mxTrap (i : Iss) (kind reg : Nat) : Res := trapAt i .mxFault (BitVec.ofNat 64 (kind + 256 * reg))

/-- Waits for the tile claim while the other context holds it, else goes on with it taken (10 R214). -/
def takeClaim (i : Iss) (k : Res) : Res :=
  match (i.s.core (coreOf i.x)).claim with
  | some y => if y = i.x then k else waitFor i 7
  | none => k

/-- Waits for room in the matrix queue: at most three incomplete commands (10 R215). -/
def queueRoom (i : Iss) (k : Res) : Res := if 3 ≤ i.c.mxq.length then waitFor i 6 else k

/-- The claim as taken by the issuing context. -/
def Out.claimed (o : Out) (i : Iss) : Out := { o with s := o.s.upCore (coreOf i.x) fun k => { k with claim := some i.x } }

/-- A command as it enters a matrix queue. -/
def MxCmd.new (kind : MxKind) (arr : Option Arrive) : MxCmd := ⟨kind, arr, false, 0, [], false, [], []⟩

/-- Appends a command to the context's matrix queue. -/
def Out.mxPut (o : Out) (kind : MxKind) (arr : Option Arrive) : Out :=
  { o with c := { o.c with mxq := o.c.mxq ++ [MxCmd.new kind arr] } }

/-! ## The shadow set (10 R225, R226) -/

/-- Fields of a shadow set. -/
def mxM (r : Vector W64 16) : Nat := 16 * (bf r[1] 0 3 + 1)
def mxN (r : Vector W64 16) : Nat := 16 * (bf r[1] 3 5 + 1)
def mxKP (r : Vector W64 16) : Nat := bf r[1] 16 16
def mxFmtA (r : Vector W64 16) : Nat := bf r[0] 0 4
def mxFmtB (r : Vector W64 16) : Nat := bf r[0] 4 4
def mxSparse (r : Vector W64 16) : Bool := bitOf r[0] 8
def mxZero (r : Vector W64 16) : Bool := bitOf r[0] 9
def mxPlen (r : Vector W64 16) : Nat := 2 ^ bf r[0] 11 3
def mxQA (r : Vector W64 16) : Nat := bf r[2] 0 3
def mxQB (r : Vector W64 16) : Nat := bf r[2] 3 3
def mxQM (r : Vector W64 16) : Nat := bf r[2] 6 3
def mxTrow (r : Vector W64 16) : Nat := bf r[3] 0 7
def mxTcolb (r : Vector W64 16) : Nat := bf r[3] 8 4
def mxPat (r : Vector W64 16) (j : Nat) : Nat := bf r[6] (2 * j) 2
/-- A wide operation (10 R212). -/
def mxWide (r : Vector W64 16) : Bool := decide (256 < mxN r)

/-- Element width of a format code. -/
def mxWidth (f : Nat) : Nat := match f with | 2 | 4 => 4 | 5 | 6 => 16 | _ => 8
/-- Class of a format code (10 R208). -/
def mxClass (f : Nat) : Nat := match f with | 0 | 1 | 2 => 0 | 3 | 4 => 1 | 5 => 2 | _ => 3
/-- Bits of register `n` of the shadow set that are reserved. -/
def mxReserved (n : Nat) : Nat :=
  match n with
  | 0 => 2 ^ 64 - 2 ^ 16
  | 1 => 2 ^ 64 - 2 ^ 32 + 0xFF00
  | 2 => 2 ^ 64 - 2 ^ 9
  | 3 => 2 ^ 64 - 2 ^ 12 + 0x80
  | 4 | 5 => 2 ^ 64 - 2 ^ 48 + 0xFF80
  | 6 => 0
  | _ => 2 ^ 64 - 1

/-- A failure of R226: its kind and the register it names. -/
def cfgFault (r : Vector W64 16) : Option (Nat × Nat) :=
  let fa := mxFmtA r
  let fb := mxFmtB r
  let pats := List.range 32
  match (List.range 7).find? fun n =>
      r[n]!.toNat &&& mxReserved n != 0 ||
      (n == 0 && (decide (6 < fa) || decide (6 < fb) || decide (5 < bf r[0] 11 3))) ||
      (n == 6 && pats.any fun j => mxPat r j == 3) with
  | some n => some (1, n)
  | none =>
    match (List.range 9).find? fun j => r[7 + j]! != 0 with
    | some j => some (1, 7 + j)
    | none =>
      if mxClass fa != mxClass fb then some (1, 0)
      else if bitOf r[4] 6 && decide (5 ≤ fa) then some (1, 4)
      else if bitOf r[5] 6 && decide (5 ≤ fb) then some (1, 5)
      else if mxSparse r && (pats.any fun j => mxPat r j != 0 && decide (j < mxPlen r)) then some (1, 6)
      else if pats.any fun j => mxPat r j != 0 && decide (mxPlen r ≤ j) then some (1, 6)
      else none

/-- Ring `q` of a context. -/
def Ctx.ring (c : Ctx) (q : Nat) : Ring := c.rings.getD q Ring.unset

/-- SHAPE. A ring that RINGSET has not set, or that does not exist, counts with a CAP of 0, so that HOLDA or HOLDB of it with KP above 0 is
SHAPE before it is RING. DEDUCED, log entry 26. -/
def shapeFault (c : Ctx) (r : Vector W64 16) : Option (Nat × Nat) :=
  if 128 < mxTrow r + mxM r then some (2, 3)
  else if mxN r ≤ 256 && 256 < 16 * mxTcolb r + mxN r then some (2, 3)
  else if mxWide r && mxTcolb r != 0 then some (2, 3)
  else if bitOf r[0] 14 && decide ((c.ring (mxQA r)).cap < mxKP r) then some (2, 0)
  else if bitOf r[0] 15 && decide ((c.ring (mxQB r)).cap < mxKP r) then some (2, 0)
  else none

/-- Panel sizes that R220 requires, in granules. -/
def panelA (r : Vector W64 16) : Nat := if mxSparse r then mxM r * mxWidth (mxFmtA r) / 8 else mxM r * mxWidth (mxFmtA r) / 4
def panelB (r : Vector W64 16) : Nat := mxN r * mxWidth (mxFmtB r) / 4
def panelM (r : Vector W64 16) : Nat := mxM r / 4

/-- RING. DEDUCED, log entry 26. -/
def ringFault (c : Ctx) (rings : Nat) (r : Vector W64 16) : Option (Nat × Nat) :=
  let bad := fun q p => decide (rings ≤ q) || !(c.ring q).set || (c.ring q).psize != p
  if bad (mxQA r) (panelA r) || bad (mxQB r) (panelB r) || (mxSparse r && bad (mxQM r) (panelM r)) then some (3, 2) else none

/-- SCALE: register 4 for A with M rows, 5 for B with N rows. -/
def scaleFault (c : Ctx) (r : Vector W64 16) : Option (Nat × Nat) :=
  let bad := fun (v : W64) rows =>
    bitOf v 6 && (match c.sctab.get none (bf v 0 6) with
      | none => true
      | some d => decide (d.rows < bf v 16 16 + rows) || decide (d.blks < bf v 32 16 + mxKP r))
  if bad r[4] (mxM r) then some (4, 4) else if bad r[5] (mxN r) then some (4, 5) else none

/-- Kernel of the instance in context `x`. -/
def State.kidOf (s : State) (x : Nat) : Option Nat := ((s.ctx x).occ).map (·.kid)

/-- PAIR: a wide operation needs an even core whose odd neighbour's context of the same number runs the same kernel. -/
def pairFault (s : State) (x : Nat) (r : Vector W64 16) : Option (Nat × Nat) :=
  if mxWide r && (coreOf x % 2 == 1 || s.kidOf (x + 2) != s.kidOf x) then some (5, 0) else none

/-- The first failure of R226, in the table's order. -/
def shadowFault (s : State) (x : Nat) (c : Ctx) (r : Vector W64 16) : Option (Nat × Nat) :=
  (cfgFault r).or <| (shapeFault c r).or <| (ringFault c (s.ringsOf x) r).or <| (scaleFault c r).or <|
    (pairFault s x r).or <| if c.join = .inEffect then some (6, 0) else none

/-! ## Instructions -/

/-- R229: registers 2n and 2n + 1, `n` being the pair's number. -/
def effMxcfg (n : Fin 8) (a b : Fin 32) : Eff := effE none fun i o =>
  .ok { o with c := { o.c with mxc := (o.c.mxc.set! (2 * n.val) (i.rS a)).set! (2 * n.val + 1) (i.rS b) } }

/-- R230. -/
def effMxgo (h : Hnd) : Eff := effE none fun i o =>
  queueRoom i <| takeClaim i <|
    match shadowFault i.s i.x i.c i.c.mxc with
    | some (k, r) => mxTrap i k r
    | none => capture i h fun arr => .ok ((o.claimed i).mxPut (.go i.c.mxc) arr)

/-- R231. The primary of a CHECK pair passes the status word on to its checker's ARITH: DEDUCED, log entry 24. Beside a WRSR ARITH of its
bundle the flags are ORed into the value just written: DESIGN CHOICE, log entry 66. -/
def effMxwait (a : Fin 32) : Eff := fun i o =>
  let o := { o with sig := o.sig ++ i.sigE }
  if i.chk then
    .ok { o with c := { o.c.raiseFlags ((o.c.mir.headD 0).setWidth 7) with mir := o.c.mir.drop 1 } }
  else if (i.rS a).toNat < i.c.mxq.length then waitFor i 8
  else
    match i.c.mxfault with
    | some f => trapRec i f
    | none =>
      let k := i.s.core (coreOf i.x)
      let st : Flags := if k.claim = some i.x then k.tstatus else 0
      let o := { o with c := o.c.raiseFlags st }
      .ok (if i.c.gmode = 2 then
        { o with s := o.s.upCtx (i.x + 2) fun c => { c with mir := c.mir ++ [st.setWidth 64] } } else o)

/-- R232, mode 0. -/
def effMxlease : Eff := effE none fun i o =>
  if i.c.join = .inEffect then mxTrap i 6 0
  else takeClaim i <| .ok { o.claimed i with c := { o.c with hold := true } }

/-- Tile commands of a matrix queue. -/
def tilesIn (q : List MxCmd) : Nat := (q.filter fun m => match m.kind with | .go _ => false | _ => true).length

/-- R218, R232, mode 1. -/
def effMxleaseJoin : Eff := effE none fun i o =>
  if coreOf i.x % 2 = 0 then mxTrap i 5 0
  else takeClaim i <|
    .ok { o.claimed i with c := { o.c with join := if i.c.join = .none then .pending (tilesIn i.c.mxq) else i.c.join } }

/-- R232, mode 0. -/
def effMxfree : Eff := effE none fun _ o => .ok { o with c := { o.c with hold := false } }

/-- A command is a wide operation. -/
def MxCmd.wide (m : MxCmd) : Bool := match m.kind with | .go r => mxWide r | _ => false

/-- R218, mode 1: waits until the partner's committed wide operations have completed, then withdraws the join. -/
def effMxfreeJoin : Eff := effE none fun i o =>
  if i.c.join = .none then .ok o
  else if (i.s.ctx (i.x - 2)).mxq.any MxCmd.wide then waitFor i 8
  else .ok { o with c := { o.c with join := .none } }

/-- Clears a tile store and its status word. -/
def Core.clearTile (k : Core) : Core := { k with tile := [], tstatus := 0, tilePoison := [] }

/-- Releases the tile claim of core `k`: the device clears the store, and the checker's with it (10 R214); a lease of the array that
the holder has ends (06 R131; 10 R216). -/
def State.releaseClaim (s : State) (k : Nat) (check : Bool) : State :=
  let s := s.upCore k fun c => { c.clearTile with claim := none }
  let g := s.group (groupOf k)
  let s := if g.run.any fun r => r.core == k then s.setGroup (groupOf k) { g with run := none } else s
  if check then s.upCore (k + 1) Core.clearTile else s

/-- R232, mode 2. Of a joined odd context the join and the store go at once, also under a wide operation of its partner, which is
suspended and later drained into the store as it then is. DEDUCED, log entry 27. -/
def effMxfreeClaim : Eff := effE none fun i o =>
  if i.c.mxq.isEmpty then
    let o := { o with c := { o.c with hold := false, join := .none } }
    .ok (if (i.s.core (coreOf i.x)).claim = some i.x then
      { o with s := o.s.releaseClaim (coreOf i.x) (i.c.gmode == 2) } else o)
  else waitFor i 8

/-- A region of MXLD, MXST and MXZ (10 R233). -/
structure Region where
  trow : Nat
  nrows : Nat
  tcol : Nat
  ncols : Nat
deriving DecidableEq, Repr

/-- Decodes a region; `none` when it is illegal. -/
def regionOf (b : W64) : Option Region :=
  let r : Region := ⟨bf b 0 7, bf b 8 7 + 1, bf b 16 8, 4 * (bf b 24 6 + 1)⟩
  if bitOf b 7 || bitOf b 15 || bf b 30 34 != 0 || r.tcol % 4 != 0 || decide (128 < r.trow + r.nrows) ||
      decide (256 < r.tcol + r.ncols) then none
  else some r

/-- Bytes that a tile command moves; an illegal region counts as R233's formula gives them. -/
def regionBytes (b : W64) (st : Bool) : Nat := 4 * (bf b 8 7 + 1) * (4 * (bf b 24 6 + 1)) + 16 * b2n st

/-- The last steps of a tile command: the region, the claim, room in the queue. -/
def tileCmd (i : Iss) (o : Out) (b : W64) (h : Hnd) (kind : MxKind) : Res :=
  match regionOf b with
  | none => mxTrap i 7 0
  | some _ => takeClaim i <| queueRoom i <| capture i h fun arr => .ok ((o.claimed i).mxPut kind arr)

/-- MXLD and MXST (10 R233). -/
def tileMem (a b : Fin 32) (st : Bool) (h : Hnd) (kind : W64 → W64 → MxKind) : Eff := effE none fun i o =>
  withSp i (i.rS a) (regionBytes (i.rS b) st) 16 fun _ => tileCmd i o (i.rS b) h (kind (i.rS a) (i.rS b))

def effMxld (a b : Fin 32) (st : Bool) (h : Hnd) : Eff := tileMem a b st h fun x r => .ld x r st
def effMxst (a b : Fin 32) (st : Bool) (h : Hnd) : Eff := tileMem a b st h fun x r => .st x r st
def effMxz (b : Fin 32) (st : Bool) (h : Hnd) : Eff := effE none fun i o => tileCmd i o (i.rS b) h (.z (i.rS b) st)

/-! ## Rings (10 R234) -/

/-- The ring that a copy command fills. -/
def Copy.ringOf (c : Copy) : Option Nat :=
  match c.shape with
  | some sh => sh.ring.map (·.val)
  | none => if decide (c.op < 3) && bitOf c.c 48 then some (bf c.c 49 3) else none

/-- An incomplete matrix command or copy of context `x` names ring `q`. -/
def State.ringNamed (s : State) (x : Nat) (c : Ctx) (q : Nat) : Bool :=
  (c.mxq.any fun m => match m.kind with
    | .go r => mxQA r == q || mxQB r == q || (mxSparse r && mxQM r == q)
    | _ => false) ||
  (s.core (coreOf x)).copies.any fun d => d.ctx == x && d.ringOf == some q

def effRingset (q : Fin 8) (a c : Fin 32) : Eff := effE none fun i o =>
  let g := i.rS c
  let ps := bf g 0 16
  let cap := bf g 16 16
  withSp i (i.rS a) (16 * (ps * cap)) 16 fun base =>
    if ps = 0 ∨ cap = 0 ∨ bf g 32 32 ≠ 0 then mxTrap i 3 0
    else if i.s.ringNamed i.x i.c q then waitFor i 14
    else .ok { o with c := { o.c with rings := o.c.rings.set q ⟨true, base, ps, cap, 0, 0, 0, []⟩ } }

def effRingpush (q : Fin 8) (a : Fin 32) : Eff := effE none fun i o =>
  let n := (i.rS a).toNat
  let r := i.c.rings[q]
  if r.cap < n then mxTrap i 9 0
  else if n = 0 then .ok o
  else if r.cap < (r.tail - r.head).toNat + n ||
      ((i.s.core (coreOf i.x)).copies.any fun d => d.ctx == i.x && d.ringOf == some q.val) then waitFor i 5 127 q
  else
    let t := r.tail + BitVec.ofNat 32 n
    .ok { o with c := { o.c with rings := o.c.rings.set q { r with tail := t, claim := t, early := [] } } }

def effRingstat (c : Fin 32) (q : Fin 8) : Eff := effE (some c) fun i o =>
  .ok (o.ans c (i.c.rings[q].tail ++ i.c.rings[q].head : BitVec 64))

/-! ## Scale tables (10 R235) -/

/-- Removes the cached records of table `t` of context `x`. -/
def State.scDrop (s : State) (x t : Nat) : State :=
  let g := s.group (groupOf (coreOf x))
  s.setGroup (groupOf (coreOf x)) { g with scache := g.scache.filter fun e => !(e.1.ctx == x && e.1.t == t) }

def effSctab (a b c : Fin 32) : Eff := effE none fun i o =>
  let rows := bf (i.rS b) 0 16
  let blks := bf (i.rS b) 16 16
  let t := (i.rS c).toNat
  withSp i (i.rS a) (2 * (rows * blks)) 16 fun base =>
    if 63 < t ∨ rows = 0 ∨ blks = 0 ∨ bf (i.rS b) 32 32 ≠ 0 then mxTrap i 4 0
    else if (pinsOf i.c.mxq).contains t then waitFor i 14
    else .ok { o with
      c := { o.c with sctab := o.c.sctab.put t (some ⟨base, rows, blks⟩) }
      s := o.s.scDrop i.x t }

def effScinv (a : Fin 32) : Eff := effE none fun i o =>
  let t := (i.rS a).toNat
  if 63 < t then mxTrap i 4 0
  else if (pinsOf i.c.mxq).contains t then waitFor i 14
  else .ok { o with c := { o.c with sctab := o.c.sctab.del t }, s := o.s.scDrop i.x t }

/-! ## MXSTAT (10 R236) -/

/-- The matrix status word of context `x`. -/
def mxStat (s : State) (x : Nat) (c : Ctx) : W64 :=
  let k := s.core (coreOf x)
  let has := k.claim = some x
  let run := match (s.group (groupOf (coreOf x))).run with | some r => if has && r.core == coreOf x then some r else none | none => none
  BitVec.ofNat 64 (c.mxq.length % 4 + 4 * b2n run.isSome + 8 * b2n c.hold + 16 * b2n (c.join == .inEffect) + 32 * b2n has +
    64 * b2n c.mxfault.isSome + 256 * (run.elim 0 (·.ops)) + 2 ^ 32 * (if has then k.tstatus.toNat else 0))

def effMxstat (c : Fin 32) : Eff := effE (some c) fun i o => .ok (o.ans c (mxStat i.s i.x i.c))

/-! ## The words as bundles of one word -/

/-- MXCFG as a bundle of one word (R229). -/
def execMxcfg (n : Fin 8) (a b : Fin 32) (s : State) : Host.Outcome State Fault Refusal :=
  issueWords [effMxcfg n a b] s

/-- MXGO as a bundle of one word (R230). -/
def execMxgo (h : Hnd) (s : State) : Host.Outcome State Fault Refusal :=
  issueWords [effMxgo h] s

/-- MXWAIT as a bundle of one word (R231). -/
def execMxwait (a : Fin 32) (s : State) : Host.Outcome State Fault Refusal :=
  issueWords [effMxwait a] s

/-- MXLEASE as a bundle of one word (R232). -/
def execMxlease (s : State) : Host.Outcome State Fault Refusal :=
  issueWords [effMxlease] s

/-- MXLEASE_JOIN as a bundle of one word (R218). -/
def execMxleaseJoin (s : State) : Host.Outcome State Fault Refusal :=
  issueWords [effMxleaseJoin] s

/-- MXFREE as a bundle of one word (R232). -/
def execMxfree (s : State) : Host.Outcome State Fault Refusal :=
  issueWords [effMxfree] s

/-- MXFREE_JOIN as a bundle of one word (R218). -/
def execMxfreeJoin (s : State) : Host.Outcome State Fault Refusal :=
  issueWords [effMxfreeJoin] s

/-- MXFREE_CLAIM as a bundle of one word (R232). -/
def execMxfreeClaim (s : State) : Host.Outcome State Fault Refusal :=
  issueWords [effMxfreeClaim] s

/-- MXLD as a bundle of one word (R233). -/
def execMxld (a b : Fin 32) (st : Bool) (h : Hnd) (s : State) : Host.Outcome State Fault Refusal :=
  issueWords [effMxld a b st h] s

/-- MXST as a bundle of one word (R233). -/
def execMxst (a b : Fin 32) (st : Bool) (h : Hnd) (s : State) : Host.Outcome State Fault Refusal :=
  issueWords [effMxst a b st h] s

/-- MXZ as a bundle of one word (R233). -/
def execMxz (b : Fin 32) (st : Bool) (h : Hnd) (s : State) : Host.Outcome State Fault Refusal :=
  issueWords [effMxz b st h] s

/-- RINGSET as a bundle of one word (R234). -/
def execRingset (q : Fin 8) (a c : Fin 32) (s : State) : Host.Outcome State Fault Refusal :=
  issueWords [effRingset q a c] s

/-- RINGPUSH as a bundle of one word (R234). -/
def execRingpush (q : Fin 8) (a : Fin 32) (s : State) : Host.Outcome State Fault Refusal :=
  issueWords [effRingpush q a] s

/-- RINGSTAT as a bundle of one word (R234). -/
def execRingstat (c : Fin 32) (q : Fin 8) (s : State) : Host.Outcome State Fault Refusal :=
  issueWords [effRingstat c q] s

/-- SCTAB as a bundle of one word (R235). -/
def execSctab (a b c : Fin 32) (s : State) : Host.Outcome State Fault Refusal :=
  issueWords [effSctab a b c] s

/-- SCINV as a bundle of one word (R235). -/
def execScinv (a : Fin 32) (s : State) : Host.Outcome State Fault Refusal :=
  issueWords [effScinv a] s

/-- MXSTAT as a bundle of one word (R236). -/
def execMxstat (c : Fin 32) (s : State) : Host.Outcome State Fault Refusal :=
  issueWords [effMxstat c] s

end Sys2Proof.Machine
end

