-- ==== Sys2Proof/Machine/CopyInstr.lean ====
section
/-! DEFINITION. Copy-class instructions: endpoints, length words, shape records, the checks made at issue, queue entries, CPYQ
(11 R238 to R244, R250 to R255, R261). -/

namespace Sys2Proof.Machine

/-! ## Endpoints and records -/

/-- An endpoint of a copy (11 R239). -/
inductive Endp where
  | va (a : Nat)
  | loc (a : Nat)
  | core (inst a : Nat)
  | pod (node a : Nat)
  | bad
deriving DecidableEq, Repr

/-- Reads an endpoint address (11 R239). -/
def endpOf (x : W64) : Endp :=
  match bf x 60 4 with
  | 0 => if bf x 48 12 = 0 then .va (bf x 0 48) else .bad
  | 4 => if bf x 23 37 = 0 then .loc (bf x 0 23) else .bad
  | 5 => if bf x 23 21 = 0 then .core (bf x 44 16) (bf x 0 23) else .bad
  | 8 | 9 => .pod (bf x 48 13) (bf x 0 48)
  | _ => .bad

/-- The local address of a scratchpad endpoint. -/
def Endp.sp : Endp → Option Nat | .loc a | .core _ a => some a | _ => none
/-- The pod endpoints. -/
def Endp.isPod : Endp → Bool | .pod .. => true | _ => false
/-- The core-window index. -/
def Endp.inst : Endp → Option Nat | .core n _ => some n | _ => none

/-- A shape record from its 32 bytes; its reserved bits are tested apart (11 R251). -/
def shapeOf (bs : List Byte) : Shape :=
  let f := fun o n => leNat ((bs.drop o).take n)
  let i := fun o => sx 32 (f o 4)
  ⟨f 0 4, f 4 2, f 6 2, i 8, i 12, i 16, i 20, if f 24 4 % 2 = 1 then some (Fin.ofNat 8 (f 24 4 / 2)) else none⟩

/-- Reserved bits of a shape record that are set. -/
def shapeBad (bs : List Byte) : Bool := leNat ((bs.drop 24).take 4) / 16 != 0 || leNat ((bs.drop 28).take 4) != 0

/-- What a command moves, as issue sees it: the ring it fills, its length, the runs of each side. -/
structure Plan where
  len : Nat
  ring : Option Nat
  shape : Option Shape
deriving DecidableEq, Repr

/-- TINFO of a copy cause (11 R244). -/
def engInfo (addr kind op : Nat) : W64 := BitVec.ofNat 64 (addr % 2 ^ 48 + 2 ^ 48 * kind + 2 ^ 56 * (op % 64))

/-- KSHAPE.COUNT of a context. -/
def Ctx.kcount (c : Ctx) : Nat := bf c.kshape 32 16

/-! ## Checks at issue (11 R242, R243) -/

/-- The operands of a copy command under check. -/
structure CopyReq where
  op : Nat
  dst : W64
  /-- The source endpoint, absent for CPYZ. -/
  src : Option W64
  plan : Plan
  /-- A reserved bit of the length word or the shape record is set. -/
  rsvd : Bool
deriving DecidableEq, Repr

/-- The endpoints in use: the destination, unless a ring takes its place, then the source. -/
def CopyReq.ends (r : CopyReq) : List W64 := (if r.plan.ring.isSome then [] else [r.dst]) ++ r.src.toList

/-- Members 0 to 2 move and clear bytes; 3 to 10 are the CPYA forms. -/
def CopyReq.isCpya (r : CopyReq) : Bool := decide (3 ≤ r.op) && decide (r.op ≤ 10)

/-- The form faults of 11 R243 in its order: kind and address. -/
def formFault (i : Iss) (r : CopyReq) : Option (Nat × Nat) :=
  let live := r.plan.len != 0
  let es := r.ends.map endpOf
  match (if live then r.ends.find? fun x => endpOf x == .bad else none) with
  | some x => some (2, bf x 0 48)
  | none =>
    let ringBad := match r.plan.ring with
      | none => false
      | some q =>
        let g := i.c.ring q
        decide (i.s.ringsOf i.x ≤ q) || !g.set || r.plan.len % (16 * g.psize) != 0 || r.isCpya
    if r.rsvd || ringBad ||
        (live && (es.length == 2 && es.all Endp.isPod ||
          (decide (2 ≤ r.op) && (r.src.elim false fun x => (endpOf x).isPod)) ||
          (es.any fun e => match e.inst with | some n => decide (i.c.kcount ≤ n) | none => false) ||
          (r.isCpya && (endpOf r.dst).sp.isSome))) then some (0x20, 0)
    else none

/-- How far below its base, and how far past the start of its first run, the runs of one side of a shape reach: the least and the
greatest start of a run. -/
def runSpan (sh : Shape) (s1 s2 : Int) : Int × Int :=
  let x := s1 * (sh.n1 - 1 : Nat)
  let y := s2 * (sh.n2 - 1 : Nat)
  (min 0 x + min 0 y, max 0 x + max 0 y)

/-- ALIGN of a scratchpad side (11 R250; 09 R183). -/
def sideMisaligned (p : Plan) (a : Nat) (s1 s2 : Int) : Bool :=
  a % 16 != 0 || (match p.shape with
    | some sh => sh.run % 16 != 0 || s1 % 16 != 0 || s2 % 16 != 0
    | none => p.len % 16 != 0)

/-- SCRATCH_RANGE of a scratchpad side. -/
def sideOut (i : Iss) (p : Plan) (a : Nat) (s1 s2 : Int) : Bool :=
  match p.shape with
  | some sh =>
    let r := runSpan sh s1 s2
    decide ((a : Int) + r.1 < 0) || decide ((i.c.spsize : Int) < a + r.2 + sh.run)
  | none => decide (i.c.spsize < a + p.len)

/-- The sides of a command, destination first: endpoint address and the two steps. -/
def CopyReq.sides (r : CopyReq) : List (W64 × Int × Int) :=
  let st := fun (f g : Shape → Int) => (r.plan.shape.elim 0 f, r.plan.shape.elim 0 g)
  (if r.plan.ring.isSome then [] else [(r.dst, (st (·.dstr1) (·.dstr2)).1, (st (·.dstr1) (·.dstr2)).2)]) ++
    r.src.toList.map fun x => (x, (st (·.sstr1) (·.sstr2)).1, (st (·.sstr1) (·.sstr2)).2)

/-- Source and destination element sizes of a CPYA form (11 R254). -/
def cpyaSizes (op opx : Nat) : Nat × Nat :=
  match op with
  | 3 => (4, 4)
  | 4 => (8, 8)
  | 5 => (match opx with | 0 => 4 | 1 | 2 => 2 | _ => 1, 4)
  | 6 | 7 => if opx = 2 ∨ opx = 3 then (8, 8) else (4, 4)
  | _ => if opx % 2 = 1 then (8, 8) else (4, 4)

/-- The address that ALIGN reports, if it is raised: for a CPYA by its element sizes, then for each scratchpad endpoint, which is
whole granules (09 R183). DEDUCED of a CPYA's source, log entry 31. -/
def alignFault (r : CopyReq) (opx : Nat) : Option Nat :=
  let z := cpyaSizes r.op opx
  if r.plan.len = 0 then none
  else if r.isCpya && (r.plan.len % z.1 != 0 || bf r.dst 0 48 % z.2 != 0) then some (bf r.dst 0 48)
  else r.sides.findSome? fun (x, s1, s2) =>
    match (endpOf x).sp with
    | some a => if sideMisaligned r.plan a s1 s2 then some a else none
    | none => none

/-- The address that SCRATCH_RANGE reports, if it is raised. DEDUCED, log entry 56. -/
def rangeFault (i : Iss) (r : CopyReq) : Option Nat :=
  if r.plan.len = 0 then none
  else r.sides.findSome? fun (x, s1, s2) =>
    match (endpOf x).sp with
    | some a => if sideOut i r.plan a s1 s2 then some a else none
    | none => none

/-- Entries of the copy queue that context `x` may still take (11 R238). -/
def copyFree (copies : List Copy) (x : Nat) : Nat :=
  min (48 - (copies.filter fun c => c.ctx == x).length) (64 - copies.length)

/-- Takes a queue entry, waiting for one, and captures the handle (11 R242, steps 6 and 7). -/
def enqueueCopy (i : Iss) (o : Out) (h : Hnd) (f : Option Arrive → Nat → Copy) : Res :=
  capture i h fun arr =>
    if copyFree (i.s.core (coreOf i.x)).copies i.x = 0 then waitFor i 4
    else
      let s := o.s.upCore (coreOf i.x) fun k => { k with copies := k.copies ++ [f arr o.s.nextId] }
      .ok { o with s := { s with nextId := o.s.nextId + 1 } }

/-- A new entry of the copy queue. -/
def newCopy (i : Iss) (op : Nat) (l : CopyLend) (a b c : W64) (arr : Option Arrive) (id len : Nat) (sh : Option Shape)
    (claim : W32) : Copy :=
  { id := id, op := op, lend := l, a := a, b := b, c := c, arr := arr, ctx := i.x
    kid := (i.s.kidOf i.x).getD 0, n := i.c.occ.elim 0 (·.n)
    len := len, shape := sh, claim := claim, started := false, acqDone := false, off := 0, unacked := 0, slot := none, headed := false
    parked := false, page := 0, asked := [], wr := 0, buf := [], got := [], bad := none, fault := none }

/-- Checks a copy and queues it: form, ALIGN, SCRATCH_RANGE, handle, entry. A ring copy claims its panels (11 R253). -/
def issueCopy (i : Iss) (o : Out) (r : CopyReq) (l : CopyLend) (h : Hnd) (b c : W64) : Res :=
  match formFault i r with
  | some (k, a) => trapAt i .engineFault (engInfo a k r.op)
  | none =>
    match alignFault r l.opx with
    | some a => trapAt i .align (BitVec.ofNat 64 (a % 2 ^ 48))
    | none =>
      match rangeFault i r with
      | some a => trapAt i .scratchRange (BitVec.ofNat 64 (a % 2 ^ 48))
      | none =>
        let ring := r.plan.ring.map i.c.ring
        let o := match r.plan.ring, ring with
          | some q, some g =>
            let g' := { g with claim := g.claim + BitVec.ofNat 32 (r.plan.len / (16 * g.psize)) }
            { o with c := { o.c with rings := o.c.rings.set! q g' } }
          | _, _ => o
        enqueueCopy i o h fun arr id =>
          newCopy i r.op l r.dst b c arr id r.plan.len r.plan.shape (ring.elim 0 (·.claim))

/-- A length word: LEN, the ring, and whether a reserved bit is set (11 R240). -/
def lenWord (c : W64) : Plan × Bool :=
  (⟨bf c 0 40, if bitOf c 48 then some (bf c 49 3) else none, none⟩, bf c 40 8 != 0 || bf c 52 12 != 0)

def effCpy (l : CopyLend) (a b c : Fin 32) (h : Hnd) : Eff := effE none fun i o =>
  let w := lenWord (i.rS c)
  issueCopy i o ⟨0, i.rS a, some (i.rS b), w.1, w.2⟩ l h (i.rS b) (i.rS c)

def effCpyz (l : CopyLend) (a c : Fin 32) (h : Hnd) : Eff := effE none fun i o =>
  let w := lenWord (i.rS c)
  issueCopy i o ⟨2, i.rS a, none, w.1, w.2⟩ l h 0 (i.rS c)

/-- R251: the shape record is read at issue. -/
def effCpys (l : CopyLend) (a b c : Fin 32) (h : Hnd) : Eff := effE none fun i o =>
  withSp i (i.rS c) 32 32 fun x =>
    if i.poisoned x 32 then poisonTrap i
    else
      let bs := i.local x 32
      let sh := shapeOf bs
      let p : Plan := ⟨sh.run * sh.n1 * sh.n2, sh.ring.map (·.val), some sh⟩
      issueCopy i o ⟨1, i.rS a, some (i.rS b), p, shapeBad bs⟩ l h (i.rS b) (i.rS c)

/-- A CPYA form with opcode `op` (11 R254). -/
def cpya (op : Nat) (l : CopyLend) (a b c : Fin 32) (h : Hnd) : Eff := effE none fun i o =>
  let w := lenWord (i.rS c)
  issueCopy i o ⟨op, i.rS a, some (i.rS b), w.1, w.2⟩ l h (i.rS b) (i.rS c)

def effCpyaAddi32 (l : CopyLend) (a b c : Fin 32) (h : Hnd) : Eff := cpya 3 l a b c h
def effCpyaAddi64 (l : CopyLend) (a b c : Fin 32) (h : Hnd) : Eff := cpya 4 l a b c h
def effCpyaAddf (l : CopyLend) (a b c : Fin 32) (h : Hnd) : Eff := cpya 5 l a b c h
def effCpyaMin (l : CopyLend) (a b c : Fin 32) (h : Hnd) : Eff := cpya 6 l a b c h
def effCpyaMax (l : CopyLend) (a b c : Fin 32) (h : Hnd) : Eff := cpya 7 l a b c h
def effCpyaOr (l : CopyLend) (a b c : Fin 32) (h : Hnd) : Eff := cpya 8 l a b c h
def effCpyaAnd (l : CopyLend) (a b c : Fin 32) (h : Hnd) : Eff := cpya 9 l a b c h
def effCpyaXor (l : CopyLend) (a b c : Fin 32) (h : Hnd) : Eff := cpya 10 l a b c h

/-! ## Fetch-operations (11 R255) -/

/-- Width of a FOP's word. -/
def fopWidth (op opx : Nat) : Nat := if op = 12 then 4 else if opx % 2 = 1 then 4 else 8

/-- A FOP: target a, return granule b, operand c. -/
def fop (op : Nat) (l : CopyLend) (a b : Fin 32) (c : W64) (h : Hnd) (i : Iss) (o : Out) : Res :=
  let t := i.rS a
  let g := i.rS b
  match endpOf t with
  | .bad => trapAt i .engineFault (engInfo (bf t 0 48) 2 op)
  | .loc _ | .core .. => trapAt i .engineFault (engInfo 0 0x20 op)
  | .pod _ va => trapAt i .remoteFop (engInfo va 0 op)
  | .va va =>
    if va % fopWidth op l.opx != 0 then trapAt i .align (BitVec.ofNat 64 va)
    else withSp i g 16 16 fun _ =>
      enqueueCopy i o h fun arr id => newCopy i op l t g c arr id 16 none 0

def effFopAdd (l : CopyLend) (a b c : Fin 32) (h : Hnd) : Eff := effE none fun i o => fop 11 l a b (i.rS c) h i o
def effFopBadd (l : CopyLend) (a b c : Fin 32) (h : Hnd) : Eff := effE none fun i o => fop 12 l a b (i.rS c) h i o
def effFopSwap (l : CopyLend) (a b c : Fin 32) (h : Hnd) : Eff := effE none fun i o => fop 13 l a b (i.rS c) h i o
def effFopCas (l : CopyLend) (a b : Fin 32) (h : Hnd) : Eff := effE none fun i o => fop 14 l a b 0 h i o

/-! ## CPYQ (11 R261) -/

/-- The engine's status for context `x`. -/
def copyStat (s : State) (x : Nat) (c : Ctx) : W64 :=
  let q := (s.core (coreOf x)).copies
  let mine := q.filter fun d => d.ctx == x
  BitVec.ofNat 64 (mine.length + 256 * copyFree q x + 65536 * (mine.filter (·.parked)).length + 2 ^ 24 * b2n c.frec.isSome)

def effCpyq (c : Fin 32) : Eff := effE (some c) fun i o => .ok (o.ans c (copyStat i.s i.x i.c))

/-! ## The words as bundles of one word -/

/-- CPY as a bundle of one word (R250). -/
def execCpy (l : CopyLend) (a b c : Fin 32) (h : Hnd) (s : State) : Host.Outcome State Fault Refusal :=
  issueWords [effCpy l a b c h] s

/-- CPYS as a bundle of one word (R251). -/
def execCpys (l : CopyLend) (a b c : Fin 32) (h : Hnd) (s : State) : Host.Outcome State Fault Refusal :=
  issueWords [effCpys l a b c h] s

/-- CPYZ as a bundle of one word (R250). -/
def execCpyz (l : CopyLend) (a c : Fin 32) (h : Hnd) (s : State) : Host.Outcome State Fault Refusal :=
  issueWords [effCpyz l a c h] s

/-- CPYA_ADDI32 as a bundle of one word (R254). -/
def execCpyaAddi32 (l : CopyLend) (a b c : Fin 32) (h : Hnd) (s : State) : Host.Outcome State Fault Refusal :=
  issueWords [effCpyaAddi32 l a b c h] s

/-- CPYA_ADDI64 as a bundle of one word (R254). -/
def execCpyaAddi64 (l : CopyLend) (a b c : Fin 32) (h : Hnd) (s : State) : Host.Outcome State Fault Refusal :=
  issueWords [effCpyaAddi64 l a b c h] s

/-- CPYA_ADDF as a bundle of one word (R254). -/
def execCpyaAddf (l : CopyLend) (a b c : Fin 32) (h : Hnd) (s : State) : Host.Outcome State Fault Refusal :=
  issueWords [effCpyaAddf l a b c h] s

/-- CPYA_MIN as a bundle of one word (R254). -/
def execCpyaMin (l : CopyLend) (a b c : Fin 32) (h : Hnd) (s : State) : Host.Outcome State Fault Refusal :=
  issueWords [effCpyaMin l a b c h] s

/-- CPYA_MAX as a bundle of one word (R254). -/
def execCpyaMax (l : CopyLend) (a b c : Fin 32) (h : Hnd) (s : State) : Host.Outcome State Fault Refusal :=
  issueWords [effCpyaMax l a b c h] s

/-- CPYA_OR as a bundle of one word (R254). -/
def execCpyaOr (l : CopyLend) (a b c : Fin 32) (h : Hnd) (s : State) : Host.Outcome State Fault Refusal :=
  issueWords [effCpyaOr l a b c h] s

/-- CPYA_AND as a bundle of one word (R254). -/
def execCpyaAnd (l : CopyLend) (a b c : Fin 32) (h : Hnd) (s : State) : Host.Outcome State Fault Refusal :=
  issueWords [effCpyaAnd l a b c h] s

/-- CPYA_XOR as a bundle of one word (R254). -/
def execCpyaXor (l : CopyLend) (a b c : Fin 32) (h : Hnd) (s : State) : Host.Outcome State Fault Refusal :=
  issueWords [effCpyaXor l a b c h] s

/-- FOP_ADD as a bundle of one word (R255). -/
def execFopAdd (l : CopyLend) (a b c : Fin 32) (h : Hnd) (s : State) : Host.Outcome State Fault Refusal :=
  issueWords [effFopAdd l a b c h] s

/-- FOP_BADD as a bundle of one word (R255). -/
def execFopBadd (l : CopyLend) (a b c : Fin 32) (h : Hnd) (s : State) : Host.Outcome State Fault Refusal :=
  issueWords [effFopBadd l a b c h] s

/-- FOP_SWAP as a bundle of one word (R255). -/
def execFopSwap (l : CopyLend) (a b c : Fin 32) (h : Hnd) (s : State) : Host.Outcome State Fault Refusal :=
  issueWords [effFopSwap l a b c h] s

/-- FOP_CAS as a bundle of one word (R255). -/
def execFopCas (l : CopyLend) (a b : Fin 32) (h : Hnd) (s : State) : Host.Outcome State Fault Refusal :=
  issueWords [effFopCas l a b h] s

/-- CPYQ as a bundle of one word (R261). -/
def execCpyq (c : Fin 32) (s : State) : Host.Outcome State Fault Refusal :=
  issueWords [effCpyq c] s

end Sys2Proof.Machine
end

