-- ==== Sys2Proof/Machine/Vector.lean ====
section
/-! DEFINITION. Vector integer, logic, compare, selection, lane movement, reduction and immediate forms (08 R158 to R164,
R173 to R177). -/

namespace Sys2Proof.Machine

/-! ## Lanes -/

/-- Results of the lanes that `em` enables, with the OR of their flags; a masked lane computes nothing (08 R158). -/
def lanesOf (em : W64) (f : Nat → W32 × Flags) : Row × Flags :=
  let rs := (List.range 64).map fun k => if em.getLsbD k then f k else (0, 0)
  (rowOf fun k => (rs.getD k (0, 0)).1, rs.foldl (fun a r => a ||| r.2) 0)

/-- A V word that gives only a lane function `f` of the lane's index, with bound `l` (08 R158). -/
def vLanes (l : Nat) (sels : List Sel) (d : Fin 64) (f : Iss → Nat → W32 × Flags) : Eff := fun i o =>
  let r := lanesOf i.em (f i)
  .ok (o.fV d r.1 i.em (l + viewExtra sels) r.2)

/-- A lane function of two sources with flags. -/
def vOp2f (l : Nat) (f : W32 → W32 → W32 × Flags) (d : Fin 64) (a b : Sel) : Eff :=
  vLanes l [a, b] d fun i k => f (i.rSel a k) (i.rSel b k)

/-- A lane function of two sources, of bound 2, that raises no flag. -/
def vOp2 (f : W32 → W32 → W32) (d : Fin 64) (a b : Sel) : Eff := vOp2f 2 (fun x y => (f x y, 0)) d a b

/-- A lane function of one source, of bound 2, that raises no flag. -/
def vOp1 (f : W32 → W32) (d : Fin 64) (a : Sel) : Eff := vLanes 2 [a] d fun i k => (f (i.rSel a k), 0)

/-! ## Elements (07 R142) -/

/-- Element `j` of width `w`. -/
def el (w j : Nat) (x : W32) : Nat := bf x (w * j) w

/-- Packs elements of width `w` from the low bits upwards. -/
def packEl (w : Nat) : Nat → List Nat → Nat
  | _, [] => 0
  | j, x :: xs => x % 2 ^ w * 2 ^ (w * j) + packEl w (j + 1) xs

/-- Element-wise wrapping operation on elements of width `w` (08 R161). -/
def elWrap (w : Nat) (f : Int → Int → Int) (x y : W32) : W32 :=
  BitVec.ofNat 32 (packEl w 0 ((List.range (32 / w)).map fun j =>
    (f (sx w (el w j x)) (sx w (el w j y)) % 2 ^ w).toNat))

/-- Element-wise saturating operation: OV for an element that clamps (08 R161, 07 R141). -/
def elSat (w : Nat) (f : Int → Int → Int) (x y : W32) : W32 × Flags :=
  let rs := (List.range (32 / w)).map fun j =>
    clamp (-(2 ^ (w - 1) : Int)) (2 ^ (w - 1) - 1) (f (sx w (el w j x)) (sx w (el w j y)))
  (BitVec.ofNat 32 (packEl w 0 (rs.map fun r => (r.1 % 2 ^ w).toNat)), flagIf (rs.any (·.2)) fOV)

/-! ## Integer and logic (08 R161) -/

/-- Lesser of two lanes under an order. -/
def minBy (lt : W32 → W32 → Bool) (x y : W32) : W32 := if lt y x then y else x
/-- Greater of two lanes under an order. -/
def maxBy (lt : W32 → W32 → Bool) (x y : W32) : W32 := if lt x y then y else x
/-- Shift amount of a lane: bits [4:0]. -/
def shLane (y : W32) : Nat := y.toNat % 32

def effVaddI32 (d : Fin 64) (a b : Sel) : Eff := vOp2 (· + ·) d a b
def effVsubI32 (d : Fin 64) (a b : Sel) : Eff := vOp2 (· - ·) d a b
def effVmulI32 (d : Fin 64) (a b : Sel) : Eff := vOp2 (· * ·) d a b
def effVmulhI32 (d : Fin 64) (a b : Sel) : Eff := vOp2 (fun x y => BitVec.ofInt 32 (x.toInt * y.toInt / 2 ^ 32)) d a b
def effVaddI16 (d : Fin 64) (a b : Sel) : Eff := vOp2 (elWrap 16 (· + ·)) d a b
def effVsubI16 (d : Fin 64) (a b : Sel) : Eff := vOp2 (elWrap 16 (· - ·)) d a b
def effVaddI8 (d : Fin 64) (a b : Sel) : Eff := vOp2 (elWrap 8 (· + ·)) d a b
def effVsubI8 (d : Fin 64) (a b : Sel) : Eff := vOp2 (elWrap 8 (· - ·)) d a b
def effVaddsI16 (d : Fin 64) (a b : Sel) : Eff := vOp2f 2 (elSat 16 (· + ·)) d a b
def effVsubsI16 (d : Fin 64) (a b : Sel) : Eff := vOp2f 2 (elSat 16 (· - ·)) d a b
def effVaddsI8 (d : Fin 64) (a b : Sel) : Eff := vOp2f 2 (elSat 8 (· + ·)) d a b
def effVsubsI8 (d : Fin 64) (a b : Sel) : Eff := vOp2f 2 (elSat 8 (· - ·)) d a b
def effVminI32 (d : Fin 64) (a b : Sel) : Eff := vOp2 (minBy BitVec.slt) d a b
def effVmaxI32 (d : Fin 64) (a b : Sel) : Eff := vOp2 (maxBy BitVec.slt) d a b
def effVminuI32 (d : Fin 64) (a b : Sel) : Eff := vOp2 (minBy BitVec.ult) d a b
def effVmaxuI32 (d : Fin 64) (a b : Sel) : Eff := vOp2 (maxBy BitVec.ult) d a b
def effVand (d : Fin 64) (a b : Sel) : Eff := vOp2 (· &&& ·) d a b
def effVor (d : Fin 64) (a b : Sel) : Eff := vOp2 (· ||| ·) d a b
def effVxor (d : Fin 64) (a b : Sel) : Eff := vOp2 (· ^^^ ·) d a b
def effVshl (d : Fin 64) (a b : Sel) : Eff := vOp2 (fun x y => x <<< shLane y) d a b
def effVshr (d : Fin 64) (a b : Sel) : Eff := vOp2 (fun x y => x >>> shLane y) d a b
def effVsra (d : Fin 64) (a b : Sel) : Eff := vOp2 (fun x y => x.sshiftRight (shLane y)) d a b
def effVclz (d : Fin 64) (a : Sel) : Eff := vOp1 (fun x => BitVec.ofNat 32 (leadZeros x)) d a
def effVmov (d : Fin 64) (a : Sel) : Eff := vOp1 id d a

/-! ## Three-input logic and funnel shifts (08 R162) -/

/-- Bit `k` of the truth table's result is bit 4·a + 2·b + d of `tt`. -/
def lut3 (tt : Nat) (a b d : W32) : W32 :=
  BitVec.ofNat 32 ((List.range 32).foldl (fun acc k =>
    acc + nb tt (4 * b2n (a.getLsbD k) + 2 * b2n (b.getLsbD k) + b2n (d.getLsbD k)) 1 * 2 ^ k) 0)

def effVlut3 (d : Fin 64) (a b : Sel) (tt : Fin 256) : Eff :=
  vLanes 2 [a, b] d fun i k => (lut3 tt (i.rSel a k) (i.rSel b k) (i.rV d k), 0)
def effVfshl (d : Fin 64) (a b : Sel) (n : Fin 32) : Eff :=
  vOp2 (fun x y => BitVec.ofNat 32 (nb (x.toNat * 2 ^ 32 + y.toNat) (32 - n.val) 32)) d a b
def effVfshr (d : Fin 64) (a b : Sel) (n : Fin 32) : Eff :=
  vOp2 (fun x y => BitVec.ofNat 32 (nb (x.toNat * 2 ^ 32 + y.toNat) n.val 32)) d a b

/-! ## Compares and selection (08 R163, R164) -/

/-- A compare: the enabled bits of CM, bound 2. -/
def vCmp (f : W32 → W32 → Bool × Flags) (a b : Sel) : Eff := fun i o =>
  let rs := (List.range 64).map fun k => if i.em.getLsbD k then f (i.rSel a k) (i.rSel b k) else (false, 0)
  .ok (o.fCM (maskOfFn fun k => (rs.getD k (false, 0)).1) i.em (2 + viewExtra [a, b]) (rs.foldl (fun x r => x ||| r.2) 0))

/-- An FP32 compare with the flags of its NaN operands. -/
def fCmp (f : FV → FV → Bool) (x y : W32) : Bool × Flags :=
  (f (fp32.dec x.toNat) (fp32.dec y.toNat), opFlags2 (fp32.dec x.toNat) (fp32.dec y.toNat))

def effVcmpeqI32 (a b : Sel) : Eff := vCmp (fun x y => (x == y, 0)) a b
def effVcmpltI32 (a b : Sel) : Eff := vCmp (fun x y => (x.slt y, 0)) a b
def effVcmpltuI32 (a b : Sel) : Eff := vCmp (fun x y => (x.ult y, 0)) a b
def effVcmpeqF32 (a b : Sel) : Eff := vCmp (fCmp eqV) a b
def effVcmpltF32 (a b : Sel) : Eff := vCmp (fCmp ltV) a b
def effVcmpleF32 (a b : Sel) : Eff := vCmp (fCmp fun x y => ltV x y || eqV x y) a b
def effVcmpunF32 (a b : Sel) : Eff := vCmp (fCmp fun x y => x.isNan || y.isNan) a b

def effVsel (d : Fin 64) (a b : Sel) : Eff :=
  vLanes 2 [a, b] d fun i k => (if i.cm.getLsbD k then i.rSel a k else i.rSel b k, 0)

/-! ## Lane movement and reduction (08 R173 to R176) -/

def effVperm (d : Fin 64) (a b : Sel) : Eff :=
  vLanes 6 [a, b] d fun i k =>
    let y := i.rSel b k
    (if y.getLsbD 6 then 0 else i.rSel a (y.toNat % 64), 0)
def effVrot (d : Fin 64) (a : Sel) (b : Fin 32) : Eff :=
  vLanes 6 [a] d fun i k => (i.rSel a ((k + 64 - (i.rS b).toNat % 64) % 64), 0)

/-- The value that VBCST puts in every lane. -/
def bcst (z : BcSz) (x : W64) : W32 :=
  match z with
  | .w => x.setWidth 32
  | .h => BitVec.ofNat 32 (bf x 0 16 * 0x10001)
  | .b => BitVec.ofNat 32 (bf x 0 8 * 0x1010101)

def effVbcst (z : BcSz) (d : Fin 64) (b : Fin 32) : Eff := vLanes 2 [] d fun i _ => (bcst z (i.rS b), 0)

/-- A 32-bit value in a scalar register. -/
def extS (sgn : Bool) (x : W32) : W64 := if sgn then x.signExtend 64 else x.setWidth 64

def effVext (sgn : Bool) (d : Fin 32) (a : Sel) (b : Fin 32) : Eff := fun i o =>
  .ok (o.fS d (extS sgn (i.rSel a ((i.rS b).toNat % 64))) (6 + viewExtra [a]) 0)
/-- VINS writes lane `k` alone, where EM enables it; its signature is the row's, as for every written row, and takes the lanes which it
does not write as they stand once all in flight has landed (05 R107). DESIGN CHOICE, log entry 25. -/
def effVins (d : Fin 64) (b : Fin 32) (k : Fin 64) : Eff := fun i o =>
  let w := o.fV d (rowOf fun _ => (i.rS b).setWidth 32) (i.em &&& BitVec.ofNat 64 (2 ^ k.val)) 2 0
  .ok { w with sig := o.sig ++ sigV d w.c.landAll.v[d] i.em }

/-- The identity of a reduction (08 R175). -/
def redId : RedOp → W32
  | .addI32 => 0 | .addF32 => 0x80000000 | .minF32 => 0x7F800000 | .maxF32 => 0xFF800000
  | .minI32 => 0x7FFFFFFF | .maxI32 => 0x80000000 | .minuI32 => 0xFFFFFFFF | .maxuI32 => 0

/-- A code with flags as a lane. -/
def lane32 (r : Nat × Flags) : W32 × Flags := (BitVec.ofNat 32 r.1, r.2)

/-- One node of a reduction. -/
def redNode (op : RedOp) (x y : W32) : W32 × Flags :=
  match op with
  | .addI32 => (x + y, 0)
  | .addF32 => lane32 (fadd fp32 .rne x.toNat y.toNat)
  | .minF32 => lane32 (fminmax false x.toNat y.toNat)
  | .maxF32 => lane32 (fminmax true x.toNat y.toNat)
  | .minI32 => (minBy BitVec.slt x y, 0)
  | .maxI32 => (maxBy BitVec.slt x y, 0)
  | .minuI32 => (minBy BitVec.ult x y, 0)
  | .maxuI32 => (maxBy BitVec.ult x y, 0)

/-- One level of the tree: neighbouring entries in pairs. -/
def redLevel (op : RedOp) : List W32 → List W32 × Flags
  | x :: y :: rest =>
    let r := redNode op x y
    let t := redLevel op rest
    (r.1 :: t.1, r.2 ||| t.2)
  | xs => (xs, 0)

/-- `n` levels of the tree, with the flags of every node. -/
def redTree (op : RedOp) : Nat → List W32 → Flags → List W32 × Flags
  | 0, xs, fl => (xs, fl)
  | n + 1, xs, fl => redTree op n (redLevel op xs).1 (fl ||| (redLevel op xs).2)

/-- The result of a reduction is sign-extended. -/
def redSigned : RedOp → Bool | .addI32 | .minI32 | .maxI32 => true | _ => false

def effVred (op : RedOp) (d : Fin 32) (a : Sel) : Eff := fun i o =>
  let r := redTree op 6 ((List.range 64).map fun k => if i.em.getLsbD k then i.rSel a k else redId op) 0
  .ok (o.fS d (extS (redSigned op) (r.1.headD 0)) (6 + viewExtra [a]) r.2)
def effVpopc (d : Fin 32) (a : Sel) : Eff := fun i o =>
  .ok (o.fS d (BitVec.ofNat 64 ((List.range 64).foldl (fun n k =>
    if i.em.getLsbD k then n + popCount (i.rSel a k) else n) 0)) (2 + viewExtra [a]) 0)
/-- VIOTA: the lane's index, or with `.CM` the number of lanes below it whose CM bit is one. -/
def effViota (cm : Bool) (d : Fin 64) : Eff :=
  vLanes 2 [] d fun i k =>
    (BitVec.ofNat 32 (if cm then popCount (i.cm &&& BitVec.ofNat 64 (2 ^ k - 1)) else k), 0)

/-! ## Immediate forms (08 R177) -/

def effVaddiI32 (d : Fin 64) (a : Sel) (i : BitVec 8) : Eff := vOp1 (· + i.signExtend 32) d a
def effVandi (d : Fin 64) (a : Sel) (i : BitVec 8) : Eff := vOp1 (· &&& i.signExtend 32) d a
def effVshli (d : Fin 64) (a : Sel) (n : Fin 32) : Eff := vOp1 (· <<< n.val) d a
def effVshri (d : Fin 64) (a : Sel) (n : Fin 32) : Eff := vOp1 (· >>> n.val) d a
def effVsrai (d : Fin 64) (a : Sel) (n : Fin 32) : Eff := vOp1 (fun x => x.sshiftRight n.val) d a
def effVmovi (d : Fin 64) (i : BitVec 8) : Eff := vLanes 2 [] d fun _ _ => (i.signExtend 32, 0)

/-! ## The words as bundles of one word -/

/-- VADD_I32 as a bundle of one word (R161). -/
def execVaddI32 (d : Fin 64) (a b : Sel) (s : State) : Host.Outcome State Fault Refusal :=
  issueWords [effVaddI32 d a b] s

/-- VSUB_I32 as a bundle of one word (R161). -/
def execVsubI32 (d : Fin 64) (a b : Sel) (s : State) : Host.Outcome State Fault Refusal :=
  issueWords [effVsubI32 d a b] s

/-- VMUL_I32 as a bundle of one word (R161). -/
def execVmulI32 (d : Fin 64) (a b : Sel) (s : State) : Host.Outcome State Fault Refusal :=
  issueWords [effVmulI32 d a b] s

/-- VMULH_I32 as a bundle of one word (R161). -/
def execVmulhI32 (d : Fin 64) (a b : Sel) (s : State) : Host.Outcome State Fault Refusal :=
  issueWords [effVmulhI32 d a b] s

/-- VADD_I16 as a bundle of one word (R161). -/
def execVaddI16 (d : Fin 64) (a b : Sel) (s : State) : Host.Outcome State Fault Refusal :=
  issueWords [effVaddI16 d a b] s

/-- VSUB_I16 as a bundle of one word (R161). -/
def execVsubI16 (d : Fin 64) (a b : Sel) (s : State) : Host.Outcome State Fault Refusal :=
  issueWords [effVsubI16 d a b] s

/-- VADD_I8 as a bundle of one word (R161). -/
def execVaddI8 (d : Fin 64) (a b : Sel) (s : State) : Host.Outcome State Fault Refusal :=
  issueWords [effVaddI8 d a b] s

/-- VSUB_I8 as a bundle of one word (R161). -/
def execVsubI8 (d : Fin 64) (a b : Sel) (s : State) : Host.Outcome State Fault Refusal :=
  issueWords [effVsubI8 d a b] s

/-- VADDS_I16 as a bundle of one word (R161). -/
def execVaddsI16 (d : Fin 64) (a b : Sel) (s : State) : Host.Outcome State Fault Refusal :=
  issueWords [effVaddsI16 d a b] s

/-- VSUBS_I16 as a bundle of one word (R161). -/
def execVsubsI16 (d : Fin 64) (a b : Sel) (s : State) : Host.Outcome State Fault Refusal :=
  issueWords [effVsubsI16 d a b] s

/-- VADDS_I8 as a bundle of one word (R161). -/
def execVaddsI8 (d : Fin 64) (a b : Sel) (s : State) : Host.Outcome State Fault Refusal :=
  issueWords [effVaddsI8 d a b] s

/-- VSUBS_I8 as a bundle of one word (R161). -/
def execVsubsI8 (d : Fin 64) (a b : Sel) (s : State) : Host.Outcome State Fault Refusal :=
  issueWords [effVsubsI8 d a b] s

/-- VMIN_I32 as a bundle of one word (R161). -/
def execVminI32 (d : Fin 64) (a b : Sel) (s : State) : Host.Outcome State Fault Refusal :=
  issueWords [effVminI32 d a b] s

/-- VMAX_I32 as a bundle of one word (R161). -/
def execVmaxI32 (d : Fin 64) (a b : Sel) (s : State) : Host.Outcome State Fault Refusal :=
  issueWords [effVmaxI32 d a b] s

/-- VMINU_I32 as a bundle of one word (R161). -/
def execVminuI32 (d : Fin 64) (a b : Sel) (s : State) : Host.Outcome State Fault Refusal :=
  issueWords [effVminuI32 d a b] s

/-- VMAXU_I32 as a bundle of one word (R161). -/
def execVmaxuI32 (d : Fin 64) (a b : Sel) (s : State) : Host.Outcome State Fault Refusal :=
  issueWords [effVmaxuI32 d a b] s

/-- VAND as a bundle of one word (R161). -/
def execVand (d : Fin 64) (a b : Sel) (s : State) : Host.Outcome State Fault Refusal :=
  issueWords [effVand d a b] s

/-- VOR as a bundle of one word (R161). -/
def execVor (d : Fin 64) (a b : Sel) (s : State) : Host.Outcome State Fault Refusal :=
  issueWords [effVor d a b] s

/-- VXOR as a bundle of one word (R161). -/
def execVxor (d : Fin 64) (a b : Sel) (s : State) : Host.Outcome State Fault Refusal :=
  issueWords [effVxor d a b] s

/-- VLUT3 as a bundle of one word (R162). -/
def execVlut3 (d : Fin 64) (a b : Sel) (tt : Fin 256) (s : State) : Host.Outcome State Fault Refusal :=
  issueWords [effVlut3 d a b tt] s

/-- VSHL as a bundle of one word (R161). -/
def execVshl (d : Fin 64) (a b : Sel) (s : State) : Host.Outcome State Fault Refusal :=
  issueWords [effVshl d a b] s

/-- VSHR as a bundle of one word (R161). -/
def execVshr (d : Fin 64) (a b : Sel) (s : State) : Host.Outcome State Fault Refusal :=
  issueWords [effVshr d a b] s

/-- VSRA as a bundle of one word (R161). -/
def execVsra (d : Fin 64) (a b : Sel) (s : State) : Host.Outcome State Fault Refusal :=
  issueWords [effVsra d a b] s

/-- VFSHL as a bundle of one word (R162). -/
def execVfshl (d : Fin 64) (a b : Sel) (n : Fin 32) (s : State) : Host.Outcome State Fault Refusal :=
  issueWords [effVfshl d a b n] s

/-- VFSHR as a bundle of one word (R162). -/
def execVfshr (d : Fin 64) (a b : Sel) (n : Fin 32) (s : State) : Host.Outcome State Fault Refusal :=
  issueWords [effVfshr d a b n] s

/-- VCMPEQ_I32 as a bundle of one word (R163). -/
def execVcmpeqI32 (a b : Sel) (s : State) : Host.Outcome State Fault Refusal :=
  issueWords [effVcmpeqI32 a b] s

/-- VCMPLT_I32 as a bundle of one word (R163). -/
def execVcmpltI32 (a b : Sel) (s : State) : Host.Outcome State Fault Refusal :=
  issueWords [effVcmpltI32 a b] s

/-- VCMPLTU_I32 as a bundle of one word (R163). -/
def execVcmpltuI32 (a b : Sel) (s : State) : Host.Outcome State Fault Refusal :=
  issueWords [effVcmpltuI32 a b] s

/-- VCMPEQ_F32 as a bundle of one word (R163). -/
def execVcmpeqF32 (a b : Sel) (s : State) : Host.Outcome State Fault Refusal :=
  issueWords [effVcmpeqF32 a b] s

/-- VCMPLT_F32 as a bundle of one word (R163). -/
def execVcmpltF32 (a b : Sel) (s : State) : Host.Outcome State Fault Refusal :=
  issueWords [effVcmpltF32 a b] s

/-- VCMPLE_F32 as a bundle of one word (R163). -/
def execVcmpleF32 (a b : Sel) (s : State) : Host.Outcome State Fault Refusal :=
  issueWords [effVcmpleF32 a b] s

/-- VCMPUN_F32 as a bundle of one word (R163). -/
def execVcmpunF32 (a b : Sel) (s : State) : Host.Outcome State Fault Refusal :=
  issueWords [effVcmpunF32 a b] s

/-- VSEL as a bundle of one word (R164). -/
def execVsel (d : Fin 64) (a b : Sel) (s : State) : Host.Outcome State Fault Refusal :=
  issueWords [effVsel d a b] s

/-- VPERM as a bundle of one word (R173). -/
def execVperm (d : Fin 64) (a b : Sel) (s : State) : Host.Outcome State Fault Refusal :=
  issueWords [effVperm d a b] s

/-- VROT as a bundle of one word (R174). -/
def execVrot (d : Fin 64) (a : Sel) (b : Fin 32) (s : State) : Host.Outcome State Fault Refusal :=
  issueWords [effVrot d a b] s

/-- VBCST as a bundle of one word (R174). -/
def execVbcst (z : BcSz) (d : Fin 64) (b : Fin 32) (s : State) : Host.Outcome State Fault Refusal :=
  issueWords [effVbcst z d b] s

/-- VEXT as a bundle of one word (R174). -/
def execVext (sx : Bool) (d : Fin 32) (a : Sel) (b : Fin 32) (s : State) : Host.Outcome State Fault Refusal :=
  issueWords [effVext sx d a b] s

/-- VINS as a bundle of one word (R174). -/
def execVins (d : Fin 64) (b : Fin 32) (k : Fin 64) (s : State) : Host.Outcome State Fault Refusal :=
  issueWords [effVins d b k] s

/-- VRED as a bundle of one word (R175). -/
def execVred (op : RedOp) (d : Fin 32) (a : Sel) (s : State) : Host.Outcome State Fault Refusal :=
  issueWords [effVred op d a] s

/-- VPOPC as a bundle of one word (R176). -/
def execVpopc (d : Fin 32) (a : Sel) (s : State) : Host.Outcome State Fault Refusal :=
  issueWords [effVpopc d a] s

/-- VCLZ as a bundle of one word (R161). -/
def execVclz (d : Fin 64) (a : Sel) (s : State) : Host.Outcome State Fault Refusal :=
  issueWords [effVclz d a] s

/-- VIOTA as a bundle of one word (R176). -/
def execViota (cm : Bool) (d : Fin 64) (s : State) : Host.Outcome State Fault Refusal :=
  issueWords [effViota cm d] s

/-- VMOV as a bundle of one word (R161). -/
def execVmov (d : Fin 64) (a : Sel) (s : State) : Host.Outcome State Fault Refusal :=
  issueWords [effVmov d a] s

/-- VADDI_I32 as a bundle of one word (R177). -/
def execVaddiI32 (d : Fin 64) (a : Sel) (i : BitVec 8) (s : State) : Host.Outcome State Fault Refusal :=
  issueWords [effVaddiI32 d a i] s

/-- VANDI as a bundle of one word (R177). -/
def execVandi (d : Fin 64) (a : Sel) (i : BitVec 8) (s : State) : Host.Outcome State Fault Refusal :=
  issueWords [effVandi d a i] s

/-- VSHLI as a bundle of one word (R177). -/
def execVshli (d : Fin 64) (a : Sel) (n : Fin 32) (s : State) : Host.Outcome State Fault Refusal :=
  issueWords [effVshli d a n] s

/-- VSHRI as a bundle of one word (R177). -/
def execVshri (d : Fin 64) (a : Sel) (n : Fin 32) (s : State) : Host.Outcome State Fault Refusal :=
  issueWords [effVshri d a n] s

/-- VSRAI as a bundle of one word (R177). -/
def execVsrai (d : Fin 64) (a : Sel) (n : Fin 32) (s : State) : Host.Outcome State Fault Refusal :=
  issueWords [effVsrai d a n] s

/-- VMOVI as a bundle of one word (R177). -/
def execVmovi (d : Fin 64) (i : BitVec 8) (s : State) : Host.Outcome State Fault Refusal :=
  issueWords [effVmovi d i] s

end Sys2Proof.Machine
end

