-- ==== Sys2Proof/Machine/VFloat.lean ====
section
/-! DEFINITION. Vector floating point, conversion and quantisation (08 R165 to R171). -/

namespace Sys2Proof.Machine

/-! ## Words that read RMODE (07 R148 to R150) -/

/-- The word takes a tag: RMODE is RSD and some lane is enabled (07 R150, 08 R179). -/
def takesTag (i : Iss) : Bool := i.c.rmode == 4 && i.em != 0

/-- The tag of the word that is executed: after those of the bundle's earlier V words. -/
def wordTag (i : Iss) (o : Out) : W32 := i.c.rsdctr + BitVec.ofNat 32 o.tags

/-- Rounding mode of element `e` of a word that reads RMODE. -/
def Iss.mode (i : Iss) (o : Out) (e : Nat) : RM := modeOf i.c.rmode i.c.srseed (wordTag i o) e

/-- Counts the word's tag. -/
def Out.tag (o : Out) (i : Iss) : Out := if takesTag i then { o with tags := o.tags + 1 } else o

/-- A word with bound 4 whose lanes round under RMODE: `f` gets the mode of each element index. -/
def vRound (sels : List Sel) (d : Fin 64) (f : (Nat → RM) → Iss → Nat → W32 × Flags) : Eff := fun i o =>
  let r := lanesOf i.em (f (i.mode o) i)
  .ok ((o.fV d r.1 i.em (4 + viewExtra sels) r.2).tag i)

/-- An FP32 operation on each lane. -/
def vf32 (f : RM → Nat → Nat → Nat → Nat × Flags) (d : Fin 64) (a b : Sel) : Eff :=
  vRound [a, b] d fun mode i k =>
    lane32 (f (mode k) (i.rSel a k).toNat (i.rSel b k).toNat (i.rV d k).toNat)

/-- Two 16-bit elements as a lane. -/
def pair16 (r0 r1 : Nat × Flags) : W32 × Flags := (BitVec.ofNat 32 (r0.1 % 65536 + 65536 * r1.1), r0.2 ||| r1.2)

/-- An operation on each element of a 16-bit pair; element index 2·i + j. -/
def vf16 (f : RM → Nat → Nat → Nat → Nat × Flags) (d : Fin 64) (a b : Sel) : Eff :=
  vRound [a, b] d fun mode i k =>
    let r := fun j => f (mode (2 * k + j)) (el 16 j (i.rSel a k)) (el 16 j (i.rSel b k)) (el 16 j (i.rV d k))
    pair16 (r 0) (r 1)

def effVfaddF32 (d : Fin 64) (a b : Sel) : Eff := vf32 (fun m x y _ => fadd fp32 m x y) d a b
def effVfsubF32 (d : Fin 64) (a b : Sel) : Eff := vf32 (fun m x y _ => fsub fp32 m x y) d a b
def effVfmulF32 (d : Fin 64) (a b : Sel) : Eff := vf32 (fun m x y _ => fmul fp32 m x y) d a b
def effVfmaF32 (d : Fin 64) (a b : Sel) : Eff := vf32 (fun m x y z => ffma fp32 m x y z) d a b
def effVfaddBf16 (d : Fin 64) (a b : Sel) : Eff := vf16 (fun m x y _ => fadd bf16 m x y) d a b
def effVfmulBf16 (d : Fin 64) (a b : Sel) : Eff := vf16 (fun m x y _ => fmul bf16 m x y) d a b
def effVfmaBf16 (d : Fin 64) (a b : Sel) : Eff := vf16 (fun m x y z => ffma bf16 m x y z) d a b
def effVfaddF16 (d : Fin 64) (a b : Sel) : Eff := vf16 (fun m x y _ => fadd fp16 m x y) d a b
def effVfmulF16 (d : Fin 64) (a b : Sel) : Eff := vf16 (fun m x y _ => fmul fp16 m x y) d a b
def effVfmaF16 (d : Fin 64) (a b : Sel) : Eff := vf16 (fun m x y z => ffma fp16 m x y z) d a b

/-- 08 R166: never rounds. -/
def effVfminF32 (d : Fin 64) (a b : Sel) : Eff := vOp2f 4 (fun x y => lane32 (fminmax false x.toNat y.toNat)) d a b
def effVfmaxF32 (d : Fin 64) (a b : Sel) : Eff := vOp2f 4 (fun x y => lane32 (fminmax true x.toNat y.toNat)) d a b

/-! ## Conversion (08 R167, R168) -/

/-- FP32 to integral FP32: infinities and zeros pass, a zero result takes the sign of the source. -/
def fIntegral (mode : RM) (c : Nat) : Nat × Flags :=
  match fp32.dec c with
  | .nan s => (fp32.nan, fNANIN ||| flagIf s fINV)
  | .inf _ => (c, 0)
  | .fin n m e =>
    if m = 0 then (c, 0)
    else
      let x := (FV.fin n m e).dy
      let r := roundInt mode x
      ((roundDy fp32 .rne n ⟨r, 0⟩).1, flagIf (!(Dy.eq ⟨r, 0⟩ x)) fIX)

/-- The narrow format of a code, with its width. -/
def CvtCode.narrow : CvtCode → Option (FFmt × Nat)
  | .f32ToBf16 | .bf16ToF32 => some (bf16, 16)
  | .f32ToF16 | .f16ToF32 => some (fp16, 16)
  | .f32ToE4m3 | .e4m3ToF32 => some (e4m3, 8)
  | .f32ToE5m2 | .e5m2ToF32 => some (e5m2, 8)
  | _ => none

/-- Replaces element `j` of width `w` in a lane. -/
def setEl (w j : Nat) (x : W32) (y : Nat) : W32 :=
  BitVec.ofNat 32 (x.toNat - el w j x * 2 ^ (w * j) + y % 2 ^ w * 2 ^ (w * j))

/-- Index, in the word's results, of the element that a lane of a conversion rounds (07 R150, 08 R168). -/
def cvtIndex (code : CvtCode) (part k : Nat) : Nat :=
  match CvtCode.narrow code with
  | some (_, w) => if code.widening then k else 32 / w * k + part
  | none => k

/-- One lane of VCVT: source lane `a`, old lane `d`. -/
def cvtLane (code : CvtCode) (part : Nat) (mode : RM) (a d : W32) : W32 × Flags :=
  match CvtCode.narrow code with
  | some (f, w) =>
    if code.widening then lane32 (fconv f fp32 .rne (el w part a))
    else
      let r := fconv fp32 f mode a.toNat
      (setEl w part d r.1, r.2)
  | none =>
    match code with
    | .f32ToI32 => let r := fToInt 32 mode (fp32.dec a.toNat); (BitVec.ofInt 32 r.1, r.2)
    | .i32ToF32 => lane32 (roundDy fp32 mode false ⟨a.toInt, 0⟩)
    | _ => lane32 (fIntegral mode a.toNat)

def effVcvt (d : Fin 64) (a : Sel) (code : CvtCode) (part : Fin 4) (rm : Bool) : Eff := fun i o =>
  let r := lanesOf i.em fun k =>
    cvtLane code part (if rm then i.mode o (cvtIndex code part k) else .rne) (i.rSel a k) (i.rV d k)
  let o' := o.fV d r.1 i.em (4 + viewExtra [a]) r.2
  .ok (if rm then o'.tag i else o')

/-! ## Quantisation (08 R169 to R171) -/

/-- The largest magnitude among the enabled lanes of block `b`, or the canonical NaN. -/
def blockMax (i : Iss) (a : Sel) (b : Nat) : W32 × Flags :=
  let xs := ((List.range 32).filter fun j => i.em.getLsbD (32 * b + j)).map fun j => (i.rSel a (32 * b + j)).toNat
  let fl := xs.foldl (fun f x => f ||| (fp32.dec x).opFlags) 0
  if xs.any fun x => (fp32.dec x).isNan then (BitVec.ofNat 32 fp32.nan, fl)
  -- magnitudes of non-NaN codes are ordered as their codes without the sign
  else (BitVec.ofNat 32 (xs.foldl (fun m x => max m (x % 2 ^ 31)) 0), fl)

def effVbmax (d : Fin 64) (a : Sel) : Eff := vLanes 6 [a] d fun i k => blockMax i a (k / 32)

/-- Puts the code of element `k` into its lane of `v`: dense packing (08 R170). -/
def putCode (t : QFmt) (v : Row) (k c : Nat) : Row :=
  let n := 32 / QFmt.bits t
  v.setIfInBounds (k / n) (setEl (QFmt.bits t) (k % n) (lane v (k / n)) c)

/-- The code of element `k` in a row of packed codes. -/
def getCode (t : QFmt) (v : Nat → W32) (k : Nat) : Nat := el (QFmt.bits t) (k % (32 / QFmt.bits t)) (v (k / (32 / QFmt.bits t)))

/-- VQNT writes the lanes that hold a code of an enabled element; its signature is the row's, once all has landed (05 R107; 08 R170).
DESIGN CHOICE, log entry 25. -/
def effVqnt (t : QFmt) (d : Fin 64) (a b : Sel) : Eff := fun i o =>
  let r := (List.range 64).foldl (fun (acc : Row × W64 × Flags) k =>
    if i.em.getLsbD k then
      let q := quantise (i.rSel a k).toNat (bf (i.rSel b (k / 32)) 0 16) t
      (putCode t acc.1 k q.1, acc.2.1 ||| BitVec.ofNat 64 (2 ^ (k / (32 / QFmt.bits t))), acc.2.2 ||| q.2)
    else acc) (rowOf (i.rV d), 0, 0)
  let w := o.fV d r.1 r.2.1 (6 + viewExtra [a, b]) r.2.2
  .ok { w with sig := o.sig ++ sigV d w.c.landAll.v[d] i.em }

/-- One lane of VDQNT. -/
def dqLane (i : Iss) (a b : Sel) (k : Nat) : W32 × Flags :=
  let w := i.rSel b (k / 32)
  match qfmtOf (bf w 16 3) with
  | none => (BitVec.ofNat 32 fp32.nan, fINV)
  | some t =>
    let v := qdec t (getCode t (i.rSel a) k) (bf w 0 16)
    lane32 (roundV fp32 .rne v v.opFlags)

def effVdqnt (d : Fin 64) (a b : Sel) : Eff := vLanes 6 [a, b] d fun i k => dqLane i a b k

/-! ## The words as bundles of one word -/

/-- VFADD_F32 as a bundle of one word (R165). -/
def execVfaddF32 (d : Fin 64) (a b : Sel) (s : State) : Host.Outcome State Fault Refusal :=
  issueWords [effVfaddF32 d a b] s

/-- VFSUB_F32 as a bundle of one word (R165). -/
def execVfsubF32 (d : Fin 64) (a b : Sel) (s : State) : Host.Outcome State Fault Refusal :=
  issueWords [effVfsubF32 d a b] s

/-- VFMUL_F32 as a bundle of one word (R165). -/
def execVfmulF32 (d : Fin 64) (a b : Sel) (s : State) : Host.Outcome State Fault Refusal :=
  issueWords [effVfmulF32 d a b] s

/-- VFMA_F32 as a bundle of one word (R165). -/
def execVfmaF32 (d : Fin 64) (a b : Sel) (s : State) : Host.Outcome State Fault Refusal :=
  issueWords [effVfmaF32 d a b] s

/-- VFMIN_F32 as a bundle of one word (R166). -/
def execVfminF32 (d : Fin 64) (a b : Sel) (s : State) : Host.Outcome State Fault Refusal :=
  issueWords [effVfminF32 d a b] s

/-- VFMAX_F32 as a bundle of one word (R166). -/
def execVfmaxF32 (d : Fin 64) (a b : Sel) (s : State) : Host.Outcome State Fault Refusal :=
  issueWords [effVfmaxF32 d a b] s

/-- VFADD_BF16 as a bundle of one word (R165). -/
def execVfaddBf16 (d : Fin 64) (a b : Sel) (s : State) : Host.Outcome State Fault Refusal :=
  issueWords [effVfaddBf16 d a b] s

/-- VFMUL_BF16 as a bundle of one word (R165). -/
def execVfmulBf16 (d : Fin 64) (a b : Sel) (s : State) : Host.Outcome State Fault Refusal :=
  issueWords [effVfmulBf16 d a b] s

/-- VFMA_BF16 as a bundle of one word (R165). -/
def execVfmaBf16 (d : Fin 64) (a b : Sel) (s : State) : Host.Outcome State Fault Refusal :=
  issueWords [effVfmaBf16 d a b] s

/-- VFADD_F16 as a bundle of one word (R165). -/
def execVfaddF16 (d : Fin 64) (a b : Sel) (s : State) : Host.Outcome State Fault Refusal :=
  issueWords [effVfaddF16 d a b] s

/-- VFMUL_F16 as a bundle of one word (R165). -/
def execVfmulF16 (d : Fin 64) (a b : Sel) (s : State) : Host.Outcome State Fault Refusal :=
  issueWords [effVfmulF16 d a b] s

/-- VFMA_F16 as a bundle of one word (R165). -/
def execVfmaF16 (d : Fin 64) (a b : Sel) (s : State) : Host.Outcome State Fault Refusal :=
  issueWords [effVfmaF16 d a b] s

/-- VCVT as a bundle of one word (R168). -/
def execVcvt (d : Fin 64) (a : Sel) (code : CvtCode) (part : Fin 4) (rm : Bool) (s : State) : Host.Outcome State Fault Refusal :=
  issueWords [effVcvt d a code part rm] s

/-- VQNT as a bundle of one word (R170). -/
def execVqnt (t : QFmt) (d : Fin 64) (a b : Sel) (s : State) : Host.Outcome State Fault Refusal :=
  issueWords [effVqnt t d a b] s

/-- VDQNT as a bundle of one word (R171). -/
def execVdqnt (d : Fin 64) (a b : Sel) (s : State) : Host.Outcome State Fault Refusal :=
  issueWords [effVdqnt d a b] s

/-- VBMAX as a bundle of one word (R169). -/
def execVbmax (d : Fin 64) (a : Sel) (s : State) : Host.Outcome State Fault Refusal :=
  issueWords [effVbmax d a] s

end Sys2Proof.Machine
end

