-- ==== Sys2Proof/Machine/Matrix.lean ====
section
/-! DEFINITION. The matrix array: runs and leases, panels, exact chunk sums, drains, suspensions, tile commands and run-time
faults (10 R208 to R224, R227, R230). -/

namespace Sys2Proof.Machine

/-! ## Messages to phasers -/

/-- Sends a message on its way to a phaser object. -/
def State.post (s : State) (m : PhMsg) : State := { s with transit := s.transit ++ [m] }

/-- The anonymous arrival of a completed command, with the fault record it carries (11 R246, R248; 12 R270). -/
def State.arrive (s : State) (k : Nat) (arr : Option Arrive) (f : Option FaultRec) : State :=
  match arr with
  | some a => s.post (.anon a.obj 1 f k (some a.h))
  | none => s

/-- A fault in the trailing work of the retired instance in context `x` is terminal for its kernel (06 R132). -/
def State.failRetired (s : State) (x : Nat) (o : Occ) (f : FaultRec) : State :=
  s.kill o.kid ⟨.fault, some f.cause, (s.ctx x).pc, f.info, o.n, f.unit, false, false⟩

/-! ## Element arithmetic (10 R209, R210, R224) -/

/-- Flags that the array records: never UF or DZ. -/
def mxMask : Flags := fIX ||| fOV ||| fINV ||| fNANIN ||| fSKNF

/-- A dyadic value as a value with the sign that a zero takes. -/
def Dy.fv (x : Dy) (zneg : Bool) : FV := .fin (if x.m = 0 then zneg else decide (x.m < 0)) x.m.natAbs x.e

/-- |a − b| (10 R209); ∞ − ∞ of one sign is invalid. -/
def absDiff (a b : FV) : FV × Flags :=
  match a, b with
  | .nan _, _ => (.nan false, 0)
  | _, .nan _ => (.nan false, 0)
  | .inf x, .inf y => if x == y then (.nan false, fINV) else (.inf false, 0)
  | .inf _, _ => (.inf false, 0)
  | _, .inf _ => (.inf false, 0)
  | a, b => ((a.dy.sub b.dy).abs.fv false, 0)

/-- A value is no finite number. -/
def FV.nonFinite (x : FV) : Bool := x.isNan || x.isInf

/-- The additive term of pattern code `op`, if it contributes one, with the flags it records. `skip` marks an element that
sparsity sets to zero. -/
def mxTerm (op : Nat) (skip : Bool) (a b : FV) : Option FV × Flags :=
  if skip then (if b.nonFinite then (none, fSKNF) else (some (mulV (.fin false 0 0) b), b.opFlags))
  else if op = 0 then (some (mulV a b), opFlags2 a b ||| flagIf (mulInvalid a b) fINV)
  else let r := absDiff a b; (some r.1, opFlags2 a b ||| r.2)

/-- The exact sum of additive terms (10 R210). DEDUCED, log entry 28. -/
def sumTerms (ts : List FV) : FV × Flags :=
  let pos := ts.any fun t => match t with | .inf n => !n | _ => false
  let neg := ts.any fun t => match t with | .inf n => n | _ => false
  if ts.any FV.isNan then (.nan false, flagIf (pos && neg) fINV)
  else if pos && neg then (.nan false, fINV)
  else if pos then (.inf false, 0)
  else if neg then (.inf true, 0)
  else ((ts.foldl (fun (a : Dy) t => a.add t.dy) ⟨0, 0⟩).fv (ts.all FV.neg?), 0)

/-- Select of the FP32 accumulator (10 R209). -/
def selectF (min : Bool) (acc cand : Nat) : Nat :=
  let x := fp32.dec acc
  let y := fp32.dec cand
  if x.isNan || y.isNan then fp32.nan
  else if min then (if ltZero y x then cand else acc) else (if ltZero x y then cand else acc)

/-- The 32 steps of one chunk. -/
def chunkIdx : List Nat := List.range 32

/-- One chunk of an element in the FP32 accumulator: the new accumulator and the flags recorded. 10 R210 names decoded operands for NANIN
and INV: a NaN that stands in the accumulator, as C gave it, records neither. DEDUCED, log entry 28. -/
def chunkF (r : Vector W64 16) (skip : Nat → Bool) (a b : Nat → FV) (acc : Nat) : Nat × Flags :=
  let op := fun j => mxPat r (j % mxPlen r)
  let ts := (chunkIdx.filter fun j => op j != 2).map fun j => mxTerm (op j) (skip j) (a j) (b j)
  let fl := ts.foldl (fun f t => f ||| t.2) 0
  let sum := sumTerms (ts.filterMap (·.1))
  let acc1 : Nat × Flags :=
    if ts.isEmpty then (acc, 0)
    else
      let s := roundV fp32 .rne sum.1 0
      let x := addV fp32 .rne (fp32.dec acc) (fp32.dec s.1) 0
      (x.1, sum.2 ||| s.2 ||| x.2)
  let cs := (chunkIdx.filter fun j => op j == 2).map fun j => addV fp32 .rne (a j) (b j) (opFlags2 (a j) (b j))
  let acc2 := cs.foldl (fun x c => selectF (bitOf r[0] 10) x c.1) acc1.1
  (acc2, (fl ||| acc1.2 ||| cs.foldl (fun f c => f ||| c.2) 0) &&& mxMask)

/-- One chunk of an element in the INT32 accumulator. -/
def chunkI (r : Vector W64 16) (skip : Nat → Bool) (a b : Nat → Int) (acc : Int) : Int × Flags :=
  let op := fun j => mxPat r (j % mxPlen r)
  let adds := chunkIdx.filter fun j => op j != 2
  let s := adds.foldl (fun t j =>
    t + (if skip j then 0 else if op j = 0 then a j * b j else ((a j - b j).natAbs : Int))) 0
  let acc1 := if adds.isEmpty then (acc, false) else clamp (-(2 ^ 31 : Int)) (2 ^ 31 - 1) (acc + s)
  let acc2 := (chunkIdx.filter fun j => op j == 2).foldl (fun x j =>
    let c := a j + b j
    if bitOf r[0] 10 then min x c else max x c) acc1.1
  (acc2, flagIf acc1.2 fOV)

/-! ## Panels and scale records (10 R220 to R224) -/

/-- Element `i` of width `w` in the bytes of a panel (07 R142). -/
def panelEl (bs : List Byte) (w i : Nat) : Nat :=
  if w = 4 then nb (bs.getD (i / 2) 0).toNat (4 * (i % 2)) 4
  else if w = 8 then (bs.getD i 0).toNat
  else (bs.getD (2 * i) 0).toNat + 256 * (bs.getD (2 * i + 1) 0).toNat

/-- Decodes a code of format `f` with record `rcd` (10 R209). -/
def mxDec (f rcd c : Nat) : FV :=
  match f with
  | 0 => qdec .e4m3 c rcd | 1 => qdec .e5m2 c rcd | 2 => qdec .e2m1x c rcd | 3 => qdec .int8 c rcd
  | 4 => qdec .int4 c rcd | 5 => bf16.dec c | _ => fp16.dec c

/-- An unscaled record: X = 127, SV = +0. -/
def plainRec : Nat := 127

/-- Local address of the record of row `row` and block `blk`. -/
def ScDecl.at (d : ScDecl) (row blk : Nat) : Nat := d.base + 2 * (row * d.blks + blk)

/-- A record of table `t` that context `x` has cached in the group's scale cache (10 R222). -/
def State.scCached (s : State) (x t row blk : Nat) : Option (BitVec 16) :=
  ((s.group (groupOf (coreOf x))).scache.find? fun e => e.1 == ⟨x, t, row, blk⟩).map (·.2)

/-- The record of table `t` in scratchpad. -/
def State.scMem (s : State) (x t row blk : Nat) : Nat :=
  match (s.ctx x).sctab.get none t with
  | some d => leNat ((s.core (coreOf x)).spRd ((s.ctx x).spbase + d.at row blk) 2)
  | none => plainRec

/-- Number of the record of row `row` and block `blk`. -/
def State.recNo (s : State) (x t row blk : Nat) : Nat := ((s.ctx x).sctab.get none t).elim 0 fun d => row * d.blks + blk

/-- What command `m` keeps of record `q` of table `t` (10 R223). -/
def MxCmd.keeps (m : MxCmd) (t q : Nat) : Option (Option Nat) := (m.kept.find? fun e => e.1 == t && e.2.1 == q).map (·.2.2)

/-- The scale record that command `m` of context `x` decodes with: as it stood when the command was committed. -/
def State.scaleRec (s : State) (x : Nat) (m : MxCmd) (t row blk : Nat) : Nat :=
  match m.keeps t (s.recNo x t row blk) with
  | some r => r.getD plainRec
  | none => ((s.scCached x t row blk).map (·.toNat)).getD (s.scMem x t row blk)

/-- The record of element row `i` and chunk `c` of an operand with register `v` (MXC4 or MXC5). -/
def State.operandRec (s : State) (x : Nat) (m : MxCmd) (v : W64) (i c : Nat) : Nat :=
  if bitOf v 6 then s.scaleRec x m (bf v 0 6) (bf v 16 16 + i) (bf v 32 16 + c) else plainRec

/-- A record is poisoned. -/
def State.onePoison (s : State) (x : Nat) (m : MxCmd) (t row blk : Nat) : Bool :=
  match m.keeps t (s.recNo x t row blk), (s.ctx x).sctab.get none t with
  | some r, _ => r.isNone
  | none, some d => (s.core (coreOf x)).spPoisoned ((s.ctx x).spbase + d.at row blk) 2
  | none, none => false

/-- Some record of an operand of `n` rows is poisoned. -/
def State.recPoison (s : State) (x : Nat) (m : MxCmd) (v : W64) (n c : Nat) : Bool :=
  bitOf v 6 && (List.range n).any fun i => s.onePoison x m (bf v 0 6) (bf v 16 16 + i) (bf v 32 16 + c)

/-- The first record of an operand that the scale cache lacks: a miss (10 R222). A record that the command keeps, and a poisoned
one, is none. -/
def State.operandMiss (s : State) (x : Nat) (m : MxCmd) (v : W64) (n c : Nat) : Option (Nat × Nat × Nat) :=
  let t := bf v 0 6
  let blk := bf v 32 16 + c
  if bitOf v 6 then
    ((List.range n).find? fun i =>
      let row := bf v 16 16 + i
      (m.keeps t (s.recNo x t row blk)).isNone && (s.scCached x t row blk).isNone && !s.onePoison x m t row blk).map fun i =>
        (t, bf v 16 16 + i, blk)
  else none

/-- The first record that the next chunk of operation `m` misses. -/
def State.scaleMiss (s : State) (x : Nat) (m : MxCmd) (r : Vector W64 16) : Option (Nat × Nat × Nat) :=
  (s.operandMiss x m r[4] (mxM r) m.chunk).or (s.operandMiss x m r[5] (mxN r) m.chunk)

/-- The pairs of table and record number that `n` bytes at local address `a` hold of the tables pinned by `m`. -/
def Ctx.recsAt (c : Ctx) (m : MxCmd) (a n : Nat) : List (Nat × Nat) :=
  (pinsOf [m]).dedup.flatMap fun t =>
    match c.sctab.get none t with
    | some d => ((List.range (n / 2)).filterMap fun j =>
        if d.base ≤ a + 2 * j ∧ a + 2 * j < d.base + 2 * (d.rows * d.blks) then some (t, (a + 2 * j - d.base) / 2) else none)
    | none => []

/-- Keeps the records that a tile command is about to overwrite for the operations that have pinned them (10 R223). -/
def State.keepRecs (s : State) (x a n : Nat) : State :=
  let k := s.core (coreOf x)
  s.upCtx x fun c => { c with mxq := c.mxq.map fun m =>
    { m with kept := m.kept ++ (c.recsAt m a n).filterMap fun e =>
        if (m.keeps e.1 e.2).isSome then none
        else ((c.sctab.get none e.1).map fun d =>
          let off := c.spbase + d.base + 2 * e.2
          (e.1, e.2, if k.spPoisoned off 2 then none else some (leNat (k.spRd off 2)))) } }

/-- Offset in the core of panel `p` of a ring of context `x`. -/
def State.panelOff (s : State) (x : Nat) (r : Ring) (p : Nat) : Nat := (s.ctx x).spbase + r.base + 16 * r.psize * (p % r.cap)

/-- Position of the element at K index `k` among a row's kept elements, if its metadata word keeps it (10 R224). -/
def keptAt (mword : Nat) (k : Nat) : Option Nat :=
  let n := nb mword (4 * (k / 4)) 4
  if n % 4 = k % 4 then some (2 * (k / 4)) else if n / 4 = k % 4 then some (2 * (k / 4) + 1) else none

/-- A malformed nibble: the first position is not less than the second. -/
def metaBad (mword : Nat) : Bool := (List.range 8).any fun q => decide (nb mword (4 * q + 2) 2 ≤ nb mword (4 * q) 2)

/-! ## The tile store (10 R212, R213) -/

/-- Tile-store word (row, col) of a core. -/
def Core.tileRd (k : Core) (row col : Nat) : W32 := k.tile.get 0 (256 * row + col)

/-- Writes `n` consecutive words of a row; the granules they cover whole lose their poison. -/
def Core.tileWr (k : Core) (row col : Nat) (ws : List W32) : Core :=
  { k with
    tile := ((List.range ws.length).zip ws).foldl (fun t p => t.set 0 (256 * row + col + p.1) p.2) k.tile
    tilePoison := k.tilePoison.filter fun g => !wholeGran (4 * (256 * row + col)) (4 * ws.length) g }

/-- A word of the row range is poisoned. -/
def Core.tilePoisoned (k : Core) (row col n : Nat) : Bool :=
  k.tilePoison.any fun g => decide ((256 * row + col) / 4 ≤ g) && decide (g ≤ (256 * row + col + n - 1) / 4)

/-- The spans of C in tile stores: for each row m, the core, row, column and the first element index and count. -/
def cSpans (k : Nat) (r : Vector W64 16) : List (Nat × Nat × Nat × Nat × Nat) :=
  (List.range (mxM r)).flatMap fun m =>
    let lo := Nat.min 256 (mxN r)
    (k, mxTrow r + m, 16 * mxTcolb r, m * mxN r, lo) ::
      (if mxWide r then [(k + 1, mxTrow r + m, 0, m * mxN r + 256, mxN r - 256)] else [])

/-- The words of C in the stores. -/
def State.cLoad (s : State) (k : Nat) (r : Vector W64 16) : List W32 :=
  (cSpans k r).flatMap fun (c, row, col, _, n) => (List.range n).map fun j => (s.core c).tileRd row (col + j)

/-- The core, if any, whose tile store holds a poisoned word of C. -/
def State.cPoison (s : State) (k : Nat) (r : Vector W64 16) : Option Nat :=
  ((cSpans k r).find? fun (c, row, col, _, n) => (s.core c).tilePoisoned row col n).map (·.1)

/-- Writes the words of C into the stores, all of them at one moment, where R215 lets another context's tile command come between two
words; a CHECK primary's drain is written into its checker's store too (10 R219). DESIGN CHOICE, log entry 61. -/
def State.cDrain (s : State) (k : Nat) (r : Vector W64 16) (check : Bool) (acc : List W32) : State :=
  (cSpans k r).foldl (fun s (c, row, col, e, n) =>
    let ws := (acc.drop e).take n
    let s := s.upCore c fun q => q.tileWr row col ws
    if check then s.upCore (c + 1) fun q => q.tileWr row col ws else s) s

/-- ORs flags into the status word of a tile store. -/
def State.tileFlags (s : State) (c : Nat) (check : Bool) (f : Flags) : State :=
  let s := s.upCore c fun q => { q with tstatus := q.tstatus ||| f }
  if check then s.upCore (c + 1) fun q => { q with tstatus := q.tstatus ||| f } else s

/-! ## Requesters and runs (10 R216 to R218) -/

/-- The context is active: it has not been halted or saved, and its kernel is not being killed (16 R360). -/
def State.active (s : State) (x : Nat) : Bool :=
  match (s.ctx x).occ with | some o => (o.st == .running || o.st == .retired) && !s.killed o.kid | none => false

/-- The wide operations of context `x` on an even core may run: the odd core's context of the same number has joined, holds its
claim and runs the same kernel (10 R218); a halt of it suspends them (R219). DEDUCED, log entry 27. -/
def State.joined (s : State) (x : Nat) : Bool :=
  s.active (x + 2) && (s.ctx (x + 2)).join == .inEffect && (s.core (coreOf x + 1)).claim == some (x + 2) && s.kidOf (x + 2) == s.kidOf x

/-- The head of a context's matrix queue is an eligible operation. -/
def State.headOp (s : State) (x : Nat) : Option (MxCmd × Vector W64 16) :=
  match (s.ctx x).mxq with
  | m :: _ =>
    match m.kind with
    | .go r => if !mxWide r || s.joined x then some (m, r) else none
    | _ => none
  | [] => none

/-- Core `k` is a requester: its claimant context. -/
def State.requester (s : State) (k : Nat) : Option Nat :=
  match (s.core k).claim with
  | some x =>
    let c := s.ctx x
    if s.active x && c.join != .inEffect && (c.hold || (s.headOp x).isSome) then some x else none
  | none => none

/-- Cores of group `g` in the order in which the next run is granted. -/
def runOrder (g last : Nat) : List Nat := (List.range 4).map fun j => 4 * g + (last + 1 + j) % 4

/-- The first requester of the group, in grant order. -/
def State.nextRun (s : State) (g : Nat) : Option Nat := (runOrder g (s.group g).last).find? fun k => (s.requester k).isSome

/-- The claimant context of the core that a group serves. -/
def State.runCtx (s : State) (g : Nat) : Option (Run × Nat) :=
  match (s.group g).run with
  | some r => ((s.core r.core).claim).map fun x => (r, x)
  | none => none

/-- Some operation of the group is suspended with its accumulators still in the array: its run has ended, or its odd partner has
halted (10 R216, R219). -/
def State.draining (s : State) (g : Nat) : Option Nat :=
  (List.range 8).map (8 * g + ·) |>.find? fun x =>
    ((s.ctx x).mxq.any fun m => m.accValid) && !(((s.runCtx g).any fun p => p.2 == x) && (s.headOp x).isSome)

/-- Changes the head of a context's matrix queue. -/
def State.upHead (s : State) (x : Nat) (f : MxCmd → MxCmd) : State :=
  s.upCtx x fun c => { c with mxq := match c.mxq with | m :: q => f m :: q | [] => [] }

/-- MX_RUN_START: the next requester is granted a run (10 R217). -/
def execMxRunStart (g : Nat) (s : State) : Host.Outcome State Fault Refusal :=
  .next <|
    if (s.group g).run.isSome || (s.draining g).isSome then s
    else match s.nextRun g with
      | some k => s.setGroup g { s.group g with run := some ⟨k, 0, 0⟩, last := k % 4 }
      | none => s

/-- The operation that is active in a run: started at the head of the queue. -/
def State.activeOp (s : State) (x : Nat) : Bool :=
  match s.headOp x with | some (m, _) => m.started && m.accValid | none => false

/-- A run has reached its end (10 R216): its cycle count or its number of operations, a leaseholder that no longer requests,
or one that has halted. -/
def State.runOver (s : State) (g : Nat) : Bool :=
  match (s.group g).run with
  | none => false
  | some r =>
    match (s.core r.core).claim with
    | none => true
    | some x =>
      !s.active x || decide (65536 ≤ r.cycles) ||
        (!s.activeOp x && (decide (16 ≤ r.ops) || (s.requester r.core).isNone))

/-- MX_RUN_END (10 R216, R217): a sole requester begins a new run at once and nothing is suspended. -/
def execMxRunEnd (g : Nat) (s : State) : Host.Outcome State Fault Refusal :=
  .next <|
    match (s.group g).run with
    | none => s
    | some r =>
      if !s.runOver g then s
      else
        let others := (runOrder g (r.core % 4)).filter fun k => k != r.core && (s.requester k).isSome
        if others.isEmpty && (s.requester r.core).isSome then
          s.setGroup g { s.group g with run := some ⟨r.core, 0, 0⟩ }
        else s.setGroup g { s.group g with run := none }

/-- MX_SUSPEND_COMPLETE: the partial accumulators of a suspended operation are drained into the stores (10 R216). -/
def execMxSuspendComplete (g : Nat) (s : State) : Host.Outcome State Fault Refusal :=
  .next <|
    match s.draining g with
    | none => s
    | some x =>
      match (s.ctx x).mxq with
      | m :: _ =>
        match m.kind with
        | .go r =>
          (s.cDrain (coreOf x) r ((s.ctx x).gmode == 2) m.acc).upHead x fun m => { m with acc := [], accValid := false }
        | _ => s
      | [] => s

/-! ## Run-time faults (10 R227) -/

/-- The words of a tile region become undefined. -/
def State.undefine (s : State) (c : Nat) (row col n : Nat) : State :=
  s.upCore c fun q => q.tileWr row col ((List.range n).map fun j => Config.freeW32 s.nfree (0x40000000 + 65536 * c + 256 * row + col + j))

/-- The C region of a discarded command becomes undefined. -/
def State.undefineCmd (s : State) (k : Nat) (m : MxCmd) : State :=
  match m.kind with
  | .go r => (cSpans k r).foldl (fun s (c, row, col, _, n) => s.undefine c row col n) s
  | .ld _ b _ | .z b _ =>
    match regionOf b with
    | some g => (List.range g.nrows).foldl (fun s i => s.undefine k (g.trow + i) g.tcol g.ncols) s
    | none => s
  | .st .. => s

/-- A fault while the head of the queue runs: it and every later command are discarded, their phasers receive the record, and
the context keeps it for its next MXWAIT. Once the instance has retired the record goes to the dispatcher (06 R132). -/
def State.mxFail (s : State) (x : Nat) (f : FaultRec) : State :=
  let q := (s.ctx x).mxq
  let gone := fun (c : Ctx) => { c with mxq := [], mxfault := c.mxfault.or (some f) }
  let s := q.foldl (fun s m => s.undefineCmd (coreOf x) m) s
  match (s.ctx x).occ with
  | some o =>
    if o.st = .retired then (s.upCtx x gone).kill o.kid ⟨.fault, some f.cause, (s.ctx x).pc, f.info, o.n, f.unit, false, false⟩
    else if s.killed o.kid then s.upCtx x gone
    else (q.foldl (fun s m => s.arrive (coreOf x) m.arr (some f)) s).upCtx x gone
  | none => s.upCtx x gone

/-- The record of MX_FAULT, kind META, at a chunk. -/
def metaRec (chunk : Nat) : FaultRec := .of .mxFault (BitVec.ofNat 64 (8 + 2 ^ 32 * chunk))

/-- The record of POISON met by the array in the storage of core `k`: its TINFO is not laid down; the unit is the core (16 R375). -/
def State.mxPoison (s : State) (k : Nat) : FaultRec := ⟨.poison, Config.freeW64 s.nfree 0x300000, BitVec.ofNat 16 (0x1000 + k)⟩

/-! ## Operations -/

/-- Starts or resumes the operation at the head of the queue of context `x`: its C fill (10 R209, R216). -/
def State.opBegin (s : State) (g x : Nat) (m : MxCmd) (r : Vector W64 16) : State :=
  if m.accValid then s
  else
    let acc := if !m.started && mxZero r then List.replicate (mxM r * mxN r) 0 else s.cLoad (coreOf x) r
    let c := s.ctx x
    let s := s.upHead x fun m =>
      { m with started := true, accValid := true, acc := acc,
               heads := if m.started then m.heads else [(c.ring (mxQA r)).head, (c.ring (mxQB r)).head] }
    match (s.group g).run with
    | some u => if m.started then s else s.setGroup g { s.group g with run := some { u with ops := u.ops + 1 } }
    | none => s

/-- The core, if any, in whose store C is poisoned where the fill reads it. -/
def State.fillPoison (s : State) (x : Nat) (m : MxCmd) (r : Vector W64 16) : Option Nat :=
  if !m.accValid && (m.started || !mxZero r) then s.cPoison (coreOf x) r else none

/-- Takes the panel that chunk `c` reads from ring `q` of a context: without HOLD the next one, which is popped (10 R221). -/
def takePanel (c : Ctx) (q : Nat) (held : Option W32) (chunk : Nat) : Option (Ctx × Ring × Nat) :=
  let r := c.ring q
  match held with
  | some h => if chunk < (r.tail - h).toNat then some (c, r, (h + BitVec.ofNat 32 chunk).toNat) else none
  | none =>
    if 0 < (r.tail - r.head).toNat then
      some ({ c with rings := c.rings.set! q { r with head := r.head + 1 } }, r, r.head.toNat)
    else none

/-- The panels of one chunk: A, B and, when sparse, the metadata, with the context after the pops. Where two of them name one ring
without HOLD, A takes the next panel and B the one after it. DESIGN CHOICE, log entry 61. -/
def takePanels (c : Ctx) (m : MxCmd) (r : Vector W64 16) : Option (Ctx × (Ring × Nat) × (Ring × Nat) × Option (Ring × Nat)) :=
  match takePanel c (mxQA r) (if bitOf r[0] 14 then m.heads[0]? else none) m.chunk with
  | none => none
  | some (c, ra, pa) =>
    match takePanel c (mxQB r) (if bitOf r[0] 15 then m.heads[1]? else none) m.chunk with
    | none => none
    | some (c, rb, pb) =>
      if mxSparse r then
        match takePanel c (mxQM r) none m.chunk with
        | none => none
        | some (c, rm, pm) => some (c, (ra, pa), (rb, pb), some (rm, pm))
      else some (c, (ra, pa), (rb, pb), none)

/-- Array cycles of a panel (10 R208). -/
def panelCycles (r : Vector W64 16) : Nat :=
  let fa := mxFmtA r
  let fb := mxFmtB r
  if 5 ≤ fa then 64
  else (if fa = fb ∧ (fa = 2 ∨ fa = 4) then 16 else 32) / (if mxSparse r then 2 else 1)

/-- The result of one chunk on every element: new accumulators with the flags of the columns below 256 and of the others. -/
def chunkAll (s : State) (x : Nat) (c : MxCmd) (r : Vector W64 16) (chunk : Nat) (pa pb pm : List Byte) (acc : List W32) :
    List W32 × Flags × Flags :=
  let fa := mxFmtA r
  let fb := mxFmtB r
  let wa := mxWidth fa
  let wb := mxWidth fb
  let sp := mxSparse r
  let mword := fun m => leNat ((pm.drop (4 * m)).take 4)
  let codeA := fun m k => if sp then panelEl pa wa (16 * m + (keptAt (mword m) k).getD 0) else panelEl pa wa (32 * m + k)
  let codeB := fun n k => panelEl pb wb (32 * n + k)
  let skip := fun m k => sp && (keptAt (mword m) k).isNone
  let int := mxClass fa == 1 && !bitOf r[4] 6 && !bitOf r[5] 6
  let one := fun (m n : Nat) (a : W32) =>
    if int then
      let v := chunkI r (skip m) (fun k => sx wa (codeA m k)) (fun k => sx wb (codeB n k)) a.toInt
      (BitVec.ofInt 32 v.1, v.2)
    else
      let ra := s.operandRec x c r[4] m chunk
      let rb := s.operandRec x c r[5] n chunk
      let v := chunkF r (skip m) (fun k => mxDec fa ra (codeA m k)) (fun k => mxDec fb rb (codeB n k)) a.toNat
      (BitVec.ofNat 32 v.1, v.2)
  let res := ((List.range acc.length).zip acc).map fun p => one (p.1 / mxN r) (p.1 % mxN r) p.2
  let fl := fun (hi : Bool) => ((List.range acc.length).zip res).foldl (fun f p =>
    if decide (256 ≤ p.1 % mxN r) == hi then f ||| p.2.2 else f) 0
  (res.map (·.1), fl false, fl true)

/-- One chunk of the operation at the head of the queue: its panels are read once TAIL covers them (10 R221), the sums are
exact (R209), the flags reach the status words (R213). -/
def State.opChunk (s : State) (g x : Nat) (m : MxCmd) (r : Vector W64 16) : State :=
  let k := coreOf x
  match takePanels (s.ctx x) m r with
  | none => s
  | some (c', (ra, na), (rb, nb), pm) =>
    let core := s.core k
    let rdp := fun (q : Ring) (n : Nat) => core.spRd (s.panelOff x q n) (16 * q.psize)
    let bad := fun (q : Ring) (n : Nat) => core.spPoisoned (s.panelOff x q n) (16 * q.psize)
    let bm : List Byte := match pm with | some (q, n) => rdp q n | none => []
    if bad ra na || bad rb nb || (pm.elim false fun p => bad p.1 p.2) || s.recPoison x m r[4] (mxM r) m.chunk ||
        s.recPoison x m r[5] (mxN r) m.chunk then s.mxFail x (s.mxPoison k)
    else if pm.isSome && (List.range (mxM r)).any fun i => metaBad (leNat ((bm.drop (4 * i)).take 4)) then
      s.mxFail x (metaRec m.chunk)
    else
      let res := chunkAll s x m r m.chunk (rdp ra na) (rdp rb nb) bm m.acc
      let check := (s.ctx x).gmode == 2
      let s := (s.setCtx x c').upHead x fun m => { m with chunk := m.chunk + 1, acc := res.1 }
      let s := s.tileFlags k check res.2.1
      let s := if mxWide r then s.tileFlags (k + 1) false res.2.2 else s
      match (s.group g).run with
      | some u => s.setGroup g { s.group g with run := some { u with cycles := u.cycles + panelCycles r } }
      | none => s

/-- The eligible operation at the head of the leaseholder's queue. -/
def State.servedOp (s : State) (g : Nat) : Option (Nat × MxCmd × Vector W64 16) :=
  match s.runCtx g with
  | none => none
  | some (u, x) =>
    if s.runOver g then none
    else match s.headOp x with
      | none => none
      | some (m, r) => if m.started || decide (u.ops < 16) then some (x, m, r) else none

/-- MX_PANEL_READ: the array starts the operation if it has not, and reads one panel of K, once the scale cache holds its records. -/
def execMxPanelRead (g : Nat) (s : State) : Host.Outcome State Fault Refusal :=
  .next <|
    match s.servedOp g with
    | none => s
    | some (x, m, r) =>
      if mxKP r ≤ m.chunk then s
      else match s.fillPoison x m r with
        | some k => s.mxFail x (s.mxPoison k)
        | none =>
          let s' := s.opBegin g x m r
          match (s'.ctx x).mxq with
          | m' :: _ => if (s'.scaleMiss x m' r).isSome then s' else (s'.opChunk g x m' r).draw
          | [] => s'

/-- MX_OP_COMPLETE: every chunk is done: the operation drains into its stores, unpins its tables and arrives at its handle
(10 R230). -/
def execMxOpComplete (g : Nat) (s : State) : Host.Outcome State Fault Refusal :=
  .next <|
    match s.servedOp g with
    | none => s
    | some (x, m, r) =>
      if m.chunk < mxKP r then s
      else match s.fillPoison x m r with
        | some k => (s.mxFail x (s.mxPoison k)).draw
        | none =>
          let s' := s.opBegin g x m r
          match (s'.ctx x).mxq with
          | m' :: q =>
            ((s'.cDrain (coreOf x) r ((s'.ctx x).gmode == 2) m'.acc).upCtx x fun c => { c with mxq := q }).arrive
              (coreOf x) m.arr none
          | [] => s'

/-- SCALE_MISS_FILL: the group's scale cache takes in a record that the active operation reads (10 R222). -/
def execScaleMissFill (g t row blk : Nat) (s : State) : Host.Outcome State Fault Refusal :=
  .next <|
    match s.servedOp g with
    | none => s
    | some (x, m, r) =>
      let used := [r[4], r[5]].any fun v => bitOf v 6 && bf v 0 6 == t
      match (s.ctx x).sctab.get none t with
      | some d =>
        if used && decide (row < d.rows) && decide (blk < d.blks) && !s.onePoison x m t row blk &&
            (m.keeps t (s.recNo x t row blk)).isNone then
          let gr := s.group g
          let tag : ScTag := ⟨x, t, row, blk⟩
          s.setGroup g { gr with scache :=
            (tag, BitVec.ofNat 16 (s.scaleRec x m t row blk)) :: gr.scache.filter fun e => e.1 != tag }
        else s
      | none => s

/-! ## Tile commands (10 R215, R233) -/

/-- Removes the completed head of the queue; a pending join counts its earlier tile commands down. -/
def State.tileDone (s : State) (x : Nat) (m : MxCmd) : State :=
  (s.upCtx x fun c => { c with
    mxq := c.mxq.tail
    join := match c.join with | .pending (n + 1) => .pending n | j => j }).arrive (coreOf x) m.arr none

/-- The granules of a row of words. -/
def wordBytes (ws : List W32) : List Byte := ws.flatMap fun w => natLe 4 w.toNat

/-- MXLD: scratchpad data into the tile store. -/
def State.mxLoad (s : State) (x : Nat) (a : Nat) (g : Region) (st : Bool) : State :=
  let k := coreOf x
  let off := (s.ctx x).spbase + a
  let core := s.core k
  let s := (List.range g.nrows).foldl (fun s i =>
    let bs := core.spRd (off + 4 * (g.ncols * i)) (4 * g.ncols)
    s.upCore k fun q => q.tileWr (g.trow + i) g.tcol ((List.range g.ncols).map fun j => laneAt bs j)) s
  if st then
    s.upCore k fun q => { q with tstatus := BitVec.ofNat 7 (leNat (core.spRd (off + 4 * (g.nrows * g.ncols)) 4)) &&& mxMask }
  else s

/-- MXST: tile-store words into scratchpad, each granule with its full-empty bit set; the operations behind it keep the scale records that it
overwrites. -/
def State.mxStore (s : State) (x : Nat) (a : Nat) (g : Region) (st : Bool) : State :=
  let k := coreOf x
  let off := (s.ctx x).spbase + a
  let core := s.core k
  let s := s.keepRecs x a (4 * (g.nrows * g.ncols) + 16 * b2n st)
  let s := (List.range g.nrows).foldl (fun s i =>
    s.engStore k (off + 4 * (g.ncols * i)) (wordBytes ((List.range g.ncols).map fun j => core.tileRd (g.trow + i) (g.tcol + j)))) s
  if st then s.engStore k (off + 4 * (g.nrows * g.ncols)) (natLe 4 core.tstatus.toNat ++ natLe 12 0) else s

/-- MXZ: zeroes a region. -/
def State.mxZeroes (s : State) (x : Nat) (g : Region) (st : Bool) : State :=
  let s := (List.range g.nrows).foldl (fun s i =>
    s.upCore (coreOf x) fun q => q.tileWr (g.trow + i) g.tcol (List.replicate g.ncols 0)) s
  if st then s.upCore (coreOf x) fun q => { q with tstatus := 0 } else s

/-- MX_TILE_CMD_COMPLETE: the tile command at the head of the queue is performed, whole and at one moment. DESIGN CHOICE, log entry 61. -/
def execMxTileCmdComplete (x : Nat) (s : State) : Host.Outcome State Fault Refusal :=
  .next <|
    if (s.kidOf x).any s.killed then s
    else match (s.ctx x).mxq with
    | [] => s
    | m :: _ =>
      let core := s.core (coreOf x)
      let off := fun (a : W64) => (s.ctx x).spbase + a.toNat
      match m.kind with
      | .go _ => s
      | .ld a b st =>
        match regionOf b with
        | none => s
        | some g =>
          if core.spPoisoned (off a) (regionBytes b st) then (s.mxFail x (s.mxPoison (coreOf x))).draw
          else (s.mxLoad x a.toNat g st).tileDone x m
      | .st a b st =>
        match regionOf b with
        | none => s
        | some g =>
          if (List.range g.nrows).any fun i => core.tilePoisoned (g.trow + i) g.tcol g.ncols then
            (s.mxFail x (s.mxPoison (coreOf x))).draw
          else (s.mxStore x a.toNat g st).tileDone x m
      | .z b st =>
        match regionOf b with
        | none => s
        | some g => (s.mxZeroes x g st).tileDone x m

/-- MX_JOIN_EFFECT: the join takes effect once the earlier tile commands are performed and both contexts run the same kernel
(10 R218). -/
def execMxJoinEffect (x : Nat) (s : State) : Host.Outcome State Fault Refusal :=
  .next <|
    if (s.ctx x).join = .pending 0 ∧ (s.core (coreOf x)).claim = some x ∧ s.kidOf x = s.kidOf (x - 2) then
      s.upCtx x fun c => { c with join := .inEffect }
    else s

end Sys2Proof.Machine
end

