-- ==== Sys2Proof/Machine/Fabric.lean ====
section
/-! DEFINITION. Operations over the fabric's state: direct links, slots and frames, Ephemeris entries, routing, keys, control
messages, event records (13 R291 to R299, R313, R317; 14 R332, R340, R341). -/

namespace Sys2Proof.Machine

/-- Changes the fabric. -/
def State.upFab (s : State) (f : Fabric → Fabric) : State := { s with fab := f s.fab }

/-! ## Reach (13 R292) -/

/-- A reach entry as it counts: node and receiving port. -/
def Fabric.reachAt (f : Fabric) (me : BitVec 13) (p k : Nat) : Option (BitVec 13 × Nat) :=
  let w := f.reach.get 0 (64 * p + k % 64)
  let n : BitVec 13 := BitVec.ofNat 13 (bf w 0 13)
  if bitOf w 31 && n != me then some (n, bf w 16 4) else none

/-- The direct link (p, k): of two lines of a port that reach one node, only the lower is one. -/
def Fabric.direct (f : Fabric) (me : BitVec 13) (p k : Nat) : Option (BitVec 13 × Nat) :=
  match f.reachAt me p k with
  | none => none
  | some e => if (List.range (k % 64)).any fun j => (f.reachAt me p j).any fun d => d.1 == e.1 then none else some e

/-- The comb line of port `p` whose direct link reaches `n`. -/
def Fabric.lineTo (f : Fabric) (me : BitVec 13) (p : Nat) (n : BitVec 13) : Option Nat :=
  (List.range 64).find? fun k => (f.direct me p k).any fun e => e.1 == n

/-! ## Sidereal time (13 R293) -/

/-- Frame, slot and tick of a Sidereal count. -/
def frameOf (t : W64) : Nat := t.toNat / 65536
def slotOf (t : W64) : Nat := t.toNat / 1024 % 64
def tickOf (t : W64) : Nat := t.toNat % 1024

/-- Current frame and slot. -/
def State.frame (s : State) : Nat := frameOf s.sys.sidt
def State.slot (s : State) : Nat := slotOf s.sys.sidt

/-- The guard of the slot is over: emitters may send (13 R293). -/
def State.window? (s : State) : Bool := decide (48 ≤ tickOf s.sys.sidt)

/-! ## The Ephemeris (13 R295 to R299) -/

/-- Number of an entry. -/
def ephIdx (p sl c : Nat) : Nat := (64 * p + sl) * 36 + c

/-- An Ephemeris entry. -/
def ephWord (line use lid : Nat) : W32 := BitVec.ofNat 32 (line % 128 + 256 * use + 65536 * lid)

/-- The entry that reset and a disabled fabric give (R297). -/
def rotorEntry (i : Nat) : W32 :=
  let c := i % 36 % 18
  if c < 16 then ephWord (16 * (i / 36 % 64 % 4) + c) 1 0 else 0

/-- An entry of bank `b`. -/
def Fabric.entry (f : Fabric) (b : Bool) (i : Nat) : W32 :=
  ((if b then f.eph1 else f.eph0).get none i).getD (rotorEntry i)

/-- The active entry of channel `c` of port `p` in slot `sl`. -/
def Fabric.active (f : Fabric) (p sl c : Nat) : W32 := f.entry f.ephAct (ephIdx p sl c)

/-- LINE and USE of an entry. -/
def ephLine (w : W32) : Nat := bf w 0 7
def ephUse (w : W32) : Nat := bf w 8 2

/-- The slot group of a leasable slot. -/
def slotGroup (sl : Nat) : Option Nat := if sl < 16 then none else some ((sl - 16) / 8)

/-- The slot lies in one of the groups. -/
def inGroups (gs : BitVec 6) (sl : Nat) : Bool := (slotGroup sl).any fun g => gs.getLsbD g

/-! ## Repairs and displacements in effect (13 R300; 14 R335) -/

/-- The marks of port `p` that hold in frame `fr`, newest first. -/
def Fabric.marksAt (f : Fabric) (fr p : Nat) : List MarkWhat :=
  ((f.marks.filter fun m => m.port == p && decide (m.fr ≤ fr)).map (·.what)).reverse

/-- The channel that stands in for channel `c`: a spare, or itself. -/
def Fabric.serves (f : Fabric) (fr p c : Nat) : Nat :=
  ((f.marksAt fr p).findSome? fun m => match m with | .spare b d => if d = c then some b else none | _ => none).getD c

/-- The channel whose part channel `ch` plays: a spare's is the one that it stands in for; a replaced one has none. -/
def Fabric.plays (f : Fabric) (fr p ch : Nat) : Option Nat :=
  if ch % 18 < 16 then (if f.serves fr p ch = ch then some ch else none)
  else ((f.marksAt fr p).findSome? fun m => match m with | .spare b d => if b = ch then some d else none | _ => none).filter fun d =>
    f.serves fr p d == ch

/-- Channel `c` has been removed. -/
def Fabric.chGone (f : Fabric) (fr p c : Nat) : Bool := (f.marksAt fr p).contains (.chGone c)

/-- The comb line that serves the port's own line `k`; none once it has been removed. -/
def Fabric.ownLine (f : Fabric) (fr p k : Nat) : Option Nat :=
  ((f.marksAt fr p).findSome? fun m => match m with
    | .line j sec => if j = k then some (some (if sec then k + 64 else k)) else none
    | .lineGone j => if j = k then some none else none
    | _ => none).getD (some k)

/-- The comb line that serves line `k` as it arrives at the port. -/
def Fabric.inLine (f : Fabric) (fr p k : Nat) : Option Nat :=
  ((f.marksAt fr p).findSome? fun m => match m with
    | .inLine j sec => if j = k then some (some (if sec then k + 64 else k)) else none
    | .inGone j => if j = k then some none else none
    | _ => none).getD (some k)

/-- The groups in which a receiver has displaced the port's comb line `k`. -/
def Fabric.displacedAt (f : Fabric) (fr p k : Nat) : BitVec 6 :=
  ((f.marksAt fr p).findSome? fun m => match m with | .displaced j gs => if j = k then some gs else none | _ => none).getD 0

/-- The comb line that serves line `k`. -/
def Fabric.servedLine (f : Fabric) (fr p k : Nat) : Nat := (f.ownLine fr p k).getD k

/-! ## What the Ephemeris holds in a frame (13 R295 to R300) -/

/-- The port of lease is in effect in frame `fr`, as far as is known. -/
def LPort.holds (q : LPort) (fr : Nat) : Bool :=
  (q.st == .granted || q.st == .inEffect) && decide (q.eff ≤ fr) && !(q.fin.any fun e => decide (e.1 ≤ fr))

/-- An incoming lease is in effect in frame `fr`, as far as is known. -/
def Incoming.holds (c : Incoming) (fr : Nat) : Bool := !c.held && decide (c.eff ≤ fr) && decide (fr < c.fin)

/-- The lease that pins emitter `c` of port `p` in slot `sl` of frame `fr`: LID and primary line. -/
def Fabric.emitLease (f : Fabric) (fr p sl c : Nat) : Option (Nat × Nat) :=
  ((f.leases.findSome? fun e => e.2.bind fun v =>
      (v.ports.find? fun q => q.port == p && q.line % 16 == c && q.holds fr && inGroups q.groups sl).map fun q => (e.1, q.line)).or
    (f.incoming.findSome? fun i => match i.onward with
      | some (_, op, ol) => if op = p ∧ ol % 16 = c ∧ i.holds fr ∧ inGroups i.groups sl then some (i.lid, ol) else none
      | none => none))

/-- The port of an outgoing lease that pins emitter `c` of port `p` in slot `sl` of frame `fr`, or the forwarder's part of one: the lease's
peer and its owner's key (13 R306). -/
def Fabric.pinPeer (f : Fabric) (fr p sl c : Nat) : Option (BitVec 13 × BitVec 16) :=
  (f.leases.findSome? fun e => e.2.bind fun v =>
      (v.ports.find? fun q => q.port == p && q.line % 16 == c && q.holds fr && inGroups q.groups sl).map fun _ => (v.peer, v.pkey)).or
    (f.incoming.findSome? fun i => match i.onward with
      | some (n, op, ol) => if op = p ∧ ol % 16 = c ∧ i.holds fr ∧ inGroups i.groups sl then some (n, i.pkey) else none
      | none => none)

/-- The entry of emitter or detector `ch` in slot `sl` of frame `fr`. DESIGN CHOICE, log entry 40. -/
def Fabric.entryAt (f : Fabric) (fr p sl ch : Nat) : W32 :=
  match f.plays fr p ch with
  | none => 0
  | some own =>
    if f.chGone fr p ch then 0
    else
      let c := own % 18
      let l := 16 * (sl % 4) + c
      let rotor := fun (k : Option Nat) => match k with | some k => ephWord k (if k < 64 then 1 else 3) 0 | none => 0
      if ch < 18 then
        match f.emitLease fr p sl c with
        | some (lid, k) => ((f.ownLine fr p k).map fun k => ephWord k 2 lid).getD 0
        | none => if inGroups (f.displacedAt fr p l) sl then 0 else rotor (f.ownLine fr p l)
      else
        match f.incoming.find? fun i => i.rport == p && i.line % 16 == c && i.holds fr && inGroups i.groups sl with
        | some i => ((f.inLine fr p i.line).map fun k => ephWord k 2 i.lid).getD 0
        | none => rotor (f.inLine fr p l)

/-- Ports that anything but the rotor schedule touches. -/
def Fabric.touched (f : Fabric) (p : Nat) : Bool :=
  (f.marks.any fun m => m.port == p) || (f.incoming.any fun i => i.rport == p || i.onward.any fun o => o.2.1 == p) ||
    (f.leases.any fun e => e.2.any fun v => v.ports.any fun q => q.port == p)

/-- The bank for frame `fr`, from what is known now: an entry that R297 gives is not listed. -/
def Fabric.bankFor (f : Fabric) (fr : Nat) : SMap (Option W32) :=
  ((List.range 16).filter f.touched).foldl (fun m p =>
    (List.range 2304).foldl (fun m i =>
      let w := f.entryAt fr p (i / 36) (i % 36)
      let j := 2304 * p + i
      m.set none j (if w = rotorEntry j then none else some w)) m) []

/-- Replaces the shadow bank by the bank for frame `fr`. -/
def Fabric.prepare (f : Fabric) (fr : Nat) : Fabric :=
  if f.ephAct then { f with eph0 := f.bankFor fr } else { f with eph1 := f.bankFor fr }

/-! ## Light and service -/

/-- Comb line `k` of port `p` carries light as far as the device knows: a secondary one only with a working spare comb (01 R20). -/
def Fabric.lineLit (f : Fabric) (p k : Nat) : Bool := !f.dark.get false (128 * p + k) && !(decide (64 ≤ k) && f.spcDark.get false p)

/-- A spare comb serves port `p` with light, on every secondary line that is not in use (14 R332). -/
def Fabric.spareLit (f : Fabric) (fr p : Nat) : Bool :=
  !f.spcDark.get false p && (List.range 64).all fun k => !f.dark.get false (128 * p + 64 + k) || f.ownLine fr p k == some (k + 64)

/-- Channel `c` of port `p` holds lock. -/
def Fabric.chLive (f : Fabric) (p c : Nat) : Bool := !f.unlocked.get false (36 * p + c)

/-- Port `p` sends and receives. -/
def Fabric.portOn (f : Fabric) (p : Nat) : Bool := f.en && f.portEn.getLsbD p

/-- Link `l` = 64 × port + line. -/
def Fabric.link (f : Fabric) (l : Nat) : Link := f.links.get Link.init l
/-- Changes a link. -/
def Fabric.upLink (f : Fabric) (l : Nat) (g : Link → Link) : Fabric := { f with links := f.links.put l (g (f.link l)) }

/-! ## Routing (13 R313) -/

/-- Active routing entry of node `n`: direct ports, and candidates; `none` where V is 0. -/
def Fabric.route (f : Fabric) (n : BitVec 13) : Option (BitVec 16 × List (BitVec 13)) :=
  let w := f.rtA.get 0 n.toNat
  if bitOf w 23 then
    some (BitVec.ofNat 16 (bf w 0 16), (List.range (min 4 (bf w 16 3))).map fun i => BitVec.ofNat 13 (bf w (32 + 16 * i) 13))
  else none

/-- Direct ports of node `n` that have a direct link to it. -/
def Fabric.directPorts (f : Fabric) (me n : BitVec 13) : List Nat :=
  match f.route n with
  | some (d, _) => (List.range 16).filter fun p => d.getLsbD p && (f.lineTo me p n).isSome
  | none => []

/-- Candidates of node `n`. -/
def Fabric.cands (f : Fabric) (n : BitVec 13) : List (BitVec 13) := (f.route n).elim [] (·.2)

/-- The table gives some path to `n`. -/
def Fabric.routed (f : Fabric) (me n : BitVec 13) : Bool := !(f.directPorts me n).isEmpty || !(f.cands n).isEmpty

/-! ## Links that stand (14 R332) -/

/-- The comb line `k` of port `p` can carry flits now. -/
def State.linkUp (s : State) (p k : Nat) : Bool :=
  let f := s.fab
  let fr := s.frame
  let c := f.serves fr p (k % 16)
  f.portOn p && !f.lossTold.get false (128 * p + k % 64) && f.chLive p c && !f.chGone fr p c &&
    (match f.ownLine fr p (k % 64) with | some j => f.lineLit p j | none => false)

/-- The direct links to `n` that stand: port and line. -/
def State.linksTo (s : State) (n : BitVec 13) : List (Nat × Nat) :=
  (List.range 16).filterMap fun p =>
    match s.fab.lineTo s.sys.nodeid p n with
    | some k => if s.linkUp p k then some (p, k) else none
    | none => none

/-- A port of a lease to `dst` that is in effect, with its lease. -/
def State.leasePorts (s : State) (dst : BitVec 13) : List (Lease × LPort) :=
  s.fab.leases.flatMap fun e => e.2.elim [] fun v => if v.peer = dst then (v.ports.filter (·.holds s.frame)).map fun q => (v, q) else []

/-- The lease ports to `dst` whose line stands. -/
def State.leaseStands (s : State) (dst : BitVec 13) : List (Lease × LPort) := (s.leasePorts dst).filter fun e => s.linkUp e.2.port e.2.line

/-- Port `p` may carry a flit: any flit where it is not secure, else one that is known to be a secure kernel's (17 R388). -/
def State.carries (s : State) (p : Nat) (sec : Bool) : Bool := sec || !s.sys.worldPort.get false p

/-- Some path for a flit of hop class `hc` to `n` survives on ports that may carry it: a direct link of the routing entry's ports or of a
lease, or one to a candidate or a lease's forwarder, which a flit that has made two hops may not take (13 R310, R313, R314). -/
def State.pathTo (s : State) (n : BitVec 13) (hc : Nat) (sec : Bool) : Bool :=
  ((s.linksTo n).any fun e => s.carries e.1 sec && (s.fab.directPorts s.sys.nodeid n).contains e.1) ||
    ((s.leaseStands n).any fun e => s.carries e.2.port sec && (decide (hc ≤ 1) || e.2.fwd.isNone)) ||
    (decide (hc ≤ 1) && (s.fab.cands n).any fun c => (s.linksTo c).any fun e => s.carries e.1 sec)

/-- The last TIME flit of node `n` showed SYNC = 1 (13 R294). -/
def State.heard (s : State) (n : BitVec 13) : Bool := s.fab.nodeSync.get false n.toNat

/-- A control flit can reach `n` now: by a direct link, or through a candidate. -/
def State.tellable (s : State) (n : BitVec 13) : Bool :=
  (s.heard n && !(s.linksTo n).isEmpty) || (s.fab.cands n).any fun c => s.heard c && !(s.linksTo c).isEmpty

/-! ## Partition keys (13 R317, R318) -/

/-- The valid membership entries of a key. -/
def Fabric.keyEntries (f : Fabric) (key : BitVec 16) : List W32 :=
  if key = 0 then []
  else ((List.range 256).map fun i => f.member.get 0x180000#32 i).filter fun w => bitOf w 31 && bf w 0 16 == key.toNat

/-- The valid membership entry of a key: the first one. -/
def Fabric.keyEntry (f : Fabric) (key : BitVec 16) : Option W32 := (f.keyEntries key).head?

/-- A flit or request with this key matches. -/
def Fabric.keyOk (f : Fabric) (key : BitVec 16) : Bool := (f.keyEntry key).isSome

/-! ## Messages that leave -/

/-- A message leaves the device. DESIGN CHOICE, log entry 38. -/
def State.put (s : State) (m : FabMsg) : State := s.upFab fun f => { f with wire := m :: f.wire }

/-- A control message waits for its slot. -/
def State.queueCtl (s : State) (fr lo hi : Nat) (line : Option Nat) (m : FabMsg) : State :=
  s.upFab fun f => { f with ctlq := f.ctlq ++ [⟨fr, lo, hi, line, s.sys.sidt, m⟩] }

/-- The node that a message goes to, as far as the device knows it: of a message about a link, the node whose flits arrive there. -/
def FabMsg.to (f : Fabric) : FabMsg → Option (BitVec 13)
  | .flit .. | .time .. => none
  | .linkAck p k .. | .displace p k .. => (f.link (64 * p + k % 64)).peer
  | .performed d .. | .answer d .. | .confirm d .. | .release d .. | .revoke d .. | .cancel d .. | .skew d .. | .rhead d .. => some d
  | .request r => some r.dst
  | .loss d .. | .subst d .. | .remove d .. => d
  | .replay .. => none
  | .announce n .. | .admission n .. | .finished n .. | .abort n .. | .rfwd n .. | .slotFree n .. => some n

/-- A message may leave now: in the data window, with SYNC, to a node that shows SYNC and that some path reaches (13 R293, R294, R306). -/
def State.canLeave (s : State) (m : FabMsg) : Bool :=
  s.fab.en && s.fab.sync && s.window? && (m.to s.fab).all s.tellable

/-- A message goes out on any path: now, or at the next sending opportunity. -/
def State.emit (s : State) (m : FabMsg) : State := if s.canLeave m then s.put m else s.queueCtl s.frame 0 63 none m

/-! ## Event records (14 R340, R341) -/

/-- A field with a valid bit in bit `v`. -/
def optField (x : Option Nat) (v : Nat) : Nat := match x with | some x => x + 2 ^ v | none => 0

/-- The 64 bytes of a record with sequence number `seq`. -/
def EvRec.bytes (e : EvRec) (seq : W32) (lost : Bool) : List Byte :=
  natLe 2 e.type ++ natLe 1 e.port ++ natLe 1 e.chan ++ natLe 1 (optField e.line 7) ++ natLe 1 (optField e.nline 7) ++
    natLe 2 (optField e.lid 15) ++ natLe 8 e.tdet.toNat ++ natLe 8 e.tact.toNat ++ natLe 2 e.peer ++ natLe 2 e.pkey ++
    natLe 4 seq.toNat ++ natLe 4 e.replayed ++ natLe 2 e.pbefore ++ natLe 2 e.pafter ++ natLe 4 e.frame ++
    natLe 1 (b2n e.notice + 2 * b2n e.host + 4 * b2n lost) ++ natLe 19 0

/-- Generates an event record: SEQ counts it; a full or disabled ring, or an address that may not be written, loses it, which
the next record says. -/
def State.event (s : State) (e : EvRec) : State :=
  let r := s.sys.ev
  let pa := r.next 64
  if r.room && s.recWritable pa then
    ((s.wr tagDevice pa (e.bytes s.sys.evSeq (s.sys.evLost != 0))).upSys fun y => { y with
      ev := { y.ev with tail := y.ev.tail + 1 }, evSeq := y.evSeq + 1, evLost := 0 }).msi r.vec
  else s.upSys fun y => { y with evSeq := y.evSeq + 1, evLost := 1 }

/-- An event record of this moment. -/
def State.ev (s : State) (type : Nat) : EvRec := { type := type, tdet := s.sys.sidt, tact := s.sys.sidt, frame := s.frame }

end Sys2Proof.Machine
end

