-- ==== Sys2Proof/Machine/FabricInstr.lean ====
section
/-! DEFINITION. Fabric and collective instructions: BWREQ, BWREL, BWQRY, PUTS, RELS, LRSET, FABST, COLL, COLLQ
(13 R319 to R327; 15 R344 to R353). -/

namespace Sys2Proof.Machine

/-! ## Leases (13 R304, R324 to R326) -/

/-- Lease `l` of the table. -/
def Fabric.lease (f : Fabric) (l : Nat) : Option Lease := f.leases.get none l

/-- Writes an entry of the lease table. -/
def State.setLease (s : State) (l : Nat) (v : Option Lease) : State :=
  s.upFab fun f => { f with leases := f.leases.set none l v }

/-- A port of a new lease: its line, or its forwarder and the line to it; `over` with NOROUTE where there is neither. -/
def State.newPort (s : State) (peer : BitVec 13) (retry p : Nat) : LPort :=
  let me := s.sys.nodeid
  let base : LPort := { port := p, st := .requesting, groups := 0, fwd := none, line := 0, eff := 0, fin := none, age := 0
                        retry := retry, from_ := s.frame + 1, sent := none, offer := 0, held := false, noOrd := none }
  match s.fab.lineTo me p peer with
  | some k => { base with line := k }
  | none =>
    match (s.fab.cands peer).findSome? fun n => (s.fab.lineTo me p n).map fun k => (n, k) with
    | some (n, k) => { base with fwd := some n, line := k }
    | none => { base with st := .over, fin := some (s.frame, .noroute) }

/-- Settles a lease whose every port has been granted or has failed, and ends one whose every port is over (R304). -/
def State.leaseCheck (s : State) (l : Nat) : State :=
  match s.fab.lease l with
  | none => s
  | some v =>
    let open_ := v.ports.any fun p => p.st == .requesting
    let allOver := v.ports.all fun p => p.st == .over
    let s := if !v.settled && !open_ then (s.setLease l (some { v with settled := true })).arrive v.core v.arr none else s
    let v := { v with settled := v.settled || !open_ }
    if allOver && !v.finished then
      let s := if v.took then s.arrive v.core ((v.endArr.getD none).or v.arr) none else s
      s.setLease l (if v.orphan || (v.why == .released && v.took) then none else some { v with finished := true })
    else s

/-- WHY of a lease after its ports were made: NOROUTE where one has no route. -/
def Lease.firstWhy (ps : List LPort) : Why := if ps.any fun p => p.st == .over then .noroute else .none

/-- BADARG of BWREQ. -/
def bwBad (me : BitVec 13) (a b : W64) : Bool :=
  bf a 13 3 != 0 || bf a 19 5 != 0 || bf a 28 4 != 0 || bf a 48 16 != 0 || bf b 22 42 != 0 || bf a 0 13 == me.toNat ||
    bf a 16 3 == 0 || bf a 16 3 == 7 || bf a 32 16 == 0 || bf b 0 16 == 0 ||
    (bf b 16 6 != 0 && popCount (BitVec.ofNat 6 (bf b 16 6)) != bf a 16 3)

/-- BWREQ for context `x`: state and status. -/
def State.bwreq (s : State) (x : Nat) (a b : W64) (arr : Option Arrive) : State × Int :=
  let f := s.fab
  let key := (s.ctx x).pkey
  let ports := (List.range 16).filter fun p => bitOf b p
  if bwBad s.sys.nodeid a b then (s, -1)
  else if !f.sync || ports.any fun p => !f.portEn.getLsbD p then (s, -4)
  else if !((f.keyEntries key).any fun w => bitOf w 23) then (s, -3)
  else match (List.range 256).find? fun l => (f.lease l).isNone with
    | none => (s, -2)
    | some l =>
      let peer : BitVec 13 := BitVec.ofNat 13 (bf a 0 13)
      let ps := ports.map fun p => s.newPort peer (bf a 24 4) p
      let v : Lease := { kid := (s.kidOf x).getD 0, core := coreOf x, seq := f.leaseSeq, peer := peer, pkey := key
                         qpp := bf a 16 3, frames := bf a 32 16, gmask := BitVec.ofNat 6 (bf b 16 6), ports := ps, arr := arr
                         endArr := none, settled := false, took := false, why := Lease.firstWhy ps, rel := false
                         orphan := false, finished := false }
      (((s.setLease l (some v)).upFab fun f => { f with leaseSeq := f.leaseSeq + 1 }).leaseCheck l, (l : Int))

def effBwreq (c a b : Fin 32) (h : Hnd) : Eff := effE (some c) fun i o =>
  capture i h fun arr =>
    let r := o.s.bwreq i.x (i.rS a) (i.rS b) arr
    .ok ({ o with s := r.1 }.ans c (w64 r.2))

/-- A release notice for every port that has not ended waits for its floor slot (R304). -/
def State.sendReleases (s : State) (l : Nat) (v : Lease) : State :=
  (v.ports.filter fun p => p.st != .over).foldl (fun s p =>
    s.queueCtl s.frame 0 (if p.fwd.isSome then 7 else 11) (some p.line) (.release (p.fwd.getD v.peer) s.sys.nodeid l p.port)) s

def effBwrel (a : Fin 32) (h : Hnd) : Eff := effE none fun i o =>
  capture i h fun arr =>
    let l := bf (i.rS a) 0 8
    match o.s.fab.lease l with
    | none => .ok o
    | some v =>
      if bf (i.rS a) 8 56 ≠ 0 ∨ some v.kid ≠ i.s.kidOf i.x then .ok o
      else if v.finished then .ok { o with s := o.s.setLease l none }
      else
        let s := o.s.setLease l (some { v with rel := true, endArr := some arr })
        .ok { o with s := if v.rel then s else s.sendReleases l v }

/-- WHY's code. -/
def whyCode : Why → Nat
  | .none => 0 | .denied => 1 | .timeout => 2 | .revoked => 3 | .repaired => 4 | .expired => 5 | .released => 6 | .noroute => 7

/-- A port in effect or awaiting effect whose end is already decided by a notice. -/
def LPort.ending (v : Lease) (p : LPort) : Bool :=
  v.rel || (match p.fin with | some (_, w) => w != .expired | none => false)

/-- STATE of a lease. -/
def Lease.state (v : Lease) : Nat :=
  if v.ports.any fun p => p.st == .requesting then 1
  else if v.ports.any fun p => p.st == .granted then 2
  else if v.ports.any fun p => p.st == .inEffect && !p.ending v then 3
  else if v.ports.any fun p => p.st == .inEffect then 4
  else 5

/-- Ports granted and not ended. -/
def Lease.live (v : Lease) : List LPort := v.ports.filter fun p => p.st == .granted || p.st == .inEffect

/-- The earliest frame of effect among the ports that were granted. -/
def Lease.effect (v : Lease) : Nat :=
  ((v.ports.filter fun p => p.groups != 0).map (·.eff)).foldl (fun a e => if a = 0 ∨ e < a then e else a) 0

/-- Summary word. -/
def Lease.summary (v : Lease) : W64 :=
  BitVec.ofNat 64 (v.state + 8 * whyCode v.why + 65536 * ((v.live.map fun p => 2 ^ p.port).foldl (· + ·) 0) +
    2 ^ 32 * (v.effect % 2 ^ 32))

/-- Detail word of port `p`. -/
def State.leaseDetail (s : State) (v : Lease) (p : Nat) : W64 :=
  match v.live.find? fun q => q.port == p with
  | none => 0
  | some q => BitVec.ofNat 64 (q.groups.toNat + 64 * b2n q.fwd.isSome + 256 * s.fab.servedLine s.frame p q.line +
      65536 * (q.fwd.elim 0 (·.toNat)) + 2 ^ 32 * (s.fab.serves s.frame p (q.line % 16) % 16))

def effBwqry (c a : Fin 32) : Eff := effE (some c) fun i o =>
  let w := i.rS a
  .ok (o.ans c (match i.s.fab.lease (bf w 0 8) with
    | none => 0
    | some v =>
      if some v.kid ≠ i.s.kidOf i.x then 0
      else if bitOf w 15 then i.s.leaseDetail v (bf w 8 4) else v.summary))

/-! ## Landing rings (13 R319 to R323) -/

/-- Landing ring `r`. -/
def Fabric.ring (f : Fabric) (r : Nat) : Option LandRing := f.rings.get none r
/-- Writes a landing ring. -/
def State.setRing (s : State) (r : Nat) (v : Option LandRing) : State := s.upFab fun f => { f with rings := f.rings.set none r v }

/-- The 64 KiB units that `n` bytes at `a` touch. -/
def units64 (a n : Nat) : List Nat := (List.range ((a + n - 1) / 65536 + 1 - a / 65536)).map (a / 65536 + ·)

/-- Every page of the range translates with W and is no value page. -/
def State.rxPages (s : State) (x a n : Nat) : Bool :=
  (units64 a n).all fun u =>
    let va := max a (65536 * u)
    decide (va < 2 ^ 48) && match (s.translate (coreOf x) (s.asidOf x) (s.worldOf x) .write va).2 with
      | .ok t => !(t.cell && !t.raw)
      | .error _ => false

/-- A landing record from its bytes, and whether a reserved bit or a field breaks R319; `h` is RX's handle. -/
def State.landRec (s : State) (x : Nat) (bs : List Byte) (arr : Option Arrive) : Nat × LandRing × Bool :=
  let f := fun o n => leNat ((bs.drop o).take n)
  let tx := f 2 1 % 2 == 1
  let bad := f 0 2 / 1024 != 0 || f 2 1 / 2 != 0 || f 3 1 != 0 || f 4 2 / 8192 != 0 || f 6 2 / 1024 != 0 ||
    f 8 4 % 256 != 0 || f 8 4 == 0 || decide (65536 < f 8 4) || f 12 4 == 0 || decide (65536 < f 12 4) || f 24 8 != 0 ||
    (if tx then f 16 8 != 0 else f 16 8 % 256 != 0 || decide (2 ^ 48 ≤ f 16 8) || arr.isNone)
  (f 0 2 % 1024,
   { kid := (s.kidOf x).getD 0, core := coreOf x, asid := s.asidOf x, tx := tx, peer := BitVec.ofNat 13 (f 4 2)
     plrid := f 6 2, slotsz := f 8 4, nslot := f 12 4, base := f 16 8, a := 0, b := 0, arr := arr, landing := [] }, bad)

/-- A ring that LRSET may not set again: another kernel's, or busy. -/
def LandRing.taken (r : LandRing) (kid : Option Nat) : Bool :=
  some r.kid != kid || (r.tx && r.a != r.b) || !r.landing.isEmpty

def effLrset (c a : Fin 32) (h : Hnd) : Eff := effE (some c) fun i o =>
  withSp i (i.rS a) 32 32 fun x =>
    if i.poisoned x 32 then poisonTrap i
    else capture i h fun arr =>
      let r := i.s.landRec i.x (i.local x 32) arr
      let v := r.2.1
      .ok (if r.2.2 then o.ans c (-1)
        else if (i.s.fab.ring r.1).any fun q => q.taken (i.s.kidOf i.x) then o.ans c (-2)
        else if !v.tx && !i.s.rxPages i.x v.base (v.slotsz * v.nslot) then o.ans c (-3)
        else { o with s := o.s.setRing r.1 (some v) }.ans c 0)

/-- The ring that a register names, if it is one of the kernel's of that role. -/
def Iss.landRing (i : Iss) (w : W64) (tx : Bool) : Option (Nat × LandRing) :=
  if bf w 10 54 != 0 then none
  else match i.s.fab.ring (bf w 0 10) with
    | some r => if r.tx == tx && some r.kid == i.s.kidOf i.x then some (bf w 0 10, r) else none
    | none => none

/-- PUTS (R320): a copy to the peer of the TX ring, whose slot is taken at issue. -/
def effPuts (l : CopyLend) (a b c : Fin 32) (h : Hnd) : Eff := effE none fun i o =>
  let w := lenWord (i.rS c)
  let r := i.landRing (i.rS a) true
  let dst : W64 := BitVec.ofNat 64 (2 ^ 63 + 2 ^ 48 * (r.elim 0 fun q => q.2.peer.toNat))
  let q : CopyReq := ⟨0x33, dst, some (i.rS b), w.1, w.2⟩
  let form := trapAt i .engineFault (engInfo 0 0x20 0x33)
  match formFault i q, r with
  | some _, _ => issueCopy i o q l h (i.rS b) (i.rS c)
  | none, none => form
  | none, some (n, ring) =>
    if ring.slotsz < w.1.len + 16 ∨ w.1.ring.isSome then form
    else
      match issueCopy i o q l h (i.rS b) (i.rS c) with
      | .ok o =>
        if w.1.len = 0 then .ok o
        else .ok { o with
          s := (o.s.setRing n (some { ring with b := ring.b + 1 })).upCore (coreOf i.x) fun k =>
            { k with copies := k.copies.modify (k.copies.length - 1) fun d => { d with slot := some (n, ring.b) } } }
      | e => e

/-- RELS (R322). -/
def effRels (a b : Fin 32) : Eff := effE none fun i o =>
  let n := (i.rS b).toNat
  match i.landRing (i.rS a) false with
  | none => trapAt i .engineFault (engInfo 0 0x20 0x34)
  | some (r, v) =>
    if (v.b - v.a).toNat < n then trapAt i .engineFault (engInfo 0 0x20 0x34)
    else if n = 0 then .ok o
    else if (i.c.pends.any fun p => match p.what with | .load .. => true | _ => false) ||
        (i.s.core (coreOf i.x)).copies.any fun d => d.ctx == i.x then waitFor i 12
    else
      let head := v.a + BitVec.ofNat 32 n
      .ok { o with s := (o.s.setRing r (some { v with a := head })).queueCtl 0 0 63 none (.rhead v.peer v.plrid head) }

/-! ## FABST (13 R327) -/

/-- The bits `i` of a list that hold, from bit `lo` on. -/
def bitsAt (lo : Nat) (is : List Nat) (p : Nat → Bool) : Nat :=
  ((is.filter p).map fun i => 2 ^ (lo + i)).foldl (· + ·) 0

/-- Emitter `c` is live: it holds lock, and nothing stands against the comb lines to which this frame tunes it. -/
def Fabric.emitLive (f : Fabric) (p c : Nat) : Bool :=
  f.chLive p c && (List.range 64).all fun sl => let w := f.active p sl c; ephUse w == 0 || f.lineLit p (ephLine w)

/-- Detector `c` (channel 18 + c) is in service: not removed, and under no LOS that a swap has not resolved. -/
def Fabric.detLive (f : Fabric) (fr p c : Nat) : Bool :=
  !f.chGone fr p (18 + c) && (!f.los.get false (36 * p + 18 + c) || f.serves fr p (18 + c) != 18 + c)

/-- Item 1 for port `p`: of a port that does not send and receive, every field stands as reset leaves it but PEN. -/
def Fabric.portWord (f : Fabric) (fr p : Nat) : Nat :=
  if !f.portOn p then 2 ^ 37 * b2n (f.portEn.getLsbD p)
  else
  bitsAt 0 (List.range 16) (f.emitLive p) + bitsAt 16 (List.range 2) (fun j => f.chLive p (16 + j) && !f.chGone fr p (16 + j)) +
    bitsAt 18 (List.range 16) (f.detLive fr p) +
    bitsAt 34 (List.range 2) (fun j => f.chLive p (34 + j) && !f.chGone fr p (34 + j)) +
    2 ^ 36 * b2n (f.spareLit fr p) + 2 ^ 37 * b2n (f.portEn.getLsbD p)

/-- The word of FABST. -/
def State.fabst (s : State) (w : W64) : W64 :=
  let f := s.fab
  BitVec.ofNat 64 (match bf w 0 4 with
    | 0 => s.sys.nodeid.toNat + 2 ^ 13 * b2n f.sync + 2 ^ 14 * b2n f.en + 2 ^ 15 * b2n f.rtPend +
        65536 * min 255 ((List.range 256).filter fun l => (f.lease l).isSome).length + 2 ^ 32 * (s.frame % 2 ^ 32)
    | 1 => f.portWord s.frame (bf w 4 4)
    | _ => 0)

def effFabst (c a : Fin 32) : Eff := effE (some c) fun i o => .ok (o.ans c (i.s.fabst (i.rS a)))

/-! ## Collectives (15 R344, R348, R352, R353) -/

/-- Orrery of die `d`. -/
def State.orrery (s : State) (d : Nat) : Orrery := s.orreries.get Orrery.init d
/-- Changes an Orrery. -/
def State.upOrrery (s : State) (d : Nat) (f : Orrery → Orrery) : State :=
  { s with orreries := s.orreries.put d (f (s.orrery d)) }
/-- Ticket `t` of an Orrery. -/
def Orrery.ticket (o : Orrery) (t : Nat) : Option Ticket := o.tickets.get none t
/-- Changes a ticket. -/
def State.upTicket (s : State) (d t : Nat) (f : Ticket → Option Ticket) : State :=
  match (s.orrery d).ticket t with
  | some v => s.upOrrery d fun o => { o with tickets := o.tickets.set none t (f v) }
  | none => s

/-- Element size of an EFMT. -/
def efmtSize (e : Nat) : Nat := match e with | 0 | 4 => 4 | 1 | 2 => 2 | _ => 1

/-- A collective record from its bytes. -/
def collOf (bs : List Byte) : Coll :=
  let f := fun o n => leNat ((bs.drop o).take n)
  let lv := fun j => Level.mk (f (64 + 32 * j) 4) (sx 64 (f (72 + 32 * j) 8)) (sx 64 (f (80 + 32 * j) 8)) (sx 32 (f (88 + 32 * j) 4))
  { comm := BitVec.ofNat 16 (f 4 2), gsize := f 6 2, key := BitVec.ofNat 64 (f 8 8), gtab := f 16 8, rank := f 24 2
    levels := (List.range (min 4 (f 26 1))).map lv, act := f 27 1, stage := f 28 4, rxslot := f 32 2, slotsz := f 34 2
    elems := f 36 4, sbase := BitVec.ofNat 64 (f 40 8), dbase := BitVec.ofNat 64 (f 48 8), pbase := sx 32 (f 0xC0 4)
    efmt := f 0xC4 1, rop := f 0xC5 1 }

/-- Bytes of a transfer. -/
def Coll.len (c : Coll) : Nat := c.elems * efmtSize c.efmt

/-- The record breaks R344. The contents of its reserved fields are ignored (00 R8), but for those of an unused level: R344 asks that the
words of a level at or past NLEV are all zero, which is taken as all 32 bytes, its two reserved words included. DEDUCED, log entry 45. -/
def collBad (bs : List Byte) : Bool :=
  let f := fun o n => leNat ((bs.drop o).take n)
  let c := collOf bs
  let n := f 26 1
  f 0 4 != 0x014C5A44 || c.gsize == 0 || decide (8192 < c.gsize) || c.gtab % 64 != 0 || decide (c.gsize ≤ c.rank) ||
    n == 0 || decide (4 < n) || decide (2 < c.act) || c.stage % 256 != 0 || decide (2 ^ 21 < c.stage) ||
    (if c.act = 2 then c.rxslot == 0 || decide (256 < c.rxslot) else c.rxslot != 0) ||
    c.slotsz == 0 || decide (64 < c.slotsz) || c.elems == 0 || decide (65536 < c.elems) ||
    ((List.range 4).any fun j =>
      if j < n then f (64 + 32 * j) 4 == 0 || decide (65535 < f (64 + 32 * j) 4) else f (64 + 32 * j) 32 != 0) ||
    decide (5 < c.efmt) ||
    (if c.act = 2 then decide (2 < c.rop) || !(c.efmt == 0 || c.efmt == 1 || c.efmt == 4) || decide (256 * c.slotsz < c.len)
      else c.rop != 0) ||
    (c.act == 1 && decide (3 < c.efmt)) || decide (c.stage < 256 * c.slotsz * c.rxslot + 8192)

/-- Reads `n` bytes at a device VA for an Orrery, in the address space and world of a kernel (15 R343): the bytes below the first
that cannot be read, be it for a fault, a value page or poison. -/
def State.orrRead (s : State) (asid : Nat) (world : Bool) (va n : Nat) : List Byte :=
  ((units64 va n).foldl (fun (acc : List Byte × Bool) u =>
    let a := max va (65536 * u)
    let m := min (va + n) (65536 * (u + 1)) - a
    if !acc.2 ∨ 2 ^ 48 ≤ a then (acc.1, false)
    else match (s.walk asid world a).bind fun x => s.permit world .read x a with
      | .error _ => (acc.1, false)
      | .ok x =>
        let k := ((List.range m).takeWhile fun j => (s.poisonAt (x.paOf a + j) 1).isNone).length
        if x.cell && !x.raw then (acc.1, false) else (acc.1 ++ s.rd (x.paOf a) k, k == m)) ([], true)).1

/-- A group table from its bytes: node and die of each rank. -/
def groupOfBytes : List Byte → List (BitVec 13 × Fin 4)
  | a :: b :: rest =>
    let w := a.toNat + 256 * b.toNat
    (BitVec.ofNat 13 w, Fin.ofNat 4 (w / 8192)) :: groupOfBytes rest
  | _ => []

/-- Some entry of a group table has its reserved bit set. -/
def groupReserved : List Byte → Bool
  | _ :: b :: rest => b.msb || groupReserved rest
  | _ => false

/-- A key becomes known at an Orrery (15 R348). -/
def Orrery.learn (o : Orrery) (key : W64) (comm : BitVec 16) : Orrery :=
  if o.known.contains (key, comm) then o else { o with known := o.known ++ [(key, comm)] }

/-- The ranks that a list of early arrivals holds for a key. -/
def ranksFor (key : W64) (comm : BitVec 16) (l : List (W64 × BitVec 16 × Nat)) : List Nat :=
  l.filterMap fun e => if e.1 = key ∧ e.2.1 = comm then some e.2.2 else none

/-- An arrival for a key whose COLL has not issued here, once for each rank. -/
def addRank (l : List (W64 × BitVec 16 × Nat)) (key : W64) (comm : BitVec 16) (rank : Nat) : List (W64 × BitVec 16 × Nat) :=
  if l.contains (key, comm, rank) then l else l ++ [(key, comm, rank)]

/-- What has arrived early for a key is taken, or dropped with it. -/
def Orrery.forget (o : Orrery) (key : W64) (comm : BitVec 16) : Orrery :=
  let other := fun (l : List (W64 × BitVec 16 × Nat)) => l.filter fun e => !(e.1 == key && e.2.1 == comm)
  { o with early := other o.early, earlyDone := other o.earlyDone }

/-- A collective is outstanding at an Orrery. -/
def Orrery.holds (o : Orrery) (key : W64) (comm : BitVec 16) : Option Nat :=
  (List.range 64).find? fun t => (o.ticket t).any fun v => v.coll.key == key && v.coll.comm == comm

/-- An ANNOUNCE that arrives: a key that is held here and admitted is not made known again. -/
def State.announce (s : State) (d : Nat) (comm : BitVec 16) (key : W64) : State :=
  let o := s.orrery d
  match (o.holds key comm).bind o.ticket with
  | some v => if v.admitted then s else s.upOrrery d (·.learn key comm)
  | none => s.upOrrery d (·.learn key comm)

/-- Says `m` to a member: inside the device where the node is this one. -/
def State.tellMember (s : State) (e : BitVec 13 × Fin 4) (loc : State → Nat → State) (m : FabMsg) : State :=
  if e.1 = s.sys.nodeid then loc s e.2.val else s.emit m

/-- Every earlier copy-engine command of the issuing context has completed. -/
def State.copiesBefore (s : State) (v : Ticket) : Bool :=
  !((s.core v.core).copies.any fun c => c.ctx == v.ctx && decide (c.id < v.id))

/-- The Orrery reads the group table and announces the key to its members: at issue, or, as a read of the Orrery, once every earlier
copy-engine command of the issuing context has completed (15 R347, R348). DESIGN CHOICE, log entry 45. -/
def State.collAnnounce (s : State) (d t : Nat) : State :=
  match (s.orrery d).ticket t with
  | none => s
  | some v =>
    if v.announced || !s.copiesBefore v then s
    else
      let g := groupOfBytes (s.orrRead v.asid v.world v.coll.gtab (2 * v.coll.gsize))
      g.foldl (fun s e => s.tellMember e (fun s d => s.announce d v.coll.comm v.coll.key) (.announce e.1 e.2 v.coll.comm v.coll.key))
        (s.upTicket d t fun v => some { v with group := g, announced := true })

/-- COLL by context `x` with the record `bs`: state and status. -/
def State.coll (s : State) (x : Nat) (bs : List Byte) (arr : Arrive) : State × Int :=
  let d := dieOf (coreOf x)
  let o := s.orrery d
  let c := collOf bs
  if collBad bs then (s, -1)
  else if (o.holds c.key c.comm).isSome then (s, -3)
  else if s.sys.worldOrrery.get false d != s.worldOf x || s.quarantined (0x5000 + d) then (s, -2)
  else match (List.range 64).find? fun t => (o.ticket t).isNone with
    | none => (s, -2)
    | some t =>
      let v : Ticket := { coll := c, kid := (s.kidOf x).getD 0, ctx := x, arr := arr, core := coreOf x, asid := s.asidOf x
                          world := s.worldOf x, pkey := (s.ctx x).pkey, since := s.sys.sidt, id := s.nextId
                          group := [], announced := false, admitted := false
                          admits := ranksFor c.key c.comm o.early, next := 0, xfers := [], msgs := [], freed := [], waiting := []
                          sentDone := false, dones := ranksFor c.key c.comm o.earlyDone }
      let s1 := ({ s with nextId := s.nextId + 1 } : State).upOrrery d fun o => { (o.forget c.key c.comm).learn c.key c.comm with
        tickets := o.tickets.set none t (some v) }
      (s1.collAnnounce d t, (t : Int))

def effColl (c a : Fin 32) (h : Fin 96) : Eff := effE (some c) fun i o =>
  withSp i (i.rS a) 256 256 fun x =>
    withObj i h fun ob =>
      if i.poisoned x 256 then poisonTrap i
      else
        let r := o.s.coll i.x (i.local x 256) ⟨h, ob⟩
        .ok ({ o with s := r.1 }.ans c (w64 r.2))

/-- Number of transfers of a collective. -/
def Coll.total (c : Coll) : Nat := (c.levels.map (·.bound)).foldl (· * ·) 1

/-- The word of COLLQ. -/
def Ticket.word (v : Ticket) : W64 :=
  let st := if !v.admitted then 1
    else if v.admits.length < v.coll.gsize ∧ v.next = 0 then 2
    else if v.next < v.coll.total then 3 else 4
  BitVec.ofNat 64 (st + 65536 * min 65535 v.admits.length + 2 ^ 32 * (v.next % 2 ^ 32))

def effCollq (c a : Fin 32) : Eff := effE (some c) fun i o =>
  .ok (o.ans c (match (i.s.orrery (dieOf (coreOf i.x))).ticket (bf (i.rS a) 0 6) with
    | some v => if some v.kid = i.s.kidOf i.x then v.word else 0
    | none => 0))

/-! ## The words as bundles of one word -/

/-- BWREQ as a bundle of one word (R324). -/
def execBwreq (c a b : Fin 32) (h : Hnd) (s : State) : Host.Outcome State Fault Refusal :=
  issueWords [effBwreq c a b h] s

/-- BWREL as a bundle of one word (R325). -/
def execBwrel (a : Fin 32) (h : Hnd) (s : State) : Host.Outcome State Fault Refusal :=
  issueWords [effBwrel a h] s

/-- BWQRY as a bundle of one word (R326). -/
def execBwqry (c a : Fin 32) (s : State) : Host.Outcome State Fault Refusal :=
  issueWords [effBwqry c a] s

/-- PUTS as a bundle of one word (R320). -/
def execPuts (l : CopyLend) (a b c : Fin 32) (h : Hnd) (s : State) : Host.Outcome State Fault Refusal :=
  issueWords [effPuts l a b c h] s

/-- RELS as a bundle of one word (R322). -/
def execRels (a b : Fin 32) (s : State) : Host.Outcome State Fault Refusal :=
  issueWords [effRels a b] s

/-- LRSET as a bundle of one word (R319). -/
def execLrset (c a : Fin 32) (h : Hnd) (s : State) : Host.Outcome State Fault Refusal :=
  issueWords [effLrset c a h] s

/-- FABST as a bundle of one word (R327). -/
def execFabst (c a : Fin 32) (s : State) : Host.Outcome State Fault Refusal :=
  issueWords [effFabst c a] s

/-- COLL as a bundle of one word (R352). -/
def execColl (c a : Fin 32) (h : Fin 96) (s : State) : Host.Outcome State Fault Refusal :=
  issueWords [effColl c a h] s

/-- COLLQ as a bundle of one word (R353). -/
def execCollq (c a : Fin 32) (s : State) : Host.Outcome State Fault Refusal :=
  issueWords [effCollq c a] s

end Sys2Proof.Machine
end

