-- ==== Sys2Proof/Machine/Phaser.lean ====
section
/-! DEFINITION. Phasers: the object's procedure, registrations, phaser instructions and FENCE (12 R263 to R279). -/

namespace Sys2Proof.Machine

/-! ## The object (12 R263, R267, R268) -/

/-- Phase numbers compare modulo 2^32: a > b. -/
def phGt (a b : W32) : Bool := decide (1 ≤ (a - b).toNat) && decide ((a - b).toNat ≤ 2 ^ 31 - 1)

/-- The mode signals. -/
def HMode.signals : HMode → Bool | .sig | .sigwait => true | _ => false
/-- The mode waits. -/
def HMode.waits : HMode → Bool | .wait | .sigwait => true | _ => false
/-- The registered mode as a mode. -/
def hmodeOf : RegMode → HMode | .sig => .sig | .wait => .wait | .sigwait => .sigwait

/-- A signalling member leaves: NSIG falls by one, and a signal it counted ahead is withdrawn. -/
def Phaser.dropMember (p : Phaser) (sph : W32) : Phaser :=
  { p with nsig := p.nsig - 1, sc0 := if phGt sph p.phase then p.sc0 - 1 else p.sc0 }

/-- A drop of the handle's registration as it stands. -/
def Phaser.dropHandle (p : Phaser) (h : Handle) : Phaser := if h.mode.signals then p.dropMember h.sph else p

/-- A registration in effect. -/
def Handle.register (h : Handle) (m : HMode) (phase : W32) : Handle :=
  { h with mode := m, pend := .none, sph := if m.signals then phase else h.sph, lph := if m.waits then phase else h.lph }

/-- The message is a member signal of this handle. -/
def PhMsg.signalOf (m : PhMsg) (o k : Nat) (h : Fin 96) : Bool :=
  match m with | .member o' k' h' _ => o' == o && k' == k && h' == h | _ => false

/-- Applies one pending registration or drop (12 R268). A drop withdraws a signal that is still under way too. -/
def State.applyReg (s : State) (o : Nat) (e : Nat × Fin 96 × RegWhat) : State :=
  let p := s.phaser o
  match e.2.2 with
  | .gone sph => s.setPhaser o (p.dropMember sph)
  | .handle =>
    let h := s.handle e.1 e.2.1
    if h.obj != some o then s
    else match h.pend with
      | .none => s
      | .drop =>
        let (ahead, rest) := s.transit.partition (·.signalOf o e.1 e.2.1)
        ({ s with transit := rest }.setPhaser o (p.dropHandle { h with sph := h.sph - BitVec.ofNat 32 ahead.length })).upHandle e.1 e.2.1
          fun h => { h with mode := .none, pend := .none }
      | .reg m =>
        let p := p.dropHandle h
        (s.setPhaser o { p with nsig := p.nsig + b2n m.signals }).upHandle e.1 e.2.1 fun h => h.register m p.phase

/-- Applies everything pending at an object. -/
def State.applyPend (s : State) (o : Nat) : State :=
  let es := (s.phaser o).pend
  es.foldl (fun s e => s.applyReg o e) (s.setPhaser o { s.phaser o with pend := [] })

/-- The object advances (12 R267). -/
def Phaser.ready (p : Phaser) : Bool :=
  decide (0 < p.nsig + p.anon) && decide (p.nsig ≤ p.sc0) && decide (p.anon ≤ p.acnt)

/-- One advance, without the pending registrations. -/
def Phaser.next (p : Phaser) : Phaser := { p with phase := p.phase + 1, sc0 := p.sc1, sc1 := 0, acnt := p.acnt - p.anon }

/-- The advances of an object after an event. Each of them consumes an arrival or a signal, which bounds their number. -/
def State.settle (s : State) (o : Nat) : Nat → State
  | 0 => s
  | n + 1 => if (s.phaser o).ready then ((s.setPhaser o (s.phaser o).next).applyPend o).settle o n else s

/-- A bound on the advances of an object. -/
def Phaser.fuel (p : Phaser) : Nat := p.acnt + p.sc0 + p.sc1 + p.pend.length + 4

/-- Settles an object. -/
def State.settled (s : State) (o : Nat) : State := s.settle o (s.phaser o).fuel

/-- Removes the message at index `j`. -/
def State.unpost (s : State) (j : Nat) : State := { s with transit := s.transit.eraseIdx j }

/-- A member signal with signal phase `ph` is counted. -/
def Phaser.signal (p : Phaser) (ph : W32) : Phaser :=
  if ph = p.phase then { p with sc0 := p.sc0 + 1 } else { p with sc1 := p.sc1 + 1 }

/-- Two messages are a handle's to one object: they reach it in the order in which they were sent. -/
def PhMsg.sameLine (a b : PhMsg) : Bool :=
  let key := fun (m : PhMsg) => match m with
    | .member o k h _ | .reg o k h _ _ => some (o, k, h)
    | .anon .. => none
  (key a).isSome && key a == key b

/-- The message at index `j` may arrive: no earlier one of its handle is still under way. -/
def State.transitTurn (s : State) (j : Nat) : Bool := (s.transit[j]?).any fun m => !(s.transit.take j).any (·.sameLine m)

/-- MEMBER_SIGNAL: a member signal reaches its object. -/
def execMemberSignal (j : Nat) (s : State) : Host.Outcome State Fault Refusal :=
  .next <|
    match s.transit[j]?, s.transitTurn j with
    | some (.member o _ _ ph), true =>
      let s := s.unpost j
      (s.setPhaser o ((s.phaser o).signal ph)).settled o
    | _, _ => s

/-- The object becomes broken, and stays so. -/
def Phaser.break (p : Phaser) : Phaser := if p.broken then p else { p with broken := true, brokenAt := p.phase }

/-- Counts `n` anonymous arrivals; a count past 2^31 − 1 breaks the object. -/
def Phaser.arrive (p : Phaser) (n : Nat) : Phaser :=
  if 2 ^ 31 - 1 < p.acnt + n then p.break else { p with acnt := p.acnt + n }

/-- The context of core `k` whose kernel's range holds handle `h`, with its occupant. -/
def State.holder (s : State) (k : Nat) (h : Fin 96) : Option (Nat × Occ) :=
  [2 * k, 2 * k + 1].findSome? fun x =>
    if s.phloOf x ≤ h.val ∧ h.val < s.phloOf x + s.phcntOf x then (s.ctx x).occ.map fun o => (x, o) else none

/-- A fault record reaches its handle; once the instance has retired, the dispatcher takes it (06 R132). -/
def State.record (s : State) (k : Nat) (h : Fin 96) (f : FaultRec) : State :=
  match s.holder k h with
  | some (x, o) =>
    if o.st = .retired then s.failRetired x o f else s.upHandle k h fun q => { q with frec := q.frec.or (some f) }
  | none => s.upHandle k h fun q => { q with frec := q.frec.or (some f) }

/-- ANONYMOUS_ARRIVAL: an anonymous arrival reaches its object; a fault record breaks the object and stays in the handle (12
R269, R270). DEDUCED, log entry 33. -/
def execAnonymousArrival (j : Nat) (s : State) : Host.Outcome State Fault Refusal :=
  .next <|
    match s.transit[j]? with
    | some (.anon o n f k h) =>
      let s := s.unpost j
      let p := (s.phaser o).arrive n
      let s := s.setPhaser o (if f.isSome then p.break else p)
      (match f, h with
        | some f, some h => s.record k h f
        | _, _ => s).settled o
    | _ => s

/-- The object is quiescent. -/
def Phaser.quiet (p : Phaser) : Bool := p.sc0 == 0 && p.sc1 == 0 && p.acnt == 0

/-- A message whose signal phase moves on by one: a member signal, or a drop with the member's SPH. -/
def PhMsg.later (m : PhMsg) : PhMsg :=
  match m with
  | .member o k h ph => .member o k h (ph + 1)
  | .reg o k h (.gone _) (some ph) => .reg o k h (.gone (ph + 1)) (some (ph + 1))
  | .reg o k h w (some ph) => .reg o k h w (some (ph + 1))
  | m => m

/-- A drop of a signalling member with this SPH reaches its object: where SPH = PHASE it delivers the member's signal first, so what the
handle has signalled since is for a phase later (12 R268). -/
def State.dropSignal (s : State) (o k : Nat) (h : Fin 96) (w : RegWhat) (sph : W32) : State × RegWhat :=
  if sph ≠ (s.phaser o).phase then (s, w)
  else
    let s := s.setPhaser o ((s.phaser o).signal sph)
    match w with
    | .gone _ => (s, .gone (sph + 1))
    | .handle =>
      (({ s with transit := s.transit.map fun m => if m.sameLine (.member o k h sph) then m.later else m } : State).upHandle k h
        fun q => { q with sph := q.sph + 1 }, w)

/-- REGISTRATION_ARRIVES: a registration or drop reaches its object, where it is pending. The signal that a drop brings with it is
delivered then, and the advance that it causes applies the drop; a quiescent object applies it at once (12 R268). -/
def execRegistrationArrives (j : Nat) (s : State) : Host.Outcome State Fault Refusal :=
  .next <|
    match s.transit[j]?, s.transitTurn j with
    | some (.reg o k h w first), true =>
      let (s, w) := match first with
        | some sph => (s.unpost j).dropSignal o k h w sph
        | none => (s.unpost j, w)
      let p := s.phaser o
      let s := (s.setPhaser o { p with pend := if p.pend.contains (k, h, w) then p.pend else p.pend ++ [(k, h, w)] }).settled o
      (if (s.phaser o).quiet then s.applyPend o else s).settled o
    | _, _ => s

/-! ## Initialisation (12 R264) -/

/-- A handle bound to an initialised object keeps its own state, MODE included; what is pending and its fault record go. DEDUCED,
log entry 32. -/
def Handle.cleared (h : Handle) (o : Nat) : Handle :=
  if h.obj = some o then { h with pend := .none, frec := none } else h

/-- A message that initialisation removes: a member's signal or registration. -/
def PhMsg.ofMember (m : PhMsg) (o : Nat) : Bool :=
  match m with | .member o' _ _ _ => o' == o | .reg o' .. => o' == o | .anon .. => false

/-- Initialises an object. -/
def State.initObj (s : State) (o : Nat) (phase : W32) (anon : Nat) : State :=
  let s := s.setPhaser o { Phaser.init with phase := phase, anon := anon }
  { s with
    cores := s.cores.map fun e => (e.1, { e.2 with handles := e.2.handles.map fun h => h.cleared o })
    transit := s.transit.filter fun m => !m.ofMember o }

/-- Exit from C1 to C3 by a BAR access (17 R387). -/
def State.barAccess (s : State) : State := s.upSys fun y => { y with cstate := 0 }

/-- A register write's arrival: the host's is a BAR access; the Zenith controller's own is none (17 R387, R388). -/
def State.regAccess (s : State) (zenith : Bool) : State := if zenith then s else s.barAccess

/-- The registers of queue `q` take this writer's write: the host's while the queue's world bit is 0, the Zenith controller's while it is
1 (17 R388). -/
def State.queueTakes (s : State) (q : Nat) (zenith : Bool) : Bool := s.sys.worldQueue.get false q == zenith

/-- PHASER_OBJECT_INIT: a host write to word 0 of object `o`. -/
def execPhaserObjectInit (o : Fin 16384) (phase : W32) (anon : BitVec 16) (s : State) : Host.Outcome State Fault Refusal :=
  .next (s.barAccess.initObj o phase anon.toNat)

/-! ## Removal at a kill (12 R269) -/

/-- Removes the registration of a handle of a killed instance: its object is broken first, its counted signals are withdrawn. The object does
not advance yet. -/
def State.killHandle (s : State) (k : Nat) (h : Fin 96) : State :=
  let q := s.handle k h
  match q.obj with
  | none => s
  | some o =>
    let sig := q.mode.signals || (match q.pend with | .reg m => m.signals | _ => false)
    let p := s.phaser o
    let sent := (s.transit.filter (·.signalOf o k h)).length
    let ahead := (q.sph - p.phase).toNat - sent
    let p := if q.mode.signals then
        { p with nsig := p.nsig - 1, sc0 := p.sc0 - (if 1 ≤ ahead then 1 else 0), sc1 := p.sc1 - (if 2 ≤ ahead then 1 else 0) }
      else p
    let p := if sig then p.break else p
    let p := { p with pend := p.pend.filter fun e => !(e.1 == k && e.2.1 == h && e.2.2 == RegWhat.handle) }
    let s := { s with transit := s.transit.filter fun m => match m with
      | .member o' k' h' _ => !(o' == o && k' == k && h' == h)
      | .reg o' k' h' w _ => !(o' == o && k' == k && h' == h && w == RegWhat.handle)
      | .anon .. => true }
    (s.setPhaser o p).upHandle k h fun q => { q with mode := .none, pend := .none }

/-- The handles lo to lo + n − 1. -/
def handleRange (lo n : Nat) : List (Fin 96) := (List.finRange 96).filter fun h => decide (lo ≤ h.val) && decide (h.val < lo + n)

/-- A fault record on its way to one of these handles finds no handle. -/
def PhMsg.lost (m : PhMsg) (k lo n : Nat) : PhMsg :=
  match m with
  | .anon o j f c h => .anon o j f c (h.filter fun h => !(c == k && decide (lo ≤ h.val) && decide (h.val < lo + n)))
  | m => m

/-- The same for every handle of a killed instance's range; then each object advances, or does not. -/
def State.killHandles (s : State) (k lo n : Nat) : State :=
  let hs := handleRange lo n
  let os := (hs.filterMap fun h => (s.handle k h).obj).dedup
  let s := hs.foldl (fun s h => s.killHandle k h) s
  os.foldl State.settled { s with transit := s.transit.map (·.lost k lo n) }

/-! ## Drops (12 R274) -/

/-- PHDROP of a handle bound to `o`: the drop of a signalling member takes its SPH to the object; `gone` names a handle that is bound
elsewhere next. -/
def State.dropReg (s : State) (k : Nat) (h : Fin 96) (o : Nat) (gone : Bool) : State :=
  let q := s.handle k h
  let first : Option W32 := if q.mode.signals then some q.sph else none
  if gone then
    let s := s.upHandle k h fun q => { q with mode := .none, pend := .none }
    if first.isSome then s.post (.reg o k h (.gone q.sph) first) else s
  else if q.mode = .none then s.upHandle k h fun q => { q with pend := .none }
  else (s.upHandle k h fun q => { q with pend := .drop }).post (.reg o k h .handle first)

/-! ## Instructions (12 R273 to R277) -/

/-- The object can be bound by a kernel of queue `q`: in its window, in a Meridian engine of the kernel's world (12 R265, 17
R388). -/
def State.bindable (s : State) (x : Nat) (o : Nat) : Bool :=
  let w := s.sys.objwins.get ObjWin.init (s.asidOf x)
  w.v && decide (w.first ≤ o) && decide (o ≤ w.last) && s.sys.worldMeridian.get false (o / 4096) == s.worldOf x

/-- Handle `h` of core `k` has a pending registration with object `o`: a drop is none, and cancels one. -/
def State.registering (s : State) (o k : Nat) (h : Fin 96) : Bool :=
  (s.handle k h).obj == some o && match (s.handle k h).pend with | .reg _ => true | _ => false

/-- A registration of the object is pending, there or on its way (12 R268). -/
def State.regPending (s : State) (o : Nat) : Bool :=
  ((s.phaser o).pend.any fun e => e.2.2 == .handle && s.registering o e.1 e.2.1) ||
    s.transit.any fun m => match m with | .reg o' k h .handle _ => o' == o && s.registering o k h | _ => false

def effPhbind (c a : Fin 32) (h : Fin 96) : Eff := effE (some c) fun i o =>
  let v := i.rS a
  let ob := bf v 0 14
  let k := coreOf i.x
  if !i.s.bindable i.x ob then .ok (o.ans c (-1))
  else if bitOf v 63 && ((i.s.phaser ob).nsig != 0 || i.s.regPending ob) then .ok (o.ans c (-2))
  else
    let s := match (o.s.handle k h).obj with | some old => o.s.dropReg k h old true | none => o.s
    let s := if bitOf v 63 then s.initObj ob 0 (bf v 16 16) else s
    let ph := (s.phaser ob).phase
    let s := s.upHandle k h fun _ => ⟨some ob, .none, .none, ph, ph, none⟩
    .ok ({ o with s := s }.ans c 0)

def effPhreg (m : RegMode) (h : Fin 96) : Eff := effE none fun i o =>
  withObj i h fun ob =>
    .ok { o with s := (o.s.upHandle (coreOf i.x) h fun q => { q with pend := .reg (hmodeOf m) }).post
                        (.reg ob (coreOf i.x) h .handle none) }

def effPhdrop (h : Fin 96) : Eff := effE none fun i o =>
  withObj i h fun ob => .ok { o with s := o.s.dropReg (coreOf i.x) h ob false }

/-- The arrival of PHSIG and PHNEXT: a member's signal, held back while it is two phases ahead, or an anonymous one (12 R275). -/
def signal (i : Iss) (h : Fin 96) (ob : Nat) (s : State) (k : State → Res) : Res :=
  let q := i.s.handle (coreOf i.x) h
  if q.mode.signals then
    let d := (q.sph - (i.s.phaser ob).phase).toNat
    if 2 ≤ d ∧ d < 2 ^ 31 then waitFor i 2 h ob
    else k ((s.upHandle (coreOf i.x) h fun q => { q with sph := q.sph + 1 }).post (.member ob (coreOf i.x) h q.sph))
  else k (s.post (.anon ob 1 none (coreOf i.x) none))

def effPhsig (_p : Scope) (h : Fin 96) : Eff := effE none fun i o =>
  withObj i h fun ob => signal i h ob o.s fun s => .ok { o with s := s }

def effPhadd (_p : Scope) (h : Fin 96) (a : Fin 32) : Eff := effE none fun i o =>
  withObj i h fun ob =>
    let n := bf (i.rS a) 0 16
    .ok (if n = 0 then o else { o with s := o.s.post (.anon ob n none (coreOf i.x) none) })

/-- An acquire at a scope: DEVICE and POD invalidate the core's read-only L1 (09 R200). -/
def State.acquire (s : State) (k : Nat) (p : Scope) : State :=
  match p with
  | .device | .pod => s.upCore k fun c => { c with l1 := [] }
  | _ => s

/-- What a wait on a handle finds (12 R276). -/
inductive PhSeen where
  | held (f : FaultRec)
  | done
  | broken (info : W64)
  | wait (obj : Nat)
deriving DecidableEq, Repr

/-- One round of the procedure of PHWAIT for context `x`. -/
def State.phSee (s : State) (x : Nat) (c : Ctx) (h : Fin 96) : PhSeen :=
  let q := s.handle (coreOf x) h
  match q.frec.or c.frec with
  | some f => .held f
  | none =>
    match q.obj with
    | none => .broken (brokenInfo 0 true h q.lph)
    | some ob =>
      let p := s.phaser ob
      if phGt p.phase q.lph then .done
      else if p.broken then .broken (brokenInfo ob false h q.lph)
      else .wait ob

/-- A completed wait: LPH advances, then the acquire. -/
def State.phDone (s : State) (x : Nat) (h : Fin 96) (p : Scope) : State :=
  (s.upHandle (coreOf x) h fun q => { q with lph := q.lph + 1 }).acquire (coreOf x) p

def effPhwait (p : Scope) (h : Fin 96) : Eff := effE none fun i o =>
  match i.s.phSee i.x i.c h with
  | .held f => trapRec i f
  | .broken w => trapAt i .phaserBroken w
  | .wait ob => waitFor i 1 h ob
  | .done => .ok { o with s := o.s.phDone i.x h p }

/-- PHNEXT: a held fault record is taken first; then the signal; its wait half runs after the bundle has issued. -/
def effPhnext (p : Scope) (h : Fin 96) : Eff := effE none fun i o =>
  match i.s.phSee i.x i.c h with
  | .held f => trapRec i f
  | _ =>
    withObj i h fun ob => signal i h ob o.s fun s =>
      .ok { o with
        s := s
        c := { o.c with phnext := some (h, p, i.c.pc)
                        wait := some { kind := 1, h := h, arg := ob, since := i.c.cycle.setWidth 32 } } }

/-- MODE in PHTEST. -/
def hmodeCode : HMode → Nat | .none => 0 | .sig => 1 | .wait => 2 | .sigwait => 3

/-- The word of PHTEST (12 R277). -/
def phTestWord (p : Phaser) (q : Handle) : W64 :=
  BitVec.ofNat 64 (p.phase.toNat + 2 ^ 32 * b2n (phGt p.phase q.lph) + 2 ^ 33 * b2n p.broken + 2 ^ 34 * b2n q.frec.isSome +
    2 ^ 35 * b2n (q.pend != .none) + 2 ^ 36 * hmodeCode q.mode)

def effPhtest (c : Fin 32) (h : Fin 96) : Eff := effE (some c) fun i o =>
  withObj i h fun ob => .ok (o.ans c (phTestWord (i.s.phaser ob) (i.s.handle (coreOf i.x) h)))

/-- FENCE (12 R279). -/
def effFence (p : Scope) : Eff := effE none fun i o =>
  if (i.s.core (coreOf i.x)).copies.any fun c => c.ctx == i.x then waitFor i 12
  else match i.c.frec with
    | some f => trapRec i f
    | none => .ok { o with s := o.s.acquire (coreOf i.x) p }

/-! ## The words as bundles of one word -/

/-- PHBIND as a bundle of one word (R273). -/
def execPhbind (c a : Fin 32) (h : Fin 96) (s : State) : Host.Outcome State Fault Refusal :=
  issueWords [effPhbind c a h] s

/-- PHREG as a bundle of one word (R274). -/
def execPhreg (m : RegMode) (h : Fin 96) (s : State) : Host.Outcome State Fault Refusal :=
  issueWords [effPhreg m h] s

/-- PHDROP as a bundle of one word (R274). -/
def execPhdrop (h : Fin 96) (s : State) : Host.Outcome State Fault Refusal :=
  issueWords [effPhdrop h] s

/-- PHSIG as a bundle of one word (R275). -/
def execPhsig (p : Scope) (h : Fin 96) (s : State) : Host.Outcome State Fault Refusal :=
  issueWords [effPhsig p h] s

/-- PHWAIT as a bundle of one word (R276). -/
def execPhwait (p : Scope) (h : Fin 96) (s : State) : Host.Outcome State Fault Refusal :=
  issueWords [effPhwait p h] s

/-- PHNEXT as a bundle of one word (R276). -/
def execPhnext (p : Scope) (h : Fin 96) (s : State) : Host.Outcome State Fault Refusal :=
  issueWords [effPhnext p h] s

/-- PHADD as a bundle of one word (R275). -/
def execPhadd (p : Scope) (h : Fin 96) (a : Fin 32) (s : State) : Host.Outcome State Fault Refusal :=
  issueWords [effPhadd p h a] s

/-- PHTEST as a bundle of one word (R277). -/
def execPhtest (c : Fin 32) (h : Fin 96) (s : State) : Host.Outcome State Fault Refusal :=
  issueWords [effPhtest c h] s

/-- FENCE as a bundle of one word (R279). -/
def execFence (p : Scope) (s : State) : Host.Outcome State Fault Refusal :=
  issueWords [effFence p] s

end Sys2Proof.Machine
end

