-- ==== Sys2Proof/Machine/Engine.lean ====
section
/-! DEFINITION. The copy engine at work: endpoints, runs, accumulate-on-write, fetch-operations, faults, completion, flits of
pod copies (11 R245 to R260; 13 R310 to R313, R320). -/

namespace Sys2Proof.Machine

/-! ## Global accesses -/

/-- A failure of an access: cause, KIND of 11 R244, and the unit whose storage a POISON names (16 R375). -/
structure AccFault where
  cause : Cause
  kind : Nat
  unit : BitVec 16
deriving DecidableEq, Repr

/-- A translation or permission failure as a copy command reports it (11 R248). -/
def XFault.eng (f : XFault) : AccFault := ⟨.engineFault, f.kind, 0⟩
/-- The same at an address of the device's own: WXCONF is PERM for every access (09 R191; 19 R403). DEDUCED, log entry 68. -/
def XFault.own (f : XFault) : AccFault := if f = xWxconf then ⟨.perm, f.kind, 0⟩ else f.eng
/-- Refusals. -/
def accForm : AccFault := ⟨.engineFault, 0x20, 0⟩
def accRemote : AccFault := ⟨.engineFault, 0x23, 0⟩
def accWindow : AccFault := ⟨.engineFault, 0x22, 0⟩
def accNotCell : AccFault := ⟨.engineFault, 0x21, 0⟩
def accCellStore : AccFault := ⟨.cellStore, 0, 0⟩
def accHostFail : AccFault := ⟨.engineFault, 0x05, 0⟩
def accPin : AccFault := ⟨.scalePin, 0, 0⟩
def accPkey : AccFault := ⟨.pkey, 0, 0⟩
/-- Poison that unit `u` holds. -/
def accPoison (u : BitVec 16) : AccFault := ⟨.poison, 0, u⟩

/-- The record of a failure at address `va` for the command with opcode `op` (11 R244). -/
def AccFault.record (f : AccFault) (va op : Nat) : FaultRec := ⟨f.cause, engInfo va f.kind op, f.unit⟩

/-- How an access of an engine gets its translation: a core's engine through its TLBs, in the address space and world of a
kernel; or through the export windows. -/
inductive Via where
  | core (k asid : Nat) (world : Bool)
  /-- An Orrery: straight through the tables. -/
  | walk (asid : Nat) (world : Bool)
  | window
  /-- The page that the target's check has let a flit into (13 R311). -/
  | held (x : Xl)
deriving DecidableEq, Repr

/-- How the next page is found. -/
def Via.next : Via → Via | .held _ => .window | v => v

/-- What enters an export window (09 R187). -/
inductive WinOp where
  | wr | add | rd
deriving DecidableEq, Repr

/-- The window that takes a VA in. -/
def State.window (s : State) (va : Nat) : Option Export :=
  ((List.range 64).map fun e => s.sys.exports.get Export.init e).find? fun w =>
    w.v && decide (w.base.toNat ≤ va / 65536) && decide (va / 65536 < w.fin.toNat)

/-- The window's access bit. -/
def Export.lets (w : Export) : WinOp → Bool | .wr => w.wr | .add => w.add | .rd => w.rd

/-- A page found through the tables of an address space. -/
def State.walkFor (s : State) (asid : Nat) (world : Bool) (acc : Acc) (va : Nat) : Except XFault Xl :=
  match s.walk asid world va with
  | .error f => .error f
  | .ok x => s.permit world acc x va

/-- The page of a VA for an engine access. -/
def State.page (s : State) (v : Via) (acc : Acc) (op : WinOp) (va : Nat) : State × Except (AccFault × Bool) Xl :=
  let bad := fun (f : XFault) (park : Bool) => (f.own, park && f == xNomap)
  match v with
  | .core k asid world =>
    match s.translate k asid world acc va with
    | (s, .ok x) => (s, .ok x)
    | (s, .error f) => (s, .error (bad f true))
  | .walk asid world =>
    match s.walkFor asid world acc va with
    | .ok x => (s, .ok x)
    | .error f => (s, .error (bad f false))
  | .window =>
    match s.window va with
    | none => (s, .error (accRemote, false))
    | some w =>
      if !w.lets op then (s, .error (accRemote, false))
      else match s.walkFor w.asid false acc va with
        | .ok x => (s, .ok x)
        | .error f => (s, .error (f.eng, false))
  | .held x => (s, .ok x)

/-- A page is a cell value page. -/
def Xl.isValue (x : Xl) : Bool := x.cell && !x.raw

/-- Bytes of a value page from `va` on: each cell read whole (11 R259). -/
def State.valueBytes (s : State) (x : Xl) (va n : Nat) : List Byte :=
  let c0 := va / 4
  if n = 0 then []
  else
  let all := (List.range ((va + n - 1) / 4 + 1 - c0)).flatMap fun j => (s.cellVal (x.paOf (4 * (c0 + j))) x.e0 x.rfmt).1
  (all.drop (va % 4)).take n

/-- The first of `n` bytes at physical address `pa` that lies in a poisoned line, and the unit that poisoned it. -/
def State.firstPoison (s : State) (pa n : Nat) : Option (Nat × BitVec 16) :=
  (List.range (lineOf (pa + n - 1) + 1 - lineOf pa)).findSome? fun j =>
    ((s.lines.get LineRec.init (lineOf pa + j)).poison).map fun u => (max pa (128 * (lineOf pa + j)) - pa, u)

/-- Bytes of a page, up to the first poison: of a value page, up to the first cell that it touches. -/
def State.pageBytes (s : State) (x : Xl) (va n : Nat) : List Byte × Option AccFault :=
  if x.isValue then
    match s.firstPoison (x.paOf va) (32 * ((va + n - 1) / 4 + 1 - va / 4)) with
    | some (j, u) => (s.valueBytes x va (4 * (va / 4 + j / 32) - va), some (accPoison u))
    | none => (s.valueBytes x va n, none)
  else
    match s.firstPoison (x.paOf va) n with
    | some (j, u) => (s.rd (x.paOf va) j, some (accPoison u))
    | none => (s.rd (x.paOf va) n, none)

/-- What an access brings: a value, a park of the command, or a fault at a VA. -/
inductive Got (α : Type) where
  | ok (a : α)
  | park (va : Nat)
  | fault (f : AccFault) (va : Nat)
deriving DecidableEq, Repr

/-- Reads up to `n` bytes at `va`, page by page; the fault comes with the bytes below it. -/
def State.gRead (v : Via) : Nat → State → Nat → Nat → State × List Byte × Got Unit
  | 0, s, _, _ => (s, [], .ok ())
  | fuel + 1, s, va, n =>
    if n = 0 then (s, [], .ok ())
    else
      let m := min n (65536 - va % 65536)
      if 2 ^ 48 ≤ va then (s, [], .fault xNoncanon.eng va)
      else match s.page v .read .rd va with
        | (s, .error (f, park)) => (s, [], if park && s.hostPf then .park va else .fault f va)
        | (s, .ok x) =>
          match s.pageBytes x va m with
          | (bs, some f) => (s, bs, .fault f (va + bs.length))
          | (bs, none) =>
            let r := State.gRead v.next fuel s (va + m) (n - m)
            (r.1, bs ++ r.2.1, r.2.2)

/-- A write into a page: plain bytes, or the clear of whole cells. A flit into poison is refused. -/
def State.pageWrite (s : State) (x : Xl) (tag : BitVec 12) (va : Nat) (bs : List Byte) (clear flit : Bool) :
    Except AccFault State :=
  if x.isValue then
    if clear && va % 4 == 0 && bs.length % 4 == 0 then
      .ok (s.wr tag (x.paOf va) (List.replicate (8 * bs.length) 0))
    else .error accCellStore
  else match (if flit then s.poisonAt (x.paOf va) bs.length else none) with
    | some u => .error (accPoison u)
    | none => .ok (s.wr tag (x.paOf va) bs)

/-- Writes bytes that lie in one page. -/
def State.gWrite (s : State) (v : Via) (tag : BitVec 12) (va : Nat) (bs : List Byte) (clear flit : Bool) : State × Got Unit :=
  if 2 ^ 48 ≤ va then (s, .fault xNoncanon.eng va)
  else match s.page v .write .wr va with
    | (s, .error (f, park)) => (s, if park && s.hostPf then .park va else .fault f va)
    | (s, .ok x) =>
      match s.pageWrite x tag va bs clear flit with
      | .ok s' => (s', .ok ())
      | .error f => (s, .fault f va)

/-! ## Element updates (11 R254, R258) -/

/-- The new value of an element of `w` bytes under CPYA member `op`. -/
def cpyaVal (op opx w old x : Nat) : Nat :=
  let f := fun (b : Bool) => if b then x else old
  match op with
  | 3 | 4 => (old + x) % 2 ^ (8 * w)
  | 6 =>
    match opx with
    | 0 | 2 => f (decide (sx (8 * w) x < sx (8 * w) old))
    | 1 | 3 => f (decide (x < old))
    | _ => (fminmax false old x).1
  | 7 =>
    match opx with
    | 0 | 2 => f (decide (sx (8 * w) old < sx (8 * w) x))
    | 1 | 3 => f (decide (old < x))
    | _ => (fminmax true old x).1
  | 8 => old ||| x
  | 9 => old &&& x
  | _ => old ^^^ x

/-- Writes back a read-modify-write: an unchanged line keeps its tag (09 R199). -/
def State.rmwBack (s : State) (tag : BitVec 12) (pa w old new : Nat) : State :=
  if old = new then s else s.wr tag pa (natLe w new)

/-- Performs one element of a CPYA form in a page. -/
def State.pageAtom (s : State) (x : Xl) (tag : BitVec 12) (op opx va w code : Nat) : Except AccFault State :=
  if op = 5 then
    if !x.isValue then .error accNotCell
    else match s.poisonAt (x.paOf va) 32 with
      | some u => .error (accPoison u)
      | none => .ok (s.cellAdd tag (x.paOf va) x.e0 (addend opx code))
  else if x.isValue then .error accCellStore
  else
    let pa := x.paOf va
    match s.poisonAt pa w with
    | some u => .error (accPoison u)
    | none =>
      let old := leNat (s.rd pa w)
      .ok (s.rmwBack tag pa w old (cpyaVal op opx w old code))

/-- Performs one element of a CPYA form at a VA. -/
def State.gAtom (s : State) (v : Via) (tag : BitVec 12) (op opx va code : Nat) : State × Got Unit :=
  if 2 ^ 48 ≤ va then (s, .fault xNoncanon.eng va)
  else match s.page v (if op = 5 then .write else .atom) .add va with
    | (s, .error (f, park)) => (s, if park && s.hostPf then .park va else .fault f va)
    | (s, .ok x) =>
      match s.pageAtom x tag op opx va (cpyaSizes op opx).2 code with
      | .ok s' => (s', .ok ())
      | .error f => (s, .fault f va)

/-! ## A command's endpoints -/

/-- Translation of a command's own device VAs. -/
def State.copyVia (s : State) (c : Copy) : Via := .core (coreOf c.ctx) (s.asidOf c.ctx) (s.worldOf c.ctx)

/-- CTXID as a writer tag. -/
def Copy.tag (c : Copy) : BitVec 12 := BitVec.ofNat 12 c.ctx

/-- Core and offset of partition address `a` of instance `n` of the command's kernel; WINDOW where the instance is saved or
has retired and been freed (11 R248). -/
def State.coreWin (s : State) (c : Copy) (n a : Nat) : Option (Nat × Nat) :=
  match s.kernel c.kid with
  | none => none
  | some k =>
    match k.ctxs[n]? with
    | none => none
    | some x =>
      match (s.ctx x).occ with
      | some o => if o.kid = c.kid ∧ o.n = n ∧ o.st ≠ .saved then some (coreOf x, (s.ctx x).spbase + a) else none
      | none => none

/-- Where an endpoint lies. -/
inductive Place where
  | sp (k off : Nat)
  | va (v : Via) (a : Nat)
  | pod (node : BitVec 13) (a : Nat)
  | bad (f : AccFault) (a : Nat)
deriving DecidableEq, Repr

/-- Bits [47:0] of endpoint address `e` moved by `d` bytes, which a fault reports (11 R244). -/
def endAddr (e : W64) (d : Int) : Nat := ((e.toNat + d) % 2 ^ 48).toNat

/-- The place of endpoint `e` moved by `d` bytes. A pod address of this node goes through its own export windows (09 R187). -/
def State.place (s : State) (c : Copy) (e : W64) (d : Int) : Place :=
  match endpOf e with
  | .va a => .va (s.copyVia c) ((a + d) % 2 ^ 64).toNat
  | .loc a => .sp (coreOf c.ctx) ((s.ctx c.ctx).spbase + (a + d).toNat)
  | .core n a =>
    match s.coreWin c n (a + d).toNat with
    | some (k, off) => .sp k off
    | none => .bad accWindow (endAddr e d)
  | .pod n a =>
    if BitVec.ofNat 13 n = s.sys.nodeid then .va .window ((a + d) % 2 ^ 64).toNat
    else .pod (BitVec.ofNat 13 n) ((a + d) % 2 ^ 64).toNat
  | .bad => .bad xNoncanon.eng (endAddr e d)

/-- Displacement of offset `o` on a side with steps s1 and s2, and the bytes left in its run. -/
def runAt (c : Copy) (o : Nat) (s1 s2 : Shape → Int) : Int × Nat :=
  match c.shape with
  | none => (o, c.len - o)
  | some h => (s2 h * ((o / h.run / h.n1 : Nat) : Int) + s1 h * ((o / h.run % h.n1 : Nat) : Int) + ((o % h.run : Nat) : Int), h.run - o % h.run)

/-- Place of destination offset `o` and the bytes left in its run; of a ring, the slot of R253. -/
def State.dstPlace (s : State) (c : Copy) (o : Nat) : Place × Nat :=
  match c.ringOf with
  | some q =>
    let r := (s.ctx c.ctx).ring q
    let ps := 16 * r.psize
    let p := (c.claim + BitVec.ofNat 32 (o / ps)).toNat
    (.sp (coreOf c.ctx) ((s.ctx c.ctx).spbase + r.base + ps * (p % r.cap) + o % ps), ps - o % ps)
  | none =>
    let m := runAt c o (·.dstr1) (·.dstr2)
    (s.place c c.a m.1, m.2)

/-- Place of source offset `o`. -/
def State.srcPlace (s : State) (c : Copy) (o : Nat) : Place × Nat :=
  let m := runAt c o (·.sstr1) (·.sstr2)
  (s.place c c.b m.1, m.2)

/-- Reads `n` bytes of the source at offset `o`: the bytes up to the first fault. -/
def State.srcRead (s : State) (c : Copy) (o n : Nat) : State × List Byte × Got Unit :=
  if c.op = 2 then (s, List.replicate n 0, .ok ())
  else match (s.srcPlace c o).1 with
    | .va v a => State.gRead v (n / 65536 + 2) s a n
    | .sp k off =>
      match (List.range n).find? fun j => (s.core k).spPoisoned (off + j) 1 with
      | some j => (s, (s.core k).spRd off j,
          .fault (accPoison (BitVec.ofNat 16 (0x1000 + k))) (endAddr c.b ((runAt c o (·.sstr1) (·.sstr2)).1 + j)))
      | none => (s, (s.core k).spRd off n, .ok ())
    | .pod _ a => (s, [], .fault accRemote a)
    | .bad f a => (s, [], .fault f a)

/-- The command has cleared whole cells in view: CPYZ with address and LEN multiples of 4. -/
def Copy.clears (c : Copy) : Bool := c.op == 2 && c.a.toNat % 4 == 0 && c.len % 4 == 0

/-- The address that a fault at destination offset `o` in scratchpad reports: of a ring, the local one. -/
def State.dstAddr (s : State) (c : Copy) (o off : Nat) : Nat :=
  if c.ringOf.isSome then off - (s.ctx c.ctx).spbase else endAddr c.a (runAt c o (·.dstr1) (·.dstr2)).1

/-- Some offset below `n · st + w` of runs of `w` bytes at steps of `st` is `y`. -/
def inRuns (n w : Nat) (st y : Int) : Bool :=
  if st = 0 then decide (0 ≤ y) && decide (y < w) && decide (0 < n)
  else
    let y := if st < 0 then (w : Int) - 1 - y else y
    let st := (st.natAbs : Int)
    decide (max 0 ((y - w) / st + 1) ≤ min ((n : Int) - 1) (y / st))

/-- Byte `y` past the source's base is one that the command reads. -/
def Copy.reads (c : Copy) (y : Int) : Bool :=
  match c.shape with
  | none => decide (0 ≤ y) && decide (y < c.len)
  | some h => (List.range h.n2).any fun i => inRuns h.n1 h.run h.sstr1 (y - h.sstr2 * (i : Int))

/-- What a place names: scratchpad of a core, or an address of an address space, which an export window stands for (09 R187). -/
def State.spot (s : State) : Place → Option (Bool × Nat × Nat)
  | .sp k off => some (true, k, off)
  | .va (.core _ asid _) a | .va (.walk asid _) a => some (false, asid, a)
  | .va .window a => (s.window a).map fun w => (false, w.asid, a)
  | .va (.held _) _ | .pod .. | .bad .. => none

/-- The place is one of the command's source bytes. DEDUCED, log entry 59. -/
def State.inSource (s : State) (c : Copy) (p : Place) : Bool :=
  c.op != 2 && match s.spot p, s.spot (s.place c c.b 0) with
    | some (_, _, a), some (_, _, b) => c.reads ((a : Int) - b) && s.spot (s.place c c.b ((a : Int) - b)) == s.spot p
    | _, _ => false

/-- A place moved by `j` bytes. -/
def Place.add (p : Place) (j : Nat) : Place :=
  match p with | .sp k off => .sp k (off + j) | .va v a => .va v (a + j) | .pod n a => .pod n (a + j) | .bad f a => .bad f a

/-- The bytes of destination offset `o` on, where those that lie in the source are undefined (11 R245): free values. -/
def State.dstBytes (s : State) (c : Copy) (o : Nat) (bs : List Byte) : List Byte :=
  let p := (s.dstPlace c o).1
  bs.zipIdx.map fun e => if s.inSource c (p.add e.2) then Config.freeByte s.nfree (0x9000000 + o + e.2) else e.1

/-- Writes bytes of the destination at offset `o`, none of which leave their granule or line. -/
def State.dstWrite (s : State) (c : Copy) (o : Nat) (bs : List Byte) : State × Got Unit :=
  let bs := s.dstBytes c o bs
  match (s.dstPlace c o).1 with
  | .va v a => s.gWrite v (match v with | .window => tagPod | _ => c.tag) a bs c.clears false
  | .sp k off =>
    if s.pinnedAt k off bs.length then (s, .fault accPin (s.dstAddr c o off))
    else (s.engStore k off bs, .ok ())
  | .pod _ a => (s, .fault accRemote a)
  | .bad f a => (s, .fault f a)

/-- Panel of ring offset `o`. -/
def ringPanel (r : Ring) (c : Copy) (o : Nat) : W32 := c.claim + BitVec.ofNat 32 (o / (16 * r.psize))

/-- A ring copy may write at offset `o`: its slot is free (11 R253). -/
def State.ringRoom (s : State) (c : Copy) (o : Nat) : Bool :=
  match c.ringOf with
  | none => true
  | some q =>
    let r := (s.ctx c.ctx).ring q
    decide ((ringPanel r c o - r.head).toNat < r.cap)

/-- TAIL passes the panels that have been performed whole. -/
def Ring.pass : Nat → Ring → Ring
  | 0, r => r
  | fuel + 1, r => if r.early.contains r.tail then Ring.pass fuel { r with tail := r.tail + 1, early := r.early.erase r.tail } else r

/-- Panel `p` has been performed whole. -/
def Ring.whole (r : Ring) (p : W32) : Ring := Ring.pass (r.early.length + 1) { r with early := p :: r.early }

/-- TAIL advances past the panels that have been performed whole, in panel order (11 R253): `o` is where the last write ended. -/
def State.ringStep (s : State) (c : Copy) (o : Nat) : State :=
  match c.ringOf with
  | none => s
  | some q =>
    let r := (s.ctx c.ctx).ring q
    if o % (16 * r.psize) = 0 then s.upCtx c.ctx fun x => { x with rings := x.rings.set! q (r.whole (ringPanel r c (o - 1))) } else s

/-! ## Faults -/

/-- The record of a fault of a command (11 R244). -/
def Copy.recOf (c : Copy) (f : AccFault) (va : Nat) : FaultRec := f.record va c.op

/-- Changes command `id` of core `k`. -/
def State.upCopy (s : State) (k id : Nat) (f : Copy → Copy) : State :=
  s.upCore k fun q => { q with copies := q.copies.map fun c => if c.id = id then f c else c }

/-- The command meets a fault. -/
def State.copyFault (s : State) (c : Copy) (f : AccFault) (va : Nat) : State :=
  s.upCopy (coreOf c.ctx) c.id fun c => { c with fault := c.fault.or (some (c.recOf f va)) }

/-- The command meets a page that parks it, or HOSTFAIL where the page-fault ring does not take the record (11 R249). -/
def State.copyPark (s : State) (c : Copy) (acc va : Nat) : State :=
  match s.park (s.asidOf c.ctx) acc (BitVec.ofNat 32 (va / 65536)) with
  | some s' => s'.upCopy (coreOf c.ctx) c.id fun c => { c with parked := true, page := BitVec.ofNat 32 (va / 65536) }
  | none => s.copyFault c accHostFail va

/-- What stops a command, or nothing. -/
def State.copyGot (s : State) (c : Copy) (acc : Nat) : Got Unit → State
  | .ok () => s
  | .park va => s.copyPark c acc va
  | .fault f va => s.copyFault c f va

/-! ## Fetch-operations (11 R255) -/

/-- Performs the acquire of an ACQ command (11 R246; 12 R283). -/
def State.acquireFor (s : State) (c : Copy) : State :=
  if c.lend.acq && !c.acqDone then
    (s.acquire (coreOf c.ctx) c.lend.scope).upCopy (coreOf c.ctx) c.id fun d => { d with acqDone := true }
  else s

/-- New value of the target and the return word's bytes. -/
def fopVal (op w old : Nat) (x : W64) (ret : List Byte) : Nat × List Byte :=
  let m := 2 ^ (8 * w)
  match op with
  | 11 => ((old + x.toNat) % m, natLe 8 old ++ natLe 8 0)
  | 12 =>
    let r := old + bf x 0 32
    if r ≤ bf x 32 32 then (r, natLe 8 old ++ natLe 8 0) else (old, natLe 8 (old + 2 ^ 63) ++ natLe 8 0)
  | 13 => (x.toNat % m, natLe 8 old ++ natLe 8 0)
  | _ =>
    let c := leNat (ret.take w)
    let n := leNat ((ret.drop 8).take w)
    if old = c then (n, natLe 8 old ++ natLe 8 1) else (old, natLe 8 old ++ natLe 8 0)

/-- Performs a FOP: its acquire, the target's word, then the return granule, in one step. A word that stays as it was keeps its
line's tag. -/
def State.fopRun (s : State) (c : Copy) : State :=
  let k := coreOf c.ctx
  let w := fopWidth c.op c.lend.opx
  let off := (s.ctx c.ctx).spbase + c.b.toNat
  let va := bf c.a 0 48
  match s.page (s.copyVia c) .atom .add va with
  | (s, .error (f, park)) => if park && s.hostPf then s.copyPark c 3 va else s.copyFault c f va
  | (s, .ok x) =>
    if x.isValue then s.copyFault c accCellStore va
    else match s.poisonAt (x.paOf va) w with
      | some u => s.copyFault c (accPoison u) va
      | none =>
        if c.op = 14 ∧ (s.core k).spPoisoned off 16 then s.copyFault c (accPoison (BitVec.ofNat 16 (0x1000 + k))) (endAddr c.b 0)
        else if s.pinnedAt k off 16 then s.copyFault c accPin (endAddr c.b 0)
        else
          let s := s.acquireFor c
          let old := leNat (s.rd (x.paOf va) w)
          let r := fopVal c.op w old c.c ((s.core k).spRd off 16)
          ((s.rmwBack c.tag (x.paOf va) w old r.1).engStore k off r.2).upCopy k c.id fun d => { d with off := 16 }

/-! ## Pod copies: flits (13 R307, R310 to R313, R320) -/

/-- Payload bytes of a flit. -/
def flitMax : Nat := 224

/-- A flit of a command. -/
def State.newFlit (s : State) (key : BitVec 16) (id : Nat) (node : BitVec 13) (ord : Bool) (type opx : Nat) (addr : Nat)
    (bs : List Byte) : Flit :=
  { dst := node, hc := 0, ord := ord, src := s.sys.nodeid, pkey := key, type := Fin.ofNat 16 type, opx := Fin.ofNat 8 opx
    addr := BitVec.ofNat 48 addr, tag := BitVec.ofNat 16 id, payload := bs, lseq := 0 }

/-- A flit becomes ready to be sent. -/
def State.ready (s : State) (own : FlitOwner) (f : Flit) : State :=
  s.upFab fun b => { b with outq := b.outq ++ [⟨own, f, s.sys.sidt⟩] }

/-- A flit of a copy becomes ready. -/
def State.copyFlit (s : State) (c : Copy) (node : BitVec 13) (type addr : Nat) (bs : List Byte) : State :=
  let f := { s.newFlit (s.ctx c.ctx).pkey c.id node c.lend.ord type (if 8 ≤ type then c.lend.opx.val else 0) addr bs with
               off := if type = 1 then BitVec.ofNat 48 c.off else 0 }
  (s.ready (.copy (coreOf c.ctx) c.id) f).upCopy (coreOf c.ctx) c.id fun d => { d with unacked := d.unacked + 1 }

/-- TYPE of the flits of a copy. -/
def Copy.flitType (c : Copy) : Nat := if c.op = 2 then 6 else if c.op < 3 then 0 else if c.op ≤ 10 then 8 + (c.op - 3) else 3

/-- Bytes of source and destination that a command's elements take. -/
def Copy.sizes (c : Copy) : Nat × Nat := if c.op < 3 ∨ c.slot.isSome then (1, 1) else cpyaSizes c.op c.lend.opx

/-- Place of the byte or element at which a command goes on performing, and the bytes of its source that are left in that run. -/
def State.outPlace (s : State) (c : Copy) : Place × Nat :=
  if c.op < 3 then s.dstPlace c c.wr else (s.place c c.a (c.sizes.2 * (c.wr / c.sizes.1) : Nat), c.len - c.wr)

/-- Bytes of the source that the next performance takes: a granule of scratchpad, what one line of memory holds, an element, or the payload
of a flit, which stays in one 64 KiB unit (09 R183; 11 R245, R254; 13 R307, R311). -/
def State.outUnit (s : State) (c : Copy) : Nat :=
  if c.slot.isSome then min flitMax (c.len - c.wr)
  else if c.len ≤ c.wr then 0
  else
    let z := c.sizes
    match s.outPlace c with
    | (.pod _ a, n) => min (flitMax / z.1 * z.1) (min ((65536 - a % 65536) / z.2 * z.1) n)
    | (.sp _ off, n) => min n (16 - off % 16)
    | (.va _ a, n) => if c.op < 3 then min n (128 - a % 128) else z.1
    | (.bad .., _) => 1

/-- Bytes among those read that can be performed though they do not fill a performance: no part of a scratchpad granule or of an element
(11 R248). -/
def State.outPart (s : State) (c : Copy) : Nat :=
  match c.slot, (s.outPlace c).1 with
  | none, .sp .. => 0
  | _, _ => c.buf.length / c.sizes.1 * c.sizes.1

/-- Bytes that one read of the source takes: a granule, of a raw cell the whole of it; a granule of a value page is four whole cells (09
R182; 11 R259, R260). CPYZ has zeros for what its next performance lacks. -/
def State.srcUnit (s : State) (c : Copy) : Nat :=
  if c.op = 2 then s.outUnit c - c.buf.length
  else match s.srcPlace c c.off with
    | (.sp _ off, n) => min n (16 - off % 16)
    | (.va v a, n) =>
      let u := match (s.page v .read .rd a).2 with | .ok x => if x.cell && x.raw then 32 else 16 | .error _ => 16
      min n (u - a % u)
    | (_, n) => n

/-- A LAND address of a PUTS: landing ring, offset in the slot, message count (13 R307). -/
def landAddr (r : LandRing) (n : W32) (o : Nat) : Nat := r.plrid + 1024 * o + 2 ^ 26 * (n.toNat % 2 ^ 22)

/-- `n` of the bytes read have been performed, or sent. -/
def State.copyOut (s : State) (c : Copy) (n : Nat) : State :=
  s.upCopy (coreOf c.ctx) c.id fun d => { d with wr := d.wr + n, buf := d.buf.drop n }

/-- An element of the destination that lies in the source is undefined (11 R245), a cell with all its fields. -/
def State.atomOver (s : State) (c : Copy) (v : Via) (a : Nat) : State :=
  if (List.range c.sizes.2).any fun j => s.inSource c (.va v (a + j)) then
    match s.page v .write .add a with
    | (s, .ok x) =>
      s.wr c.tag (x.paOf a) ((List.range (if x.isValue then 32 else c.sizes.2)).map fun j => Config.freeByte s.nfree (0x9000000 + 32 * c.wr + j))
    | (s, .error _) => s
  else s

/-- A flit of the bytes `bs` goes to a pod destination: to one 64 KiB unit at a time, the next one only once every flit has been
acknowledged as performed (13 R311); nothing, while it has to wait. -/
def State.copySend (s : State) (c : Copy) (node : BitVec 13) (a : Nat) (bs : List Byte) : Option State :=
  if !s.fab.routed s.sys.nodeid node then some (s.copyFault c accRemote a)
  else if c.unacked ≠ 0 ∧ c.page.toNat ≠ a / 65536 then none
  else some (((s.copyFlit c node c.flitType a bs).upCopy (coreOf c.ctx) c.id fun d =>
    { d with page := BitVec.ofNat 32 (a / 65536) }).copyOut c bs.length)

/-- Performs the bytes or the element `bs` that come next; nothing, while they have to wait. -/
def State.copyPut (s : State) (c : Copy) (bs : List Byte) : Option State :=
  match c.slot with
  | some (q, n) => (s.fab.ring q).map fun r => (s.copyFlit c r.peer 3 (landAddr r n (16 + c.wr)) bs).copyOut c bs.length
  | none =>
    match (s.outPlace c).1 with
    | .pod node a => s.copySend c node a bs
    | .bad f a => some (s.copyFault c f a)
    | p =>
      if c.op < 3 then
        if !s.ringRoom c c.wr then none
        else match s.dstWrite c c.wr bs with
          | (s, .ok ()) => some ((s.ringStep c (c.wr + bs.length)).copyOut c bs.length)
          | (s, g) => some (s.copyGot c 3 g)
      else match p with
        | .va v a =>
          match s.gAtom v (match v with | .window => tagPod | _ => c.tag) c.op c.lend.opx a (leNat bs) with
          | (s, .ok ()) => some ((s.atomOver c v a).copyOut c bs.length)
          | (s, g) => some (s.copyGot c 3 g)
        | _ => some (s.copyFault c accRemote 0)

/-- The source of a command ends in a fault at offset `o`. -/
def State.copyBad (s : State) (c : Copy) (o : Nat) (r : FaultRec) : State :=
  s.upCopy (coreOf c.ctx) c.id fun d => { d with bad := some (match d.bad with | some b => if b.1 ≤ o then b else (o, r) | none => (o, r)) }

/-- Reads the source on. -/
def State.copyRead (s : State) (c : Copy) : State :=
  match s.srcRead c c.off (s.srcUnit c) with
  | (s, bs, g) =>
    let s := s.upCopy (coreOf c.ctx) c.id fun d => { d with off := d.off + bs.length, buf := d.buf ++ bs }
    match g with
    | .ok () => s
    | .park va => s.copyPark c 2 va
    | .fault f va => s.copyBad c (c.off + bs.length) (c.recOf f va)

/-- Asks a pod source for bytes, of one 64 KiB unit at a time (13 R312); nothing, while that has to wait. -/
def State.copyAsk (s : State) (c : Copy) : Option State :=
  let d := runAt c c.off (·.sstr1) (·.sstr2)
  match s.place c c.b d.1 with
  | .pod node a =>
    if !s.fab.routed s.sys.nodeid node then some (s.copyBad c c.off (c.recOf accRemote a))
    else if c.unacked ≠ 0 ∧ c.page.toNat ≠ a / 65536 then none
    else
      let n := min flitMax (min (65536 - a % 65536) d.2)
      some ((s.copyFlit c node 1 a (List.replicate n 0)).upCopy (coreOf c.ctx) c.id fun d =>
        { d with off := c.off + n, page := BitVec.ofNat 32 (a / 65536), asked := d.asked ++ [(c.off, n)] })
  | .bad f a => some (s.copyBad c c.off (c.recOf f a))
  | .sp _ a | .va _ a => some (s.copyBad c c.off (c.recOf accRemote a))

/-- The source lies at another node. -/
def State.podSrc (s : State) (c : Copy) : Bool := c.op < 2 && match s.place c c.b 0 with | .pod .. => true | _ => false

/-- What a command does next, if it can go on: the answer that continues the bytes joins them; the bytes read are performed, once they
fill a performance or the source has ended in a fault, below which every byte is performed (11 R248); the fault takes effect; the source is read on, to where it has been read `upto` bytes. -/
def State.copyNext (s : State) (c : Copy) (upto : Nat) : Option State :=
  let k := coreOf c.ctx
  let n := s.outUnit c
  let stop := c.bad.any fun b => b.1 == c.wr + c.buf.length
  let m := if n ≤ c.buf.length then n else if stop then s.outPart c else 0
  if c.fault.isSome ∨ c.parked then none
  else match c.got.find? fun e => e.1 == c.wr + c.buf.length with
    | some e => some (s.upCopy k c.id fun d => { d with buf := d.buf ++ e.2, got := d.got.erase e })
    | none =>
      if m ≠ 0 then s.copyPut c (c.buf.take m)
      else if stop then some (s.upCopy k c.id fun d => { d with fault := d.bad.map (·.2), buf := [] })
      else if upto ≤ c.off ∨ c.bad.isSome ∨ n = 0 then none
      else if s.podSrc c then s.copyAsk c
      else if s.ringRoom c c.wr then some (s.copyRead c)
      else none

/-- Goes on with command `id` of core `k` as far as it can, reading `upto` bytes of its source. -/
def State.copyGo : Nat → State → Nat → Nat → Nat → State
  | 0, s, _, _, _ => s
  | fuel + 1, s, k, id, upto =>
    match (s.core k).copies.find? fun c => c.id == id with
    | none => s
    | some c =>
      match s.copyNext c upto with
      | none => s
      | some s => State.copyGo fuel s k id upto

/-- Steps that a command takes at most before it has to wait. -/
def Copy.fuel (c : Copy) (upto : Nat) : Nat :=
  2 * (upto - c.off + c.buf.length + (c.got.map fun e => e.2.length + 1).sum) + 40

/-- The header flit of a PUTS goes once every data flit has been performed (13 R320, R321). -/
def State.putsHead (s : State) (c : Copy) : State :=
  match c.slot with
  | some (q, n) =>
    match s.fab.ring q with
    | some r =>
      if c.len ≤ c.wr ∧ c.unacked = 0 ∧ !c.headed ∧ c.fault.isNone then
        (s.copyFlit c r.peer 3 (landAddr r n 0) (natLe 4 c.len ++ natLe 4 n.toNat)).upCopy (coreOf c.ctx) c.id fun d => { d with headed := true }
      else s
    | none => s
  | none => s

/-- The slot of a PUTS is free: (n − HEAD) mod 2^32 < NSLOT. -/
def State.putsRoom (s : State) (c : Copy) : Bool :=
  match c.slot with
  | some (r, n) => (s.fab.ring r).any fun v => decide ((n - v.a).toNat < v.nslot)
  | none => true

/-! ## Starting, advancing, completing -/

/-- Earlier commands of the same context that are still incomplete. -/
def State.earlier (s : State) (c : Copy) : List Copy :=
  (s.core (coreOf c.ctx)).copies.filter fun d => d.ctx == c.ctx && decide (d.id < c.id)

/-- A fetch-operation. -/
def Copy.isFop (c : Copy) : Bool := decide (11 ≤ c.op) && decide (c.op ≤ 14)

/-- A command may start: every earlier command of its context has started, and its acquire, if it has one, has been performed
(11 R238, R246). -/
def State.mayStart (s : State) (c : Copy) : Bool :=
  (s.earlier c).all fun d => d.started && (!d.lend.acq || d.acqDone || d.fault.isSome)

/-- A command with REL performs once every earlier command of its context has completed (11 R246). -/
def State.relReady (s : State) (c : Copy) : Bool := !c.lend.rel || (s.earlier c).isEmpty

/-- Starts a command: its acquire comes before its first read; that of a FOP comes with its indivisible step. -/
def State.copyBegin (s : State) (c : Copy) : State :=
  if c.started then s
  else
    let s := s.upCopy (coreOf c.ctx) c.id fun d => { d with started := true }
    if c.isFop then s else s.acquireFor c

/-- Performs a started command up to `upto` bytes. DESIGN CHOICE, log entry 59. -/
def State.copyRun (s : State) (c : Copy) (upto : Nat) : State :=
  let upto := min upto c.len
  if c.len = 0 ∨ c.fault.isSome ∨ c.parked ∨ !s.relReady c then s
  else if c.isFop then (if c.off = 0 ∧ 0 < upto then s.fopRun c else s)
  else if c.slot.any fun q => (s.fab.ring q.1).all fun r => !s.fab.routed s.sys.nodeid r.peer then s.copyFault c accRemote 0
  else if !s.putsRoom c then s
  else
    let s := State.copyGo (c.fuel upto) s (coreOf c.ctx) c.id upto
    ((s.core (coreOf c.ctx)).copies.find? fun d => d.id == c.id).elim s s.putsHead

/-- Command `j` of core `k`. -/
def State.copyAt (s : State) (k j : Nat) : Option Copy := (s.core k).copies[j]?
/-- Command `id` of core `k`. -/
def State.copyId (s : State) (k id : Nat) : Option Copy := (s.core k).copies.find? fun c => c.id == id

/-- Takes a command off its queue. -/
def State.dropCopy (s : State) (k id : Nat) : State := s.upCore k fun q => { q with copies := q.copies.filter fun d => d.id != id }

/-- Starts a command that may, and performs it up to `upto` bytes; one whose kernel is being killed goes. -/
def State.copyStep (s : State) (k : Nat) (c : Copy) (upto : Nat) : State :=
  if s.killed c.kid then s.dropCopy k c.id
  else
    let s := s.copyBegin c
    (s.copyId k c.id).elim s fun c => s.copyRun c upto

/-- COMMAND_START: the engine starts a queued command and performs it up to `upto` bytes. -/
def execCommandStart (core j upto : Nat) (s : State) : Host.Outcome State Fault Refusal :=
  .next <|
    match s.copyAt core j with
    | some c => if c.started || s.mayStart c then (s.copyStep core c upto).draw else s
    | none => s

/-- RING_PANEL_ROOM: a ring copy that waited for a free slot goes on writing. -/
def execRingPanelRoom (core j upto : Nat) (s : State) : Host.Outcome State Fault Refusal :=
  .next <|
    match s.copyAt core j with
    | some c => if c.started && c.ringOf.isSome then (s.copyStep core c upto).draw else s
    | none => s

/-- PUTS_SLOT_ROOM: a PUTS that waited for a free landing slot sends its message. -/
def execPutsSlotRoom (core j : Nat) (s : State) : Host.Outcome State Fault Refusal :=
  .next <|
    match s.copyAt core j with
    | some c => if c.started && c.slot.isSome && s.putsRoom c then (s.copyStep core c c.len).draw else s
    | none => s

/-- A fault record of a command or of the matrix engine of context `x` reaches its handle, the context, or, once the instance
has retired, the dispatcher (06 R132; 11 R248; 12 R270). -/
def State.deliverFault (s : State) (x : Nat) (arr : Option Arrive) (f : FaultRec) : State :=
  let c := s.ctx x
  match c.occ with
  | some o =>
    if o.st = .retired then s.failRetired x o f
    else match arr with
      | some _ => s.arrive (coreOf x) arr (some f)
      | none => s.setCtx x { c with frec := c.frec.or (some f) }
  | none => s

/-- A command is performed whole. -/
def Copy.done (c : Copy) : Bool :=
  decide (c.len ≤ c.off) && c.unacked == 0 && c.buf.isEmpty && c.got.isEmpty && (c.slot.isNone || c.headed)

/-- Every write that a command has sent has been performed or refused: what is still out are reads. -/
def Copy.settled (c : Copy) : Bool := decide (c.unacked ≤ c.asked.length)

/-- COMMAND_COMPLETE: the rest of the command is performed, then its arrival is delivered, with the fault record if it met a
fault (11 R246 to R248). -/
def execCommandComplete (core j : Nat) (s : State) : Host.Outcome State Fault Refusal :=
  .next <|
    match s.copyAt core j with
    | none => s
    | some c0 =>
      if !(c0.started || s.mayStart c0) then s
      else
        let s := s.copyStep core c0 c0.len
        match s.copyId core c0.id with
        | none => s.draw
        | some c =>
          (match c.fault with
            | some f => if c.settled then (s.dropCopy core c.id).deliverFault c.ctx c.arr f else s
            | none => if c.done && s.relReady c then (s.dropCopy core c.id).arrive core c.arr none else s).draw

end Sys2Proof.Machine
end

