-- ==== Sys2Proof/Machine/Flits.lean ====
section
/-! DEFINITION. Flits: their bytes, sending, the link layer, replay, and what a target does with them (13 R306 to R316, R321; 14 R329 to
R331, R339). -/

namespace Sys2Proof.Machine

/-- An arriving flit or a BAR access returns the device to C0 (17 R387). -/
def State.toC0 (s : State) : State := s.upSys fun y => { y with cstate := 0 }

/-! ## The bytes of a flit (13 R307, R308) -/

/-- The header. -/
def flitHead (f : Flit) : List Byte :=
  natLe 2 (f.dst.toNat + 2 ^ 13 * f.hc.val + 2 ^ 15 * b2n f.ord) ++ natLe 2 f.src.toNat ++ natLe 2 f.pkey.toNat ++
    natLe 1 (f.type.val + 16 * f.opx.val) ++ natLe 1 f.payload.length ++ natLe 6 f.addr.toNat ++ natLe 2 f.tag.toNat

/-- The trailer up to the CRC. -/
def flitTrail (f : Flit) : List Byte :=
  natLe 2 f.lseq.toNat ++ natLe 2 f.lack.toNat ++ natLe 2 f.free0.toNat ++ natLe 1 f.free1.toNat ++ natLe 1 f.free2.toNat ++
    natLe 1 (f.fline.elim 0 fun k => 128 + k.val) ++ natLe 1 f.fport.val ++ natLe 2 0

/-- Bytes 0x00 to 0xFB. -/
def flitBody (f : Flit) : List Byte := flitHead f ++ f.payload ++ List.replicate (224 - f.payload.length) 0 ++ flitTrail f

/-- The flit with its CRC. -/
def sealFlit (f : Flit) : Flit := { f with crc := crc32c (flitBody f) }

/-- The CRC of a flit holds. -/
def flitIntact (f : Flit) : Bool := decide (f.payload.length ≤ 224) && f.crc == crc32c (flitBody f)

/-! ## Paths (13 R306, R310, R314, R316) -/

/-- The lease port carries ORD flits: no SKEW notice has taken it out (14 R339). -/
def LPort.ordOk (q : LPort) (fr : Nat) : Bool := !(q.noOrd.any fun n => decide (n ≤ fr))

/-- Entry `w` of emitter `ch` of port `p`, which reaches `node`, is a sending opportunity of lease port `q` (13 R310). -/
def State.isLeasePort (s : State) (e : Lease × LPort) (p ch : Nat) (node : BitVec 13) : Bool :=
  e.2.port == p && (s.fab.plays s.frame p ch == some (e.2.line % 16)) && node == e.2.fwd.getD e.1.peer

/-- The ORD paths to `dst` without a lease (13 R316): the direct ports by number, then the candidates from 16 on. -/
def State.ordList (s : State) (dst : BitVec 13) : List Nat :=
  s.fab.directPorts s.sys.nodeid dst ++ (List.range (s.fab.cands dst).length).map (16 + ·)

/-- A link of the ORD path stands. -/
def State.ordStands (s : State) (dst : BitVec 13) (path : Nat) : Bool :=
  if path < 16 then (s.linksTo dst).any fun e => e.1 == path
  else (s.fab.cands dst)[path - 16]?.any fun n => !(s.linksTo n).isEmpty

/-- Number of the ORD path of a flit to `dst` (13 R316): the stripes of a lease in effect with an ORD port, else the entry of the list that the
rule picks; once that path is lost, the entry picked in the same way among those that stand (14 R334). DESIGN CHOICE, log entry 60. -/
def State.ordPathOf (s : State) (f : Flit) : Nat :=
  match (s.leaseStands f.dst).find? fun e => e.2.ordOk s.frame with
  | some (v, _) => 1000 + v.seq
  | none =>
    let pick := fun (l : List Nat) => l[(f.src ^^^ f.dst).toNat % l.length]?
    let all := s.ordList f.dst
    (((pick all).filter (s.ordStands f.dst)).or
      (pick (all.filter fun q => s.ordStands f.dst q && (decide (f.hc.val ≤ 1) || decide (q < 16))))).getD ((pick all).getD 0)

/-- Emitter `ch` of port `p`, which reaches `node`, lies on ORD path `path` to `dst`. -/
def State.onPath (s : State) (p ch : Nat) (node dst : BitVec 13) (path : Nat) : Bool :=
  if 1000 ≤ path then
    (s.leaseStands dst).any fun e => e.1.seq + 1000 == path && e.2.ordOk s.frame && s.isLeasePort e p ch node
  else if path < 16 then p == path && node == dst
  else (s.fab.cands dst)[path - 16]? == some node

/-- The flit only passes through. -/
def OutFlit.transit (o : OutFlit) : Bool := match o.own with | .transit _ => true | _ => false

/-- A flit of hop class up to 1 may take a candidate, one of class 2 only a direct link of the routing entry's ports (13 R313, R314). -/
def State.hopOk (s : State) (f : Flit) (p : Nat) (node : BitVec 13) : Bool :=
  (node == f.dst && (s.fab.directPorts s.sys.nodeid f.dst).contains p) ||
    (decide (f.hc.val ≤ 1) && (s.fab.cands f.dst).contains node)

/-- A flit in transit that has made two hops goes only directly (R314): an ORD one whose path is a candidate, or whose lease has no direct port,
can then go no further. -/
def State.canGo (s : State) (f : Flit) : Bool :=
  s.fab.routed s.sys.nodeid f.dst &&
    (decide (f.hc.val ≤ 1) ||
      if f.ord then
        let q := s.ordPathOf f
        if 1000 ≤ q then (s.leaseStands f.dst).any fun e => e.1.seq + 1000 == q && e.2.ordOk s.frame && e.2.fwd.isNone else decide (q < 16)
      else !(s.fab.directPorts s.sys.nodeid f.dst).isEmpty || (s.leaseStands f.dst).any fun e => e.2.fwd.isNone)

/-- ORD flits of this origin to one target keep to the last path until every one sent has been acknowledged as performed; those in transit
follow the path alone. -/
def State.ordGoes (s : State) (o : OutFlit) (p ch : Nat) (node : BitVec 13) : Bool :=
  let f := o.f
  !f.ord ||
    ((o.transit || (s.fab.ordTx.find? fun e => e.dst == f.dst).all fun e => e.out.isEmpty || e.path == s.ordPathOf f) &&
      s.onPath p ch node f.dst (s.ordPathOf f))

/-- The lease that pins emitter `ch` of port `p` in this slot: peer and owner's key. -/
def State.pinned (s : State) (p ch : Nat) : Option (BitVec 13 × BitVec 16) :=
  s.fab.pinPeer s.frame p s.slot (((s.fab.plays s.frame p ch).getD ch) % 18)

/-- The flit is known to be a secure kernel's: that of a command or transfer, or one that has come in by a secure port, or the answer to one
(17 R388). DESIGN CHOICE, log entry 70. -/
def State.ofSecure (s : State) (o : FlitOwner) : Bool :=
  match o with
  | .copy k id => (s.copyId k id).any fun c => s.worldOf c.ctx
  | .ticket d t _ => ((s.orrery d).ticket t).any (·.world)
  | .transit l => s.sys.worldPort.get false (l / 64)
  | .reply p => s.sys.worldPort.get false p
  | .gone => false

/-- A flit may leave by entry `w` of emitter `ch` of port `p`, which reaches `node`: from a secure port only a secure kernel's; in a LEASE
slot only one for the lease's peer; and while a lease to its target is in effect, a command's flits only by that lease's emitters, but for ORD
flits that no port of it may carry (13 R299, R306, R310, R314, R316; 14 R339; 17 R388). -/
def State.mayGo (s : State) (o : OutFlit) (p ch : Nat) (w : W32) (node : BitVec 13) : Bool :=
  let f := o.f
  let sec := s.ofSecure o.own
  let ls := (s.leaseStands f.dst).filter fun e => s.carries e.2.port sec
  let near := node == f.dst || decide (f.hc.val ≤ 1)
  s.carries p sec && (if ephUse w == 2 then ((s.pinned p ch).any fun e => e.1 == f.dst) && near
    else s.hopOk f p node || (near && ls.any fun e => s.isLeasePort e p ch node)) &&
    (o.transit || ls.isEmpty || (f.ord && decide (s.ordPathOf f < 1000)) || ls.any fun e => s.isLeasePort e p ch node) &&
    s.fab.routed s.sys.nodeid f.dst && s.ordGoes o p ch node

/-- Free-slot count of a hop class. -/
def Link.free (l : Link) (hc : Nat) : Nat := match hc with | 0 => l.free0 | 1 => l.free1 | _ => l.free2
/-- One free slot less. -/
def Link.take (l : Link) (hc : Nat) : Link :=
  match hc with | 0 => { l with free0 := l.free0 - 1 } | 1 => { l with free1 := l.free1 - 1 } | _ => { l with free2 := l.free2 - 1 }
/-- One buffer slot to be returned to the sender. -/
def Link.owe (l : Link) (hc : Nat) : Link :=
  match hc with | 0 => { l with owe0 := l.owe0 + 1 } | 1 => { l with owe1 := l.owe1 + 1 } | _ => { l with owe2 := l.owe2 + 1 }
/-- Something is to be returned to the sender: an acknowledgement or buffer slots. -/
def Link.due (l : Link) : Bool := l.unack != 0 || l.owe0 + l.owe1 + l.owe2 != 0
/-- Everything has been returned. -/
def Link.paid (l : Link) : Link := { l with unack := 0, owe0 := 0, owe1 := 0, owe2 := 0 }

/-- A buffer slot of link `l` is free again. -/
def State.freeBuf (s : State) (l hc : Nat) : State := s.upFab fun b => b.upLink l (·.owe hc)

/-- The command that a flit belongs to is still under way. -/
def State.ownerLive (s : State) (o : FlitOwner) : Bool :=
  match o with
  | .copy k id => (s.copyId k id).isSome
  | .ticket d t id => ((s.orrery d).ticket t).any fun v => v.id == id
  | .transit _ | .reply _ | .gone => true

/-- The node that a copy sends flits to. -/
def State.copyNode (s : State) (c : Copy) : Option (BitVec 13) :=
  match c.slot with
  | some (r, _) => (s.fab.ring r).map (·.peer)
  | none => [c.a, c.b].findSome? fun e => match endpOf e with | .pod n _ => some (BitVec.ofNat 13 n) | _ => none

/-- A copy has flits that it has still to form: READREQs of a pod source, else those of its destination. -/
def State.unsent (s : State) (c : Copy) : Bool :=
  c.fault.isNone && (decide ((if s.podSrc c then c.off else c.wr) < c.len) || (c.slot.isSome && !c.headed))

/-- The 64 KiB page at the pod that the next flit of a copy belongs to. -/
def State.copyPage (s : State) (c : Copy) : Option W32 :=
  match (if s.podSrc c then s.place c c.b (runAt c c.off (·.sstr1) (·.sstr2)).1 else (s.outPlace c).1) with
  | .pod _ a => some (BitVec.ofNat 32 (a / 65536))
  | _ => none

/-- A shaped copy has still bytes to send to the 64 KiB page that it is sending to. -/
def State.pageUnsent (s : State) (c : Copy) : Bool := s.unsent c && s.copyPage c == some c.page

/-- Waiting ORD flit `q`, in place `i`, goes before flit `o` in place `j` of the same origin and target: in TAG order; of one shaped copy, in
the order of their addresses; else as they became ready (13 R316). -/
def State.ordBefore (s : State) (q : OutFlit) (i : Nat) (o : OutFlit) (j : Nat) : Bool :=
  q.f.ord && q.f.dst == o.f.dst && q.f.src == o.f.src && s.ownerLive q.own &&
    match q.own, o.own with
    | .copy _ a, .copy k b =>
      if a ≠ b then decide (a < b)
      else if ((s.copyId k b).bind (·.shape)).isSome ∧ q.f.addr ≠ o.f.addr then decide (q.f.addr.toNat < o.f.addr.toNat)
      else decide (i < j)
    | _, _ => decide (i < j)

/-- It is the turn of the `j`-th waiting flit among the ORD flits of its origin to its target (13 R316). DESIGN CHOICE, log entry 60. -/
def State.ordTurn (s : State) (o : OutFlit) (j : Nat) : Bool :=
  !o.f.ord ||
    (!(s.fab.outq.zipIdx.any fun q => s.ordBefore q.1 q.2 o j) &&
      match o.own with
      | .copy k id =>
        !(s.cores.any fun e => decide (e.1 < 384) && e.2.copies.any fun c =>
          c.lend.ord && decide (c.id < id) && s.unsent c && s.copyNode c == some o.f.dst) &&
          !((s.copyId k id).any fun c => c.shape.isSome && s.pageUnsent c)
      | _ => true)

/-- Priority of a flit on an entry (13 R306): transit by hop class, then the owning kernel's key in its copy order, then others. An answer has
no place in that order. DESIGN CHOICE, log entry 60. -/
def State.prio (s : State) (o : OutFlit) (p ch : Nat) (w : W32) : Nat × Nat :=
  let key := ephUse w == 2 && (s.pinned p ch).any fun e => e.2 == o.f.pkey
  match o.own with
  | .transit _ => (3 - o.f.hc.val, 0)
  | .copy _ id | .ticket _ _ id => if key then (4, id) else (5, 0)
  | .reply _ | .gone => (if key then 4 else 5, 0)

/-- One place in the order comes before another. -/
def prioLt (a b : Nat × Nat) : Bool := decide (a.1 < b.1) || (a.1 == b.1 && decide (a.2 < b.2))

/-- The sending opportunity of emitter `ch` of port `p` now: the entry and the node reached. -/
def State.opportunity (s : State) (p ch : Nat) : Option (W32 × BitVec 13) :=
  let f := s.fab
  let w := f.active p s.slot ch
  let k := ephLine w
  if f.portOn p && f.sync && s.window? && ephUse w != 0 && f.chLive p ch && f.lineLit p k &&
      !f.lossTold.get false (128 * p + k % 64) && decide (f.sent.get 0 (18 * p + ch) < 100) then
    match f.direct s.sys.nodeid p k with
    | some e => if s.heard e.1 then some (w, e.1) else none
    | none => none
  else none

/-! ## Trailers (13 R308, R309; 14 R329) -/

/-- A sequence number does not come after `a`. -/
def seqLe (x a : BitVec 16) : Bool := decide ((a - x).toNat < 2 ^ 15)

/-- A stored flit belongs to a run that a REPLAY has announced and that has not come to it yet: it goes, whatever has been acknowledged since (14
R330). -/
def Fabric.announced (f : Fabric) (t : Stored) : Bool :=
  t.link.isNone && f.links.any fun e => e.2.out.any fun r => r.1 == t.orig && decide ((t.olseq - r.2.1).toNat < r.2.2)

/-- Takes in an acknowledgement of link `l` with the slots released; `again` starts a replay of what it does not cover. -/
def Fabric.ackLink (f : Fabric) (l : Nat) (ack : BitVec 16) (f0 f1 f2 : Nat) (again : Bool) : Fabric :=
  { f.upLink l fun q => { q with free0 := min 256 (q.free0 + f0), free1 := min 64 (q.free1 + f1), free2 := min 64 (q.free2 + f2) } with
    store := (f.store.filter fun t =>
      !((t.link == some l && seqLe t.f.lseq ack) || (t.orig == l && seqLe t.olseq ack && !f.announced t))).map fun t =>
        if again && t.link == some l then { t with again := true } else t }

/-- The link whose sender is `node` and to which something is to be returned. -/
def Fabric.dueTo (f : Fabric) (node : BitVec 13) : Option (Nat × Link) :=
  ((List.range 1024).find? fun l => (f.link l).peer == some node && (f.link l).due).map fun l => (l, f.link l)

/-- Fills the trailer of a flit to `node` with what is to be returned to it, and seals the flit. -/
def State.trailer (s : State) (node : BitVec 13) (g : Flit) : State × Flit :=
  match s.fab.dueTo node with
  | none => (s, sealFlit { g with fline := none, lack := 0, free0 := 0, free1 := 0, free2 := 0, fport := 0 })
  | some (l, q) =>
    (s.upFab fun f => f.upLink l Link.paid,
      sealFlit { g with lack := q.rx - 1, free0 := BitVec.ofNat 16 q.owe0, free1 := BitVec.ofNat 8 q.owe1, free2 := BitVec.ofNat 8 q.owe2
                        fline := some (Fin.ofNat 128 (l % 64)), fport := Fin.ofNat 16 (l / 64) })

/-- Takes in the trailer of a flit that has arrived on link `l`: it names the receiving port of the line that this device sends on. LACK
counts, as the releases do, for the link that FLINE and FPORT name, and not at all where V is 0. DEDUCED, log entry 44. -/
def State.takeTrailer (s : State) (l : Nat) (g : Flit) : State :=
  match g.fline, (s.fab.link l).peer with
  | some k, some n =>
    match (List.range 16).find? fun p => s.fab.direct s.sys.nodeid p k.val == some (n, g.fport.val) with
    | some p => s.upFab fun f => f.ackLink (64 * p + k.val % 64) g.lack g.free0.toNat g.free1.toNat g.free2.toNat false
    | none => s
  | _, _ => s

/-! ## Sending -/

/-- A flit leaves by line `k` of port `p`, emitter `ch`. -/
def State.putFlit (s : State) (p ch k : Nat) (g : Flit) : State :=
  (s.upFab fun f => { f with sent := f.sent.put (18 * p + ch) (f.sent.get 0 (18 * p + ch) + 1) }).put (.flit p k g)

/-- An own ORD flit takes its place in the stripe order (13 R316). DESIGN CHOICE, log entry 60. -/
def State.ordSend (s : State) (o : OutFlit) : State × Flit :=
  if !o.f.ord || o.transit then (s, o.f)
  else
    let e := (s.fab.ordTx.find? fun e => e.dst == o.f.dst).getD ⟨o.f.dst, 0, 0, []⟩
    let out := e.out ++ [(e.next, o.f.tag, o.f.payload.length)]
    (s.upFab fun f => { f with
      ordTx := ⟨o.f.dst, s.ordPathOf o.f, e.next + 1, out⟩ :: f.ordTx.filter fun d => d.dst != o.f.dst },
      { o.f with oseq := e.next, obase := (out.head?.map (·.1)).getD e.next })

/-- Sends the `j`-th waiting flit on link `l` by comb line `k` of port `p` to `node`. -/
def State.sendFlit (s : State) (p ch k j : Nat) (node : BitVec 13) (o : OutFlit) : State :=
  let l := 64 * p + k % 64
  let r := s.ordSend o
  let t := r.1.trailer node { r.2 with lseq := (s.fab.link l).tx }
  (t.1.upFab fun f =>
    let f := f.upLink l fun q => { q with tx := q.tx + 1 }.take o.f.hc.val
    let f := match o.own with
      | .transit li => f.upLink li (·.owe (o.f.hc.val - 1))
      | _ => f
    { f with outq := f.outq.eraseIdx j, store := f.store ++ [⟨o.own, t.2, some l, s.sys.sidt, l, t.2.lseq, false⟩] }).putFlit p ch k t.2

/-! ## Replay (14 R329, R330) -/

/-- The flit with the lowest of some sequence numbers. -/
def lowestSeq (key : Stored → BitVec 16) (ts : List Stored) : Option Stored :=
  ts.foldl (fun a t => match a with | none => some t | some u => if seqLe (key u) (key t) then a else some t) none

/-- The flit that link `l` sends again next: the first of those that a discard calls for. -/
def Fabric.resend (f : Fabric) (l : Nat) : Option Stored := lowestSeq (·.f.lseq) (f.store.filter fun t => t.link == some l && t.again)

/-- Sends a stored flit again on its own link, with the LSEQ it had. -/
def State.sendAgain (s : State) (p ch k : Nat) (node : BitVec 13) (t : Stored) : State :=
  let r := s.trailer node t.f
  (r.1.upFab fun f => { f with store := f.store.map fun u => if u = t then { t with f := r.2, again := false } else u }).putFlit p ch k r.2

/-- The flits of lost link `lost` that wait to be replayed. -/
def Fabric.waiting (f : Fabric) (lost : Nat) : List Stored := f.store.filter fun t => t.link.isNone && t.orig == lost

/-- The flits of `ts` from `o` on whose original LSEQs follow one another. -/
def runLength (ts : List Stored) (o : BitVec 16) : Nat → Nat
  | 0 => 0
  | n + 1 => if ts.any fun t => t.olseq == o then runLength ts (o + 1) n + 1 else 0

/-- Sends a waiting flit on replay link `l`, with that link's next LSEQ. -/
def State.sendReplay (s : State) (p ch k : Nat) (node : BitVec 13) (t : Stored) : State :=
  let l := 64 * p + k % 64
  let r := s.trailer node { t.f with lseq := (s.fab.link l).tx }
  (r.1.upFab fun f =>
    { f.upLink l (fun q => { q with
        tx := q.tx + 1, out := q.out.bind fun e => if e.2.2 ≤ 1 then none else some (e.1, e.2.1 + 1, e.2.2 - 1) }.take t.f.hc.val) with
      store := f.store.map fun u => if u = t then { t with f := r.2, link := some l } else u }).putFlit p ch k r.2

/-- The lost link whose flits link `l` to `node` takes up: one that no other standing link replays already. DESIGN CHOICE, log entry 44. -/
def State.lostFor (s : State) (l : Nat) (node : BitVec 13) : Option Nat :=
  ((s.fab.store.filter fun t => t.link.isNone).map (·.orig)).dedup.find? fun lost =>
    ((s.fab.direct s.sys.nodeid (lost / 64) (lost % 64)).any fun e => e.1 == node) && s.carries (l / 64) (s.sys.worldPort.get false (lost / 64)) &&
      match s.fab.replayVia.get none lost with
      | some v => v == l || !s.linkUp (v / 64) (v % 64)
      | none => true

/-- Announces the run of flits with which the replay of `lost` goes on here. On the link itself, once it stands again, they are sent again
as they were. -/
def State.announceReplay (s : State) (p k lost : Nat) : State :=
  let l := 64 * p + k % 64
  let ts := s.fab.waiting lost
  match lowestSeq (·.olseq) ts with
  | none => s
  | some t =>
    if lost = l then
      s.upFab fun f => { f with store := f.store.map fun u =>
        if u.link.isNone ∧ u.orig = l then { u with f := { u.f with lseq := u.olseq }, link := some l, again := true } else u }
    else
      let n := runLength ts t.olseq ts.length
      (s.upFab fun f => { f.upLink l (fun q => { q with out := some (lost, t.olseq, n) }) with
        replayVia := f.replayVia.set none lost (some l) }).put (.replay p k (lost / 64) (lost % 64) t.olseq n (s.fab.link l).tx)

/-- The next flit of the run that link `l` has announced goes, if the buffer has a slot for it. -/
def State.runNext (s : State) (p ch k : Nat) (node : BitVec 13) : Option State :=
  let l := 64 * p + k % 64
  match (s.fab.link l).out with
  | none => none
  | some (lost, o, _) =>
    match (s.fab.waiting lost).find? fun t => t.olseq == o with
    | some t => if 0 < (s.fab.link l).free t.f.hc.val then some (s.sendReplay p ch k node t) else none
    | none => some (s.upFab fun f => f.upLink l fun q => { q with out := none })

/-- What emitter `ch` of port `p` owes its link before new flits: the rest of an announced run, without another flit between; a flit to be sent
again; the next replay. -/
def State.linkWork (s : State) (p ch k : Nat) (node : BitVec 13) : Option State :=
  let l := 64 * p + k % 64
  match s.runNext p ch k node, s.fab.resend l with
  | some s, _ => some s
  | none, some t => some (s.sendAgain p ch k node t)
  | none, none =>
    if (s.fab.link l).out.isSome then some s
    else (s.lostFor l node).map fun lost =>
      let s := s.announceReplay p k lost
      (s.runNext p ch k node).getD s

/-- The flits of the lost link (p, k) that no acknowledgement covers wait to be replayed; the count of those flits. -/
def State.restripe (s : State) (p k : Nat) : State × Nat :=
  let l := 64 * p + k % 64
  (s.upFab fun f => { f.upLink l (fun q => { q with out := none }) with
    store := f.store.map fun t => if t.link = some l then { t with link := none, again := false } else t
    replayVia := f.replayVia.filter fun e => e.2 != some l },
    (s.fab.store.filter fun t => t.link == some l).length)

/-! ## The link layer (14 R329, R330) -/

/-- LINK_ACK_RX: frees the copies that it covers and takes free slots back; after a discard the rest is replayed. -/
def execLinkAckRx (p : Fin 16) (k : Fin 128) (a : LinkAck) (f0 f1 f2 : Nat) (s : State) : Host.Outcome State Fault Refusal :=
  .next <| s.toC0.upFab fun f => f.ackLink (64 * p.val + k.val % 64) a.ack f0 f1 f2 a.again

/-- Returns the last LSEQ accepted on link `l` and the slots freed in a control flit. -/
def State.sendLack (s : State) (l : Nat) (again : Bool) : State :=
  let q := s.fab.link l
  (s.upFab fun f => f.upLink l Link.paid).emit (.linkAck (l / 64) (l % 64) (q.rx - 1) q.owe0 q.owe1 q.owe2 again)

/-- LACK_DUE: 200 ns after the first flit that is still unacknowledged; and slots freed since are returned. -/
def execLackDue (p : Fin 16) (k : Fin 128) (s : State) : Host.Outcome State Fault Refusal :=
  let l := 64 * p.val + k.val % 64
  .next (if (s.fab.link l).due then s.sendLack l false else s)

/-- REPLAY_RX: the flits that follow on link (p, k), from its LSEQ `start` on, replay those of link (lp, lk). -/
def execReplayRx (p : Fin 16) (k : Fin 128) (lp : Fin 16) (lk : Fin 128) (r : ReplayAt) (n : Nat) (s : State) :
    Host.Outcome State Fault Refusal :=
  .next (s.toC0.upFab fun f => f.upLink (64 * p.val + k.val % 64) fun q =>
    { q with replay := if n = 0 then none else some (64 * lp.val + lk.val % 64, r.first, n, r.start) })

/-- Adds one to a saturating 16-bit count. -/
def satInc (x : BitVec 16) : BitVec 16 := if x = 0xFFFF then x else x + 1

/-- Some detector of port `p` listens on comb line `k` in this slot; an entry whose line has no valid reach entry acts as IDLE (13 R299). -/
def State.listens (s : State) (p k : Nat) : Bool :=
  (List.range 18).any fun c =>
    let w := s.fab.active p s.slot (18 + c)
    ephUse w != 0 && ephLine w == k && s.fab.chLive p (18 + c) && (s.fab.reachAt s.sys.nodeid p k).isSome

/-- The link's checks on a flit that arrives at port `p` on comb line `k`: whether its payload counts (14 R329, R330; 13 R299, R307). A flit
that is discarded starts a replay; LACK goes back after every 64 flits. -/
def State.accept (s : State) (p k : Nat) (f : Flit) : State × Bool :=
  let l := 64 * p + k % 64
  let q := s.fab.link l
  let s := s.toC0
  if !s.fab.portOn p || !s.listens p k then (s, false)
  else if !flitIntact f || f.lseq != q.rx then ((s.upFab fun b => { b with lerrCrc := satInc b.lerrCrc }).sendLack l true, false)
  else
    let run := q.replay.filter fun r => r.2.2.2 == f.lseq
    let s : State := (s.upFab fun b => b.upLink l fun q =>
      { q with rx := q.rx + 1, unack := q.unack + 1
               replay := match run with
                 | some (a, o, n, t) => if n ≤ 1 then none else some (a, o + 1, n - 1, t + 1)
                 | none => q.replay }).takeTrailer l f
    let fresh := match run with
      | some (ll, o, _) => !seqLe o ((s.fab.link ll).rx - 1)
      | none => true
    let s : State := match run with
      | some (ll, o, _) => if fresh then s.upFab fun b => b.upLink ll fun q => { q with rx := o + 1 } else s
      | none => s
    let s := if 64 ≤ (s.fab.link l).unack then s.sendLack l false else s
    if !fresh then (s.freeBuf l f.hc.val, false)
    else if f.dst = s.sys.nodeid ∧ (f.type = 7 ∨ f.hc = 3) then
      ((s.upFab fun b => { b with lerrRsv := satInc b.lerrRsv }).freeBuf l f.hc.val, false)
    else (s, true)

/-! ## Checks at the target (13 R311, R318) -/

/-- A PKEYMISS record, at most one for each source and key in a frame. -/
def State.pkeyEvent (s : State) (p : Nat) (src : BitVec 13) (key : BitVec 16) : State :=
  if s.fab.pkeyMiss.contains (src, key) then s
  else (s.event { s.ev 0x0E with port := p, peer := src.toNat, pkey := key.toNat }).upFab fun b =>
    { b with pkeyMiss := (src, key) :: b.pkeyMiss }

/-- The record of a refusal; OP is the sender's to fill in. -/
def refusal (f : AccFault) (va : Nat) : FaultRec := f.record va 0

/-- The first refusal of the checks at the flit's VA, or the address space and page that let it in. -/
def State.targetCheck (s : State) (f : Flit) (op : WinOp) (acc : Acc) : State × Except FaultRec (Nat × Xl) :=
  let va := f.addr.toNat
  if !s.fab.keyOk f.pkey then (s, .error (refusal accPkey va))
  else match s.page .window acc op va with
    | (s, .error (g, _)) => (s, .error (refusal g va))
    | (s, .ok x) =>
      let t := f.type.val
      if t = 10 ∧ !x.isValue then (s, .error (refusal accNotCell va))
      else if t = 10 ∨ t = 1 ∨ !x.isValue ∨ (t = 6 ∧ va % 4 = 0 ∧ f.payload.length % 4 = 0) then
        (s, .ok ((s.window va).elim 0 (·.asid), x))
      else (s, .error (refusal accCellStore va))

/-- The verdict is about the command that the flit belongs to. -/
def Verdict.about (v : Verdict) (f : Flit) : Bool := v.src == f.src && v.tag == f.tag && v.pkey == f.pkey && v.type == f.type

/-- The verdict stays when one on `f` is made: of another origin, or of a command so near that its TAG has not come round. -/
def Verdict.stays (v : Verdict) (f : Flit) : Bool :=
  v.src != f.src || (v.tag != f.tag && (decide ((f.tag - v.tag).toNat < 2 ^ 14) || decide ((v.tag - f.tag).toNat < 2 ^ 14)))

/-- The verdict is about the command and the destination page of a flit. -/
def Verdict.on (v : Verdict) (f : Flit) : Bool := v.about f && v.page == f.addr.toNat / 65536

/-- A verdict: the refusal, or how the page is found that the flit is let into, through the windows again once TLBINV has removed it. -/
def Verdict.via (v : Verdict) : Except FaultRec Via :=
  match v.bad with
  | some r => .error r
  | none => .ok (v.xl.elim .window fun x => .held x.2)

/-- The verdict on the destination page of a flit: made on the first flit of the command that reaches the page (R311). DEDUCED, log entry 37. -/
def State.verdict (s : State) (p : Nat) (f : Flit) (op : WinOp) (acc : Acc) : State × Except FaultRec Via :=
  match s.fab.verdicts.find? (·.on f) with
  | some v => (s, v.via)
  | none =>
    let r := s.targetCheck f op acc
    let s := if s.fab.keyOk f.pkey then r.1 else r.1.pkeyEvent p f.src f.pkey
    let v : Verdict := match r.2 with
      | .ok x => ⟨f.src, f.tag, f.pkey, f.type, f.addr.toNat / 65536, none, some x⟩
      | .error e => ⟨f.src, f.tag, f.pkey, f.type, f.addr.toNat / 65536, some e, none⟩
    (s.upFab fun b => { b with verdicts := v :: b.verdicts.filter (·.stays f) }, v.via)

/-- A flit that met a refusal as it was performed: the command's later flits to the page are refused too (11 R248). -/
def State.refusedOn (s : State) (f : Flit) (bad : Option FaultRec) : State :=
  match bad with
  | none => s
  | some r => s.upFab fun b => { b with verdicts := b.verdicts.map fun v => if v.on f then { v with bad := some r } else v }

/-- A performed acknowledgement of one flit. -/
def State.ackFlit (s : State) (f : Flit) (bad : Option FaultRec) : State := s.emit (.performed f.src f.tag 1 bad)

/-- The refusal that the end of an access gives. -/
def Got.refused : Got Unit → Option FaultRec
  | .ok () => none
  | .park va => some (refusal xNomap.eng va)
  | .fault g va => some (refusal g va)

/-- A flit is checked, performed and acknowledged. -/
def State.performFlit (s : State) (p : Nat) (f : Flit) (op : WinOp) (acc : Acc) (act : Via → State → State × Got Unit) : State :=
  match s.verdict p f op acc with
  | (s, .error r) => s.ackFlit f (some r)
  | (s, .ok v) =>
    match act v s with
    | (s, g) => (s.refusedOn f g.refused).ackFlit f g.refused

/-- Writes the bytes of a flit, page by page, the first of which `v` finds. -/
def State.winWrite (v : Via) : Nat → State → Nat → List Byte → Bool → State × Got Unit
  | 0, s, _, _, _ => (s, .ok ())
  | fuel + 1, s, va, bs, clear =>
    if bs.isEmpty then (s, .ok ())
    else
      let m := min bs.length (65536 - va % 65536)
      match s.gWrite v tagPod va (bs.take m) clear true with
      | (s, .ok ()) => State.winWrite v.next fuel s (va + m) (bs.drop m) clear
      | r => r

/-- Performs the elements of an atomic or cell-add flit, one at a time. -/
def State.winAtoms (s : State) (v : Via) (op opx va : Nat) : List Byte → Nat → State × Got Unit
  | _, 0 => (s, .ok ())
  | bs, fuel + 1 =>
    let z := cpyaSizes op opx
    if bs.length < z.1 then (s, .ok ())
    else match s.gAtom v tagPod op opx va (leNat (bs.take z.1)) with
      | (s, .ok ()) => s.winAtoms (if (va + z.2) % 65536 = 0 then v.next else v) op opx (va + z.2) (bs.drop z.1) fuel
      | r => r

/-! ## Reads by peers and answers (13 R312) -/

/-- A READREQ is checked, read and answered with the bytes that could be read; a refusal follows for the rest. -/
def State.readFlit (s : State) (p : Nat) (f : Flit) : State :=
  match s.verdict p f .rd .read with
  | (s, .error r) => s.ackFlit f (some r)
  | (s, .ok v) =>
    match State.gRead v 2 s f.addr.toNat f.payload.length with
    | (s, bs, g) =>
      let s := if bs.isEmpty then s
        else s.ready (.reply p) { f with
          dst := f.src, src := s.sys.nodeid, hc := 0, ord := false, type := 2, opx := 0, addr := f.off, off := f.addr, payload := bs }
      match g.refused with
      | none => s
      | some r => s.ackFlit f (some r)

/-- A command of this device that a node knows by TAG: the core and the command. -/
def State.byTag (s : State) (node : BitVec 13) (tag : BitVec 16) : Option Copy :=
  (s.cores.flatMap fun e => if e.1 < 384 then e.2.copies else []).find? fun c =>
    BitVec.ofNat 16 c.id == tag && decide (c.unacked ≠ 0) &&
      (match c.slot with
        | some (r, _) => (s.fab.ring r).any fun v => v.peer == node
        | none => [c.a, c.b].any fun e => match endpOf e with | .pod n _ => BitVec.ofNat 13 n == node | _ => false)

/-- ORD flits of a TAG to a node are no longer outstanding: the first `n` of them. -/
def OrdTx.acked (e : OrdTx) (tag : BitVec 16) : Nat → OrdTx
  | 0 => e
  | n + 1 =>
    match e.out.find? fun q => q.2.1 == tag with
    | some q => OrdTx.acked { e with out := e.out.erase q } tag n
    | none => e

/-- Flits of a TAG acknowledged as performed, or refused: what ORD flits of it are outstanding, whatever has become of the command (13
R316). -/
def State.ordAcked (s : State) (node : BitVec 13) (tag : BitVec 16) (n : Nat) : State :=
  s.upFab fun b => { b with ordTx := b.ordTx.map fun e => if e.dst = node then e.acked tag n else e }

/-- Changes a command and goes on with what follows from its answers. -/
def State.copyHeard (s : State) (c : Copy) (g : Copy → Copy) : State :=
  let k := coreOf c.ctx
  let s := s.upCopy k c.id g
  State.copyGo (c.fuel 0 + 460) s k c.id 0

/-- The answer to a READREQ, or the part of it that its source could read, joins the command's bytes at the transfer offset that ADDR
gives. -/
def State.answerFlit (s : State) (f : Flit) : State :=
  match s.byTag f.src f.tag with
  | none => if s.fab.ordTx.any fun e => e.dst == f.src && e.out.any fun q => q.2 == (f.tag, f.payload.length) then s.ordAcked f.src f.tag 1 else s
  | some c =>
    let o := f.addr.toNat
    let n := f.payload.length
    match c.asked.find? fun e => e.1 == o && decide (n ≤ e.2) && decide (0 < n) with
    | none => s
    | some e =>
      let whole := n == e.2
      (if whole then s.ordAcked f.src f.tag 1 else s).copyHeard c fun d =>
        { d with
          asked := d.asked.flatMap fun a => if a = e then (if whole then [] else [(o + n, e.2 - n)]) else [a]
          unacked := if whole then d.unacked - 1 else d.unacked
          got := d.got ++ [(o, f.payload)] }

/-! ## Landing (13 R321) -/

/-- Full count of a LAND flit from its 22 bits. -/
def landCount (rhead : W32) (c : Nat) : W32 :=
  let d := (c + 2 ^ 22 - rhead.toNat % 2 ^ 22) % 2 ^ 22
  rhead + BitVec.ofNat 32 d

/-- Writes bytes of a landing ring through the address space of the kernel that set it. -/
def State.landWrite (s : State) (r : LandRing) (va : Nat) (bs : List Byte) : State × Got Unit :=
  (units64 va bs.length).foldl (fun acc u =>
    match acc with
    | (s, .ok ()) =>
      let a := max va (65536 * u)
      let part := (bs.drop (a - va)).take (65536 * (u + 1) - a)
      match s.walkFor r.asid false .write a with
      | .error g => (s, .fault g.eng a)
      | .ok x =>
        match s.pageWrite x tagPod a part false true with
        | .ok s' => (s', .ok ())
        | .error g => (s, .fault g a)
    | e => e) (s, .ok ())

/-- What a LAND flit does once it is accepted. -/
def State.land (s : State) (p : Nat) (f : Flit) : State :=
  let a := f.addr.toNat
  let off := a / 1024 % 65536
  let no := fun (s : State) (g : AccFault) => s.ackFlit f (some (refusal g a))
  if !s.fab.keyOk f.pkey then no (s.pkeyEvent p f.src f.pkey) accPkey
  else match s.fab.ring (a % 1024) with
    | none => no s accRemote
    | some r =>
      let n := landCount r.a (a / 2 ^ 26)
      if r.tx || r.peer != f.src || decide (r.nslot ≤ (n - r.a).toNat) || (off != 0 && decide (off < 16)) ||
          decide (r.slotsz < off + f.payload.length) then no s accRemote
      else
        let slot := r.base + r.slotsz * (n.toNat % r.nslot)
        if off = 0 then
          match s.landWrite r slot (f.payload.take 4 ++ natLe 4 n.toNat ++ natLe 2 f.src.toNat ++ natLe 6 0) with
          | (s, .ok ()) =>
            let r' := { r with b := if (n + 1 - r.a).toNat ≤ (r.b - r.a).toNat then r.b else n + 1
                               landing := r.landing.filter (· != n) }
            let s := s.setRing (a % 1024) (some r')
            (match r.arr with
              | some h => s.post (.anon h.obj 1 none r.core none)
              | none => s).ackFlit f none
          | (s, .fault g _) => no s g
          | (s, .park _) => no s accRemote
        else
          match s.landWrite r (slot + off) f.payload with
          | (s, .ok ()) =>
            (s.setRing (a % 1024) (some { r with landing := if r.landing.contains n then r.landing else n :: r.landing })).ackFlit f none
          | (s, .fault g _) => no s g
          | (s, .park _) => no s accRemote

/-! ## Arrival -/

/-- What a flit for this node does by its TYPE. -/
def State.performRx (s : State) (p : Nat) (f : Flit) : State :=
  match f.type.val with
  | 0 => s.performFlit p f .wr .write fun v s => State.winWrite v 2 s f.addr.toNat f.payload false
  | 6 => s.performFlit p f .wr .write fun v s => State.winWrite v 2 s f.addr.toNat (List.replicate f.payload.length 0) true
  | 1 => s.readFlit p f
  | 2 => s.answerFlit f
  | 3 => s.land p f
  | t =>
    if t < 8 then s
    else s.performFlit p f .add (if t = 10 then .write else .atom) fun v s => s.winAtoms v (t - 5) f.opx.val f.addr.toNat f.payload 256

/-- What has been received from a node in ORD, or nothing so far. -/
def Fabric.ordFrom (f : Fabric) (src : BitVec 13) (base : Nat) : OrdRx := (f.ordRx.find? fun e => e.src == src).getD ⟨src, base, []⟩

/-- Sets what has been received from a node in ORD. -/
def State.setOrdRx (s : State) (r : OrdRx) : State := s.upFab fun f => { f with ordRx := r :: f.ordRx.filter fun e => e.src != r.src }

/-- Performs the ORD flits of a source whose turn has come, each in its place; one whose place has been given up is refused (13 R316; 14
R339). -/
def State.ordRun : Nat → State → BitVec 13 → State
  | 0, s, _ => s
  | fuel + 1, s, src =>
    let r := s.fab.ordFrom src 0
    match r.held.find? fun e => decide (e.2.oseq ≤ r.next) with
    | none =>
      match r.held.find? fun e => decide (r.next < e.2.obase) with
      | some e => State.ordRun fuel (s.setOrdRx { r with next := e.2.obase }) src
      | none => s
    | some e =>
      let s := s.setOrdRx { r with next := if e.2.oseq = r.next then r.next + 1 else r.next, held := r.held.erase e }
      let s := if e.2.oseq = r.next then s.performRx (e.1 / 64) e.2 else s.ackFlit e.2 (some (refusal accRemote e.2.addr.toNat))
      State.ordRun fuel (s.freeBuf e.1 e.2.hc.val) src

/-- An ORD flit waits for its turn, holding its buffer slot, and whatever can be performed then is. DESIGN CHOICE, log entry 60. -/
def State.ordIn (s : State) (l : Nat) (f : Flit) : State :=
  let r := s.fab.ordFrom f.src f.obase
  State.ordRun (2 * r.held.length + 4) (s.setOrdRx { r with held := r.held ++ [(l, f)] }) f.src

/-- A flit for this node of a TYPE that `mine` picks, or a reserved one, which is counted: accepted and performed, then its buffer slot is
freed. -/
def State.receive (s : State) (p k : Nat) (f : Flit) (mine : Nat → Bool) : State :=
  if f.dst ≠ s.sys.nodeid ∨ !(mine f.type.val || f.type == 7 || f.hc == 3) then s
  else match s.accept p k f with
    | (s, true) => if f.ord then s.ordIn (64 * p + k % 64) f else (s.performRx p f).freeBuf (64 * p + k % 64) f.hc.val
    | (s, false) => s

/-- FLIT_WRITE_RX. -/
def execFlitWriteRx (p : Fin 16) (k : Fin 128) (f : Flit) (s : State) : Host.Outcome State Fault Refusal :=
  .next (s.receive p k f (· == 0))

/-- FLIT_ZERO_RX. -/
def execFlitZeroRx (p : Fin 16) (k : Fin 128) (f : Flit) (s : State) : Host.Outcome State Fault Refusal :=
  .next (s.receive p k f (· == 6))

/-- FLIT_ATOMIC_RX: types 0x8 to 0xF, the CPYA member with OP 0x03 + (type − 8). -/
def execFlitAtomicRx (p : Fin 16) (k : Fin 128) (f : Flit) (s : State) : Host.Outcome State Fault Refusal :=
  .next (s.receive p k f fun t => decide (8 ≤ t))

/-- FLIT_READREQ_RX. -/
def execFlitReadreqRx (p : Fin 16) (k : Fin 128) (f : Flit) (s : State) : Host.Outcome State Fault Refusal :=
  .next (s.receive p k f (· == 1))

/-- FLIT_READRSP_RX. -/
def execFlitReadrspRx (p : Fin 16) (k : Fin 128) (f : Flit) (s : State) : Host.Outcome State Fault Refusal :=
  .next (s.receive p k f (· == 2)).draw

/-- FLIT_LAND_RX. -/
def execFlitLandRx (p : Fin 16) (k : Fin 128) (f : Flit) (s : State) : Host.Outcome State Fault Refusal :=
  .next (s.receive p k f (· == 3))

/-! ## Forwarding (13 R314) -/

/-- The refusal of a flit that cannot be forwarded or has been abandoned. -/
def State.refuseTransit (s : State) (f : Flit) : State := s.ackFlit f (some (refusal accRemote f.addr.toNat))

/-- FLIT_TRANSIT_RX: a flit for another node waits in its class buffer with its hop class raised; one that cannot go on is
discarded, with a refusal to its origin. -/
def execFlitTransitRx (p : Fin 16) (k : Fin 128) (f : Flit) (s : State) : Host.Outcome State Fault Refusal :=
  .next <|
    if f.dst = s.sys.nodeid then s
    else match s.accept p k f with
      | (s, false) => s
      | (s, true) =>
        let l := 64 * p.val + k.val % 64
        let g : Flit := { f with hc := f.hc + 1 }
        if decide (f.hc.val ≤ 1) && s.canGo g then s.ready (.transit l) g else (s.refuseTransit f).freeBuf l f.hc.val

/-! ## Acknowledgements and abandoned flits -/

/-- A refusal with the operation that it is reported for (11 R244). -/
def forOp (r : FaultRec) (op : Nat) : FaultRec := { r with info := engInfo (bf r.info 0 48) (bf r.info 48 8) op }

/-- The range that a READREQ asked for whose source holds address `va`, and the offset of that address. -/
def State.askedAt (s : State) (c : Copy) (va : Nat) : Option ((Nat × Nat) × Nat) :=
  (c.asked.findSome? fun e =>
    match (s.srcPlace c e.1).1 with
    | .pod _ a => if a % 2 ^ 48 ≤ va ∧ va < a % 2 ^ 48 + e.2 then some (e, e.1 + (va - a % 2 ^ 48)) else none
    | _ => none).or (c.asked.head?.map fun e => (e, e.1))

/-- A refusal of a READREQ: the bytes below the refused one still come, if they have not yet (11 R248). -/
def State.readRefused (s : State) (c : Copy) (r : FaultRec) : State :=
  match s.askedAt c (bf r.info 0 48) with
  | none => s.upCopy (coreOf c.ctx) c.id fun d => { d with unacked := d.unacked - 1, fault := some (forOp r d.op) }
  | some (e, o) =>
    let gone := o == e.1
    (if gone then s.ordAcked (s.copyNode c |>.getD 0) (BitVec.ofNat 16 c.id) 1 else s).copyHeard c fun d =>
      { d with
        asked := d.asked.flatMap fun a => if a = e then (if gone then [] else [(e.1, o - e.1)]) else [a]
        unacked := if gone then d.unacked - 1 else d.unacked
        bad := match d.bad with | some b => if b.1 ≤ o then d.bad else some (o, forOp r d.op) | none => some (o, forOp r d.op) }

/-- A copy's flits acknowledged as performed, or refused. The page at whose start a command is refused lies below any fault that its source
has met (R311). -/
def State.copyAcked (s : State) (c : Copy) (src : BitVec 13) (n : Nat) (bad : Option FaultRec) : State :=
  match bad, c.asked with
  | some r, _ :: _ => s.readRefused c r
  | _, _ =>
    (s.ordAcked src (BitVec.ofNat 16 c.id) n).upCopy (coreOf c.ctx) c.id fun d =>
      { d with unacked := d.unacked - n, fault := (bad.map fun r => forOp r d.op).or d.fault }

/-- The place of an ORD flit that has been given up is free. -/
def State.ordDrop (s : State) (f : Flit) : State :=
  if f.ord then
    s.upFab fun b => { b with ordTx := b.ordTx.map fun e => if e.dst = f.dst then { e with out := e.out.filter fun q => q.1 != f.oseq } else e }
  else s

/-- An answer to a READREQ that is given up: its command, at the node that asked, meets a refusal for what was read. -/
def State.refuseAnswer (s : State) (f : Flit) : State := s.emit (.performed f.dst f.tag 1 (some (refusal accRemote f.off.toNat)))

/-- A command that its abandoned flit ends: ENGINE_FAULT, kind REMOTE (14 R331). A flit that never left has no place in the stripe order. -/
def State.abandonOwner (s : State) (own : FlitOwner) (f : Flit) (sent : Bool) (ticket : State → Nat → Nat → State) : State :=
  match own with
  | .copy k id =>
    let s := if sent then s.ordDrop f else s
    match s.copyId k id with
    | some c =>
      if f.type = 1 then
        -- the bytes below those that the lost READREQ asks for still come (11 R248)
        (s.copyBad c f.off.toNat (c.recOf accRemote f.addr.toNat)).copyHeard c fun d =>
          { d with unacked := d.unacked - 1, asked := d.asked.filter fun e => e.1 != f.off.toNat }
      else (s.copyFault c accRemote f.addr.toNat).upCopy k id fun d => { d with unacked := d.unacked - 1 }
    | none => s
  | .ticket d t _ => if s.ownerLive own then ticket s d t else s
  | .transit l => (s.refuseTransit f).freeBuf l (f.hc.val - 1)
  | .reply _ => s.refuseAnswer f
  | .gone => s

end Sys2Proof.Machine
end

