-- ==== Sys2Proof/Machine/Lease.lean ====
section
/-! DEFINITION. Bandwidth leases: requests, arbitration, answers, forwarders, notices, ends; TIME flits; the fabric's control
registers (13 R293 to R305, R315, R317, R318, R324). -/

namespace Sys2Proof.Machine

/-! ## Changing lease ports -/

/-- Changes port `p` of outgoing lease `l`. -/
def State.upPort (s : State) (l p : Nat) (g : LPort → LPort) : State :=
  match s.fab.lease l with
  | some v => s.setLease l (some { v with ports := v.ports.map fun q => if q.port = p then g q else q })
  | none => s

/-- Port `p` of outgoing lease `l`. -/
def State.leasePort (s : State) (l p : Nat) : Option (Lease × LPort) :=
  (s.fab.lease l).bind fun v => (v.ports.find? fun q => q.port == p).map fun q => (v, q)

/-- The port is to end at the start of frame `fr`, but not before it takes effect; an end decided earlier stands if it comes
first (R304). A port that awaits effect and whose line is removed fails at its effect boundary (14 R342). -/
def LPort.endAt (q : LPort) (fr : Nat) (w : Why) : LPort :=
  let fr := if q.st = .granted then (if w = .repaired then q.eff else max fr q.eff) else fr
  if q.st = .over then q
  else if q.fin.any fun e => decide (e.1 ≤ fr) then q
  else { q with fin := some (fr, w) }

/-- The port fails or ends now. -/
def State.portOver (s : State) (l p : Nat) (w : Why) : State :=
  match s.fab.lease l with
  | some v => s.setLease l (some { v with
      why := w, ports := v.ports.map fun q => if q.port = p then { q with st := .over } else q })
  | none => s

/-- Changes the incoming leases of lease (src, lid, sport). -/
def State.upIncoming (s : State) (src : BitVec 13) (lid sport : Nat) (g : Incoming → Incoming) : State :=
  s.upFab fun f => { f with
    incoming := f.incoming.map fun i => if i.src = src ∧ i.lid = lid ∧ i.sport = sport then g i else i }

/-- The incoming lease of (src, lid, sport) that came last. -/
def Fabric.incomingOf (f : Fabric) (src : BitVec 13) (lid sport : Nat) : Option Incoming :=
  f.incoming.reverse.find? fun i => i.src == src && i.lid == lid && i.sport == sport

/-- It is to end at the start of frame `fr`, but not before it takes effect. -/
def Incoming.endAt (i : Incoming) (fr : Nat) : Incoming := { i with fin := min i.fin (max fr i.eff) }

/-- The frame at whose start a removal that takes effect in frame `fr` ends it: at once, where it awaits effect (14 R342). -/
def Incoming.gone (i : Incoming) (now fr : Nat) : Nat := if now < i.eff then i.eff else fr

/-! ## Ways back (R301, R304) -/

/-- The line of a direct link to `n`: on port `p` if there is one, else on the lowest port. -/
def State.lineBack (s : State) (p : Nat) (n : BitVec 13) : Option Nat :=
  (s.fab.lineTo s.sys.nodeid p n).or ((List.range 16).findSome? fun q => s.fab.lineTo s.sys.nodeid q n)

/-- A message goes back to `n` in the slots `lo` to `hi`, on a direct link; without one, in any slot from `lo` on. -/
def State.sendBack (s : State) (fr lo hi p : Nat) (n : BitVec 13) (m : FabMsg) : State :=
  match s.lineBack p n with
  | some k => s.queueCtl fr lo hi (some k) m
  | none => s.queueCtl fr lo 63 none m

/-! ## Displaced senders (R300) -/

/-- The groups in which detector `k mod 16` of port `p` serves leases on other lines than `k` in frame `fr`. -/
def Fabric.displaces (f : Fabric) (fr p k : Nat) : BitVec 6 :=
  (f.incoming.filter fun i => i.rport == p && i.line % 16 == k % 16 && i.line != k && i.holds fr).foldl (fun a i => a ||| i.groups) 0

/-- Notices to the senders of the lines into the detector of line `k`: the groups in which they are displaced, and the frame `fr` from which
on they are. -/
def State.tellDisplaced (s : State) (fr p k : Nat) : State :=
  let w := if s.slot ≤ 15 then (12, 15) else (16, 63)
  (List.range 4).foldl (fun s j =>
    let l := 16 * j + k % 16
    if l = k then s else s.queueCtl s.frame w.1 w.2 none (.displace p l (s.fab.displaces fr p l) fr)) s

/-- An incoming lease ends at the start of frame `fr`, and the senders it displaced learn so. -/
def State.endIncoming (s : State) (src : BitVec 13) (lid sport fr : Nat) : State :=
  match s.fab.incomingOf src lid sport with
  | some i =>
    let s := s.upIncoming src lid sport (·.endAt fr)
    s.tellDisplaced (max fr i.eff) i.rport i.line
  | none => s

/-! ## Requests (R301, R305) -/

/-- A control message that waits leaves in this frame: a slot of its line is still to come that begins after it was decided. -/
def State.leavesNow (s : State) (e : CtlWait) : Bool :=
  decide (e.fr ≤ s.frame) && (List.range (e.hi + 1)).any fun sl =>
    decide (e.lo ≤ sl) && decide (s.slot ≤ sl) && (e.line.all fun k => k % 64 / 16 == sl % 4 &&
      decide (e.since.toNat ≤ 65536 * s.frame + 1024 * sl))

/-- The release notice of port `p` of lease `l` leaves in this frame, so that the port ends at the second boundary after it. -/
def State.releasing (s : State) (l p : Nat) : Bool :=
  s.fab.ctlq.any fun e => s.leavesNow e && match e.msg with
    | .release _ src lid q => src == s.sys.nodeid && lid == l && q == p
    | _ => false

/-- Groups of emitter `c` of port `p` that leases or reservations hold in frame `eff` or later. -/
def State.emitBusy (s : State) (eff p c : Nat) : BitVec 6 :=
  let f := s.fab
  let own := f.leases.flatMap fun e => (e.2.elim [] (·.ports)).filterMap fun q =>
    if q.port = p ∧ q.line % 16 = c ∧ (q.st = .granted ∨ q.st = .inEffect) ∧ ¬ (q.fin.any fun e => decide (e.1 ≤ eff)) ∧
        ¬ (s.releasing e.1 p ∧ (q.st = .inEffect ∨ q.eff ≤ eff)) then
      some q.groups else none
  let fwd := f.incoming.filterMap fun i => match i.onward with
    | some (_, op, ol) => if op = p ∧ ol % 16 = c ∧ eff < i.fin then some i.groups else none
    | none => none
  let held := f.fwds.filterMap fun x => if x.port = p ∧ x.line % 16 = c then x.held else none
  (own ++ fwd ++ held).foldl (· ||| ·) 0

/-- Groups of the emitter that requests of this frame have been offered. -/
def State.offered (s : State) (p c : Nat) : BitVec 6 :=
  let own := s.fab.leases.flatMap fun e => (e.2.elim [] (·.ports)).filterMap fun q =>
    if q.port = p ∧ q.line % 16 = c ∧ q.sent.any (fun t => frameOf (t - 1) == s.frame) then some q.offer else none
  let fwd := s.fab.fwds.filterMap fun x => if x.port = p ∧ x.line % 16 = c ∧ x.frame = s.frame then some x.req.offer else none
  (own ++ fwd).foldl (· ||| ·) 0

/-- The request of a lease port. -/
def State.request (s : State) (l : Nat) (v : Lease) (q : LPort) (offer : BitVec 6) : LeaseReq :=
  { src := s.sys.nodeid, dst := v.peer, lid := Fin.ofNat 256 l, sport := Fin.ofNat 16 q.port
    rport := Fin.ofNat 16 ((s.fab.reachAt s.sys.nodeid q.port q.line).elim 0 (·.2)), line := Fin.ofNat 128 q.line
    qpp := v.qpp, offer := offer, gmask := v.gmask, pkey := v.pkey, age := q.age, order := v.seq, frames := v.frames, via := none }

/-- The end of the slot in force. -/
def State.slotEnd (s : State) : W64 := BitVec.ofNat 64 (1024 * (s.sys.sidt.toNat / 1024 + 1))

/-- A request that waits and whose link is active in this slot leaves, with its offer. -/
def State.sendRequest (s : State) (l p : Nat) : State :=
  match s.leasePort l p with
  | none => s
  | some (v, q) =>
    if q.st = .requesting ∧ q.sent = none ∧ q.fin = none ∧ q.from_ ≤ s.frame ∧ q.line / 16 = s.slot % 4 ∧
        s.slot ≤ (if q.fwd.isSome then 7 else 11) ∧ s.linkUp p q.line ∧ s.heard (q.fwd.getD v.peer) then
      let c := q.line % 16
      let busy := s.emitBusy (s.frame + (if q.fwd.isSome then 3 else 2)) p c ||| s.offered p c
      let offer := ~~~busy
      (s.upPort l p fun q => { q with sent := some s.slotEnd, offer := offer, held := false }).put (.request (s.request l v q offer))
    else s

/-- Outgoing leases in issue order. -/
def Fabric.inOrder (f : Fabric) : List (Nat × Lease) :=
  (f.leases.filterMap fun e => e.2.map fun v => (e.1, v)).mergeSort fun a b => decide (a.2.seq ≤ b.2.seq)

/-- Every request that can leave in this slot leaves: in issue order, the ports of one lease rising. -/
def State.sendRequests (s : State) : State :=
  s.fab.inOrder.foldl (fun s e => e.2.ports.foldl (fun s q => s.sendRequest e.1 q.port) s) s

/-- LEASE_REQUEST_RX: a request is collected; a forwarder passes it on for the second segment. DESIGN CHOICE, log entry 41. -/
def execLeaseRequestRx (r : LeaseReq) (s : State) : Host.Outcome State Fault Refusal :=
  .next <|
    let s := s.toC0
    if !s.fab.portOn r.rport.val || decide (11 < s.slot) then s
    else if r.dst = s.sys.nodeid then s.upFab fun f => { f with reqs := f.reqs ++ [r] }
    else match (List.range 16).findSome? fun p => (s.fab.lineTo s.sys.nodeid p r.dst).map fun k => (p, k) with
      | none => s.upFab fun f => { f with reqs := f.reqs ++ [r] }
      | some (p, k) =>
        (s.upFab fun f => { f with reqs := f.reqs ++ [r], fwds := f.fwds ++ [⟨r, p, k, none, none, s.frame, false⟩] }).queueCtl
          s.frame 0 11 (some k) (.request { r with
            rport := Fin.ofNat 16 ((s.fab.reachAt s.sys.nodeid p k).elim 0 (·.2)), line := Fin.ofNat 128 k
            via := some s.sys.nodeid })

/-! ## Arbitration (R302, R318) -/

/-- The order in which requests are taken. -/
def reqBefore (a b : LeaseReq) : Bool :=
  if a.age ≠ b.age then decide (b.age < a.age)
  else if a.src ≠ b.src then decide (a.src.toNat < b.src.toNat)
  else if a.order ≠ b.order then decide (a.order < b.order)
  else decide (a.sport.val ≤ b.sport.val)

/-- Quanta that leases hold on receiving port `p` in frame `eff` or later, or a forwarder's exchange has reserved there, among those whose
key and source `which` picks. -/
def Fabric.quanta (f : Fabric) (eff p : Nat) (which : BitVec 16 → BitVec 13 → Bool) : Nat :=
  ((f.incoming.filter fun i => i.rport == p && decide (eff < i.fin) && which i.pkey i.src).map fun i => popCount i.groups).foldl (· + ·) 0 +
    ((f.fwds.filter fun x => x.req.rport == p && x.held.isSome && which x.req.pkey x.req.src).map fun x => x.req.qpp).foldl (· + ·) 0

/-- Groups of detector `c` of port `p` that are taken in frame `eff` or later, or reserved by a forwarder's exchange. -/
def Fabric.detBusy (f : Fabric) (eff p c : Nat) : BitVec 6 :=
  ((f.incoming.filter fun i => i.rport == p && i.line % 16 == c && decide (eff < i.fin)).map (·.groups) ++
    f.fwds.filterMap fun x => if x.req.rport = p ∧ x.req.line.val % 16 = c then x.held else none).foldl (· ||| ·) 0

/-- The `n` lowest groups of a set. -/
def lowest (n : Nat) (gs : BitVec 6) : BitVec 6 :=
  ((List.range 6).filter fun g => gs.getLsbD g).take n |>.foldl (fun a g => a ||| BitVec.twoPow 6 g) 0

/-- CAP of a membership entry. -/
def capOf (w : W32) : Nat := bf w 16 7

/-- The request passes the caps on its port (R302, R318). -/
def Fabric.capsOk (f : Fabric) (eff : Nat) (r : LeaseReq) : Bool :=
  match f.keyEntry r.pkey with
  | none => false
  | some w =>
    decide (f.quanta eff r.rport (fun k _ => k == r.pkey) + r.qpp ≤ capOf w) &&
      decide (f.quanta eff r.rport (fun _ n => n == r.src) + r.qpp ≤ f.srcCap)

/-- The groups that a request can have out of `free`; `none` denies it. -/
def chooseGroups (r : LeaseReq) (free : BitVec 6) : Option (BitVec 6) :=
  if r.gmask ≠ 0 then (if r.gmask &&& free = r.gmask then some r.gmask else none)
  else if r.qpp ≤ popCount free then some (lowest r.qpp free) else none

/-- The receiver's grant of a request in this frame. -/
def State.grantReq (s : State) (r : LeaseReq) : Option (BitVec 6) :=
  let eff := s.frame + (if r.via.isSome then 3 else 2)
  let c := r.line.val % 16
  if !s.fab.capsOk eff r || s.fab.chGone eff r.rport (s.fab.serves eff r.rport (18 + c)) then none
  else chooseGroups r (r.offer &&& ~~~s.fab.detBusy eff r.rport c)

/-- The groups that a forwarder reserves on both of its channels. -/
def State.reserve (s : State) (r : LeaseReq) (x : Fwding) : Option (BitVec 6) :=
  let eff := s.frame + 3
  let g := r.offer &&& ~~~s.fab.detBusy eff r.rport (r.line.val % 16) &&& ~~~s.emitBusy eff x.port (x.line % 16)
  if s.fab.capsOk eff r && (chooseGroups r g).isSome then some g else none

/-- Answers one request: as its receiver, or as its forwarder (R305). -/
def State.arbitrate (s : State) (r : LeaseReq) : State :=
  let dest := r.via.getD r.src
  let say := fun (s : State) (a : LeaseAns) => s.sendBack s.frame 12 15 r.rport dest (.answer dest r.src r.lid r.sport a)
  if r.dst = s.sys.nodeid then
    match s.grantReq r with
    | none => say s .denied
    | some g =>
      let eff := s.frame + (if r.via.isSome then 3 else 2)
      let ended := s.fab.early.contains (r.src, r.lid.val, r.sport.val)
      let i : Incoming := { src := r.src, lid := r.lid, sport := r.sport, rport := r.rport, line := r.line, groups := g
                            pkey := r.pkey, eff := eff, fin := if ended then eff else eff + r.frames, seq := s.fab.inSeq, via := r.via
                            held := r.via.isSome, onward := none }
      say ((s.upFab fun f => { f with incoming := f.incoming ++ [i], inSeq := f.inSeq + 1 }).tellDisplaced eff r.rport r.line) (.grant g)
  else
    match s.fab.fwds.find? fun x => x.req == r && x.frame == s.frame with
    | none => say s .denied
    | some x =>
      match s.reserve r x with
      | none => say s .denied
      | some g =>
        say (s.upFab fun f => { f with
          fwds := f.fwds.map fun y => if y.req = r ∧ y.frame = s.frame then { y with held := some g } else y })
          (.held g s.sys.nodeid)

/-- Slot 12: every request collected is answered in order. -/
def State.arbitrateAll (s : State) : State :=
  let rs := s.fab.reqs.mergeSort reqBefore
  (rs.foldl (fun s r => s.arbitrate r) (s.upFab fun f => { f with reqs := [] })).upFab fun f => { f with early := [] }

/-- The floor of frame f + 1 at a forwarder: the final answer to the sender, the confirmation or a cancel to the peer. -/
def State.forwardOne (s : State) (x : Fwding) : State :=
  let r := x.req
  let peer := fun (s : State) (m : FabMsg) => s.queueCtl s.frame 0 11 (some x.line) m
  let back := fun (s : State) (a : LeaseAns) => s.sendBack s.frame 0 11 r.rport r.src (.answer r.src r.src r.lid r.sport a)
  let granted := match x.answer with | some (.grant g) => some g | _ => none
  match x.held, granted with
  | some h, some g =>
    if g &&& h = g then
      let eff := x.frame + 3
      let i : Incoming := { src := r.src, lid := r.lid, sport := r.sport, rport := r.rport, line := r.line, groups := g
                            pkey := r.pkey, eff := eff, fin := if x.ended then eff else eff + r.frames, seq := s.fab.inSeq
                            via := none, held := false
                            onward := some (r.dst, x.port, x.line) }
      peer (back ((s.upFab fun f => { f with incoming := f.incoming ++ [i], inSeq := f.inSeq + 1 }).tellDisplaced eff r.rport r.line)
        (.grant g)) (.confirm r.dst r.src r.lid r.sport)
    else peer (back s .denied) (.cancel r.dst r.src r.lid r.sport)
  | some _, none => back s .denied
  | none, some _ => peer s (.cancel r.dst r.src r.lid r.sport)
  | none, none => s

/-- Every exchange of an earlier frame is finished. -/
def State.forwardAll (s : State) : State :=
  let due := s.fab.fwds.filter fun x => decide (x.frame < s.frame)
  due.foldl (fun s x => s.forwardOne x)
    (s.upFab fun f => { f with fwds := f.fwds.filter fun x => !decide (x.frame < s.frame) })

/-! ## Timing flits (R294) -/

/-- TIME_FLIT_RX: a node shows its SYNC, and the count agrees with it or does not; only a direct-link peer counts for SYNC (R294). -/
def execTimeFlitRx (p : Fin 16) (k : Fin 128) (m : TimeFlit) (agree : Bool) (s : State) : Host.Outcome State Fault Refusal :=
  let l := 64 * p.val + k.val % 64
  let n := m.src.toNat
  .next <|
    let s := s.toC0
    if !s.fab.portOn p then s
    else
      let peer := (List.range 16).any fun p => s.fab.portOn p && (s.fab.lineTo s.sys.nodeid p m.src).isSome
      s.upFab fun f => { f.upLink l (fun q => { q with peer := some m.src }) with
        nodeSync := f.nodeSync.set false n m.sync
        timeGood := if peer && agree then n :: f.timeGood.filter (· != n) else f.timeGood
        timeBad := if peer && !agree then n :: f.timeBad.filter (· != n) else f.timeBad }

/-! ## Answers and notices (R301, R304, R305) -/

/-- A denied port is requested again while RETRY is left, else it fails. -/
def State.denied (s : State) (l p : Nat) : State :=
  match s.leasePort l p with
  | none => s
  | some (v, q) =>
    let s := s.setLease l (some { v with why := .denied })
    if q.retry = 0 ∨ v.rel ∨ q.fin.isSome then (s.portOver l p .denied).leaseCheck l
    else s.upPort l p fun q => { q with retry := q.retry - 1, age := q.age + 1, from_ := s.frame + 1, sent := none, held := false }

/-- A grant reaches the sender: the port awaits effect. -/
def State.granted (s : State) (l p : Nat) (g : BitVec 6) : State :=
  match s.leasePort l p with
  | none => s
  | some (v, _) =>
    let eff := s.frame + 2
    (s.upPort l p fun q =>
      { q with st := .granted, groups := g, eff := eff
               fin := some (match q.fin with
                 | some (e, w) => (if w = .repaired then eff else max eff e, w)
                 | none => (eff + v.frames, .expired)) }).leaseCheck l

/-- The 16 µs in which the port waits for an answer are over at time `t`; HELD satisfies them (R301, R305). -/
def LPort.overdue (q : LPort) (t : W64) : Bool := q.st == .requesting && !q.held && q.sent.any fun e => decide (e.toNat + 16000 < t.toNat)

/-- LEASE_ANSWER_RX: an answer to an own request, or the peer's answer to one that this node forwards. A grant that comes too late is
refused with a CANCEL notice, and the port has failed. DESIGN CHOICE, log entry 41. -/
def execLeaseAnswerRx (src : BitVec 13) (lid : Fin 256) (p : Fin 16) (a : LeaseReply) (s : State) : Host.Outcome State Fault Refusal :=
  .next <|
    let s := s.toC0
    let late := fun (s : State) =>
      match a.what with
      | .denied => s
      | _ => s.sendBack s.frame 0 11 p a.frm (.cancel a.frm src lid p)
    if src ≠ s.sys.nodeid then
      s.upFab fun f => { f with
        fwds := f.fwds.map fun x => if x.req.src = src ∧ x.req.lid = lid ∧ x.req.sport = p then { x with answer := some a.what } else x }
    else match s.leasePort lid p with
      | none => late s
      | some (_, q) =>
        if q.overdue s.sys.sidt then late ((s.portOver lid p .timeout).leaseCheck lid)
        else if q.st = .requesting ∧ q.sent.isSome then
          match a.what with
          | .grant g => s.granted lid p g
          | .denied => s.denied lid p
          | .held _ n => s.upPort lid p fun q => { q with held := true, fwd := some n }
        else if q.st = .granted ∨ q.st = .inEffect then s
        else late s

/-- LEASE_ANSWER_TIMEOUT: 16 µs after the end of the request's slot a port without an answer fails. -/
def execLeaseAnswerTimeout (lid : Fin 256) (p : Fin 16) (s : State) : Host.Outcome State Fault Refusal :=
  .next <|
    match s.leasePort lid p with
    | some (_, q) =>
      if q.st = .requesting ∧ !q.held ∧ q.sent.any (fun t => decide (t.toNat + 16000 ≤ s.sys.sidt.toNat)) then
        (s.portOver lid p .timeout).leaseCheck lid
      else s
    | none => s

/-- LEASE_CONFIRM_RX: the forwarder's confirmation makes the grant final. -/
def execLeaseConfirmRx (src : BitVec 13) (lid : Fin 256) (p : Fin 16) (s : State) : Host.Outcome State Fault Refusal :=
  .next <|
    match s.fab.incomingOf src lid p with
    | some i => (s.toC0.upIncoming src lid p fun i => { i with held := false }).tellDisplaced i.eff i.rport i.line
    | none => s.toC0

/-- The exchange of a forwarder that a notice names. -/
def Fwding.about (x : Fwding) (src : BitVec 13) (lid p : Nat) : Bool := x.req.src == src && x.req.lid.val == lid && x.req.sport.val == p

/-- An incoming lease ends at the second boundary after this frame; a forwarder passes the notice on to the peer. A notice of a request that
has not been answered yet waits for the answer (R304). -/
def State.noticed (s : State) (src : BitVec 13) (lid p : Nat) (m : BitVec 13 → FabMsg) : State :=
  match s.fab.fwds.find? (·.about src lid p), s.fab.incomingOf src lid p with
  | some x, _ =>
    (s.upFab fun f => { f with fwds := f.fwds.map fun y => if y.about src lid p then { y with ended := true } else y }).queueCtl
      s.frame 0 11 (some x.line) (m x.req.dst)
  | none, none => s.upFab fun f => { f with
      early := if f.reqs.any (fun r => r.src == src && r.lid.val == lid && r.sport.val == p) then (src, lid, p) :: f.early else f.early }
  | none, some i =>
    let s := s.endIncoming src lid p (s.frame + 2)
    match i.onward with
    | some (peer, _, k) => s.queueCtl s.frame 0 11 (some k) (m peer)
    | none => s

/-- RELEASE_NOTICE_RX. -/
def execReleaseNoticeRx (src : BitVec 13) (lid : Fin 256) (p : Fin 16) (s : State) : Host.Outcome State Fault Refusal :=
  .next (s.toC0.noticed src lid p fun n => .release n src lid p)

/-- CANCEL_NOTICE_RX: what was granted is free again from the second boundary on. -/
def execCancelNoticeRx (src : BitVec 13) (lid : Fin 256) (p : Fin 16) (s : State) : Host.Outcome State Fault Refusal :=
  .next (s.toC0.noticed src lid p fun n => .cancel n src lid p)

/-- REVOCATION_NOTICE_RX: at the sender the port ends; a forwarder passes the peer's notice on to it, and a peer has it from the forwarder. -/
def execRevocationNoticeRx (src : BitVec 13) (lid : Fin 256) (p : Fin 16) (s : State) : Host.Outcome State Fault Refusal :=
  .next <|
    let s := s.toC0
    if src = s.sys.nodeid then s.upPort lid p (·.endAt (s.frame + 2) .revoked)
    else match s.fab.incomingOf src lid p with
      | some i =>
        let s := s.endIncoming src lid p (s.frame + 2)
        if i.onward.isSome then s.sendBack s.frame 0 11 i.rport src (.revoke src src lid p) else s
      | none => s

/-- A mark on port `p` from frame `fr` on; the shadow bank follows where it is near. -/
def State.markAt (s : State) (fr p : Nat) (w : MarkWhat) : State :=
  s.upFab fun f =>
    let f := { f with marks := f.marks ++ [⟨fr, p, w⟩] }
    if fr ≤ s.frame + 1 then f.prepare (s.frame + 1) else f

/-- DISPLACEMENT_NOTICE_RX: the port's comb line `k` is idle in the groups named from their frame on, as at the other nodes (R297). -/
def execDisplacementNoticeRx (p : Fin 16) (k : Fin 128) (g : GroupsFrom) (s : State) : Host.Outcome State Fault Refusal :=
  .next (s.toC0.markAt g.fr p (.displaced (k % 64) g.gs))

/-- SKEW_NOTICE_RX: from the next frame the port carries no ORD flits of the lease. -/
def execSkewNoticeRx (lid : Fin 256) (p : Fin 16) (s : State) : Host.Outcome State Fault Refusal :=
  .next (s.toC0.upPort lid p fun q => { q with noOrd := q.noOrd.or (some (s.frame + 1)) })

/-- RHEAD_NOTICE_RX: HEAD of the TX ring moves on (R322). -/
def execRheadNoticeRx (r : Fin 1024) (rhead : W32) (s : State) : Host.Outcome State Fault Refusal :=
  .next <|
    let s := s.toC0
    match s.fab.ring r with
    | some v => if v.tx ∧ (rhead - v.a).toNat ≤ v.nslot then s.setRing r (some { v with a := rhead }) else s
    | none => s

/-! ## Control registers (R303, R315, R317) -/

/-- Sends a revocation notice for an incoming lease, once: to its sender, or the forwarder before it; a forwarder tells the peer of the second
segment too (R304, R305). -/
def State.revoke (s : State) (i : Incoming) : State :=
  let dest := i.via.getD i.src
  let m : FabMsg := .revoke dest i.src i.lid i.sport
  if s.fab.ctlq.any fun e => e.msg == m then s
  else
    let s := match s.lineBack i.rport dest with
      | some k => s.queueCtl s.frame 0 (if i.via.isSome then 7 else 11) (some k) m
      | none => s.queueCtl s.frame 0 63 none m
    match i.onward with
    | some (peer, _, k) => s.queueCtl s.frame 0 11 (some k) (.revoke peer i.src i.lid i.sport)
    | none => s

/-- An incoming lease that has no end by notice yet. -/
def State.standing (s : State) (i : Incoming) : Bool :=
  decide (s.frame + 2 < i.fin) && !(s.fab.ctlq.any fun e => match e.msg with
    | .revoke _ src lid p => src == i.src && lid == i.lid && p == i.sport
    | _ => false)

/-- Revokes the youngest of the incoming leases that `which` picks on a port until they hold at most `cap` quanta. -/
def State.trim (s : State) (cap p : Nat) (which : Incoming → Bool) : State :=
  let is := (s.fab.incoming.filter fun i => i.rport == p && which i && s.standing i).mergeSort fun a b => decide (b.seq ≤ a.seq)
  (is.foldl (fun (acc : State × Nat) i => if cap < acc.2 then (acc.1.revoke i, acc.2 - popCount i.groups) else acc)
    (s, (is.map fun i => popCount i.groups).foldl (· + ·) 0)).1

/-- FABRIC_ENABLE: FCTL is written with EN = 1. A port that was off starts its links anew: no acknowledgement on them covers a flit of
before. -/
def execFabricEnable (ports : BitVec 16) (s : State) : Host.Outcome State Fault Refusal :=
  .next <| s.toC0.upFab fun f =>
    let stays := fun (l : Nat) => f.en && f.portEn.getLsbD (l / 64)
    { f with
      en := true, portEn := ports
      links := f.links.filter fun e => stays e.1
      store := f.store.map fun t =>
        { t with link := t.link.filter stays, again := t.again && t.link.any stays, orig := if stays t.orig then t.orig else 1024 } }

/-- FABRIC_DISABLE: FCTL is written with EN = 0: every lease ends at once, without a notice. -/
def execFabricDisable (ports : BitVec 16) (s : State) : Host.Outcome State Fault Refusal :=
  .next <|
    let s := s.toC0.upFab fun f => { f with
      en := false, portEn := ports, sync := false, timeGood := [], timeBad := [], eph0 := [], eph1 := [], marks := [], incoming := []
      reqs := [], fwds := [], early := [], ctlq := [], repairs := [], evq := f.evq ++ f.lol.map (·.2.2), lol := [], nodeSync := [], replayVia := []
      leases := f.leases.map fun e => (e.1, e.2.map fun v => { v with
        why := if v.ports.any (fun q => q.st != .over) then .revoked else v.why
        ports := v.ports.map fun q => { q with st := .over } }) }
    (List.range 256).foldl (fun s l => s.leaseCheck l) s

/-- ROUTING_COMMIT: the routing banks swap at the next frame boundary. -/
def execRoutingCommit (s : State) : Host.Outcome State Fault Refusal :=
  .next (s.toC0.upFab fun f => { f with rtPend := true })

/-- LPOL_WRITE: SRCCAP; a lower cap revokes. -/
def execLpolWrite (v : W32) (s : State) : Host.Outcome State Fault Refusal :=
  .next <|
    let cap := min 6 (bf v 0 3)
    let s := s.toC0.upFab fun f => { f with srcCap := cap }
    (List.range 16).foldl (fun s p =>
      ((s.fab.incoming.map (·.src)).dedup).foldl (fun s n => s.trim cap p fun i => i.src == n) s) s

/-- REVOKE_WRITE: revokes the incoming leases of a source on the ports named. -/
def execRevokeWrite (node : BitVec 13) (ports : BitVec 16) (s : State) : Host.Outcome State Fault Refusal :=
  .next <| (s.fab.incoming.filter fun i => i.src == node && ports.getLsbD i.rport).foldl (fun s i => s.revoke i) s.toC0

/-- MEMBERSHIP_WRITE: a membership entry; a lower CAP revokes. -/
def execMembershipWrite (j : Fin 256) (v : W32) (s : State) : Host.Outcome State Fault Refusal :=
  .next <|
    let w := v &&& 0x80FFFFFF
    let s := s.toC0.upFab fun f => { f with member := f.member.set 0x180000#32 j w }
    if bitOf w 31 then
      (List.range 16).foldl (fun s p => s.trim (capOf w) p fun i => i.pkey == BitVec.ofNat 16 (bf w 0 16)) s
    else s

end Sys2Proof.Machine
end

