-- ==== Sys2Proof/Machine/Repair.lean ====
section
/-! DEFINITION. Loss of light and signal, lock, repair, notices and skew (14 R332 to R339, R342). -/

namespace Sys2Proof.Machine

/-! ## Notices and records (14 R337, R341) -/

/-- The lease that holds comb line `k` of port `p` here. -/
def Fabric.leaseOn (f : Fabric) (p k : Nat) : Option (Nat × Lease) :=
  f.leases.findSome? fun e => e.2.bind fun v =>
    if v.ports.any fun q => q.port == p && q.line == k % 64 && (q.st == .granted || q.st == .inEffect) then some (e.1, v) else none

/-- The incoming lease that arrives on comb line `k` of port `p`. -/
def Fabric.leaseIn (f : Fabric) (p k : Nat) : Option Incoming := f.incoming.find? fun i => i.rport == p && i.line == k % 64

/-- The lease whose second segment leaves on comb line `k` of port `p`, with its peer. -/
def Fabric.leaseThrough (f : Fabric) (p k : Nat) : Option (Incoming × BitVec 13) :=
  f.incoming.findSome? fun i => match i.onward with
    | some (n, op, ol) => if op = p ∧ ol = k % 64 then some (i, n) else none
    | none => none

/-- The peers that a change of comb line `k` of port `p` concerns: the far end, and the peers and forwarders of leases that hold
the emitter. -/
def State.concerned (s : State) (p k : Nat) : List (BitVec 13) :=
  let far := (s.fab.direct s.sys.nodeid p k).toList.map (·.1)
  let own := s.fab.leases.flatMap fun e => (e.2.elim [] fun v =>
    (v.ports.filter fun q => q.port == p && q.line % 16 == k % 16 && (q.st == .granted || q.st == .inEffect)).flatMap fun q =>
      v.peer :: q.fwd.toList)
  let on := s.fab.incoming.flatMap fun i => match i.onward with
    | some (n, op, ol) => if op = p ∧ ol % 16 = k % 16 then [n, i.src] else []
    | none => []
  (far ++ own ++ on).dedup

/-- The same for comb line `k` as it arrives at port `p`: its sender, the sources and forwarders of leases that hold the detector, and the
senders that those leases displace. -/
def State.concernedIn (s : State) (p k : Nat) : List (BitVec 13) :=
  let at_ := fun (j : Nat) => (s.fab.link (64 * p + j)).peer.toList
  let on := (s.fab.incoming.filter fun i => i.rport == p && i.line % 16 == k % 16).flatMap fun i => i.src :: i.via.toList
  let shut := (List.range 4).flatMap fun j => if s.fab.displaces s.frame p (16 * j + k % 16) = 0 then [] else at_ (16 * j + k % 16)
  (at_ (k % 64) ++ on ++ shut).dedup

/-- A notice can reach node `n` now: SYNC stands, and some path to a node that shows it survives (13 R294; R337). -/
def State.notifiable (s : State) (n : BitVec 13) : Bool := s.fab.sync && s.tellable n

/-- Sends a notice to those of its peers that it can reach. -/
def State.tell (s : State) (ns : List (BitVec 13)) (m : Option (BitVec 13) → FabMsg) : State :=
  (ns.filter s.notifiable).foldl (fun s n => s.emit (m (some n))) s

/-- Sends a notice to every peer concerned, about a line of the port's own or one that arrives. -/
def State.tellPeers (s : State) (p k : Nat) (m : Option (BitVec 13) → FabMsg) : State := s.tell (s.concerned p k) m
def State.tellIn (s : State) (p k : Nat) (m : Option (BitVec 13) → FabMsg) : State := s.tell (s.concernedIn p k) m

/-- The primary lines of channel `c` of a port. -/
def linesOfRole (c : Nat) : List Nat := (List.range 4).map fun j => 16 * j + c % 18

/-- The peers concerned by the lines `ks`, as channel `c` sends or receives them. -/
def State.peersOf (s : State) (p c : Nat) (ks : List Nat) : List (BitVec 13) :=
  ks.flatMap fun k => if c < 18 then s.concerned p k else s.concernedIn p k

/-- A bit for each port. -/
def portMask (ps : List Nat) : Nat := (ps.dedup.map (2 ^ ·)).foldl (· + ·) 0

/-- Ports of an own lease, before and after: those whose end by repair is decided have gone. -/
def Lease.evPorts (v : Lease) : Nat × Nat :=
  (portMask (v.live.map (·.port)), portMask ((v.live.filter fun q => !(q.fin.any fun x => x.2 == .repaired)).map (·.port)))

/-- The same of a lease that arrives here, or passes through, by the sender's ports; `fr` is the frame of effect. -/
def Fabric.evIncoming (f : Fabric) (j : Incoming) (fr : Nat) : Nat × Nat :=
  let is := f.incoming.filter fun i => i.lid == j.lid && i.src == j.src && i.onward.isSome == j.onward.isSome
  (portMask (is.map (·.sport)), portMask ((is.filter fun i => decide (fr < i.fin)).map (·.sport)))

/-- A record with the lease that comes in or passes through as `i`; `n` is the node concerned. -/
def Fabric.evOf (f : Fabric) (i : Incoming) (n : BitVec 13) (e : EvRec) : EvRec :=
  let m := f.evIncoming i e.frame
  { e with lid := some i.lid, pkey := i.pkey.toNat, peer := n.toNat, pbefore := m.1, pafter := m.2 }

/-- Lease, key, node and ports of a record about lines `ks` of channel `c`; an emitter may serve the second segment of a lease that passes
through. -/
def State.evLease (s : State) (p c : Nat) (ks : List Nat) (e : EvRec) : EvRec :=
  if c < 18 then
    match ks.findSome? (s.fab.leaseOn p), ks.findSome? (s.fab.leaseThrough p) with
    | some (l, v), _ =>
      let m := v.evPorts
      { e with
        lid := some l, pkey := v.pkey.toNat, pbefore := m.1, pafter := m.2
        peer := (ks.findSome? fun k =>
          if (s.fab.leaseOn p k).isSome then s.fab.direct s.sys.nodeid p k else none).elim 0 (·.1.toNat) }
    | none, some (i, n) => s.fab.evOf i n e
    | none, none => { e with peer := (ks.findSome? (s.fab.direct s.sys.nodeid p)).elim 0 (·.1.toNat) }
  else
    match ks.findSome? (s.fab.leaseIn p) with
    | some i => s.fab.evOf i i.src e
    | none => { e with peer := (ks.findSome? fun k => (s.fab.link (64 * p + k % 64)).peer).elim 0 (·.toNat) }

/-- A record of this moment about channel `c` of port `p`, on comb line `k` if it has one; `ks` are the lines whose lease it names. Its
notices go to the nodes `ns`. -/
def State.evRec (s : State) (type p c : Nat) (k : Option Nat) (ks : List Nat) (ns : List (BitVec 13)) (g : EvRec → EvRec) : EvRec :=
  s.evLease p c ks (g { s.ev type with port := p, chan := c, line := k, notice := s.fab.sync && ns.all s.notifiable })

/-- A record waits for the next batch. -/
def State.postEv (s : State) (e : EvRec) : State := s.upFab fun f => { f with evq := f.evq ++ [e] }

/-- A record about channel `c` of port `p` for the next batch, with notices to the peers that the lines `ks` concern. -/
def State.note (s : State) (type p c : Nat) (k : Option Nat) (ks : List Nat) (g : EvRec → EvRec) : State :=
  s.postEv (s.evRec type p c k ks (s.peersOf p c ks) g)

/-- The channel that sends line `k` of port `p`. -/
def State.sender (s : State) (p k : Nat) : Nat := s.fab.serves s.frame p (k % 16)

/-! ## Removal (14 R335, R336, R342) -/

/-- The second frame boundary after this frame began, at which what becomes known now takes effect (R297). -/
def State.boundary (s : State) : Nat := s.frame + 2

/-- The same as a Sidereal count. -/
def State.boundary2 (s : State) : W64 := BitVec.ofNat 64 (65536 * s.boundary)

/-- The lease ports on port `p` whose primary line satisfies `on` end with REPAIRED at the start of frame `fr`; so do the leases that
this node forwards there, on both segments. -/
def State.shrink (s : State) (fr p : Nat) (on : Nat → Bool) : State :=
  let s := s.upFab fun f => { f with
    leases := f.leases.map fun e => (e.1, e.2.map fun v => { v with
      ports := v.ports.map fun q => if q.port = p ∧ on q.line then q.endAt fr .repaired else q }) }
  (s.fab.incoming.filter fun i => i.onward.any fun o => o.2.1 == p && on o.2.2).foldl (fun s i =>
    (s.endIncoming i.src i.lid i.sport (i.gone s.frame fr)).tell [i.src] fun n => .remove n true (some i.lid) i.rport i.line fr) s

/-- The incoming leases that arrive on port `p` on a line that satisfies `on` end; a forwarder tells the peer of the second
segment. -/
def State.shrinkIn (s : State) (fr p : Nat) (on : Incoming → Bool) : State :=
  (s.fab.incoming.filter fun i => i.rport == p && on i).foldl (fun s i =>
    let s := s.endIncoming i.src i.lid i.sport (i.gone s.frame fr)
    match i.onward with
    | some (n, op, ol) => s.tell [n] fun n => .remove n false (some i.lid) op ol fr
    | none => s) s

/-- The comb line pair of line `k` is removed from port `p`. -/
def State.removeLine (s : State) (p k : Nat) (host : Bool) : State :=
  let fr := s.boundary
  let s := (s.tellPeers p k fun n => .remove n false none p k fr).shrink fr p fun j => j == k % 64
  (s.note 0x08 p (s.sender p k) (some k) [k] fun e => { e with tact := s.boundary2, frame := fr, host := host }).markAt fr p (.lineGone (k % 64))

/-- The serving channel of emitter `c` is removed from port `p` with every line it serves. -/
def State.removeEmitter (s : State) (p c : Nat) (host : Bool) : State :=
  let fr := s.boundary
  let b := s.fab.serves s.frame p c
  let s := (linesOfRole c).foldl (fun s k => s.tellPeers p k fun n => .remove n false none p k fr) s
  let s := s.shrink fr p fun j => j % 16 == c
  (s.note 0x08 p b none (linesOfRole c) fun e => { e with tact := s.boundary2, frame := fr, host := host }).markAt fr p (.chGone b)

/-! ## Attempts (14 R335, R338) -/

/-- The tap of comb line `k` of port `p` shows light; of a line that has lost it before, its tap now is the surroundings'. -/
def State.tapLit (s : State) (p k : Nat) : Bool :=
  if 64 ≤ k ∧ s.fab.spcDark.get false p then false
  else s.fab.lineLit p k || Config.freeBit s.nfree (0x600000 + 128 * p + k)

/-- A spare channel is free: not in use, in service. -/
def Fabric.spareFree (f : Fabric) (p b : Nat) : Bool :=
  f.chLive p b && !f.los.get false (36 * p + b) &&
    !(f.marks.any fun m => m.port == p && match m.what with | .spare c _ => c == b | .chGone c => c == b | _ => false)

/-- The emitter that an attempt tunes: a spare one, or the one that serves the lost line. -/
def Repair.emitter (r : Repair) : Nat := if r.attempt = 1 ∨ r.attempt = 2 then 15 + r.attempt else r.line % 16

/-- The attempt's emitter is trying another line of the port: it can try one at a time. -/
def Fabric.tuning (f : Fabric) (r : Repair) : Bool :=
  f.repairs.any fun q => q.port == r.port && !q.waiting && !q.queued && q.emitter == r.emitter && (r.attempt == 1 || r.attempt == 2)

/-- The line that an attempt tries: for a failed emitter, one of its own lines that is lit. -/
def State.tries (s : State) (r : Repair) : Nat :=
  match r.chan with
  | some c => ((linesOfRole c).findSome? fun k => (s.fab.ownLine s.frame r.port k).filter (s.fab.lineLit r.port)).getD r.line
  | none =>
    match r.attempt with
    | 0 => (r.line + 64) % 128
    | 3 => r.line
    | _ => r.line % 64 + 64

/-- An attempt can be made: on a secondary line only while a spare comb serves the port with light. A spare emitter is tried for a lost secondary
line only where its tap shows light. -/
def State.canTry (s : State) (r : Repair) : Bool :=
  match r.attempt, r.chan with
  | 0, none => if r.line < 64 then s.fab.spareLit s.frame r.port && s.tapLit r.port (r.line + 64) else s.tapLit r.port (r.line - 64)
  | 0, some _ => false
  | 3, _ => true
  | n, chan => s.fab.spareFree r.port (15 + n) && (chan.isSome || decide (r.line < 64) || s.tapLit r.port r.line)

/-- Removes what a repair could not save. -/
def State.repairRemove (s : State) (r : Repair) : State :=
  match r.chan with
  | some c => s.removeEmitter r.port c r.byHost
  | none => s.removeLine r.port r.line r.byHost

/-- Takes the attempts from `r.attempt` on, in order: the first that can be made runs, once its emitter is free of others; with none left,
removal. -/
def State.tryNext : Nat → State → Repair → State
  | 0, s, r => s.repairRemove r
  | fuel + 1, s, r =>
    if 2 < r.attempt then s.repairRemove r
    else if s.canTry r then s.upFab fun f => { f with repairs := f.repairs ++ [{ r with waiting := false, queued := f.tuning r }] }
    else if r.attempt = 0 ∧ r.line < 64 ∧ r.chan = none then s.repairRemove r
    else State.tryNext fuel s { r with attempt := r.attempt + 1 }

/-- The host chooses repairs (17 R383). -/
def State.hostRepair (s : State) : Bool := s.sys.sysmode.getLsbD 1 || s.sys.sysmode.getLsbD 2

/-- A repair begins: by the hardware at once, or after the host's answer. -/
def State.beginRepair (s : State) (p k : Nat) (chan : Option Nat) : State :=
  let r : Repair := ⟨p, k, chan, 0, s.hostRepair, false, s.sys.sidt, false⟩
  if s.fab.repairs.any fun q => q.port == p && q.line == k && q.chan == chan then s
  else if s.hostRepair then s.upFab fun f => { f with repairs := f.repairs ++ [r] }
  else State.tryNext 4 s r

/-- Takes a repair off the list. -/
def State.dropRepair (s : State) (r : Repair) : State := s.upFab fun f => { f with repairs := f.repairs.erase r }

/-- An emitter of port `p` has ended an attempt: the attempts that waited for one go on. -/
def State.nextRepairs (s : State) (p : Nat) : State :=
  (s.fab.repairs.filter fun r => r.port == p && r.queued).foldl (fun s r => State.tryNext 4 (s.dropRepair r) { r with queued := false }) s

/-- The lines `ks` of port `p`, sent again on themselves from frame `fr` on: the peers learn of it, and light and reception are taken for
good from then on. -/
def State.lineBackAt (s : State) (fr p : Nat) (ks : List Nat) : State :=
  ks.foldl (fun s k => ((s.tellPeers p k fun n => .subst n false p k k fr).markAt fr p (.lit k)).markAt fr p (.heard k)) s

/-- What a success changes, from the second frame boundary on. -/
def State.repaired (s : State) (r : Repair) : State :=
  let p := r.port
  let k := r.line
  let fr := s.boundary
  let rec_ := fun (s : State) (type c : Nat) (line nline : Option Nat) (ks : List Nat) =>
    s.note type p c line ks fun e => { e with nline := nline, tact := s.boundary2, frame := fr, host := r.byHost }
  let moved := fun (s : State) (j : Nat) =>
    ((((s.tellPeers p k fun n => .subst n false p k j fr).markAt fr p (.line (k % 64) (decide (64 ≤ j)))).markAt fr p (.lit j)).markAt
      fr p (.heard k))
  match r.attempt, r.chan with
  | 0, _ =>
    let j := (k + 64) % 128
    moved (rec_ s 0x06 (s.sender p k) (some k) (some j) [k]) j
  | 3, none => (rec_ s 0x06 (s.sender p k) (some k) (some k) [k]).lineBackAt fr p [k]
  | 3, some c =>
    let b := s.fab.serves s.frame p c
    let s := rec_ s 0x06 b none none (linesOfRole c)
    (s.markAt fr p (.chBack b)).lineBackAt fr p ((linesOfRole c).filterMap (s.fab.ownLine s.frame p))
  | n, some c =>
    let s := (rec_ s 0x09 (15 + n) none none (linesOfRole c)).markAt fr p (.spare (15 + n) c)
    ((linesOfRole c).filterMap (s.fab.ownLine s.frame p)).foldl (fun s k =>
      (s.tellPeers p k fun n => .subst n false p k k fr).markAt fr p (.heard k)) s
  | n, none =>
    let j := k % 64 + 64
    moved ((rec_ s 0x09 (15 + n) (some k) (some j) [k]).markAt fr p (.spare (15 + n) (k % 16))) j

/-- What follows a failed attempt: the spare emitters only where the tap of the line tried, or of the secondary line, shows
light. -/
def State.attemptFailed (s : State) (r : Repair) : State :=
  let s := s.note 0x07 r.port (if r.attempt = 1 ∨ r.attempt = 2 then 15 + r.attempt else s.sender r.port r.line)
    (if r.chan.isSome then none else some r.line) (match r.chan with | some c => linesOfRole c | none => [r.line])
    fun e => { e with host := r.byHost }
  match r.attempt with
  | 0 => if s.tapLit r.port (r.line % 64 + 64) then State.tryNext 3 s { r with attempt := 1 } else s.repairRemove r
  | 3 => State.tryNext 4 s { r with attempt := 0 }
  | _ => State.tryNext 3 s { r with attempt := r.attempt + 1 }

/-- SPARE_ATTEMPT_END: an attempt locks, which takes light at its tap, or fails. DESIGN CHOICE, log entry 43. -/
def execSpareAttemptEnd (p : Fin 16) (k : Fin 128) (locked : Bool) (s : State) : Host.Outcome State Fault Refusal :=
  .next <|
    match s.fab.repairs.find? fun r => r.port == p.val && r.line == k.val && !r.waiting && !r.queued with
    | none => s
    | some r =>
      let s := s.dropRepair r
      ((if locked && s.tapLit p (s.tries r) then s.repaired r else s.attemptFailed r).nextRepairs p).draw

/-! ## Losses (14 R332 to R334) -/

/-- LOL on comb line `k` of port `p`: the line is dark at once, and the restripe is to come. A secondary line that no repair uses loses its light
without a record; a primary line whose place the secondary one has taken is recorded, and nothing else changes (R332). -/
def State.loseLight (s : State) (p k : Nat) : State :=
  let used := s.fab.ownLine s.frame p (k % 64) == some k
  if s.fab.dark.get false (128 * p + k) then s
  else
    let s := s.upFab fun f => { f with dark := f.dark.set false (128 * p + k) true }
    if used then s.upFab fun f => { f with lol := f.lol ++ [(p, k, s.evRec 0x01 p (s.sender p k) (some k) [k] [] id)] }
    else if 64 ≤ k then s
    else s.note 0x01 p (s.sender p k) (some k) [] id

/-- The restripe of every link under LOL: its flits wait to be replayed; then notices, the records, and the repairs begin (R334). -/
def State.restripeAll (s : State) : State :=
  let go := s.fab.lol.foldl (fun (a : State × List (Nat × Nat × EvRec)) e =>
    let r := a.1.restripe e.1 e.2.1
    (r.1, a.2 ++ [(e.1, e.2.1, { e.2.2 with replayed := r.2, tact := s.sys.sidt })])) (s.upFab fun f => { f with lol := [] }, [])
  go.2.foldl (fun s e =>
    let s := s.postEv { e.2.2 with notice := s.fab.sync && (s.concerned e.1 e.2.1).all s.notifiable }
    (s.tellPeers e.1 e.2.1 fun n => .loss n false e.1 e.2.1).beginRepair e.1 e.2.1 none) go.1

/-- The (port, line) pairs that the module behind line `k` of port `p` feeds: ELSe the primary lines k mod 4 = e mod 4 of the four ports of its
die, SPCj the secondary lines of the four ports of its die (01 R20). -/
def fedWith (p k : Nat) : List (Nat × Nat) :=
  ((List.range 4).map fun i => 4 * (p / 4) + i).flatMap fun q =>
    if k < 64 then (List.range 16).map fun j => (q, 4 * j + k % 4) else (List.range 64).map fun j => (q, 64 + j)

/-- The secondary range of a die's four ports gains or loses power. -/
def State.setSpc (s : State) (p : Nat) (on : Bool) : State :=
  (List.range 4).foldl (fun s i => s.upFab fun f => { f with spcDark := f.spcDark.set false (4 * (p / 4) + i) (!on) }) s

/-- The secondary lines of a die's four ports that no repair uses carry light again. -/
def State.spareBack (s : State) (p : Nat) : State :=
  s.upFab fun f => { f with dark := f.dark.filter fun e =>
    !(decide (e.1 / 512 = p / 4) && decide (64 ≤ e.1 % 128) && f.ownLine s.frame (e.1 / 128) (e.1 % 64) != some (e.1 % 128)) }

/-- The spare comb of a die's four ports loses power: LOL on the secondary lines that repairs use (01 R20; R332). -/
def State.spareLost (s : State) (p : Nat) : State := (fedWith p 64).foldl (fun s e => s.loseLight e.1 e.2) (s.setSpc p false)

/-- LOSS_OF_LIGHT: of one comb line of a port, or of every one that its module feeds. -/
def execLossOfLight (p : Fin 16) (l : LostLight) (s : State) : Host.Outcome State Fault Refusal :=
  .next <|
    match l with
    | .one k => (s.loseLight p k).draw
    | .fed k => (if 64 ≤ k.val then s.spareLost p else (fedWith p k).foldl (fun s e => s.loseLight e.1 e.2) s).draw

/-- A detector is replaced by detector 16 or 17 at the next frame boundary; with none left it is removed. -/
def State.replaceDetector (s : State) (p ch : Nat) : State :=
  let lines := linesOfRole (ch - 18)
  match [34, 35].find? fun b => s.fab.spareFree p b with
  | some b =>
    let fr := s.frame + 1
    let s := s.note 0x0A p b none lines fun e => { e with tact := BitVec.ofNat 64 (65536 * fr), frame := fr }
    lines.foldl (fun s k => s.tellIn p k fun n => .subst n true p k k fr) (s.markAt fr p (.spare b ch))
  | none =>
    let fr := s.boundary
    let b := s.fab.serves s.frame p ch
    let s := lines.foldl (fun s k => s.tellIn p k fun n => .remove n true none p k fr) s
    let s := s.shrinkIn fr p fun i => i.line % 16 + 18 == ch
    (s.note 0x08 p b none lines fun e => { e with tact := s.boundary2, frame := fr }).markAt fr p (.chGone b)

/-- The detector whose part a channel plays. -/
def State.detectorOf (s : State) (p ch : Nat) : Nat := (s.fab.plays s.frame p ch).getD ch

/-- No replay goes on at the receiving end of link (p, k) any more. -/
def State.stopReplay (s : State) (p k : Nat) : State := s.upFab fun f => f.upLink (64 * p + k % 64) fun q => { q with replay := none }

/-- LOSS_OF_SIGNAL: a detector sees no light in a window in which flits are expected. With light at the peer its photodiode has
failed, and it is replaced. -/
def execLossOfSignal (p : Fin 16) (ch : Fin 18) (peerLit : Bool) (s : State) : Host.Outcome State Fault Refusal :=
  .next <|
    let c := 18 + ch.val
    let w := s.fab.active p s.slot c
    let k := ephLine w
    if !s.fab.portOn p || ephUse w == 0 || !((s.fab.link (64 * p.val + k % 64)).peer.any s.heard) || s.fab.los.get false (36 * p.val + c) then s
    else
      let s := ((s.note 0x02 p c (some k) [k] id).tellIn p k fun n => .loss n true p k).stopReplay p k
      let s := s.upFab fun f => { f with los := f.los.set false (36 * p.val + c) true }
      if peerLit then s.replaceDetector p (s.detectorOf p c) else s

/-- The primary lines that a channel serves now. -/
def State.linesOf (s : State) (p ch : Nat) : List Nat := (s.fab.plays s.frame p ch).elim [] linesOfRole

/-- DRIFT: a record; the channel stays in service. -/
def execDrift (p : Fin 16) (ch : Fin 36) (s : State) : Host.Outcome State Fault Refusal := .next (s.postEv (s.evRec 0x03 p ch none (s.linesOf p ch) [] id))

/-- A channel goes dark: of an emitter, the flits of its links are replayed elsewhere; the peers learn of it. -/
def State.channelLost (s : State) (p ch : Nat) : State × Nat :=
  let s := s.upFab fun f => { f with unlocked := f.unlocked.set false (36 * p + ch) true }
  (s.linesOf p ch).foldl (fun (a : State × Nat) k =>
    if ch < 18 then
      let r := a.1.restripe p k
      (r.1.tellPeers p k fun n => .loss n false p k, a.2 + r.2)
    else ((a.1.tellIn p k fun n => .loss n true p k).stopReplay p k, a.2)) (s, 0)

/-- RETUNE: the channel is dark while the loop locks it again; no spare is tried. -/
def execRetune (p : Fin 16) (ch : Fin 36) (s : State) : Host.Outcome State Fault Refusal :=
  let r := s.channelLost p ch
  .next (r.1.note 0x04 p ch none (s.linesOf p ch) fun e => { e with replayed := r.2 })

/-- RETUNE_RELOCK: the channel is in service again. -/
def execRetuneRelock (p : Fin 16) (ch : Fin 36) (s : State) : Host.Outcome State Fault Refusal :=
  .next <|
    if s.fab.unlocked.get false (36 * p.val + ch) && !s.fab.chGone (s.frame + 2) p ch then
      let s := s.upFab fun f => { f with unlocked := f.unlocked.set false (36 * p.val + ch) false }
      (s.linesOf p ch).foldl (fun s k =>
        if ch.val < 18 then s.tellPeers p k fun n => .subst n false p k k s.frame
        else s.tellIn p k fun n => .subst n true p k k s.frame) s
    else s

/-- LOCKFAIL: a channel cannot regain lock: an emitter with light present, or a detector, is replaced by a spare. -/
def execLockfail (p : Fin 16) (ch : Fin 36) (s : State) : Host.Outcome State Fault Refusal :=
  .next <|
    let r := s.channelLost p ch
    let s := r.1.note 0x05 p ch none (s.linesOf p ch) fun e => { e with replayed := r.2 }
    match s.fab.plays s.frame p ch with
    | none => s
    | some c =>
      if 18 ≤ c then s.replaceDetector p c
      else if (linesOfRole c).any fun k => (s.fab.ownLine s.frame p k).any fun k => s.fab.lineLit p k then
        (s.beginRepair p c (some c)).draw
      else s

/-- SPARE_COMB_LIGHT_CHANGE: the spare comb of a die's four ports gains or loses power; a line of it that a repair uses is then lost. -/
def execSpareCombLightChange (p : Fin 16) (on : Bool) (s : State) : Host.Outcome State Fault Refusal :=
  .next (if on then (s.setSpc p true).spareBack p else s.spareLost p)

/-! ## Answers of the host (14 R338) -/

/-- A repair of port `p` that waits for REPANS about line `k`. -/
def Fabric.awaiting (f : Fabric) (p k : Nat) : Option Repair :=
  f.repairs.find? fun r => r.port == p && r.line % 64 == k && r.waiting

/-- REPANS: the host's choice of the next attempt. DESIGN CHOICE, log entry 43. -/
def State.repans (s : State) (p k attempt : Nat) : State :=
  let s := s.toC0
  match s.fab.awaiting p k with
  | none => s
  | some r =>
    let s := s.dropRepair r
    let r := { r with attempt := attempt, byHost := true, waiting := false }
    if attempt = 3 then (s.upFab fun f => { f with repairs := f.repairs ++ [r] }) else State.tryNext 4 s r

/-- The attempt that returns to, or stays on, the original comb line. -/
def Fabric.retryOf (f : Fabric) (p k : Nat) : Nat := if (f.awaiting p k).any fun r => decide (64 ≤ r.line) then 0 else 3

/-- REPANS_SPARE_COMB. On a secondary line that was lost, it is tried again. -/
def execRepansSpareComb (p : Fin 16) (k : Fin 64) (s : State) : Host.Outcome State Fault Refusal :=
  .next (s.repans p k (if (s.fab.awaiting p k).any fun r => decide (64 ≤ r.line) then 3 else 0)).draw

/-- REPANS_SPARE_EMITTER. -/
def execRepansSpareEmitter (p : Fin 16) (k : Fin 64) (s : State) : Host.Outcome State Fault Refusal :=
  .next (s.repans p k 1).draw

/-- REPANS_RETRY_ORIGINAL. -/
def execRepansRetryOriginal (p : Fin 16) (k : Fin 64) (s : State) : Host.Outcome State Fault Refusal :=
  .next (s.repans p k (s.fab.retryOf p k)).draw

/-- REPANS_REMOVE. -/
def execRepansRemove (p : Fin 16) (k : Fin 64) (s : State) : Host.Outcome State Fault Refusal :=
  .next <|
    let s := s.toC0
    match s.fab.awaiting p k with
    | some r => (s.dropRepair r).repairRemove { r with byHost := true }
    | none => s

/-- REPANS_TIMEOUT: 10 ms without an answer remove the comb line. -/
def execRepansTimeout (p : Fin 16) (k : Fin 64) (s : State) : Host.Outcome State Fault Refusal :=
  .next <|
    match s.fab.awaiting p k with
    | some r => if r.since.toNat + 10000000 ≤ s.sys.sidt.toNat then (s.dropRepair r).repairRemove r else s
    | none => s

/-! ## Notices of peers (14 R337) -/

/-- A loss of signal on line `k` that arrives at port `p` has been resolved. -/
def State.losOver (s : State) (p k : Nat) : State :=
  s.upFab fun f => { f with los := f.los.set false (36 * p + f.serves s.frame p (18 + k % 16)) false }

/-- LOSS_NOTICE_RX: `out` says that the port's own comb line is lost at its far end: its flits are replayed elsewhere. A line that arrives
brings no more of a replay. -/
def execLossNoticeRx (out : Bool) (p : Fin 16) (k : Fin 128) (s : State) : Host.Outcome State Fault Refusal :=
  .next <|
    let s := s.toC0
    if out then
      ((s.upFab fun f => { f with lossTold := f.lossTold.set false (128 * p.val + k % 64) true }).restripe p k).1
    else s.stopReplay p k

/-- SUBST_NOTICE_RX: from the frame that the notice names on, the line that arrives is another; or the port's own line is received
again. -/
def execSubstNoticeRx (out : Bool) (p : Fin 16) (k : Fin 128) (n : LineFrom) (s : State) : Host.Outcome State Fault Refusal :=
  .next <|
    let s := s.toC0
    if out then
      if n.fr ≤ s.frame then s.upFab fun f => { f with lossTold := f.lossTold.set false (128 * p.val + k % 64) false }
      else s.markAt n.fr p (.heard k)
    else if k = n.line then s.losOver p k
    else (s.losOver p k).markAt n.fr p (.inLine (k % 64) (decide (64 ≤ n.line.val)))

/-- REMOVE_NOTICE_RX: from the frame that the notice names on, a line that arrives, or the port's own line at its far end, or one lease on
it, is removed. -/
def execRemoveNoticeRx (out : Bool) (lid : Option (Fin 256)) (p : Fin 16) (n : LineFrom) (s : State) : Host.Outcome State Fault Refusal :=
  .next <|
    let s := s.toC0
    let k := n.line
    let fr := n.fr
    match out, lid with
    | true, some l => s.upPort l p (·.endAt fr .repaired)
    | true, none => (s.markAt fr p (.lineGone (k % 64))).shrink fr p fun j => j == k.val % 64
    | false, some l => s.shrinkIn fr p fun i => i.lid == l.val && i.line == k.val % 64
    | false, none => ((s.losOver p k).markAt fr p (.inGone (k % 64))).shrinkIn fr p fun i => i.line == k.val % 64

/-- SKEW_DETECTED: the sender is told, and a record is written. -/
def execSkewDetected (src : BitVec 13) (lid : Fin 256) (p : Fin 16) (s : State) : Host.Outcome State Fault Refusal :=
  .next <|
    match s.fab.incomingOf src lid p with
    | none => s
    | some i =>
      (s.emit (.skew src lid p)).event (s.fab.evOf i src { s.ev 0x0B with
        port := i.rport, chan := 18 + i.line % 16, line := some i.line, frame := s.frame + 1, notice := s.notifiable src })

end Sys2Proof.Machine
end

