-- ==== Sys2Proof/Machine/Sidereal.lean ====
section
/-! DEFINITION. Sidereal time: what leaves in a slot, records that are posted, the restripe of lost links, slot and frame boundaries (13 R293,
R294, R297, R304, R315; 14 R334). -/

namespace Sys2Proof.Machine

/-! ## Messages that leave in a slot -/

/-- What leaving does to the sender of a message: a release or revocation notice fixes an end; an answer fixes the frame of
effect (R304). -/
def State.leaving (s : State) (m : FabMsg) : State :=
  match m with
  | .release _ src l p => if src = s.sys.nodeid then s.upPort l p (·.endAt (s.frame + 2) .released) else s
  | .revoke _ src l p => s.endIncoming src l p (s.frame + 2)
  | .answer _ src l p (.grant _) =>
    s.upIncoming src l p fun i =>
      if i.onward.isNone && i.via.isNone && decide (i.eff < s.frame + 2) then
        { i with eff := s.frame + 2, fin := i.fin - i.eff + (s.frame + 2) } else i
  | _ => s

/-- A control message's slot is this one, and it can leave; one that takes a floor slot was decided before the slot began (R304). -/
def State.ctlDue (s : State) (e : CtlWait) : Bool :=
  let sl := s.slot
  decide (e.fr ≤ s.frame) && decide (e.lo ≤ sl) && decide (sl ≤ e.hi) && s.canLeave e.msg &&
    e.line.all fun k => k % 64 / 16 == sl % 4 && decide (e.since.toNat ≤ 65536 * s.frame + 1024 * sl)

/-- Every control message whose slot this is leaves. -/
def State.sendCtl (s : State) : State :=
  (s.fab.ctlq.filter s.ctlDue).foldl (fun s e => (s.leaving e.msg).put e.msg)
    (s.upFab fun f => { f with ctlq := f.ctlq.filter fun e => !s.ctlDue e })

/-- TIME flits go out in the floor slots in which the direct links are active (R294). DESIGN CHOICE, log entry 42. -/
def State.sendTime (s : State) : State :=
  if 16 ≤ s.slot then s
  else (List.range 256).foldl (fun s i =>
    let p := i / 16
    let k := 16 * (s.slot % 4) + i % 16
    if s.linkUp p k && (s.fab.direct s.sys.nodeid p k).isSome then s.put (.time p (s.fab.servedLine s.frame p k) s.fab.sync) else s) s

/-- The data window of a slot opens: TIME flits, and with SYNC requests and notices, leave. While SYNC is 0 the device sends nothing but
TIME flits (R293, R294, R301, R304). -/
def State.windowOpen (s : State) : State :=
  if !s.fab.en then s
  else
    let s := s.sendTime
    if !s.fab.sync then s
    else (if s.slot ≤ 11 then s.sendRequests else s).sendCtl

/-- Order of the records of one batch (21 R417): by type, port and comb line. -/
def evLe (a b : EvRec) : Bool :=
  if a.type ≠ b.type then decide (a.type < b.type)
  else if a.port ≠ b.port then decide (a.port < b.port)
  else decide (a.line.getD 0 ≤ b.line.getD 0)

/-- Posts the records that wait. -/
def State.flushEv (s : State) : State :=
  (s.fab.evq.mergeSort evLe).foldl (fun s e => s.event e) (s.upFab fun f => { f with evq := [] })

/-- A slot begins: no emitter has sent in it; forwarders finish their exchanges in slot 0, and slot 12 arbitrates. Without SYNC nothing can be
answered, and what was collected lapses. -/
def State.slotStart (s : State) : State :=
  let s := (s.upFab fun f => { f with sent := [] }).flushEv
  if !s.fab.en || !s.fab.sync then
    if s.slot = 12 then s.upFab fun f => { f with reqs := [], early := [], fwds := f.fwds.filter fun x => !decide (x.frame < s.frame) } else s
  else if s.slot = 0 then s.forwardAll
  else if s.slot = 12 then s.arbitrateAll
  else s

/-! ## Frame boundaries (R297, R304, R315) -/

/-- A lease port at the boundary that begins frame `fr`. -/
def LPort.atFrame (q : LPort) (fr : Nat) : LPort :=
  let due := q.fin.any fun e => decide (e.1 ≤ fr)
  match q.st with
  | .granted => if q.eff ≤ fr then { q with st := if due then .over else .inEffect } else q
  | .inEffect => if due then { q with st := .over } else q
  | .requesting => if due && q.sent.isNone then { q with st := .over } else q
  | .over => q

/-- WHY of an end. -/
def LPort.why (q : LPort) : Why := (q.fin.map (·.2)).getD .none

/-- A port that reaches its boundary of effect takes effect, even for no frame, but one that a repair has removed fails (R304; 14 R342). -/
def LPort.takes (q : LPort) (fr : Nat) : Bool := q.st == .granted && decide (q.eff ≤ fr) && !(q.fin.any fun e => e.2 == .repaired && decide (e.1 ≤ fr))

/-- A lease at the boundary: its ports change, and WHY follows the ports that end. -/
def Lease.atFrame (v : Lease) (fr : Nat) : Lease :=
  let ps := v.ports.map (·.atFrame fr)
  let ended := (v.ports.zip ps).filterMap fun e => if e.1.st ≠ .over ∧ e.2.st = .over then some e.2.why else none
  { v with ports := ps, took := v.took || v.ports.any (·.takes fr), why := (ended.getLast?).getD v.why }

/-- SYNC at a frame boundary: it becomes 1 once the count has agreed with a peer for the whole frame; coming back from a loss is an event (R294). DESIGN CHOICE, log entry 42. -/
def State.resync (s : State) (agree : Bool) : State :=
  let f := s.fab
  let ok := f.en && !f.sync && agree && f.timeGood.any fun l => !f.timeBad.contains l
  let s := s.upFab fun f => { f with timeGood := [], timeBad := [] }
  if !ok then s
  else if s.fab.syncGone then (s.upFab fun f => { f with sync := true, syncGone := false }).event (s.ev 0x0D)
  else s.upFab fun f => { f with sync := true }

/-- The lines that are lit or heard again from frame `fr` on. -/
def Fabric.relit (f : Fabric) (fr : Nat) : Fabric :=
  let now := fun (m : Mark) => decide (m.fr ≤ fr) && match m.what with | .lit _ | .heard _ | .chBack _ => true | _ => false
  (f.marks.filter now).foldl (fun f m =>
    match m.what with
    | .lit k => { f with dark := f.dark.set false (128 * m.port + k) false }
    | .heard k => { f with lossTold := f.lossTold.set false (128 * m.port + k % 64) false }
    | .chBack c => { f with unlocked := f.unlocked.set false (36 * m.port + c) false }
    | _ => f) { f with marks := f.marks.filter fun m => !now m }

/-- Frame `fr` begins. -/
def State.frameStart (s : State) (agree : Bool) : State :=
  let fr := s.frame
  let s := (s.upFab (·.relit fr)).upFab fun f => { f with
    ephAct := !f.ephAct, pkeyMiss := []
    rtA := if f.rtPend then f.rtS else f.rtA, rtPend := false
    leases := f.leases.map fun e => (e.1, e.2.map (·.atFrame fr))
    incoming := f.incoming.filter fun i => decide (fr < i.fin) && !(i.held && decide (i.eff ≤ fr)) }
  let s := (List.range 256).foldl (fun s l => s.leaseCheck l) s
  let s := s.upFab fun f => if f.en then f.prepare (fr + 1) else { f with eph0 := [], eph1 := [] }
  let s := (s.fab.incoming.filter fun i => i.fin == fr + 2).foldl (fun s i => s.tellDisplaced (fr + 2) i.rport i.line) s
  s.resync agree

/-- The Sidereal count is `t`. -/
def State.setTime (s : State) (t : W64) : State := s.upSys fun y => { y with sidt := t }

/-- Sidereal time moves on to `t`, which lies at most one slot further: a slot, frame or data window that begins is begun. Links under LOL are
restriped at some moment of the slot, within 2 µs (14 R334). DESIGN CHOICE, log entry 43. -/
def State.sidereal (s : State) (t : W64) (agree : Bool) : State :=
  let old := s.sys.sidt
  let open_ := fun (s : State) (from_ : Nat) => if from_ < 48 ∧ 48 ≤ tickOf s.sys.sidt then s.windowOpen else s
  if t.toNat / 1024 = old.toNat / 1024 then
    let s := open_ (s.setTime t) (tickOf old)
    if Config.freeBit s.nfree 0x500001 then s.restripeAll else s
  else
    let s := (open_ (s.setTime (s.slotEnd - 1)) (tickOf old)).restripeAll.setTime t
    open_ (if frameOf t = frameOf old then s.slotStart else (s.frameStart agree).slotStart) 0

/-- SLOT_BOUNDARY: the next slot begins. DESIGN CHOICE, log entry 42. -/
def execSlotBoundary (s : State) : Host.Outcome State Fault Refusal :=
  .next ((s.sidereal s.slotEnd (Config.freeBit s.nfree 0x500000)).draw)

/-- FRAME_BOUNDARY: the slots that remain pass, and the next frame begins. -/
def execFrameBoundary (agree : Bool) (s : State) : Host.Outcome State Fault Refusal :=
  .next ((List.range (64 - s.slot)).foldl (fun s _ => s.sidereal s.slotEnd agree) s)

/-- SYNC_LOSS: SYNC falls, and the loss is an event (R294). -/
def execSyncLoss (s : State) : Host.Outcome State Fault Refusal :=
  .next <|
    if s.fab.sync then (s.upFab fun f => { f with sync := false, syncGone := true, timeGood := [], timeBad := [] }).event (s.ev 0x0C) else s

end Sys2Proof.Machine
end

