-- ==== Sys2Proof/Machine/Orrery.lean ====
section
/-! DEFINITION. The Orreries at work: admission, transfers, RFWD, DONE, ABORT, the watchdog; acknowledgements and abandoned flits
(13 R312; 14 R331; 15 R345 to R350). -/

namespace Sys2Proof.Machine

/-! ## The walk (15 R346) -/

/-- Index vector of transfer `n`, outermost level first. -/
def Coll.index (c : Coll) (n : Nat) : List Nat :=
  (c.levels.foldr (fun l (acc : List Nat × Nat) => (acc.2 % max 1 l.bound :: acc.1, acc.2 / max 1 l.bound)) ([], n)).1

/-- A sum over the levels. -/
def Coll.sum (c : Coll) (n : Nat) (f : Level → Int) : Int :=
  ((c.levels.zip (c.index n)).map fun e => f e.1 * (e.2 : Int)).foldl (· + ·) 0

/-- Peer rank of transfer `n`, and the rank whose transfer `n` comes here. -/
def Coll.peer (c : Coll) (n : Nat) : Nat := ((c.rank + c.pbase + c.sum n (·.pcoef)) % (c.gsize : Int)).toNat
def Coll.fromRank (c : Coll) (n : Nat) : Nat := ((c.rank - (c.pbase + c.sum n (·.pcoef))) % (c.gsize : Int)).toNat

/-- Source and destination of transfer `n`. -/
def Coll.src (c : Coll) (n : Nat) : Nat := ((c.sbase.toNat + c.sum n (·.sstr)) % 2 ^ 64).toNat
def Coll.dst (c : Coll) (n : Nat) : Nat := ((c.dbase.toNat + c.sum n (·.dstr)) % 2 ^ 64).toNat

/-- Node and die of a rank. -/
def Ticket.member (v : Ticket) (r : Nat) : BitVec 13 × Fin 4 := v.group.getD r (0, 0)

/-! ## The ALU (15 R343) -/

/-- One element combined, the message's first. -/
def combineEl (efmt rop a b : Nat) : Nat :=
  let bf := fun (f : Nat → Nat → Nat) => f (65536 * a) (65536 * b) / 65536
  match efmt, rop with
  | 0, 0 => (fadd fp32 .rne a b).1
  | 0, r => (fminmax (r == 2) a b).1
  | 1, 0 => (fadd bf16 .rne a b).1
  | 1, r => bf fun x y => (fminmax (r == 2) x y).1
  | _, 0 => (a + b) % 2 ^ 32
  | _, 1 => if sx 32 b < sx 32 a then b else a
  | _, _ => if sx 32 a < sx 32 b then b else a

/-- Combine (message, v) element by element. -/
def combine (efmt rop : Nat) : Nat → List Byte → List Byte → List Byte
  | 0, _, _ => []
  | n + 1, m, v =>
    let w := efmtSize efmt
    natLe w (combineEl efmt rop (leNat (m.take w)) (leNat (v.take w))) ++ combine efmt rop n (m.drop w) (v.drop w)

/-! ## Faults and aborts (15 R350) -/

/-- A COLL faults: its ticket and reservation are freed, its key is no longer known, ABORT goes to the members at other nodes, and
its handle receives the record. The local members of other dies follow in `abort`. -/
def State.abortAt (s : State) (d t : Nat) (f : FaultRec) (dog : Bool) : State :=
  match (s.orrery d).ticket t with
  | none => s
  | some v =>
    let s := s.upOrrery d fun o => { o with
      tickets := o.tickets.set none t none
      known := o.known.filter fun e => e != (v.coll.key, v.coll.comm)
      used := if v.admitted then o.used - v.coll.stage else o.used }
    let s := ((v.group.filter fun e => e.1 != s.sys.nodeid).dedup).foldl
      (fun s e => s.emit (.abort e.1 e.2 v.coll.comm v.coll.key dog)) s
    s.arrive v.core (some v.arr) (some f)

/-- The record of a COLL whose collective another member, or the watchdog, has aborted. -/
def abortRec (dog : Bool) : FaultRec := AccFault.record ⟨.engineFault, if dog then 0x24 else 0x25, 0⟩ 0 0x38

/-- An ABORT reaches the Orrery of a die. -/
def State.abortIn (s : State) (d : Nat) (comm : BitVec 16) (key : W64) (dog : Bool) : State :=
  match (s.orrery d).holds key comm with
  | some t => s.abortAt d t (abortRec dog) dog
  | none => s.upOrrery d fun o => { o.forget key comm with known := o.known.filter fun e => e != (key, comm) }

/-- Ticket `t` of die `d` faults with `f`, and every other member with ABORT, or with ADMIT where the watchdog is the cause. -/
def State.abort (s : State) (d t : Nat) (f : FaultRec) (dog : Bool) : State :=
  match (s.orrery d).ticket t with
  | none => s
  | some v =>
    let s := s.abortAt d t f dog
    (((v.group.filter fun e => e.1 == s.sys.nodeid && e.2.val != d).map (·.2.val)).dedup).foldl
      (fun s e => s.abortIn e v.coll.comm v.coll.key dog) s

/-- An access of ticket `t` meets a fault. -/
def State.collFault (s : State) (d t : Nat) (g : AccFault) (va : Nat) : State :=
  s.abort d t (g.record va 0x38) false

/-! ## Completion (15 R347) -/

/-- A DONE reaches the Orrery of a die; with every member's, the COLL completes. One that comes before the COLL issues is kept. -/
def State.doneIn (s : State) (d : Nat) (comm : BitVec 16) (key : W64) (rank : Nat) : State :=
  match (s.orrery d).holds key comm with
  | none => s.upOrrery d fun o => { o with earlyDone := addRank o.earlyDone key comm rank }
  | some t =>
    let s := s.upTicket d t fun v => some { v with dones := if v.dones.contains rank then v.dones else rank :: v.dones }
    match (s.orrery d).ticket t with
    | none => s
    | some v =>
      if v.dones.length < v.coll.gsize then s
      else
        (s.upOrrery d fun o => { o with tickets := o.tickets.set none t none, used := o.used - v.coll.stage }).arrive v.core
          (some v.arr) none

/-- DONE goes to every member once the last transfer has been performed. -/
def State.walkDone (s : State) (d t : Nat) : State :=
  match (s.orrery d).ticket t with
  | none => s
  | some v =>
    if v.admitted && decide (v.coll.total ≤ v.next) && v.xfers.isEmpty && v.waiting.isEmpty && !v.sentDone then
      let s := s.upTicket d t fun v => some { v with sentDone := true }
      v.group.foldl (fun s e => s.tellMember e (fun s d => s.doneIn d v.coll.comm v.coll.key v.coll.rank)
        (.finished e.1 e.2 v.coll.comm v.coll.key v.coll.rank)) s
    else s

/-! ## Admission (15 R345, R348) -/

/-- An ADMIT reaches the Orrery of a die. -/
def State.admitIn (s : State) (d : Nat) (comm : BitVec 16) (key : W64) (rank : Nat) : State :=
  match (s.orrery d).holds key comm with
  | some t => s.upTicket d t fun v => some { v with admits := if v.admits.contains rank then v.admits else rank :: v.admits }
  | none => s.upOrrery d fun o => { o with early := addRank o.early key comm rank }

/-- One key comes before another. -/
def keyLt (a b : W64 × BitVec 16) : Bool := if a.1 = b.1 then decide (a.2.toNat < b.2.toNat) else decide (a.1.toNat < b.1.toNat)

/-- COLL_ADMISSION: the least known key, with its staging free and its group table read. DESIGN CHOICE, log entry 45. -/
def execCollAdmission (die : Fin 4) (t : Fin 64) (s : State) : Host.Outcome State Fault Refusal :=
  let d := die.val
  .next <|
    let s := s.collAnnounce d t
    match (s.orrery d).ticket t with
    | none => s
    | some v =>
      let o := s.orrery d
      let c := v.coll
      if v.admitted || !s.copiesBefore v || (o.known.any fun e => keyLt e (c.key, c.comm)) ||
          decide (2 ^ 21 < o.used + c.stage) then s
      else match State.gRead (.walk v.asid v.world) 2 s c.gtab (2 * c.gsize) with
        | (s, _, .fault g va) => s.collFault d t g va
        | (s, _, .park va) => s.collFault d t accHostFail va
        | (s, bs, .ok ()) =>
          let g := groupOfBytes bs
          if groupReserved bs || g.any fun e => (s.fab.route e.1).isNone then
            (s.upTicket d t fun v => some { v with group := g }).collFault d t accForm 0
          else
            let s := s.upOrrery d fun o => { o with
              tickets := o.tickets.set none t (some { v with admitted := true, group := g })
              known := o.known.filter fun e => e != (c.key, c.comm), used := o.used + c.stage }
            g.foldl (fun s e => s.tellMember e (fun s d => s.admitIn d c.comm c.key c.rank)
              (.admission e.1 e.2 c.comm c.key c.rank)) s

/-- ANNOUNCE_RX. -/
def execAnnounceRx (die : Fin 4) (comm : BitVec 16) (key : W64) (s : State) : Host.Outcome State Fault Refusal :=
  .next (s.toC0.announce die comm key)

/-- ADMIT_RX. -/
def execAdmitRx (die : Fin 4) (comm : BitVec 16) (key : W64) (rank : Nat) (s : State) : Host.Outcome State Fault Refusal :=
  .next (s.toC0.admitIn die comm key rank)

/-- COLL_DONE_RX. -/
def execCollDoneRx (die : Fin 4) (comm : BitVec 16) (key : W64) (rank : Nat) (s : State) : Host.Outcome State Fault Refusal :=
  .next (s.toC0.doneIn die comm key rank)

/-- ABORT_RX. -/
def execAbortRx (die : Fin 4) (comm : BitVec 16) (key : W64) (dog : Bool) (s : State) : Host.Outcome State Fault Refusal :=
  .next <|
    let s := s.toC0
    match (s.orrery die).holds key comm with
    | some t => s.abort die t (abortRec dog) dog
    | none => s.abortIn die comm key dog

/-- ADMISSION_WATCHDOG: 10 ms after the issue, some member's ADMIT is missing. -/
def execAdmissionWatchdog (die : Fin 4) (t : Fin 64) (s : State) : Host.Outcome State Fault Refusal :=
  .next <|
    match (s.orrery die).ticket t with
    | some v =>
      if v.since.toNat + 10000000 ≤ s.sys.sidt.toNat ∧ v.admits.length < v.coll.gsize then s.abort die t (abortRec true) true else s
    | none => s

/-- The tickets of a kernel that has no instance left fault as if their watchdog had fired (15 R352). -/
def State.endTickets (s : State) (kid : Nat) : State :=
  (List.range 4).foldl (fun s d => (List.range 64).foldl (fun s t =>
    if ((s.orrery d).ticket t).any fun v => v.kid == kid then s.abort d t (abortRec true) true else s) s) s

/-! ## Transfers (15 R346) -/

/-- A destination of ADDF that is no multiple of 4 (11 R254): the spec gives the collective no kind for it. DESIGN CHOICE, log entry 45. -/
def accAlign : AccFault := ⟨.align, 0, 0⟩

/-- Bytes of a payload element, and of its place at the target. -/
def Coll.sizes (c : Coll) : Nat × Nat := if c.act = 1 then cpyaSizes 5 c.efmt else (1, 1)

/-- Sends flits of a transfer up to the end of a 64 KiB unit of the destination: the rest, and the count of flits. -/
def State.xferUnit : Nat → State → Nat → Nat → Ticket → Xfer → Nat → State × Xfer
  | 0, s, _, _, _, x, _ => (s, x)
  | fuel + 1, s, d, t, v, x, unit =>
    let z := v.coll.sizes
    if x.rest.isEmpty ∨ x.addr / 65536 ≠ unit then (s, x)
    else
      let m := min (min x.rest.length (flitMax / z.1 * z.1)) ((65536 - x.addr % 65536) / z.2 * z.1)
      let f := { s.newFlit v.pkey 0 x.node false (if v.coll.act = 1 then 10 else 0) (if v.coll.act = 1 then v.coll.efmt else 0) x.addr
                   (x.rest.take m) with tag := x.tag }
      State.xferUnit fuel (s.ready (.ticket d t v.id) f) d t v
        { x with addr := x.addr + m / z.1 * z.2, rest := x.rest.drop m, count := x.count + 1 } unit

/-- Sends the next unit of a transfer; one past the top of the address space faults. -/
def State.xferNext (s : State) (d t : Nat) (v : Ticket) (x : Xfer) : State × Xfer :=
  if 2 ^ 48 ≤ x.addr then (s.collFault d t xNoncanon.eng x.addr, x)
  else State.xferUnit (x.rest.length + 1) s d t v x (x.addr / 65536)

/-- Transfer `n` begins with the data `bs` for another node; `bad` is what its source has met past them. -/
def State.xferStart (s : State) (d t : Nat) (v : Ticket) (n : Nat) (node : BitVec 13) (bs : List Byte) (bad : Option FaultRec) :
    State :=
  let r := s.xferNext d t v ⟨n, BitVec.ofNat 16 s.nextId, node, v.coll.dst n, bs, 0, bad⟩
  ({ r.1 with nextId := r.1.nextId + 1 } : State).upTicket d t fun v => some { v with xfers := v.xfers ++ [r.2] }

/-- Performs the elements of a local ADDF. -/
def State.addElems : Nat → State → Nat → Nat → List Byte → State × Got Unit
  | 0, s, _, _, _ => (s, .ok ())
  | fuel + 1, s, efmt, va, bs =>
    let w := (cpyaSizes 5 efmt).1
    if bs.length < w then (s, .ok ())
    else match s.gAtom .window tagOrrery 5 efmt va (leNat (bs.take w)) with
      | (s, .ok ()) => State.addElems fuel s efmt (va + 4) (bs.drop w)
      | r => r

/-- Writes bytes page by page with the Orrery's writer tag. -/
def State.orrWrite (v : Via) : Nat → State → Nat → List Byte → State × Got Unit
  | 0, s, _, _ => (s, .ok ())
  | fuel + 1, s, va, bs =>
    if bs.isEmpty then (s, .ok ())
    else
      let m := min bs.length (65536 - va % 65536)
      match s.gWrite v tagOrrery va (bs.take m) false false with
      | (s, .ok ()) => State.orrWrite v fuel s (va + m) (bs.drop m)
      | r => r

/-- The record of a failed access of an Orrery. -/
def collRec : Got Unit → Option FaultRec
  | .ok () => none
  | .park va => some (accHostFail.record va 0x38)
  | .fault g va => some (g.record va 0x38)

/-- The fault, if there is one, aborts the collective. -/
def State.collBroke (s : State) (d t : Nat) (bad : Option FaultRec) : State := bad.elim s fun f => s.abort d t f false

/-- An RFWD message reaches the Orrery of a die. -/
def State.msgIn (s : State) (d : Nat) (comm : BitVec 16) (key : W64) (n : Nat) (bs : List Byte) : State :=
  match (s.orrery d).holds key comm with
  | some t => s.upTicket d t fun v => some { v with msgs := v.msgs ++ [(n, bs)] }
  | none => s

/-- The slot of message `n` at its peer is free: the first to use it, or the message that used it before has been consumed. As the map of ranks to
peers is one to one at each visit, that is message n − RXSLOT, whichever member sent it. -/
def Ticket.slotFree (v : Ticket) (n : Nat) : Bool := decide (n < v.coll.rxslot) || v.freed.contains (n - v.coll.rxslot)

/-- Sends message `n`, or lets it wait for its slot. At another node it is performed once it has been acknowledged (R347). -/
def State.sendMsg (s : State) (d t n : Nat) (bs : List Byte) : State :=
  match (s.orrery d).ticket t with
  | none => s
  | some v =>
    let e := v.member (v.coll.peer n)
    let c := v.coll
    if !v.slotFree n then s.upTicket d t fun v => some { v with waiting := v.waiting ++ [(n, bs)] }
    else
      if e.1 = s.sys.nodeid then s.msgIn e.2.val c.comm c.key n bs
      else if !s.fab.routed s.sys.nodeid e.1 then s.collFault d t accRemote 0
      else
        let tag := BitVec.ofNat 16 s.nextId
        (({ s with nextId := s.nextId + 1 } : State).upTicket d t fun v =>
          some { v with xfers := v.xfers ++ [⟨n, tag, e.1, 0, [], 1, none⟩] }).emit
          (.rfwd e.1 e.2 c.comm c.key n bs s.sys.nodeid tag v.pkey)

/-- A peer has consumed message `n`: its slot is free, and message n + RXSLOT, if it waits for it, goes. -/
def State.slotFreed (s : State) (d : Nat) (comm : BitVec 16) (key : W64) (n : Nat) : State :=
  match (s.orrery d).holds key comm with
  | none => s
  | some t =>
    match (s.orrery d).ticket t with
    | none => s
    | some v =>
      let s := s.upTicket d t fun v => some { v with freed := n :: v.freed }
      match v.waiting.find? fun e => e.1 == n + v.coll.rxslot with
      | some e =>
        ((s.upTicket d t fun v => some { v with waiting := v.waiting.filter fun w => w.1 != e.1 }).sendMsg d t e.1 e.2).walkDone d t
      | none => s

/-- Message `n` is consumed: its slot is free for message n + RXSLOT, and the member that sends it learns so. DESIGN CHOICE, log entry 45. -/
def State.freeSlot (s : State) (d t n : Nat) : State :=
  match (s.orrery d).ticket t with
  | none => s
  | some v =>
    let e := v.member (v.coll.fromRank (n + v.coll.rxslot))
    let s := s.upTicket d t fun v => some { v with msgs := v.msgs.filter fun m => m.1 != n }
    if n + v.coll.rxslot + 1 < v.coll.total then
      s.tellMember e (fun s d => s.slotFreed d v.coll.comm v.coll.key n) (.slotFree e.1 e.2 v.coll.comm v.coll.key n)
    else s

/-- Performs transfer `n` with the source bytes `bs`; `bad` is what the source has met past them, which follows the bytes that
could be read (11 R248). -/
def State.transfer (s : State) (d t : Nat) (v : Ticket) (n : Nat) (bs : List Byte) (bad : Option FaultRec) : State :=
  let c := v.coll
  let e := v.member (c.peer n)
  match c.act with
  | 2 =>
    if bad.isSome ∧ n + 1 < c.total then s.collBroke d t bad
    else
      let x := if n = 0 then bs
        else combine c.efmt c.rop (bs.length / efmtSize c.efmt) ((v.msgs.find? fun m => m.1 == n - 1).elim [] (·.2)) bs
      let s := if n = 0 then s else s.freeSlot d t (n - 1)
      if n + 1 < c.total then s.sendMsg d t n x
      else match State.orrWrite (.walk v.asid v.world) (x.length / 65536 + 2) s (c.dst n) x with
        | (s, g) => (s.collBroke d t (collRec g)).collBroke d t bad
  | act =>
    if act = 1 ∧ c.dst n % 4 ≠ 0 then s.collFault d t accAlign (c.dst n)
    else if e.1 ≠ s.sys.nodeid then
      if !s.fab.routed s.sys.nodeid e.1 then s.collFault d t accRemote (c.dst n)
      else if bs.isEmpty then s.collBroke d t bad
      else s.xferStart d t v n e.1 bs bad
    else
      match (if act = 1 then State.addElems c.elems s c.efmt (c.dst n) bs
        else State.orrWrite .window (bs.length / 65536 + 2) s (c.dst n) bs) with
      | (s, g) => (s.collBroke d t (collRec g)).collBroke d t bad

/-- Transfer `n` sends to its peer: every one but the last of an RFWD. -/
def Coll.sends (c : Coll) (n : Nat) : Bool := c.act != 2 || decide (n + 1 < c.total)

/-- COLL_TRANSFER: the walker begins the next transfer: the peer that it sends to has been admitted, and an RFWD's message is there.
DESIGN CHOICE, log entry 45. -/
def execCollTransfer (die : Fin 4) (t : Fin 64) (s : State) : Host.Outcome State Fault Refusal :=
  let d := die.val
  .next <|
    match (s.orrery d).ticket t with
    | none => s
    | some v =>
      let c := v.coll
      let n := v.next
      if !v.admitted || decide (c.total ≤ n) || (c.sends n && !v.admits.contains (c.peer n)) || !s.copiesBefore v ||
          (c.act == 2 && decide (0 < n) && !(v.msgs.any fun m => m.1 == n - 1)) then s
      else match State.gRead (.walk v.asid v.world) (c.len / 65536 + 2) s (c.src n) c.len with
        | (s, bs, g) =>
          let s := s.upTicket d t fun v => some { v with next := n + 1 }
          let w := if c.act = 0 then 1 else efmtSize c.efmt
          (s.transfer d t { v with next := n + 1 } n (bs.take (bs.length / w * w)) (collRec g)).walkDone d t

/-- RFWD_MESSAGE_RX: a message whose partition key passes lands in its slot, and is acknowledged as performed. -/
def execRfwdMessageRx (die : Fin 4) (comm : BitVec 16) (key : W64) (n : Nat) (d : RfwdData) (s : State) : Host.Outcome State Fault Refusal :=
  .next <|
    let s := s.toC0
    if s.fab.keyOk d.pkey then (s.msgIn die comm key n d.data).emit (.performed d.src d.tag 1 none)
    else (s.pkeyEvent d.p d.src d.pkey).emit (.performed d.src d.tag 1 (some (refusal accPkey 0)))

/-- RFWD_SLOT_FREE. -/
def execRfwdSlotFree (die : Fin 4) (comm : BitVec 16) (key : W64) (n : Nat) (s : State) : Host.Outcome State Fault Refusal :=
  .next (s.toC0.slotFreed die comm key n)

/-! ## Performed acknowledgements and abandoned flits (13 R312; 14 R331) -/

/-- The transfer that a node knows by TAG. -/
def State.xferOf (s : State) (node : BitVec 13) (tag : BitVec 16) : Option (Nat × Nat × Ticket × Xfer) :=
  (List.range 4).findSome? fun d => (List.range 64).findSome? fun t =>
    ((s.orrery d).ticket t).bind fun v => (v.xfers.find? fun x => x.node == node && x.tag == tag).map fun x => (d, t, v, x)

/-- Flits of a transfer acknowledged as performed: the next unit follows, then the end of the transfer. -/
def State.xferAcked (s : State) (d t : Nat) (v : Ticket) (x : Xfer) (n : Nat) : State :=
  let x := { x with count := x.count - n }
  let put := fun (s : State) (y : Option Xfer) => s.upTicket d t fun v => some { v with
    xfers := v.xfers.filterMap fun z => if z.tag = x.tag then y else some z }
  if x.count ≠ 0 then put s (some x)
  else if x.rest.isEmpty then ((put s none).collBroke d t x.bad).walkDone d t
  else
    let r := s.xferNext d t v x
    put r.1 (some r.2)

/-- PERFORMED_ACK_RX: flits of a command or a transfer have been performed, or refused. -/
def execPerformedAckRx (src : BitVec 13) (tag : BitVec 16) (n : Nat) (bad : Option FaultRec) (s : State) :
    Host.Outcome State Fault Refusal :=
  .next <|
    let s := s.toC0
    match s.byTag src tag with
    | some c => s.copyAcked c src n bad
    | none =>
      match s.xferOf src tag with
      | none => s.ordAcked src tag n
      | some (d, t, v, x) =>
        match bad with
        | some r => s.abort d t (forOp r 0x38) false
        | none => s.xferAcked d t v x n

/-- An abandoned flit ends its command, with a record; one that has been sent went on link `link`. -/
def State.abandon (s : State) (own : FlitOwner) (f : Flit) (link : Option Nat) : State :=
  let s := s.event { s.ev 0x0F with
    port := (link.getD 0) / 64 % 16, line := (link.filter fun l => decide (l < 1024)).map (· % 64), peer := f.dst.toNat, pkey := f.pkey.toNat, frame := s.frame }
  s.abandonOwner own f link.isSome fun s d t => s.collFault d t accRemote f.addr.toNat

/-- A waiting flit that its rules let go nowhere is not sent, and its command faults at once; one in transit is discarded with a refusal (13 R313,
R314). -/
def State.noWay (s : State) (j : Nat) (o : OutFlit) : State :=
  (s.upFab fun f => { f with outq := f.outq.eraseIdx j }).abandonOwner o.own o.f false fun s d t => s.collFault d t accRemote o.f.addr.toNat

/-- FLIT_SEND: emitter `ch` of port `p` sends again or replays what its link owes; else it sends the `j`-th waiting flit, in the priority of
R306. A flit whose command is over is dropped, and so is one that has no way to go. -/
def execFlitSend (p : Fin 16) (ch : Fin 18) (j : Nat) (s : State) : Host.Outcome State Fault Refusal :=
  .next <|
    match s.fab.outq[j]?.filter fun o => !s.ownerLive o.own || !s.canGo o.f with
    | some o => if s.ownerLive o.own then s.noWay j o else s.upFab fun f => { f with outq := f.outq.eraseIdx j }
    | none =>
      match s.opportunity p ch with
      | none => s
      | some (w, node) =>
        let k := ephLine w
        let lk := s.fab.link (64 * p.val + k % 64)
        match s.linkWork p ch k node with
        | some s => s
        | none =>
          match s.fab.outq[j]? with
          | none => s
          | some o =>
            let may := fun (q : OutFlit) (i : Nat) =>
              s.ownerLive q.own && s.canGo q.f && s.mayGo q p ch w node && s.ordTurn q i && decide (0 < lk.free q.f.hc.val)
            if decide (s.fab.store.length < 65536) && may o j &&
                !(s.fab.outq.zipIdx.any fun q => prioLt (s.prio q.1 p ch w) (s.prio o p ch w) && may q.1 q.2) then
              s.sendFlit p ch k j node o
            else s

/-- FLIT_ABANDON: flit `j` of those that wait to be sent and those that await a link acknowledgement: 1 ms has passed, and a
waiting one has no path. -/
def execFlitAbandon (j : Nat) (s : State) : Host.Outcome State Fault Refusal :=
  let old := fun (t : W64) => decide (t.toNat + 1000000 ≤ s.sys.sidt.toNat)
  .next <|
    match s.fab.outq[j]? with
    | some o =>
      let sec := s.ofSecure o.own
      let barred := o.f.ord && decide (s.ordPathOf o.f < 16) && !s.carries (s.ordPathOf o.f) sec
      if old o.since && (!s.pathTo o.f.dst o.f.hc.val sec || barred) && s.ownerLive o.own then
        (s.upFab fun f => { f with outq := f.outq.eraseIdx j }).abandon o.own o.f none
      else s
    | none =>
      let i := j - s.fab.outq.length
      match s.fab.store[i]? with
      | some t =>
        if old t.since && !(s.fab.announced t && t.own == .gone) then
          (s.upFab fun f => { f with
            store := if f.announced t then f.store.set i { t with own := .gone } else f.store.eraseIdx i }).abandon t.own t.f (some (t.link.getD t.orig))
        else s
      | none => s

end Sys2Proof.Machine
end

