-- ==== Sys2Proof/Machine/Scalar.lean ====
section
/-! DEFINITION. Scalar and immediate forms, masks, special registers and LDC (06 R113 to R130, 04 R74). -/

namespace Sys2Proof.Machine

/-- A two-source scalar member (06 R113). -/
def scal2 (f : W64 → W64 → W64) (d a b : Fin 32) : Eff := fun i o => .ok (o.wS d (f (i.rS a) (i.rS b)))

/-- A two-source scalar member of bound 4 (06 R114). -/
def scalMul (f : W64 → W64 → W64) (d a b : Fin 32) : Eff := fun i o => .ok (o.fS d (f (i.rS a) (i.rS b)) 4 0)

/-- A one-source scalar member. -/
def scal1 (f : W64 → W64) (d a : Fin 32) : Eff := fun i o => .ok (o.wS d (f (i.rS a)))

/-- A Boolean result of a scalar test. -/
def w64b (b : Bool) : W64 := BitVec.ofNat 64 (b2n b)

/-- The shift amount of a shift: the low six bits (06 R114). -/
def shAmt (b : W64) : Nat := b.toNat % 64

def effNop : Eff := fun _ o => .ok o
def effAdd (d a b : Fin 32) : Eff := scal2 (· + ·) d a b
def effSub (d a b : Fin 32) : Eff := scal2 (· - ·) d a b
def effAnd (d a b : Fin 32) : Eff := scal2 (· &&& ·) d a b
def effOr (d a b : Fin 32) : Eff := scal2 (· ||| ·) d a b
def effXor (d a b : Fin 32) : Eff := scal2 (· ^^^ ·) d a b
def effShl (d a b : Fin 32) : Eff := scal2 (fun x y => x <<< shAmt y) d a b
def effShr (d a b : Fin 32) : Eff := scal2 (fun x y => x >>> shAmt y) d a b
def effSra (d a b : Fin 32) : Eff := scal2 (fun x y => x.sshiftRight (shAmt y)) d a b
def effMul (d a b : Fin 32) : Eff := scalMul (· * ·) d a b
/-- High 64 bits of the signed product. -/
def effMulhs (d a b : Fin 32) : Eff := scalMul (fun x y => BitVec.ofInt 64 (x.toInt * y.toInt / 2 ^ 64)) d a b
/-- High 64 bits of the unsigned product. -/
def effMulhu (d a b : Fin 32) : Eff := scalMul (fun x y => BitVec.ofNat 64 (x.toNat * y.toNat / 2 ^ 64)) d a b
def effMin (d a b : Fin 32) : Eff := scal2 (fun x y => if x.toInt ≤ y.toInt then x else y) d a b
def effMax (d a b : Fin 32) : Eff := scal2 (fun x y => if x.toInt ≤ y.toInt then y else x) d a b
def effMinu (d a b : Fin 32) : Eff := scal2 (fun x y => if x.toNat ≤ y.toNat then x else y) d a b
def effMaxu (d a b : Fin 32) : Eff := scal2 (fun x y => if x.toNat ≤ y.toNat then y else x) d a b
def effSeq (d a b : Fin 32) : Eff := scal2 (fun x y => w64b (x == y)) d a b
def effSlt (d a b : Fin 32) : Eff := scal2 (fun x y => w64b (decide (x.toInt < y.toInt))) d a b
def effSltu (d a b : Fin 32) : Eff := scal2 (fun x y => w64b (decide (x.toNat < y.toNat))) d a b
/-- 06 R115. -/
def effSel (d a b c : Fin 32) : Eff := fun i o => .ok (o.wS d (if i.rS c != 0 then i.rS a else i.rS b))
def effClz (d a : Fin 32) : Eff := scal1 (fun x => BitVec.ofNat 64 (leadZeros x)) d a
def effPopc (d a : Fin 32) : Eff := scal1 (fun x => BitVec.ofNat 64 (popCount x)) d a
/-- 06 R116: bits [POS + LEN − 1 : POS], zero-extended. -/
def effExtr (d a : Fin 32) (pos len1 : Fin 64) : Eff := scal1 (fun x => BitVec.ofNat 64 (bf x pos (len1 + 1))) d a
/-- 06 R116: sd is also a source. -/
def effInsr (d a : Fin 32) (pos len1 : Fin 64) : Eff := fun i o =>
  let m : W64 := BitVec.ofNat 64 ((2 ^ (len1.val + 1) - 1) * 2 ^ pos.val)
  .ok (o.wS d ((i.rS d &&& ~~~m) ||| (BitVec.ofNat 64 (bf (i.rS a) 0 (len1 + 1) * 2 ^ pos.val) &&& m)))
def effAddw (d a b : Fin 32) : Eff := scal2 (fun x y => ((x + y).setWidth 32).signExtend 64) d a b

/-! ## Immediate forms (06 R117) -/

def effAddi (d a : Fin 32) (i : Int) : Eff := scal1 (fun x => x + w64 i) d a
def effAndi (d a : Fin 32) (i : Int) : Eff := scal1 (fun x => x &&& w64 i) d a
def effOri (d a : Fin 32) (i : Int) : Eff := scal1 (fun x => x ||| w64 i) d a
def effXori (d a : Fin 32) (i : Int) : Eff := scal1 (fun x => x ^^^ w64 i) d a
def effShli (d a : Fin 32) (i : Int) : Eff := scal1 (fun x => x <<< i.toNat) d a
def effShri (d a : Fin 32) (i : Int) : Eff := scal1 (fun x => x >>> i.toNat) d a
def effSrai (d a : Fin 32) (i : Int) : Eff := scal1 (fun x => x.sshiftRight i.toNat) d a
def effSlti (d a : Fin 32) (i : Int) : Eff := scal1 (fun x => w64b (decide (x.toInt < i))) d a
def effLui (d : Fin 32) (i : Int) : Eff := fun _ o => .ok (o.wS d (w64 (i * 4096)))

/-! ## Masks (06 R127) -/

/-- A mask as a source. -/
def Iss.mask (i : Iss) : Mask → W64 | .em => i.em | .cm => i.cm
/-- The other mask. -/
def Mask.other : Mask → Mask | .em => .cm | .cm => .em
/-- The second operand of a combining member. -/
def Iss.maskY (i : Iss) (m : Mask) : MaskY → W64 | .other => i.mask (Mask.other m) | .reg a => i.rS a
/-- 2^k − 1 with k = min(64, max(0, s(sa))). -/
def msetVal (x : W64) : W64 := BitVec.ofNat 64 (2 ^ min 64 x.toInt.toNat - 1)

def effMsave (d : Fin 32) (m : Mask) : Eff := fun i o => .ok (o.wS d (i.mask m))
def effMrest (m : Mask) (a : Fin 32) : Eff := fun i o => .ok (o.wM m (i.rS a))
def effMand (m : Mask) (y : MaskY) : Eff := fun i o => .ok (o.wM m (i.mask m &&& i.maskY m y))
def effMor (m : Mask) (y : MaskY) : Eff := fun i o => .ok (o.wM m (i.mask m ||| i.maskY m y))
def effMandn (m : Mask) (y : MaskY) : Eff := fun i o => .ok (o.wM m (i.mask m &&& ~~~(i.maskY m y)))
def effMset (m : Mask) (a : Fin 32) : Eff := fun i o => .ok (o.wM m (msetVal (i.rS a)))
def effMcmv (m : Mask) : Eff := fun i o => .ok (o.wM m (i.mask (Mask.other m)))
def effMpopc (d : Fin 32) (m : Mask) : Eff := fun i o => .ok (o.wS d (BitVec.ofNat 64 (popCount (i.mask m))))

/-! ## Special registers (05 R102, R103; 06 R128 to R130) -/

/-- WAITST of a wait (12 R271). -/
def Wait.word (w : Wait) : W64 :=
  BitVec.ofNat 64 (w.kind % 16 + 16 * (w.h % 128) + 2 ^ 11 * (w.arg % 2 ^ 19) + 2 ^ 32 * w.since.toNat)

/-- TSTAT of a context (16 R358). -/
def Ctx.tstat (c : Ctx) : W64 :=
  BitVec.ofNat 64 (b2n c.hnd + 2 * b2n c.mid + 4 * b2n c.self + 8 * b2n c.restarted + 256 * c.nsave.toNat)

/-- GANGST of a context (05 R103). -/
def Ctx.gangst (c : Ctx) : W64 :=
  BitVec.ofNat 64 (c.gmode.toNat + 4 * b2n c.gdec + 8 * b2n c.gchk + 16 * c.gskew.toNat)

/-- Loop entry `n`, counted from the outermost, if in use (05 R101). -/
def Ctx.loopEnt (c : Ctx) (n : Nat) : Option LoopEnt := if n < c.loops.length then c.loops[c.loops.length - 1 - n]? else none

/-- LSCNTi, LSSTARTi and LSENDi: field `k` (0 to 2) of entry `n`, zero when the entry is not in use. -/
def Ctx.loopReg (c : Ctx) (n k : Nat) : W64 :=
  match c.loopEnt n with
  | none => 0
  | some l => if k = 0 then l.count.setWidth 64 else if k = 1 then l.first.setWidth 64 else l.fin.setWidth 64

/-- The special register of index `r` as RDSR reads it: reserved fields read zero. -/
def srRead (s : State) (x : Nat) (c : Ctx) (r : Nat) : W64 :=
  if 0x20 ≤ r ∧ r < 0x32 then c.loopReg ((r - 0x20) / 3) ((r - 0x20) % 3)
  else match r with
    | 0x000 => BitVec.ofNat 64 x
    | 0x001 => c.kcoord
    | 0x002 => c.kshape
    | 0x003 => s.sys.nodeid.setWidth 64
    | 0x004 => c.pkey.setWidth 64
    | 0x010 => c.arith.setWidth 64
    | 0x011 => c.rmode.setWidth 64
    | 0x012 => c.srseed
    | 0x013 => c.rsdctr.setWidth 64
    | 0x032 => BitVec.ofNat 64 c.loops.length
    | 0x040 => c.tvec.setWidth 64
    | 0x041 => c.tcause.setWidth 64
    | 0x042 => c.tpc.setWidth 64
    | 0x043 => c.tinfo
    | 0x044 => c.tstat
    | 0x050 => s.sys.sidt
    | 0x051 => c.cycle
    | 0x060 => c.pslack.setWidth 64
    | 0x070 => c.wait.elim 0 Wait.word
    | 0x080 => BitVec.ofNat 64 c.spbase
    | 0x081 => BitVec.ofNat 64 c.spsize
    | 0x090 => c.gangst
    | 0x0A0 => c.fewdog.setWidth 64
    | 0x0A1 => c.waitdog.setWidth 64
    | _ => 0

/-- RMODE as written: 0b101 to 0b111 store RNE (07 R148). -/
def rmodeOf (x : W64) : BitVec 3 := if 5 ≤ bf x 0 3 then 0 else x.setWidth 3

/-- PSLACK as written (05 R103; 06 R128, whose instance writes 40,000): a value above 16,384 stores 16,384. -/
def pslackOf (x : W64) : BitVec 15 := if 16384 < x.toNat then 16384 else x.setWidth 15

/-- WRSR of index `r` (06 R129): bits written to reserved fields are ignored. -/
def Ctx.srWrite (c : Ctx) (r : Nat) (x : W64) : Ctx :=
  match r with
  | 0x010 => { c with arith := x.setWidth 7 }
  | 0x011 => { c with rmode := rmodeOf x }
  | 0x012 => { c with srseed := x }
  | 0x040 => { c with tvec := (x.setWidth 48) &&& ~~~3 }
  | 0x042 => { c with tpc := x.setWidth 48 }
  | 0x060 => { c with pslack := pslackOf x }
  | 0x0A0 => { c with fewdog := x.setWidth 32 }
  | 0x0A1 => { c with waitdog := x.setWidth 32 }
  | _ => c

/-- The registers whose value a CHECK checker takes from its primary (05 R106), and whether that value varies. -/
def srMirrored (r : Nat) : Bool := r == 0x000 || r == 0x001 || r == 0x050 || r == 0x051 || r == 0x070

/-- RDSR (06 R128): bound 2, SIDT 16. In a CHECK pair the primary passes the values of the mirrored registers on. -/
def effRdsr (d : Fin 32) (r : Fin 4096) : Eff := fun i o =>
  let l := if r.val = 0x050 then 16 else 2
  if srMirrored r && i.chk then
    .ok ({ o with c := { o.c with mir := o.c.mir.drop 1 } }.fS d (o.c.mir.headD 0) l 0)
  else
    let v := srRead i.s i.x i.c r
    let o := if srMirrored r && i.c.gmode == 2 then
        { o with s := o.s.upCtx (i.x + 2) fun c => { c with mir := c.mir ++ [v] } } else o
    .ok (o.fS d v l 0)

/-- WRSR (06 R128, R129). -/
def effWrsr (r : Fin 4096) (a : Fin 32) : Eff := fun i o =>
  let x := i.rS a
  let o := { o with c := o.c.srWrite r x, sig := o.sig ++ sigR r x }
  .ok (if r.val = 0x013 then { o with wrRsd := some (x.setWidth 32) } else o)

/-! ## LDC (04 R74) -/

/-- The pool header covers `n` words from word `k` on. -/
def poolOk (hdr : W32) (k n : Nat) : Bool :=
  bf hdr 22 10 == 0x3CB && bf hdr 21 1 == 0 && bf hdr 3 17 == 0 && decide (1 ≤ k) && decide (k + n - 1 ≤ bf hdr 0 3)

/-- The value that LDC loads from a packet's words. -/
def ldcVal (z : LdcSz) (ws : List W32) (k : Nat) : W64 :=
  match z with
  | .w => (ws.getD k 0).signExtend 64
  | .wu => (ws.getD k 0).setWidth 64
  | .d => (ws.getD (k + 1) 0 ++ ws.getD k 0 : BitVec 64)

/-- LDC: through the instruction cache, never the fetch buffer; bound 6. -/
def effLdc (d : Fin 32) (z : LdcSz) (off : Int) : Eff := fun i o =>
  let a : W64 := i.c.pc.setWidth 64 + w64 (4 * off)
  let k := a.toNat % 32 / 4
  match coreVa a with
  | .error f => trapAt i f.cause (a.setWidth 48 |>.setWidth 64)
  | .ok va =>
    match o.s.fetchPacket i.x (va / 32 * 32) with
    | (_, .fault f) =>
      if f = xNomap && i.s.hostPf then
        match i.s.park (i.s.asidOf i.x) 0 (BitVec.ofNat 32 (va / 65536)) with
        | some s' => .wait s' { kind := 11, since := i.c.cycle.setWidth 32, page := BitVec.ofNat 32 (va / 65536),
                                info := BitVec.ofNat 64 va, tpc := i.c.pc }
        | none => trapAt i .xlate (BitVec.ofNat 64 va)
      else trapAt i f.cause (BitVec.ofNat 64 va)
    | (_, .poison u) => .trap ⟨.poison, i.c.pc, i.s.poisonInfo i.x, u⟩
    | (s', .ok ws) =>
      if poolOk (ws.getD 0 0) k (if z = .d then 2 else 1) then
        .ok ({ o with s := s' }.fS d (ldcVal z ws k) 6 0)
      else trapAt i .illegalEnc (encInfo (i.c.unitWord 0).1 .poolref (i.c.unitWord 0).2)

/-! ## The words as bundles of one word -/

/-- NOP as a bundle of one word (R69). -/
def execNop (s : State) : Host.Outcome State Fault Refusal :=
  issueWords [effNop] s

/-- ADD as a bundle of one word (R113). -/
def execAdd (d a b : Fin 32) (s : State) : Host.Outcome State Fault Refusal :=
  issueWords [effAdd d a b] s

/-- SUB as a bundle of one word (R113). -/
def execSub (d a b : Fin 32) (s : State) : Host.Outcome State Fault Refusal :=
  issueWords [effSub d a b] s

/-- AND as a bundle of one word (R113). -/
def execAnd (d a b : Fin 32) (s : State) : Host.Outcome State Fault Refusal :=
  issueWords [effAnd d a b] s

/-- OR as a bundle of one word (R113). -/
def execOr (d a b : Fin 32) (s : State) : Host.Outcome State Fault Refusal :=
  issueWords [effOr d a b] s

/-- XOR as a bundle of one word (R113). -/
def execXor (d a b : Fin 32) (s : State) : Host.Outcome State Fault Refusal :=
  issueWords [effXor d a b] s

/-- SHL as a bundle of one word (R113). -/
def execShl (d a b : Fin 32) (s : State) : Host.Outcome State Fault Refusal :=
  issueWords [effShl d a b] s

/-- SHR as a bundle of one word (R113). -/
def execShr (d a b : Fin 32) (s : State) : Host.Outcome State Fault Refusal :=
  issueWords [effShr d a b] s

/-- SRA as a bundle of one word (R113). -/
def execSra (d a b : Fin 32) (s : State) : Host.Outcome State Fault Refusal :=
  issueWords [effSra d a b] s

/-- MUL as a bundle of one word (R113). -/
def execMul (d a b : Fin 32) (s : State) : Host.Outcome State Fault Refusal :=
  issueWords [effMul d a b] s

/-- MULHS as a bundle of one word (R113). -/
def execMulhs (d a b : Fin 32) (s : State) : Host.Outcome State Fault Refusal :=
  issueWords [effMulhs d a b] s

/-- MULHU as a bundle of one word (R113). -/
def execMulhu (d a b : Fin 32) (s : State) : Host.Outcome State Fault Refusal :=
  issueWords [effMulhu d a b] s

/-- MIN as a bundle of one word (R113). -/
def execMin (d a b : Fin 32) (s : State) : Host.Outcome State Fault Refusal :=
  issueWords [effMin d a b] s

/-- MAX as a bundle of one word (R113). -/
def execMax (d a b : Fin 32) (s : State) : Host.Outcome State Fault Refusal :=
  issueWords [effMax d a b] s

/-- MINU as a bundle of one word (R113). -/
def execMinu (d a b : Fin 32) (s : State) : Host.Outcome State Fault Refusal :=
  issueWords [effMinu d a b] s

/-- MAXU as a bundle of one word (R113). -/
def execMaxu (d a b : Fin 32) (s : State) : Host.Outcome State Fault Refusal :=
  issueWords [effMaxu d a b] s

/-- SEQ as a bundle of one word (R113). -/
def execSeq (d a b : Fin 32) (s : State) : Host.Outcome State Fault Refusal :=
  issueWords [effSeq d a b] s

/-- SLT as a bundle of one word (R113). -/
def execSlt (d a b : Fin 32) (s : State) : Host.Outcome State Fault Refusal :=
  issueWords [effSlt d a b] s

/-- SLTU as a bundle of one word (R113). -/
def execSltu (d a b : Fin 32) (s : State) : Host.Outcome State Fault Refusal :=
  issueWords [effSltu d a b] s

/-- SEL as a bundle of one word (R115). -/
def execSel (d a b c : Fin 32) (s : State) : Host.Outcome State Fault Refusal :=
  issueWords [effSel d a b c] s

/-- CLZ as a bundle of one word (R113). -/
def execClz (d a : Fin 32) (s : State) : Host.Outcome State Fault Refusal :=
  issueWords [effClz d a] s

/-- POPC as a bundle of one word (R113). -/
def execPopc (d a : Fin 32) (s : State) : Host.Outcome State Fault Refusal :=
  issueWords [effPopc d a] s

/-- EXTR as a bundle of one word (R116). -/
def execExtr (d a : Fin 32) (pos len1 : Fin 64) (s : State) : Host.Outcome State Fault Refusal :=
  issueWords [effExtr d a pos len1] s

/-- INSR as a bundle of one word (R116). -/
def execInsr (d a : Fin 32) (pos len1 : Fin 64) (s : State) : Host.Outcome State Fault Refusal :=
  issueWords [effInsr d a pos len1] s

/-- ADDW as a bundle of one word (R113). -/
def execAddw (d a b : Fin 32) (s : State) : Host.Outcome State Fault Refusal :=
  issueWords [effAddw d a b] s

/-- ADDI as a bundle of one word (R117). -/
def execAddi (d a : Fin 32) (i : Int) (s : State) : Host.Outcome State Fault Refusal :=
  issueWords [effAddi d a i] s

/-- ANDI as a bundle of one word (R117). -/
def execAndi (d a : Fin 32) (i : Int) (s : State) : Host.Outcome State Fault Refusal :=
  issueWords [effAndi d a i] s

/-- ORI as a bundle of one word (R117). -/
def execOri (d a : Fin 32) (i : Int) (s : State) : Host.Outcome State Fault Refusal :=
  issueWords [effOri d a i] s

/-- XORI as a bundle of one word (R117). -/
def execXori (d a : Fin 32) (i : Int) (s : State) : Host.Outcome State Fault Refusal :=
  issueWords [effXori d a i] s

/-- SHLI as a bundle of one word (R117). -/
def execShli (d a : Fin 32) (i : Int) (s : State) : Host.Outcome State Fault Refusal :=
  issueWords [effShli d a i] s

/-- SHRI as a bundle of one word (R117). -/
def execShri (d a : Fin 32) (i : Int) (s : State) : Host.Outcome State Fault Refusal :=
  issueWords [effShri d a i] s

/-- SRAI as a bundle of one word (R117). -/
def execSrai (d a : Fin 32) (i : Int) (s : State) : Host.Outcome State Fault Refusal :=
  issueWords [effSrai d a i] s

/-- SLTI as a bundle of one word (R117). -/
def execSlti (d a : Fin 32) (i : Int) (s : State) : Host.Outcome State Fault Refusal :=
  issueWords [effSlti d a i] s

/-- LUI as a bundle of one word (R117). -/
def execLui (d : Fin 32) (i : Int) (s : State) : Host.Outcome State Fault Refusal :=
  issueWords [effLui d i] s

/-- MSAVE as a bundle of one word (R127). -/
def execMsave (d : Fin 32) (m : Mask) (s : State) : Host.Outcome State Fault Refusal :=
  issueWords [effMsave d m] s

/-- MREST as a bundle of one word (R127). -/
def execMrest (m : Mask) (a : Fin 32) (s : State) : Host.Outcome State Fault Refusal :=
  issueWords [effMrest m a] s

/-- MAND as a bundle of one word (R127). -/
def execMand (m : Mask) (y : MaskY) (s : State) : Host.Outcome State Fault Refusal :=
  issueWords [effMand m y] s

/-- MOR as a bundle of one word (R127). -/
def execMor (m : Mask) (y : MaskY) (s : State) : Host.Outcome State Fault Refusal :=
  issueWords [effMor m y] s

/-- MANDN as a bundle of one word (R127). -/
def execMandn (m : Mask) (y : MaskY) (s : State) : Host.Outcome State Fault Refusal :=
  issueWords [effMandn m y] s

/-- MSET as a bundle of one word (R127). -/
def execMset (m : Mask) (a : Fin 32) (s : State) : Host.Outcome State Fault Refusal :=
  issueWords [effMset m a] s

/-- MCMV as a bundle of one word (R127). -/
def execMcmv (m : Mask) (s : State) : Host.Outcome State Fault Refusal :=
  issueWords [effMcmv m] s

/-- MPOPC as a bundle of one word (R127). -/
def execMpopc (d : Fin 32) (m : Mask) (s : State) : Host.Outcome State Fault Refusal :=
  issueWords [effMpopc d m] s

/-- RDSR as a bundle of one word (R128). -/
def execRdsr (d : Fin 32) (r : Fin 4096) (s : State) : Host.Outcome State Fault Refusal :=
  issueWords [effRdsr d r] s

/-- WRSR as a bundle of one word (R129). -/
def execWrsr (r : Fin 4096) (a : Fin 32) (s : State) : Host.Outcome State Fault Refusal :=
  issueWords [effWrsr r a] s

/-- LDC as a bundle of one word (R74). -/
def execLdc (d : Fin 32) (z : LdcSz) (o : Int) (s : State) : Host.Outcome State Fault Refusal :=
  issueWords [effLdc d z o] s

end Sys2Proof.Machine
end

