-- ==== Sys2Proof/Machine/Control.lean ====
section
/-! DEFINITION. Transfers, hardware loops, HALT, TRAP, BRK, ERET, FETCHB and YIELD (06 R118 to R131; 16 R359; 04 R89;
05 R112). -/

namespace Sys2Proof.Machine

/-- A condition of S.B (04 R77). -/
def Cond.holds (c : Cond) (x : W64) : Bool :=
  match c with
  | .z => x == 0
  | .nz => x != 0
  | .ltz => decide (x.toInt < 0)
  | .gez => decide (0 ≤ x.toInt)
  | .gtz => decide (0 < x.toInt)
  | .lez => decide (x.toInt ≤ 0)
  | .always => true

/-- A PC-relative target: `off` words from the start of the bundle (06 R118). -/
def Iss.target (i : Iss) (off : Int) : W64 := i.c.pc.setWidth 64 + w64 (4 * off)

/-- The link into s31: the sequential successor of the bundle (06 R118, R119). -/
def Out.link (o : Out) (i : Iss) : Out := o.wS 31 (i.c.bsucc.setWidth 64)

def effBr (c : Cond) (a : Fin 32) (off : Int) : Eff := fun i o =>
  .ok (if Cond.holds c (i.rS a) then { o with next := .jump (i.target off) } else o)
def effJmp (off : Int) : Eff := fun i o => .ok { o with next := .jump (i.target off) }
def effCall (off : Int) : Eff := fun i o => .ok { o.link i with next := .jump (i.target off) }
def effJr (a : Fin 32) : Eff := fun i o => .ok { o with next := .jump (i.rS a) }
def effCallr (a : Fin 32) : Eff := fun i o => .ok { o.link i with next := .jump (i.rS a) }

/-! ## Hardware loops (06 R121 to R125) -/

/-- LOOP and LOOPI with the count `n` and END `e`: a count above 2^32 − 1 and a seventh level trap, a count of zero or less
skips the body, else the entry is pushed. END is taken modulo 2^48. DESIGN CHOICE, log entry 63. -/
def loopPush (n : Int) (e : Nat) : Eff := fun i o =>
  let fin : Addr := i.c.pc + BitVec.ofNat 48 (4 * e)
  if 2 ^ 32 - 1 < n then trapAt i .loopOverflow 2
  else if n ≤ 0 then .ok { o with next := .endAt fin }
  else if 6 ≤ i.c.loops.length then trapAt i .loopOverflow 1
  else .ok { o with c := { o.c with loops := ⟨BitVec.ofInt 32 n, i.c.bsucc, fin⟩ :: o.c.loops }, next := .fall }

def effLoop (a : Fin 32) (e : Nat) : Eff := fun i o => loopPush (i.rS a).toInt e i o
def effLoopi (n : Fin 1024) (e : Nat) : Eff := loopPush n.val e
def effBrkl : Eff := fun i o =>
  match i.c.loops with
  | [] => trapAt i .loopUnderflow 1
  | l :: ls => .ok { o with c := { o.c with loops := ls }, next := .endAt l.fin }
def effLidx (d : Fin 32) (k : Fin 6) : Eff := fun i o =>
  match i.c.loops[k.val]? with
  | none => trapAt i .loopUnderflow 2
  | some l => .ok (o.wS d (l.count.setWidth 64))

/-! ## Leaving the stream -/

/-- HALT (06 R131): a kept fault record is raised instead. In a CHECK pair both cores retire (R132). DESIGN CHOICE, log entry 19. -/
def effHalt : Eff := fun i o =>
  let o := { o with sig := o.sig ++ i.sigE }
  match i.c.frec with
  | some f => .trap ⟨f.cause, i.c.pc, f.info, f.unit⟩
  | none => .ok { o with next := .stop }

/-- TRAP (16 R359): the bundle completes, then the trap is raised with TINFO = sa. -/
def effTrap (a : Fin 32) : Eff := fun i o =>
  .ok { o with sig := o.sig ++ i.sigE, next := .trapAfter .trap (i.rS a) }

/-- BRK (16 R359). -/
def effBrk : Eff := fun i o =>
  .ok { o with sig := o.sig ++ i.sigE, next := .trapAfter .brk (i.c.pc.setWidth 64) }

/-- ERET (16 R359): empties the fetch buffer, clears HND and transfers to TPC. -/
def effEret : Eff := fun i o =>
  .ok { o with c := o.c.eret, sig := o.sig ++ i.sigE, next := .jump (i.c.tpc.setWidth 64) }

/-- FETCHB (04 R89): empties the issuing context's fetch buffer. -/
def effFetchb : Eff := fun i o => .ok { o with c := { o.c with fbuf := [] }, sig := o.sig ++ i.sigE }

/-- YIELD (05 R112): offers the next cycle to the other context. -/
def effYield : Eff := fun i o => .ok { o with c := { o.c with yielded := true }, sig := o.sig ++ i.sigE }

/-! ## The words as bundles of one word -/

/-- BR as a bundle of one word (R118). -/
def execBr (c : Cond) (a : Fin 32) (o : Int) (s : State) : Host.Outcome State Fault Refusal :=
  issueWords [effBr c a o] s

/-- JMP as a bundle of one word (R118). -/
def execJmp (o : Int) (s : State) : Host.Outcome State Fault Refusal :=
  issueWords [effJmp o] s

/-- CALL as a bundle of one word (R118). -/
def execCall (o : Int) (s : State) : Host.Outcome State Fault Refusal :=
  issueWords [effCall o] s

/-- JR as a bundle of one word (R119). -/
def execJr (a : Fin 32) (s : State) : Host.Outcome State Fault Refusal :=
  issueWords [effJr a] s

/-- CALLR as a bundle of one word (R119). -/
def execCallr (a : Fin 32) (s : State) : Host.Outcome State Fault Refusal :=
  issueWords [effCallr a] s

/-- LOOP as a bundle of one word (R122). -/
def execLoop (a : Fin 32) (e : Nat) (s : State) : Host.Outcome State Fault Refusal :=
  issueWords [effLoop a e] s

/-- LOOPI as a bundle of one word (R122). -/
def execLoopi (n : Fin 1024) (e : Nat) (s : State) : Host.Outcome State Fault Refusal :=
  issueWords [effLoopi n e] s

/-- BRKL as a bundle of one word (R123). -/
def execBrkl (s : State) : Host.Outcome State Fault Refusal :=
  issueWords [effBrkl] s

/-- LIDX as a bundle of one word (R124). -/
def execLidx (d : Fin 32) (k : Fin 6) (s : State) : Host.Outcome State Fault Refusal :=
  issueWords [effLidx d k] s

/-- FETCHB as a bundle of one word (R89). -/
def execFetchb (s : State) : Host.Outcome State Fault Refusal :=
  issueWords [effFetchb] s

/-- HALT as a bundle of one word (R131). -/
def execHalt (s : State) : Host.Outcome State Fault Refusal :=
  issueWords [effHalt] s

/-- TRAP as a bundle of one word (R359). -/
def execTrap (a : Fin 32) (s : State) : Host.Outcome State Fault Refusal :=
  issueWords [effTrap a] s

/-- ERET as a bundle of one word (R359). -/
def execEret (s : State) : Host.Outcome State Fault Refusal :=
  issueWords [effEret] s

/-- BRK as a bundle of one word (R359). -/
def execBrk (s : State) : Host.Outcome State Fault Refusal :=
  issueWords [effBrk] s

/-- YIELD as a bundle of one word (R112). -/
def execYield (s : State) : Host.Outcome State Fault Refusal :=
  issueWords [effYield] s

end Sys2Proof.Machine
end

