-- ==== Sys2Proof/Machine/SysInstr.lean ====
section
/-! DEFINITION. System instructions: ICINV, LAUNCH, gang release and rejoin, SMC, WAITEV, TLBINV, CTXCTL, WSTAT
(04 R88; 05 R110, R111; 06 R133; 16 R361 to R373). -/

namespace Sys2Proof.Machine

/-! ## Waits that end by being performed -/

/-- Runs `k` once the wait of kind `n` has been performed, else waits; `s` is the state in which it waits. -/
def onceGranted (i : Iss) (n : Nat) (s : State) (k : Res) : Res :=
  if i.c.granted = some n then k
  else .wait s { kind := n, since := i.c.cycle.setWidth 32 }

/-! ## Scopes -/

/-- The cores within a scope of core `k` (04 R88). -/
def scopeCores (p : Scope) (k : Nat) : List Nat :=
  match p with
  | .ctx | .core => [k]
  | .group => (List.range 4).map (4 * groupOf k + ·)
  | .die => (List.range 96).map (96 * dieOf k + ·)
  | .device | .pod => List.range 384

/-- The dies whose L2 TLBs lie within a scope (16 R373). -/
def scopeDies (p : Scope) (k : Nat) : List Nat :=
  match p with
  | .ctx | .core | .group => []
  | .die => [dieOf k]
  | .device | .pod => List.range 4

/-- Changes every core of a list. -/
def State.upCores (s : State) (f : Core → Core) (ks : List Nat) : State := ks.foldl (fun s k => s.upCore k f) s

/-! ## ICINV (04 R88) -/

/-- The physical lines that the bytes `lo` to `hi` of a page take: those of the raw storage of their cells, where it is a value page. -/
def Xl.linesOf (t : Xl) (lo hi : Nat) : List Nat :=
  let l := t.paOf lo / 128
  (List.range ((t.paOf hi + (if t.cell && !t.raw then 31 else 0)) / 128 + 1 - l)).map (l + ·)

/-- Physical line numbers of the lines of [a, a + n) that have a translation in context `x`. -/
def State.icinvLines (s : State) (x a n : Nat) : List Nat :=
  (List.range ((a + n - 1) / 128 + 1 - a / 128)).flatMap fun j =>
    let va := 128 * (a / 128 + j)
    if 2 ^ 48 ≤ va then []
    else match (s.lookup (coreOf x) (s.asidOf x) (s.worldOf x) va).2 with
      | .ok t => t.linesOf (max a va) (min (a + n - 1) (va + 127))
      | .error _ => []

/-- Drops lines of an instruction cache, those that are being filled included. -/
def Core.icDrop (k : Core) (p : Nat → Bool) : Core :=
  { k with icache := k.icache.filter fun e => !p e.1, ifill := k.ifill.filter fun e => !p e.1 }

/-- The invalidation: the whole caches from 65,536 bytes on, which R88 allows. DESIGN CHOICE, log entry 34. -/
def State.icInvalidate (s : State) (x : Nat) (p : Scope) (a n : Nat) : State :=
  if 65536 ≤ n then s.upCores (·.icDrop fun _ => true) (scopeCores p (coreOf x))
  else
    let ls := s.icinvLines x a n
    s.upCores (·.icDrop ls.contains) (scopeCores p (coreOf x))

def effIcinv (p : Scope) (a b : Fin 32) : Eff := fun i o =>
  let o := { o with sig := o.sig ++ i.sigE }
  if i.rS b = 0 then .ok o
  else onceGranted i 9 i.s <| .ok { o with s := o.s.icInvalidate i.x p (i.rS a).toNat (i.rS b).toNat }

/-! ## TLBINV (16 R373) -/

/-- A context is privileged (16 R361). -/
def Iss.priv (i : Iss) : Bool := i.s.worldOf i.x

/-- PRIV: its TINFO is not laid down. DESIGN CHOICE, log entry 10. -/
def privTrap (i : Iss) : Res := trapAt i .priv (Config.freeW64 i.s.nfree (0x110000 + i.x))

/-- Removes the entries in scope, and stops the walks in scope, whose accessors walk again. -/
def State.tlbInvalidate (s : State) (x : Nat) (p : Scope) (sel : W64) (len : Nat) : State :=
  let s := s.upCores (fun k => { k with tlb := k.tlb.filter fun e => !tlbHit sel len e }) (scopeCores p (coreOf x))
  let s := if (scopeDies p (coreOf x)).isEmpty then s else { s with fab := { s.fab with
    verdicts := s.fab.verdicts.map fun v => { v with xl := v.xl.filter fun e => !tlbHit sel len ⟨e.1, false, e.2⟩ } } }
  (scopeDies p (coreOf x)).foldl (fun s d =>
    ({ s with l2tlb := s.l2tlb.put d ((s.l2tlb.get [] d).filter fun e => !tlbHit sel len e) }).setWalks d
      ((s.walksOf d).filter fun w => !w.stopped sel len)) s

def effTlbinv (p : Scope) (a b : Fin 32) : Eff := fun i o =>
  let o := { o with sig := o.sig ++ i.sigE }
  if !i.priv then privTrap i
  else if i.chk then .ok o
  else onceGranted i 15 i.s <| .ok { o with s := o.s.tlbInvalidate i.x p (i.rS a) (i.rS b).toNat }

/-! ## Gangs (05 R110, R111) -/

/-- The context belongs to a gang. -/
def Ctx.ganged (c : Ctx) : Bool := c.gmode != 0

/-- A member that is decoupled continues alone, at its own successor. -/
def effDecpl : Eff := fun i o =>
  let o := { o with sig := o.sig ++ i.sigE }
  .ok (if i.c.ganged && !i.c.gdec then { o with c := { o.c with gdec := true } } else o)

/-- REJN: a decoupled member raises its arrival and waits; the joining itself is REJN_COMPLETE. A checker arrives through its
primary, whose bundle it receives once that has issued. -/
def effRejn : Eff := fun i o =>
  let o := { o with sig := o.sig ++ i.sigE }
  if !i.c.gdec || i.chk then .ok o
  else onceGranted i 10 (i.s.upCtx i.x fun c => { c with arrived := true }) <|
    .ok { o with c := { o.c with arrived := false } }

/-! ## LAUNCH (06 R133) -/

/-- A device access in the address space and world of queue `q` (03 R44): never parked. A value page holds no such data. DEDUCED, log
entry 35. -/
def State.devXlate (s : State) (q va : Nat) (acc : Acc) : Except XFault Nat :=
  if 2 ^ 48 ≤ va then .error xNoncanon
  else match s.walk q (s.sys.worldQueue.get false q) va with
    | .error f => .error f
    | .ok x =>
      match s.permit (s.sys.worldQueue.get false q) acc x va with
      | .error f => .error f
      | .ok x => if x.cell && !x.raw then .error xMalformed else .ok (x.paOf va)

/-- Address of entry `n` of a queue (03 R46). -/
def Queue.entryVa (q : Queue) (n : W32) : Nat := q.base.toNat + 8 * (n.toNat % 2 ^ q.log2n.toNat)

/-- Entries outstanding in a queue. -/
def Queue.fill (q : Queue) : Nat := (q.tail - q.head).toNat

/-- The state and the status of a LAUNCH of record `ptr` into queue `a` by context `x`. -/
def State.launch (s : State) (x : Nat) (a ptr : W64) : State × Int :=
  if 64 ≤ a.toNat then (s, -4)
  else if bf ptr 0 8 ≠ 0 ∨ 2 ^ 48 ≤ ptr.toNat then (s, -5)
  else
    let n := a.toNat
    let q := s.queue n
    if !q.en then (s, -2)
    else if !q.src then (s, -1)
    else if s.sys.worldQueue.get false n && !s.worldOf x then (s, -6)
    else if q.fill = 2 ^ q.log2n.toNat then (s, -3)
    else match s.devXlate n (q.entryVa q.tail) .write with
      | .error _ => (s, -7)
      | .ok pa => ((s.wr (BitVec.ofNat 12 x) pa (natLe 8 ptr.toNat)).setQueue n { q with tail := q.tail + 1 }, (q.tail.toNat : Int))

def effLaunch (c a b : Fin 32) : Eff := effE (some c) fun i o =>
  let r := o.s.launch i.x (i.rS a) (i.rS b)
  .ok ({ o with s := r.1 }.ans c (w64 r.2))

/-! ## SMC and WAITEV (16 R371, R372) -/

/-- The request goes to the Zenith controller; the destination waits for the answer. -/
def effSmc (c a b : Fin 32) : Eff := effE (some c) fun i o => .ok (o.pend (.s c) (.smc (i.rS a) (i.rS b)))

/-- The events of WAITEV that hold. -/
def waitEvents (i : Iss) (dl : W64) (arr : Option Arrive) : Nat :=
  let b2 := match arr with
    | some a =>
      let p := i.s.phaser a.obj
      4 * b2n (phGt p.phase (i.s.handle (coreOf i.x) a.h).lph) + 8 * b2n p.broken
    | none => 0
  b2n (dl != 0 && decide (dl.toNat ≤ i.s.sys.sidt.toNat)) + 2 * b2n i.c.wake + b2

/-- Passes a value that a CHECK primary's register receives on to its checker (05 R106). -/
def Out.mirror (o : Out) (i : Iss) (v : FVal) : Out :=
  if i.c.gmode = 2 then { o with s := o.s.upCtx (i.x + 2) fun c => { c with mirv := c.mirv ++ [(v, 0)] } } else o

def effWaitev (c a : Fin 32) (h : Hnd) : Eff := effE (some c) fun i o =>
  capture i h fun arr =>
    let n := waitEvents i (i.rS a) arr
    if n = 0 then waitFor i 13
    else
      let v : W64 := BitVec.ofNat 64 n
      .ok ((({ o with c := { o.c with wake := false } } : Out).wS c v).mirror i (.s c v))

/-! ## Target words (16 R369) -/

/-- A target word's meaning: nobody, an instance that holds context `x`, an instance that is saved out, with the context in which the model
keeps it, one that has retired, with its context while it holds it, or one that has not started, with the address of its first bundle. -/
inductive Target where
  | none
  | at (x : Nat)
  | saved (x : Nat)
  | gone (x : Option Nat)
  | early (pc : Addr)
deriving DecidableEq, Repr

/-- CODE_BASE plus an offset, as an address. -/
def KRec.at (r : KRec) (off : Nat) : Addr := BitVec.ofNat 48 (r.codeBase.toNat + off)

/-- Reserved bits of a target word are set. -/
def targetBad (w : W64) : Bool := bf w 20 12 != 0 || bf w 42 21 != 0

/-- The target that an occupied context gives: one that is prepared for an instance that has been saved is still saved out. -/
def State.occTarget (s : State) (x : Nat) (o : Occ) : Target :=
  match o.st with
  | .preload => .none
  | .prepared =>
    match s.kernel o.kid with
    | none => .none
    | some k =>
      let y := k.ctxs.getD o.n x
      if y = x then .early (k.krec.at k.krec.entry.toNat) else .saved y
  | .running | .halted => .at x
  | .saved => .saved x
  | .retired => .gone (some x)

/-- The target that a target word names for context `x`. -/
def State.target (s : State) (x : Nat) (w : W64) : Target :=
  if bitOf w 63 then
    let p := bf w 32 10
    if 768 ≤ p then .none
    else match (s.ctx p).occ with
      | some o => s.occTarget p o
      | none => .none
  else match s.kernelOf x with
    | none => .none
    | some k =>
      match k.ctxs[bf w 0 16]? with
      | none => .none
      | some p =>
        match (s.ctx p).occ with
        | some o => if s.kidOf p = s.kidOf x ∧ o.n = bf w 0 16 then s.occTarget p o else .gone none
        | none => .gone none

/-- The word names a physical context outside the issuer's kernel, which asks for privilege (16 R361). -/
def State.foreign (s : State) (x : Nat) (w : W64) : Bool :=
  bitOf w 63 && (decide (768 ≤ bf w 32 10) || s.kidOf (bf w 32 10) != s.kidOf x ||
    (match s.target x w with | .none => true | _ => false))

/-- STATE, HND and PC of the state word. Of a target that has halted for a requeue STATE is that of one that runs or of one that is saved
out, by a free choice; of one that has left its context HND and PC are free values. DESIGN CHOICE, log entry 36. -/
def State.stateWord (s : State) (x : Nat) (w : W64) : W64 :=
  let word := fun (st : Nat) (hnd : Bool) (pc : Nat) => BitVec.ofNat 64 (st + 8 * b2n hnd + 256 * pc)
  let free := (Config.freeW64 s.nfree (0x120000 + x)).toNat
  if targetBad w then 7
  else match s.target x w with
    | .none => 7
    | .early pc => word 5 false pc.toNat
    | .saved y => word 3 (s.ctx y).hnd (s.ctx y).pc.toNat
    | .gone (some y) => word 4 (s.ctx y).hnd (s.ctx y).pc.toNat
    | .gone none => word 4 (bitOf (BitVec.ofNat 64 free) 48) (free % 2 ^ 48)
    | .at p =>
      let c := s.ctx p
      let st := match c.occ with
        | some o => if o.st = .halted then (if c.ctlhalt then 2 else 3 * (free % 2)) else b2n c.wait.isSome
        | none => 0
      word st c.hnd c.pc.toNat

/-- The value that WSTAT reads. DEDUCED, log entry 36. -/
def State.wstat (s : State) (x : Nat) (w item : W64) : W64 :=
  if item = 0 then
    match s.target x w with
    | .at p => if targetBad w then 0 else (s.ctx p).wait.elim 0 Wait.word
    | _ => 0
  else if item = 1 then s.stateWord x w
  else 0

/-- The state that WSTAT samples: the issuer's own next bundle is the one after the WSTAT. -/
def Iss.sampled (i : Iss) : State := i.s.upCtx i.x fun c => { c with pc := c.endSeq.pc }

def effWstat (c a b : Fin 32) : Eff := fun i o =>
  if !i.priv && i.s.foreign i.x (i.rS a) then privTrap i
  else effE (some c) (fun i o => .ok (o.ans c (i.sampled.wstat i.x (i.rS a) (i.rS b)))) i o

/-! ## CTXCTL (16 R370) -/

/-- The registers that R32 and the reset values of the special registers give an instance at its start; what placement gives
(R58) is a separate step. -/
def Ctx.fresh (c : Ctx) (r : KRec) (pc : Addr) : Ctx :=
  { c with
    s := Vector.ofFn fun i => if 1 ≤ i.val ∧ i.val ≤ 8 then r.args.getD (i.val - 1) 0 else 0
    em := BitVec.allOnes 64, cm := 0, pc := pc, loops := [], arith := 0, rmode := 0, srseed := r.srseed, rsdctr := 0
    tvec := 0, tcause := 0, tpc := 0, tinfo := 0, hnd := false, mid := false, self := false
    pslack := 16384, fewdog := 0, waitdog := 0, wait := none, flight := [], pends := [], fbuf := []
    granted := none, phnext := none, mir := [], mirv := [], sigs := [], arrived := false, yielded := false
    stream := [], iter := false }

/-- An instance that is to begin at an address outside the 48-bit space: its fetch faults. -/
def State.beginOutside (s : State) (x a : Nat) : State :=
  if 2 ^ 48 ≤ a then s.trapIn x ⟨.xlate, BitVec.ofNat 48 a, BitVec.ofNat 64 (a % 2 ^ 48), 0⟩ else s

/-- Lets a halted context run again. -/
def Ctx.go (c : Ctx) : Ctx := { c with occ := c.occ.map fun o => { o with st := .running }, ctlhalt := false, fbuf := [] }

/-- Discards the uncompleted copies of a context, and its kept fault record. -/
def State.flush (s : State) (p : Nat) : State :=
  (s.upCore (coreOf p) fun k => { k with copies := k.copies.filter fun c => c.ctx != p }).upCtx p fun c => { c with frec := none }

/-- The target is being saved out: a requeue of its kernel is under way. -/
def State.saving (s : State) (p : Nat) : Bool :=
  (match s.kernelOf p with | some k => (match k.st with | .requeueing _ => true | _ => false) | none => false) ||
    (s.ctx p).hreq.any (·.requeue)

/-- The contexts that CTXCTL on the instance in context `p` acts on: both of a CHECK pair, which is one stream (05 R106). -/
def State.pairOf (s : State) (p : Nat) : List Nat := if (s.ctx p).gmode = 2 then [p - p % 4, p - p % 4 + 2] else [p]

/-- Operation `op` on the instance in context `p`, with argument `arg` and the arrival of the issuer's handle. -/
def State.ctxctlAt (s : State) (k p op : Nat) (arg : W64) (arr : Option Arrive) : State × Int :=
  let c := s.ctx p
  let held := c.ctlhalt && (c.occ.elim false fun o => o.st == .halted)
  let later := fun (y : Nat) => if y = p then (arr.map fun a => (k, a)).toList else []
  let each := fun (f : Nat → Ctx → Ctx) => (s.pairOf p).foldl (fun s y => s.upCtx y (f y)) s
  match op with
  | 0 => if held then (s, -2) else (each fun y c => c.request (.ctxctl (later y).head?), 0)
  | 1 => if held then (((s.pairOf p).foldl State.flush s).arrive k arr none, 0) else (s, -2)
  | 2 =>
    if held && arg.toNat % 4 == 0 then
      match s.kernelOf p with
      | some kn =>
        let s := each fun y c => { (c.fresh kn.krec (kn.krec.at arg.toNat)).go with restarted := true, rarr := c.rarr ++ later y }
        (s.beginOutside p ((kn.krec.codeBase.toNat + arg.toNat) % 2 ^ 64), 0)
      | none => (s, -2)
    else (s, -2)
  | 3 => if held then (each fun y c => { c.go with rarr := c.rarr ++ later y }, 0) else (s, -2)
  | _ => ((each fun _ c => { c with wake := true }).arrive k arr none, 0)

/-- CTXCTL by context `x`: the state and the status. DEDUCED, log entry 36. -/
def State.ctxctl (s : State) (x : Nat) (w arg : W64) (arr : Option Arrive) : State × Int :=
  let op := bf w 16 4
  if targetBad w || decide (5 ≤ op) then (s, -1)
  else match s.target x w with
    | .none => (s, -1)
    | .saved _ | .gone _ | .early _ => (s, -3)
    | .at p =>
      if p = x then (s, -1)
      else if s.saving p then (s, -3)
      else if (s.ctx p).ganged && !(s.ctx p).gdec then (s, -2)
      else s.ctxctlAt (coreOf x) p op arg arr

/-- The issuer is its kernel's supervisor (02 R27). -/
def State.supervisor (s : State) (x : Nat) : Bool :=
  match s.kernelOf x, (s.ctx x).occ with
  | some k, some o => k.krec.supv && o.n == k.krec.supidx
  | _, _ => false

/-- CTXCTL: the operation stands in the target word. A target restarted outside the address space may end the issuer's kernel. -/
def ctxctl (c a b : Fin 32) (h : Hnd) : Eff := fun i o =>
  if !i.priv && (!i.s.supervisor i.x || i.s.foreign i.x (i.rS a)) then privTrap i
  else effE (some c) (fun i o =>
    capture i h fun arr =>
      let r := o.s.ctxctl i.x (i.rS a) (i.rS b) arr
      .ok ({ o with s := r.1, c := { o.c with hreq := (r.1.ctx i.x).hreq } }.ans c (w64 r.2))) i o

def effCtxctlHalt (c a b : Fin 32) (h : Hnd) : Eff := ctxctl c a b h
def effCtxctlFlush (c a b : Fin 32) (h : Hnd) : Eff := ctxctl c a b h
def effCtxctlRestart (c a b : Fin 32) (h : Hnd) : Eff := ctxctl c a b h
def effCtxctlResume (c a b : Fin 32) (h : Hnd) : Eff := ctxctl c a b h
def effCtxctlWake (c a b : Fin 32) (h : Hnd) : Eff := ctxctl c a b h

/-! ## The words as bundles of one word -/

/-- DECPL as a bundle of one word (R110). -/
def execDecpl (s : State) : Host.Outcome State Fault Refusal :=
  issueWords [effDecpl] s

/-- REJN as a bundle of one word (R111). -/
def execRejn (s : State) : Host.Outcome State Fault Refusal :=
  issueWords [effRejn] s

/-- ICINV as a bundle of one word (R88). -/
def execIcinv (p : Scope) (a b : Fin 32) (s : State) : Host.Outcome State Fault Refusal :=
  issueWords [effIcinv p a b] s

/-- LAUNCH as a bundle of one word (R133). -/
def execLaunch (c a b : Fin 32) (s : State) : Host.Outcome State Fault Refusal :=
  issueWords [effLaunch c a b] s

/-- SMC as a bundle of one word (R372). -/
def execSmc (c a b : Fin 32) (s : State) : Host.Outcome State Fault Refusal :=
  issueWords [effSmc c a b] s

/-- WAITEV as a bundle of one word (R371). -/
def execWaitev (c a : Fin 32) (h : Hnd) (s : State) : Host.Outcome State Fault Refusal :=
  issueWords [effWaitev c a h] s

/-- TLBINV as a bundle of one word (R373). -/
def execTlbinv (p : Scope) (a b : Fin 32) (s : State) : Host.Outcome State Fault Refusal :=
  issueWords [effTlbinv p a b] s

/-- CTXCTL_HALT as a bundle of one word (R370). -/
def execCtxctlHalt (c a b : Fin 32) (h : Hnd) (s : State) : Host.Outcome State Fault Refusal :=
  issueWords [effCtxctlHalt c a b h] s

/-- CTXCTL_FLUSH as a bundle of one word (R370). -/
def execCtxctlFlush (c a b : Fin 32) (h : Hnd) (s : State) : Host.Outcome State Fault Refusal :=
  issueWords [effCtxctlFlush c a b h] s

/-- CTXCTL_RESTART as a bundle of one word (R370). -/
def execCtxctlRestart (c a b : Fin 32) (h : Hnd) (s : State) : Host.Outcome State Fault Refusal :=
  issueWords [effCtxctlRestart c a b h] s

/-- CTXCTL_RESUME as a bundle of one word (R370). -/
def execCtxctlResume (c a b : Fin 32) (h : Hnd) (s : State) : Host.Outcome State Fault Refusal :=
  issueWords [effCtxctlResume c a b h] s

/-- CTXCTL_WAKE as a bundle of one word (R370). -/
def execCtxctlWake (c a b : Fin 32) (h : Hnd) (s : State) : Host.Outcome State Fault Refusal :=
  issueWords [effCtxctlWake c a b h] s

/-- WSTAT as a bundle of one word (R369). -/
def execWstat (c a b : Fin 32) (s : State) : Host.Outcome State Fault Refusal :=
  issueWords [effWstat c a b] s

end Sys2Proof.Machine
end

