-- ==== Sys2Proof/Machine/Dispatcher.lean ====
section
/-! DEFINITION. The dispatcher: kernel records and their check, launch queues, candidates and ranking, placement and preparation,
preloads, starts, completion records (02 R26 to R32; 03 R44 to R64; 17 R379, R380, R386). -/

namespace Sys2Proof.Machine

/-! ## Kernel records (02 R26 to R31) -/

/-- Little-endian field of `n` bytes at offset `o`. -/
def fieldAt (bs : List Byte) (o n : Nat) : Nat := leNat ((bs.drop o).take n)

/-- The device's copy of a record (02 R26 to R28). -/
def recOf (bs : List Byte) : KRec :=
  let f := fieldAt bs
  let fl := f 4 4
  { ctx := nb fl 0 1, gang := nb fl 1 2, supv := nb fl 3 1 == 1, preload := nb fl 4 1 == 1, rerun := nb fl 5 2
    ovr := nb fl 7 1 == 1, world := nb fl 8 1 == 1, msix := nb fl 9 1 == 1
    codeBase := BitVec.ofNat 64 (f 8 8), entry := BitVec.ofNat 32 (f 0x10 4)
    dk := f 0x14 1, gk := f 0x15 1, ck := f 0x16 1, sk := f 0x17 1, scratch := f 0x18 2, phlo := f 0x1A 1, phcnt := f 0x1B 1
    rings := f 0x1C 1, prio := f 0x1D 1, pkey := BitVec.ofNat 16 (f 0x1E 2), budget := BitVec.ofNat 64 (f 0x20 8)
    waits := (List.range 4).map fun i =>
      let w := f (0x28 + 8 * i) 8
      if nb w 15 1 = 1 then some (nb w 0 14, BitVec.ofNat 32 (nb w 32 32)) else none
    done := if nb (f 0x48 8) 15 1 = 1 then some (nb (f 0x48 8) 0 14) else none
    crec := BitVec.ofNat 64 (f 0x50 8), srseed := BitVec.ofNat 64 (f 0x58 8), supidx := f 0x60 2, msixvec := f 0x62 2
    args := (List.range 8).map fun i => BitVec.ofNat 64 (f (0x80 + 8 * i) 8) }

/-- Instances of a footprint (02 R29). -/
def KRec.count (r : KRec) : Nat := r.dk * r.gk * r.ck * r.sk

/-- A reserved field or bit of the record is set. The rest of a wait entry that is not valid is ignored (02 R28). -/
def recReserved (bs : List Byte) : Bool :=
  let f := fieldAt bs
  nb (f 4 4) 10 22 != 0 ||
    ((List.range 4).any fun i =>
      let w := f (0x28 + 8 * i) 8
      nb w 15 1 == 1 && (nb w 14 1 != 0 || nb w 16 16 != 0)) ||
    nb (f 0x48 8) 14 1 != 0 || nb (f 0x48 8) 16 48 != 0 || f 0x64 28 != 0 || f 0xC0 64 != 0

/-- A field lies outside the range of R26. -/
def KRec.outside (r : KRec) : Bool :=
  !(decide (1 ≤ r.dk) && decide (r.dk ≤ 4) && decide (1 ≤ r.gk) && decide (r.gk ≤ 24) && decide (1 ≤ r.ck) && decide (r.ck ≤ 4) &&
    decide (1 ≤ r.sk) && decide (r.sk ≤ 8) && decide (1 ≤ r.scratch) && decide (r.scratch ≤ 64) && decide (r.phlo ≤ 95) &&
    decide (r.phcnt ≤ 96) && decide (r.phlo + r.phcnt ≤ 96) && decide (r.rings ≤ 8) && decide (r.prio ≤ 7) && r.gang != 3)

/-! ## Fitting a footprint (03 R55 to R57) -/

/-- Bases that R55 allows. -/
def KRec.bases (r : KRec) : List Nat :=
  if r.gang ≠ 0 then [0] else match r.ck with | 1 => [0, 1, 2, 3] | 2 => [0, 2] | _ => [0]

/-- The lowest base of group `g` whose cores are all acceptable. -/
def KRec.base (r : KRec) (ok : Nat → Bool) (g : Nat) : Option Nat :=
  r.bases.find? fun b => (List.range r.ck).all fun c => ok (4 * g + b + c)

/-- The groups, each with its base, that die `d` gives the footprint: the lowest that have a free base. -/
def KRec.share (r : KRec) (ok : Nat → Bool) (d : Nat) : Option (List (Nat × Nat)) :=
  let gs := ((List.range 24).filterMap fun j => (r.base ok (24 * d + j)).map fun b => (24 * d + j, b)).take (r.gk * r.sk)
  if gs.length = r.gk * r.sk then some gs else none

/-- The dies that the footprint takes: the lowest on which its share fits. -/
def KRec.fit (r : KRec) (ok : Nat → Bool) : Option (List (List (Nat × Nat))) :=
  let ds := ((List.range 4).filterMap (r.share ok)).take r.dk
  if ds.length = r.dk then some ds else none

/-- Footprint coordinates of instance `n` (02 R29). -/
def KRec.coords (r : KRec) (n : Nat) : Nat × Nat × Nat × Nat :=
  (n / (r.ck * r.gk) % r.dk, n / r.ck % r.gk, n % r.ck, n / (r.ck * r.gk * r.dk))

/-- Physical contexts of the instances, in index order. -/
def KRec.contexts (r : KRec) (ds : List (List (Nat × Nat))) : List Nat :=
  (List.range r.count).map fun n =>
    let (d, g, c, st) := r.coords n
    let p := (ds.getD d []).getD (g + r.gk * st) (0, 0)
    2 * (4 * p.1 + p.2 + c) + r.ctx

/-- A core that placements for the record's world may take: not quarantined, with the world bit (16 R375, 17 R388). -/
def State.usable (s : State) (r : KRec) (k : Nat) : Bool :=
  !s.quarantined (4096 + k) && !s.quarantined (8192 + groupOf k) && s.sys.worldCore.get false k == r.world

/-- The record fits beside whatever occupies context `y` (03 R57). -/
def State.beside (s : State) (r : KRec) (y : Nat) : Bool :=
  match s.kernelOf y with
  | none => true
  | some o =>
    decide (o.krec.scratch + r.scratch ≤ 64) &&
      (decide (r.phlo + r.phcnt ≤ o.krec.phlo) || decide (o.krec.phlo + o.krec.phcnt ≤ r.phlo) || r.phcnt == 0 || o.krec.phcnt == 0)

/-- Core `k` may receive an instance: usable, its context free, and R57 holds. -/
def State.coreFree (s : State) (r : KRec) (k : Nat) : Bool :=
  s.usable r k && (s.ctx (2 * k + r.ctx)).occ.isNone && s.beside r (2 * k + 1 - r.ctx)

/-- The footprint of R56, if it fits. -/
def State.fits (s : State) (r : KRec) : Option (List Nat) := (r.fit (s.coreFree r)).map r.contexts

/-- The record is rejected (02 R31): `bs` are its bytes, `q` the queue it was taken from. -/
def State.recBad (s : State) (q : Nat) (bs : List Byte) : Bool :=
  let r := recOf bs
  fieldAt bs 0 4 != 0x014B5A44 || r.outside || recReserved bs || r.codeBase.toNat % 32 != 0 || r.entry.toNat % 4 != 0 ||
    r.crec.toNat % 64 != 0 || (r.supv && decide (r.count ≤ r.supidx)) ||
    (r.gang != 0 && (r.ck != 4 || r.sk != 1 || r.ctx != 0)) || r.world != s.sys.worldQueue.get false q ||
    (r.fit (s.usable r)).isNone

/-! ## Finishing (17 R379, R380, R386) -/

/-- STATUS. -/
def statusCode : Status → Nat
  | .ok => 0 | .fault => 1 | .overrun => 2 | .depfail => 3 | .badrec => 4 | .killed => 5

/-- The completion record. -/
def crecBytes (k : Kernel) (e : EndInfo) (requeue : Bool) (sid : W64) : List Byte :=
  natLe 4 0x01435A44 ++ natLe 2 (statusCode e.status) ++ natLe 1 (if e.status = .fault then e.cause.elim 0 causeCode else 0) ++
    natLe 1 (b2n requeue + 2 * b2n e.evict + 4 * b2n e.pair) ++ natLe 8 k.cycles.toNat ++ natLe 8 e.tpc.toNat ++
    natLe 8 e.info.toNat ++ natLe 2 e.n ++ natLe 2 e.unit.toNat ++ natLe 1 k.arith.toNat ++ natLe 1 k.ovrcnt ++
    natLe 1 k.reruns ++ natLe 1 0 ++ natLe 8 sid.toNat ++ natLe 16 0

/-- QERR.NOCREC of a queue. -/
def State.noCrec (s : State) (q : Nat) (a : W64) : State :=
  s.setQueue q { s.queue q with err := (s.queue q).err ||| 2, errptr := a }

/-- Writes a completion record, or reports that it cannot be written. -/
def State.writeCrec (s : State) (q : Nat) (a : W64) (bs : List Byte) : State :=
  if a.toNat % 64 ≠ 0 then s.noCrec q a
  else match s.devXlate q a.toNat .write with
    | .ok pa => s.wr tagDevice pa bs
    | .error _ => s.noCrec q a

/-- Marks a phaser object broken. -/
def State.breakObj (s : State) (o : Nat) : State := s.setPhaser o (s.phaser o).break

/-- Raises the completion interrupt of host-assisted mode; within the hold-off interval of the last one, its end raises it. -/
def State.cint (s : State) : State :=
  if s.sys.cintBusy then s.upSys fun y => { y with cintOwed := true }
  else (s.msi s.sys.cintVec).upSys fun y => { y with cintBusy := y.cintHold != 0 }

/-- The interrupt of a finished kernel of queue `q`. -/
def State.finishInt (s : State) (q : Nat) (r : KRec) : State :=
  if s.sys.sysmode.getLsbD 4 then
    (s.upSys fun y => { y with cpend := y.cpend ||| BitVec.ofNat 64 (2 ^ q) }).cint
  else if r.msix then s.msi (BitVec.ofNat 16 r.msixvec) else s

/-- Finishes a kernel: record, DONE, interrupt, in this order. -/
def State.finishKernel (s : State) (k : Kernel) (e : EndInfo) (requeue : Bool) : State :=
  let s := s.writeCrec k.q k.krec.crec (crecBytes k e requeue s.sys.sidt)
  let s := match k.krec.done with
    | none => s
    | some o => if e.status = Status.ok then s.post (.anon o 1 none 0 none) else if requeue then s else s.breakObj o
  s.finishInt k.q k.krec

/-- An end that no cause brought about. -/
def EndInfo.plain (st : Status) : EndInfo := ⟨st, none, 0, 0, 0, 0, false, false⟩

/-! ## Contexts of a kernel -/

/-- The contexts that a kernel occupies, those of saved instances included. -/
def State.heldBy (s : State) (kid : Nat) : List Nat :=
  (s.ctxs.filter fun e => e.2.occ.any fun o => o.kid == kid).map (·.1)

/-- Frees a context: the scale cache forgets its records (10 R222). -/
def State.freeCtx (s : State) (x : Nat) : State :=
  let g := s.group (groupOf (coreOf x))
  let s := if g.scache.isEmpty then s
    else s.setGroup (groupOf (coreOf x)) { g with scache := g.scache.filter fun e => e.1.ctx != x }
  { s with ctxs := s.ctxs.del x }

/-- Frees every context of a kernel. -/
def State.freeAll (s : State) (kid : Nat) : State := (s.heldBy kid).foldl State.freeCtx s

/-- Removes a kernel from its queue's candidates. -/
def State.uncand (s : State) (k : Kernel) (kid : Nat) : State :=
  s.setQueue k.q { s.queue k.q with cands := (s.queue k.q).cands.filter (· != kid) }

/-- Puts a requeued or rerun kernel behind the others of its kind and ahead of the candidate taken from the entries (03 R49). -/
def State.recand (s : State) (q kid : Nat) : State :=
  let cs := (s.queue q).cands
  let isAgain := fun c => (s.kernel c).any (·.again)
  s.setQueue q { s.queue q with cands := cs.filter isAgain ++ [kid] ++ cs.filter fun c => !isAgain c }

/-! ## Dependences (03 R53) -/

/-- Phase `p` satisfies a wait entry (02 R28). -/
def waitMetBy (p : W32) (w : Nat × W32) : Bool := decide ((p - w.2).toNat < 2 ^ 31)

/-- The wait entry is satisfied: its object reached the phase, and did so before it broke (03 R53). An object that was broken when the record
was taken satisfies none (02 R28). -/
def State.waitMet (s : State) (taken : Bool) (w : Nat × W32) : Bool :=
  let p := s.phaser w.1
  waitMetBy p.phase w && (!p.broken || (!taken && waitMetBy p.brokenAt w))

/-- The wait entries of a kernel after a look at the objects that `sees` picks. -/
def State.satNow (s : State) (k : Kernel) (taken : Bool) (sees : Nat → Bool) : List Bool :=
  (List.range 4).map fun i =>
    match k.krec.waits.getD i none with
    | none => true
    | some w => k.sat.getD i false || (sees w.1 && s.waitMet taken w)

/-- An unsatisfied wait entry names a broken object. -/
def State.waitBroken (s : State) (k : Kernel) (sees : Nat → Bool) : Bool :=
  (List.range 4).any fun i =>
    match k.krec.waits.getD i none with
    | none => false
    | some w => !k.sat.getD i false && sees w.1 && (s.phaser w.1).broken

/-- A held kernel that has not been placed. -/
def Kernel.open (k : Kernel) : Bool := k.st == .cand || k.st == .preloaded

/-- The dispatcher looks at the objects that a candidate or preload waits for, `taken` when its record has just been taken: entries become
satisfied, or the candidate is discarded with DEPFAIL. DEDUCED, log entry 46. -/
def State.look (s : State) (kid : Nat) (taken : Bool) (sees : Nat → Bool) : State :=
  match s.kernel kid with
  | none => s
  | some k =>
    if !k.open then s
    else
      let k := { k with sat := s.satNow k taken sees }
      if s.waitBroken k sees then
        let s := ((s.freeAll kid).uncand k kid).setKernel kid none
        s.finishKernel k (EndInfo.plain .depfail) false
      else s.setKernel kid (some k)

/-- Kernels that the dispatcher holds. -/
def State.kids (s : State) : List Nat := s.kernels.map (·.1)

/-- DEPENDENCE_EVENT_SEEN: the dispatcher sees a change of phase, or the break, of object `o`. It sees the object as it then stands: an
event that an initialisation (12 R264) has overwritten before it looks is never seen. DEDUCED, log entry 46. -/
def execDependenceEventSeen (o : Fin 16384) (s : State) : Host.Outcome State Fault Refusal :=
  .next (s.kids.foldl (fun s kid => s.look kid false (· == o.val)) s)

/-! ## Taking an entry (03 R46, R49) -/

/-- QERR.BADPTR of a queue; the entry is taken. -/
def State.badPtr (s : State) (q : Nat) (a : Nat) : State :=
  let v := s.queue q
  s.setQueue q { v with err := v.err ||| 1, errptr := BitVec.ofNat 64 a, head := v.head + 1 }

/-- Reads `n` bytes for the dispatcher: the bytes, or the address that cannot be read. -/
def State.devRead (s : State) (q va n : Nat) : Except Nat (List Byte) :=
  match s.devXlate q va .read with
  | .error _ => .error va
  | .ok pa =>
    match s.firstPoison pa n with
    | some (j, _) => .error (va + j / 8 * 8)
    | none => .ok (s.rd pa n)

/-- A kernel as its record is taken. -/
def Kernel.new (r : KRec) (q born : Nat) : Kernel :=
  { krec := r, q := q, st := .cand, sat := [], born := born, again := false, saved := false, reruns := 0, ovrcnt := 0, ctxs := []
    gone := [], fin := none, noPre := [], arith := 0, cycles := 0 }

/-- Takes the record with the bytes `bs`. -/
def State.takeRecord (s : State) (q : Nat) (bs : List Byte) : State :=
  let v := s.queue q
  let k := Kernel.new (recOf bs) q s.sys.cyc
  let s' := s.setQueue q { v with head := v.head + 1 }
  if s.recBad q bs then s'.finishKernel k (EndInfo.plain .badrec) false
  else
    let kid := s.nextKid
    (({ s'.setKernel kid (some k) with nextKid := kid + 1 }).setQueue q { v with head := v.head + 1, cands := v.cands ++ [kid] }).look
      kid true fun _ => true

/-- Reads `n` more 8-byte units of the record at `ptr`, of which `bs` have been read; one that has been read whole is taken. -/
def State.readRecord (s : State) (q ptr : Nat) (bs : List Byte) (n : Nat) : State :=
  match s.devRead q (ptr + bs.length) (min (8 * n) (256 - bs.length)) with
  | .error a => (s.setQueue q { s.queue q with part := none }).badPtr q a
  | .ok more =>
    let bs := bs ++ more
    if bs.length < 256 then s.setQueue q { s.queue q with part := some (ptr, bs) }
    else (s.setQueue q { s.queue q with part := none }).takeRecord q bs

/-- TAKE_QUEUE_ENTRY: the dispatcher reads entry HEAD, then its record, of which any number of units may be read before something else writes
one of the rest (02 R30). DESIGN CHOICE, log entry 46. -/
def execTakeQueueEntry (q : Fin 64) (s : State) : Host.Outcome State Fault Refusal :=
  .next <|
    let v := s.queue q
    let n := 32 - (Config.freeW32 s.nfree 0x510000).toNat % 33
    match v.part with
    | some (ptr, bs) => (s.readRecord q ptr bs n).draw
    | none =>
      if !v.en || !v.cands.isEmpty || v.head == v.tail then s
      else match s.devRead q (v.entryVa v.head) 8 with
        | .error a => s.badPtr q a
        | .ok bs =>
          if leNat bs % 256 ≠ 0 ∨ 2 ^ 48 ≤ leNat bs then s.badPtr q (leNat bs) else (s.readRecord q (leNat bs) [] n).draw

/-! ## Preparation (03 R54, R58) -/

/-- Clears a partition of core `k`: bytes zero, full-empty bits empty, no poison. -/
def Core.clearPart (k : Core) (lo n : Nat) : Core :=
  { k with
    sp := k.sp.filter fun e => !(decide (lo ≤ e.1) && decide (e.1 < lo + n))
    fe := k.fe.filter fun e => !(decide (lo ≤ 16 * e.1) && decide (16 * e.1 < lo + n))
    spPoison := k.spPoison.filter fun g => !(decide (lo ≤ 16 * g) && decide (16 * g < lo + n)) }

/-- Unbinds the handles lo to lo + n − 1. -/
def Core.unbind (k : Core) (lo n : Nat) : Core :=
  { k with handles := Vector.ofFn fun h => if lo ≤ h.val ∧ h.val < lo + n then Handle.unbound else k.handles[h] }

/-- Invalidates the instruction cache, its fills included. -/
def Core.icFlush (k : Core) : Core := { k with icache := [], ifill := [] }

/-- Invalidates the read-only L1. -/
def Core.l1Flush (k : Core) : Core := { k with l1 := [] }

/-- SPBASE of a record's instances (03 R57). -/
def KRec.spbase (r : KRec) : Nat := if r.ctx = 0 then 0 else 4194304 - 65536 * r.scratch

/-- Skew of a gang's member (05 R104). -/
def skewOf (gang c : Nat) : Nat := if gang = 2 then (match c with | 1 => 2 | 2 => 1 | c => c) else c

/-- KCOORD (05 R103). -/
def KRec.kcoord (r : KRec) (n : Nat) : W64 :=
  let (d, g, c, st) := r.coords n
  BitVec.ofNat 64 (d + 2 ^ 8 * g + 2 ^ 16 * c + 2 ^ 24 * st + 2 ^ 32 * n)

/-- KSHAPE. -/
def KRec.kshape (r : KRec) (n : Nat) : W64 :=
  BitVec.ofNat 64 (r.dk + 2 ^ 8 * r.gk + 2 ^ 16 * r.ck + 2 ^ 24 * r.sk + 2 ^ 32 * r.count + 2 ^ 48 * r.gang +
    2 ^ 50 * b2n (r.supv && r.supidx == n))

/-- The context of instance `n`, prepared: the state of R32, and what placement gives. -/
def State.freshCtx (s : State) (kid : Nat) (r : KRec) (n x : Nat) (st : OccSt) : Ctx :=
  let (_, _, c, _) := r.coords n
  let base : Ctx := { Ctx.init with
    v := Vector.ofFn fun m => rowOf fun l => Config.freeW32 s.nfree (4096 * x + 64 * m.val + l)
    kcoord := r.kcoord n, kshape := r.kshape n, pkey := r.pkey, spbase := r.spbase, spsize := 65536 * r.scratch
    gmode := BitVec.ofNat 2 r.gang, gchk := r.gang == 2 && c % 2 == 1
    gskew := if r.gang = 0 then 0 else BitVec.ofNat 3 (skewOf r.gang c), occ := some ⟨kid, n, st⟩ }
  base.fresh r (r.at r.entry.toNat)

/-- Prepares context `x` for instance `n`: steps 1 to 3 of R58. -/
def State.prepare (s : State) (kid : Nat) (r : KRec) (st : OccSt) (n x : Nat) : State :=
  (s.upCore (coreOf x) fun k => (k.clearPart r.spbase (65536 * r.scratch)).unbind r.phlo r.phcnt).setCtx x
    (s.freshCtx kid r n x st)

/-- Fetches the packets of the first 4 KiB of code into the instruction cache of the core of a preload's context (03 R62). -/
def State.preFetch (s : State) (r : KRec) (x : Nat) : State :=
  (List.range 32).foldl (fun s i => (s.fetchPacket x (r.codeBase.toNat + 128 * i)).1) (s.upCore (coreOf x) Core.icFlush)

/-- Instance `n` of a kernel has retired; its trailing work may still hold its context (06 R131). -/
def State.hasRetired (s : State) (kid : Nat) (k : Kernel) (n : Nat) : Bool :=
  k.gone.contains n || (s.ctx (k.ctxs.getD n 768)).occ == some ⟨kid, n, .retired⟩

/-- Numbers the contexts of a placement, leaving out the instances that have retired (06 R132). -/
def State.slots (s : State) (kid : Nat) (k : Kernel) (xs : List Nat) : List (Nat × Nat) :=
  ((List.range xs.length).zip xs).filter fun p => !s.hasRetired kid k p.1

/-- Reserves and prepares the contexts of a candidate that starts from its record. -/
def State.reserveFresh (s : State) (kid : Nat) (k : Kernel) (xs : List Nat) (pre : Bool) : State :=
  let s := (s.slots kid k xs).foldl (fun s p => s.prepare kid k.krec (if pre then .preload else .prepared) p.1 p.2) s
  let s := s.setKernel kid (some { k with st := if pre then .preloaded else .placed, ctxs := xs, cycles := 0 })
  if pre then xs.foldl (fun s x => s.preFetch k.krec x) s else s

/-- Reserves the contexts on which a saved kernel resumes. -/
def State.reserveSaved (s : State) (kid : Nat) (k : Kernel) (xs : List Nat) : State :=
  let s := (s.slots kid k xs).foldl (fun s p =>
    s.setCtx p.2 { Ctx.init with
      spbase := k.krec.spbase, spsize := 65536 * k.krec.scratch, occ := some ⟨kid, p.1, .prepared⟩ }) s
  s.setKernel kid (some { k with st := .placed, cycles := 0 })

/-- Places a candidate. -/
def State.seat (s : State) (kid : Nat) (k : Kernel) (xs : List Nat) : State :=
  (if k.saved then s.reserveSaved kid k xs else s.reserveFresh kid k xs false).uncand k kid

/-! ## Decisions (03 R51, R52, R59, R62, R63) -/

/-- Effective priority. -/
def State.prioOf (s : State) (k : Kernel) : Nat :=
  min 7 (max (s.queue k.q).qprio.toNat k.krec.prio + (s.sys.cyc - k.born) / 1750000)

/-- Every valid wait entry is satisfied. -/
def Kernel.eligible (k : Kernel) : Bool :=
  (List.range 4).all fun i => (k.krec.waits.getD i none).isNone || k.sat.getD i false

/-- R52's order. -/
def State.ranksBefore (s : State) (a b : Nat × Kernel) : Bool :=
  if s.prioOf a.2 ≠ s.prioOf b.2 then decide (s.prioOf b.2 < s.prioOf a.2)
  else if a.2.born ≠ b.2.born then decide (a.2.born < b.2.born)
  else decide (a.2.q ≤ b.2.q)

/-- The first candidate of each queue that holds no contexts, in R52's order. -/
def State.ranked (s : State) : List (Nat × Kernel) :=
  (s.queues.filterMap fun e => match e.2.cands with
    | kid :: _ => (s.kernel kid).bind fun k => if k.st = .cand then some (kid, k) else none
    | [] => none).mergeSort s.ranksBefore

/-- A kernel waits on `x`'s DONE object. -/
def Kernel.behind (y x : Kernel) : Bool :=
  x.krec.done.any fun o => y.krec.waits.any fun w => w.any fun w => w.1 == o

/-- The preloads behind `x`. -/
def State.preloadsBehind (s : State) (x : Kernel) : List Nat :=
  s.kids.filter fun y => (s.kernel y).any fun k => k.st == .preloaded && k.behind x

/-- Discards a preload: it is a candidate again. -/
def State.unpreload (s : State) (y : Nat) : State :=
  (s.freeAll y).upKernel y fun k => { k with st := .cand, ctxs := [], deferred := [] }

/-- The contexts of a candidate, with the preloads behind a requeued kernel discarded where it needs their contexts. -/
def State.fitOrEvict (s : State) (k : Kernel) : Option (State × List Nat) :=
  match s.fits k.krec with
  | some xs => some (s, xs)
  | none =>
    if k.saved then
      let s' := (s.preloadsBehind k).foldl State.unpreload s
      (s'.fits k.krec).map fun xs => (s', xs)
    else none

/-- The highest-ranked eligible candidate has P = 7 and does not fit: it reserves what comes free. -/
def State.reserved (s : State) (elig : List (Nat × Kernel)) : Bool :=
  match elig with
  | e :: _ => s.prioOf e.2 == 7 && (s.fitOrEvict e.2).isNone
  | [] => false

/-- Places the first of the eligible candidates that fits. -/
def State.placeFirst (s : State) : List (Nat × Kernel) → State
  | [] => s
  | e :: es =>
    match s.fitOrEvict e.2 with
    | some (s', xs) => s'.seat e.1 e.2 xs
    | none => State.placeFirst s es

/-- Y may be preloaded behind some placed kernel X (03 R62). Each of its wait entries that names X's DONE object is excepted, also a
second one. DEDUCED, log entry 46. -/
def State.preloadable (s : State) (y : Kernel) : Bool :=
  y.krec.preload && !y.saved && (y.noPre.all fun kid => (s.kernel kid).isNone) &&
    s.kids.any fun xk => (s.kernel xk).any fun x =>
      x.st == .placed && y.behind x && (List.range 4).all fun i =>
        match y.krec.waits.getD i none with
        | none => true
        | some w => y.sat.getD i false || x.krec.done == some w.1

/-- Preloads the highest-ranked candidate that fits, where R62 lets it. -/
def State.preloadFirst (s : State) : State :=
  let rs := s.ranked
  if s.reserved (rs.filter fun e => e.2.eligible) then s
  else match rs.find? fun e => (s.fits e.2.krec).isSome with
    | some (kid, y) =>
      if s.preloadable y then
        match s.fits y.krec with
        | some xs => s.reserveFresh kid y xs true
        | none => s
      else s
    | none => s

/-- The dispatcher may decide: 64 cycles have passed since its last decision. -/
def State.mayDecide (s : State) : Bool := s.sys.decided.all fun t => decide (t + 64 ≤ s.sys.cyc)

/-- PLACEMENT_DECISION. Whether a preloadable candidate is preloaded is the device's choice. DEDUCED, log entry 46. An eligible
candidate has returned the device to C0 (17 R387). -/
def execPlacementDecision (s : State) : Host.Outcome State Fault Refusal :=
  .next <|
    if !s.mayDecide then s
    else
      let elig := s.ranked.filter fun e => e.2.eligible
      let s1 := s.upSys fun y => { y with decided := some y.cyc, cstate := if elig.isEmpty then y.cstate else 0 }
      if s1.reserved elig then s1
      else
        let s2 := (s1.placeFirst elig).draw
        if Config.freeBit s.nfree 0x500000 then s2.preloadFirst.draw else s2

/-! ## Starts (03 R54, R58, R62; 02 R32) -/

/-- The bundle that an instance starts at lies outside the 48-bit space: its fetch faults. CODE_BASE + ENTRY past 2^64 is taken modulo 2^64:
the spec does not say whether the sum wraps. DESIGN CHOICE, log entry 63. -/
def State.startFault (s : State) (x : Nat) (r : KRec) : State :=
  s.beginOutside x ((r.codeBase.toNat + r.entry.toNat) % 2 ^ 64)

/-- Lets a prepared instance run. -/
def State.startFresh (s : State) (x : Nat) (r : KRec) : State :=
  (s.upCtx x fun c => { c with occ := c.occ.map fun o => { o with st := .running } }).startFault x r

/-- PRELOAD_START: every wait entry of a preload is satisfied, and no kernel before it that has overrun is still held: it starts. A
reservation of P = 7 holds back no preload that has its contexts (03 R59). DEDUCED, log entry 46. -/
def execPreloadStart (kid : Nat) (s : State) : Host.Outcome State Fault Refusal :=
  .next <|
    match s.kernel kid with
    | none => s
    | some k =>
      if k.st ≠ .preloaded ∨ !k.eligible ∨ (k.deferred.any fun x => (s.kernel x).isSome) ∨ (s.queue k.q).cands.head? ≠ some kid then s
      else
        let s := (s.setKernel kid (some { k with st := .placed })).uncand k kid
        k.ctxs.foldl (fun s x => (s.upCore (coreOf x) Core.l1Flush).startFresh x k.krec) s

end Sys2Proof.Machine
end

