-- ==== Sys2Proof/Machine/Halting.lean ====
section
/-! DEFINITION. Landing of scoreboarded destinations; halts, saves, resumes, requeues, kills and retirement (03 R60, R61, R63; 05
R96, R106; 06 R131, R132; 09 R200, R206, R207; 16 R360 to R367). -/

namespace Sys2Proof.Machine

/-! ## Landing (05 R96, R106) -/

/-- Removes the scoreboarded destination at index `j`. -/
def Ctx.unpend (c : Ctx) (j : Nat) : Ctx := { c with pends := c.pends.eraseIdx j }

/-- The Zenith controller knows no such service, or refuses it to a kernel of this world (17 R389). -/
def refusedSvc (secure : Bool) (svc : W64) : Bool :=
  svc == 0 || decide (5 < svc.toNat) || (decide (3 ≤ svc.toNat) && !secure)

/-- The answer of a service lands, and invalidates the core's read-only L1 (17 R389). DESIGN CHOICE, log entry 50. -/
def State.smcAnswer (s : State) (x : Nat) (d : Dest) (v : W64) (alone : Bool) : State :=
  (s.landVal x (destVal d v) (wholeLanes (destVal d v)) 0 alone).upCore (coreOf x) Core.l1Flush

/-- What the lanes of a load have brought: the values with their flags, or the unit of a poison. -/
def gotAll : List (Nat × LdGot) → Except (BitVec 16) (List (Nat × List Byte) × Flags)
  | [] => .ok ([], 0)
  | (_, .poison u) :: _ => .error u
  | (j, .ok bs fl) :: rest =>
    match gotAll rest with
    | .ok (vs, fl') => .ok ((j, bs) :: vs, fl ||| fl')
    | .error u => .error u

/-- The scoreboarded destination at index `j` lands, if its value is there. A load reads the lanes of the granules `gs` of its result
that it has not read, but for those that an older load has to read first, and lands once every lane has been read (09 R206; 12 R285). DESIGN
CHOICE, log entry 58. -/
def State.landPend (s : State) (x j : Nat) (refill : Bool) (gs : BitVec 16) : State :=
  match (s.ctx x).pends[j]? with
  | none => s
  | some p =>
    let s' := s.upCtx x fun c => c.unpend j
    match p.what with
    | .ans v => s'.landVal x (destVal p.dst v) (wholeLanes (destVal p.dst v)) 0 p.alone
    | .load va size f lanes got =>
      let now := fun (e : Nat × GRef) => gs.getLsbD (e.1 / 4) && !(e.2.home f && (s.ctx x).olderReads j (e.2.span size))
      match State.readLanes (coreOf x) f refill size now lanes s' with
      | (s1, [], new) =>
        match gotAll (got ++ new) with
        | .ok (vs, fl) => s1.landVal x (loadVal p.dst size vs).1 (loadVal p.dst size vs).2 fl p.alone
        | .error u => s1.trapIn x ⟨.poison, p.pc, s.poisonInfo x, u⟩
      | (s1, left, new) =>
        s1.upCtx x fun c => { c with pends := (s.ctx x).pends.set j { p with what := .load va size f left (got ++ new) } }
    | .mirror em => if (s.ctx x).mirv.any fun v => destTakes p.dst v.1 then s'.landMirror x p.dst em else s
    | .smc svc _ => if refusedSvc (s.worldOf x) svc then s'.smcAnswer x p.dst (-1) p.alone else s
    | .again .. => s

/-- LOAD_RESULT_LANDS: `g` says which granules of a load's result are read now, and whether a plain load reads its home or an L1 copy. -/
def execLoadResultLands (x j : Nat) (g : LoadTake) (s : State) : Host.Outcome State Fault Refusal :=
  .next (if (s.ctx x).running then (s.landPend x j g.refill g.gs).draw else s)

/-- RESULT_LANDS: a result in flight lands before its bound (05 R94). -/
def execResultLands (x j : Nat) (s : State) : Host.Outcome State Fault Refusal :=
  .next <|
    match (s.ctx x).flight[j]? with
    | some f => s.upCtx x fun c =>
        ({ c with flight := (c.flight.take j).map (·.cut f.val f.live) ++ c.flight.drop (j + 1) } : Ctx).land f
    | none => s

/-- Reissues the loads that a halt discarded (09 R207; 16 R367): a fault is raised at the first bundle to be resumed. -/
def State.reissue (s : State) (x : Nat) : List Pend → List Pend → State
  | done, [] => s.upCtx x fun c => { c with pends := done }
  | done, p :: ps =>
    match p.what with
    | .again va size f lanes =>
      let as_ := lanes.map fun j => (j, va.setWidth 64 + BitVec.ofNat 64 (if size = 4 then 4 * j else 0))
      match readRefs (coreOf x) (s.asidOf x) (s.worldOf x) as_ s with
      | (s', .ok rs) => State.reissue s' x (done ++ [{ p with what := .load va size f rs [] }]) ps
      | (s', .error (e, a)) =>
        let page : W32 := BitVec.ofNat 32 (a.toNat % 2 ^ 48 / 65536)
        if e = xNomap ∧ s.hostPf then
          match s'.park (s.asidOf x) 1 page with
          | some s' => s'.upCtx x fun c => { c with wait := some { kind := 11, since := c.cycle.setWidth 32, page := page, info := gInfo xHostfail a, tpc := c.pc } }
          | none => s'.trapIn x ⟨.xlate, (s.ctx x).pc, gInfo xHostfail a, 0⟩
        else s'.trapIn x ⟨e.cause, (s.ctx x).pc, gInfo e a, 0⟩
    | _ => State.reissue s x (done ++ [p]) ps

/-! ## Gangs and halt points (05 R104 to R108; 16 R363) -/

/-- A halt request has reached the context. -/
def Ctx.reached (c : Ctx) : Bool := c.hreq.any (·.reached)

/-- The gang of context `x` stands at a halt point 1 to 3 of R363: a wait of any member, or the lead's loop stack. -/
def State.atHalt (s : State) (x : Nat) : Bool :=
  let us := s.runners x
  let lead := s.ctx (us.headD x)
  !us.isEmpty && (us.all fun y => (s.ctx y).reached) &&
    ((us.any fun y => (s.ctx y).wait.isSome) || lead.loops.isEmpty || lead.iter)

/-- PSLACK has expired for the lead. -/
def State.slackOver (s : State) (x : Nat) : Bool :=
  let us := s.runners x
  !us.isEmpty && (us.all fun y => (s.ctx y).reached) && ((s.ctx (us.headD x)).hreq.any fun h => decide (h.slack < h.age))

/-- A load that has not landed is recorded for reissue. -/
def Pend.held (p : Pend) : Pend :=
  match p.what with
  | .load va size f lanes got => { p with what := .again va size f (got.map (·.1) ++ lanes.map (·.1)) }
  | _ => p

/-- A pending destination that stays pending in a halt. -/
def Pend.stays (p : Pend) : Bool := match p.what with | .ans _ => false | _ => true

/-- The context halts. DEDUCED, log entry 47. -/
def Ctx.halt (c : Ctx) (forced : Bool) : Ctx :=
  { c with
    pends := (c.pends.filter Pend.stays).map Pend.held
    wait := none, granted := none, hreq := none, mid := forced
    ctlhalt := c.ctlhalt || c.hreq.any (·.ctl)
    phnext := c.phnext.map fun p => (p.1, p.2.1, c.pc)
    occ := c.occ.map fun o => { o with st := .halted } }

/-- Halts context `x`: results in flight and answers land, loads are recorded, and the arrivals of the requests are delivered. -/
def State.haltOne (s : State) (x : Nat) (forced : Bool) : State :=
  let arrs := (s.ctx x).hreq.elim [] (·.arrs)
  let s := s.upCtx x Ctx.landAll
  let s := (s.landAnswers x (s.ctx x).pends).upCtx x fun c => c.halt forced
  arrs.foldl (fun s a => s.arrive a.1 (some a.2) none) s

/-- Halts the gang of context `x` at one advance. -/
def State.haltGang (s : State) (x : Nat) (forced : Bool) : State := (s.runners x).foldl (fun s y => s.haltOne y forced) s

/-- HALT_REQUEST_ARRIVES: the request reaches the context; PSLACK is sampled. -/
def execHaltRequestArrives (x : Nat) (s : State) : Host.Outcome State Fault Refusal :=
  .next <|
    match (s.ctx x).hreq with
    | some h => if h.reached then s else s.upCtx x fun c => { c with hreq := some { h with reached := true, slack := c.pslack.toNat, age := 0 } }
    | none => s

/-- CONTEXT_HALT: the context halts at a wait, with an empty loop stack or at an iteration boundary. -/
def execContextHalt (x : Nat) (s : State) : Host.Outcome State Fault Refusal := .next (if s.atHalt x then s.haltGang x false else s)

/-- FORCED_HALT: PSLACK is over, and the context halts in the middle of an iteration. -/
def execForcedHalt (x : Nat) (s : State) : Host.Outcome State Fault Refusal :=
  .next (if s.slackOver x && !s.atHalt x then s.haltGang x true else s)

/-! ## Overruns and KSTOP (03 R60; 16 R362) -/

/-- Begins to halt a kernel for a requeue. -/
def State.beginRequeue (s : State) (kid : Nat) (k : Kernel) (overrun : Bool) : State :=
  let s := s.setKernel kid (some { k with st := .requeueing overrun })
  (s.setQueue k.q { s.queue k.q with savedKid := some kid }).upCtxs (·.request .requeue) (s.ownCtxs kid k)

/-- The queue's save area can take the kernel. -/
def State.canSave (s : State) (k : Kernel) (kid : Nat) : Bool :=
  (s.queue k.q).save != 0 && ((s.queue k.q).savedKid.all (· == kid))

/-- BUDGET_OVERRUN: an instance's count has reached BUDGET. -/
def execBudgetOverrun (kid : Nat) (s : State) : Host.Outcome State Fault Refusal :=
  .next <|
    match s.kernel kid with
    | none => s
    | some k =>
      let spent := k.ctxs.any fun x => (s.ctx x).occ.any fun o =>
        o.kid == kid && (o.st == .running || o.st == .halted) && decide (k.krec.budget.toNat ≤ (s.ctx x).cycle.toNat)
      if k.st ≠ .placed ∨ k.krec.budget = 0 ∨ !spent then s
      else
        let k := { k with ovrcnt := min 255 (k.ovrcnt + 1) }
        if k.krec.ovr ∧ s.canSave k kid then
          (s.preloadsBehind k).foldl (fun s y => s.upKernel y fun v => { v with deferred := kid :: v.deferred }) (s.beginRequeue kid k true)
        else (s.setKernel kid (some k)).kill kid (EndInfo.plain .overrun)

/-- The preloads of a queue return to being candidates. -/
def State.dropPreloads (s : State) (q : Nat) : State :=
  (s.kids.filter fun kid => (s.kernel kid).any fun k => k.q == q && k.st == .preloaded).foldl State.unpreload s

/-- Placed kernels of a queue. -/
def State.placedOf (s : State) (q : Nat) : List Nat :=
  s.kids.filter fun kid => (s.kernel kid).any fun k => k.q == q && !k.open && k.st != .killing

/-- KSTOP_PREEMPT: every placed kernel of the queue is saved and requeued, or killed where the save area cannot take it. -/
def execKstopPreempt (a : QueueAt) (s : State) : Host.Outcome State Fault Refusal :=
  .next <|
    let s := s.regAccess a.zenith
    if !s.queueTakes a.q a.zenith then s
    else
      let s := s.dropPreloads a.q
      (s.placedOf a.q).foldl (fun s kid =>
        match s.kernel kid with
        | none => s
        | some k =>
          if k.st ≠ .placed then s
          else if s.canSave k kid then s.beginRequeue kid k false
          else s.kill kid (EndInfo.plain .killed)) s

/-- KSTOP_KILL: every placed kernel of the queue is killed. -/
def execKstopKill (a : QueueAt) (s : State) : Host.Outcome State Fault Refusal :=
  .next <|
    let s := s.regAccess a.zenith
    if !s.queueTakes a.q a.zenith then s
    else
      let s := s.dropPreloads a.q
      (s.placedOf a.q).foldl (fun s kid => s.kill kid (EndInfo.plain .killed)) s

/-! ## Moving an instance (16 R365, R367) -/

/-- The core and context that hold a saved instance in the model: numbers beyond the device's own. -/
def savedCtx (kid n ctx : Nat) : Nat := 2 * (384 + 384 * kid + n) + ctx

/-- Entries of a map with keys in [lo, lo + n), moved to start at `b`. -/
def slice {α : Type} (m : SMap α) (lo n b : Nat) : SMap α :=
  (m.filter fun e => decide (lo ≤ e.1) && decide (e.1 < lo + n)).map fun e => (e.1 - lo + b, e.2)

/-- Copies a partition with its full-empty bits and poison from core `a` into core `b`. -/
def Core.takePart (b a : Core) (lo n lo' : Nat) : Core :=
  let b := b.clearPart lo' n
  { b with
    sp := (slice a.sp lo n lo').foldl (fun m e => m.put e.1 e.2) b.sp
    fe := (slice a.fe (lo / 16) (n / 16) (lo' / 16)).foldl (fun m e => m.put e.1 e.2) b.fe
    spPoison := b.spPoison ++ (a.spPoison.filter fun g => decide (lo ≤ 16 * g) && decide (16 * g < lo + n)).map fun g => g - lo / 16 + lo' / 16 }

/-- Handles lo to lo + n − 1 of core `a` become those of core `b`. -/
def Core.takeHandles (b a : Core) (lo n : Nat) : Core :=
  { b with handles := Vector.ofFn fun h => if lo ≤ h.val ∧ h.val < lo + n then a.handles[h] else b.handles[h] }

/-- A message of the handles of core `k` now names core `m`. -/
def PhMsg.moved (k m lo n : Nat) (p : PhMsg) : PhMsg :=
  let own := fun (c : Nat) (h : Fin 96) => c == k && decide (lo ≤ h.val) && decide (h.val < lo + n)
  match p with
  | .member o c h ph => .member o (if own c h then m else c) h ph
  | .reg o c h w f => .reg o (if own c h then m else c) h w f
  | .anon o j f c h => .anon o j f (if h.any (own c) then m else c) h

/-- The same for an arrival that another context owes to a handle. -/
def movedArr (k m lo n : Nat) (a : Nat × Arrive) : Nat × Arrive :=
  if a.1 = k ∧ lo ≤ a.2.h.val ∧ a.2.h.val < lo + n then (m, a.2) else a

/-- Everything outside the core that names the handles, commands or context of a moved instance. -/
def State.rekey (s : State) (kid x y lo n : Nat) : State :=
  let k := coreOf x
  let m := coreOf y
  { s with
    phasers := s.phasers.map fun e => (e.1, { e.2 with pend := e.2.pend.map fun p =>
      if p.1 = k ∧ lo ≤ p.2.1.val ∧ p.2.1.val < lo + n then (m, p.2) else p })
    transit := s.transit.map (PhMsg.moved k m lo n)
    ctxs := s.ctxs.map fun e => (e.1, { e.2 with
      rarr := e.2.rarr.map (movedArr k m lo n)
      hreq := e.2.hreq.map fun h => { h with arrs := h.arrs.map (movedArr k m lo n) } })
    orreries := s.orreries.map fun e => (e.1, { e.2 with tickets := e.2.tickets.map fun t => (t.1, t.2.map fun v =>
      if v.ctx = x then { v with ctx := y, core := m } else v) })
    fab := { s.fab with
      leases := s.fab.leases.map fun l => (l.1, l.2.map fun v => if v.kid = kid ∧ v.core = k then { v with core := m } else v)
      rings := s.fab.rings.map fun r => (r.1, r.2.map fun v => if v.kid = kid ∧ v.core = k then { v with core := m } else v) } }

/-- A flit of the moved copies names the core that holds them now. -/
def FlitOwner.moved (k m : Nat) (ids : List Nat) (o : FlitOwner) : FlitOwner :=
  match o with | .copy c id => if c = k ∧ ids.contains id then .copy m id else o | o => o

/-- Moves the instance in context `x` to context `y` with partition base `b`: partition, handles, commands, tile store where the
instance holds the claim, which is then released at the core it leaves. `st` is the standing it takes. -/
def State.move (s : State) (kid : Nat) (r : KRec) (x y b : Nat) (st : OccSt) : State :=
  let k := coreOf x
  let m := coreOf y
  let c := s.ctx x
  let a := s.core k
  let mine := a.copies.filter fun d => d.ctx == x
  let ids := mine.map (·.id)
  let claims := a.claim == some x
  let s := s.upCore m fun q =>
    let q := (q.takePart a c.spbase c.spsize b).takeHandles a r.phlo r.phcnt
    let q := { q with copies := q.copies ++ mine.map fun d => { d with ctx := y } }
    if claims then { q with tile := a.tile, tstatus := a.tstatus, tilePoison := a.tilePoison, claim := some y } else q
  let s := s.upCore k fun q => { q.unbind r.phlo r.phcnt with copies := q.copies.filter fun d => d.ctx != x }
  let s := if claims then s.releaseClaim k (c.gmode == 2) else s
  let s := (s.setCtx y { c with spbase := b, wait := none, occ := c.occ.map fun o => { o with st := st } }).freeCtx x
  let s := s.rekey kid x y r.phlo r.phcnt
  s.upFab fun f => { f with
    outq := f.outq.map fun o => { o with own := o.own.moved k m ids }
    store := f.store.map fun o => { o with own := o.own.moved k m ids } }

/-! ## The save record (16 R365, R366) -/

/-- RSIZE. -/
def rsizeOf (spsize : Nat) : Nat := (0x28000 + spsize + spsize / 128 + 4095) / 4096 * 4096

/-- Bytes whose layout the spec does not give, from offset `o` of the record of context `x`. -/
def openBytes (s : State) (x o n : Nat) : List Byte :=
  (List.range n).map fun j => Config.freeByte s.nfree (0x1000000 * x + o + j)

/-- FLAGS of the record. -/
def saveFlags (s : State) (x : Nat) (c : Ctx) : Nat :=
  b2n c.hnd + 2 * b2n c.mid + 4 * b2n ((s.core (coreOf x)).claim == some x) + 8 * b2n (c.join == .inEffect) + 16 * b2n c.hold +
    32 * b2n c.ctlhalt + 64 * b2n c.wake + 128 * b2n c.gdec + 256 * c.loops.length

/-- Six loop entries, the outermost first. -/
def loopBytes (c : Ctx) : List Byte :=
  (List.range 6).flatMap fun i => match c.loopEnt i with
    | some l => natLe 4 l.count.toNat ++ natLe 4 0 ++ natLe 8 l.first.toNat ++ natLe 8 l.fin.toNat
    | none => List.replicate 24 0

/-- Pending entries: loads, a pending SMC and the wait half of a PHNEXT. -/
def Ctx.npend (c : Ctx) : Nat := c.pends.length + b2n c.phnext.isSome

/-- The record of the instance in context `x`, number `n`. -/
def saveBytes (s : State) (x n : Nat) : List Byte :=
  let c := s.ctx x
  let k := s.core (coreOf x)
  let parked := (k.copies.filter fun d => d.ctx == x).length
  let regs := [0x010, 0x011, 0x012, 0x013, 0x040, 0x041, 0x042, 0x043, 0x044, 0x060, 0x0A0, 0x0A1]
  natLe 4 0x01535A44 ++ natLe 2 n ++ natLe 2 x ++ natLe 8 c.pc.toNat ++ natLe 4 (saveFlags s x c) ++ natLe 2 c.npend ++
    natLe 2 parked ++ natLe 8 c.cycle.toNat ++ natLe 8 (rsizeOf c.spsize) ++ List.replicate 24 0 ++
    (c.s.toList.flatMap fun r => natLe 8 r.toNat) ++ natLe 8 c.em.toNat ++ natLe 8 c.cm.toNat ++ loopBytes c ++
    (regs.flatMap fun r => natLe 8 (srRead s x c r).toNat) ++ List.replicate 32 0 ++
    openBytes s x 0x260 256 ++ (c.mxc.toList.flatMap fun r => natLe 8 r.toNat) ++ openBytes s x 0x3E0 (0x2210 - 0x3E0) ++
    natLe 4 (if k.claim = some x then k.tstatus.toNat else 0) ++ List.replicate 7660 0 ++
    (c.v.toList.flatMap fun r => r.toList.flatMap fun w => natLe 4 w.toNat) ++
    (if k.claim = some x then (List.range 128).flatMap fun i => (List.range 256).flatMap fun j => natLe 4 (k.tileRd i j).toNat
      else openBytes s x 0x8000 131072) ++
    k.spRd c.spbase c.spsize ++
    ((List.range (c.spsize / 128)).map fun i => BitVec.ofNat 8 (bitsAt 0 (List.range 8) fun j => k.feGet (c.spbase / 16 + 8 * i + j)))

/-- Writes bytes for the dispatcher, one 64 KiB unit at a time; a unit that cannot be written is left as it is. -/
def State.devWrite (s : State) (q : Nat) : Nat → Nat → List Byte → State
  | 0, _, _ => s
  | fuel + 1, va, bs =>
    if bs.isEmpty then s
    else
      let n := 65536 - va % 65536
      let s := match s.devXlate q va .write with
        | .ok pa => s.wr tagDevice pa (bs.take n)
        | .error _ => s
      s.devWrite q fuel (va + n) (bs.drop n)

/-- Counts a save. -/
def satInc8 (x : BitVec 8) : BitVec 8 := if x = 255 then x else x + 1

/-- The instance can be saved: it has halted, or never started; every command that is not parked has completed; the array has
drained what it suspended. -/
def State.savable (s : State) (x : Nat) : Bool :=
  match (s.ctx x).occ, s.kernelOf x with
  | some o, some k =>
    (match k.st with | .requeueing _ => true | _ => false) && (o.st == .halted || o.st == .prepared) &&
      ((s.core (coreOf x)).copies.all fun c => c.ctx != x || c.parked) && ((s.ctx x).mxq.all fun m => !m.accValid) && !(coreOf x % 2 == 1 && (s.ctx (x - 2)).mxq.any fun m => m.accValid && m.wide)
  | _, _ => false

/-- INSTANCE_SAVE. The record holds what R366 gives of the instance; what its layout leaves open the model keeps apart. An instance that was prepared to
resume and has not started goes back to its record. DESIGN CHOICE, log entry 39. -/
def execInstanceSave (x : Nat) (s : State) : Host.Outcome State Fault Refusal :=
  .next <|
    match (s.ctx x).occ, s.kernelOf x with
    | some o, some k =>
      let y := savedCtx o.kid o.n k.krec.ctx
      if !s.savable x then s
      else if k.ctxs[o.n]? ≠ some x then s.freeCtx x
      else
        let s := s.upCtx x fun c => { c with nsave := satInc8 c.nsave }
        let rs := rsizeOf (s.ctx x).spsize
        let s := s.devWrite k.q (rs / 65536 + 2) ((s.queue k.q).save.toNat + o.n * rs) (saveBytes s x o.n)
        let s := s.move o.kid k.krec x y 0 .saved
        (s.upKernel o.kid fun k => { k with ctxs := k.ctxs.set o.n y }).draw
    | _, _ => s

/-! ## Resume (16 R367) -/

/-- Reads `n` bytes for the dispatcher, one 64 KiB unit at a time; none if some unit cannot be read. -/
def State.devReads (s : State) (q : Nat) : Nat → Nat → Nat → Option (List Byte)
  | 0, _, _ => some []
  | fuel + 1, va, n =>
    if n = 0 then some []
    else
      let m := min n (65536 - va % 65536)
      match s.devRead q va m with
      | .ok bs => (s.devReads q fuel (va + m) (n - m)).map (bs ++ ·)
      | .error _ => none

/-- `n` little-endian words of `k` bytes. -/
def leWords (k : Nat) : Nat → List Byte → List Nat
  | 0, _ => []
  | n + 1, bs => leNat (bs.take k) :: leWords k n (bs.drop k)

/-- The field of `n` bytes at offset `o` of a record. -/
def recField (bs : List Byte) (o n : Nat) : Nat := leNat ((bs.drop o).take n)

/-- The loop stack of a record: LSDEPTH entries, the outermost first. -/
def recLoops (bs : List Byte) : List LoopEnt :=
  ((List.range (min 6 (nb (recField bs 0x10 4) 8 3))).map fun i =>
    ⟨BitVec.ofNat 32 (recField bs (0x150 + 24 * i) 4), BitVec.ofNat 48 (recField bs (0x158 + 24 * i) 8),
      BitVec.ofNat 48 (recField bs (0x160 + 24 * i) 8)⟩).reverse

/-- The special registers of a record's SREG. -/
def Ctx.restoreSreg (c : Ctx) (bs : List Byte) : Ctx :=
  let r := fun i => BitVec.ofNat 64 (recField bs (0x1E0 + 8 * i) 8)
  let c := [(0x010, 0), (0x011, 1), (0x012, 2), (0x040, 4), (0x042, 6), (0x060, 9), (0x0A0, 10), (0x0A1, 11)].foldl
    (fun c e => c.srWrite e.1 (r e.2)) c
  { c with
    rsdctr := (r 3).setWidth 32, tcause := (r 5).setWidth 8, tinfo := r 7
    self := bitOf (r 8) 2, restarted := bitOf (r 8) 3, nsave := BitVec.ofNat 8 (bf (r 8) 8 8) }

/-- What a record restores of a context: the fields whose layout R366 gives. CYCLE stands reset by R60. -/
def Ctx.restore (c : Ctx) (bs : List Byte) : Ctx :=
  let f := BitVec.ofNat 32 (recField bs 0x10 4)
  let c := c.restoreSreg bs
  let ss := leWords 8 32 (bs.drop 0x40)
  let ms := leWords 8 16 (bs.drop 0x360)
  let vs := leWords 4 4096 (bs.drop 0x4000)
  { c with
    pc := BitVec.ofNat 48 (recField bs 8 8)
    hnd := bitOf f 0, mid := bitOf f 1, hold := bitOf f 4, ctlhalt := bitOf f 5, wake := bitOf f 6, gdec := bitOf f 7
    s := Vector.ofFn fun i => BitVec.ofNat 64 (ss.getD i.val 0)
    em := BitVec.ofNat 64 (recField bs 0x140 8)
    cm := BitVec.ofNat 64 (recField bs 0x148 8)
    loops := recLoops bs
    mxc := Vector.ofFn fun i => BitVec.ofNat 64 (ms.getD i.val 0)
    v := Vector.ofFn fun r => Vector.ofFn fun l => BitVec.ofNat 32 (vs.getD (64 * r.val + l.val) 0) }

/-- What a record restores of the core of context `x`: the partition with its full-empty bits, and the tile store and its status word
where CLAIM is set and the claim has been taken back. Poison stays with the granules that carried it. -/
def Core.restore (k : Core) (x base size : Nat) (bs : List Byte) : Core :=
  let fe := (bs.drop (0x28000 + size)).take (size / 128)
  let k := { k with
    sp := memWr k.sp base ((bs.drop 0x28000).take size)
    fe := (List.range (size / 16)).foldl (fun m g => m.set false (base / 16 + g) (bitOf (fe.getD (g / 8) 0) (g % 8))) k.fe }
  if bitOf (BitVec.ofNat 32 (recField bs 0x10 4)) 2 && k.claim == some x then
    { k with
      tile := ((List.range 32768).zip ((leWords 4 32768 (bs.drop 0x8000)).map (BitVec.ofNat 32))).filter fun e => e.2 != 0
      tstatus := BitVec.ofNat 7 (recField bs 0x2210 4) &&& mxMask }
  else k

/-- Step 2 of R367: the record at `a` of queue `q` is restored to context `x`. A record that cannot be read, and the fields whose inner
layout R366 leaves open, are what the model kept at the save. DESIGN CHOICE, log entry 39. -/
def State.reload (s : State) (q a x : Nat) : State :=
  let c := s.ctx x
  let rs := rsizeOf c.spsize
  match s.devReads q (rs / 65536 + 2) a rs with
  | none => s
  | some bs => (s.upCtx x fun c => c.restore bs).upCore (coreOf x) fun k => k.restore x c.spbase c.spsize bs

/-- The commands that the instance in context `y` brings with it have room in the queue of the core of context `x` (01 R18; 11 R238). -/
def State.copyRoom (s : State) (y x : Nat) : Bool :=
  decide (((s.core (coreOf y)).copies.filter fun d => d.ctx == y).length + (s.core (coreOf x)).copies.length ≤ 64)

/-- INSTANCE_START: step 4 of R58, or the resume of a saved instance, which waits until the core's copy queue has room for its commands.
Of an instance saved before its start the record holds the first PC modulo 2^48, and the resume begins there. DEDUCED, log entry 63. -/
def execInstanceStart (x : Nat) (s : State) : Host.Outcome State Fault Refusal :=
  .next <|
    match (s.ctx x).occ, s.kernelOf x with
    | some o, some k =>
      if o.st ≠ .prepared ∨ k.st ≠ .placed then s
      else
        let inv := fun (s : State) => s.upCore (coreOf x) fun c => c.icFlush.l1Flush
        let y := k.ctxs.getD o.n x
        if y = x then (inv s).startFresh x k.krec
        else if y < 768 then s
        else if (s.core (coreOf y)).claim.isSome && (s.core (coreOf x)).claim.isSome || !s.copyRoom y x then s
        else
          let s := (inv s).move o.kid k.krec y x k.krec.spbase .running
          let s := { s with cores := s.cores.del (coreOf y) }
          let s := s.reload k.q ((s.queue k.q).save.toNat + o.n * rsizeOf (s.ctx x).spsize) x
          let s := s.upCtx x fun c => { c with
            fbuf := [], occ := c.occ.map fun o => { o with st := if c.ctlhalt then .halted else .running } }
          let s := s.upCore (coreOf x) fun q => { q with copies := q.copies.map fun d => if d.ctx = x then { d with parked := false } else d }
          let s := s.upKernel o.kid fun k => { k with ctxs := k.ctxs.set o.n x }
          if (s.heldBy o.kid).any fun z => (s.ctx z).occ.any fun o => o.st == .saved then s
          else (s.upKernel o.kid fun k => { k with saved := false }).setQueue k.q { s.queue k.q with savedKid := none }
    | _, _ => s

/-! ## Requeue, kill, retirement -/

/-- Largest count and OR of flags of these contexts, added to a kernel's. -/
def State.tally (s : State) (k : Kernel) (xs : List Nat) : Kernel :=
  xs.foldl (fun k x =>
    let c := (s.ctx x).landAll
    { k with arith := k.arith ||| c.arith, cycles := if k.cycles.toNat < c.cycle.toNat then c.cycle else k.cycles }) k

/-- REQUEUE_SETTLE: every unretired instance has been saved: the record is written and the kernel is a candidate again. -/
def execRequeueSettle (kid : Nat) (s : State) : Host.Outcome State Fault Refusal :=
  .next <|
    match s.kernel kid with
    | none => s
    | some k =>
      let xs := s.heldBy kid
      let saved := xs.filter fun x => (s.ctx x).occ.any fun o => o.st == .saved
      let rest := xs.filter fun x => (s.ctx x).occ.any fun o => o.st != .saved && o.st != .retired
      match k.st with
      | .requeueing _ =>
        if saved.isEmpty ∨ !rest.isEmpty then s
        else
          let k := s.tally k (xs.filter fun x => (s.ctx x).occ.any fun o => o.st == .saved || o.st == .retired)
          let s := s.upCtxs (fun c => { c with cycle := 0 }) saved
          let s := s.finishKernel k (EndInfo.plain .overrun) true
          (s.setKernel kid (some { k with st := .cand, saved := true, born := s.sys.cyc, again := true, fin := none })).recand k.q kid
      | _ => s

/-- What a kernel leaves behind in the fabric and the Orreries when its last instance retires or is killed (13 R304, R319; 15 R350): its
leases end at the second frame boundary after this frame, and their release notices go out. -/
def State.endKernel (s : State) (kid : Nat) : State :=
  let s := s.endTickets kid
  let s := s.upFab fun f => { f with rings := f.rings.filter fun r => !(r.2.any fun v => v.kid == kid) }
  let ls := s.fab.leases.filterMap fun e => e.2.bind fun v => if v.kid = kid then some (e.1, v) else none
  ls.foldl (fun s e =>
    if e.2.finished then s.setLease e.1 none
    else
      let s := s.setLease e.1 (some { e.2 with orphan := true, ports := e.2.ports.map (·.endAt (s.frame + 2) .released) })
      if e.2.rel then s else s.sendReleases e.1 e.2) s

/-- What a kill takes from context `x` (16 R360): its matrix commands, with undefined C regions, its handles' registrations, its
claim and its copies. DEDUCED, log entry 20. -/
def State.strip (s : State) (r : KRec) (kid x : Nat) : State :=
  let k := coreOf x
  let s := (s.ctx x).mxq.foldl (fun s m => s.undefineCmd k m) s
  let s := s.killHandles k r.phlo r.phcnt
  let s := if (s.core k).claim = some x then s.releaseClaim k ((s.ctx x).gmode == 2) else s
  s.upCore k fun q => { q with copies := q.copies.filter fun c => c.kid != kid }

/-- A kill of X is rerun: preloads behind it are discarded, and not preloaded again while it is held (03 R63). -/
def State.dropBehind (s : State) (x : Kernel) (kid : Nat) : State :=
  (s.preloadsBehind x).foldl (fun s y => (s.unpreload y).upKernel y fun k => { k with noPre := kid :: k.noPre }) s

/-- Removes a kernel from the dispatcher. -/
def State.forget (s : State) (k : Kernel) (kid : Nat) : State :=
  let s := s.uncand k kid
  let q := s.queue k.q
  (s.setQueue k.q { q with savedKid := if q.savedKid = some kid then none else q.savedKid }).setKernel kid none

/-- A kernel that is killed runs again (03 R61). -/
def Kernel.reruns? (k : Kernel) (e : EndInfo) : Bool := e.status == .fault && decide (k.reruns < k.krec.rerun)

/-- KILL_SETTLE: every instance has halted: the kernel is rerun or finished. -/
def execKillSettle (kid : Nat) (s : State) : Host.Outcome State Fault Refusal :=
  .next <|
    match s.kernel kid with
    | none => s
    | some k =>
      let xs := s.heldBy kid
      if k.st ≠ .killing ∨ xs.any fun x => (s.ctx x).running then s
      else
        let e := k.fin.getD (EndInfo.plain .killed)
        let k := s.tally k xs
        let s := xs.foldl (fun s x => s.strip k.krec kid x) s
        let s := xs.foldl State.freeCtx s
        let s := { s with cores := s.cores.filter fun e => decide (e.1 < 384) || !(xs.any fun x => coreOf x == e.1) }
        let s := (s.endKernel kid).forget k kid
        if k.reruns? e then
          let s := s.dropBehind k kid
          let k' : Kernel := { k with
            st := .cand, saved := false, born := s.sys.cyc, again := true, reruns := k.reruns + 1, ctxs := [], gone := [], fin := none
            arith := 0, cycles := 0 }
          ((s.setKernel kid (some k')).recand k.q kid).draw
        else (s.finishKernel k e false).draw

/-- Drops the registrations of an instance's bound handles (06 R131; 12 R274). -/
def State.dropHandles (s : State) (k lo n : Nat) : State :=
  (handleRange lo n).foldl (fun s h => match (s.handle k h).obj with | some o => s.dropReg k h o true | none => s) s

/-- What a context keeps of the instance that has left it: TSTAT reads as at its end (22 R425). DEDUCED, log entry 63. -/
def Ctx.leaveTstat (f c : Ctx) : Ctx :=
  { f with hnd := c.hnd, mid := c.mid, self := c.self, restarted := c.restarted, nsave := c.nsave }

/-- INSTANCE_RETIRE_DONE: the trailing work of a retired instance is performed: its context becomes free, and the last one finishes
the kernel. -/
def execInstanceRetireDone (x : Nat) (s : State) : Host.Outcome State Fault Refusal :=
  .next <|
    match (s.ctx x).occ, s.kernelOf x with
    | some o, some k =>
      let work := ((s.core (coreOf x)).copies.any fun c => c.ctx == x) || !(s.ctx x).mxq.isEmpty || !(s.runners x).isEmpty ||
        !(s.ctx x).sigs.isEmpty || s.transit.any fun m => match m with
          | .anon _ _ (some _) c (some h) => c == coreOf x && decide (k.krec.phlo ≤ h.val) && decide (h.val < k.krec.phlo + k.krec.phcnt)
          | _ => false
      if o.st ≠ .retired ∨ k.st = .killing ∨ work then s
      else
        let k : Kernel := { s.tally k [x] with gone := o.n :: k.gone }
        let s := if (s.core (coreOf x)).claim = some x then s.releaseClaim (coreOf x) ((s.ctx x).gmode == 2) else s
        let s := ((s.dropHandles (coreOf x) k.krec.phlo k.krec.phcnt).freeCtx x).upCtx x (·.leaveTstat (s.ctx x))
        if k.gone.length = k.krec.count then
          ((s.endKernel o.kid).forget k o.kid).finishKernel k (EndInfo.plain .ok) false
        else s.setKernel o.kid (some k)
    | _, _ => s

end Sys2Proof.Machine
end

