-- ==== Sys2Proof/Machine/Special.lean ====
section
/-! DEFINITION. Special functions (07 R152 to R157, 08 R172). BF16 and F16 results, and FP32 RCP, RSQ and SQRT, are RNE of
the exact value: a transcendental value is enclosed to about 300 fraction bits, far past what 16-bit operands need to settle
the rounding. The other FP32 functions follow their procedures. -/

namespace Sys2Proof.Machine

/-! ## Fixed-point reals -/

/-- Fraction bits of the fixed-point reals. -/
def fxP : Nat := 320
/-- One. -/
def fxOne : Int := 2 ^ fxP
def fxMul (a b : Int) : Int := a * b / fxOne
/-- A dyadic value as a fixed-point real. -/
def fxOf (x : Dy) : Int := if 0 ≤ x.e + fxP then x.m * 2 ^ (x.e + fxP).toNat else x.m / 2 ^ (-(x.e + fxP)).toNat
/-- A fixed-point real as a dyadic value. -/
def fxDy (x : Int) : Dy := ⟨x, -(fxP : Int)⟩

/-- The sum of `n` terms: each term is the one before through `next k`. -/
def fxSum (next : Nat → Int → Int) : Nat → Nat → Int → Int → Int
  | 0, _, _, acc => acc
  | n + 1, k, t, acc => fxSum next n (k + 1) (next k t) (acc + t)

/-- e^x for |x| ≤ 1. -/
def fxExp (x : Int) : Int := fxSum (fun k t => fxMul t x / (k + 1 : Nat)) 90 0 fxOne 0
/-- sin x and cos x for |x| ≤ 1. -/
def fxSin (x : Int) : Int := fxSum (fun k t => -(fxMul (fxMul t x) x) / ((2 * k + 2) * (2 * k + 3) : Nat)) 45 0 x 0
def fxCos (x : Int) : Int := fxSum (fun k t => -(fxMul (fxMul t x) x) / ((2 * k + 1) * (2 * k + 2) : Nat)) 45 0 fxOne 0

/-- The sum over k of sgn^k × s^(2k+1) / (2k + 1): atanh for sgn = 1, atan for sgn = −1. -/
def fxAtanSum (sgn : Int) (s2 : Int) : Nat → Nat → Int → Int → Int
  | 0, _, _, acc => acc
  | n + 1, k, t, acc => fxAtanSum sgn s2 n (k + 1) (sgn * fxMul t s2) (acc + t / (2 * k + 1 : Nat))
/-- atanh s for |s| ≤ 1/3. -/
def fxAtanh (s : Int) : Int := fxAtanSum 1 (fxMul s s) 110 0 s 0
/-- ln 2 = 2 atanh(1/3). -/
def fxLn2 : Int := 2 * fxAtanh (fxOne / 3)
/-- π by Machin's formula. -/
def fxPi : Int :=
  let a := fun (d : Int) (n : Nat) => fxAtanSum (-1) (fxOne / (d * d)) n 0 (fxOne / d) 0
  16 * a 5 75 - 4 * a 239 25

/-! ## Roots -/

/-- Bits of the integer square root of `x`, from bit `n` down. -/
def isqrtFrom (x : Nat) : Nat → Nat → Nat
  | 0, r => r
  | n + 1, r => let r' := r + 2 ^ n; isqrtFrom x n (if r' * r' ≤ x then r' else r)

/-- The integer square root. -/
def isqrt (x : Nat) : Nat := isqrtFrom x (Nat.log2 x / 2 + 1) 0

/-- √(n / d) rounded by RNE: 64 bits of the root, and an odd bit below them when it is not exact. -/
def rootQ (f : FFmt) (n d : Nat) : Nat × Flags :=
  let k := ((128 - ilog2 n d) / 2).toNat
  let q := n * 4 ^ k / d
  let r := isqrt q
  let exact := decide (r * r * d = n * 4 ^ k)
  roundQ f .rne false (if exact then 2 * r else 2 * r + 1) (2 ^ (k + 1))

/-! ## Operands -/

/-- The NaN that an invalid operation gives. -/
def sfInvalid (f : FFmt) : Nat × Flags := (f.nan, fINV)
/-- A signed code. -/
def sfSigned (f : FFmt) (neg : Bool) (c : Nat) : Nat := if neg then f.signW + c else c
/-- The code of 1. -/
def FFmt.one (f : FFmt) : Nat := f.bias * 2 ^ f.m

/-- Numerator and denominator of m × 2^e. -/
def qOf (m : Nat) (e : Int) : Nat × Nat := (m * 2 ^ e.toNat, 2 ^ (-e).toNat)

/-- A rounded value that is known to be inexact: IX, and UF below the smallest normal (07 R140). -/
def sfInexact (f : FFmt) (r : Nat × Flags) : Nat × Flags :=
  (r.1, r.2 ||| fIX ||| flagIf (decide (r.1 % f.signW < 2 ^ f.m)) fUF)

/-- An inexact real rounded by RNE. -/
def sfReal (f : FFmt) (x : Int) : Nat × Flags := sfInexact f (roundDy f .rne false (fxDy x))

/-- 1/x, √x and 1/√x (07 R152, R153). -/
def sfRcp (f : FFmt) (x : FV) : Nat × Flags :=
  match x with
  | .nan _ => (f.nan, x.opFlags)
  | .inf n => (sfSigned f n 0, 0)
  | .fin n m e =>
    if m = 0 then (sfSigned f n f.infCode, fDZ) else roundQ f .rne n (qOf m e).2 (qOf m e).1
def sfSqrt (f : FFmt) (x : FV) : Nat × Flags :=
  match x with
  | .nan _ => (f.nan, x.opFlags)
  | .inf n => if n then sfInvalid f else (f.infCode, 0)
  | .fin n m e =>
    if m = 0 then (sfSigned f n 0, 0) else if n then sfInvalid f else rootQ f (qOf m e).1 (qOf m e).2
def sfRsq (f : FFmt) (x : FV) : Nat × Flags :=
  match x with
  | .nan _ => (f.nan, x.opFlags)
  | .inf n => if n then sfInvalid f else (0, 0)
  | .fin n m e =>
    if m = 0 then (sfSigned f n f.infCode, fDZ) else if n then sfInvalid f else rootQ f (qOf m e).2 (qOf m e).1

/-! ## Transcendental functions of finite operands, 16-bit formats -/

/-- A dyadic value is an integer. -/
def Dy.isInt (x : Dy) : Bool := decide (x.m % (2 ^ (-x.e).toNat : Nat) = 0)

/-- 2^x: an integer x exactly, others as 2^n × e^((x − n) ln 2). Past ±1,000 every format has over- or underflowed. -/
def exp2H (f : FFmt) (x : Dy) : Nat × Flags :=
  let n := (clamp (-1000) 1000 (roundInt .rne x)).1
  if x.isInt || (clamp (-1000) 1000 (roundInt .rne x)).2 then roundDy f .rne false ⟨1, n⟩
  else
    let v := fxExp (fxMul (fxOf (x.sub ⟨n, 0⟩)) fxLn2)
    sfInexact f (roundDy f .rne false ⟨v, n - fxP⟩)

/-- log2 of m × 2^e, m > 0. -/
def log2H (f : FFmt) (m : Nat) (e : Int) : Nat × Flags :=
  let l := Nat.log2 m
  if m = 2 ^ l then roundDy f .rne false ⟨e + l, 0⟩
  else
    let s := ((m : Int) - 2 ^ l) * fxOne / ((m : Int) + 2 ^ l)
    sfReal f ((e + l) * fxOne + 2 * fxAtanh s * fxOne / fxLn2)

/-- n = 2x rounded to an integer, ties to even, and f = x − n / 2 (07 R156). -/
def trigSplit (x : Dy) : Int × Dy :=
  let n := roundInt .rne ⟨x.m, x.e + 1⟩
  (n, x.sub ⟨n, -1⟩)

/-- sin πx, with `cos` cos πx; a zero result of sin takes the sign of x. -/
def trigH (f : FFmt) (cos : Bool) (neg : Bool) (x : Dy) : Nat × Flags :=
  let p := trigSplit x
  let k := ((p.1 + b2n cos) % 4).toNat
  if p.2.m = 0 then
    match k with
    | 1 => (f.one, 0)
    | 3 => (f.signW + f.one, 0)
    | _ => (if cos then 0 else sfSigned f neg 0, 0)
  else
    let t := fxMul fxPi (fxOf p.2)
    let v := if k % 2 = 0 then fxSin t else fxCos t
    sfReal f (if k < 2 then v else -v)

/-- tanh x of x ≠ 0: past 64 it rounds to ±1. -/
def tanhH (f : FFmt) (neg : Bool) (x : Dy) : Nat × Flags :=
  if Dy.lt ⟨64, 0⟩ x.abs then (sfSigned f neg f.one, fIX)
  else
    -- e^(2a) = (e^(a/64))^128, squared seven times; of a small a, sinh and cosh are summed apart
    let a := fxOf x.abs
    let t :=
      if 8 * a < fxOne then
        let sh := fxSum (fun k t => fxMul (fxMul t a) a / ((2 * k + 2) * (2 * k + 3) : Nat)) 45 0 a 0
        let ch := fxSum (fun k t => fxMul (fxMul t a) a / ((2 * k + 1) * (2 * k + 2) : Nat)) 45 0 fxOne 0
        sh * fxOne / ch
      else
        let d := (List.range 7).foldl (fun y _ => fxMul y y) (fxExp (-(a / 64)))
        (fxOne - d) * fxOne / (fxOne + d)
    sfReal f (if neg then -t else t)

/-! ## The FP32 procedures (07 R154 to R157) -/

/-- RNE of a decimal n ÷ 10^k to FP32. -/
def dec32 (neg : Bool) (n k : Nat) : Nat := (roundQ fp32 .rne neg n (10 ^ k)).1

def exCoef : List Nat :=
  [dec32 false 1 0, dec32 false 6931471805599453 16, dec32 false 2402265069591007 16, dec32 false 555041086648216 16,
   dec32 false 96181291076285 16, dec32 false 13333558146428 16, dec32 false 1540353039338 16, dec32 false 15252733804 15]
def lgCoef : List Nat :=
  [dec32 false 28853900817779268 16, dec32 false 9617966939259756 16, dec32 false 5770780163555854 16,
   dec32 false 4121985831111324 16, dec32 false 3205988979753252 16, dec32 false 2623081892525388 16]
def snCoef : List Nat :=
  [dec32 false 3141592653589793 15, dec32 true 516771278004997 14, dec32 false 2550164039877345 15,
   dec32 true 5992645293207921 16, dec32 false 8214588661112823 17, dec32 true 737043094571435 17]
def coCoef : List Nat :=
  [dec32 false 1 0, dec32 true 4934802200544679 15, dec32 false 4058712126416768 15, dec32 true 1335262768854589 15,
   dec32 false 2353306303588932 16, dec32 true 2580689139001406 17, dec32 false 1929574309403923 18]
def thCoef : List Nat :=
  [dec32 true 3333333333333333 16, dec32 false 1333333333333333 16, dec32 true 5396825396825397 17,
   dec32 false 218694885361552 16, dec32 true 8863235529902197 18, dec32 false 3592128036572481 18,
   dec32 true 1455834387051318 18, dec32 false 5900274409455859 19]

/-- RNE steps on FP32 codes. -/
def fma32 (a b c : Nat) : Nat := (ffma fp32 .rne a b c).1
def mul32 (a b : Nat) : Nat := (fmul fp32 .rne a b).1
def add32 (a b : Nat) : Nat := (fadd fp32 .rne a b).1
def sub32 (a b : Nat) : Nat := (fsub fp32 .rne a b).1
/-- The FP32 code of a dyadic value, by RNE. -/
def dy32 (x : Dy) : Nat := (roundDy fp32 .rne false x).1
/-- The value of a finite FP32 code. -/
def val32 (c : Nat) : Dy := (fp32.dec c).dy

/-- Horner's scheme from the highest coefficient down. -/
def horner32 (x : Nat) (cs : List Nat) : Nat :=
  match cs.reverse with
  | [] => 0
  | c :: rest => rest.foldl (fun p c => fma32 p x c) c

/-- R154. -/
def exp2F (x : Dy) : Nat × Flags :=
  if Dy.lt ⟨128, 0⟩ x then (fp32.infCode, fOV ||| fIX)
  else if x.lt ⟨-151, 0⟩ then (0, fUF ||| fIX)
  else
    let n := roundInt .rne x
    let p := horner32 (dy32 (x.sub ⟨n, 0⟩)) exCoef
    let r := roundDy fp32 .rne false ((val32 p).mul ⟨1, n⟩)
    if x.isInt then r else (r.1, r.2 ||| fIX)

/-- R155: of a power of two the result is exact. -/
def log2F (m : Nat) (e : Int) : Nat × Flags :=
  let l := Nat.log2 m
  -- M = m / 2^l
  let half := Dy.lt (val32 0x3FB504F3) ⟨m, -(l : Int)⟩
  let e' : Int := e + l + b2n half
  -- (m − 1) / (m + 1) over a common scale
  let d : Int := if half then 2 ^ (l + 1) else 2 ^ l
  let n : Int := m - d
  let s := (roundQ fp32 .rne (decide (n < 0)) n.natAbs (m + d.toNat)).1
  let z := mul32 s s
  let r := fma32 s (horner32 z lgCoef) (dy32 ⟨e', 0⟩)
  if m = 2 ^ l then (r, 0) else sfInexact fp32 (r, 0)

/-- Flips the sign of an FP32 code. -/
def neg32 (c : Nat) : Nat := if c < 2 ^ 31 then c + 2 ^ 31 else c - 2 ^ 31

/-- R156. -/
def trigF (cos : Bool) (neg : Bool) (x : Dy) : Nat × Flags :=
  let p := trigSplit x
  let fc := dy32 p.2
  let z := mul32 fc fc
  let sv := mul32 fc (horner32 z snCoef)
  let cv := horner32 z coCoef
  let k := ((p.1 + b2n cos) % 4).toNat
  let r := match k with | 0 => sv | 1 => cv | 2 => neg32 sv | _ => neg32 cv
  let r := if r % 2 ^ 31 = 0 then (if cos then 0 else sfSigned fp32 neg 0) else r
  if p.2.m = 0 then (r, 0) else sfInexact fp32 (r, 0)

/-- R157, of x ≠ 0. -/
def tanhF (neg : Bool) (x : Dy) : Nat × Flags :=
  let a := dy32 x.abs
  let t :=
    if !(x.abs.lt ⟨19, -1⟩) then fp32.one
    else if x.abs.lt ⟨1, -12⟩ then a
    else if (x.abs.mul ⟨100, 0⟩).lt ⟨55, 0⟩ then
      let z := mul32 a a
      fma32 a (mul32 z (horner32 z thCoef)) a
    else
      let y := mul32 a (lgCoef.headD 0)
      let d := add32 (exp2F (val32 y)).1 fp32.one
      let r := roundQ fp32 .rne false (2 * (val32 d).den) (val32 d).num
      sub32 fp32.one r.1
  sfInexact fp32 (sfSigned fp32 neg t, 0)

/-! ## The functions of every format -/

/-- EXP2, LOG2, SINPI, COSPI and TANH of a code (07 R152, R153). -/
def sfExp2 (f : FFmt) (x : FV) : Nat × Flags :=
  match x with
  | .nan _ => (f.nan, x.opFlags)
  | .inf n => (if n then 0 else f.infCode, 0)
  | .fin _ m _ => if m = 0 then (f.one, 0) else if f = fp32 then exp2F x.dy else exp2H f x.dy
def sfLog2 (f : FFmt) (x : FV) : Nat × Flags :=
  match x with
  | .nan _ => (f.nan, x.opFlags)
  | .inf n => if n then sfInvalid f else (f.infCode, 0)
  | .fin n m e =>
    if m = 0 then (f.signW + f.infCode, fDZ) else if n then sfInvalid f
    else if f = fp32 then log2F m e else log2H f m e
/-- Of an argument 0 SINPI keeps the sign, in every format. DESIGN CHOICE, log entry 21. -/
def sfTrig (cos : Bool) (f : FFmt) (x : FV) : Nat × Flags :=
  match x with
  | .nan _ => (f.nan, x.opFlags)
  | .inf _ => sfInvalid f
  | .fin n m _ =>
    if m = 0 then (if cos then f.one else sfSigned f n 0, 0)
    else if f = fp32 then trigF cos n x.dy else trigH f cos n x.dy
def sfTanh (f : FFmt) (x : FV) : Nat × Flags :=
  match x with
  | .nan _ => (f.nan, x.opFlags)
  | .inf n => (sfSigned f n f.one, 0)
  | .fin n m _ => if m = 0 then (sfSigned f n 0, 0) else if f = fp32 then tanhF n x.dy else tanhH f n x.dy

/-- A special function word: each FP32 lane, or each element of a pair, bound 12 (08 R172). -/
def vSpecial (g : FFmt → FV → Nat × Flags) (d : Fin 64) (a : Sel) (z : SfFmt) : Eff :=
  vLanes 12 [a] d fun i k =>
    let x := i.rSel a k
    match z with
    | .f32 => lane32 (g fp32 (fp32.dec x.toNat))
    | .bf16 => pair16 (g bf16 (bf16.dec (el 16 0 x))) (g bf16 (bf16.dec (el 16 1 x)))
    | .f16 => pair16 (g fp16 (fp16.dec (el 16 0 x))) (g fp16 (fp16.dec (el 16 1 x)))

def effVrcp (d : Fin 64) (a : Sel) (z : SfFmt) : Eff := vSpecial sfRcp d a z
def effVrsq (d : Fin 64) (a : Sel) (z : SfFmt) : Eff := vSpecial sfRsq d a z
def effVsqrt (d : Fin 64) (a : Sel) (z : SfFmt) : Eff := vSpecial sfSqrt d a z
def effVexp2 (d : Fin 64) (a : Sel) (z : SfFmt) : Eff := vSpecial sfExp2 d a z
def effVlog2 (d : Fin 64) (a : Sel) (z : SfFmt) : Eff := vSpecial sfLog2 d a z
def effVsinpi (d : Fin 64) (a : Sel) (z : SfFmt) : Eff := vSpecial (sfTrig false) d a z
def effVcospi (d : Fin 64) (a : Sel) (z : SfFmt) : Eff := vSpecial (sfTrig true) d a z
def effVtanh (d : Fin 64) (a : Sel) (z : SfFmt) : Eff := vSpecial sfTanh d a z

/-! ## The words as bundles of one word -/

/-- VRCP as a bundle of one word (R172). -/
def execVrcp (d : Fin 64) (a : Sel) (f : SfFmt) (s : State) : Host.Outcome State Fault Refusal :=
  issueWords [effVrcp d a f] s

/-- VRSQ as a bundle of one word (R172). -/
def execVrsq (d : Fin 64) (a : Sel) (f : SfFmt) (s : State) : Host.Outcome State Fault Refusal :=
  issueWords [effVrsq d a f] s

/-- VSQRT as a bundle of one word (R172). -/
def execVsqrt (d : Fin 64) (a : Sel) (f : SfFmt) (s : State) : Host.Outcome State Fault Refusal :=
  issueWords [effVsqrt d a f] s

/-- VEXP2 as a bundle of one word (R172). -/
def execVexp2 (d : Fin 64) (a : Sel) (f : SfFmt) (s : State) : Host.Outcome State Fault Refusal :=
  issueWords [effVexp2 d a f] s

/-- VLOG2 as a bundle of one word (R172). -/
def execVlog2 (d : Fin 64) (a : Sel) (f : SfFmt) (s : State) : Host.Outcome State Fault Refusal :=
  issueWords [effVlog2 d a f] s

/-- VSINPI as a bundle of one word (R172). -/
def execVsinpi (d : Fin 64) (a : Sel) (f : SfFmt) (s : State) : Host.Outcome State Fault Refusal :=
  issueWords [effVsinpi d a f] s

/-- VCOSPI as a bundle of one word (R172). -/
def execVcospi (d : Fin 64) (a : Sel) (f : SfFmt) (s : State) : Host.Outcome State Fault Refusal :=
  issueWords [effVcospi d a f] s

/-- VTANH as a bundle of one word (R172). -/
def execVtanh (d : Fin 64) (a : Sel) (f : SfFmt) (s : State) : Host.Outcome State Fault Refusal :=
  issueWords [effVtanh d a f] s

end Sys2Proof.Machine
end

