-- ==== Sys2Proof/Machine/Bundle.lean ====
section
/-! DEFINITION. Bundles: the effect of each instruction word, the readiness and the trial of a context's next bundle, forced
issue, encodings and fetches that trap, and the advance of a gang (04 R70 to R83; 05 R91, R92, R104 to R108). -/

namespace Sys2Proof.Machine

/-- The effect of an instruction word; the happenings of the device have none. -/
def wordEff : Instr → Option Eff
  | .nop => some (effNop)
  | .add d a b => some (effAdd d a b)
  | .sub d a b => some (effSub d a b)
  | .and d a b => some (effAnd d a b)
  | .or d a b => some (effOr d a b)
  | .xor d a b => some (effXor d a b)
  | .shl d a b => some (effShl d a b)
  | .shr d a b => some (effShr d a b)
  | .sra d a b => some (effSra d a b)
  | .mul d a b => some (effMul d a b)
  | .mulhs d a b => some (effMulhs d a b)
  | .mulhu d a b => some (effMulhu d a b)
  | .min d a b => some (effMin d a b)
  | .max d a b => some (effMax d a b)
  | .minu d a b => some (effMinu d a b)
  | .maxu d a b => some (effMaxu d a b)
  | .seq d a b => some (effSeq d a b)
  | .slt d a b => some (effSlt d a b)
  | .sltu d a b => some (effSltu d a b)
  | .sel d a b c => some (effSel d a b c)
  | .clz d a => some (effClz d a)
  | .popc d a => some (effPopc d a)
  | .extr d a pos len1 => some (effExtr d a pos len1)
  | .insr d a pos len1 => some (effInsr d a pos len1)
  | .addw d a b => some (effAddw d a b)
  | .addi d a i => some (effAddi d a i)
  | .andi d a i => some (effAndi d a i)
  | .ori d a i => some (effOri d a i)
  | .xori d a i => some (effXori d a i)
  | .shli d a i => some (effShli d a i)
  | .shri d a i => some (effShri d a i)
  | .srai d a i => some (effSrai d a i)
  | .slti d a i => some (effSlti d a i)
  | .lui d i => some (effLui d i)
  | .br c a o => some (effBr c a o)
  | .jmp o => some (effJmp o)
  | .call o => some (effCall o)
  | .jr a => some (effJr a)
  | .callr a => some (effCallr a)
  | .loop a e => some (effLoop a e)
  | .loopi n e => some (effLoopi n e)
  | .brkl => some (effBrkl)
  | .lidx d k => some (effLidx d k)
  | .msave d m => some (effMsave d m)
  | .mrest m a => some (effMrest m a)
  | .mand m y => some (effMand m y)
  | .mor m y => some (effMor m y)
  | .mandn m y => some (effMandn m y)
  | .mset m a => some (effMset m a)
  | .mcmv m => some (effMcmv m)
  | .mpopc d m => some (effMpopc d m)
  | .rdsr d r => some (effRdsr d r)
  | .wrsr r a => some (effWrsr r a)
  | .ldc d z o => some (effLdc d z o)
  | .vaddI32 d a b => some (effVaddI32 d a b)
  | .vsubI32 d a b => some (effVsubI32 d a b)
  | .vmulI32 d a b => some (effVmulI32 d a b)
  | .vmulhI32 d a b => some (effVmulhI32 d a b)
  | .vaddI16 d a b => some (effVaddI16 d a b)
  | .vsubI16 d a b => some (effVsubI16 d a b)
  | .vaddI8 d a b => some (effVaddI8 d a b)
  | .vsubI8 d a b => some (effVsubI8 d a b)
  | .vaddsI16 d a b => some (effVaddsI16 d a b)
  | .vsubsI16 d a b => some (effVsubsI16 d a b)
  | .vaddsI8 d a b => some (effVaddsI8 d a b)
  | .vsubsI8 d a b => some (effVsubsI8 d a b)
  | .vminI32 d a b => some (effVminI32 d a b)
  | .vmaxI32 d a b => some (effVmaxI32 d a b)
  | .vminuI32 d a b => some (effVminuI32 d a b)
  | .vmaxuI32 d a b => some (effVmaxuI32 d a b)
  | .vand d a b => some (effVand d a b)
  | .vor d a b => some (effVor d a b)
  | .vxor d a b => some (effVxor d a b)
  | .vlut3 d a b tt => some (effVlut3 d a b tt)
  | .vshl d a b => some (effVshl d a b)
  | .vshr d a b => some (effVshr d a b)
  | .vsra d a b => some (effVsra d a b)
  | .vfshl d a b n => some (effVfshl d a b n)
  | .vfshr d a b n => some (effVfshr d a b n)
  | .vcmpeqI32 a b => some (effVcmpeqI32 a b)
  | .vcmpltI32 a b => some (effVcmpltI32 a b)
  | .vcmpltuI32 a b => some (effVcmpltuI32 a b)
  | .vcmpeqF32 a b => some (effVcmpeqF32 a b)
  | .vcmpltF32 a b => some (effVcmpltF32 a b)
  | .vcmpleF32 a b => some (effVcmpleF32 a b)
  | .vcmpunF32 a b => some (effVcmpunF32 a b)
  | .vsel d a b => some (effVsel d a b)
  | .vfaddF32 d a b => some (effVfaddF32 d a b)
  | .vfsubF32 d a b => some (effVfsubF32 d a b)
  | .vfmulF32 d a b => some (effVfmulF32 d a b)
  | .vfmaF32 d a b => some (effVfmaF32 d a b)
  | .vfminF32 d a b => some (effVfminF32 d a b)
  | .vfmaxF32 d a b => some (effVfmaxF32 d a b)
  | .vfaddBf16 d a b => some (effVfaddBf16 d a b)
  | .vfmulBf16 d a b => some (effVfmulBf16 d a b)
  | .vfmaBf16 d a b => some (effVfmaBf16 d a b)
  | .vfaddF16 d a b => some (effVfaddF16 d a b)
  | .vfmulF16 d a b => some (effVfmulF16 d a b)
  | .vfmaF16 d a b => some (effVfmaF16 d a b)
  | .vcvt d a code part rm => some (effVcvt d a code part rm)
  | .vqnt t d a b => some (effVqnt t d a b)
  | .vdqnt d a b => some (effVdqnt d a b)
  | .vbmax d a => some (effVbmax d a)
  | .vrcp d a f => some (effVrcp d a f)
  | .vrsq d a f => some (effVrsq d a f)
  | .vsqrt d a f => some (effVsqrt d a f)
  | .vexp2 d a f => some (effVexp2 d a f)
  | .vlog2 d a f => some (effVlog2 d a f)
  | .vsinpi d a f => some (effVsinpi d a f)
  | .vcospi d a f => some (effVcospi d a f)
  | .vtanh d a f => some (effVtanh d a f)
  | .vperm d a b => some (effVperm d a b)
  | .vrot d a b => some (effVrot d a b)
  | .vbcst z d b => some (effVbcst z d b)
  | .vext sx d a b => some (effVext sx d a b)
  | .vins d b k => some (effVins d b k)
  | .vred op d a => some (effVred op d a)
  | .vpopc d a => some (effVpopc d a)
  | .vclz d a => some (effVclz d a)
  | .viota cm d => some (effViota cm d)
  | .vmov d a => some (effVmov d a)
  | .vaddiI32 d a i => some (effVaddiI32 d a i)
  | .vandi d a i => some (effVandi d a i)
  | .vshli d a n => some (effVshli d a n)
  | .vshri d a n => some (effVshri d a n)
  | .vsrai d a n => some (effVsrai d a n)
  | .vmovi d i => some (effVmovi d i)
  | .ldv q d a o => some (effLdv q d a o)
  | .stv q v a o => some (effStv q v a o)
  | .ldsD q d a o => some (effLdsD q d a o)
  | .ldsW q d a o => some (effLdsW q d a o)
  | .ldsWu q d a o => some (effLdsWu q d a o)
  | .ldsH q d a o => some (effLdsH q d a o)
  | .ldsB q d a o => some (effLdsB q d a o)
  | .stsD q v a o => some (effStsD q v a o)
  | .stsW q v a o => some (effStsW q v a o)
  | .stsH q v a o => some (effStsH q v a o)
  | .stsB q v a o => some (effStsB q v a o)
  | .ldvg d a x => some (effLdvg d a x)
  | .stvs v a x => some (effStvs v a x)
  | .feset a o => some (effFeset a o)
  | .feclr a o => some (effFeclr a o)
  | .fetest d a o => some (effFetest d a o)
  | .ldgD f d a o => some (effLdgD f d a o)
  | .ldgW f d a o => some (effLdgW f d a o)
  | .ldgv f d a o => some (effLdgv f d a o)
  | .cpy l a b c h => some (effCpy l a b c h)
  | .cpys l a b c h => some (effCpys l a b c h)
  | .cpyz l a c h => some (effCpyz l a c h)
  | .cpyaAddi32 l a b c h => some (effCpyaAddi32 l a b c h)
  | .cpyaAddi64 l a b c h => some (effCpyaAddi64 l a b c h)
  | .cpyaAddf l a b c h => some (effCpyaAddf l a b c h)
  | .cpyaMin l a b c h => some (effCpyaMin l a b c h)
  | .cpyaMax l a b c h => some (effCpyaMax l a b c h)
  | .cpyaOr l a b c h => some (effCpyaOr l a b c h)
  | .cpyaAnd l a b c h => some (effCpyaAnd l a b c h)
  | .cpyaXor l a b c h => some (effCpyaXor l a b c h)
  | .fopAdd l a b c h => some (effFopAdd l a b c h)
  | .fopBadd l a b c h => some (effFopBadd l a b c h)
  | .fopSwap l a b c h => some (effFopSwap l a b c h)
  | .fopCas l a b h => some (effFopCas l a b h)
  | .cpyq c => some (effCpyq c)
  | .mxcfg n a b => some (effMxcfg n a b)
  | .mxgo h => some (effMxgo h)
  | .mxwait a => some (effMxwait a)
  | .mxlease => some (effMxlease)
  | .mxleaseJoin => some (effMxleaseJoin)
  | .mxfree => some (effMxfree)
  | .mxfreeJoin => some (effMxfreeJoin)
  | .mxfreeClaim => some (effMxfreeClaim)
  | .mxld a b st h => some (effMxld a b st h)
  | .mxst a b st h => some (effMxst a b st h)
  | .mxz b st h => some (effMxz b st h)
  | .ringset q a c => some (effRingset q a c)
  | .ringpush q a => some (effRingpush q a)
  | .ringstat c q => some (effRingstat c q)
  | .sctab a b c => some (effSctab a b c)
  | .scinv a => some (effScinv a)
  | .mxstat c => some (effMxstat c)
  | .phbind c a h => some (effPhbind c a h)
  | .phreg m h => some (effPhreg m h)
  | .phdrop h => some (effPhdrop h)
  | .phsig p h => some (effPhsig p h)
  | .phwait p h => some (effPhwait p h)
  | .phnext p h => some (effPhnext p h)
  | .phadd p h a => some (effPhadd p h a)
  | .phtest c h => some (effPhtest c h)
  | .bwreq c a b h => some (effBwreq c a b h)
  | .bwrel a h => some (effBwrel a h)
  | .bwqry c a => some (effBwqry c a)
  | .puts l a b c h => some (effPuts l a b c h)
  | .rels a b => some (effRels a b)
  | .lrset c a h => some (effLrset c a h)
  | .fabst c a => some (effFabst c a)
  | .coll c a h => some (effColl c a h)
  | .collq c a => some (effCollq c a)
  | .decpl => some (effDecpl)
  | .rejn => some (effRejn)
  | .fence p => some (effFence p)
  | .icinv p a b => some (effIcinv p a b)
  | .fetchb => some (effFetchb)
  | .launch c a b => some (effLaunch c a b)
  | .halt => some (effHalt)
  | .trap a => some (effTrap a)
  | .eret => some (effEret)
  | .smc c a b => some (effSmc c a b)
  | .brk => some (effBrk)
  | .waitev c a h => some (effWaitev c a h)
  | .tlbinv p a b => some (effTlbinv p a b)
  | .yield => some (effYield)
  | .ctxctlHalt c a b h => some (effCtxctlHalt c a b h)
  | .ctxctlFlush c a b h => some (effCtxctlFlush c a b h)
  | .ctxctlRestart c a b h => some (effCtxctlRestart c a b h)
  | .ctxctlResume c a b h => some (effCtxctlResume c a b h)
  | .ctxctlWake c a b h => some (effCtxctlWake c a b h)
  | .wstat c a b => some (effWstat c a b)
  | .qtailWrite _ _ => none
  | .qcfgWrite _ _ => none
  | .kstopPreempt _ => none
  | .kstopKill _ => none
  | .phaserObjectInit _ _ _ => none
  | .registerWrite _ _ _ => none
  | .bar0RegisterRead _ _ => none
  | .hostBar2Write _ _ => none
  | .hostBar2Read _ _ => none
  | .qliftWrite _ => none
  | .ltrWrite _ => none
  | .pfansRetry _ _ => none
  | .pfansFail _ _ => none
  | .fabricEnable _ => none
  | .fabricDisable _ => none
  | .lpolWrite _ => none
  | .revokeWrite _ _ => none
  | .membershipWrite _ _ => none
  | .flitWriteRx _ _ _ => none
  | .flitReadrspRx _ _ _ => none
  | .performedAckRx _ _ _ _ => none
  | .linkAckRx _ _ _ _ _ _ => none
  | .timeFlitRx _ _ _ _ => none
  | .leaseAnswerRx _ _ _ _ => none
  | .frameBoundary _ => none
  | .eccError _ => none
  | .powerOnBoot _ => none
  | .takeQueueEntry _ => none
  | .dependenceEventSeen _ => none
  | .placementDecision => none
  | .instanceStart _ => none
  | .preloadStart _ => none
  | .budgetOverrun _ => none
  | .requeueSettle _ => none
  | .killSettle _ => none
  | .instanceRetireDone _ => none
  | .cintHoldoffExpiry => none
  | .icacheFill _ _ _ => none
  | .fetchBufferFill _ => none
  | .forcedIssue _ => none
  | .resultLands _ _ => none
  | .loadResultLands _ _ _ => none
  | .checkSignatureCompare _ => none
  | .feWaitEnd _ => none
  | .feWatchdog _ => none
  | .waitTimeout _ => none
  | .phwaitEnd _ => none
  | .phsigHoldEnd _ => none
  | .copyEntryFree _ => none
  | .ringpushEnd _ => none
  | .matrixQueueRoom _ => none
  | .tileClaimGrant _ => none
  | .mxwaitEnd _ => none
  | .icinvComplete _ => none
  | .rejnComplete _ => none
  | .fenceComplete _ => none
  | .waitevEnd _ => none
  | .tlbinvComplete _ => none
  | .tableUnpinEnd _ => none
  | .translationWalkEnd _ _ _ => none
  | .haltRequestArrives _ => none
  | .contextHalt _ => none
  | .forcedHalt _ => none
  | .instanceSave _ => none
  | .commandStart _ _ _ => none
  | .ringPanelRoom _ _ _ => none
  | .putsSlotRoom _ _ => none
  | .commandComplete _ _ => none
  | .mxRunStart _ => none
  | .mxRunEnd _ => none
  | .mxPanelRead _ => none
  | .scaleMissFill _ _ _ _ => none
  | .mxOpComplete _ => none
  | .mxSuspendComplete _ => none
  | .mxTileCmdComplete _ => none
  | .mxJoinEffect _ => none
  | .memberSignal _ => none
  | .anonymousArrival _ => none
  | .registrationArrives _ => none
  | .slotBoundary => none
  | .syncLoss => none
  | .flitSend _ _ _ => none
  | .flitZeroRx _ _ _ => none
  | .flitAtomicRx _ _ _ => none
  | .flitReadreqRx _ _ _ => none
  | .flitLandRx _ _ _ => none
  | .flitTransitRx _ _ _ => none
  | .lackDue _ _ => none
  | .replayRx _ _ _ _ _ _ => none
  | .leaseRequestRx _ => none
  | .leaseConfirmRx _ _ _ => none
  | .leaseAnswerTimeout _ _ => none
  | .releaseNoticeRx _ _ _ => none
  | .revocationNoticeRx _ _ _ => none
  | .cancelNoticeRx _ _ _ => none
  | .displacementNoticeRx _ _ _ => none
  | .lossNoticeRx _ _ _ => none
  | .substNoticeRx _ _ _ _ => none
  | .removeNoticeRx _ _ _ _ => none
  | .skewNoticeRx _ _ => none
  | .rheadNoticeRx _ _ => none
  | .flitAbandon _ => none
  | .lossOfLight _ _ => none
  | .lossOfSignal _ _ _ => none
  | .drift _ _ => none
  | .retune _ _ => none
  | .retuneRelock _ _ => none
  | .lockfail _ _ => none
  | .spareAttemptEnd _ _ _ => none
  | .repansSpareComb _ _ => none
  | .repansSpareEmitter _ _ => none
  | .repansRetryOriginal _ _ => none
  | .repansRemove _ _ => none
  | .repansTimeout _ _ => none
  | .skewDetected _ _ _ => none
  | .routingCommit => none
  | .announceRx _ _ _ => none
  | .collAdmission _ _ => none
  | .admitRx _ _ _ _ => none
  | .collTransfer _ _ => none
  | .rfwdMessageRx _ _ _ _ _ => none
  | .collDoneRx _ _ _ _ => none
  | .abortRx _ _ _ _ => none
  | .admissionWatchdog _ _ => none
  | .pstateRead => none
  | .enterLowPower => none
  | .lowPowerExit => none
  | .d3Entry => none
  | .zenithAttest _ => none
  | .zenithBootinfo _ => none
  | .zenithSetworld _ => none
  | .zenithBootclr _ => none
  | .zenithDiag _ _ => none
  | .zenithAutoDiag _ _ => none
  | .writebackPoison _ => none
  | .illegalEnc _ => none
  | .fetchFault _ => none
  | .rfwdSlotFree _ _ _ _ => none
  | .spareCombLightChange _ _ => none

/-- The effects of a bundle's words, in order. -/
def bundleEffs (is : List Instr) : List Eff := is.filterMap wordEff

/-! ## The bundle at hand (05 R91) -/

/-- Latches the words of the bundle that is issued next, and its sequential successor, which wraps at 2^48. DESIGN CHOICE, log entry 63. -/
def State.latch (s : State) (x : Nat) (ws : List Nat) (n : Addr) : State :=
  s.upCtx x fun c => { c with bwords := ws, bsucc := n }

/-- The next bundle of a context that fetches for itself. -/
def State.hand (s : State) (x : Nat) : State × Begin := s.beginAt x (s.ctx x).pc.toNat

/-- A load or an answer is outstanding on a destination. -/
def Ctx.owes (c : Ctx) (p : Dest → Bool) : Bool := c.pends.any fun q => q.dst.counts && p q.dst

/-- A word reads or writes no scoreboarded register. -/
def Ctx.clearOf (c : Ctx) (i : Instr) : Bool :=
  match i.info with
  | none => true
  | some w =>
    w.dst.all (fun d => !c.owes (· == d)) &&
      w.src.all fun r => match r with
        | .s n => !c.owes (· == .s n)
        | .v n => !c.owes (· == .v n)
        | .allRows => !c.owes fun d => match d with | .v _ => true | _ => false

/-- A load waits to be issued again after a halt. -/
def Ctx.mustReissue (c : Ctx) : Bool := c.pends.any fun p => match p.what with | .again .. => true | _ => false

/-- Context `x` may issue: it runs, it is in no wait, nothing has to be issued again first, and no halt point holds it. -/
def State.mayIssue (s : State) (x : Nat) : Bool :=
  let c := s.ctx x
  c.running && c.wait.isNone && c.phnext.isNone && !c.mustReissue && !s.atHalt x && !s.slackOver x

/-- Units of a word, S, V, M, E; a NOP is an S word (05 R92). -/
def unitOf (i : Instr) : Nat := match i.info with | some w => w.unit | none => 4

/-- The unit set of a bundle: S 0, V0 1, M 2, E 3, V1 4 (05 R92; 04 R81). -/
def unitSet (is : List Instr) : List Nat :=
  let us := is.map unitOf
  if 2 ≤ (us.filter (· == 1)).length then 4 :: us else us

/-- What a trial of the bundle at hand finds. -/
inductive Trial where
  | notReady (s : State)
  /-- It can issue, or traps. -/
  | ready (s : State) (b : Bundle) (n : Addr)
  | trap (s : State) (t : Trap)
  /-- It enters a wait. -/
  | wait (s : State)

/-- Enters a wait. -/
def State.enter (s : State) (x : Nat) (w : Wait) : State := s.upCtx x fun c => { c with wait := some w }

/-- Tries the next bundle of a context that fetches for itself: the sequential successor wraps at 2^48. DESIGN CHOICE, log entries 54 and
63. -/
def State.tryHand (s : State) (x : Nat) : Trial :=
  if !s.mayIssue x then .notReady s
  else match s.hand x with
    | (s', .trap t) => .trap s' t
    | (s', .park) =>
      match s'.parkFetch x (s.ctx x).pc.toNat with
      | .wait s w => .wait (s.enter x w)
      | .trap t => .trap s' t
      | .done s | .raised s _ => .notReady s
    | (s', .bundle b ws n) =>
      let s1 := s'.latch x ws (BitVec.ofNat 48 n)
      if !(b.items.all (s1.ctx x).clearOf) then .notReady s1
      else match tryWords (bundleEffs b.items) s1 x with
        | .wait s w => .wait (s.enter x w)
        | _ => .ready s1 b (BitVec.ofNat 48 n)

/-- Delivers the arrivals of CTXCTL RESTART and RESUME at the context's next issue (16 R370). -/
def State.deliverResume (s : State) (x : Nat) : State :=
  let c := s.ctx x
  if c.rarr.isEmpty then s
  else c.rarr.foldl (fun s a => s.arrive a.1 (some a.2) none) (s.upCtx x fun c => { c with rarr := [] })

/-- FORCED_ISSUE: after 32 cycles in which it was ready and did not issue, context 1 issues alone (05 R92). -/
def execForcedIssue (core : Nat) (s : State) : Host.Outcome State Fault Refusal :=
  let x := 2 * core + 1
  let rest := fun (s : State) => s.upCore core fun k => { k with w := 0, forced := false }
  if !(s.core core).forced then .next s
  else match s.tryHand x with
    | .notReady s => .next s
    | .wait s => .next s
    | .trap s t => .next (rest (s.takeTrap x t).draw)
    | .ready s b _ =>
      match issueWords (bundleEffs b.items) { s.settleLoads x b.items with cur := x } with
      | .next s => .next (rest (s.deliverResume x))
      | o => o

/-! ## Encodings and fetches that trap (04 R70 to R72, R82) -/

/-- ILLEGAL_ENC: the bundle at the pc fails the decoder's checks. -/
def execIllegalEnc (x : Nat) (s : State) : Host.Outcome State Fault Refusal :=
  .next <| if !s.mayIssue x then s
    else match s.hand x with
      | (s', .trap t) => if t.cause = .illegalEnc then (s'.trapIn x t).draw else s'
      | (s', _) => s'

/-- FETCH_FAULT: the fetch of the bundle at the pc faults, meets poison or a pool packet. -/
def execFetchFault (x : Nat) (s : State) : Host.Outcome State Fault Refusal :=
  .next <| if !s.mayIssue x then s
    else match s.hand x with
      | (s', .trap t) => if t.cause = .illegalEnc then s' else (s'.trapIn x t).draw
      | (s', _) => s'

/-! ## A gang's member (05 R104 to R106) -/

/-- A member that does not fetch follows the stream: its own transfers do not move it. -/
def Out.follow (o : Out) : Out :=
  match o.next with
  | .jump _ => { o with next := .fall }
  | .endAt e => { o with c := { o.c with loops := (endOf e o.c.loops).1 }, next := .fall }
  | _ => o

/-- How a member's bundle ends: with the trap that TRAP or BRK raises after it. -/
inductive MemEnd where
  | done (s : State) (after : Option Trap)
  | trap (t : Trap)
  | wait (s : State) (w : Wait)

/-- The end of a member's bundle. -/
def Ended.member : Ended → MemEnd
  | .done s => .done s none
  | .raised s t => .done s (some t)
  | .trap t => .trap t
  | .wait s w => .wait s w

/-- Runs the words of a member's bundle; `own` says that it fetches for itself. -/
def tryMember (own : Bool) (es : List Eff) (s : State) (x : Nat) : MemEnd :=
  let i := s.iss x
  match runEffs es i { c := i.c, s := s, next := .seq, sig := [] } with
  | .trap t => .trap t
  | .wait s w => .wait s w
  | .ok o =>
    (finish i (if own then o else o.follow)).member

/-- The stream of the context that member `y` takes its bundles from, and how many advances it runs behind. -/
def State.fedBy (s : State) (y : Nat) : Nat × Nat :=
  let j := y / 2 % 4
  if (s.ctx y).gmode = 1 then (y - 2 * j, j - 1)
  else if (s.ctx y).gchk then (y - 2, 1)
  else (y - 2 * j, 0)

/-- The bundle that member `y` issues next. -/
def State.fed (s : State) (y : Nat) : Option (Addr × List Nat × Addr) :=
  match (s.ctx (s.fedBy y).1).stream[(s.fedBy y).2]? with
  | some e => if e.2.1.isEmpty then none else some e
  | none => none

/-- What one member has for an advance. -/
inductive Part where
  | none
  | bundle (own : Bool) (b : Bundle) (a n : Addr)
  | trap (t : Trap)
  | park

/-- A CHECK primary waits in REJN: its checker catches up. -/
def Ctx.inRejn (c : Ctx) : Bool := c.gmode == 2 && c.wait.any fun w => w.kind == 10

/-- The part of member `y`; `own` says that it fetches. -/
def State.part (s : State) (own : Bool) (y : Nat) : State × Part :=
  if !(s.ctx y).running || (s.ctx y).inRejn then (s, .none)
  else if own then
    match s.hand y with
    | (s', .bundle b _ n) => (s', .bundle true b (s.ctx y).pc (BitVec.ofNat 48 n))
    | (s', .trap t) => (s', .trap t)
    | (s', .park) => (s', .park)
  else match s.fed y with
    | none => (s, .none)
    | some (a, ws, n) =>
      match decodeBundle (s.phloOf y) (s.phcntOf y) (s.ringsOf y) ws with
      | .ok b => (s, .bundle false b a n)
      | .error _ => (s, .none)

/-- The parts of the members; `f` fetches for all of them, if it is one of them. -/
def State.parts (f : Nat) : List Nat → State → State × List (Nat × Part)
  | [], s => (s, [])
  | y :: ys, s =>
    let (s, p) := s.part (y == f) y
    let (s, ps) := State.parts f ys s
    (s, (y, p) :: ps)

/-- A member holds its gang: it is in a wait, at a halt point, or its bundle's registers are scoreboarded. -/
def State.holds (s : State) (e : Nat × Part) : Bool :=
  (s.ctx e.1).running && !(s.ctx e.1).inRejn && (!s.mayIssue e.1 || match e.2 with
    | .bundle _ b _ _ => !(b.items.all (s.ctx e.1).clearOf)
    | _ => false)

/-- How far an advance has come: the state so far, the members whose bundle trapped, those that trap after it, and a wait. -/
structure Adv where
  s : State
  traps : List (Nat × Trap) := []
  after : List (Nat × Trap) := []
  wait : Option State := none

/-- Issues the part of one member. `s` is the state before the advance. -/
def Adv.member (s : State) (v : Adv) (e : Nat × Part) : Adv :=
  match e.2 with
  | .none => v
  | .trap t => { v with traps := v.traps ++ [(e.1, t)] }
  | .park =>
    match s.parkFetch e.1 (s.ctx e.1).pc.toNat with
    | .wait s' w => { v with wait := v.wait.or (some (s'.enter e.1 w)) }
    | .trap t => { v with traps := v.traps ++ [(e.1, t)] }
    | .done _ | .raised .. => v
  | .bundle own b a n =>
    let s1 := ((v.s.latch e.1 b.words n).upCtx e.1 fun c => { c with pc := a }).settleLoads e.1 b.items
    match tryMember own (bundleEffs b.items) s1 e.1 with
    | .done s' none => { v with s := s' }
    | .done s' (some t) => { v with s := s', after := v.after ++ [(e.1, t)] }
    | .trap t => { v with traps := v.traps ++ [(e.1, t)] }
    | .wait _ _ =>
      match tryMember own (bundleEffs b.items) ((s.latch e.1 b.words n).upCtx e.1 fun c => { c with pc := a }) e.1 with
      | .wait s' w => { v with wait := v.wait.or (some (s'.enter e.1 w)) }
      | _ => { v with wait := v.wait.or (some s) }

/-- The stream entry of a part. -/
def Part.entry : Part → Addr × List Nat × Addr
  | .bundle _ b a n => (a, b.words, n)
  | _ => (0, [], 0)

/-- Context `p` has issued `e`, which those that follow it take up later. -/
def State.pushStream (s : State) (p : Nat) (e : Addr × List Nat × Addr) : State :=
  s.upCtx p fun c => { c with stream := (e :: c.stream).take 3 }

/-- These members have issued. -/
def State.delivers (s : State) (ys : List Nat) : State := ys.foldl State.deliverResume s

/-- A member that follows keeps no offer of a cycle (05 R112). -/
def State.noYield (s : State) (ys : List Nat) : State := s.upCtxs (fun c => { c with yielded := false }) ys

/-- One advance of the members `us`, where `f` fetches if it is one of them and the contexts `feeds` feed others (05 R104): the
state, and the units that each member's context has used. A hold leaves no trace but a wait that a member has entered. DEDUCED, log entry
48. -/
def State.advance (s : State) (us : List Nat) (f : Nat) (feeds : List Nat) : State × List (Nat × List Nat) :=
  let (s0, ps) := State.parts f us s
  if !(us.any fun y => (s0.ctx y).running) || ps.any s0.holds then (s0, [])
  else
    let v := ps.foldl (Adv.member s0) { s := s0 }
    match v.wait with
    | some s' => (s'.draw, [])
    | none =>
      if !v.traps.isEmpty then ((s0.gangTrap (us.filter fun y => (s0.ctx y).running) v.traps).draw, ps.map fun e => (e.1, [0, 1, 2, 3, 4]))
      else
        let entry := fun p => match ps.find? fun e => e.1 == p with | some e => e.2.entry | none => (0, [], 0)
        let s1 := feeds.foldl (fun s p => s.pushStream p (entry p)) v.s
        let s2 := (s1.noYield (us.filter (· != f))).delivers (ps.filterMap fun e => match e.2 with | .bundle .. => some e.1 | _ => none)
        ((s2.gangTrap (us.filter fun y => (s2.ctx y).running) v.after).draw,
          ps.filterMap fun e => match e.2 with | .bundle _ b _ _ => some (e.1, unitSet b.items) | _ => none)

end Sys2Proof.Machine
end

