-- ==== Sys2Proof/Machine/Waits.lean ====
section
/-! DEFINITION. The ends of blocking waits, the watchdogs, REJN, translation walks and the answers of the page-fault service
(05 R111; 09 R184, R185, R194, R197; 11 R249; 12 R271, R276; 16 R368; 17 R384). -/

namespace Sys2Proof.Machine

/-- The context fetches its own bundles: it is in no gang, it leads one, or it is decoupled (05 R104, R110). -/
def State.fetches (s : State) (x : Nat) : Bool :=
  let c := s.ctx x
  c.gmode == 0 || (c.gmode == 1 && (c.gdec || x / 2 % 4 == 0)) || (c.gmode == 2 && !c.gchk && (c.gdec || x / 2 % 4 == 0))

/-- The wait that the next bundle of context `x` would enter, with the state in which it waits. -/
def State.rewait (s : State) (x : Nat) : Option (State × Wait) :=
  match s.part (s.fetches x) x with
  | (s', .bundle own b a n) =>
    match tryMember own (bundleEffs b.items) ((s'.latch x b.words n).upCtx x fun c => { c with pc := a }) x with
    | .wait s w => some (s, w)
    | _ => none
  | (s', .park) =>
    match s'.parkFetch x (s.ctx x).pc.toNat with
    | .wait s w => some (s, w)
    | _ => none
  | _ => none

/-- Ends a wait of a kind when what it waits for is there; a bundle that would wait for something else waits for that. -/
def State.endWait (s : State) (kind x : Nat) : State :=
  match (s.ctx x).wait with
  | none => s
  | some w =>
    if w.kind ≠ kind ∨ !(s.ctx x).running ∨ (s.ctx x).phnext.isSome then s
    else
      let s0 := s.upCtx x fun c => { c with wait := none }
      match s0.rewait x with
      | none => s0
      | some (s', w') => s'.enter x (if w'.kind = kind then { w' with since := w.since } else w')

/-- Performs a wait whose bundle then issues: ICINV and TLBINV. -/
def State.grant (s : State) (kind x : Nat) : State :=
  s.upCtx x fun c =>
    if c.running ∧ (c.wait.any fun w => w.kind == kind) then { c with wait := none, granted := some kind } else c

/-- Raises a trap that belongs to no issue in context `x`, with its gang if it runs in one (05 R108). -/
def State.raise (s : State) (x : Nat) (t : Trap) : State :=
  (s.trapIn x t).draw

/-- PHWAIT_END: the wait of a PHWAIT, or the wait half of a PHNEXT, ends (12 R276). -/
def execPhwaitEnd (x : Nat) (s : State) : Host.Outcome State Fault Refusal :=
  .next <|
    match (s.ctx x).phnext with
    | none => s.endWait 1 x
    | some (h, p, tpc) =>
      if !(s.ctx x).running then s
      else
        let s0 := s.upCtx x fun c => { c with phnext := none, wait := none }
        match s.phSee x (s.ctx x) h with
        | .held f => s0.raise x ⟨f.cause, tpc, f.info, f.unit⟩
        | .broken w => s0.raise x ⟨.phaserBroken, tpc, w, 0⟩
        | .done => s0.phDone x h p
        | .wait _ => s

/-- PHSIG_HOLD_END: the object has advanced far enough for the held signal (12 R275). -/
def execPhsigHoldEnd (x : Nat) (s : State) : Host.Outcome State Fault Refusal := .next (s.endWait 2 x)

/-- FE_WAIT_END: the wait set is full (09 R184). -/
def execFeWaitEnd (x : Nat) (s : State) : Host.Outcome State Fault Refusal := .next (s.endWait 3 x)

/-- COPY_ENTRY_FREE: the copy queue has room for the bundle's command (11 R238). -/
def execCopyEntryFree (x : Nat) (s : State) : Host.Outcome State Fault Refusal := .next (s.endWait 4 x)

/-- RINGPUSH_END: the ring has a free slot (10 R234). -/
def execRingpushEnd (x : Nat) (s : State) : Host.Outcome State Fault Refusal := .next (s.endWait 5 x)

/-- MATRIX_QUEUE_ROOM: fewer than three commands of the context are incomplete (10 R230). -/
def execMatrixQueueRoom (x : Nat) (s : State) : Host.Outcome State Fault Refusal := .next (s.endWait 6 x)

/-- TILE_CLAIM_GRANT: the other context has released the tile claim (10 R214). -/
def execTileClaimGrant (x : Nat) (s : State) : Host.Outcome State Fault Refusal := .next (s.endWait 7 x)

/-- MXWAIT_END: the operations that MXWAIT waits for have completed (10 R231). -/
def execMxwaitEnd (x : Nat) (s : State) : Host.Outcome State Fault Refusal := .next (s.endWait 8 x)

/-- FENCE_COMPLETE: every earlier engine command of the context has completed (12 R279). -/
def execFenceComplete (x : Nat) (s : State) : Host.Outcome State Fault Refusal := .next (s.endWait 12 x)

/-- WAITEV_END: one of WAITEV's events holds (16 R371). -/
def execWaitevEnd (x : Nat) (s : State) : Host.Outcome State Fault Refusal := .next (s.endWait 13 x)

/-- TABLE_UNPIN_END: no command uses the table any more (10 R223). -/
def execTableUnpinEnd (x : Nat) (s : State) : Host.Outcome State Fault Refusal := .next (s.endWait 14 x)

/-- ICINV_COMPLETE: the invalidation has been performed: the bundle issues (04 R88). -/
def execIcinvComplete (x : Nat) (s : State) : Host.Outcome State Fault Refusal := .next (s.grant 9 x)

/-- TLBINV_COMPLETE (16 R373). -/
def execTlbinvComplete (x : Nat) (s : State) : Host.Outcome State Fault Refusal := .next (s.grant 15 x)

/-! ## Watchdogs -/

/-- Cycles that a wait has lasted. -/
def Ctx.waited (c : Ctx) (w : Wait) : Nat := (c.cycle.setWidth 32 - w.since).toNat

/-- FE_WATCHDOG: a full-empty wait has lasted FEWDOG cycles (09 R185). -/
def execFeWatchdog (x : Nat) (s : State) : Host.Outcome State Fault Refusal :=
  .next <|
    let c := s.ctx x
    match c.wait with
    | none => s
    | some w =>
      if w.kind ≠ 3 ∨ !c.running ∨ c.fewdog = 0 ∨ c.waited w < c.fewdog.toNat then s
      else match (s.upCtx x fun c => { c with wait := none }).rewait x with
        | some (_, w') => if w'.kind = 3 then s.raise x ⟨.feWatchdog, c.pc, BitVec.ofNat 64 (16 * w'.arg), 0⟩ else s
        | none => s

/-- WAIT_TIMEOUT: a wait of another kind than 3, 11 and 13 has lasted WAITDOG cycles (16 R368). -/
def execWaitTimeout (x : Nat) (s : State) : Host.Outcome State Fault Refusal :=
  .next <|
    let c := s.ctx x
    match c.wait with
    | none => s
    | some w =>
      if w.kind = 3 ∨ w.kind = 11 ∨ w.kind = 13 ∨ !c.running ∨ c.waitdog = 0 ∨ c.waited w < c.waitdog.toNat then s
      else (s.upCtx x fun c => { c with phnext := none }).raise x ⟨.waitTimeout, c.phnext.elim c.pc (·.2.2), w.word, 0⟩

/-! ## REJN (05 R111) -/

/-- The contexts of a group that a gang's members hold and have not retired from: primaries only in CHECK mode. -/
def State.rejoiners (s : State) (g : Nat) : List Nat :=
  ((List.range 4).map fun j => 8 * g + 2 * j).filter fun y =>
    let c := s.ctx y
    (c.occ.any fun o => o.st != .retired) && c.ganged && !c.gchk

/-- The member runs decoupled and waits in REJN; in CHECK mode its checker has issued everything before it. -/
def State.arrivedAt (s : State) (y : Nat) : Bool :=
  let c := s.ctx y
  c.running && c.gdec && c.arrived && (c.wait.any fun w => w.kind == 10) && (c.gmode != 2 || ((c.stream.take 2).all fun e => e.2.1.isEmpty))

/-- Issues the REJN bundle of a member, and of its checker; `none` when it waits, traps or is not ready. -/
def State.issueRejn (s : State) (y : Nat) : Option State :=
  let s := s.upCtx y fun c => { c with wait := none, granted := some 10 }
  match s.part true y with
  | (s1, .bundle _ b a n) =>
    if !(b.items.all (s1.ctx y).clearOf) then none
    else match tryMember true (bundleEffs b.items) (s1.latch y b.words n) y with
      | .done s2 none =>
        if (s2.ctx y).gmode = 2 ∧ (s2.ctx (y + 2)).running then
          if !(b.items.all (s2.ctx (y + 2)).clearOf) then none
          else match tryMember false (bundleEffs b.items) ((s2.latch (y + 2) b.words n).upCtx (y + 2) fun c => { c with pc := a }) (y + 2) with
            | .done s3 none => some s3
            | _ => none
        else some s2
      | _ => none
  | _ => none

/-- Issues the REJN bundles of several members. -/
def State.issueRejns : List Nat → State → Option State
  | [], s => some s
  | y :: ys, s => (s.issueRejn y).bind (State.issueRejns ys)

/-- Joins the members of group `g` behind its lead. -/
def State.rejoin (s : State) (g : Nat) : State :=
  let l := s.ctx (8 * g)
  ((List.range 4).map fun j => 8 * g + 2 * j).foldl (fun s y =>
    s.upCtx y fun c =>
      if c.running && c.ganged then { c with gdec := false, stream := [], pc := l.pc, loops := l.loops, fbuf := if y = 8 * g then c.fbuf else [] }
      else c) s

/-- REJN_COMPLETE: every member of the gang in group `g` has raised its arrival or has retired. If the lead has retired the others
go on decoupled, else broadcast resumes from it. -/
def execRejnComplete (g : Nat) (s : State) : Host.Outcome State Fault Refusal :=
  .next <|
    let us := s.rejoiners g
    if us.isEmpty ∨ !(us.all s.arrivedAt) then s
    else if us.head? ≠ some (8 * g) then us.foldl (fun s y => s.grant 10 y) s
    else match State.issueRejns us s with
      | some s' => ((s'.delivers us).rejoin g).draw
      | none => s

/-! ## Translation (09 R194, R197; 11 R249; 17 R384) -/

/-- A context of the core, or a command of its engine, runs in the address space. -/
def State.walksFor (s : State) (k asid : Nat) : Bool :=
  [2 * k, 2 * k + 1].any fun x => (s.ctx x).occ.isSome && s.asidOf x == asid

/-- TRANSLATION_WALK_END: a walk for core `k` ends; one that succeeds fills the L2 TLB of the die and the core's L1 TLB. -/
def execTranslationWalkEnd (core : Nat) (asid : Fin 64) (va : Addr) (s : State) : Host.Outcome State Fault Refusal :=
  .next <|
    if s.walksFor core asid then (s.lookup core asid (s.sys.worldQueue.get false asid) va.toNat).1 else s

/-- Contexts whose access is parked on a page. -/
def State.parkedOn (s : State) (asid : Nat) (page : W32) : List Nat :=
  (s.ctxs.filter fun e => decide (e.1 < 768) && (e.2.wait.any fun w => w.kind == 11 && w.page == page) && s.asidOf e.1 == asid).map (·.1)

/-- Commands parked on a page: core and number. -/
def State.copiesOn (s : State) (asid : Nat) (page : W32) : List (Nat × Copy) :=
  s.cores.flatMap fun e => (e.2.copies.filter fun c => c.parked && c.page == page && s.asidOf c.ctx == asid).map fun c => (e.1, c)

/-- The page is answered. -/
def State.unpark (s : State) (asid : Nat) (page : W32) : State :=
  s.upSys fun y => { y with parked := y.parked.filter fun p => !(p.asid == asid && p.page == page) }

/-- The page is parked. -/
def State.isParked (s : State) (asid : Nat) (page : W32) : Bool := s.sys.parked.any fun p => p.asid == asid && p.page == page

/-- PFANS with RETRY: every access parked on the page walks again. -/
def execPfansRetry (asid : Fin 64) (page : W32) (s : State) : Host.Outcome State Fault Refusal :=
  .next <|
    let s := s.barAccess
    if !s.isParked asid page then s
    else
      let xs := s.parkedOn asid page
      let cs := s.copiesOn asid page
      let s := (s.unpark asid page).upCtxs (fun c => { c with wait := none }) xs
      cs.foldl (fun s e => s.upCopy e.1 e.2.id fun c => { c with parked := false }) s

/-- The host fails the fetch of a transfer's target: the transferring bundle completes (04 R70). One that a fault of its own stops does
not. -/
def State.failTarget (s : State) (x : Nat) : State :=
  let on := s.sys.sysmode
  let t := (s.upCtx x fun c => { c with wait := none }).upSys fun y => { y with sysmode := y.sysmode &&& ~~~1 }
  match t.part (t.fetches x) x with
  | (t, .bundle own b a n) =>
    match tryMember own (bundleEffs b.items) ((t.latch x b.words n).upCtx x fun c => { c with pc := a }) x with
    | .done t _ => t.upSys fun y => { y with sysmode := on }
    | _ => s
  | _ => s

/-- The record of a parked command that the host fails: at the address where it meets the page again. -/
def State.failRec (s : State) (k : Nat) (c : Copy) : FaultRec :=
  let c' := { c with parked := false }
  let t := (s.upCopy k c.id fun _ => c').upSys fun y => { y with pf := { y.pf with en := false }, parked := [] }
  match ((t.copyRun c' c.len).copyId k c.id).bind (·.fault) with
  | some f => if bf f.info 16 32 = c.page.toNat then f else c.recOf accHostFail (c.page.toNat * 65536)
  | none => c.recOf accHostFail (c.page.toNat * 65536)

/-- PFANS with FAIL: XLATE with kind HOSTFAIL, and a command meets its fault. -/
def execPfansFail (asid : Fin 64) (page : W32) (s : State) : Host.Outcome State Fault Refusal :=
  .next <|
    let s := s.barAccess
    if !s.isParked asid page then s
    else
      let xs := s.parkedOn asid page
      let cs := (s.copiesOn asid page).map fun e => (e.1, e.2, s.failRec e.1 e.2)
      let s := s.unpark asid page
      let s := cs.foldl (fun s e => s.upCopy e.1 e.2.1.id fun c => { c with parked := false, fault := c.fault.or (some e.2.2) }) s
      xs.foldl (fun s x =>
        match (s.ctx x).wait with
        | some w =>
          if w.kind ≠ 11 then s
          else (if w.tpc = (s.ctx x).pc then s else s.failTarget x).raise x ⟨.xlate, w.tpc, w.info, 0⟩
        | none => s) s

end Sys2Proof.Machine
end

