-- ==== Sys2Proof/Machine/Errors.lean ====
section
/-! DEFINITION. Fills ahead, the comparison of commit signatures, soft errors and quarantine, poisoned write-backs, and the
services of the Zenith controller (04 R67, R68; 05 R107; 16 R374 to R377; 17 R385, R388, R389, R392). -/

namespace Sys2Proof.Machine

/-! ## Fills (04 R67, R68) -/

/-- ICACHE_FILL: the granules `gs` of a line are read; once all eight are there the line is installed. A fill of poisoned bytes
brings nothing. -/
def execIcacheFill (core line : Nat) (gs : BitVec 8) (s : State) : Host.Outcome State Fault Refusal :=
  .next <|
    let k := s.core core
    if (k.icache.get none line).isSome ∨ (s.poisonAt (128 * line) 128).isSome then s
    else
      let got := k.ifill.get [] line
      let new := (List.range 8).filterMap fun i =>
        if gs.getLsbD i && !(got.any fun e => e.1 == i) then some (i, s.rdGran (8 * line + i)) else none
      let got := got ++ new
      if got.length = 8 then
        let s := s.upCore core fun c => { c with ifill := c.ifill.put line got }
        s.upCore core fun c => c.icPut (s.icRoom core) line (s.fillLine core line)
      else s.upCore core fun c => { c with ifill := c.ifill.set [] line got }

/-- The packet that the buffer takes in next: the one after the last, within three packets after the current one. -/
def Ctx.nextPacket (c : Ctx) : Option Nat :=
  let cur := c.pc.toNat / 32 * 32
  match c.fbuf.getLast? with
  | none => some cur
  | some l => if l.va.toNat + 32 ≤ cur + 96 ∧ l.va.toNat + 32 < 2 ^ 48 then some (l.va.toNat + 32) else none

/-- FETCH_BUFFER_FILL: the buffer fetches ahead; a fetch that faults brings nothing (04 R66, R68). -/
def execFetchBufferFill (x : Nat) (s : State) : Host.Outcome State Fault Refusal :=
  .next <|
    if !(s.ctx x).running || !s.fetches x then s
    else match (s.ctx x).nextPacket with
      | some pk => (s.packet x pk).1
      | none => s

/-! ## Quarantine (16 R375) -/

/-- Unit ids. -/
def unitCore (k : Nat) : Nat := 0x1000 + k
def unitSlice (n : Nat) : Nat := 0x3000 + n
def unitStack (n : Nat) : Nat := 0x4000 + n
def unitGroup (n : Nat) : Nat := 0x2000 + n
def unitOrrery (n : Nat) : Nat := 0x5000 + n
def unitMeridian (n : Nat) : Nat := 0x6000 + n
def unitPort (n : Nat) : Nat := 0x7000 + n

/-- A quarantined slice stops holding data: its lines lose their writer tags, but for poisoned ones, whose write-back is charged
through the tag. -/
def State.dropSlice (s : State) (n : Nat) : State :=
  { s with lines := s.lines.map fun e =>
      (e.1, if homeSlice (128 * e.1) = n ∧ e.2.poison.isNone then { e.2 with tag := none, zero := false } else e.2) }

/-- Host-assisted mode of quarantine decisions (17 R383). -/
def State.hostQuar (s : State) : Bool := s.sys.sysmode.getLsbD 3

/-- Quarantines a unit, in the mode that stands when the error is detected (17 R383); `pair` marks a core of a CHECK_MISMATCH pair. -/
def State.quarantine (s : State) (u : Nat) (pair : Bool) : State :=
  let s := s.upSys fun y => { y with
    quar := if s.quarantined u then y.quar.map fun e => if e.unit.toNat = u then { e with pair := e.pair || pair } else e
            else y.quar ++ [⟨BitVec.ofNat 16 u, pair, s.hostQuar⟩] }
  if u / 4096 = 3 then s.dropSlice (u % 4096) else s

/-! ## Commit signatures (05 R107; 16 R377) -/

/-- CHECK_MISMATCH: both cores stop and are quarantined, and the kernel is killed. -/
def State.mismatch (s : State) (x : Nat) (a : Addr) : State :=
  let k := coreOf x
  match (s.ctx x).occ with
  | none => s
  | some o =>
    let e : EndInfo := ⟨.fault, some .checkMismatch, a, Config.freeW64 s.nfree (0x600000 + x), o.n, BitVec.ofNat 16 (unitCore k), false, true⟩
    let s := ((s.quarantine (unitCore k) true).quarantine (unitCore (k + 1)) true).upCtxs
      (fun c => if c.running then c.stop else c) [x, x + 2]
    (s.kill o.kid e).draw

/-- The oldest signatures of the pair whose primary is in context `x` are compared, once the last result of that bundle has landed on both
cores and its checker has issued it `age` cycles ago. -/
def State.compare (s : State) (x age : Nat) : State :=
  if (s.ctx x).gmode ≠ 2 ∨ (s.ctx x).gchk then s
  else match (s.ctx x).sigs, (s.ctx (x + 2)).sigs with
    | p :: ps, q :: qs =>
      if !p.whole || !q.whole || decide (q.age < age) then s
      else if p.word = q.word then (s.upCtx x fun c => { c with sigs := ps }).upCtx (x + 2) fun c => { c with sigs := qs }
      else s.mismatch x p.pc
    | _, _ => s

/-- CHECK_SIGNATURE_COMPARE: a comparison of the pair whose primary is `core`, before its bound. -/
def execCheckSignatureCompare (core : Nat) (s : State) : Host.Outcome State Fault Refusal := .next (s.compare (2 * core) 0)

/-- The comparisons whose 20 cycles have passed are made (05 R107; 16 R378). -/
def State.compareDue (s : State) (x : Nat) : State := (s.ctx x).sigs.foldl (fun s _ => s.compare x 20) s

/-! ## Soft errors (16 R374, R376) -/

/-- The operation that the array of group `g` runs fails with POISON of the group (10 R227). -/
def State.arrayPoison (s : State) (g : Nat) : State :=
  match s.servedOp g with
  | some (x, m, _) => if m.started then (s.mxFail x { s.mxPoison (coreOf x) with unit := BitVec.ofNat 16 (unitGroup g) }).draw else s
  | none => s

/-- ECC_ERROR: a single-bit error is corrected; a double-bit error drops a clean copy, else poisons what it covers. An L2 TLB belongs to no
unit that R375 numbers. DEDUCED, log entry 49. -/
def execEccError (e : EccSite) (s : State) : Host.Outcome State Fault Refusal :=
  .next <|
    match e with
    | .single => s
    | .icache k g => (s.upCore k fun c => c.icDrop (· == g / 8)).quarantine (unitCore k) false
    | .l1 k g => (s.upCore k fun c => { c with l1 := c.l1.del (g / 8) }).quarantine (unitCore k) false
    | .tlb k =>
      let j := Config.freeNat s.nfree (0x610000 + k)
      ((s.upCore k fun c => { c with tlb := c.tlb.eraseIdx (j % max 1 c.tlb.length) }).quarantine (unitCore k) false).draw
    | .l2tlb d =>
      let t := s.l2tlb.get [] d
      ({ s with l2tlb := s.l2tlb.put d (t.eraseIdx (Config.freeNat s.nfree (0x611000 + d) % max 1 t.length)) }).draw
    | .scaleCache g => (s.setGroup g { s.group g with scache := [] }).quarantine (unitGroup g) false
    | .array g => (s.arrayPoison g).quarantine (unitGroup g) false
    | .staging d t =>
      (s.collFault d t (accPoison (BitVec.ofNat 16 (unitOrrery d))) 0).quarantine (unitOrrery d) false
    | .meridian d => s.quarantine (unitMeridian d) false
    | .port p => s.quarantine (unitPort p) false
    | .cleanLine l => s.quarantine (unitSlice (homeSlice (128 * l))) false
    | .scratch k g => (s.upCore k fun c => { c with spPoison := if c.spPoison.contains g then c.spPoison else g :: c.spPoison }).quarantine
        (unitCore k) false
    | .tile k g => (s.upCore k fun c => { c with tilePoison := if c.tilePoison.contains g then c.tilePoison else g :: c.tilePoison }).quarantine
        (unitCore k) false
    | .dirtyLine l =>
      let r := s.lines.get LineRec.init l
      let u := unitSlice (homeSlice (128 * l))
      if r.tag.isNone then s
      else ({ s with lines := s.lines.put l { r with poison := some (BitVec.ofNat 16 u) } }).quarantine u false
    | .hbmLine l =>
      let r := s.lines.get LineRec.init l
      let u := unitStack (nb (128 * l) 36 3)
      if r.tag.isSome then s
      else ({ s with lines := s.lines.put l { r with poison := some (BitVec.ofNat 16 u) } }).quarantine u false

/-- WRITEBACK_POISON: a poisoned dirty line is written back, poisoned: the occupant of the context of its writer tag is killed, or
an event record is posted, whose TYPE the spec does not give. -/
def execWritebackPoison (line : Nat) (s : State) : Host.Outcome State Fault Refusal :=
  .next <|
    let r := s.lines.get LineRec.init line
    match (if r.back.isNone && r.poison.isSome then r.leave else r).back with
    | some t =>
      let s := { s with lines := s.lines.set LineRec.init line { (if r.back.isNone then r.leave else r) with back := none } }
      match (if t.toNat < 768 then (s.ctx t.toNat).occ else none) with
      | some o =>
        (s.kill o.kid ⟨.fault, some .poison, BitVec.setWidth 48 (Config.freeW64 s.nfree (0x620000 + line)),
          Config.freeW64 s.nfree (0x630000 + line), o.n, BitVec.ofNat 16 (unitSlice (homeSlice (128 * line))), true, false⟩).draw
      | none => (s.event (s.ev (Config.freeNat s.nfree 0x640000 % 65536))).draw
    | none => s

/-! ## Zenith services (17 R389) -/

/-- The first pending request of context `x` for service `svc`: its place, the destination that waits for it, and its argument. -/
def Ctx.request? (c : Ctx) (svc : Nat) : Option (Nat × Pend × W64) :=
  (c.pends.zipIdx.findSome? fun e => match e.1.what with
    | .smc v a => if v.toNat = svc then some (e.2, e.1, a) else none
    | _ => none)

/-- Performs service `svc` for the request of context `x`, or refuses it to a kernel of its world, and lands the answer. -/
def State.serve (s : State) (x svc : Nat) (f : State → W64 → State × W64) : State :=
  if !(s.ctx x).running then s
  else match (s.ctx x).request? svc with
    | none => s
    | some (j, p, a) =>
      let (s, v) := (if refusedSvc (s.worldOf x) (BitVec.ofNat 64 svc) then fun s _ => (s, -1) else f) (s.upCtx x fun c => c.unpend j) a
      (s.smcAnswer x p.dst v p.alone).draw

/-- The boot entry `i`. -/
def State.bootEnt (s : State) (i : Nat) : BootEnt := s.sys.boot.get BootEnt.empty i

/-- Sets boot entry `i`. -/
def State.setBoot (s : State) (i : Nat) (e : BootEnt) : State := s.upSys fun y => { y with boot := y.boot.put i e }

/-- The 8 bytes of a boot entry (17 R390). -/
def BootEnt.bytes (e : BootEnt) : List Byte :=
  natLe 4 (e.id.toNat + 2 ^ 8 * b2n e.opt + 2 ^ 9 * b2n e.alt + 2 ^ 10 * b2n e.failed + 2 ^ 11 * b2n e.started + 2 ^ 12 * b2n e.altused +
    2 ^ 16 * e.failcnt.toNat) ++ natLe 4 e.err.toNat

/-- Physical address of a 4 KiB part of the buffer of ATTEST, if the service may write there. -/
def State.attestPa (s : State) (x va : Nat) : Option Nat :=
  if 2 ^ 48 ≤ va then none
  else match s.walk (s.asidOf x) (s.worldOf x) va with
    | .error _ => none
    | .ok t => match s.permit (s.worldOf x) .write t va with
      | .error _ => none
      | .ok t => if t.cell && !t.raw then none else some (t.paOf va)

/-- Bytes of the device's own that the spec gives no value. -/
def ownBytes (n key m : Nat) : List Byte := (List.range m).map fun j => Config.freeByte n (key + j)

/-- The quote (17 R392). -/
def State.quote (s : State) (nonce : List Byte) : List Byte :=
  natLe 4 0x01515A44 ++ natLe 2 s.sys.nodeid.toNat ++ List.replicate 10 0 ++ ownBytes 0 0x700000 16 ++ List.replicate 32 0 ++
    ((List.range 1024).map fun i => s.sys.mreg.get 0 i) ++ nonce ++ ((List.range 64).flatMap fun i => (s.bootEnt i).bytes) ++
    ownBytes s.nfree 0x710000 3309 ++ List.replicate 3219 0

/-- ZENITH_ATTEST for the request of context `j`. -/
def execZenithAttest (j : Nat) (s : State) : Host.Outcome State Fault Refusal :=
  .next <| s.serve j 1 fun s a =>
    if a.toNat % 4096 ≠ 0 then (s, -1)
    else match s.attestPa j a.toNat, s.attestPa j (a.toNat + 4096) with
      | some p, some q =>
        let bs := s.quote (s.rd p 64)
        ((s.wr tagDevice p (bs.take 4096)).wr tagDevice q (bs.drop 4096), 0)
      | _, _ => (s, -1)

/-- ZENITH_BOOTINFO. -/
def execZenithBootinfo (j : Nat) (s : State) : Host.Outcome State Fault Refusal :=
  .next <| s.serve j 2 fun s _ => (s, maskOfFn fun i => (s.bootEnt i).failed)

/-- A core is in use: one of its contexts is occupied. -/
def State.coreBusy (s : State) (k : Nat) : Bool := (s.ctx (2 * k)).occ.isSome || (s.ctx (2 * k + 1)).occ.isSome

/-- A carve-out is cleared to zero: its bytes, and what the last-level cache held of it. -/
def State.clearCarve (s : State) (i : Nat) : State :=
  let inIt := fun (b n : Nat) => decide (i * 2 ^ 26 ≤ b * n) && decide (b * n < (i + 1) * 2 ^ 26)
  { s with mem := s.mem.filter fun e => !inIt e.1 1, lines := s.lines.filter fun e => !inIt e.1 128 }

/-- SETWORLD of unit `i` of kind `k` (17 R388). -/
def State.setWorld (s : State) (k i : Nat) (w : Bool) : State × W64 :=
  match k with
  | 0 =>
    if 8192 ≤ i then (s, -1)
    else
      let s := if s.sys.worldCarve.get false i && !w then s.clearCarve i else s
      (s.upSys fun y => { y with worldCarve := y.worldCarve.set false i w }, 0)
  | 1 =>
    if 384 ≤ i ∨ s.coreBusy i then (s, -1) else (s.upSys fun y => { y with worldCore := y.worldCore.set false i w }, 0)
  | 2 => if 16 ≤ i then (s, -1) else (s.upSys fun y => { y with worldPort := y.worldPort.set false i w }, 0)
  | 3 => if 4 ≤ i then (s, -1) else (s.upSys fun y => { y with worldOrrery := y.worldOrrery.set false i w }, 0)
  | 4 => if 4 ≤ i then (s, -1) else (s.upSys fun y => { y with worldMeridian := y.worldMeridian.set false i w }, 0)
  | 5 =>
    if 64 ≤ i ∨ (s.queue i).en ∨ (s.kids.any fun kid => (s.kernel kid).any fun v => v.q == i) then (s, -1)
    else (s.upSys fun y => { y with worldQueue := y.worldQueue.set false i w }, 0)
  | _ => (s, -1)

/-- ZENITH_SETWORLD. -/
def execZenithSetworld (j : Nat) (s : State) : Host.Outcome State Fault Refusal :=
  .next <| s.serve j 3 fun s a => s.setWorld (bf a 16 4) (bf a 0 16) (bitOf a 20)

/-- ZENITH_BOOTCLR. -/
def execZenithBootclr (j : Nat) (s : State) : Host.Outcome State Fault Refusal :=
  .next <| s.serve j 4 fun s a =>
    if 64 ≤ a.toNat then (s, -1)
    else (s.setBoot a.toNat { s.bootEnt a.toNat with failed := false, started := false }, 0)

/-- A unit holds placed work. -/
def State.unitBusy (s : State) (u : Nat) : Bool :=
  match u / 4096 with
  | 1 => s.coreBusy (u % 4096)
  | 2 => (List.range 4).any fun j => s.coreBusy (4 * (u % 4096) + j)
  | 5 => !((s.orreries.get Orrery.init (u % 4096)).tickets.isEmpty)
  | _ => false

/-- Diagnostics of a unit have passed: a quarantine detected in hardware mode is lifted; of one detected in host-assisted mode a
CHECK_MISMATCH core becomes one that QLIFT may lift. DEDUCED, log entry 49. -/
def State.diagPassed (s : State) (u : Nat) : State :=
  s.upSys fun y => { y with
    quar := y.quar.filterMap fun e => if e.unit.toNat ≠ u then some e else if e.host then some { e with pair := false } else none }

/-- ZENITH_DIAG: `pass` is what the diagnostics find. -/
def execZenithDiag (j : Nat) (pass : Bool) (s : State) : Host.Outcome State Fault Refusal :=
  .next <| s.serve j 5 fun s a =>
    if s.unitBusy a.toNat then (s, -1)
    else if pass then (s.diagPassed a.toNat, 0) else (s, 1)

/-- ZENITH_AUTO_DIAG: the controller runs diagnostics on a unit whose quarantine was detected in hardware mode and that holds no placed
work. -/
def execZenithAutoDiag (u : BitVec 16) (pass : Bool) (s : State) : Host.Outcome State Fault Refusal :=
  .next (if !(s.sys.quar.any fun e => e.unit == u && !e.host) || s.unitBusy u.toNat || !pass then s else s.diagPassed u.toNat)

end Sys2Proof.Machine
end

