-- ==== Sys2Proof/Machine/Keccak.lean ====
section
/-! DEFINITION. SHAKE256, by which the Zenith controller extends its measurement registers (17 R391). The spec names the function and does
not lay it down. PRESUMED, log entry 69: as FIPS 202 defines it. -/

namespace Sys2Proof.Machine

/-- Rotation offsets of the 25 lanes, lane (x, y) at index x + 5y. -/
def keccakRot : List Nat :=
  [0, 1, 62, 28, 27, 36, 44, 6, 55, 20, 3, 10, 43, 25, 39, 41, 45, 15, 21, 8, 18, 2, 61, 56, 14]

/-- Constants of the 24 rounds. -/
def keccakRC : List W64 :=
  [0x0000000000000001, 0x0000000000008082, 0x800000000000808A, 0x8000000080008000, 0x000000000000808B, 0x0000000080000001,
   0x8000000080008081, 0x8000000000008009, 0x000000000000008A, 0x0000000000000088, 0x0000000080008009, 0x000000008000000A] ++
  [0x000000008000808B, 0x800000000000008B, 0x8000000000008089, 0x8000000000008003, 0x8000000000008002, 0x8000000000000080,
   0x000000000000800A, 0x800000008000000A, 0x8000000080008081, 0x8000000000008080, 0x0000000080000001, 0x8000000080008008]

/-- One round of the permutation. -/
def keccakRound (a : List W64) (rc : W64) : List W64 :=
  let col := (List.range 5).map fun x => (List.range 5).foldl (fun v y => v ^^^ a.getD (x + 5 * y) 0) 0
  let mix := (List.range 5).map fun x => col.getD ((x + 4) % 5) 0 ^^^ (col.getD ((x + 1) % 5) 0).rotateLeft 1
  let b := (List.range 25).map fun j =>
    let k := (3 * (j / 5) + j) % 5 + 5 * (j % 5)
    (a.getD k 0 ^^^ mix.getD (k % 5) 0).rotateLeft (keccakRot.getD k 0)
  (List.range 25).map fun j =>
    let at_ := fun d => b.getD ((j + d) % 5 + 5 * (j / 5)) 0
    at_ 0 ^^^ (~~~(at_ 1) &&& at_ 2) ^^^ (if j = 0 then rc else 0)

/-- The permutation on 25 lanes. -/
def keccakF (a : List W64) : List W64 := keccakRC.foldl keccakRound a

/-- A block of 136 bytes enters the state, which is permuted. -/
def keccakAbsorb (a : List W64) (bs : List Byte) : List W64 :=
  keccakF (a.zipIdx.map fun e => e.1 ^^^ BitVec.ofNat 64 (leNat ((bs.drop (8 * e.2)).take 8)))

/-- The blocks of a message in turn. -/
def keccakBlocks (bs : List Byte) : Nat → List W64 → List W64
  | 0, a => a
  | n + 1, a => keccakBlocks (bs.drop 136) n (keccakAbsorb a (bs.take 136))

/-- The first 64 bytes of SHAKE256 of a message. -/
def shake256 (msg : List Byte) : List Byte :=
  let n := msg.length / 136 + 1
  let pad := (0x1F :: List.replicate (136 * n - 1 - msg.length) 0).zipIdx.map fun e =>
    if msg.length + e.2 + 1 = 136 * n then e.1 ||| 0x80 else e.1
  ((keccakBlocks (msg ++ pad) n (List.replicate 25 0)).take 8).flatMap fun w => natLe 8 w.toNat

end Sys2Proof.Machine
end

