-- ==== Sys2Proof/Machine/HostOps.lean ====
section
/-! DEFINITION. What the host does through the BARs: registers, queues, memory; power states; boot; the hold-off of completion
interrupts (03 R44, R45, R47; 09 R187, R188; 12 R263 to R265; 13 R292, R297, R298, R303, R313, R317; 14 R336, R340; 17 R381 to R391). -/

namespace Sys2Proof.Machine

/-! ## Reading registers (17 R382) -/

/-- A number whose bit `i` is `f i`, for `n` bits. -/
def bitsOf (n : Nat) (f : Nat → Bool) : Nat := (List.range n).foldl (fun a i => a + b2n (f i) * 2 ^ i) 0

/-- QCFG (03 R45). -/
def Queue.cfg (q : Queue) : Nat := q.log2n.toNat + 2 ^ 5 * q.qprio.toNat + 2 ^ 8 * b2n q.src + 2 ^ 9 * b2n q.en

/-- Cell `i` of a queue's register block (03 R44). -/
def Queue.cell (q : Queue) (i : Nat) : Nat :=
  match i with
  | 0 => q.base.toNat
  | 1 => q.cfg + 2 ^ 32 * q.tail.toNat
  | 2 => q.head.toNat + 2 ^ 32 * q.err.toNat
  | 3 => q.errptr.toNat
  | 4 => q.save.toNat
  | _ => 0

/-- The two words of an export window (09 R187). -/
def Export.cell (e : Export) (i : Nat) : Nat :=
  if i = 0 then b2n e.v + 2 * b2n e.wr + 4 * b2n e.add + 8 * b2n e.rd + 16 * e.asid + 2 ^ 16 * e.base.toNat
  else 2 ^ 16 * e.fin.toNat

/-- An object window (12 R265). -/
def ObjWin.cell (w : ObjWin) : Nat := w.first + 2 ^ 16 * w.last + 2 ^ 31 * b2n w.v

/-- The configuration of a record ring. -/
def RecRing.cfg (r : RecRing) : Nat := r.log2n.toNat + 2 ^ 5 * b2n r.en + 2 ^ 16 * r.vec.toNat

/-- Cell `i` of a record ring's registers (14 R340). -/
def RecRing.cell (r : RecRing) (i : Nat) : Nat :=
  match i with
  | 0 => r.base.toNat
  | 1 => r.cfg + 2 ^ 32 * r.tail.toNat
  | 2 => r.head.toNat
  | _ => 0

/-- The words of a phaser object (12 R263). -/
def Phaser.cell (p : Phaser) (i : Nat) : Nat :=
  if i = 0 then p.phase.toNat + 2 ^ 32 * (p.anon % 65536) + 2 ^ 48 * (p.nsig % 65536)
  else p.sc0 % 65536 + 2 ^ 16 * (p.sc1 % 65536) + 2 ^ 32 * (p.acnt % 2 ^ 31) + 2 ^ 63 * b2n p.broken

/-- World bits from bit 64 · `i` on (17 R388). -/
def worldCell (m : SMap Bool) (i : Nat) : Nat := bitsOf 64 fun j => m.get false (64 * i + j)

/-- Cells of the fabric's control registers (13 R298, R303; 14 R336). -/
def State.fabCell (s : State) (o : Nat) : Nat :=
  let f := s.fab
  match o with
  | 0x162000 => b2n f.en + 2 * b2n f.rtPend + 2 ^ 16 * f.portEn.toNat
  | 0x162008 => f.srcCap
  | 0x162018 => f.lerrCrc.toNat + 2 ^ 16 * f.lerrRsv.toNat
  | 0x162020 => b2n f.ephAct + 2 ^ 32 * (s.frame % 2 ^ 32)
  | _ => 0

/-- Cells of the system registers (17 R383 to R390). -/
def State.sysCell (s : State) (o : Nat) : Nat :=
  let y := s.sys
  if 0x170100 ≤ o ∧ o < 0x170118 then y.pf.cell ((o - 0x170100) / 8)
  else match o with
    | 0x170000 => y.sysmode.toNat
    | 0x170200 => y.cintVec.toNat + 2 ^ 16 * y.cintHold.toNat
    | 0x170208 => y.cpend.toNat
    | 0x170308 => y.quar.length
    | 0x170400 => y.ltr.toNat
    | 0x170408 => y.cstate
    | 0x170500 => y.bootst.toNat
    | 0x170600 => y.w2base.toNat
    | 0x171430 => worldCell y.worldPort 0
    | 0x171438 => worldCell y.worldOrrery 0
    | 0x171440 => worldCell y.worldMeridian 0
    | 0x171448 => worldCell y.worldQueue 0
    | _ =>
      if 0x171000 ≤ o ∧ o < 0x171400 then worldCell y.worldCarve ((o - 0x171000) / 8)
      else if 0x171400 ≤ o ∧ o < 0x171430 then worldCell y.worldCore ((o - 0x171400) / 8)
      else 0

/-- Registers that queue `q`'s world bit covers read zero while it is 1 (17 R388). -/
def State.ofQueue (s : State) (q v : Nat) : Nat := if s.sys.worldQueue.get false q then 0 else v

/-- The 8-byte cell of BAR0 at offset `o`. -/
def State.regCell (s : State) (o : Nat) : Nat :=
  let at_ := fun (b n : Nat) => decide (b ≤ o) && decide (o < b + n)
  let two := fun (i : Nat) (f : Nat → W32) => (f i).toNat + 2 ^ 32 * (f (i + 1)).toNat
  if at_ 0x100000 0x1000 then
    let q := (o - 0x100000) / 64
    s.ofQueue q ((s.queue q).cell (o % 64 / 8))
  else if at_ 0x120000 0x200 then s.ofQueue ((o - 0x120000) / 8) (s.sys.roots.get 0 ((o - 0x120000) / 8)).toNat
  else if at_ 0x130000 0x400 then (s.sys.exports.get Export.init ((o - 0x130000) / 16)).cell (o % 16 / 8)
  else if at_ 0x140000 0x200 then s.ofQueue ((o - 0x140000) / 8) (s.sys.objwins.get ObjWin.init ((o - 0x140000) / 8)).cell
  else if at_ 0x160000 0x1000 then two ((o - 0x160000) / 4) fun i => s.fab.reach.get 0 i
  else if at_ 0x161000 0x400 then two ((o - 0x161000) / 4) fun i => s.fab.member.get 0x180000 i
  else if at_ 0x162000 0x1000 then s.fabCell o
  else if at_ 0x164000 0x18 then s.sys.ev.cell ((o - 0x164000) / 8)
  else if at_ 0x170000 0x10000 then s.sysCell o
  else if at_ 0x180000 0x20000 then bf (s.fab.rtA.get 0 ((o - 0x180000) / 16)) (64 * (o % 16 / 8)) 64
  else if at_ 0x1A0000 0x20000 then bf (s.fab.rtS.get 0 ((o - 0x1A0000) / 16)) (64 * (o % 16 / 8)) 64
  else if at_ 0x400000 0x48000 then
    two ((o - 0x400000) % 0x24000 / 4) fun i => s.fab.entry (decide (0x424000 ≤ o)) i
  else if at_ 0x2000000 0x40000 then (s.phaser ((o - 0x2000000) / 16)).cell (o % 16 / 8)
  else 0

/-- Byte `o` of BAR0. -/
def State.regByte (s : State) (o : Nat) : Byte := BitVec.ofNat 8 (s.regCell (o / 8 * 8) / 2 ^ (8 * (o % 8)))

/-- The answer of a host read. -/
def State.answer (s : State) (bs : List Byte) (err : Bool) : State := s.upSys fun y => { y with hostRead := bs, hostErr := err }

/-- BAR0_REGISTER_READ: the value as it stood when the read arrived; any BAR access returns the device to C0. -/
def execBar0RegisterRead (off n : Nat) (s : State) : Host.Outcome State Fault Refusal :=
  .next (s.barAccess.answer ((List.range n).map fun j => s.regByte (off + j)) false)

/-- PSTATE_READ (17 R387). -/
def execPstateRead (s : State) : Host.Outcome State Fault Refusal := .next (s.barAccess.answer (natLe 4 s.sys.cstate) false)

/-! ## Writing registers that have no row of their own (00 R7, R15) -/

/-- `old` with the bits of `m` from `v`. -/
def merge (old : Nat) (v m : W64) : W64 := (BitVec.ofNat 64 old &&& ~~~m) ||| (v &&& m)

/-- A queue's registers: QBASE, not while EN is 1; QERR by ones; QSAVE (03 R45). -/
def Queue.write (q : Queue) (i : Nat) (v m : W64) : Queue :=
  match i with
  | 0 => if q.en then q else { q with base := (merge q.base.toNat v m).setWidth 48 }
  | 2 => { q with err := q.err &&& ~~~(BitVec.ofNat 4 (bf (v &&& m) 32 4)) }
  | 4 => { q with save := (merge q.save.toNat v m).setWidth 48 }
  | _ => q

/-- An export window. -/
def Export.write (e : Export) (i : Nat) (v m : W64) : Export :=
  let w := merge (e.cell i) v m
  if i = 0 then { e with v := bitOf w 0, wr := bitOf w 1, add := bitOf w 2, rd := bitOf w 3, asid := bf w 4 6, base := BitVec.ofNat 32 (bf w 16 32) }
  else { e with fin := BitVec.ofNat 32 (bf w 16 32) }

/-- A record ring's registers: BASE; LOG2N where legal, EN and VEC; HEAD. -/
def RecRing.write (r : RecRing) (lo i : Nat) (v m : W64) : RecRing :=
  match i with
  | 0 => { r with base := (merge r.base.toNat v m).setWidth 48 }
  | 1 =>
    let w := merge r.cfg v m
    let n := bf w 0 5
    { r with log2n := if lo ≤ n ∧ n ≤ 16 then BitVec.ofNat 5 n else r.log2n, en := bitOf w 5, vec := BitVec.ofNat 16 (bf w 16 16) }
  | 2 => { r with head := BitVec.ofNat 32 (bf (merge r.head.toNat v m) 0 32) }
  | _ => r

/-- A reach entry, not while its port is enabled (13 R292). -/
def State.writeReach (s : State) (i : Nat) (v m : W32) : State :=
  if s.fab.portEn.getLsbD (i / 64) then s
  else s.upFab fun f => { f with reach := f.reach.set 0 i (((f.reach.get 0 i &&& ~~~m) ||| (v &&& m)) &&& 0x800F1FFF) }

/-- Bits of a routing entry that are not reserved (13 R313). -/
def routeMask : BitVec 128 := 0x1FFF1FFF1FFF1FFF0087FFFF

/-- System registers. -/
def State.writeSys (s : State) (o : Nat) (v m : W64) : State :=
  if 0x170100 ≤ o ∧ o < 0x170118 then s.upSys fun y => { y with pf := y.pf.write 4 ((o - 0x170100) / 8) v m }
  else match o with
    | 0x170000 => s.upSys fun y => { y with sysmode := (merge y.sysmode.toNat v m).setWidth 5 }
    | 0x170200 =>
      s.upSys fun y =>
        let w := merge (y.cintVec.toNat + 2 ^ 16 * y.cintHold.toNat) v m
        { y with cintVec := BitVec.ofNat 16 (bf w 0 16), cintHold := BitVec.ofNat 16 (bf w 16 16) }
    | 0x170208 => s.upSys fun y => { y with cpend := y.cpend &&& ~~~(v &&& m) }
    | 0x170600 =>
      s.upSys fun y =>
        let n := 2 ^ (30 + Config.barLog.val)
        { y with w2base := BitVec.ofNat 48 ((merge y.w2base.toNat v m).toNat / n * n) }
    | _ => s

/-- Writes the bits `m` of the 8-byte cell at offset `o`. Cells of registers with rows of their own, and read-only ones, stay. The Zenith
controller writes so the registers of secure queues. -/
def State.writeCell (s : State) (o : Nat) (v m : W64) (zenith : Bool) : State :=
  let at_ := fun (b n : Nat) => decide (b ≤ o) && decide (o < b + n)
  let open_ := fun (q : Nat) => s.queueTakes q zenith
  if at_ 0x100000 0x1000 then
    let q := (o - 0x100000) / 64
    if open_ q then s.setQueue q ((s.queue q).write (o % 64 / 8) v m) else s
  else if at_ 0x120000 0x200 then
    let q := (o - 0x120000) / 8
    if open_ q then s.upSys fun y => { y with roots := y.roots.set 0 q (merge (y.roots.get 0 q).toNat v m &&& 0xFFFFFFFFF001) } else s
  else if at_ 0x140000 0x200 then
    let q := (o - 0x140000) / 8
    let w := merge (s.sys.objwins.get ObjWin.init q).cell v m
    if open_ q then s.upSys fun y => { y with objwins := y.objwins.put q ⟨bf w 0 14, bf w 16 14, bitOf w 31⟩ } else s
  else if zenith then s
  else if at_ 0x130000 0x400 then
    let e := (o - 0x130000) / 16
    s.upSys fun y => { y with exports := y.exports.put e ((y.exports.get Export.init e).write (o % 16 / 8) v m) }
  else if at_ 0x160000 0x1000 then
    let i := (o - 0x160000) / 4
    (s.writeReach i (v.setWidth 32) (m.setWidth 32)).writeReach (i + 1) ((v >>> 32).setWidth 32) ((m >>> 32).setWidth 32)
  else if o = 0x162018 then
    s.upFab fun f => { f with
      lerrCrc := f.lerrCrc &&& ~~~(BitVec.ofNat 16 (bf (v &&& m) 0 16)), lerrRsv := f.lerrRsv &&& ~~~(BitVec.ofNat 16 (bf (v &&& m) 16 16)) }
  else if at_ 0x164000 0x18 then s.upSys fun y => { y with ev := y.ev.write 6 ((o - 0x164000) / 8) v m }
  else if at_ 0x170000 0x10000 then s.writeSys o v m
  else if at_ 0x1A0000 0x20000 then
    if s.fab.rtPend then s
    else
    let n := (o - 0x1A0000) / 16
    let sh := 64 * (o % 16 / 8)
    s.upFab fun f =>
      let e := f.rtS.get 0 n
      { f with rtS := f.rtS.set 0 n (((e &&& ~~~(m.setWidth 128 <<< sh)) ||| ((v &&& m).setWidth 128 <<< sh)) &&& routeMask) }
  else s

/-- Bytes [off, off + n) as a mask of the cell at `o`. -/
def byteMask (o off n : Nat) : W64 := maskOfFn fun i => decide (off ≤ o + i / 8) && decide (o + i / 8 < off + n)

/-- REGISTER_WRITE: a write of `n` bytes, 8 at most, at `off`. DESIGN CHOICE, log entry 51. -/
def execRegisterWrite (r : RegAt) (n : Nat) (v : W64) (s : State) : Host.Outcome State Fault Refusal :=
  .next <|
    let n := min n 8
    let o := r.off / 8 * 8
    let sh := 8 * (r.off % 8)
    let s := (s.regAccess r.zenith).writeCell o (v <<< sh) (byteMask o r.off n) r.zenith
    if 8 < r.off % 8 + n then s.writeCell (o + 8) (v >>> (64 - sh)) (byteMask (o + 8) r.off n) r.zenith else s

/-- QTAIL_WRITE (03 R47, R48). -/
def execQtailWrite (a : QueueAt) (v : W32) (s : State) : Host.Outcome State Fault Refusal :=
  .next <|
    let s := s.regAccess a.zenith
    let k := s.queue a.q
    if !s.queueTakes a.q a.zenith ∨ k.src then s
    else if 2 ^ k.log2n.toNat < (v - k.head).toNat then s.setQueue a.q { k with err := k.err ||| 4 }
    else s.setQueue a.q { k with tail := v }

/-- QCFG_WRITE (03 R45): LOG2N and SRC stay while EN is 1; EN stays 0 on a bad configuration. -/
def execQcfgWrite (a : QueueAt) (v : W32) (s : State) : Host.Outcome State Fault Refusal :=
  .next <|
    let s := s.regAccess a.zenith
    let k := s.queue a.q
    if !s.queueTakes a.q a.zenith then s
    else
      let k1 := { k with
        qprio := BitVec.ofNat 3 (bf v 5 3), log2n := if k.en then k.log2n else BitVec.ofNat 5 (bf v 0 5), src := if k.en then k.src else bitOf v 8 }
      let bad := !(decide (4 ≤ k1.log2n.toNat) && decide (k1.log2n.toNat ≤ 16)) || k1.base.toNat % 64 != 0
      s.setQueue a.q (if bitOf v 9 && bad then { k1 with en := false, err := k1.err ||| 8 } else { k1 with en := bitOf v 9 })

/-! ## BAR2 (17 R381, R388) -/

/-- The physical address of offset `off`, if a request of `n` bytes there is not an Unsupported Request. DESIGN CHOICE, log entry 51. -/
def State.bar2Pa (s : State) (off n : Nat) : Option Nat :=
  let pa := s.sys.w2base.toNat + off
  if 2 ^ (30 + Config.barLog.val) < off + n ∨ 2 ^ 39 < pa + n ∨ s.carveSecure pa ∨ s.carveSecure (pa + n - 1) then none else some pa

/-- HOST_BAR2_WRITE. -/
def execHostBar2Write (off : Nat) (data : List Byte) (s : State) : Host.Outcome State Fault Refusal :=
  .next <|
    let s := s.barAccess
    match s.bar2Pa off data.length with
    | some pa => s.wr tagHost pa data
    | none => s.answer [] true

/-- HOST_BAR2_READ: what a read of poisoned bytes brings is not laid down. -/
def execHostBar2Read (off n : Nat) (s : State) : Host.Outcome State Fault Refusal :=
  .next <|
    let s := s.barAccess
    match s.bar2Pa off n with
    | some pa =>
      if (s.poisonAt pa n).isSome then (s.answer (ownBytes s.nfree 0x720000 n) false).draw else s.answer (s.rd pa n) false
    | none => s.answer [] true

/-! ## Quarantine and completion interrupts (17 R385, R386) -/

/-- QLIFT_WRITE: lifts a quarantine that was detected in host-assisted mode; a CHECK_MISMATCH core stays until its diagnostics have
passed. -/
def execQliftWrite (u : BitVec 16) (s : State) : Host.Outcome State Fault Refusal :=
  .next <|
    let s := s.barAccess
    s.upSys fun y => { y with quar := y.quar.filter fun e => !(e.unit == u && e.host && !e.pair) }

/-- CINT_HOLDOFF_EXPIRY: the interval ends; a kernel that finished in it raises the interrupt, if a CPEND bit is still set, and
that begins another. DEDUCED, log entry 52. -/
def execCintHoldoffExpiry (s : State) : Host.Outcome State Fault Refusal :=
  .next <|
    if !s.sys.cintBusy then s
    else
      let owed := s.sys.cintOwed
      let s := s.upSys fun y => { y with cintBusy := false, cintOwed := false }
      if owed ∧ s.sys.cpend ≠ 0 then s.cint else s

/-! ## Power (17 R387) -/

/-- LTR_WRITE. -/
def execLtrWrite (v : W32) (s : State) : Host.Outcome State Fault Refusal :=
  .next (s.barAccess.upSys fun y => { y with ltr := v })

/-- A candidate is eligible. -/
def State.anyEligible (s : State) : Bool := s.kids.any fun kid => (s.kernel kid).any fun k => k.st == .cand && k.eligible

/-- A dependence wait is outstanding: a held kernel names an object whose phase it still waits for (03 R53). -/
def State.anyWaiting (s : State) : Bool := s.kids.any fun kid => (s.kernel kid).any fun k => k.open && !k.eligible

/-- The device is idle. DEDUCED, log entry 52: a Meridian wait is a message to a Meridian engine or a dependence wait. -/
def State.idle (s : State) : Bool :=
  !(s.ctxs.any fun e => decide (e.1 < 768) && (e.2.occ.isSome || !e.2.mxq.isEmpty)) && !s.anyEligible && !s.anyWaiting &&
    (s.cores.all fun e => e.2.copies.isEmpty) && (s.groups.all fun e => e.2.run.isNone) &&
    (s.orreries.all fun e => e.2.tickets.isEmpty) && s.transit.isEmpty && s.sys.parked.isEmpty

/-- The deepest state that LTR and the fabric allow. -/
def State.deepest (s : State) : Nat :=
  let t := s.sys.ltr.toNat
  if t < 1000 then 0 else if t < 40000 ∨ s.fab.en then 1 else if t < 400000 then 2 else 3

/-- ENTER_LOW_POWER. -/
def execEnterLowPower (s : State) : Host.Outcome State Fault Refusal :=
  .next (if s.idle then s.upSys fun y => { y with cstate := s.deepest } else s)

/-- LOW_POWER_EXIT: the device stands in C0 again. -/
def execLowPowerExit (s : State) : Host.Outcome State Fault Refusal := .next s.barAccess

/-- D3_ENTRY: the measurements are lost; the device leaves D3 only by a full boot. -/
def execD3Entry (s : State) : Host.Outcome State Fault Refusal :=
  .next (s.upSys fun y => { y with d3 := true, mreg := [] })

/-! ## Boot (17 R390, R391) -/

/-- How a boot goes on after a step. -/
inductive BootGo where
  | go | failed | dead
deriving DecidableEq, Repr

/-- A saturating count. -/
def BootEnt.count (e : BootEnt) : BootEnt := { e with failed := true, failcnt := satInc8 e.failcnt }

/-- One step of the boot procedure: the entry after it, the outcomes that are left, and how the boot goes on. An outcome is none for
a success or an error code; where none is left power is lost during the step. -/
def bootStep (e : BootEnt) (outs : List (Option W32)) : BootEnt × List (Option W32) × BootGo :=
  if e.id = 0 then (e, outs, .go)
  else
    let e := if e.started then e.count else e
    if e.failed && e.opt && !e.alt then ({ e with altused := false }, outs, .go)
    else
      let alt := e.failed && e.alt
      match outs with
      | [] => ({ e with started := true }, [], .dead)
      | none :: rest => ({ e with started := false, altused := alt }, rest, .go)
      | some c :: rest => ({ e.count with started := false, err := c }, rest, if e.opt then .go else .failed)

/-- The Zenith controller extends a measurement register: MREGr := SHAKE256(MREGr ‖ data) (17 R391). -/
def mregExtend (m : SMap Byte) (r : Nat) (data : List Byte) : SMap Byte :=
  (shake256 ((List.range 64).map (fun j => m.get 0 (64 * r + j)) ++ data)).zipIdx.foldl (fun m e => m.set 0 (64 * r + e.2) e.1) m

/-- Boot step `i` runs: where it runs an image, that is measured first, into the register of its class. Which steps run images, their
classes and the bytes measured are free. DESIGN CHOICE, log entry 50. -/
def measure (nf i : Nat) (m : SMap Byte) : SMap Byte :=
  if Config.freeBit nf (0x740000 + i) then
    mregExtend m (Config.freeNat nf (0x741000 + i) % 8) (ownBytes nf (2 ^ 64 * (i + 1)) (Config.freeNat nf (0x742000 + i)))
  else m

/-- The boot procedure from step `i` on: the entries, BOOTST, or nothing when power is lost, and the measurement registers. -/
def bootRun (nf : Nat) (b : SMap BootEnt) (m : SMap Byte) (outs : List (Option W32)) :
    Nat → Nat → SMap BootEnt × Option (BitVec 14) × SMap Byte
  | 0, _ => (b, some 1, m)
  | n + 1, i =>
    match bootStep (b.get BootEnt.empty i) outs with
    | (e, outs', .go) => bootRun nf (b.put i e) (if outs'.length < outs.length then measure nf i m else m) outs' n (i + 1)
    | (e, _, .failed) => (b.put i e, some (BitVec.ofNat 14 (2 + 256 * i)), measure nf i m)
    | (e, _, .dead) => (b.put i e, none, m)

/-- POWER_ON_BOOT: the machine as reset leaves it, but for non-volatile memory and the host's memory; then the boot steps. DESIGN CHOICE,
log entry 50. -/
def execPowerOnBoot (outcomes : List (Option W32)) (s : State) : Host.Outcome State Fault Refusal :=
  .next <|
    let r := bootRun s.nfree s.sys.boot [] outcomes 64 0
    State.draw { State.reset with
      mem := s.mem.filter fun e => inHost e.1
      agenda := s.agenda
      nfree := s.nfree
      sys := { Sys.init with
        boot := r.1, bootst := r.2.1.getD 0, d3 := r.2.1.isNone, mreg := if r.2.1.isNone then [] else r.2.2, msix := s.sys.msix } }

end Sys2Proof.Machine
end

