-- ==== Sys2Proof/Machine/Dispatch.lean ====
section
/-! DEFINITION. One arm per instruction of the opcode table, each a direct call of its meaning. -/

namespace Sys2Proof.Machine

def exec (i : Instr) (s : State) : Host.Outcome State Fault Refusal :=
  match i with
  | .nop => Sys2Proof.Machine.execNop s
  | .add d a b => Sys2Proof.Machine.execAdd d a b s
  | .sub d a b => Sys2Proof.Machine.execSub d a b s
  | .and d a b => Sys2Proof.Machine.execAnd d a b s
  | .or d a b => Sys2Proof.Machine.execOr d a b s
  | .xor d a b => Sys2Proof.Machine.execXor d a b s
  | .shl d a b => Sys2Proof.Machine.execShl d a b s
  | .shr d a b => Sys2Proof.Machine.execShr d a b s
  | .sra d a b => Sys2Proof.Machine.execSra d a b s
  | .mul d a b => Sys2Proof.Machine.execMul d a b s
  | .mulhs d a b => Sys2Proof.Machine.execMulhs d a b s
  | .mulhu d a b => Sys2Proof.Machine.execMulhu d a b s
  | .min d a b => Sys2Proof.Machine.execMin d a b s
  | .max d a b => Sys2Proof.Machine.execMax d a b s
  | .minu d a b => Sys2Proof.Machine.execMinu d a b s
  | .maxu d a b => Sys2Proof.Machine.execMaxu d a b s
  | .seq d a b => Sys2Proof.Machine.execSeq d a b s
  | .slt d a b => Sys2Proof.Machine.execSlt d a b s
  | .sltu d a b => Sys2Proof.Machine.execSltu d a b s
  | .sel d a b c => Sys2Proof.Machine.execSel d a b c s
  | .clz d a => Sys2Proof.Machine.execClz d a s
  | .popc d a => Sys2Proof.Machine.execPopc d a s
  | .extr d a pos len1 => Sys2Proof.Machine.execExtr d a pos len1 s
  | .insr d a pos len1 => Sys2Proof.Machine.execInsr d a pos len1 s
  | .addw d a b => Sys2Proof.Machine.execAddw d a b s
  | .addi d a imm => Sys2Proof.Machine.execAddi d a imm s
  | .andi d a imm => Sys2Proof.Machine.execAndi d a imm s
  | .ori d a imm => Sys2Proof.Machine.execOri d a imm s
  | .xori d a imm => Sys2Proof.Machine.execXori d a imm s
  | .shli d a imm => Sys2Proof.Machine.execShli d a imm s
  | .shri d a imm => Sys2Proof.Machine.execShri d a imm s
  | .srai d a imm => Sys2Proof.Machine.execSrai d a imm s
  | .slti d a imm => Sys2Proof.Machine.execSlti d a imm s
  | .lui d imm => Sys2Proof.Machine.execLui d imm s
  | .br c a o => Sys2Proof.Machine.execBr c a o s
  | .jmp o => Sys2Proof.Machine.execJmp o s
  | .call o => Sys2Proof.Machine.execCall o s
  | .jr a => Sys2Proof.Machine.execJr a s
  | .callr a => Sys2Proof.Machine.execCallr a s
  | .loop a e => Sys2Proof.Machine.execLoop a e s
  | .loopi n e => Sys2Proof.Machine.execLoopi n e s
  | .brkl => Sys2Proof.Machine.execBrkl s
  | .lidx d k => Sys2Proof.Machine.execLidx d k s
  | .msave d m => Sys2Proof.Machine.execMsave d m s
  | .mrest m a => Sys2Proof.Machine.execMrest m a s
  | .mand m y => Sys2Proof.Machine.execMand m y s
  | .mor m y => Sys2Proof.Machine.execMor m y s
  | .mandn m y => Sys2Proof.Machine.execMandn m y s
  | .mset m a => Sys2Proof.Machine.execMset m a s
  | .mcmv m => Sys2Proof.Machine.execMcmv m s
  | .mpopc d m => Sys2Proof.Machine.execMpopc d m s
  | .rdsr d r => Sys2Proof.Machine.execRdsr d r s
  | .wrsr r a => Sys2Proof.Machine.execWrsr r a s
  | .ldc d z o => Sys2Proof.Machine.execLdc d z o s
  | .vaddI32 d a b => Sys2Proof.Machine.execVaddI32 d a b s
  | .vsubI32 d a b => Sys2Proof.Machine.execVsubI32 d a b s
  | .vmulI32 d a b => Sys2Proof.Machine.execVmulI32 d a b s
  | .vmulhI32 d a b => Sys2Proof.Machine.execVmulhI32 d a b s
  | .vaddI16 d a b => Sys2Proof.Machine.execVaddI16 d a b s
  | .vsubI16 d a b => Sys2Proof.Machine.execVsubI16 d a b s
  | .vaddI8 d a b => Sys2Proof.Machine.execVaddI8 d a b s
  | .vsubI8 d a b => Sys2Proof.Machine.execVsubI8 d a b s
  | .vaddsI16 d a b => Sys2Proof.Machine.execVaddsI16 d a b s
  | .vsubsI16 d a b => Sys2Proof.Machine.execVsubsI16 d a b s
  | .vaddsI8 d a b => Sys2Proof.Machine.execVaddsI8 d a b s
  | .vsubsI8 d a b => Sys2Proof.Machine.execVsubsI8 d a b s
  | .vminI32 d a b => Sys2Proof.Machine.execVminI32 d a b s
  | .vmaxI32 d a b => Sys2Proof.Machine.execVmaxI32 d a b s
  | .vminuI32 d a b => Sys2Proof.Machine.execVminuI32 d a b s
  | .vmaxuI32 d a b => Sys2Proof.Machine.execVmaxuI32 d a b s
  | .vand d a b => Sys2Proof.Machine.execVand d a b s
  | .vor d a b => Sys2Proof.Machine.execVor d a b s
  | .vxor d a b => Sys2Proof.Machine.execVxor d a b s
  | .vlut3 d a b tt => Sys2Proof.Machine.execVlut3 d a b tt s
  | .vshl d a b => Sys2Proof.Machine.execVshl d a b s
  | .vshr d a b => Sys2Proof.Machine.execVshr d a b s
  | .vsra d a b => Sys2Proof.Machine.execVsra d a b s
  | .vfshl d a b n => Sys2Proof.Machine.execVfshl d a b n s
  | .vfshr d a b n => Sys2Proof.Machine.execVfshr d a b n s
  | .vcmpeqI32 a b => Sys2Proof.Machine.execVcmpeqI32 a b s
  | .vcmpltI32 a b => Sys2Proof.Machine.execVcmpltI32 a b s
  | .vcmpltuI32 a b => Sys2Proof.Machine.execVcmpltuI32 a b s
  | .vcmpeqF32 a b => Sys2Proof.Machine.execVcmpeqF32 a b s
  | .vcmpltF32 a b => Sys2Proof.Machine.execVcmpltF32 a b s
  | .vcmpleF32 a b => Sys2Proof.Machine.execVcmpleF32 a b s
  | .vcmpunF32 a b => Sys2Proof.Machine.execVcmpunF32 a b s
  | .vsel d a b => Sys2Proof.Machine.execVsel d a b s
  | .vfaddF32 d a b => Sys2Proof.Machine.execVfaddF32 d a b s
  | .vfsubF32 d a b => Sys2Proof.Machine.execVfsubF32 d a b s
  | .vfmulF32 d a b => Sys2Proof.Machine.execVfmulF32 d a b s
  | .vfmaF32 d a b => Sys2Proof.Machine.execVfmaF32 d a b s
  | .vfminF32 d a b => Sys2Proof.Machine.execVfminF32 d a b s
  | .vfmaxF32 d a b => Sys2Proof.Machine.execVfmaxF32 d a b s
  | .vfaddBf16 d a b => Sys2Proof.Machine.execVfaddBf16 d a b s
  | .vfmulBf16 d a b => Sys2Proof.Machine.execVfmulBf16 d a b s
  | .vfmaBf16 d a b => Sys2Proof.Machine.execVfmaBf16 d a b s
  | .vfaddF16 d a b => Sys2Proof.Machine.execVfaddF16 d a b s
  | .vfmulF16 d a b => Sys2Proof.Machine.execVfmulF16 d a b s
  | .vfmaF16 d a b => Sys2Proof.Machine.execVfmaF16 d a b s
  | .vcvt d a code part rm => Sys2Proof.Machine.execVcvt d a code part rm s
  | .vqnt t d a b => Sys2Proof.Machine.execVqnt t d a b s
  | .vdqnt d a b => Sys2Proof.Machine.execVdqnt d a b s
  | .vbmax d a => Sys2Proof.Machine.execVbmax d a s
  | .vrcp d a f => Sys2Proof.Machine.execVrcp d a f s
  | .vrsq d a f => Sys2Proof.Machine.execVrsq d a f s
  | .vsqrt d a f => Sys2Proof.Machine.execVsqrt d a f s
  | .vexp2 d a f => Sys2Proof.Machine.execVexp2 d a f s
  | .vlog2 d a f => Sys2Proof.Machine.execVlog2 d a f s
  | .vsinpi d a f => Sys2Proof.Machine.execVsinpi d a f s
  | .vcospi d a f => Sys2Proof.Machine.execVcospi d a f s
  | .vtanh d a f => Sys2Proof.Machine.execVtanh d a f s
  | .vperm d a b => Sys2Proof.Machine.execVperm d a b s
  | .vrot d a b => Sys2Proof.Machine.execVrot d a b s
  | .vbcst z d b => Sys2Proof.Machine.execVbcst z d b s
  | .vext sx d a b => Sys2Proof.Machine.execVext sx d a b s
  | .vins d b k => Sys2Proof.Machine.execVins d b k s
  | .vred op d a => Sys2Proof.Machine.execVred op d a s
  | .vpopc d a => Sys2Proof.Machine.execVpopc d a s
  | .vclz d a => Sys2Proof.Machine.execVclz d a s
  | .viota cm d => Sys2Proof.Machine.execViota cm d s
  | .vmov d a => Sys2Proof.Machine.execVmov d a s
  | .vaddiI32 d a imm => Sys2Proof.Machine.execVaddiI32 d a imm s
  | .vandi d a imm => Sys2Proof.Machine.execVandi d a imm s
  | .vshli d a n => Sys2Proof.Machine.execVshli d a n s
  | .vshri d a n => Sys2Proof.Machine.execVshri d a n s
  | .vsrai d a n => Sys2Proof.Machine.execVsrai d a n s
  | .vmovi d imm => Sys2Proof.Machine.execVmovi d imm s
  | .ldv q d a o => Sys2Proof.Machine.execLdv q d a o s
  | .stv q v a o => Sys2Proof.Machine.execStv q v a o s
  | .ldsD q d a o => Sys2Proof.Machine.execLdsD q d a o s
  | .ldsW q d a o => Sys2Proof.Machine.execLdsW q d a o s
  | .ldsWu q d a o => Sys2Proof.Machine.execLdsWu q d a o s
  | .ldsH q d a o => Sys2Proof.Machine.execLdsH q d a o s
  | .ldsB q d a o => Sys2Proof.Machine.execLdsB q d a o s
  | .stsD q v a o => Sys2Proof.Machine.execStsD q v a o s
  | .stsW q v a o => Sys2Proof.Machine.execStsW q v a o s
  | .stsH q v a o => Sys2Proof.Machine.execStsH q v a o s
  | .stsB q v a o => Sys2Proof.Machine.execStsB q v a o s
  | .ldvg d a x => Sys2Proof.Machine.execLdvg d a x s
  | .stvs v a x => Sys2Proof.Machine.execStvs v a x s
  | .feset a o => Sys2Proof.Machine.execFeset a o s
  | .feclr a o => Sys2Proof.Machine.execFeclr a o s
  | .fetest d a o => Sys2Proof.Machine.execFetest d a o s
  | .ldgD f d a o => Sys2Proof.Machine.execLdgD f d a o s
  | .ldgW f d a o => Sys2Proof.Machine.execLdgW f d a o s
  | .ldgv f d a o => Sys2Proof.Machine.execLdgv f d a o s
  | .cpy l a b c h => Sys2Proof.Machine.execCpy l a b c h s
  | .cpys l a b c h => Sys2Proof.Machine.execCpys l a b c h s
  | .cpyz l a c h => Sys2Proof.Machine.execCpyz l a c h s
  | .cpyaAddi32 l a b c h => Sys2Proof.Machine.execCpyaAddi32 l a b c h s
  | .cpyaAddi64 l a b c h => Sys2Proof.Machine.execCpyaAddi64 l a b c h s
  | .cpyaAddf l a b c h => Sys2Proof.Machine.execCpyaAddf l a b c h s
  | .cpyaMin l a b c h => Sys2Proof.Machine.execCpyaMin l a b c h s
  | .cpyaMax l a b c h => Sys2Proof.Machine.execCpyaMax l a b c h s
  | .cpyaOr l a b c h => Sys2Proof.Machine.execCpyaOr l a b c h s
  | .cpyaAnd l a b c h => Sys2Proof.Machine.execCpyaAnd l a b c h s
  | .cpyaXor l a b c h => Sys2Proof.Machine.execCpyaXor l a b c h s
  | .fopAdd l a b c h => Sys2Proof.Machine.execFopAdd l a b c h s
  | .fopBadd l a b c h => Sys2Proof.Machine.execFopBadd l a b c h s
  | .fopSwap l a b c h => Sys2Proof.Machine.execFopSwap l a b c h s
  | .fopCas l a b h => Sys2Proof.Machine.execFopCas l a b h s
  | .cpyq c => Sys2Proof.Machine.execCpyq c s
  | .mxcfg n a b => Sys2Proof.Machine.execMxcfg n a b s
  | .mxgo h => Sys2Proof.Machine.execMxgo h s
  | .mxwait a => Sys2Proof.Machine.execMxwait a s
  | .mxlease => Sys2Proof.Machine.execMxlease s
  | .mxleaseJoin => Sys2Proof.Machine.execMxleaseJoin s
  | .mxfree => Sys2Proof.Machine.execMxfree s
  | .mxfreeJoin => Sys2Proof.Machine.execMxfreeJoin s
  | .mxfreeClaim => Sys2Proof.Machine.execMxfreeClaim s
  | .mxld a b st h => Sys2Proof.Machine.execMxld a b st h s
  | .mxst a b st h => Sys2Proof.Machine.execMxst a b st h s
  | .mxz b st h => Sys2Proof.Machine.execMxz b st h s
  | .ringset q a c => Sys2Proof.Machine.execRingset q a c s
  | .ringpush q a => Sys2Proof.Machine.execRingpush q a s
  | .ringstat c q => Sys2Proof.Machine.execRingstat c q s
  | .sctab a b c => Sys2Proof.Machine.execSctab a b c s
  | .scinv a => Sys2Proof.Machine.execScinv a s
  | .mxstat c => Sys2Proof.Machine.execMxstat c s
  | .phbind c a h => Sys2Proof.Machine.execPhbind c a h s
  | .phreg m h => Sys2Proof.Machine.execPhreg m h s
  | .phdrop h => Sys2Proof.Machine.execPhdrop h s
  | .phsig p h => Sys2Proof.Machine.execPhsig p h s
  | .phwait p h => Sys2Proof.Machine.execPhwait p h s
  | .phnext p h => Sys2Proof.Machine.execPhnext p h s
  | .phadd p h a => Sys2Proof.Machine.execPhadd p h a s
  | .phtest c h => Sys2Proof.Machine.execPhtest c h s
  | .bwreq c a b h => Sys2Proof.Machine.execBwreq c a b h s
  | .bwrel a h => Sys2Proof.Machine.execBwrel a h s
  | .bwqry c a => Sys2Proof.Machine.execBwqry c a s
  | .puts l a b c h => Sys2Proof.Machine.execPuts l a b c h s
  | .rels a b => Sys2Proof.Machine.execRels a b s
  | .lrset c a h => Sys2Proof.Machine.execLrset c a h s
  | .fabst c a => Sys2Proof.Machine.execFabst c a s
  | .coll c a h => Sys2Proof.Machine.execColl c a h s
  | .collq c a => Sys2Proof.Machine.execCollq c a s
  | .decpl => Sys2Proof.Machine.execDecpl s
  | .rejn => Sys2Proof.Machine.execRejn s
  | .fence p => Sys2Proof.Machine.execFence p s
  | .icinv p a b => Sys2Proof.Machine.execIcinv p a b s
  | .fetchb => Sys2Proof.Machine.execFetchb s
  | .launch c a b => Sys2Proof.Machine.execLaunch c a b s
  | .halt => Sys2Proof.Machine.execHalt s
  | .trap a => Sys2Proof.Machine.execTrap a s
  | .eret => Sys2Proof.Machine.execEret s
  | .smc c a b => Sys2Proof.Machine.execSmc c a b s
  | .brk => Sys2Proof.Machine.execBrk s
  | .waitev c a h => Sys2Proof.Machine.execWaitev c a h s
  | .tlbinv p a b => Sys2Proof.Machine.execTlbinv p a b s
  | .yield => Sys2Proof.Machine.execYield s
  | .ctxctlHalt c a b h => Sys2Proof.Machine.execCtxctlHalt c a b h s
  | .ctxctlFlush c a b h => Sys2Proof.Machine.execCtxctlFlush c a b h s
  | .ctxctlRestart c a b h => Sys2Proof.Machine.execCtxctlRestart c a b h s
  | .ctxctlResume c a b h => Sys2Proof.Machine.execCtxctlResume c a b h s
  | .ctxctlWake c a b h => Sys2Proof.Machine.execCtxctlWake c a b h s
  | .wstat c a b => Sys2Proof.Machine.execWstat c a b s
  | .qtailWrite q v => Sys2Proof.Machine.execQtailWrite q v s
  | .qcfgWrite q v => Sys2Proof.Machine.execQcfgWrite q v s
  | .kstopPreempt q => Sys2Proof.Machine.execKstopPreempt q s
  | .kstopKill q => Sys2Proof.Machine.execKstopKill q s
  | .phaserObjectInit o phase anon => Sys2Proof.Machine.execPhaserObjectInit o phase anon s
  | .registerWrite r n v => Sys2Proof.Machine.execRegisterWrite r n v s
  | .bar0RegisterRead off n => Sys2Proof.Machine.execBar0RegisterRead off n s
  | .hostBar2Write off data => Sys2Proof.Machine.execHostBar2Write off data s
  | .hostBar2Read off n => Sys2Proof.Machine.execHostBar2Read off n s
  | .qliftWrite u => Sys2Proof.Machine.execQliftWrite u s
  | .ltrWrite v => Sys2Proof.Machine.execLtrWrite v s
  | .pfansRetry asid page => Sys2Proof.Machine.execPfansRetry asid page s
  | .pfansFail asid page => Sys2Proof.Machine.execPfansFail asid page s
  | .fabricEnable ports => Sys2Proof.Machine.execFabricEnable ports s
  | .fabricDisable ports => Sys2Proof.Machine.execFabricDisable ports s
  | .lpolWrite v => Sys2Proof.Machine.execLpolWrite v s
  | .revokeWrite node ports => Sys2Proof.Machine.execRevokeWrite node ports s
  | .membershipWrite j v => Sys2Proof.Machine.execMembershipWrite j v s
  | .flitWriteRx p k f => Sys2Proof.Machine.execFlitWriteRx p k f s
  | .flitReadrspRx p k f => Sys2Proof.Machine.execFlitReadrspRx p k f s
  | .performedAckRx src tag n bad => Sys2Proof.Machine.execPerformedAckRx src tag n bad s
  | .linkAckRx p k a f0 f1 f2 => Sys2Proof.Machine.execLinkAckRx p k a f0 f1 f2 s
  | .timeFlitRx p k f agree => Sys2Proof.Machine.execTimeFlitRx p k f agree s
  | .leaseAnswerRx src lid p a => Sys2Proof.Machine.execLeaseAnswerRx src lid p a s
  | .frameBoundary agree => Sys2Proof.Machine.execFrameBoundary agree s
  | .eccError e => Sys2Proof.Machine.execEccError e s
  | .powerOnBoot outcomes => Sys2Proof.Machine.execPowerOnBoot outcomes s
  | .takeQueueEntry q => Sys2Proof.Machine.execTakeQueueEntry q s
  | .dependenceEventSeen o => Sys2Proof.Machine.execDependenceEventSeen o s
  | .placementDecision => Sys2Proof.Machine.execPlacementDecision s
  | .instanceStart x => Sys2Proof.Machine.execInstanceStart x s
  | .preloadStart kid => Sys2Proof.Machine.execPreloadStart kid s
  | .budgetOverrun kid => Sys2Proof.Machine.execBudgetOverrun kid s
  | .requeueSettle kid => Sys2Proof.Machine.execRequeueSettle kid s
  | .killSettle kid => Sys2Proof.Machine.execKillSettle kid s
  | .instanceRetireDone x => Sys2Proof.Machine.execInstanceRetireDone x s
  | .cintHoldoffExpiry => Sys2Proof.Machine.execCintHoldoffExpiry s
  | .icacheFill core line gs => Sys2Proof.Machine.execIcacheFill core line gs s
  | .fetchBufferFill x => Sys2Proof.Machine.execFetchBufferFill x s
  | .forcedIssue core => Sys2Proof.Machine.execForcedIssue core s
  | .resultLands x j => Sys2Proof.Machine.execResultLands x j s
  | .loadResultLands x j g => Sys2Proof.Machine.execLoadResultLands x j g s
  | .checkSignatureCompare core => Sys2Proof.Machine.execCheckSignatureCompare core s
  | .feWaitEnd x => Sys2Proof.Machine.execFeWaitEnd x s
  | .feWatchdog x => Sys2Proof.Machine.execFeWatchdog x s
  | .waitTimeout x => Sys2Proof.Machine.execWaitTimeout x s
  | .phwaitEnd x => Sys2Proof.Machine.execPhwaitEnd x s
  | .phsigHoldEnd x => Sys2Proof.Machine.execPhsigHoldEnd x s
  | .copyEntryFree x => Sys2Proof.Machine.execCopyEntryFree x s
  | .ringpushEnd x => Sys2Proof.Machine.execRingpushEnd x s
  | .matrixQueueRoom x => Sys2Proof.Machine.execMatrixQueueRoom x s
  | .tileClaimGrant x => Sys2Proof.Machine.execTileClaimGrant x s
  | .mxwaitEnd x => Sys2Proof.Machine.execMxwaitEnd x s
  | .icinvComplete x => Sys2Proof.Machine.execIcinvComplete x s
  | .rejnComplete g => Sys2Proof.Machine.execRejnComplete g s
  | .fenceComplete x => Sys2Proof.Machine.execFenceComplete x s
  | .waitevEnd x => Sys2Proof.Machine.execWaitevEnd x s
  | .tlbinvComplete x => Sys2Proof.Machine.execTlbinvComplete x s
  | .tableUnpinEnd x => Sys2Proof.Machine.execTableUnpinEnd x s
  | .translationWalkEnd core asid va => Sys2Proof.Machine.execTranslationWalkEnd core asid va s
  | .haltRequestArrives x => Sys2Proof.Machine.execHaltRequestArrives x s
  | .contextHalt x => Sys2Proof.Machine.execContextHalt x s
  | .forcedHalt x => Sys2Proof.Machine.execForcedHalt x s
  | .instanceSave x => Sys2Proof.Machine.execInstanceSave x s
  | .commandStart core j upto => Sys2Proof.Machine.execCommandStart core j upto s
  | .ringPanelRoom core j upto => Sys2Proof.Machine.execRingPanelRoom core j upto s
  | .putsSlotRoom core j => Sys2Proof.Machine.execPutsSlotRoom core j s
  | .commandComplete core j => Sys2Proof.Machine.execCommandComplete core j s
  | .mxRunStart g => Sys2Proof.Machine.execMxRunStart g s
  | .mxRunEnd g => Sys2Proof.Machine.execMxRunEnd g s
  | .mxPanelRead g => Sys2Proof.Machine.execMxPanelRead g s
  | .scaleMissFill g t row blk => Sys2Proof.Machine.execScaleMissFill g t row blk s
  | .mxOpComplete g => Sys2Proof.Machine.execMxOpComplete g s
  | .mxSuspendComplete g => Sys2Proof.Machine.execMxSuspendComplete g s
  | .mxTileCmdComplete x => Sys2Proof.Machine.execMxTileCmdComplete x s
  | .mxJoinEffect x => Sys2Proof.Machine.execMxJoinEffect x s
  | .memberSignal j => Sys2Proof.Machine.execMemberSignal j s
  | .anonymousArrival j => Sys2Proof.Machine.execAnonymousArrival j s
  | .registrationArrives j => Sys2Proof.Machine.execRegistrationArrives j s
  | .slotBoundary => Sys2Proof.Machine.execSlotBoundary s
  | .syncLoss => Sys2Proof.Machine.execSyncLoss s
  | .flitSend p ch j => Sys2Proof.Machine.execFlitSend p ch j s
  | .flitZeroRx p k f => Sys2Proof.Machine.execFlitZeroRx p k f s
  | .flitAtomicRx p k f => Sys2Proof.Machine.execFlitAtomicRx p k f s
  | .flitReadreqRx p k f => Sys2Proof.Machine.execFlitReadreqRx p k f s
  | .flitLandRx p k f => Sys2Proof.Machine.execFlitLandRx p k f s
  | .flitTransitRx p k f => Sys2Proof.Machine.execFlitTransitRx p k f s
  | .lackDue p k => Sys2Proof.Machine.execLackDue p k s
  | .replayRx p k lp lk r n => Sys2Proof.Machine.execReplayRx p k lp lk r n s
  | .leaseRequestRx r => Sys2Proof.Machine.execLeaseRequestRx r s
  | .leaseConfirmRx src lid p => Sys2Proof.Machine.execLeaseConfirmRx src lid p s
  | .leaseAnswerTimeout lid p => Sys2Proof.Machine.execLeaseAnswerTimeout lid p s
  | .releaseNoticeRx src lid p => Sys2Proof.Machine.execReleaseNoticeRx src lid p s
  | .revocationNoticeRx src lid p => Sys2Proof.Machine.execRevocationNoticeRx src lid p s
  | .cancelNoticeRx src lid p => Sys2Proof.Machine.execCancelNoticeRx src lid p s
  | .displacementNoticeRx p k g => Sys2Proof.Machine.execDisplacementNoticeRx p k g s
  | .lossNoticeRx out p k => Sys2Proof.Machine.execLossNoticeRx out p k s
  | .substNoticeRx out p k n => Sys2Proof.Machine.execSubstNoticeRx out p k n s
  | .removeNoticeRx out lid p n => Sys2Proof.Machine.execRemoveNoticeRx out lid p n s
  | .skewNoticeRx lid p => Sys2Proof.Machine.execSkewNoticeRx lid p s
  | .rheadNoticeRx r rhead => Sys2Proof.Machine.execRheadNoticeRx r rhead s
  | .flitAbandon j => Sys2Proof.Machine.execFlitAbandon j s
  | .lossOfLight p k => Sys2Proof.Machine.execLossOfLight p k s
  | .lossOfSignal p ch peerLit => Sys2Proof.Machine.execLossOfSignal p ch peerLit s
  | .drift p ch => Sys2Proof.Machine.execDrift p ch s
  | .retune p ch => Sys2Proof.Machine.execRetune p ch s
  | .retuneRelock p ch => Sys2Proof.Machine.execRetuneRelock p ch s
  | .lockfail p ch => Sys2Proof.Machine.execLockfail p ch s
  | .spareAttemptEnd p k locked => Sys2Proof.Machine.execSpareAttemptEnd p k locked s
  | .repansSpareComb p k => Sys2Proof.Machine.execRepansSpareComb p k s
  | .repansSpareEmitter p k => Sys2Proof.Machine.execRepansSpareEmitter p k s
  | .repansRetryOriginal p k => Sys2Proof.Machine.execRepansRetryOriginal p k s
  | .repansRemove p k => Sys2Proof.Machine.execRepansRemove p k s
  | .repansTimeout p k => Sys2Proof.Machine.execRepansTimeout p k s
  | .skewDetected src lid p => Sys2Proof.Machine.execSkewDetected src lid p s
  | .routingCommit => Sys2Proof.Machine.execRoutingCommit s
  | .announceRx die comm key => Sys2Proof.Machine.execAnnounceRx die comm key s
  | .collAdmission die t => Sys2Proof.Machine.execCollAdmission die t s
  | .admitRx die comm key rank => Sys2Proof.Machine.execAdmitRx die comm key rank s
  | .collTransfer die t => Sys2Proof.Machine.execCollTransfer die t s
  | .rfwdMessageRx die comm key n d => Sys2Proof.Machine.execRfwdMessageRx die comm key n d s
  | .collDoneRx die comm key rank => Sys2Proof.Machine.execCollDoneRx die comm key rank s
  | .abortRx die comm key dog => Sys2Proof.Machine.execAbortRx die comm key dog s
  | .admissionWatchdog die t => Sys2Proof.Machine.execAdmissionWatchdog die t s
  | .pstateRead => Sys2Proof.Machine.execPstateRead s
  | .enterLowPower => Sys2Proof.Machine.execEnterLowPower s
  | .lowPowerExit => Sys2Proof.Machine.execLowPowerExit s
  | .d3Entry => Sys2Proof.Machine.execD3Entry s
  | .zenithAttest j => Sys2Proof.Machine.execZenithAttest j s
  | .zenithBootinfo j => Sys2Proof.Machine.execZenithBootinfo j s
  | .zenithSetworld j => Sys2Proof.Machine.execZenithSetworld j s
  | .zenithBootclr j => Sys2Proof.Machine.execZenithBootclr j s
  | .zenithDiag j pass => Sys2Proof.Machine.execZenithDiag j pass s
  | .zenithAutoDiag u pass => Sys2Proof.Machine.execZenithAutoDiag u pass s
  | .writebackPoison line => Sys2Proof.Machine.execWritebackPoison line s
  | .illegalEnc x => Sys2Proof.Machine.execIllegalEnc x s
  | .fetchFault x => Sys2Proof.Machine.execFetchFault x s
  | .rfwdSlotFree die comm key n => Sys2Proof.Machine.execRfwdSlotFree die comm key n s
  | .spareCombLightChange p on => Sys2Proof.Machine.execSpareCombLightChange p on s

end Sys2Proof.Machine
end

