-- ==== Sys2Proof/Machine/Cycle.lean ====
section
/-! DEFINITION. A core cycle: what passes with it, what each context issues, gangs; and the happenings that the device brings about
by itself (05 R91, R92, R94, R104 to R112; 03 R60; 16 R363, R367, R370; 10 R216). -/

namespace Sys2Proof.Machine

/-! ## Outcomes in sequence -/

/-- Goes on after a next state. -/
def andThen (o : Host.Outcome State Fault Refusal) (f : State → Host.Outcome State Fault Refusal) : Host.Outcome State Fault Refusal :=
  match o with
  | .next s => f s
  | .fault r => .fault r
  | .refused r => .refused r

/-! ## What a cycle brings (03 R60; 05 R94; 16 R363) -/

/-- An instance holds the context: its cycles count (03 R60). -/
def Ctx.counts (c : Ctx) : Bool := c.occ.any fun o => o.st == .running || o.st == .halted

/-- A cycle passes for a context. -/
def Ctx.tick (c : Ctx) : Ctx :=
  let c := c.tickFlight
  if c.counts then
    { c with cycle := c.cycle + 1, hreq := c.hreq.map fun h => if h.reached then { h with age := h.age + 1 } else h }
  else c

/-- A cycle passes for an occupied context. -/
def State.tick (s : State) (x : Nat) : State := if (s.ctx x).occ.isSome then s.upCtx x Ctx.tick else s

/-- A resumed context issues its discarded loads again and waits out the wait half of a PHNEXT, before any bundle (16 R367). -/
def State.resumePend (s : State) (x : Nat) : State :=
  let c := s.ctx x
  if !c.running || c.wait.isSome then s
  else if c.mustReissue then s.reissue x [] c.pends
  else match c.phnext with
    | some (h, _, _) =>
      s.enter x { kind := 1, h := h, arg := ((s.handle (coreOf x) h).obj).getD 0, since := c.cycle.setWidth 32 }
    | none => s

/-- The array of group `g` stands in its run: on an empty ring, on a scale miss, or with no operation to serve (10 R216). -/
def State.runStalled (s : State) (g : Nat) : Bool :=
  match s.servedOp g with
  | some (x, m, r) => decide (m.chunk < mxKP r) && ((takePanels (s.ctx x) m r).isNone || (s.scaleMiss x m r).isSome)
  | none => (s.group g).run.isSome

/-- A stalled array's cycles count towards its run. DESIGN CHOICE, log entry 29. -/
def State.stallTick (s : State) (g : Nat) : State :=
  if s.runStalled g then
    s.setGroup g { s.group g with run := (s.group g).run.map fun u => { u with cycles := u.cycles + 1 } }
  else s

/-! ## Issue -/

/-- Issues a bundle whose words are latched in context `x`: a bundle of one word is that instruction's meaning. -/
def issueBundle (x : Nat) (b : Bundle) (s : State) : Host.Outcome State Fault Refusal :=
  let s := s.settleLoads x b.items
  andThen
    (match b.items with
      | [i] => exec i { s with cur := x }
      | is => issueWords (bundleEffs is) { s with cur := x })
    fun s => .next (s.deliverResume x)

/-- What a context has done in a cycle: the outcome, and the units that its bundle has used, if it issued one. -/
structure Did where
  out : Host.Outcome State Fault Refusal
  used : Option (List Nat) := none

/-- Every unit: a bundle that traps at its fetch shares its cycle with none. -/
def allUnits : List Nat := [0, 1, 2, 3, 4]

/-- The next bundle of a context that fetches for itself issues, if it is ready. -/
def issueNext (x : Nat) (s : State) : Did :=
  match s.tryHand x with
  | .notReady s => { out := .next s }
  | .wait s => { out := .next s.draw }
  | .trap s t => { out := .next (s.takeTrap x t).draw, used := some allUnits }
  | .ready s b _ => { out := issueBundle x b s, used := some (unitSet b.items) }

/-- Whether the next bundle of a context is ready. -/
def State.isReady (s : State) (x : Nat) : Bool :=
  match s.tryHand x with | .ready .. | .trap .. => true | _ => false

/-- W and Forced after a cycle in which context 1 was ready and did not issue, or otherwise. -/
def Core.waited (k : Core) (ready : Bool) : Core :=
  if ready then { k with w := k.w + 1, forced := k.w + 1 == 32 } else { k with w := 0, forced := false }

/-- Units of two bundles are disjoint. -/
def apart (us vs : List Nat) : Bool := us.all fun u => !vs.contains u

/-- Context 1 of core `k` in a cycle in which context 0 has used the units `used`: it merges, issues alone or waits (05 R92). `y0` and
`y1` are Yielded of the two contexts. -/
def second (k : Nat) (used : Option (List Nat)) (y0 y1 : Bool) (s : State) : Host.Outcome State Fault Refusal :=
  let x := 2 * k + 1
  let rest := fun (r : Bool) (s : State) => Host.Outcome.next (s.upCore k fun c => c.waited (r && !y0 && !y1))
  let may := fun (us : List Nat) => !y1 && used.all (apart us)
  match s.tryHand x with
  | .notReady s => rest false s
  | .wait s => rest false s.draw
  | .trap s t => if may allUnits then rest false (s.takeTrap x t).draw else rest true s
  | .ready s b _ => if may (unitSet b.items) then andThen (issueBundle x b s) (rest false) else rest true s

/-! ## Gangs -/

/-- The core in whose turn core `k` runs: the lead of its gang, the primary of its decoupled CHECK pair, or itself. -/
def State.driver (s : State) (k : Nat) : Nat :=
  let c := s.ctx (2 * k)
  if c.gmode = 1 then (if c.gdec then k else 4 * groupOf k)
  else if c.gmode = 2 then (if (s.ctx (2 * (k - k % 2))).gdec then k - k % 2 else 4 * groupOf k)
  else k

/-- The cores that run in core `k`'s turn. -/
def State.driven (s : State) (k : Nat) : List Nat := ((List.range 4).map (4 * groupOf k + ·)).filter fun j => s.driver j == k

/-- Context 0 of core `k` is still coupled to its gang. -/
def State.coupled (s : State) (k : Nat) : Bool :=
  let c := s.ctx (2 * k)
  (c.gmode == 1 && !c.gdec) || (c.gmode == 2 && !(s.ctx (2 * (k - k % 2))).gdec)

/-- What the contexts 0 of a turn have done. -/
structure Firsts where
  out : Host.Outcome State Fault Refusal
  used : List (Nat × List Nat) := []

/-- The gang of group `g` advances, unless a member's context 1 is forced or the lead has yielded. -/
def gangTurn (g : Nat) (ks : List Nat) (yield forced : Bool) (s : State) : Firsts :=
  if yield || forced then { out := .next s }
  else
    let us := ks.map (2 * ·)
    let check := us.any fun y => (s.ctx y).gmode == 2
    let feeds := if check then us.filter fun y => y % 4 == 0 else [8 * g]
    let (s', used) := s.advance us (8 * g) feeds
    { out := .next s', used := used }

/-- A decoupled CHECK pair, whose primary is core `k`, advances. -/
def pairTurn (k : Nat) (yield forced : Bool) (s : State) : Firsts :=
  if yield || forced then { out := .next s }
  else
    let (s', used) := s.advance [2 * k, 2 * k + 2] (2 * k) [2 * k]
    { out := .next s', used := used }

/-- The contexts 0 of the cores that run in core `k`'s turn, where `y` and `f` say which contexts have yielded and which cores force
their context 1. While a CHECK gang's second pair is still coupled, the decoupled first one lets it catch up. -/
def firsts (k : Nat) (y : Nat → Bool) (f : Nat → Bool) (s : State) : Firsts :=
  let ks := s.driven k
  let cs := ks.filter s.coupled
  let own := if (s.ctx (2 * k)).gmode = 2 then !s.coupled k && cs.isEmpty else !s.coupled k
  let a := if cs.isEmpty then { out := .next s } else gangTurn (groupOf k) cs (y (8 * groupOf k)) (cs.any f) s
  if !own then a
  else if (s.ctx (2 * k)).gmode = 2 then pairTurn k (y (2 * k)) (f k || f (k + 1)) s
  else
    match a.out with
    | .next s =>
      if f k || y (2 * k) then a
      else
        let d := issueNext (2 * k) s
        { out := d.out, used := match d.used with | some us => (2 * k, us) :: a.used | none => a.used }
    | _ => a

/-- The contexts 1 of these cores. -/
def seconds (used : List (Nat × List Nat)) (y : Nat → Bool) (f : Nat → Bool) : List Nat → State → Host.Outcome State Fault Refusal
  | [], s => .next s
  | j :: js, s =>
    andThen
      (if f j then execForcedIssue j s
       else second j ((used.find? fun e => e.1 == 2 * j).map (·.2)) (y (2 * j)) (y (2 * j + 1)) s)
      (seconds used y f js)

/-- One cycle of the cores that run in core `k`'s turn. -/
def coreCycle (k : Nat) (s : State) : Host.Outcome State Fault Refusal :=
  let ks := s.driven k
  let xs := ks.flatMap fun j => [2 * j, 2 * j + 1]
  let s := xs.foldl State.tick s
  let s := xs.foldl State.compareDue s
  let s := xs.foldl State.resumePend s
  let ys := xs.filter fun x => (s.ctx x).yielded
  let s := s.upCtxs (fun c => { c with yielded := false }) ys
  let fs := ks.filter fun j => (s.core j).forced && s.isReady (2 * j + 1)
  let a := firsts k ys.contains fs.contains s
  andThen (andThen a.out (seconds a.used ys.contains fs.contains ks)) fun s =>
    .next (if k % 4 = 0 then s.stallTick (k / 4) else s)

/-! ## The device's own happenings -/

/-- A happening's meaning. -/
abbrev Act := State → Host.Outcome State Fault Refusal

/-- The end of a wait, and the watchdogs. -/
def waitEvents? (x : Nat) (w : Wait) : List Act :=
  let e : List Act := match w.kind with
    | 1 => [execPhwaitEnd x] | 2 => [execPhsigHoldEnd x] | 3 => [execFeWaitEnd x, execFeWatchdog x] | 4 => [execCopyEntryFree x] | 5 => [execRingpushEnd x]
    | 6 => [execMatrixQueueRoom x] | 7 => [execTileClaimGrant x] | 8 => [execMxwaitEnd x] | 9 => [execIcinvComplete x]
    | 10 => [execRejnComplete (groupOf (coreOf x))] | 12 => [execFenceComplete x] | 13 => [execWaitevEnd x] | 14 => [execTableUnpinEnd x]
    | 15 => [execTlbinvComplete x] | _ => []
  e ++ [execWaitTimeout x]

/-- A scoreboarded destination's landing, or the service that it asks for: `n` says which granules a load reads. -/
def pendEvents (x j n : Nat) (p : Pend) : List Act :=
  match p.what with
  | .smc svc _ => match svc.toNat with
    | 1 => [execZenithAttest x] | 2 => [execZenithBootinfo x] | 3 => [execZenithSetworld x] | 4 => [execZenithBootclr x]
    | 5 => [execZenithDiag x true, execZenithDiag x false] | _ => [execLoadResultLands x j ⟨false, 0⟩]
  | .again .. => []
  | _ => [⟨false, BitVec.allOnes 16⟩, ⟨true, BitVec.allOnes 16⟩, ⟨false, BitVec.ofNat 16 n⟩, ⟨true, BitVec.ofNat 16 n⟩].map fun g =>
      execLoadResultLands x j g

/-- What may happen to context `x`. -/
def ctxEvents (x n : Nat) (c : Ctx) : List Act :=
  (match c.occ with
    | none => []
    | some o =>
      match o.st with
      | .prepared => [execInstanceStart x, execInstanceSave x]
      | .retired => [execInstanceRetireDone x]
      | .halted => [execInstanceSave x]
      | .running => c.wait.elim [] (waitEvents? x) ++ ((List.range c.flight.length).map (execResultLands x ·)) ++ [execFetchBufferFill x]
      | _ => []) ++
    (c.pends.zipIdx.flatMap fun e => pendEvents x e.2 n e.1) ++
    (if c.hreq.isSome then [execHaltRequestArrives x, execContextHalt x, execForcedHalt x] else []) ++
    (if c.mxq.isEmpty then [] else [execMxTileCmdComplete x]) ++ (if c.join = .pending 0 then [execMxJoinEffect x] else []) ++
    (if c.sigs.isEmpty || c.gchk then [] else [execCheckSignatureCompare (coreOf x)])

/-- What may happen to core `k`'s copy engine: `n` is how far a started command goes. -/
def copyEvents (k n : Nat) (c : Core) : List Act :=
  (List.range c.copies.length).flatMap fun j => [execCommandStart k j n, execRingPanelRoom k j n, execPutsSlotRoom k j, execCommandComplete k j]

/-- The fill of the record that the array of group `g` waits for. -/
def missEvents (s : State) (g : Nat) : List Act :=
  match s.servedOp g with
  | some (x, m, r) => ((s.scaleMiss x m r).map fun q => execScaleMissFill g q.1 q.2.1 q.2.2).toList
  | none => []

/-- What may happen to group `g`. -/
def groupEvents (s : State) (g : Nat) : List Act :=
  [execMxRunStart g, execMxRunEnd g, execMxPanelRead g, execMxSuspendComplete g, execMxOpComplete g] ++ missEvents s g

/-- What may happen to a kernel. -/
def kernelEvents (kid : Nat) (k : Kernel) : List Act :=
  (if k.open then (k.krec.waits.filterMap fun w => w.map fun w => execDependenceEventSeen (Fin.ofNat 16384 w.1)) else []) ++
    (match k.st with
      | .cand => [execPlacementDecision]
      | .preloaded => [execPreloadStart kid]
      | .placed => if k.krec.budget = 0 then [] else [execBudgetOverrun kid]
      | .requeueing _ => [execRequeueSettle kid]
      | .killing => [execKillSettle kid])

/-- What may happen to a message for a phaser. -/
def phEvent (j : Nat) (m : PhMsg) : Act :=
  match m with | .member .. => execMemberSignal j | .anon .. => execAnonymousArrival j | .reg .. => execRegistrationArrives j

/-- What the links and the waiting flits may do. -/
def fabEvents (s : State) (n : Nat) : List Act :=
  (if s.fab.outq.isEmpty ∧ s.fab.store.isEmpty then []
    else [execFlitSend (Fin.ofNat 16 (n / 18)) (Fin.ofNat 18 n) (n / 288 % (s.fab.outq.length + 1)),
          execFlitAbandon (n % (s.fab.outq.length + s.fab.store.length))]) ++
    (s.fab.links.filterMap fun e => if !e.2.due then none else some (execLackDue (Fin.ofNat 16 (e.1 / 64)) (Fin.ofNat 128 (e.1 % 64)))) ++
    (s.fab.leases.flatMap fun e => e.2.elim [] fun v =>
      v.ports.map fun q => execLeaseAnswerTimeout (Fin.ofNat 256 e.1) (Fin.ofNat 16 q.port)) ++
    (s.fab.repairs.filterMap fun r => if r.waiting then some (execRepansTimeout (Fin.ofNat 16 r.port) (Fin.ofNat 64 r.line)) else none)

/-- What the Orreries may do. -/
def collEvents (s : State) : List Act :=
  s.orreries.flatMap fun e => e.2.tickets.flatMap fun t =>
    let d := Fin.ofNat 4 e.1
    let n := Fin.ofNat 64 t.1
    [execCollAdmission d n, execCollTransfer d n, execAdmissionWatchdog d n]

/-- A walk begins in the address space of context `x` ahead of any miss: for its next packet, or for a free address, which no access of it
need have made (09 R194). DESIGN CHOICE, log entry 64. -/
def State.walkAhead (s : State) (x n : Nat) : State :=
  s.walkBegins (dieOf (coreOf x)) (s.asidOf x) (s.worldOf x) (if n % 2 = 0 then (s.ctx x).pc.toNat else n / 2 % 2 ^ 48)

/-- What the caches and the walkers may do: fills of the L1s, write-backs, walks (09 R194, R199, R200; 16 R374). -/
def cacheEvents (s : State) (n : Nat) : List Act :=
  (s.cores.flatMap fun e => e.2.l1.filterMap fun l =>
    if l.2.any fun v => v.any Option.isNone then some fun s => .next (s.l1Fill e.1 l.1 (BitVec.ofNat 8 n)) else none) ++
    (s.lines.filterMap fun e => if e.2.back.isSome || (e.2.tag.isSome && e.2.poison.isSome) then some (execWritebackPoison e.1)
      else if e.2.tag.isNone then none else some fun s => .next { s with lines := lineBack s.lines e.1 }) ++
    (s.walks.flatMap fun e => (List.range (min walkers e.2.length)).map fun j s => .next (s.walkSteps e.1 j)) ++
    (s.ctxs.filterMap fun e => if e.1 < 768 ∧ e.2.running then some fun s => .next (s.walkAhead e.1 n) else none)

/-- The happenings that the device may bring about next; one that has nothing to do leaves the state as it is. `n` is a free number. -/
def State.ownEvents (s : State) (n : Nat) : List Act :=
  (s.queues.filterMap fun e => if e.2.en || e.2.part.isSome then some (execTakeQueueEntry (Fin.ofNat 64 e.1)) else none) ++
    (s.kernels.flatMap fun e => e.2.elim [] (kernelEvents e.1)) ++
    (s.ctxs.flatMap fun e => if e.1 < 768 then ctxEvents e.1 n e.2 else []) ++
    (s.cores.flatMap fun e => copyEvents e.1 n e.2) ++
    ((s.ctxs.filterMap fun e => if e.1 < 768 ∧ (e.2.hold || !e.2.mxq.isEmpty) then some (e.1 / 8) else none).dedup.flatMap (groupEvents s)) ++
    (s.groups.flatMap fun e => if e.2.run.isSome then groupEvents s e.1 else []) ++
    ((s.transit.zipIdx.filter fun e => (match e.1 with | .anon .. => true | _ => s.transitTurn e.2)).map fun e => phEvent e.2 e.1) ++ fabEvents s n ++ collEvents s ++ cacheEvents s n ++
    (if s.sys.cintBusy then [execCintHoldoffExpiry] else []) ++
    (if s.sys.cstate = 0 then (if s.idle then [execEnterLowPower] else []) else if s.anyEligible then [execLowPowerExit] else []) ++
    (s.sys.quar.flatMap fun e => [execZenithAutoDiag e.unit true, execZenithAutoDiag e.unit false])

/-- The device's own next happening: a free choice among those. -/
def State.ownEvent (s : State) : Option Act :=
  let es := s.ownEvents (Config.freeNat s.nfree 0x800001)
  es[Config.freeNat s.nfree 0x800000 % max 1 es.length]?

/-! ## Time (01 R21) -/

/-- A core cycle has passed for the whole device: Sidereal time moves on by one tick or by none. DESIGN CHOICE, log entry 53. -/
def State.passCycle (s : State) : State :=
  let s := s.upSys fun y => { y with cyc := y.cyc + 1 }
  (s.sidereal (s.sys.sidt + (if Config.freeBit s.nfree 0x800002 then 1 else 0)) (Config.freeBit s.nfree 0x800003)).draw

/-- The turn passes to the next core, after the device's own next happening. -/
def State.passTurn (s : State) : State :=
  if s.turn < 383 then { s with turn := s.turn + 1, devTurn := true }
  else { s with turn := 0, devTurn := true }.passCycle

/-! ## Steps that are not core cycles -/

/-- A happening that the agenda lists. A bundle's word happens only by being issued; in D3 nothing happens but a boot. -/
def runListed (i : Instr) (s : State) : Host.Outcome State Fault Refusal :=
  match i with
  | .powerOnBoot o => exec (.powerOnBoot o) s
  | i =>
    if s.sys.d3 then .fault .poweredDown
    else if (wordEff i).isSome then .next s
    else exec i s

/-- The device's own next happening, if there is one. -/
def runOwn (s : State) : Host.Outcome State Fault Refusal :=
  match s.ownEvent with
  | some e => e s
  | none => .next s

/-! ## An instruction to fetch -/

/-- The record of a kernel of one instance with every handle and ring, at code address 0. -/
def KRec.plain : KRec :=
  { ctx := 0, gang := 0, supv := false, preload := false, rerun := 0, ovr := false, world := false, msix := false
    codeBase := 0, entry := 0, dk := 1, gk := 1, ck := 1, sk := 1, scratch := 1, phlo := 0, phcnt := 96, rings := 8, prio := 0
    pkey := 0, budget := 0, waits := [], done := none, crec := 0, srseed := 0, supidx := 0, msixvec := 0, args := [] }

/-- Bytes of the page tables that map the first GiB of virtual addresses to the second GiB of HBM, with R and X: a level 0 table at
0x10000, a level 1 table at 0x11000. -/
def codeTables : List (Nat × List Byte) :=
  [(0x10000, natLe 8 (0x11000 + 3)), (0x11000, natLe 8 (0x40000000 + 0x15))]

/-- Places words at address 0 of an instance that runs alone in context 0 of core 0, at the turn of that core. DESIGN CHOICE, log entry 7. -/
def State.withCode (s : State) (ws : List Nat) : State :=
  let kid := s.nextKid
  let mem := (codeTables ++ [(0x40000000, ws.flatMap (natLe 4))]).foldl (fun m (e : Nat × List Byte) => memWr m e.1 e.2) s.mem
  let c : Ctx := { s.ctx 0 with
    pc := 0, wait := none, phnext := none, pends := [], flight := [], fbuf := [], hreq := none, gmode := 0, spbase := 0
    spsize := 65536, occ := some ⟨kid, 0, .running⟩, yielded := false, rarr := [] }
  { s with
    mem := mem
    lines := s.lines.del (lineOf 0x40000000)
    ctxs := s.ctxs.put 0 c
    cores := s.cores.put 0 { s.core 0 with forced := false, icache := [], ifill := [], tlb := [] }
    l2tlb := s.l2tlb.put 0 []
    kernels := s.kernels.put kid (some { Kernel.new KRec.plain 0 s.sys.cyc with st := .placed, ctxs := [0] })
    nextKid := kid + 1
    sys := { s.sys with roots := s.sys.roots.put 0 0x10001, worldCarve := s.sys.worldCarve.del (0x40000000 / 2 ^ 26), d3 := false, cstate := 0 }
    agenda := [], turn := 0, devTurn := false }

end Sys2Proof.Machine
end

