-- ==== Sys2Proof/Machine/Step.lean ====
section
/-! DEFINITION. One step of the device, and the placing of an instruction where the next step fetches. -/

namespace Sys2Proof.Machine

/-- One step. What the agenda lists comes first: happenings that the outside, or a choice of the device, brings about now. Else the
device's own next happening, or one core cycle of the core whose turn it is; the two take turns. DESIGN CHOICE, log entry 2. In D3
nothing but a boot happens (17 R387). -/
def step (s : State) : Host.Outcome State Fault Refusal :=
  match s.agenda with
  | i :: rest => runListed i { s with agenda := rest }
  | [] =>
    if s.sys.d3 then .fault .poweredDown
    else if s.devTurn then runOwn { s with devTurn := false }
    else andThen (coreCycle s.turn s) fun s => .next s.passTurn

/-- `s` with the instruction of a table row's bits at address 0 of an instance that runs alone in context 0 of core 0: its kernel, its
address space, and the turn. -/
def State.withFetchWord (s : State) (nbits w : Nat) : State := s.withCode (tableWords nbits w)

end Sys2Proof.Machine
end

