-- ==== Sys2Proof/Safety.lean ====
section
/-! DEFINITION. What counts as a safe run, and the terms in which claims speak of a state: what a program reads, what an instruction
leaves alone, and where a bundle goes on. -/

namespace Sys2Proof.Machine

/-! ## What a program reads -/

/-- The context whose bundle is executed. -/
def State.me (s : State) : Ctx := s.ctx s.cur

/-- Scalar register `n` as a source, with no result in flight: s0 reads zero (05 R97). -/
def Ctx.rd (c : Ctx) (n : Fin 32) : W64 := if n = 0 then 0 else c.s[n]

/-- Lane `k` of a row, a column or a diagonal, with no result in flight (05 R98). -/
def Ctx.at_ (c : Ctx) (a : Sel) (k : Fin 64) : W32 :=
  match a with
  | .row n => c.v[n][k]
  | .col j => c.v[k][j]
  | .diag d => c.v[Fin.ofNat 64 (k + d)][k]

/-- A mask, with no compare in flight. -/
def Ctx.mask (c : Ctx) : Mask → W64 | .em => c.em | .cm => c.cm

/-- A byte of physical memory. -/
def State.byte (s : State) (pa : Nat) : Byte := s.mem.get memDefault pa

/-- A byte of a core's scratchpad. -/
def State.spByte (s : State) (k off : Nat) : Byte := (s.core k).sp.get memDefault off

/-! ## Where a bundle goes on -/

/-- The instruction goes on in sequence: EndOf moves the pc and the loop stack (06 R121). -/
def GoesOn (s t : State) : Prop := t.me.pc = s.me.endSeq.pc ∧ t.me.loops = s.me.endSeq.loops

/-- The instruction goes to `a`, and the loop stack stays. -/
def GoesTo (s t : State) (a : Addr) : Prop := t.me.pc = a ∧ t.me.loops = s.me.loops

/-! ## What is left alone -/

/-- Nothing changes but the executing context and the count of free values: no other context, no core, no byte of memory. -/
def OnlyMe (s t : State) : Prop :=
  t = { s with ctxs := t.ctxs, nfree := t.nfree } ∧ (∀ y, y ≠ s.cur → t.ctx y = s.ctx y) ∧ ∀ a, t.byte a = s.byte a

/-- Nothing changes but the executing context, the scratchpad of its core with its full-empty bits and poison, the scale records that
the group's cache holds of it, and the count of free values. -/
def OnlyScratch (s t : State) : Prop :=
  t = { s with ctxs := t.ctxs, cores := t.cores, groups := t.groups, nfree := t.nfree } ∧ (∀ y, y ≠ s.cur → t.ctx y = s.ctx y) ∧
    (∀ k, t.core k = { s.core k with sp := (t.core k).sp, fe := (t.core k).fe, spPoison := (t.core k).spPoison }) ∧
    (∀ k, k ≠ coreOf s.cur → t.core k = s.core k) ∧
    (∀ g, t.group g = { s.group g with scache := (t.group g).scache }) ∧ ∀ a, t.byte a = s.byte a

/-- Nothing changes but the executing context, the caches and TLBs that a fetch fills, the walks in flight, and the count of
free values. -/
def OnlyFetch (s t : State) : Prop :=
  t = { s with ctxs := t.ctxs, cores := t.cores, l2tlb := t.l2tlb, walks := t.walks, nfree := t.nfree } ∧ (∀ y, y ≠ s.cur → t.ctx y = s.ctx y) ∧
    (∀ k, t.core k = { s.core k with icache := (t.core k).icache, ifill := (t.core k).ifill, tlb := (t.core k).tlb }) ∧
    ∀ a, t.byte a = s.byte a

/-- What belongs to the issue of a bundle and not to its words: where it goes on, the fetch buffer, the model's latches and the
commit signature of a CHECK pair (05 R107). -/
def Ctx.issued (c d : Ctx) : Ctx :=
  { c with pc := d.pc, loops := d.loops, fbuf := d.fbuf, iter := d.iter, granted := none, sigs := d.sigs }

/-! ## Safe runs -/

/-- The registers of a context hold what the spec lets them hold: RMODE no reserved code, PSLACK at most 16,384, TVEC a multiple of
4, at most six loops (05 R101, R103; 07 R148). -/
def Ctx.legal (c : Ctx) : Prop :=
  c.rmode.toNat < 5 ∧ c.pslack.toNat ≤ 16384 ∧ c.tvec.toNat % 4 = 0 ∧ c.loops.length ≤ 6

/-- Physical memory stands in its canonical form: one entry for a byte, and none for a byte that reads as if nothing had written it. -/
def State.canonical (s : State) : Prop := Memory.wf s.mem = true

/-- A run of `n` steps that neither stops nor leaves the canonical form. -/
def Safe : Nat → State → Prop
  | 0, s => s.canonical
  | n + 1, s => s.canonical ∧ ∃ t, step s = .next t ∧ Safe n t

end Sys2Proof.Machine
end

