-- ==== Sys2Proof/Certificates/Slice0/Obligations.lean ====
section
/-! DEFINITION. The statements for the provers. -/

open Sys2Proof Sys2Proof.Machine

namespace Sys2Proof.Claims

/-! ## Forms of a statement about a word -/

/-- No result of scalar register `n` is in flight (05 R94). -/
def Still (s : State) (n : Fin 32) : Prop := s.me.busyS n = false

/-- The results in flight after a newer result `v` of the lanes `l` (05 R95): an older one to the same place no longer lands. -/
def Newer (s : State) (v : FVal) (l : W64) : List Flight := s.me.flight.map fun f => f.cut v l

/-- `i` completes and writes `v` to sd at once: no other register, mask, flag or special register of the context changes, and outside it
nothing. s0 is never written (05 R97). -/
def WritesScalar (i : Instr) (s : State) (d : Fin 32) (v : W64) : Prop :=
  ∃ t, exec i s = .next t ∧ (∀ n, t.me.rd n = if n = d ∧ n ≠ 0 then v else s.me.rd n) ∧ GoesOn s t ∧ OnlyMe s t ∧
    t.me = ({ s.me with s := t.me.s, flight := if d = 0 then s.me.flight else Newer s (.s d v) 1 } : Ctx).issued t.me

/-- `i` completes with the result `v` of sd in flight, to land at the end of cycle `l` at the latest (05 R94); nothing else changes. -/
def LaunchesScalar (i : Instr) (s : State) (d : Fin 32) (v : W64) (l : Nat) : Prop :=
  let on : W64 := if d = 0 then 0 else 1
  ∃ t, exec i s = .next t ∧ GoesOn s t ∧ OnlyMe s t ∧
    t.me = ({ s.me with flight := Newer s (.s d v) on ++ [⟨.s d v, on, on, l - 1, 0⟩] } : Ctx).issued t.me

/-- No compare is in flight (08 R164). -/
def NoCompare (s : State) : Prop := ∀ f ∈ s.me.flight, ∀ x, f.val ≠ .cm x

/-- `i` completes and writes `v` to a mask at once; nothing else changes. -/
def WritesMask (i : Instr) (s : State) (m : Mask) (v : W64) : Prop :=
  ∃ t, exec i s = .next t ∧ t.me.mask m = v ∧ GoesOn s t ∧ OnlyMe s t ∧
    t.me = (match m with
      | .em => { s.me with em := v }
      | .cm => { s.me with cm := v, flight := Newer s (.cm v) (BitVec.allOnes 64) } : Ctx).issued t.me

/-- `i` completes in sequence and leaves the context as `c`, with nothing else changed. -/
def LeavesMe (i : Instr) (s : State) (c : Ctx) : Prop := ∃ t, exec i s = .next t ∧ GoesOn s t ∧ OnlyMe s t ∧ t.me = c.issued t.me

/-- What a fetch of the packet of `a` brings, where the fetch buffer holds `fb`. -/
def fetchedAt (s : State) (fb : List Packet) (a : Nat) : Fetched (List W32) :=
  ((s.upCtx s.cur fun c => { c with fbuf := fb }).packet s.cur (a / 32 * 32)).2

/-- `i` completes with a transfer to `a`; of the context only what `c` says changes. -/
def Transfers (i : Instr) (s : State) (a : W64) (c : Ctx) : Prop :=
  ∃ t, exec i s = .next t ∧ GoesTo s t (a.setWidth 48) ∧ OnlyFetch s t ∧ t.me = c.issued t.me

/-- `i` completes with a transfer to `a`, at which cause `k` is raised (04 R70). -/
def TransfersInto (i : Instr) (s : State) (a : W64) (c : Ctx) (k : Cause) (info : W64) (unit : BitVec 16) : Prop :=
  ∃ u, exec i s = .next (u.takeTrap s.cur ⟨k, a.setWidth 48, info, unit⟩).draw ∧ GoesTo s u (a.setWidth 48) ∧ OnlyFetch s u ∧
    u.me = c.issued u.me

/-- The context with `x` written to sd and older results for it in flight overtaken. -/
def Ctx.withS (c : Ctx) (d : Fin 32) (x : W64) : Ctx :=
  if d = 0 then c else { c with s := c.s.set d x, flight := c.flight.map fun f => f.cut (.s d x) 1 }

/-- `i` takes trap `c` at its bundle with this TINFO: nothing of the bundle stands (00 R14), and the trap is taken (16 R357). -/
def Traps (i : Instr) (s : State) (c : Cause) (info : W64) : Prop :=
  exec i s = .next (s.takeTrap s.cur ⟨c, s.me.pc, info, 0⟩).draw

/-- `i` raises cause `k` at `a` while nothing of its bundle stands. -/
def TrapsAt (i : Instr) (s : State) (a : Addr) (k : Cause) (info : W64) (unit : BitVec 16) : Prop :=
  exec i s = .next (s.takeTrap s.cur ⟨k, a, info, unit⟩).draw

/-- `i` raises a captured record at its bundle (11 R246, 12 R270). -/
def TrapsRec (i : Instr) (s : State) (f : FaultRec) : Prop :=
  exec i s = .next (s.takeTrap s.cur ⟨f.cause, s.me.pc, f.info, f.unit⟩).draw

/-- The fetch at `a` waits for the host while nothing of the bundle stands (09 R197), with TPC `at_` if it fails; where the page-fault ring
does not take its page, `P` holds. -/
def ParksAt (i : Instr) (s : State) (a : Nat) (at_ : Addr) (P : Prop) : Prop :=
  match s.park (s.asidOf s.cur) 0 (BitVec.ofNat 32 (a / 65536)) with
  | some u => ∃ w : Wait, exec i s = .next (u.upCtx s.cur fun c => { c with wait := some w }).draw ∧ w.kind = 11 ∧
      w.page = BitVec.ofNat 32 (a / 65536) ∧ w.tpc = at_ ∧ w.info = BitVec.ofNat 64 (a % 2 ^ 48)
  | none => P

/-- What `i` does whose transfer to `a` is taken (04 R70): a bundle's first word is reached; a word that begins none, or no word's
address, traps at `i`; an address past 2^48, a pool packet and a failing fetch complete `i` and raise their cause at `a`. Of the context
only what `c` says changes, and its fetch buffer is `fb` before the fetch. -/
def Takes (i : Instr) (s : State) (fb : List Packet) (a : W64) (c : Ctx) : Prop :=
  (a.toNat % 4 ≠ 0 → Traps i s .startBit a) ∧
  (a.toNat % 4 = 0 → 2 ^ 48 ≤ a.toNat → TransfersInto i s a c .xlate (BitVec.ofNat 64 (a.toNat % 2 ^ 48)) 0) ∧
  (a.toNat % 4 = 0 → a.toNat < 2 ^ 48 →
    match fetchedAt s fb a.toNat with
    | .ok ws =>
      if isPool ws = true then TransfersInto i s a c .poolExec (BitVec.ofNat 64 (a.toNat / 32 * 32)) 0
      else if bBit (ws.getD (a.toNat % 32 / 4) 0) = true then Transfers i s a c
      else Traps i s .startBit a
    | .fault f =>
      if f = xNomap ∧ s.hostPf = true then ParksAt i s a.toNat (a.setWidth 48) (TransfersInto i s a c .xlate a 0)
      else TransfersInto i s a c f.cause a 0
    | .poison u => ∃ w, TransfersInto i s a c .poison w u)

/-- `n` follows the bundle framed at `e` (04 R69), whose packet can be had. -/
def Follows (s : State) (e n : Addr) : Prop :=
  ∃ ws, fetchedAt s s.me.fbuf e.toNat = .ok ws ∧ bBit (ws.getD (e.toNat % 32 / 4) 0) = true ∧
    n = BitVec.ofNat 48 (successor ws (e.toNat / 32 * 32) (e.toNat % 32 / 4) (frameAt ws (e.toNat % 32 / 4)).length)

/-- No result of a row is in flight (05 R94). -/
def StillRows (s : State) : Prop := ∀ f ∈ s.me.flight, ∀ n x, f.val ≠ .v n x

/-- One more cycle where a source is a column or a diagonal (05 R94, R98). -/
def extra : List Sel → Nat
  | [] => 0
  | .row _ :: as => extra as
  | _ :: _ => 1

/-- RSDCTR after a word that reads RMODE: it takes a tag where RMODE is RSD and some lane is enabled (07 R150). -/
def tagged (c : Ctx) (reads : Bool) : W32 := if reads = true ∧ c.rmode = 4 ∧ c.em ≠ 0 then c.rsdctr + 1 else c.rsdctr

/-- `i` completes with a result of row vd in flight for the lanes `on`, to land at the end of cycle `l` at the latest; `P` says what the
row and the flags are, which land with it. Nothing else changes. -/
def LaunchesRow (i : Instr) (s : State) (d : Fin 64) (l : Nat) (on : W64) (reads : Bool) (P : Row → Flags → Prop) : Prop :=
  ∃ t x f, exec i s = .next t ∧ P x f ∧ GoesOn s t ∧ OnlyMe s t ∧
    t.me = ({ s.me with
      rsdctr := tagged s.me reads, flight := Newer s (.v d x) on ++ [⟨.v d x, on, on, l - 1, f⟩] } : Ctx).issued t.me

/-- A lane operation of bound 2 without flags: each enabled lane `k` gets `f k`. -/
def Lanes (i : Instr) (s : State) (d : Fin 64) (as : List Sel) (f : Fin 64 → W32) : Prop :=
  LaunchesRow i s d (2 + extra as) s.me.em false fun x g => g = 0 ∧ ∀ k : Fin 64, s.me.em.getLsbD k → x[k] = f k

/-- `i` completes with the bits `f k` of CM in flight for the enabled lanes, behind those of older compares, which land first (08 R164);
nothing else changes. -/
def Compares (i : Instr) (s : State) (as : List Sel) (f : Fin 64 → Bool) (P : Flags → Prop) : Prop :=
  ∃ t x g, exec i s = .next t ∧ (∀ k : Fin 64, s.me.em.getLsbD k → x.getLsbD k = f k) ∧ P g ∧ GoesOn s t ∧ OnlyMe s t ∧
    t.me = ({ s.me with
      flight := s.me.flight ++ [⟨.cm x, s.me.em, s.me.em, 1 + extra as, g⟩] } : Ctx).issued t.me

/-- The flags `f k` of the enabled lanes, ORed. -/
def flagsOf (em : W64) (f : Fin 64 → Flags) : Flags := (List.finRange 64).foldl (fun a (k : Fin 64) => if em.getLsbD k then a ||| f k else a) 0

/-- A word that rounds each FP32 lane under RMODE: bound 4, `f mode a b d` gives a lane's code and flags. -/
def Rounds32 (i : Instr) (s : State) (d : Fin 64) (a b : Sel) (f : RM → Nat → Nat → Nat → Nat × Flags) : Prop :=
  let r := fun k : Fin 64 => f (modeOf s.me.rmode s.me.srseed s.me.rsdctr k) (s.me.at_ a k).toNat (s.me.at_ b k).toNat (s.me.v[d][k]).toNat
  LaunchesRow i s d (4 + extra [a, b]) s.me.em true fun x g =>
    g = flagsOf s.me.em (fun k => (r k).2) ∧ ∀ k : Fin 64, s.me.em.getLsbD k → x[k] = BitVec.ofNat 32 (r k).1

/-- The same for each element of a 16-bit pair. -/
def Rounds16 (i : Instr) (s : State) (d : Fin 64) (a b : Sel) (f : RM → Nat → Nat → Nat → Nat × Flags) : Prop :=
  let r := fun (k : Fin 64) (j : Nat) => f (modeOf s.me.rmode s.me.srseed s.me.rsdctr (2 * k + j))
    ((s.me.at_ a k).extractLsb' (16 * j) 16).toNat ((s.me.at_ b k).extractLsb' (16 * j) 16).toNat
    ((s.me.v[d][k]).extractLsb' (16 * j) 16).toNat
  LaunchesRow i s d (4 + extra [a, b]) s.me.em true fun x g =>
    g = flagsOf s.me.em (fun k => (r k 0).2 ||| (r k 1).2) ∧
      ∀ k : Fin 64, s.me.em.getLsbD k → ∀ j, j < 2 → (x[k]).extractLsb' (16 * j) 16 = BitVec.ofNat 16 (r k j).1

/-! ## Forms of a statement about memory and engines -/

/-- An access of `n` bytes at local address `ea`, aligned to `al`, is allowed (09 R180, R181). -/
def SpOk (s : State) (ea : W64) (n al : Nat) : Prop := ea.toNat % al = 0 ∧ ea.toNat + n ≤ s.me.spsize

/-- Byte `o` of the executing context's partition. -/
def myByte (s : State) (o : Nat) : Byte := s.spByte (coreOf s.cur) (s.me.spbase + o)

/-- Full-empty bit of the granule of the core's scratchpad that holds byte `o` of the partition. -/
def myFe (s : State) (o : Nat) : Bool := (s.core (coreOf s.cur)).feGet ((s.me.spbase + o) / 16)

/-- No granule that `n` bytes at local address `a` touch is poisoned (16 R374). -/
def NoPoison (s : State) (a n : Nat) : Prop := (s.core (coreOf s.cur)).spPoisoned (s.me.spbase + a) n = false

/-- A load of form `q` need not wait: every granule from that of `a` on, `n` of them, is full (09 R184). -/
def FullFor (s : State) (q : QLoad) (a n : Nat) : Prop :=
  q = .plain ∨ ∀ j, j < n → (s.core (coreOf s.cur)).feGet (s.me.spbase / 16 + a / 16 + j) = true

/-- The little-endian number of `n` bytes of the partition. -/
def myNat (s : State) (a n : Nat) : Nat := leNat ((List.range n).map fun j => myByte s (a + j))

/-- The full-empty bits after `i`: those of the granules that `n` bytes at `a` touch hold `v`, if it is given; others stay. -/
def FeAfter (s t : State) (a n : Nat) (v : Option Bool) : Prop :=
  ∀ g, (t.core (coreOf s.cur)).feGet g =
    match v with
    | some b => if (s.me.spbase + a) / 16 ≤ g ∧ g ≤ (s.me.spbase + a + n - 1) / 16 then b else (s.core (coreOf s.cur)).feGet g
    | none => (s.core (coreOf s.cur)).feGet g

/-- `i` completes as a scratchpad load: the context becomes `c`, `.WC` clears the granules it read, no byte changes. -/
def LoadsLocal (i : Instr) (s : State) (q : QLoad) (a n : Nat) (c : Ctx) : Prop :=
  ∃ t, exec i s = .next t ∧ GoesOn s t ∧ OnlyScratch s t ∧ t.me = c.issued t.me ∧ (∀ o, t.spByte (coreOf s.cur) o = s.spByte (coreOf s.cur) o) ∧
    FeAfter s t a n (if q = .waitClr then some false else none)

/-- `i` completes as a scratchpad store: exactly the bytes that `w` gives are written, at their offsets in the partition. -/
def StoresLocal (i : Instr) (s : State) (a n : Nat) (fe : Option Bool) (w : Nat → Option Byte) : Prop :=
  ∃ t, exec i s = .next t ∧ GoesOn s t ∧ OnlyScratch s t ∧ t.me = s.me.issued t.me ∧ FeAfter s t a n fe ∧
    ∀ o, t.spByte (coreOf s.cur) o = if s.me.spbase ≤ o then (w (o - s.me.spbase)).getD (s.spByte (coreOf s.cur) o) else s.spByte (coreOf s.cur) o

/-- `i` completes: the context becomes `c`, and outside it the state becomes what `u` is; the state of other contexts as in `u` too. -/
def Does (i : Instr) (s : State) (c : Ctx) (u : State) : Prop :=
  ∃ t, exec i s = .next t ∧ GoesOn s t ∧ t.me = c.issued t.me ∧ t = { u with ctxs := t.ctxs, nfree := t.nfree } ∧
    (∀ y, y ≠ s.cur → t.ctx y = u.ctx y) ∧ ∀ a, t.byte a = u.byte a

/-- The context with the value `v` on its way to the scoreboarded register sd (05 R96). -/
def owed (s : State) (d : Fin 32) (v : W64) : Ctx := { s.me with pends := s.me.pends ++ [⟨.s d, .ans v, s.me.pc, false⟩] }

/-- `i` completes with the answer `v` for sd; outside the context the state becomes what `u` is. -/
def Answers (i : Instr) (s : State) (d : Fin 32) (v : Int) (u : State) : Prop := Does i s (owed s d (BitVec.ofInt 64 v)) u

/-- `i` waits: the bundle stays unissued, and WAITST names the wait (12 R271). -/
def Waits (i : Instr) (s : State) (w : Wait) : Prop :=
  ∃ t, exec i s = .next t ∧ OnlyMe s t ∧ t.me = { s.me with wait := some { w with since := s.me.cycle.setWidth 32 } }

/-- The context performs E words itself: it is no checker (05 R106). -/
def Performs (s : State) : Prop := ¬(s.me.gmode = 2 ∧ s.me.gchk = true)

/-- The executing core. -/
def myCore (s : State) : Core := s.core (coreOf s.cur)

/-- A completion handle that a command may name, and what it captures (12 R266). -/
def Captures (s : State) (h : Hnd) (arr : Option Arrive) : Prop :=
  match h with
  | none => arr = none
  | some h => ∃ o, (myCore s).handles[h].obj = some o ∧ arr = some ⟨h, o⟩

/-- A copy command with request `r` passes the checks at issue (11 R242, R243), and the queue has an entry for it (11 R238). -/
def CopyAccepted (s : State) (r : CopyReq) (opx : Nat) : Prop :=
  formFault (s.iss s.cur) r = none ∧ alignFault r opx = none ∧ rangeFault (s.iss s.cur) r = none ∧ 0 < copyFree (myCore s).copies s.cur

/-- The state with one more command at the end of the core's copy queue. -/
def queued (s : State) (c : Copy) : State :=
  { s.upCore (coreOf s.cur) (fun k => { k with copies := k.copies ++ [c] }) with nextId := s.nextId + 1 }

/-- A command as it enters the queue: what it was issued with, and no progress (11 R238, R242). -/
def fresh (s : State) (op : Nat) (l : CopyLend) (a b c : W64) (arr : Option Arrive) (len : Nat) (sh : Option Shape) (claim : W32) : Copy :=
  { id := s.nextId, op := op, lend := l, a := a, b := b, c := c, arr := arr, ctx := s.cur, kid := (s.kidOf s.cur).getD 0
    n := s.me.occ.elim 0 (·.n), len := len, shape := sh, claim := claim, started := false, acqDone := false, off := 0, unacked := 0
    slot := none, headed := false, parked := false, page := 0, asked := [], fault := none, wr := 0, buf := [], got := [], bad := none }

/-- The context after a copy of request `r` has claimed the panels of its ring, if it fills one (11 R253). -/
def claims (s : State) (r : CopyReq) : Ctx :=
  match r.plan.ring with
  | none => s.me
  | some q =>
    { s.me with rings := s.me.rings.set! q { s.me.ring q with claim := (s.me.ring q).claim + BitVec.ofNat 32 (r.plan.len / (16 * (s.me.ring q).psize)) } }

/-- First panel that the copy claims. -/
def firstClaim (s : State) (r : CopyReq) : W32 := r.plan.ring.elim 0 fun q => (s.me.ring q).claim

/-- The tile claim of the core is free or the context's own (10 R214). -/
def ClaimFree (s : State) : Prop := (myCore s).claim = none ∨ (myCore s).claim = some s.cur

/-- The state with the tile claim taken. -/
def claimed (s : State) : State := s.upCore (coreOf s.cur) fun k => { k with claim := some s.cur }

/-- The context with a command at the end of its matrix queue (10 R215). -/
def mxQueued (s : State) (k : MxKind) (arr : Option Arrive) : Ctx := { s.me with mxq := s.me.mxq ++ [⟨k, arr, false, 0, [], false, [], []⟩] }

/-- The handle that a word of the executing context names. -/
def mine (s : State) (h : Fin 96) : Handle := (myCore s).handles[h]

/-- The state with handle `h` of the executing core changed. -/
def handled (s : State) (h : Fin 96) (q : Handle) : State := s.upCore (coreOf s.cur) fun k => { k with handles := k.handles.set h q }

/-- The state with one more message on its way to a phaser object. -/
def sent (s : State) (m : PhMsg) : State := { s with transit := s.transit ++ [m] }

/-- The happening `i` leaves the state as `t`. -/
def Makes (i : Instr) (s t : State) : Prop := exec i s = .next t

/-- The happening `i` leaves a state of which `P` holds. -/
def Ends (i : Instr) (s : State) (P : State → Prop) : Prop := ∃ t, exec i s = .next t ∧ P t

/-- A kernel is killed, with nothing to blame for it (16 R360). -/
def Dying (t : State) (kid : Nat) : Prop := ∃ k, t.kernel kid = some k ∧ k.st = .killing ∧ k.fin = some (EndInfo.plain .killed)

/-- `i` answers the pending request of context `j` for service `svc` with `v`: it lands, the core's read-only L1 is invalidated
(17 R389), and `P` holds. -/
def Replies (i : Instr) (s : State) (j svc : Nat) (f : W64 → W64 → State → Prop) : Prop :=
  ∀ (c : Fin 32) (a p : W64) (pc : Addr) (rest : List Pend), p.toNat = svc → (s.ctx j).pends = ⟨.s c, .smc p a, pc, false⟩ :: rest →
    (s.ctx j).running = true → (2 < svc → s.worldOf j = true) → ∃ v, Ends i s fun t =>
      f a v t ∧ (∀ n : Fin 32, (t.ctx j).s[n] = if n = c ∧ n ≠ 0 then v else (s.ctx j).s[n]) ∧ (t.ctx j).pends = rest ∧
      (t.core (coreOf j)).l1 = [] ∧ ∀ y, y ≠ j → y ≠ j + 2 → t.ctx y = s.ctx y

/-- Unit `u` is quarantined, and no byte of memory and no context changes. -/
def Isolates (s t : State) (u : Nat) : Prop := t.quarantined u = true ∧ t.mem = s.mem ∧ t.ctxs = s.ctxs

/-- Diagnostics of unit `u` have passed: its quarantine goes if it was detected in hardware mode; in host-assisted mode QLIFT may lift
it from now on (17 R383, R385). -/
def Lifts (s t : State) (u : Nat) : Prop :=
  ∀ e, e ∈ t.sys.quar ↔ (e ∈ s.sys.quar ∧ e.unit.toNat ≠ u) ∨
    ∃ d ∈ s.sys.quar, d.unit.toNat = u ∧ d.host = true ∧ e = { d with pair := false }

/-- Kernel `kid` is being killed with this cause (16 R360). -/
def KilledBy (t : State) (kid : Nat) (P : EndInfo → Prop) : Prop := ∃ k e, t.kernel kid = some k ∧ k.st = .killing ∧ k.fin = some e ∧ P e

/-- The instance in context `x` and its kernel. -/
def Holds (s : State) (x : Nat) (o : Occ) (k : Kernel) : Prop := (s.ctx x).occ = some o ∧ s.kernel o.kid = some k

/-- Context `x` runs alone: no gang waits for it. -/
def Alone (s : State) (x : Nat) : Prop := (s.ctx x).running = true ∧ (s.ctx x).gmode = 0

/-- The context with a halt: results land, the waits and the request end, loads are recorded for reissue (09 R207, 16 R363, R364). -/
def HaltsCtx (s t : State) (x : Nat) (h : HaltReq) (forced : Bool) : Prop :=
  let c := s.ctx x
  let d := t.ctx x
  d.occ = c.occ.map (fun o => { o with st := .halted }) ∧ d.mid = forced ∧ d.wait = none ∧ d.hreq = none ∧ d.flight = [] ∧ d.pc = c.pc ∧
    d.loops = c.loops ∧ (d.ctlhalt = true ↔ c.ctlhalt = true ∨ h.ctl = true) ∧
    (∀ p ∈ d.pends, ∀ va n f ls got, p.what ≠ .load va n f ls got) ∧
    (∀ p ∈ c.pends, ∀ va n f ls got, p.what = .load va n f ls got →
      { p with what := .again va n f (got.map (·.1) ++ ls.map (·.1)) } ∈ d.pends) ∧
    t.transit = s.transit ++ (h.arrs.map fun a => .anon a.2.obj 1 none a.1 (some a.2.h)) ∧ (∀ y, y ≠ x → t.ctx y = s.ctx y) ∧
    t = { s with ctxs := t.ctxs, transit := t.transit }

/-- The wait of kind `kind` that context `x` stands in ends by `i` when its bundle would no longer wait; a bundle that waits for
something else waits for that (12 R271). -/
def EndsWait (s : State) (x : Nat) (i : Instr) (kind : Nat) : Prop :=
  let s0 := s.upCtx x fun c => { c with wait := none }
  ((s.ctx x).wait = none → Makes i s s) ∧
  ∀ w, (s.ctx x).wait = some w →
    (w.kind ≠ kind ∨ (s.ctx x).running = false → Makes i s s) ∧
    (w.kind = kind → (s.ctx x).running = true →
      match s0.rewait x with
      | none => Makes i s s0
      | some (u, v) => Makes i s (u.upCtx x fun c => { c with wait := some (if v.kind = kind then { v with since := w.since } else v) }))

/-- `i` performs the invalidation that the bundle of context `x` waits for. -/
def GrantsWait (s : State) (x : Nat) (i : Instr) (kind : Nat) : Prop :=
  Ends i s fun t => t = { s with ctxs := t.ctxs } ∧ (∀ y, y ≠ x → t.ctx y = s.ctx y) ∧
    ((s.ctx x).running = true → (∃ w, (s.ctx x).wait = some w ∧ w.kind = kind) →
      t.ctx x = { s.ctx x with wait := none, granted := some kind }) ∧
    ((s.ctx x).running = false ∨ (∀ w, (s.ctx x).wait = some w → w.kind ≠ kind) → t.ctx x = s.ctx x)

/-- Command `j` of the queue of core `k` is `c`, and no other bears its number. -/
def IsCmd (s : State) (k j : Nat) (c : Copy) : Prop :=
  (s.core k).copies[j]? = some c ∧ coreOf c.ctx = k ∧ ∀ d ∈ (s.core k).copies, d.id = c.id → d = c

/-- The arrival that a completed command sends to the phaser it captured (11 R246). -/
def arrivals (k : Nat) (arr : Option Arrive) (f : Option FaultRec) : List PhMsg :=
  (arr.map fun a => PhMsg.anon a.obj 1 f k (some a.h)).toList

/-- Command `c` has left its queue, and its arrival is on its way. -/
def Leaves (s t : State) (k : Nat) (c : Copy) (f : Option FaultRec) : Prop :=
  (t.core k).copies = (s.core k).copies.filter (fun d => d.id != c.id) ∧ t.transit = s.transit ++ arrivals k c.arr f

/-- A phaser object after an event that leaves it as `p`: it advances once when every signal and arrival of its phase has come, and
`p` leaves it nothing for the next (12 R267). -/
def Advances (p : Phaser) : Phaser :=
  if 0 < p.nsig + p.anon ∧ p.nsig ≤ p.sc0 ∧ p.anon ≤ p.acnt then
    { p with phase := p.phase + 1, sc0 := p.sc1, sc1 := 0, acnt := p.acnt - p.anon }
  else p

/-- The object stops advancing at `p`. -/
def Rests (p : Phaser) : Prop := ¬(0 < p.nsig + p.anon ∧ p.nsig ≤ p.sc0 ∧ p.anon ≤ p.acnt)

/-- The words of C of operation `r` at core `k` (its columns below 256) hold the elements `acc`. -/
def HoldsC (t : State) (k : Nat) (r : Vector W64 16) (acc : List W32) : Prop :=
  ∀ i j, i < mxM r → j < mxN r → j < 256 → (t.core k).tileRd (mxTrow r + i) (16 * mxTcolb r + j) = acc.getD (i * mxN r + j) 0

/-- A region's words in the tile store hold `f i j`, the others what they held. -/
def RegionIs (s t : State) (k : Nat) (g : Region) (f : Nat → Nat → W32) : Prop :=
  ∀ row col, row < 128 → col < 256 → (t.core k).tileRd row col =
    if g.trow ≤ row ∧ row < g.trow + g.nrows ∧ g.tcol ≤ col ∧ col < g.tcol + g.ncols then f (row - g.trow) (col - g.tcol)
    else (s.core k).tileRd row col

/-- Number of the link of port `p` and comb line `k`. -/
def linkOf (p : Fin 16) (k : Fin 128) : Nat := 64 * p.val + k.val % 64

/-- Flit `f` comes in whole and in order at an enabled port, on a line that a detector listens to and a link that replays nothing; its
trailer returns nothing, and the link acknowledges it later (13 R299, R308; 14 R329). -/
def ComesIn (s : State) (p : Fin 16) (k : Fin 128) (f : Flit) : Prop :=
  let q := s.fab.link (linkOf p k)
  s.fab.portOn p = true ∧ s.listens p k = true ∧ flitIntact f = true ∧ f.lseq = q.rx ∧ q.replay = none ∧ q.unack < 63 ∧ f.fline = none

/-- The same of a flit of a type and a hop class that are not reserved (13 R307). -/
def Arrives (s : State) (p : Fin 16) (k : Fin 128) (f : Flit) : Prop := ComesIn s p k f ∧ f.type ≠ 7 ∧ f.hc ≠ 3

/-- The link counts the accepted flit, and owes its buffer slot (14 R329). -/
def Credited (s t : State) (p : Fin 16) (k : Fin 128) (f : Flit) : Prop :=
  let q := s.fab.link (linkOf p k)
  t.fab.link (linkOf p k) = ({ q with rx := q.rx + 1, unack := q.unack + 1 } : Link).owe f.hc.val

/-- Message `m` leaves state `a` now, if it can, or waits for the next slot (13 R293, R306). -/
def Emits (a t : State) (m : FabMsg) : Prop :=
  if a.canLeave m = true then t.fab.wire = m :: a.fab.wire ∧ t.fab.ctlq = a.fab.ctlq
  else t.fab.wire = a.fab.wire ∧ t.fab.ctlq = a.fab.ctlq ++ [⟨a.frame, 0, 63, none, a.sys.sidt, m⟩]

/-- One performed acknowledgement goes to the sender of `f`, with this refusal or none (13 R312). -/
def Answered (s t : State) (f : Flit) (bad : Option FaultRec) : Prop := Emits s t (.performed f.src f.tag 1 bad)

/-- No earlier verdict on the page of `f` and its command stands (13 R311). -/
def NoVerdict (s : State) (f : Flit) : Prop :=
  ∀ v ∈ s.fab.verdicts, ¬(v.src = f.src ∧ v.tag = f.tag ∧ v.pkey = f.pkey ∧ v.type = f.type ∧ v.page = f.addr.toNat / 65536)

/-- The target's check of `f` has no earlier verdict to go by, and lets it into page `x`, which is no value page (13 R311). -/
def LetsIn (s : State) (f : Flit) (op : WinOp) (acc : Acc) (x : Xl) : Prop :=
  s.fab.keyOk f.pkey = true ∧ NoVerdict s f ∧
    (∃ w, s.window f.addr.toNat = some w ∧ w.lets op = true ∧ s.walkFor w.asid false acc f.addr.toNat = .ok x) ∧ x.isValue = false

/-- The bytes at `pa` become `bs`, the others stay. -/
def BytesAre (s t : State) (pa : Nat) (bs : List Byte) : Prop :=
  ∀ q, t.byte q = if pa ≤ q ∧ q < pa + bs.length then bs.getD (q - pa) 0 else s.byte q

/-- Ticket `n` of die `d` is gone, and its handle is told with this record or none (15 R347, R350). -/
def TicketEnds (t : State) (d n : Nat) (v : Ticket) (f : Option FaultRec) : Prop :=
  (t.orrery d).ticket n = none ∧ PhMsg.anon v.arr.obj 1 f v.core (some v.arr.h) ∈ t.transit

/-- Port `p` of outgoing lease `l` is the first of that number, and `q` says what it holds (13 R301). -/
def PortIs (s : State) (l p : Nat) (q : LPort) : Prop := ∃ v, s.leasePort l p = some (v, q)

/-- No port of lease `l` with number `p` is still live (13 R301, R304). -/
def PortOver (t : State) (l p : Nat) : Prop := ∀ v, t.fab.lease l = some v → ∀ q ∈ v.ports, q.port = p → q.st = .over

/-- The incoming leases of (src, lid, sport) end at the start of frame `fr`, or where they took effect later; others stand (13 R304). -/
def EndsIncoming (s t : State) (src : BitVec 13) (lid sport fr : Nat) : Prop :=
  t.fab.incoming = s.fab.incoming.map fun i =>
    if i.src = src ∧ i.lid = lid ∧ i.sport = sport then { i with fin := min i.fin (max fr i.eff) } else i

/-- A message waits for its slot. -/
def Queued (t : State) (m : FabMsg) : Prop := ∃ e ∈ t.fab.ctlq, e.msg = m

/-- One more message among several leaves state `s`, or waits. -/
def Goes (s t : State) (m : FabMsg) : Prop := (s.canLeave m = true → m ∈ t.fab.wire) ∧ (s.canLeave m = false → Queued t m)

/-- Only the fabric's state differs from `a`. -/
def OnlyFab (a t : State) : Prop := t = { a with fab := t.fab }

/-- The same, but for the count from which free values come. -/
def OnlyFabFree (a t : State) : Prop := t = { a with fab := t.fab, nfree := t.nfree }

/-- A record of type `type` about channel `c` of port `p` is the only one that joins the batch (14 R341). -/
def NotesOne (s t : State) (type p c : Nat) : Prop := ∃ e, t.fab.evq = s.fab.evq ++ [e] ∧ e.type = type ∧ e.port = p ∧ e.chan = c

/-- A record of type `type` about port `p` joins the batch (14 R341). -/
def Notes (t : State) (type p : Nat) : Prop := ∃ e ∈ t.fab.evq, e.type = type ∧ e.port = p

/-- The words of the tables' rows as kernels see them: HALT of CTXCTL stands for its five operations, which a register chooses. -/
def Named (i : Instr) : Prop :=
  match i with
  | .ctxctlFlush .. | .ctxctlRestart .. | .ctxctlResume .. | .ctxctlWake .. => False
  | _ => True

/-- It is the turn of core `k`, whose context 0 runs alone and waits for nothing, and whose context 1 holds no instance (05 R91). -/
def TurnOf (s : State) (k : Nat) : Prop :=
  s.agenda = [] ∧ s.sys.d3 = false ∧ s.devTurn = false ∧ s.turn = k ∧ k < 384 ∧
    (∀ j, j < 4 → (s.ctx (2 * (4 * (k / 4) + j))).gmode = 0) ∧ (s.ctx (2 * k)).running = true ∧ (s.ctx (2 * k)).yielded = false ∧
    (s.ctx (2 * k)).wait = none ∧ (s.ctx (2 * k)).phnext = none ∧ (s.ctx (2 * k)).mustReissue = false ∧
    (s.ctx (2 * k + 1)).occ = none ∧ (s.ctx (2 * k + 1)).yielded = false ∧ (s.core k).forced = false

/-- The fetch of context `x` leaves `u`, and the bytes at its pc are the bundle of the one instruction `i`, whose words are `ws` and
whose sequential successor is `n` (04 R69, R82). -/
def AtPc (s u : State) (x : Nat) (i : Instr) (ws : List Nat) (n : Nat) : Prop :=
  ∃ p, s.packet x ((s.ctx x).pc.toNat / 32 * 32) = (u, .ok p) ∧ isPool p = false ∧
    let j := (s.ctx x).pc.toNat % 32 / 4
    bBit ((frameAt p j).getD 0 0) = true ∧ ws = (frameAt p j).map (·.toNat) ∧
      decodeBundle (u.phloOf x) (u.phcntOf x) (u.ringsOf x) ws = .ok ⟨ws, [i]⟩ ∧
      n = successor p ((s.ctx x).pc.toNat / 32 * 32) j (frameAt p j).length

end Sys2Proof.Claims

open Sys2Proof.Claims

/-! ## Scalar words -/

/-- 06 R113, R114, R117: the two-source scalar members of bound 1. -/
def Sys2Proof.Claims.scalarAlu : Prop :=
  ∀ (s : State) (d a b : Fin 32), Still s a → Still s b →
    let x := s.me.rd a
    let y := s.me.rd b
    WritesScalar (.add d a b) s d (x + y) ∧ WritesScalar (.sub d a b) s d (x - y) ∧
    WritesScalar (.and d a b) s d (x &&& y) ∧ WritesScalar (.or d a b) s d (x ||| y) ∧ WritesScalar (.xor d a b) s d (x ^^^ y) ∧
    WritesScalar (.shl d a b) s d (x <<< (y.toNat % 64)) ∧ WritesScalar (.shr d a b) s d (x >>> (y.toNat % 64)) ∧
    WritesScalar (.sra d a b) s d (x.sshiftRight (y.toNat % 64)) ∧
    WritesScalar (.min d a b) s d (if x.toInt ≤ y.toInt then x else y) ∧
    WritesScalar (.max d a b) s d (if y.toInt ≤ x.toInt then x else y) ∧
    WritesScalar (.minu d a b) s d (if x.toNat ≤ y.toNat then x else y) ∧
    WritesScalar (.maxu d a b) s d (if y.toNat ≤ x.toNat then x else y) ∧
    WritesScalar (.seq d a b) s d (if x = y then 1 else 0) ∧ WritesScalar (.slt d a b) s d (if x.toInt < y.toInt then 1 else 0) ∧
    WritesScalar (.sltu d a b) s d (if x.toNat < y.toNat then 1 else 0) ∧
    WritesScalar (.addw d a b) s d (((x + y).extractLsb' 0 32).signExtend 64)

/-- 06 R113, R114: the multiplies, in flight with bound 4. -/
def Sys2Proof.Claims.scalarMultiply : Prop :=
  ∀ (s : State) (d a b : Fin 32), Still s a → Still s b →
    let x := s.me.rd a
    let y := s.me.rd b
    LaunchesScalar (.mul d a b) s d (BitVec.ofNat 64 (x.toNat * y.toNat)) 4 ∧
    LaunchesScalar (.mulhs d a b) s d (BitVec.ofInt 64 (x.toInt * y.toInt / 2 ^ 64)) 4 ∧
    LaunchesScalar (.mulhu d a b) s d (BitVec.ofNat 64 (x.toNat * y.toNat / 2 ^ 64)) 4

/-- 06 R113, R114, R117: the two-source scalar members and the multiplies. -/
def Obligations.ScalarAluResult : Prop := scalarAlu ∧ scalarMultiply

/-- 06 R113, R115, R116: select, counts and bit fields. -/
def Sys2Proof.Claims.scalarField : Prop :=
  ∀ (s : State) (d a b c : Fin 32) (pos len1 : Fin 64), Still s a → Still s b → Still s c → Still s d → pos.val + len1.val < 64 →
    let x := s.me.rd a
    WritesScalar (.sel d a b c) s d (if s.me.rd c = 0 then s.me.rd b else x) ∧
    (∃ r : Nat, WritesScalar (.clz d a) s d (BitVec.ofNat 64 r) ∧ r ≤ 64 ∧ (r < 64 → x.getMsbD r = true) ∧ ∀ k, k < r → x.getMsbD k = false) ∧
    WritesScalar (.popc d a) s d (BitVec.ofNat 64 ((List.range 64).countP fun k => x.getLsbD k)) ∧
    WritesScalar (.extr d a pos len1) s d (BitVec.ofNat 64 (x.toNat / 2 ^ pos.val % 2 ^ (len1.val + 1))) ∧
    ∃ v : W64, WritesScalar (.insr d a pos len1) s d v ∧
      ∀ k, k < 64 → v.getLsbD k = if pos.val ≤ k ∧ k ≤ pos.val + len1.val then x.getLsbD (k - pos.val) else (s.me.rd d).getLsbD k

/-- 06 R117: the immediate forms; the immediate is sign-extended, LUI's goes to bits 12 and above. -/
def Sys2Proof.Claims.scalarImmediate : Prop :=
  ∀ (s : State) (d a : Fin 32) (i : Int), Still s a →
    let x := s.me.rd a
    WritesScalar (.addi d a i) s d (x + BitVec.ofInt 64 i) ∧ WritesScalar (.andi d a i) s d (x &&& BitVec.ofInt 64 i) ∧
    WritesScalar (.ori d a i) s d (x ||| BitVec.ofInt 64 i) ∧ WritesScalar (.xori d a i) s d (x ^^^ BitVec.ofInt 64 i) ∧
    (∀ n : Nat, n < 64 → WritesScalar (.shli d a n) s d (x <<< n) ∧ WritesScalar (.shri d a n) s d (x >>> n) ∧
      WritesScalar (.srai d a n) s d (x.sshiftRight n)) ∧
    WritesScalar (.slti d a i) s d (if x.toInt < i then 1 else 0) ∧
    WritesScalar (.lui d i) s d (BitVec.ofInt 64 (i * 2 ^ 12))

/-- 06 R113, R115 to R117: select, counts, bit fields and the immediate forms. -/
def Obligations.ScalarFieldResult : Prop := scalarField ∧ scalarImmediate

/-- 06 R127: the mask members. -/
def Obligations.MaskResult : Prop :=
  ∀ (s : State) (d a : Fin 32) (m : Mask), Still s a → NoCompare s →
    let other := match m with | .em => Mask.cm | .cm => Mask.em
    let x := s.me.mask m
    let z := s.me.rd a
    WritesScalar (.msave d m) s d x ∧ WritesMask (.mrest m a) s m z ∧
    WritesMask (.mand m .other) s m (x &&& s.me.mask other) ∧ WritesMask (.mand m (.reg a)) s m (x &&& z) ∧
    WritesMask (.mor m .other) s m (x ||| s.me.mask other) ∧ WritesMask (.mor m (.reg a)) s m (x ||| z) ∧
    WritesMask (.mandn m .other) s m (x &&& ~~~(s.me.mask other)) ∧ WritesMask (.mandn m (.reg a)) s m (x &&& ~~~z) ∧
    (∃ v : W64, WritesMask (.mset m a) s m v ∧ ∀ k, k < 64 → (v.getLsbD k = true ↔ (k : Int) < z.toInt)) ∧
    WritesMask (.mcmv m) s m (s.me.mask other) ∧
    WritesScalar (.mpopc d m) s d (BitVec.ofNat 64 ((List.range 64).countP fun k => x.getLsbD k))

/-- 06 R129: what WRSR stores in each register that it may write. -/
def Obligations.SpecialRegisterWriteResult : Prop :=
  ∀ (s : State) (a : Fin 32), Still s a →
    let c := s.me
    let x := s.me.rd a
    LeavesMe (.wrsr 0x010 a) s { c with arith := x.setWidth 7 } ∧
    LeavesMe (.wrsr 0x011 a) s { c with rmode := if x.toNat % 8 < 5 then x.setWidth 3 else 0 } ∧
    LeavesMe (.wrsr 0x012 a) s { c with srseed := x } ∧
    LeavesMe (.wrsr 0x013 a) s { c with rsdctr := x.setWidth 32 } ∧
    LeavesMe (.wrsr 0x040 a) s { c with tvec := BitVec.ofNat 48 (x.toNat / 4 * 4) } ∧
    LeavesMe (.wrsr 0x042 a) s { c with tpc := x.setWidth 48 } ∧
    LeavesMe (.wrsr 0x060 a) s { c with pslack := BitVec.ofNat 15 (min x.toNat 16384) } ∧
    LeavesMe (.wrsr 0x0A0 a) s { c with fewdog := x.setWidth 32 } ∧
    LeavesMe (.wrsr 0x0A1 a) s { c with waitdog := x.setWidth 32 }

/-- 05 R103, 06 R128: what RDSR of each register brings, outside a CHECK pair; SIDT with bound 16, the others with bound 2. -/
def Obligations.SpecialRegisterReadResult : Prop :=
  ∀ (s : State) (d : Fin 32), s.me.gmode ≠ 2 →
    let c := s.me
    let reads := fun (r : Fin 4096) (v : Nat) => LaunchesScalar (.rdsr d r) s d (BitVec.ofNat 64 v) 2
    reads 0x000 s.cur ∧ reads 0x001 c.kcoord.toNat ∧ reads 0x002 c.kshape.toNat ∧ reads 0x003 s.sys.nodeid.toNat ∧
    reads 0x004 c.pkey.toNat ∧ reads 0x010 c.arith.toNat ∧ reads 0x011 c.rmode.toNat ∧ reads 0x012 c.srseed.toNat ∧
    reads 0x013 c.rsdctr.toNat ∧ reads 0x032 c.loops.length ∧ reads 0x040 c.tvec.toNat ∧ reads 0x041 c.tcause.toNat ∧
    reads 0x042 c.tpc.toNat ∧ reads 0x043 c.tinfo.toNat ∧
    reads 0x044 (b2n c.hnd + 2 * b2n c.mid + 4 * b2n c.self + 8 * b2n c.restarted + 2 ^ 8 * c.nsave.toNat) ∧
    LaunchesScalar (.rdsr d 0x050) s d s.sys.sidt 16 ∧ reads 0x051 c.cycle.toNat ∧ reads 0x060 c.pslack.toNat ∧
    (c.wait = none → reads 0x070 0) ∧ reads 0x080 c.spbase ∧ reads 0x081 c.spsize ∧
    reads 0x090 (c.gmode.toNat + 4 * b2n c.gdec + 8 * b2n c.gchk + 16 * c.gskew.toNat) ∧ reads 0x0A0 c.fewdog.toNat ∧
    reads 0x0A1 c.waitdog.toNat ∧
    ∀ n, n < 6 → ∀ k, k < 3 → LaunchesScalar (.rdsr d (Fin.ofNat 4096 (0x20 + 3 * n + k))) s d
      (match c.loops.reverse[n]? with
        | none => 0
        | some l => if k = 0 then l.count.setWidth 64 else if k = 1 then l.first.setWidth 64 else l.fin.setWidth 64) 2

/-- 04 R71, R74, R83: LDC brings a word of a pool packet, or two, with bound 6; outside a pool it is ILLEGAL_ENC with reason POOLREF and the
bundle's S word; a fetch that fails raises its cause at the LDC, or waits for the host. -/
def Obligations.LoadConstantResult : Prop :=
  ∀ (s : State) (d : Fin 32) (z : LdcSz) (o : Int),
    let a : W64 := s.me.pc.setWidth 64 + BitVec.ofInt 64 (4 * o)
    let k := a.toNat % 32 / 4
    let n := match z with | .d => 2 | _ => 1
    let on : W64 := if d = 0 then 0 else 1
    (2 ^ 48 ≤ a.toNat → Traps (.ldc d z o) s .xlate (BitVec.ofNat 64 (a.toNat % 2 ^ 48))) ∧
    (a.toNat < 2 ^ 48 →
      match (s.fetchPacket s.cur (a.toNat / 32 * 32)).2 with
      | .ok ws =>
        let at_ := fun j => ws.getD j 0
        let hdr := (at_ 0).toNat
        let pool := hdr / 2 ^ 22 = 0x3CB ∧ hdr / 2 ^ 21 % 2 = 0 ∧ hdr / 8 % 2 ^ 17 = 0 ∧ 1 ≤ k ∧ k + n - 1 ≤ hdr % 8
        (pool →
          let v : W64 := match z with | .w => (at_ k).signExtend 64 | .wu => (at_ k).setWidth 64 | .d => at_ (k + 1) ++ at_ k
          ∃ t, exec (.ldc d z o) s = .next t ∧ GoesOn s t ∧ OnlyFetch s t ∧
            t.me = ({ s.me with flight := Newer s (.s d v) on ++ [⟨.s d v, on, on, 5, 0⟩] } : Ctx).issued t.me) ∧
        (¬ pool →
          Traps (.ldc d z o) s .illegalEnc (encInfo (s.me.unitWord 0).1 .poolref (s.me.unitWord 0).2) ∧
          ∀ w, s.me.bwords = [w] → w / 2 ^ 29 % 4 = 0 → w / 2 ^ 27 % 16 ≠ 15 →
            Traps (.ldc d z o) s .illegalEnc (BitVec.ofNat 64 (0xA0 + 2 ^ 32 * (w % 2 ^ 32))))
      | .fault f =>
        if f = xNomap ∧ s.hostPf = true then ParksAt (.ldc d z o) s a.toNat s.me.pc (Traps (.ldc d z o) s .xlate a)
        else Traps (.ldc d z o) s f.cause a
      | .poison u => ∃ w, TrapsAt (.ldc d z o) s s.me.pc .poison w u)

/-! ## Control -/

/-- 06 R118, R119, 04 R70: a taken transfer, with its link in s31, where it traps, and a branch that is not taken. The model's choices
in it: log entries 55, 63. -/
def Obligations.TransferResult : Prop :=
  ∀ (s : State) (a : Fin 32) (o : Int) (c : Cond), Still s a →
    let x := s.me.rd a
    let rel := s.me.pc.setWidth 64 + BitVec.ofInt 64 (4 * o)
    let holds := match c with
      | .z => x = 0 | .nz => x ≠ 0 | .ltz => x.toInt < 0 | .gez => 0 ≤ x.toInt | .gtz => 0 < x.toInt | .lez => x.toInt ≤ 0
      | .always => True
    (¬ holds → LeavesMe (.br c a o) s s.me) ∧
    (holds → Takes (.br c a o) s s.me.fbuf rel s.me) ∧ Takes (.jmp o) s s.me.fbuf rel s.me ∧
    Takes (.call o) s s.me.fbuf rel (Ctx.withS s.me 31 (s.me.bsucc.setWidth 64)) ∧ Takes (.jr a) s s.me.fbuf x s.me ∧
    Takes (.callr a) s s.me.fbuf x (Ctx.withS s.me 31 (s.me.bsucc.setWidth 64))

/-- 06 R121 to R125: LOOP and LOOPI push an entry or skip their body, BRKL leaves the innermost loop, LIDX reads a count. A skip to an
END at which no bundle can be framed raises the cause there. -/
def Sys2Proof.Claims.loopWords : Prop :=
  ∀ (s : State) (d a : Fin 32) (n : Fin 1024) (e : Nat) (k : Fin 6), Still s a →
    let fin := s.me.pc + BitVec.ofNat 48 (4 * e)
    let push := fun (i : Instr) (m : Nat) => ∃ t, exec i s = .next t ∧ OnlyMe s t ∧ t.me.pc = s.me.bsucc ∧
      t.me.loops = ⟨BitVec.ofNat 32 m, s.me.bsucc, fin⟩ :: s.me.loops ∧ t.me = s.me.issued t.me
    let skip := fun (i : Instr) (ls : List LoopEnt) (l : Addr) => (∀ o ∈ ls.head?, o.fin ≠ l) →
      (∀ p, Follows s l p → ∃ t, exec i s = .next t ∧ OnlyFetch s t ∧ t.me.pc = p ∧ t.me.loops = ls ∧ t.me = s.me.issued t.me) ∧
      match fetchedAt s s.me.fbuf l.toNat with
      | .ok ws =>
        let w := ws.getD (l.toNat % 32 / 4) 0
        bBit w = false → TrapsAt i s l .illegalEnc (encInfo 0 .frame w.toNat) 0
      | .fault f =>
        if f = xNomap ∧ s.hostPf = true then ParksAt i s l.toNat l (TrapsAt i s l .xlate (l.setWidth 64) 0)
        else TrapsAt i s l f.cause (l.setWidth 64) 0
      | .poison u => ∃ w, TrapsAt i s l .poison w u
    (s.me.loops.length < 6 →
      (0 < (s.me.rd a).toInt ∧ (s.me.rd a).toInt < 2 ^ 32 → push (.loop a e) (s.me.rd a).toNat) ∧ (n.val ≠ 0 → push (.loopi n e) n.val)) ∧
    ((s.me.rd a).toInt ≤ 0 → skip (.loop a e) s.me.loops fin) ∧ (n.val = 0 → skip (.loopi n e) s.me.loops fin) ∧
    (∀ l ls, s.me.loops = l :: ls → skip .brkl ls l.fin) ∧
    ∀ l, s.me.loops[k.val]? = some l → WritesScalar (.lidx d k) s d (l.count.setWidth 64)

/-- 06 R125: the loop traps. -/
def Sys2Proof.Claims.loopTraps : Prop :=
  ∀ (s : State) (d a : Fin 32) (n : Fin 1024) (e : Nat) (k : Fin 6), Still s a →
    (2 ^ 32 ≤ (s.me.rd a).toInt → Traps (.loop a e) s .loopOverflow 2) ∧
    (6 ≤ s.me.loops.length → 0 < (s.me.rd a).toInt → (s.me.rd a).toInt < 2 ^ 32 → Traps (.loop a e) s .loopOverflow 1) ∧
    (6 ≤ s.me.loops.length → n.val ≠ 0 → Traps (.loopi n e) s .loopOverflow 1) ∧
    (s.me.loops = [] → Traps .brkl s .loopUnderflow 1) ∧ (s.me.loops.length ≤ k.val → Traps (.lidx d k) s .loopUnderflow 2)

/-- 06 R121 to R125: the loop words and their traps. The model's choices in it: log entries 57, 63. -/
def Obligations.LoopResult : Prop := loopWords ∧ loopTraps

/-- 06 R121: EndOf on the bundle at the pc. -/
def Obligations.EndOfProcedure : Prop :=
  ∀ (c : Ctx), (c.loops = [] → c.endSeq = { c with pc := c.bsucc }) ∧
    ∀ l ls, c.loops = l :: ls →
      (l.fin ≠ c.pc → c.endSeq = { c with pc := c.bsucc }) ∧
      (l.fin = c.pc → l.count.toNat ≤ 1 → c.endSeq = { c with loops := ls }.endSeq) ∧
      (l.fin = c.pc → 1 < l.count.toNat →
        c.endSeq.pc = l.first ∧ c.endSeq.loops = { l with count := l.count - 1 } :: ls ∧
        c.endSeq = { c with pc := l.first, loops := c.endSeq.loops, fbuf := c.endSeq.fbuf })

/-- 06 R131, 05 R112, 04 R69, R89: NOP, YIELD, FETCHB and HALT, which drops what is outstanding but a request to the Zenith controller;
in a CHECK pair its primary passes values that land on to the checker. The model's choices in it: log entry 19. -/
def Obligations.PlainControlResult : Prop :=
  ∀ (s : State), LeavesMe .nop s s.me ∧ LeavesMe .yield s { s.me with yielded := true } ∧
    (∃ t, exec .fetchb s = .next t ∧ GoesOn s t ∧ OnlyMe s t ∧ t.me.fbuf = [] ∧ t.me = s.me.issued t.me) ∧
    (s.me.frec = none →
      ∃ t, exec .halt s = .next t ∧ t = { s with ctxs := t.ctxs, nfree := t.nfree } ∧
        (∀ y, y ≠ s.cur → (s.me.gmode = 2 → s.me.gchk = false → y ≠ s.cur + 2) → t.ctx y = s.ctx y) ∧ (∀ a, t.byte a = s.byte a) ∧
        t.me.occ = s.me.occ.map (fun o => { o with st := .retired }) ∧ t.me.flight = [] ∧ t.me.hreq = none ∧
        t.me.pends = s.me.pends.filter Pend.isSmc ∧ t.me.pc = s.me.pc) ∧
    ∀ f, s.me.frec = some f → TrapsRec .halt s f

/-- 16 R357, R359: TRAP and BRK with a handler installed, and ERET. -/
def Obligations.TrapAndReturnResult : Prop :=
  ∀ (s : State) (a : Fin 32), Still s a →
    (s.me.tvec ≠ 0 → s.me.hnd = false → s.me.gmode = 0 →
      let enters := fun (i : Instr) (code : Nat) (info : W64) => ∃ t, exec i s = .next t ∧ OnlyMe s t ∧
        t.me.pc = s.me.tvec ∧ t.me.loops = s.me.endSeq.loops ∧
        t.me = ({ s.me with
          tcause := BitVec.ofNat 8 code, tpc := s.me.endSeq.pc, tinfo := info, hnd := true, wait := none, stream := [], self := false } : Ctx).issued t.me ∧ t.me.fbuf = []
      enters (.trap a) 17 (s.me.rd a) ∧ enters .brk 18 (s.me.pc.setWidth 64)) ∧
    Takes .eret s [] (s.me.tpc.setWidth 64) { s.me with hnd := false }

/-- 16 R357: taking a trap. -/
def Sys2Proof.Claims.trapTaken : Prop :=
  ∀ (s : State) (x : Nat) (t : Trap),
    let c := s.ctx x
    let s' := s.takeTrap x t
    (causeFielded t.cause = true → c.tvec ≠ 0 → c.hnd = false →
      s'.ctx x = { c with
        tcause := BitVec.ofNat 8 (causeCode t.cause), tpc := t.tpc, tinfo := t.info, hnd := true, pc := c.tvec, fbuf := [], wait := none,
        granted := none, iter := false, stream := [], self := c.gmode != 0 } ∧
      s' = { s with ctxs := s'.ctxs } ∧ ∀ y, y ≠ x → s'.ctx y = s.ctx y) ∧
    (causeFielded t.cause = false ∨ c.tvec = 0 ∨ c.hnd = true →
      ∀ o k, c.occ = some o → s.kernel o.kid = some k → k.st ≠ .killing → x ∈ k.ctxs →
        (s'.ctx x).occ = some { o with st := .halted } ∧
        (∃ k', s'.kernel o.kid = some k' ∧ k'.st = .killing ∧
          k'.fin = some ⟨.fault, some t.cause, t.tpc, t.info, o.n, t.unit, false, false⟩) ∧
        (∀ y ∈ k.ctxs, y ≠ x → ∀ p, (s.ctx y).occ = some p → p.kid = o.kid → p.st = .running →
          ∃ h, (s'.ctx y).hreq = some h ∧ h.kill = true) ∧
        (∀ y, y ≠ x → (∀ p, (s.ctx y).occ = some p → p.kid ≠ o.kid) → s'.ctx y = s.ctx y) ∧
        (∀ a, s'.byte a = s.byte a))

/-- 16 R361, R356: which causes a handler may take. -/
def Sys2Proof.Claims.fieldedCauses : Prop :=
  ∀ c : Cause, causeFielded c = true ↔
    c = .loopOverflow ∨ c = .loopUnderflow ∨ c = .align ∨ c = .feWatchdog ∨ c = .trap ∨ c = .brk

/-- 16 R356, R357, R361: taking a trap, and the causes that a handler may take. The model's choices in it: log entry 65. -/
def Obligations.TrapEntry : Prop := trapTaken ∧ fieldedCauses

/-! ## Vector words -/

/-- 08 R158, R161, R162, R177: integer, logic and shift words on each enabled lane. -/
def Sys2Proof.Claims.vectorInteger : Prop :=
  ∀ (s : State) (d : Fin 64) (a b : Sel) (n : Fin 32) (tt : Fin 256) (w : BitVec 8), StillRows s →
    let x := s.me.at_ a
    let y := s.me.at_ b
    Lanes (.vaddI32 d a b) s d [a, b] (fun k => x k + y k) ∧ Lanes (.vsubI32 d a b) s d [a, b] (fun k => x k - y k) ∧
    Lanes (.vmulI32 d a b) s d [a, b] (fun k => x k * y k) ∧
    Lanes (.vmulhI32 d a b) s d [a, b] (fun k => BitVec.ofInt 32 ((x k).toInt * (y k).toInt / 2 ^ 32)) ∧
    Lanes (.vminI32 d a b) s d [a, b] (fun k => if (x k).toInt ≤ (y k).toInt then x k else y k) ∧
    Lanes (.vmaxI32 d a b) s d [a, b] (fun k => if (x k).toInt ≤ (y k).toInt then y k else x k) ∧
    Lanes (.vminuI32 d a b) s d [a, b] (fun k => if (x k).toNat ≤ (y k).toNat then x k else y k) ∧
    Lanes (.vmaxuI32 d a b) s d [a, b] (fun k => if (x k).toNat ≤ (y k).toNat then y k else x k) ∧
    Lanes (.vand d a b) s d [a, b] (fun k => x k &&& y k) ∧ Lanes (.vor d a b) s d [a, b] (fun k => x k ||| y k) ∧
    Lanes (.vxor d a b) s d [a, b] (fun k => x k ^^^ y k) ∧
    Lanes (.vshl d a b) s d [a, b] (fun k => x k <<< ((y k).toNat % 32)) ∧
    Lanes (.vshr d a b) s d [a, b] (fun k => x k >>> ((y k).toNat % 32)) ∧
    Lanes (.vsra d a b) s d [a, b] (fun k => (x k).sshiftRight ((y k).toNat % 32)) ∧
    Lanes (.vfshl d a b n) s d [a, b] (fun k => (x k ++ y k : BitVec 64).extractLsb' (32 - n.val) 32) ∧
    Lanes (.vfshr d a b n) s d [a, b] (fun k => (x k ++ y k : BitVec 64).extractLsb' n.val 32) ∧
    Lanes (.vmov d a) s d [a] x ∧ Lanes (.vaddiI32 d a w) s d [a] (fun k => x k + w.signExtend 32) ∧
    Lanes (.vandi d a w) s d [a] (fun k => x k &&& w.signExtend 32) ∧ Lanes (.vshli d a n) s d [a] (fun k => x k <<< n.val) ∧
    Lanes (.vshri d a n) s d [a] (fun k => x k >>> n.val) ∧ Lanes (.vsrai d a n) s d [a] (fun k => (x k).sshiftRight n.val) ∧
    Lanes (.vmovi d w) s d [] (fun _ => w.signExtend 32) ∧
    LaunchesRow (.vclz d a) s d (2 + extra [a]) s.me.em false (fun r g => g = 0 ∧ ∀ k : Fin 64, s.me.em.getLsbD k →
      (r[k]).toNat ≤ 32 ∧ ((r[k]).toNat < 32 → (x k).getMsbD (r[k]).toNat = true) ∧ ∀ j, j < (r[k]).toNat → (x k).getMsbD j = false) ∧
    LaunchesRow (.vlut3 d a b tt) s d (2 + extra [a, b]) s.me.em false (fun r g => g = 0 ∧ ∀ k : Fin 64, s.me.em.getLsbD k → ∀ j, j < 32 →
      (r[k]).getLsbD j = tt.val.testBit (4 * b2n ((x k).getLsbD j) + 2 * b2n ((y k).getLsbD j) + b2n ((s.me.v[d][k]).getLsbD j)))

/-- 08 R161: packed elements of 16 and of 8 bits; a saturating sum that clamps raises OV. -/
def Sys2Proof.Claims.vectorPacked : Prop :=
  ∀ (s : State) (d : Fin 64) (a b : Sel), StillRows s →
    let x := s.me.at_ a
    let y := s.me.at_ b
    let wraps := fun (i : Instr) (w : Nat) (f : BitVec w → BitVec w → BitVec w) =>
      LaunchesRow i s d (2 + extra [a, b]) s.me.em false (fun r g => g = 0 ∧ ∀ k : Fin 64, s.me.em.getLsbD k → ∀ j, j < 32 / w →
        (r[k]).extractLsb' (w * j) w = f ((x k).extractLsb' (w * j) w) ((y k).extractLsb' (w * j) w))
    let clamps := fun (i : Instr) (w : Nat) (f : Int → Int → Int) =>
      let e := fun (k : Fin 64) (j : Nat) => f ((x k).extractLsb' (w * j) w).toInt ((y k).extractLsb' (w * j) w).toInt
      LaunchesRow i s d (2 + extra [a, b]) s.me.em false (fun r g =>
        (g = fOV ∧ (∃ k : Fin 64, s.me.em.getLsbD k ∧ ∃ j, j < 32 / w ∧ (e k j < -2 ^ (w - 1) ∨ 2 ^ (w - 1) - 1 < e k j)) ∨
         g = 0 ∧ ∀ k : Fin 64, s.me.em.getLsbD k → ∀ j, j < 32 / w → -2 ^ (w - 1) ≤ e k j ∧ e k j ≤ 2 ^ (w - 1) - 1) ∧
        ∀ k : Fin 64, s.me.em.getLsbD k → ∀ j, j < 32 / w →
          ((r[k]).extractLsb' (w * j) w).toInt = max (-2 ^ (w - 1)) (min (2 ^ (w - 1) - 1) (e k j)))
    wraps (.vaddI16 d a b) 16 (· + ·) ∧ wraps (.vsubI16 d a b) 16 (· - ·) ∧ wraps (.vaddI8 d a b) 8 (· + ·) ∧
    wraps (.vsubI8 d a b) 8 (· - ·) ∧ clamps (.vaddsI16 d a b) 16 (· + ·) ∧ clamps (.vsubsI16 d a b) 16 (· - ·) ∧
    clamps (.vaddsI8 d a b) 8 (· + ·) ∧ clamps (.vsubsI8 d a b) 8 (· - ·)

/-- 08 R158, R161, R162, R177: integer words on lanes and on packed elements. -/
def Obligations.VectorIntegerResult : Prop := vectorInteger ∧ vectorPacked

/-- 08 R163, R164: compares into CM and the selection by it. -/
def Obligations.VectorCompareResult : Prop :=
  ∀ (s : State) (d : Fin 64) (a b : Sel), StillRows s →
    let x := s.me.at_ a
    let y := s.me.at_ b
    let u := fun k => fp32.dec (x k).toNat
    let v := fun k => fp32.dec (y k).toNat
    let int := fun (i : Instr) (f : Fin 64 → Bool) => Compares i s [a, b] f (· = 0)
    let flt := fun (i : Instr) (f : Fin 64 → Bool) => Compares i s [a, b] f (· = flagsOf s.me.em fun k => (u k).opFlags ||| (v k).opFlags)
    int (.vcmpeqI32 a b) (fun k => x k == y k) ∧ int (.vcmpltI32 a b) (fun k => decide ((x k).toInt < (y k).toInt)) ∧
    int (.vcmpltuI32 a b) (fun k => decide ((x k).toNat < (y k).toNat)) ∧
    flt (.vcmpeqF32 a b) (fun k => eqV (u k) (v k)) ∧ flt (.vcmpltF32 a b) (fun k => ltV (u k) (v k)) ∧
    flt (.vcmpleF32 a b) (fun k => ltV (u k) (v k) || eqV (u k) (v k)) ∧
    flt (.vcmpunF32 a b) (fun k => (u k).isNan || (v k).isNan) ∧
    (NoCompare s → Lanes (.vsel d a b) s d [a, b] fun k => if s.me.cm.getLsbD k then x k else y k)

/-- 08 R165, R166: floating-point arithmetic on each enabled lane; VFMIN and VFMAX never round. -/
def Obligations.VectorFloatResult : Prop :=
  ∀ (s : State) (d : Fin 64) (a b : Sel), StillRows s →
    Rounds32 (.vfaddF32 d a b) s d a b (fun m x y _ => fadd fp32 m x y) ∧ Rounds32 (.vfsubF32 d a b) s d a b (fun m x y _ => fsub fp32 m x y) ∧
    Rounds32 (.vfmulF32 d a b) s d a b (fun m x y _ => fmul fp32 m x y) ∧ Rounds32 (.vfmaF32 d a b) s d a b (fun m x y z => ffma fp32 m x y z) ∧
    Rounds16 (.vfaddBf16 d a b) s d a b (fun m x y _ => fadd bf16 m x y) ∧ Rounds16 (.vfmulBf16 d a b) s d a b (fun m x y _ => fmul bf16 m x y) ∧
    Rounds16 (.vfmaBf16 d a b) s d a b (fun m x y z => ffma bf16 m x y z) ∧ Rounds16 (.vfaddF16 d a b) s d a b (fun m x y _ => fadd fp16 m x y) ∧
    Rounds16 (.vfmulF16 d a b) s d a b (fun m x y _ => fmul fp16 m x y) ∧ Rounds16 (.vfmaF16 d a b) s d a b (fun m x y z => ffma fp16 m x y z) ∧
    let r := fun (mx : Bool) (k : Fin 64) => fminmax mx (s.me.at_ a k).toNat (s.me.at_ b k).toNat
    let picks := fun (i : Instr) (mx : Bool) => LaunchesRow i s d (4 + extra [a, b]) s.me.em false fun x g =>
      g = flagsOf s.me.em (fun k => (r mx k).2) ∧ ∀ k : Fin 64, s.me.em.getLsbD k → x[k] = BitVec.ofNat 32 (r mx k).1
    picks (.vfminF32 d a b) false ∧ picks (.vfmaxF32 d a b) true

/-- 08 R167 to R171: conversion, quantisation, the block maximum and dequantisation. The model's choices in it: log entries 18, 22, 67. -/
def Obligations.VectorConvertResult : Prop :=
  ∀ (s : State) (d : Fin 64) (a b : Sel) (code : CvtCode) (part : Fin 4) (rm : Bool) (t : QFmt), StillRows s →
    let x := s.me.at_ a
    let y := s.me.at_ b
    let mode := fun k : Fin 64 => if rm = true then modeOf s.me.rmode s.me.srseed s.me.rsdctr (cvtIndex code part k) else .rne
    let cv := fun k : Fin 64 => cvtLane code part (mode k) (x k) (s.me.v[d][k])
    LaunchesRow (.vcvt d a code part rm) s d (4 + extra [a]) s.me.em rm (fun r g =>
      g = flagsOf s.me.em (fun k => (cv k).2) ∧ ∀ k : Fin 64, s.me.em.getLsbD k → r[k] = (cv k).1) ∧
    (let n := 32 / QFmt.bits t
     let el := fun (r : Row) (k : Fin 64) => (lane r (k / n)).extractLsb' (QFmt.bits t * (k.val % n)) (QFmt.bits t)
     ∃ on : W64, (∀ j : Fin 64, on.getLsbD j = true ↔ ∃ k : Fin 64, s.me.em.getLsbD k = true ∧ k.val / n = j.val) ∧
      LaunchesRow (.vqnt t d a b) s d (6 + extra [a, b]) on false (fun r g =>
        g = flagsOf s.me.em (fun k => (quantise (x k).toNat ((y ⟨k / 32, by omega⟩).toNat % 65536) t).2) ∧
        (∀ k : Fin 64, s.me.em.getLsbD k →
          el r k = BitVec.ofNat _ (quantise (x k).toNat ((y ⟨k / 32, by omega⟩).toNat % 65536) t).1) ∧
        ∀ k : Fin 64, s.me.em.getLsbD k = false → on.getLsbD (k / n) → el r k = el s.me.v[d] k)) ∧
    LaunchesRow (.vbmax d a) s d (6 + extra [a]) s.me.em false (fun r g =>
      g = flagsOf s.me.em (fun k => (fp32.dec (x k).toNat).opFlags) ∧
      ∀ k : Fin 64, s.me.em.getLsbD k →
        let on := fun j : Fin 64 => s.me.em.getLsbD j = true ∧ j.val / 32 = k.val / 32
        ((∃ j, on j ∧ (fp32.dec (x j).toNat).isNan = true) → r[k] = 0x7FC00000) ∧
        ((∀ j, on j → (fp32.dec (x j).toNat).isNan = false) →
          (∃ j, on j ∧ r[k] = (x j) &&& 0x7FFFFFFF) ∧ ∀ j, on j → (x j).toNat % 2 ^ 31 ≤ (r[k]).toNat)) ∧
    (let dq := fun k : Fin 64 =>
      let w := (y ⟨k / 32, by omega⟩).toNat
      match qfmtOf (w / 65536 % 8) with
      | some t =>
        let n := 32 / QFmt.bits t
        let v := qdec t ((x ⟨k.val / n, by have := k.isLt; have := Nat.div_le_self k.val n; omega⟩).extractLsb'
          (QFmt.bits t * (k.val % n)) (QFmt.bits t)).toNat (w % 65536)
        roundV fp32 .rne v v.opFlags
      | none => (0x7FC00000, fINV)
     LaunchesRow (.vdqnt d a b) s d (6 + extra [a, b]) s.me.em false (fun r g =>
      g = flagsOf s.me.em (fun k => (dq k).2) ∧ ∀ k : Fin 64, s.me.em.getLsbD k → r[k] = BitVec.ofNat 32 (dq k).1))

/-- 08 R172: the special functions, bound 12, on each FP32 lane or each element of a pair. The model's choices in it: log entry 21. -/
def Obligations.VectorSpecialResult : Prop :=
  ∀ (s : State) (d : Fin 64) (a : Sel), StillRows s →
    let one := fun (i : Instr) (g : FFmt → FV → Nat × Flags) => LaunchesRow i s d (12 + extra [a]) s.me.em false fun x f =>
      let r := fun k : Fin 64 => g fp32 (fp32.dec (s.me.at_ a k).toNat)
      f = flagsOf s.me.em (fun k => (r k).2) ∧ ∀ k : Fin 64, s.me.em.getLsbD k → x[k] = BitVec.ofNat 32 (r k).1
    let two := fun (i : Instr) (z : FFmt) (g : FFmt → FV → Nat × Flags) => LaunchesRow i s d (12 + extra [a]) s.me.em false fun x f =>
      let r := fun (k : Fin 64) (j : Nat) => g z (z.dec ((s.me.at_ a k).extractLsb' (16 * j) 16).toNat)
      f = flagsOf s.me.em (fun k => (r k 0).2 ||| (r k 1).2) ∧ ∀ k : Fin 64, s.me.em.getLsbD k → ∀ j, j < 2 →
        (x[k]).extractLsb' (16 * j) 16 = BitVec.ofNat 16 (r k j).1
    let all := fun (i : SfFmt → Instr) (g : FFmt → FV → Nat × Flags) => one (i .f32) g ∧ two (i .bf16) bf16 g ∧ two (i .f16) fp16 g
    all (.vrcp d a) sfRcp ∧ all (.vrsq d a) sfRsq ∧ all (.vsqrt d a) sfSqrt ∧ all (.vexp2 d a) sfExp2 ∧ all (.vlog2 d a) sfLog2 ∧
    all (.vsinpi d a) (sfTrig false) ∧ all (.vcospi d a) (sfTrig true) ∧ all (.vtanh d a) sfTanh

/-- 08 R173 to R176: lane movement, extraction, insertion, counts. -/
def Obligations.VectorLaneResult : Prop :=
  ∀ (s : State) (d : Fin 64) (sd : Fin 32) (a b : Sel) (c : Fin 32) (n : Fin 64) (z : BcSz) (sg : Bool), StillRows s → Still s c →
    let x := s.me.at_ a
    let y := s.me.at_ b
    let w := s.me.rd c
    let moves := fun (i : Instr) (as : List Sel) (f : Fin 64 → W32) =>
      LaunchesRow i s d (6 + extra as) s.me.em false fun r g => g = 0 ∧ ∀ k : Fin 64, s.me.em.getLsbD k → r[k] = f k
    moves (.vperm d a b) [a, b] (fun k => if (y k).getLsbD 6 = true then 0 else x (Fin.ofNat 64 (y k).toNat)) ∧
    moves (.vrot d a c) [a] (fun k => x (Fin.ofNat 64 (k + 64 - w.toNat % 64))) ∧
    Lanes (.vbcst z d c) s d [] (fun _ => match z with
      | .w => w.setWidth 32
      | .h => (w.setWidth 16 ++ w.setWidth 16 : BitVec 32)
      | .b => (w.setWidth 8 ++ w.setWidth 8 ++ w.setWidth 8 ++ w.setWidth 8 : BitVec 32)) ∧
    (let v := x (Fin.ofNat 64 w.toNat)
     LaunchesScalar (.vext sg sd a c) s sd (if sg = true then v.signExtend 64 else v.setWidth 64) (6 + extra [a])) ∧
    LaunchesRow (.vins d c n) s d 2 (s.me.em &&& BitVec.twoPow 64 n) false (fun r g => g = 0 ∧ r[n] = w.setWidth 32) ∧
    LaunchesScalar (.vpopc sd a) s sd (BitVec.ofNat 64 (((List.finRange 64).filter fun k : Fin 64 => s.me.em.getLsbD k).map
      fun k => (List.range 32).countP fun j => (x k).getLsbD j).sum) (2 + extra [a]) ∧
    Lanes (.viota false d) s d [] (fun k => BitVec.ofNat 32 k) ∧
    (NoCompare s → Lanes (.viota true d) s d [] fun k => BitVec.ofNat 32 ((List.range k).countP fun j => s.me.cm.getLsbD j))

/-- 08 R175: a reduction over the enabled lanes, as a tree of six levels of neighbours; masked lanes count as its identity. -/
def Obligations.VectorReduceResult : Prop :=
  ∀ (s : State) (d : Fin 32) (a : Sel), StillRows s →
    let x := s.me.at_ a
    let sums := fun (op : RedOp) (f : Int → Int → Int) (e : Int) (sg : Bool) => ∃ v : W32,
      LaunchesScalar (.vred op d a) s d (if sg = true then v.signExtend 64 else v.setWidth 64) (6 + extra [a]) ∧
      (if sg = true then v.toInt else v.toNat) =
        (List.finRange 64).foldl (fun m (k : Fin 64) => if s.me.em.getLsbD k then f m (if sg = true then (x k).toInt else (x k).toNat) else m) e
    (∃ v : W32, LaunchesScalar (.vred .addI32 d a) s d (v.signExtend 64) (6 + extra [a]) ∧
      v = (List.finRange 64).foldl (fun m (k : Fin 64) => if s.me.em.getLsbD k then m + x k else m) 0) ∧
    sums .minI32 min (2 ^ 31 - 1) true ∧ sums .maxI32 max (-2 ^ 31) true ∧ sums .minuI32 min (2 ^ 32 - 1) false ∧ sums .maxuI32 max 0 false ∧
    ∀ op, op = .addF32 ∨ op = .minF32 ∨ op = .maxF32 →
      let in_ := (List.finRange 64).map fun k : Fin 64 => if s.me.em.getLsbD k then x k else redId op
      let r := redTree op 6 in_ 0
      let on : W64 := if d = 0 then 0 else 1
      ∃ t, exec (.vred op d a) s = .next t ∧ GoesOn s t ∧ OnlyMe s t ∧
        t.me = ({ s.me with
          flight := Newer s (.s d ((r.1.headD 0).setWidth 64)) on ++ [⟨.s d ((r.1.headD 0).setWidth 64), on, on, 5 + extra [a], r.2⟩] } :
          Ctx).issued t.me

/-! ## Scratchpad and global memory -/

/-- 09 R202 to R204: scratchpad loads, little-endian, bound 8. -/
def Sys2Proof.Claims.scratchpadLoad : Prop :=
  ∀ (s : State) (q : QLoad) (d : Fin 32) (v : Fin 64) (a : Fin 32) (o : Int), Still s a →
    let on : W64 := if d = 0 then 0 else 1
    let lands := fun (w : W64) => { s.me with flight := Newer s (.s d w) on ++ [⟨.s d w, on, on, 7, 0⟩] }
    let ea := s.me.rd a + BitVec.ofInt 64 o
    let e := ea.toNat
    let loads := fun (i : Instr) (n : Nat) (f : Nat → W64) =>
      SpOk s ea n n → NoPoison s e n → FullFor s q e 1 → LoadsLocal i s q e n (lands (f (myNat s e n)))
    let r := s.me.rd a + BitVec.ofInt 64 (16 * o)
    loads (.ldsD q d a o) 8 (fun x => BitVec.ofNat 64 x) ∧ loads (.ldsW q d a o) 4 (fun x => (BitVec.ofNat 32 x).signExtend 64) ∧
    loads (.ldsWu q d a o) 4 (fun x => BitVec.ofNat 64 x) ∧ loads (.ldsH q d a o) 2 (fun x => BitVec.ofNat 64 x) ∧
    loads (.ldsB q d a o) 1 (fun x => BitVec.ofNat 64 x) ∧
    (SpOk s r 256 16 → NoPoison s r.toNat 256 → FullFor s q r.toNat 16 →
      ∃ x : Row, (∀ k : Fin 64, x[k] = BitVec.ofNat 32 (myNat s (r.toNat + 4 * k) 4)) ∧
        LoadsLocal (.ldv q v a o) s q r.toNat 256
          { s.me with flight := Newer s (.v v x) s.me.em ++ [⟨.v v x, s.me.em, s.me.em, 7, 0⟩] })

/-- 09 R204: LDVG reads a word for each enabled lane. -/
def Sys2Proof.Claims.gatherLoad : Prop :=
  ∀ (s : State) (d : Fin 64) (a : Fin 32) (n : Fin 64), Still s a → StillRows s →
    let ea := fun k : Fin 64 => s.me.rd a + (s.me.v[n][k]).setWidth 64
    (∀ k : Fin 64, s.me.em.getLsbD k = true → SpOk s (ea k) 4 4 ∧ NoPoison s (ea k).toNat 4) →
    LaunchesRow (.ldvg d a n) s d 8 s.me.em false fun x g =>
      g = 0 ∧ ∀ k : Fin 64, s.me.em.getLsbD k = true → x[k] = BitVec.ofNat 32 (myNat s (ea k).toNat 4)

/-- 09 R202 to R204: the scratchpad loads, and LDVG. -/
def Obligations.ScratchpadLoadResult : Prop := scratchpadLoad ∧ gatherLoad

/-- 09 R202 to R204: scratchpad stores. A row store writes the enabled lanes; of STVS the highest lane at an address stands. -/
def Obligations.ScratchpadStoreResult : Prop :=
  ∀ (s : State) (q : QStore) (v : Fin 64) (w a : Fin 32) (n : Fin 64) (o : Int), Still s a → Still s w → StillRows s → pinsOf s.me.mxq = [] →
    let ea := s.me.rd a + BitVec.ofInt 64 o
    let e := ea.toNat
    let fe : Option Bool := match q with | .plain => none | .full => some true | .empty => some false
    let stores := fun (i : Instr) (m : Nat) => SpOk s ea m m → StoresLocal i s e m fe fun b =>
      if e ≤ b ∧ b < e + m then some ((s.me.rd w).extractLsb' (8 * (b - e)) 8) else none
    let r := s.me.rd a + BitVec.ofInt 64 (16 * o)
    let x := fun k : Fin 64 => s.me.rd a + (s.me.v[n][k]).setWidth 64
    stores (.stsD q w a o) 8 ∧ stores (.stsW q w a o) 4 ∧ stores (.stsH q w a o) 2 ∧ stores (.stsB q w a o) 1 ∧
    (SpOk s r 256 16 → StoresLocal (.stv q v a o) s r.toNat 256 fe fun b =>
      if r.toNat ≤ b ∧ b < r.toNat + 256 ∧ s.me.em.getLsbD ((b - r.toNat) / 4) = true then
        some ((lane s.me.v[v] ((b - r.toNat) / 4)).extractLsb' (8 * ((b - r.toNat) % 4)) 8)
      else none) ∧
    ((∀ k : Fin 64, s.me.em.getLsbD k = true → SpOk s (x k) 4 4) → StoresLocal (.stvs v a n) s 0 0 none fun b =>
      ((List.finRange 64).reverse.find? fun k : Fin 64 => s.me.em.getLsbD k && decide ((x k).toNat ≤ b) && decide (b < (x k).toNat + 4)).map
        fun k : Fin 64 => (s.me.v[v][k]).extractLsb' (8 * (b - (x k).toNat)) 8)

/-- 09 R205: full-empty bits: setting, clearing and sampling them, the range check, and the reserved field of FESET and FECLR. -/
def Obligations.FullEmptyResult : Prop :=
  ∀ (s : State) (d a : Fin 32) (o : Int), Still s a →
    let ea := s.me.rd a + BitVec.ofInt 64 o
    let e := ea.toNat / 16 * 16
    let fails := fun (i : Instr) => Traps i s .scratchRange (BitVec.ofNat 64 (ea.toNat % 2 ^ 48))
    (ea.toNat < s.me.spsize →
      StoresLocal (.feset a o) s e 16 (some true) (fun _ => none) ∧ StoresLocal (.feclr a o) s e 16 (some false) (fun _ => none) ∧
      ∃ v : W64, LaunchesScalar (.fetest d a o) s d v 8 ∧ ∀ j, j < 64 → v.getLsbD j =
        (decide (e + 16 * j < s.me.spsize) && (myCore s).feGet (s.me.spbase / 16 + ea.toNat / 16 + j))) ∧
    (s.me.spsize ≤ ea.toNat → fails (.feset a o) ∧ fails (.feclr a o) ∧ fails (.fetest d a o)) ∧
    decodeTableWord 32 0xC6902000 = some (.fetest 8 2 0) ∧
    ∀ n : Fin 32, n ≠ 0 → decodeTableWord 32 (0xC6002010 + n * 2 ^ 17) = none ∧ decodeTableWord 32 (0xC6402010 + n * 2 ^ 17) = none

/-- 09 R180, R181, R184, R205: the causes of a scratchpad access, alignment before range, and the wait of each waiting load on the first
empty granule of its wait set. -/
def Obligations.ScratchpadFaults : Prop :=
  ∀ (s : State) (q : QLoad) (p : QStore) (d a w : Fin 32) (v : Fin 64) (o : Int), Still s a →
    let ea := s.me.rd a + BitVec.ofInt 64 o
    let r := s.me.rd a + BitVec.ofInt 64 (16 * o)
    let fails := fun (i : Instr) (x : W64) (n al : Nat) =>
      (x.toNat % al ≠ 0 → Traps i s .align (BitVec.ofNat 64 (x.toNat % 2 ^ 48))) ∧
      (x.toNat % al = 0 → s.me.spsize < x.toNat + n → Traps i s .scratchRange (BitVec.ofNat 64 (x.toNat % 2 ^ 48)))
    fails (.ldsD q d a o) ea 8 8 ∧ fails (.ldsW q d a o) ea 4 4 ∧ fails (.ldsWu q d a o) ea 4 4 ∧ fails (.ldsH q d a o) ea 2 2 ∧
    fails (.ldsB q d a o) ea 1 1 ∧ fails (.stsD p w a o) ea 8 8 ∧ fails (.stsW p w a o) ea 4 4 ∧ fails (.stsH p w a o) ea 2 2 ∧
    fails (.stsB p w a o) ea 1 1 ∧ fails (.ldv q v a o) r 256 16 ∧ fails (.stv p v a o) r 256 16 ∧ fails (.feset a o) ea 1 1 ∧
    fails (.feclr a o) ea 1 1 ∧ fails (.fetest d a o) ea 1 1 ∧
    let empty := fun (g : Nat) => (myCore s).feGet (s.me.spbase / 16 + g) = false
    let waits := fun (i : Instr) (n : Nat) => q ≠ .plain → SpOk s ea n n → empty (ea.toNat / 16) → Waits i s { kind := 3, arg := ea.toNat / 16 }
    waits (.ldsD q d a o) 8 ∧ waits (.ldsW q d a o) 4 ∧ waits (.ldsWu q d a o) 4 ∧ waits (.ldsH q d a o) 2 ∧ waits (.ldsB q d a o) 1 ∧
    (q ≠ .plain → SpOk s r 256 16 → ∀ j, j < 16 → empty (r.toNat / 16 + j) → (∀ i, i < j → ¬ empty (r.toNat / 16 + i)) →
      Waits (.ldv q v a o) s { kind := 3, arg := r.toNat / 16 + j })

/-- 09 R206: global loads queue a scoreboarded destination once every page that they touch may be read. The model's choices in it: log
entry 63. -/
def Obligations.GlobalLoadResult : Prop :=
  ∀ (s : State) (f : Bool) (d a : Fin 32) (v : Fin 64) (o : Int), Still s a → Performs s →
    let ea := s.me.rd a + BitVec.ofInt 64 o
    let r := s.me.rd a + BitVec.ofInt 64 (16 * o)
    let rows := ((List.finRange 64).filter fun k : Fin 64 => s.me.em.getLsbD k).map fun k : Fin 64 => (k.val, r + BitVec.ofNat 64 (4 * k))
    let loads := fun (i : Instr) (w : Dest) (x : W64) (n al : Nat) (ls : List (Nat × W64)) => x.toNat % al = 0 → ∀ s' rs,
      readRefs (coreOf s.cur) (s.asidOf s.cur) (s.worldOf s.cur) ls s = (s', .ok rs) →
        Does i s { s.me with pends := s.me.pends ++ [⟨w, .load (x.setWidth 48) n f rs [], s.me.pc, false⟩] } s'
    loads (.ldgD f d a o) (.s d) ea 8 8 [(0, ea)] ∧ loads (.ldgW f d a o) (.s d) ea 4 4 [(0, ea)] ∧
    loads (.ldgv f v a o) (.v v) r 4 16 rows ∧
    (ea.toNat % 8 ≠ 0 → Traps (.ldgD f d a o) s .align (BitVec.ofNat 64 (ea.toNat % 2 ^ 48))) ∧
    (ea.toNat % 4 ≠ 0 → Traps (.ldgW f d a o) s .align (BitVec.ofNat 64 (ea.toNat % 2 ^ 48))) ∧
    (r.toNat % 16 ≠ 0 → Traps (.ldgv f v a o) s .align (BitVec.ofNat 64 (r.toNat % 2 ^ 48)))

/-! ## Engine words -/

/-- 11 R242, R250 to R254: a copy-class command that passes its checks enters the core's queue; CPYQ (R261) answers with the
commands of the context, the entries that it may still take, those that are parked, and whether a fault record is kept. The model's
choices in it: log entry 56. -/
def Obligations.CopyResult : Prop :=
  ∀ (s : State) (l : CopyLend) (a b c : Fin 32) (h : Hnd) (arr : Option Arrive), Still s a → Still s b → Still s c → Performs s →
    Captures s h arr →
    let x := s.me.rd a
    let y := s.me.rd b
    let z := s.me.rd c
    let p : Plan := ⟨z.toNat % 2 ^ 40, if z.getLsbD 48 = true then some (z.toNat / 2 ^ 49 % 8) else none, none⟩
    let bad := decide (z.toNat / 2 ^ 40 % 2 ^ 8 ≠ 0) || decide (z.toNat / 2 ^ 52 ≠ 0)
    let goes := fun (i : Instr) (r : CopyReq) (w : W64) => CopyAccepted s r l.opx →
      Does i s (claims s r) (queued s (fresh s r.op l x w z arr r.plan.len r.plan.shape (firstClaim s r)))
    let two := fun (i : Instr) (op : Nat) => goes i ⟨op, x, some y, p, bad⟩ y
    two (.cpy l a b c h) 0 ∧ goes (.cpyz l a c h) ⟨2, x, none, p, bad⟩ 0 ∧ two (.cpyaAddi32 l a b c h) 3 ∧ two (.cpyaAddi64 l a b c h) 4 ∧
    two (.cpyaAddf l a b c h) 5 ∧ two (.cpyaMin l a b c h) 6 ∧ two (.cpyaMax l a b c h) 7 ∧ two (.cpyaOr l a b c h) 8 ∧
    two (.cpyaAnd l a b c h) 9 ∧ two (.cpyaXor l a b c h) 10 ∧
    (SpOk s z 32 32 → NoPoison s z.toNat 32 →
      let bs := (List.range 32).map fun j => myByte s (z.toNat + j)
      let sh := shapeOf bs
      goes (.cpys l a b c h) ⟨1, x, some y, ⟨sh.run * sh.n1 * sh.n2, sh.ring.map (·.val), some sh⟩, shapeBad bs⟩ y) ∧
    (let all := (myCore s).copies
     let own := all.filter fun d => d.ctx == s.cur
     Answers (.cpyq c) s c (own.length + 2 ^ 8 * min (48 - own.length) (64 - all.length) + 2 ^ 16 * (own.filter (·.parked)).length +
      2 ^ 24 * b2n s.me.frec.isSome : Nat) s)

/-- 11 R255: fetch-operations on an aligned device address, with a granule of the partition for the old value. -/
def Obligations.FetchOperationResult : Prop :=
  ∀ (s : State) (l : CopyLend) (a b c : Fin 32) (h : Hnd) (arr : Option Arrive), Still s a → Still s b → Still s c → Performs s →
    Captures s h arr → 0 < copyFree (myCore s).copies s.cur →
    let x := s.me.rd a
    let y := s.me.rd b
    let goes := fun (i : Instr) (op : Nat) (w : W64) => x.toNat % fopWidth op l.opx = 0 →
      Does i s s.me (queued s (fresh s op l x y w arr 16 none 0))
    x.toNat < 2 ^ 48 → SpOk s y 16 16 →
      goes (.fopAdd l a b c h) 11 (s.me.rd c) ∧ goes (.fopBadd l a b c h) 12 (s.me.rd c) ∧ goes (.fopSwap l a b c h) 13 (s.me.rd c) ∧
      goes (.fopCas l a b h) 14 0

/-- 11 R243, R244, R255: checks of a copy command made at issue; a reserved field of a plan is ENGINE_FAULT of kind FORM (0x20). The
model's choices in it: log entry 56. -/
def Obligations.CopyIssueFaults : Prop :=
  ∀ (s : State) (l : CopyLend) (a b c : Fin 32) (h : Hnd), Still s a → Still s b → Still s c → Performs s →
    let x := s.me.rd a
    let y := s.me.rd b
    let z := s.me.rd c
    (z.toNat / 2 ^ 40 % 2 ^ 8 ≠ 0 → x.toNat < 2 ^ 48 → y.toNat < 2 ^ 48 → Traps (.cpy l a b c h) s .engineFault (BitVec.ofNat 64 (2 ^ 48 * 0x20))) ∧
    (x.toNat / 2 ^ 61 = 4 → y.toNat < 2 ^ 48 → Traps (.fopAdd l a b c h) s .remoteFop (BitVec.ofNat 64 (x.toNat % 2 ^ 48 + 2 ^ 56 * 11))) ∧
    (x.toNat < 2 ^ 48 → x.toNat % fopWidth 13 l.opx ≠ 0 → Traps (.fopSwap l a b c h) s .align (BitVec.ofNat 64 x.toNat)) ∧
    (∀ ea : Nat, x.toNat = 2 ^ 62 + ea → ea % 16 ≠ 0 → ea < 2 ^ 23 → y.toNat < 2 ^ 48 → z.toNat < 2 ^ 40 → z.toNat ≠ 0 →
      Traps (.cpy l a b c h) s .align (BitVec.ofNat 64 ea)) ∧
    (∀ ea : Nat, x.toNat = 2 ^ 62 + ea → ea % 16 = 0 → ea < 2 ^ 23 → y.toNat < 2 ^ 48 → z.toNat < 2 ^ 40 → z.toNat % 16 = 0 → z.toNat ≠ 0 →
      s.me.spsize < ea + z.toNat → Traps (.cpy l a b c h) s .scratchRange (BitVec.ofNat 64 ea))

/-- 10 R226: the checks of the shadow set in order, each with the kind and the register that MX_FAULT names. -/
def Sys2Proof.Claims.shadowChecks (s : State) : List (Prop × Nat × Nat) :=
  let c := fun (j : Nat) => (s.me.mxc[j]!).toNat
  let m := 16 * (c 1 % 8 + 1)
  let n := 16 * (c 1 / 8 % 32 + 1)
  let kp := c 1 / 2 ^ 16 % 2 ^ 16
  let fa := c 0 % 16
  let fb := c 0 / 16 % 16
  let sparse := c 0 / 2 ^ 8 % 2 = 1
  let colb := c 3 / 2 ^ 8 % 16
  let pat := fun (j : Nat) => c 6 / 4 ^ j % 4
  let kind := fun (f : Nat) => if f < 3 then 0 else if f < 5 then 1 else f
  let width := fun (f : Nat) => if f = 2 ∨ f = 4 then 4 else if f = 5 ∨ f = 6 then 16 else 8
  let ring := fun (q p : Nat) => s.ringsOf s.cur ≤ q ∨ (s.me.ring q).set = false ∨ (s.me.ring q).psize ≠ p
  let scale := fun (v rows : Nat) => v / 2 ^ 6 % 2 = 1 ∧ ∀ d, s.me.sctab.get none (v % 2 ^ 6) = some d →
    d.rows < v / 2 ^ 16 % 2 ^ 16 + rows ∨ d.blks < v / 2 ^ 32 % 2 ^ 16 + kp
  [(2 ^ 16 ≤ c 0 ∨ 6 < fa ∨ 6 < fb ∨ 5 < c 0 / 2 ^ 11 % 8, 1, 0), (c 1 / 2 ^ 8 % 2 ^ 8 ≠ 0 ∨ 2 ^ 32 ≤ c 1, 1, 1), (2 ^ 9 ≤ c 2, 1, 2),
   (c 3 / 2 ^ 7 % 2 ≠ 0 ∨ 2 ^ 12 ≤ c 3, 1, 3), (c 4 / 2 ^ 7 % 2 ^ 9 ≠ 0 ∨ 2 ^ 48 ≤ c 4, 1, 4), (c 5 / 2 ^ 7 % 2 ^ 9 ≠ 0 ∨ 2 ^ 48 ≤ c 5, 1, 5),
   (∃ j, j < 32 ∧ pat j = 3, 1, 6)] ++
  ((List.range 9).map fun j => (c (7 + j) ≠ 0, 1, 7 + j)) ++
  [(kind fa ≠ kind fb, 1, 0), (c 4 / 2 ^ 6 % 2 = 1 ∧ 5 ≤ fa, 1, 4), (c 5 / 2 ^ 6 % 2 = 1 ∧ 5 ≤ fb, 1, 5),
   (∃ j, j < 32 ∧ pat j ≠ 0 ∧ (sparse ∨ 2 ^ (c 0 / 2 ^ 11 % 8) ≤ j), 1, 6),
   (128 < c 3 % 2 ^ 7 + m ∨ (n ≤ 256 ∧ 256 < 16 * colb + n) ∨ (256 < n ∧ colb ≠ 0), 2, 3),
   ((c 0 / 2 ^ 14 % 2 = 1 ∧ (s.me.ring (c 2 % 8)).cap < kp) ∨ (c 0 / 2 ^ 15 % 2 = 1 ∧ (s.me.ring (c 2 / 8 % 8)).cap < kp), 2, 0),
   ((sparse ∧ ring (c 2 % 8) (m * width fa / 8)) ∨ (¬ sparse ∧ ring (c 2 % 8) (m * width fa / 4)) ∨ ring (c 2 / 8 % 8) (n * width fb / 4) ∨
      (sparse ∧ ring (c 2 / 2 ^ 6 % 8) (m / 4)), 3, 2),
   (scale (c 4) m, 4, 4), (scale (c 5) n, 4, 5),
   (256 < n ∧ (coreOf s.cur % 2 = 1 ∨ s.kidOf (s.cur + 2) ≠ s.kidOf s.cur), 5, 0), (s.me.join = .inEffect, 6, 0)]

/-- 10 R233: the region is legal. -/
def Sys2Proof.Claims.LegalRegion (y : W64) : Prop :=
  y.getLsbD 7 = false ∧ y.getLsbD 15 = false ∧ y.toNat < 2 ^ 30 ∧ y.toNat / 2 ^ 16 % 4 = 0 ∧
    y.toNat % 2 ^ 7 + (y.toNat / 2 ^ 8 % 2 ^ 7 + 1) ≤ 128 ∧ y.toNat / 2 ^ 16 % 2 ^ 8 + 4 * (y.toNat / 2 ^ 24 % 2 ^ 6 + 1) ≤ 256

/-- Bytes that a tile command moves: the region, and a granule for the status word if it is asked for. -/
def Sys2Proof.Claims.tileBytes (y : W64) (st : Bool) : Nat :=
  4 * (y.toNat / 2 ^ 8 % 2 ^ 7 + 1) * (4 * (y.toNat / 2 ^ 24 % 2 ^ 6 + 1)) + 16 * b2n st

/-- 10 R214, R215, R226, R229, R230, R233: the shadow set and its checks, and commands that enter the matrix queue with the tile claim
taken; an illegal region. -/
def Sys2Proof.Claims.matrixQueueTakes : Prop :=
  ∀ (s : State) (n : Fin 8) (a b : Fin 32) (st : Bool) (h : Hnd) (arr : Option Arrive), Still s a → Still s b → Performs s → Captures s h arr →
    let x := s.me.rd a
    let y := s.me.rd b
    let cs := shadowChecks s
    let faults := fun (i : Instr) (kind reg : Nat) => Traps i s .mxFault (BitVec.ofNat 64 (kind + 256 * reg))
    Does (.mxcfg n a b) s { s.me with mxc := (s.me.mxc.set! (2 * n.val) x).set! (2 * n.val + 1) y } s ∧
    (s.me.mxq.length < 3 → ClaimFree s →
      ((∀ e ∈ cs, ¬ e.1) → Does (.mxgo h) s (mxQueued s (.go s.me.mxc) arr) (claimed s)) ∧
      (∀ j e, cs[j]? = some e → e.1 → (∀ e' ∈ cs.take j, ¬ e'.1) → faults (.mxgo h) e.2.1 e.2.2) ∧
      (LegalRegion y →
        Does (.mxz b st h) s (mxQueued s (.z y st) arr) (claimed s) ∧
        (SpOk s x (tileBytes y st) 16 →
          Does (.mxld a b st h) s (mxQueued s (.ld x y st) arr) (claimed s) ∧
          Does (.mxst a b st h) s (mxQueued s (.st x y st) arr) (claimed s)))) ∧
    (¬ LegalRegion y → faults (.mxz b st h) 7 0 ∧
      (SpOk s x (tileBytes y st) 16 → faults (.mxld a b st h) 7 0 ∧ faults (.mxst a b st h) 7 0)) ∧
    (x.toNat % 16 ≠ 0 → Traps (.mxld a b st h) s .align (BitVec.ofNat 64 (x.toNat % 2 ^ 48)) ∧
      Traps (.mxst a b st h) s .align (BitVec.ofNat 64 (x.toNat % 2 ^ 48))) ∧
    (x.toNat % 16 = 0 → s.me.spsize < x.toNat + tileBytes y st →
      Traps (.mxld a b st h) s .scratchRange (BitVec.ofNat 64 (x.toNat % 2 ^ 48)) ∧
      Traps (.mxst a b st h) s .scratchRange (BitVec.ofNat 64 (x.toNat % 2 ^ 48)))

/-- 10 R214, R215, R230, R233: a full matrix queue and another context's claim hold a command back: MXGO looks at the queue first, the tile
commands at the claim. -/
def Sys2Proof.Claims.matrixQueueWaits : Prop :=
  ∀ (s : State) (a b : Fin 32) (st : Bool) (h : Hnd), Still s a → Still s b → Performs s →
    let x := s.me.rd a
    let y := s.me.rd b
    let held := fun (i : Instr) => (¬ ClaimFree s → Waits i s { kind := 7 }) ∧ (ClaimFree s → 3 ≤ s.me.mxq.length → Waits i s { kind := 6 })
    (3 ≤ s.me.mxq.length → Waits (.mxgo h) s { kind := 6 }) ∧
    (s.me.mxq.length < 3 → ¬ ClaimFree s → Waits (.mxgo h) s { kind := 7 }) ∧
    (LegalRegion y → held (.mxz b st h) ∧ (SpOk s x (tileBytes y st) 16 → held (.mxld a b st h) ∧ held (.mxst a b st h)))

/-- 10 R214 to R216, R226, R233: a matrix word enters the queue, faults, or waits. The model's choices in it: log entry 26. -/
def Obligations.MatrixQueueResult : Prop := matrixQueueTakes ∧ matrixQueueWaits

/-- 10 R218, R231, R232: leases, joins and releases of the array and of the tile claim, their JOINED and PAIR faults and their waits, and
MXWAIT. The model's choices in it: log entries 27, 28. -/
def Obligations.MatrixLeaseResult : Prop :=
  ∀ (s : State) (a : Fin 32), Still s a → Performs s →
    (s.me.join ≠ .inEffect → ClaimFree s → Does .mxlease s { s.me with hold := true } (claimed s)) ∧
    (s.me.join = .inEffect → Traps .mxlease s .mxFault 6) ∧ (coreOf s.cur % 2 = 0 → Traps .mxleaseJoin s .mxFault 5) ∧
    (¬ ClaimFree s → (s.me.join ≠ .inEffect → Waits .mxlease s { kind := 7 }) ∧
      (coreOf s.cur % 2 = 1 → Waits .mxleaseJoin s { kind := 7 })) ∧
    (s.me.join ≠ .none → (s.ctx (s.cur - 2)).mxq.any MxCmd.wide = true → Waits .mxfreeJoin s { kind := 8 }) ∧
    (s.me.mxq ≠ [] → Waits .mxfreeClaim s { kind := 8 }) ∧
    (ClaimFree s → coreOf s.cur % 2 = 1 →
      (s.me.join = .none → Does .mxleaseJoin s { s.me with join := .pending (tilesIn s.me.mxq) } (claimed s)) ∧
      (s.me.join ≠ .none → Does .mxleaseJoin s s.me (claimed s))) ∧
    Does .mxfree s { s.me with hold := false } s ∧
    (s.me.join = .none ∨ (s.ctx (s.cur - 2)).mxq.any MxCmd.wide = false → Does .mxfreeJoin s { s.me with join := .none } s) ∧
    (s.me.mxq = [] → s.me.gmode = 0 →
      Does .mxfreeClaim s { s.me with hold := false, join := .none }
        (if (myCore s).claim = some s.cur then
          let k := coreOf s.cur
          let g := s.group (groupOf k)
          let u := s.upCore k fun c => { c with tile := [], tstatus := 0, tilePoison := [], claim := none }
          if g.run.any (fun r => r.core == k) = true then u.setGroup (groupOf k) { g with run := none } else u
        else s)) ∧
    (s.me.mxq.length ≤ (s.me.rd a).toNat → s.me.mxfault = none → s.me.gmode = 0 →
      Does (.mxwait a) s { s.me with arith := s.me.arith ||| if (myCore s).claim = some s.cur then (myCore s).tstatus else 0 } s) ∧
    ((s.me.rd a).toNat < s.me.mxq.length → Waits (.mxwait a) s { kind := 8 }) ∧
    (s.me.mxq.length ≤ (s.me.rd a).toNat → ∀ f, s.me.mxfault = some f → TrapsRec (.mxwait a) s f)

/-- 10 R234 to R236: rings, scale tables and the matrix status, whose fields are PEND, LEASE, HOLD, JOINED, CLAIM, FAULT, RUNOPS and
STATUS. -/
def Obligations.RingAndScaleResult : Prop :=
  ∀ (s : State) (q : Fin 8) (a b c : Fin 32), Still s a → Still s b → Still s c → Performs s →
    let x := s.me.rd a
    let y := s.me.rd b
    let z := s.me.rd c
    let ps := z.toNat % 2 ^ 16
    let cap := z.toNat / 2 ^ 16 % 2 ^ 16
    let r := s.me.rings[q]
    (SpOk s x (16 * (ps * cap)) 16 → ps ≠ 0 → cap ≠ 0 → z.toNat < 2 ^ 32 → s.ringNamed s.cur s.me q = false →
      Does (.ringset q a c) s { s.me with rings := s.me.rings.set q ⟨true, x.toNat, ps, cap, 0, 0, 0, []⟩ } s) ∧
    (x.toNat ≠ 0 → x.toNat ≤ r.cap → (r.tail - r.head).toNat + x.toNat ≤ r.cap →
      ((myCore s).copies.any fun d => d.ctx == s.cur && d.ringOf == some q.val) = false →
      Does (.ringpush q a) s
        { s.me with rings := s.me.rings.set q { r with
            tail := r.tail + BitVec.ofNat 32 x.toNat, claim := r.tail + BitVec.ofNat 32 x.toNat, early := [] } } s) ∧
    (r.cap < x.toNat → Traps (.ringpush q a) s .mxFault 9) ∧
    Answers (.ringstat c q) s c (r.head.toNat + 2 ^ 32 * r.tail.toNat) s ∧
    (let rows := y.toNat % 2 ^ 16
     let blks := y.toNat / 2 ^ 16 % 2 ^ 16
     SpOk s x (2 * (rows * blks)) 16 → z.toNat < 64 → rows ≠ 0 → blks ≠ 0 → y.toNat < 2 ^ 32 → (pinsOf s.me.mxq).contains z.toNat = false →
      Does (.sctab a b c) s { s.me with sctab := s.me.sctab.put z.toNat (some ⟨x.toNat, rows, blks⟩) } (s.scDrop s.cur z.toNat)) ∧
    (x.toNat < 64 → (pinsOf s.me.mxq).contains x.toNat = false →
      Does (.scinv a) s { s.me with sctab := s.me.sctab.del x.toNat } (s.scDrop s.cur x.toNat)) ∧
    (63 < x.toNat → Traps (.scinv a) s .mxFault 4) ∧
    (let k := coreOf s.cur
     let has := (myCore s).claim == some s.cur
     let run := (s.group (groupOf k)).run.filter fun r => has && r.core == k
     Answers (.mxstat c) s c (s.me.mxq.length % 4 + 4 * b2n run.isSome + 8 * b2n s.me.hold + 16 * b2n (s.me.join == .inEffect) + 32 * b2n has +
      64 * b2n s.me.mxfault.isSome + 2 ^ 8 * run.elim 0 (·.ops) + 2 ^ 32 * (if has = true then (myCore s).tstatus.toNat else 0) : Nat) s)

/-! ## Phasers and system words -/

/-- 12 R264 to R266, R273: PHBIND binds a handle to an object of the queue's window, and initialises the object if asked. The model's
choices in it: log entry 33. -/
def Obligations.PhaserBindResult : Prop :=
  ∀ (s : State) (c a : Fin 32) (h : Fin 96), Still s a → Performs s →
    let x := s.me.rd a
    let ob := x.toNat % 2 ^ 14
    let p := s.phaser ob
    let binds := fun (u : State) (ph : W32) => Answers (.phbind c a h) s c 0 (u.upHandle (coreOf s.cur) h fun _ => ⟨some ob, .none, .none, ph, ph, none⟩)
    (s.bindable s.cur ob = false → Answers (.phbind c a h) s c (-1) s) ∧
    (s.bindable s.cur ob = true →
      (x.getLsbD 63 = true → p.nsig ≠ 0 ∨ s.regPending ob = true → Answers (.phbind c a h) s c (-2) s) ∧
      ((mine s h).obj = none →
        (x.getLsbD 63 = false → binds s p.phase) ∧
        (x.getLsbD 63 = true → p.nsig = 0 → s.regPending ob = false → binds (s.initObj ob 0 (x.toNat / 2 ^ 16 % 2 ^ 16)) 0)) ∧
      ∀ old, (mine s h).obj = some old →
        let u := s.dropReg (coreOf s.cur) h old true
        (x.getLsbD 63 = false → binds u p.phase) ∧
        (x.getLsbD 63 = true → p.nsig = 0 → s.regPending ob = false → binds (u.initObj ob 0 (x.toNat / 2 ^ 16 % 2 ^ 16)) 0))

/-- 12 R267, R268, R274, R275, R277: registrations, drops and arrivals go to the object; a signaller two phases ahead waits. The model's
choices in it: log entry 33. -/
def Obligations.PhaserSignalResult : Prop :=
  ∀ (s : State) (m : RegMode) (p : Scope) (c a : Fin 32) (h : Fin 96) (ob : Nat), Still s a → Performs s → (mine s h).obj = some ob →
    let q := mine s h
    let k := coreOf s.cur
    let o := s.phaser ob
    let ahead := (q.sph - o.phase).toNat
    let sends := fun (i : Instr) (q : Handle) (x : PhMsg) => Does i s s.me (sent (handled s h q) x)
    let arrives := fun (i : Instr) (n : Nat) => Does i s s.me (sent s (.anon ob n none k none))
    let reg := PhMsg.reg ob k h .handle
    let signals := q.mode = .sig ∨ q.mode = .sigwait
    sends (.phreg m h) { q with pend := .reg (match m with | .sig => .sig | .wait => .wait | .sigwait => .sigwait) } (reg none) ∧
    (q.mode = .none → Does (.phdrop h) s s.me (handled s h { q with pend := .none })) ∧
    (q.mode = .wait → sends (.phdrop h) { q with pend := .drop } (reg none)) ∧
    (signals → sends (.phdrop h) { q with pend := .drop } (reg (some q.sph))) ∧
    (signals → ahead < 2 ∨ 2 ^ 31 ≤ ahead → sends (.phsig p h) { q with sph := q.sph + 1 } (.member ob k h q.sph)) ∧
    (signals → 2 ≤ ahead → ahead < 2 ^ 31 → Waits (.phsig p h) s { kind := 2, h := h, arg := ob }) ∧
    (¬ signals → arrives (.phsig p h) 1) ∧
    (let n := (s.me.rd a).toNat % 2 ^ 16
     (n ≠ 0 → arrives (.phadd p h a) n) ∧ (n = 0 → Does (.phadd p h a) s s.me s)) ∧
    Does (.phtest c h) s (owed s c (BitVec.ofNat 64 (o.phase.toNat + 2 ^ 32 * b2n (phGt o.phase q.lph) + 2 ^ 33 * b2n o.broken +
      2 ^ 34 * b2n q.frec.isSome + 2 ^ 35 * b2n (q.pend != .none) +
      2 ^ 36 * (match q.mode with | .none => 0 | .sig => 1 | .wait => 2 | .sigwait => 3)))) s

/-- 12 R270, R276, R279, 09 R200: waits on a handle, and FENCE; an acquire at DEVICE or POD drops the core's read-only L1. -/
def Obligations.PhaserWaitResult : Prop :=
  ∀ (s : State) (p : Scope) (h : Fin 96) (ob : Nat), Performs s → (mine s h).obj = some ob →
    let q := mine s h
    let o := s.phaser ob
    let k := coreOf s.cur
    let acq := fun (u : State) => if p = .device ∨ p = .pod then u.upCore k fun c => { c with l1 := [] } else u
    let passed := 1 ≤ (o.phase - q.lph).toNat ∧ (o.phase - q.lph).toNat ≤ 2 ^ 31 - 1
    (∀ f, q.frec.or s.me.frec = some f → TrapsRec (.phwait p h) s f ∧ TrapsRec (.phnext p h) s f) ∧
    (q.frec = none → s.me.frec = none →
      (passed → Does (.phwait p h) s s.me (acq (handled s h { q with lph := q.lph + 1 }))) ∧
      (¬ passed → o.broken = false → Waits (.phwait p h) s { kind := 1, h := h, arg := ob }) ∧
      (¬ passed → o.broken = true → Traps (.phwait p h) s .phaserBroken
        (BitVec.ofNat 64 (ob % 2 ^ 14 + 2 ^ 16 * h.val + 2 ^ 32 * q.lph.toNat))) ∧
      (let c := { s.me with phnext := some (h, p, s.me.pc), wait := some { kind := 1, h := h, arg := ob, since := s.me.cycle.setWidth 32 } }
       (q.mode = .sig ∨ q.mode = .sigwait → (q.sph - o.phase).toNat < 2 ∨ 2 ^ 31 ≤ (q.sph - o.phase).toNat →
        Does (.phnext p h) s c (sent (handled s h { q with sph := q.sph + 1 }) (.member ob k h q.sph))) ∧
       (q.mode = .sig ∨ q.mode = .sigwait → 2 ≤ (q.sph - o.phase).toNat → (q.sph - o.phase).toNat < 2 ^ 31 →
        Waits (.phnext p h) s { kind := 2, h := h, arg := ob }) ∧
       (q.mode = .none ∨ q.mode = .wait → Does (.phnext p h) s c (sent s (.anon ob 1 none k none))))) ∧
    ((∀ d ∈ (myCore s).copies, d.ctx ≠ s.cur) →
      (s.me.frec = none → Does (.fence p) s s.me (acq s)) ∧ ∀ f, s.me.frec = some f → TrapsRec (.fence p) s f) ∧
    ((∃ d ∈ (myCore s).copies, d.ctx = s.cur) → Waits (.fence p) s { kind := 12 })

/-- Core `j` lies within the scope of an invalidation by a context of core `k` (04 R88, 16 R373). -/
def Sys2Proof.Claims.within (p : Scope) (k j : Nat) : Bool :=
  match p with
  | .ctx | .core => j == k
  | .group => j / 4 == k / 4
  | .die => j / 96 == k / 96
  | .device | .pod => decide (j < 384)

/-- Instruction-cache line `l` is one that ICINV over [a, a + n) removes: any, where the range is long; else a line that overlaps what a page of
the range translates to, which is 32 bytes for each word of a value page (04 R88). -/
def Sys2Proof.Claims.Stale (s : State) (a n l : Nat) : Prop :=
  65536 ≤ n ∨ ∃ va t, a ≤ va ∧ va < a + n ∧ va < 2 ^ 48 ∧ (s.lookup (coreOf s.cur) (s.asidOf s.cur) (s.worldOf s.cur) (va / 128 * 128)).2 = .ok t ∧
    t.paOf va / 128 ≤ l ∧ l ≤ (t.paOf va + if t.isValue = true then 31 else 0) / 128

/-- TLBINV with selector `x` and length `n` removes entries of this ASID for the page of `size` bytes at `va` (16 R373). -/
def Sys2Proof.Claims.removes (x : W64) (n asid va size : Nat) : Bool :=
  let a := x.toNat % 2 ^ 48
  x.getLsbD 63 || (asid == x.toNat / 2 ^ 48 % 64 && (x.getLsbD 62 || (n != 0 && decide (a < va + size) && decide (va < a + n))))

/-- 04 R88: ICINV removes the stale lines from the instruction caches in scope, with what is being filled of them, and no other. -/
def Sys2Proof.Claims.Refetches (s u : State) (p : Scope) (a n : Nat) : Prop :=
  u = { s with cores := u.cores } ∧ ∀ j,
    (within p (coreOf s.cur) j = false → u.core j = s.core j) ∧
    (within p (coreOf s.cur) j = true →
      u.core j = { s.core j with icache := (u.core j).icache, ifill := (u.core j).ifill } ∧ ∀ l,
        (Stale s a n l → (u.core j).icache.get none l = none ∧ (u.core j).ifill.get [] l = []) ∧
        (¬ Stale s a n l →
          (u.core j).icache.get none l = (s.core j).icache.get none l ∧ (u.core j).ifill.get [] l = (s.core j).ifill.get [] l))

/-- 16 R373: TLBINV removes the selected entries from the L1 TLBs of the cores in scope. DIE and DEVICE also remove them from the L2 TLBs of
those dies and from what the fabric keeps, and stop the walks whose page may be a selected one. -/
def Sys2Proof.Claims.Retranslates (s u : State) (p : Scope) (x : W64) (n : Nat) : Prop :=
  let die := fun (d : Nat) => (p = .die ∧ d = dieOf (coreOf s.cur)) ∨ ((p = .device ∨ p = .pod) ∧ d < 4)
  u = { s with cores := u.cores, l2tlb := u.l2tlb, walks := u.walks, fab := u.fab } ∧
  (∀ j, u.core j = if within p (coreOf s.cur) j = true then
      { s.core j with tlb := (s.core j).tlb.filter fun e => !removes x n e.asid e.xl.va e.xl.size } else s.core j) ∧
  (∀ d, (die d → u.l2tlb.get [] d = (s.l2tlb.get [] d).filter (fun e => !removes x n e.asid e.xl.va e.xl.size) ∧
      u.walksOf d = (s.walksOf d).filter fun w => !removes x n w.asid (w.va / 2 ^ 30 * 2 ^ 30) (2 ^ 30)) ∧
    (¬ die d → u.l2tlb.get [] d = s.l2tlb.get [] d ∧ u.walksOf d = s.walksOf d)) ∧
  u.fab = if p = .die ∨ p = .device ∨ p = .pod then { s.fab with
    verdicts := s.fab.verdicts.map fun v => { v with xl := v.xl.filter fun e => !removes x n e.1 e.2.va e.2.size } } else s.fab

/-- 05 R110, R111, 04 R88, 16 R373: release from a gang and rejoining; the invalidations, which the device performs while the bundle
waits, and of which TLBINV asks for privilege. The model's choices in it: log entries 10, 34. -/
def Obligations.GangAndInvalidationResult : Prop :=
  ∀ (s : State) (p : Scope) (a b : Fin 32), Still s a → Still s b →
    (s.me.gmode ≠ 0 → LeavesMe .decpl s { s.me with gdec := true }) ∧ (s.me.gmode = 0 → LeavesMe .decpl s s.me) ∧
    (s.me.gdec = false → LeavesMe .rejn s s.me) ∧
    (s.me.gdec = true → Performs s →
      (s.me.granted = some 10 → LeavesMe .rejn s { s.me with arrived := false }) ∧
      (s.me.granted ≠ some 10 → ∃ t, exec .rejn s = .next t ∧ OnlyMe s t ∧
        t.me = { s.me with arrived := true, wait := some { kind := 10, since := s.me.cycle.setWidth 32 } })) ∧
    (s.me.rd b = 0 → LeavesMe (.icinv p a b) s s.me) ∧
    (s.me.rd b ≠ 0 →
      (s.me.granted = some 9 → ∃ u, Does (.icinv p a b) s s.me u ∧ Refetches s u p (s.me.rd a).toNat (s.me.rd b).toNat) ∧
      (s.me.granted ≠ some 9 → Waits (.icinv p a b) s { kind := 9 })) ∧
    (s.worldOf s.cur = true → ¬ Performs s → LeavesMe (.tlbinv p a b) s s.me) ∧
    (s.worldOf s.cur = true → Performs s →
      (s.me.granted = some 15 → ∃ u, Does (.tlbinv p a b) s s.me u ∧ Retranslates s u p (s.me.rd a) (s.me.rd b).toNat) ∧
      (s.me.granted ≠ some 15 → Waits (.tlbinv p a b) s { kind := 15 })) ∧
    (s.worldOf s.cur = false → ∃ w, Traps (.tlbinv p a b) s .priv w)

/-- 06 R133, 03 R46: LAUNCH, with the statuses of a launch that is turned away in the order of the checks. The model's choices in it: log
entry 35. -/
def Obligations.LaunchResult : Prop :=
  ∀ (s : State) (c a b : Fin 32), Still s a → Still s b → Performs s →
    let n := (s.me.rd a).toNat
    let ptr := (s.me.rd b).toNat
    let q := s.queue n
    let answers := fun (r : Int) (u : State) => Answers (.launch c a b) s c r u
    (64 ≤ n → answers (-4) s) ∧
    (n < 64 → ptr % 256 ≠ 0 ∨ 2 ^ 48 ≤ ptr → answers (-5) s) ∧
    (n < 64 → ptr % 256 = 0 → ptr < 2 ^ 48 →
      (q.en = false → answers (-2) s) ∧ (q.en = true → q.src = false → answers (-1) s) ∧
      (q.en = true → q.src = true → s.sys.worldQueue.get false n = true → s.worldOf s.cur = false → answers (-6) s) ∧
      (q.en = true → q.src = true → s.sys.worldQueue.get false n = false ∨ s.worldOf s.cur = true →
        ((q.tail - q.head).toNat = 2 ^ q.log2n.toNat → answers (-3) s) ∧
        ((q.tail - q.head).toNat ≠ 2 ^ q.log2n.toNat →
          let va := q.base.toNat + 8 * (q.tail.toNat % 2 ^ q.log2n.toNat)
          (∀ f, s.devXlate n va .write = .error f → answers (-7) s) ∧
          ∀ pa, s.devXlate n va .write = .ok pa →
            answers q.tail.toNat ((s.wr (BitVec.ofNat 12 s.cur) pa ((List.range 8).map fun j => BitVec.ofNat 8 (ptr / 2 ^ (8 * j)))).setQueue n
              { q with tail := q.tail + 1 }))))

/-- 16 R371, R372: SMC sends its request to the controller; WAITEV answers with the events that hold, or waits. -/
def Obligations.ServiceAndEventResult : Prop :=
  ∀ (s : State) (c a b : Fin 32) (h : Hnd) (arr : Option Arrive), Still s a → Still s b → Performs s → Captures s h arr →
    let x := s.me.rd a
    Does (.smc c a b) s { s.me with pends := s.me.pends ++ [⟨.s c, .smc x (s.me.rd b), s.me.pc, false⟩] } s ∧
    let n := b2n (decide (x ≠ 0 ∧ x.toNat ≤ s.sys.sidt.toNat)) + 2 * b2n s.me.wake + (match arr with
      | some r => 4 * b2n (phGt (s.phaser r.obj).phase (mine s r.h).lph) + 8 * b2n (s.phaser r.obj).broken
      | none => 0)
    (n ≠ 0 → s.me.gmode ≠ 2 → Does (.waitev c a h) s (Ctx.withS { s.me with wake := false } c (BitVec.ofNat 64 n)) s) ∧
    (n = 0 → Waits (.waitev c a h) s { kind := 13 })

/-- 16 R369, R370: CTXCTL by a privileged context on a decoupled instance in context `y`; the operation stands in the target word, so
every spelling of the word does the same. -/
def Sys2Proof.Claims.contextControl : Prop :=
  ∀ (s : State) (i : Instr) (c a b : Fin 32) (h : Hnd) (arr : Option Arrive) (y : Nat),
    i = .ctxctlHalt c a b h ∨ i = .ctxctlFlush c a b h ∨ i = .ctxctlRestart c a b h ∨ i = .ctxctlResume c a b h ∨ i = .ctxctlWake c a b h →
    Still s a → Still s b → Performs s → Captures s h arr → s.worldOf s.cur = true → targetBad (s.me.rd a) = false →
    let x := s.me.rd a
    let op := x.toNat / 2 ^ 16 % 16
    let k := coreOf s.cur
    let later := fun (z : Nat) => if z = y then (arr.map fun r => (k, r)).toList else []
    let t := s.ctx y
    let both := if t.gmode = 2 then [y - y % 4, y - y % 4 + 2] else [y]
    let each := fun (f : Nat → Ctx → Ctx) => both.foldl (fun u z => u.upCtx z (f z)) s
    let held := t.ctlhalt = true ∧ ∃ o, t.occ = some o ∧ o.st = .halted
    (s.target s.cur x = .none → Answers i s c (-1) s) ∧
    (op < 5 → (∃ z, s.target s.cur x = .saved z) ∨ (∃ z, s.target s.cur x = .gone z) ∨ (∃ z, s.target s.cur x = .early z) →
      Answers i s c (-3) s) ∧
    (s.target s.cur x = .at y → 5 ≤ op ∨ y = s.cur → Answers i s c (-1) s) ∧
    (s.target s.cur x = .at y → op < 5 → y ≠ s.cur → s.saving y = true → Answers i s c (-3) s) ∧
    (s.target s.cur x = .at y → y ≠ s.cur → s.saving y = false → t.gmode ≠ 0 → t.gdec = false → op < 5 → Answers i s c (-2) s) ∧
    (s.target s.cur x = .at y → y ≠ s.cur → s.saving y = false → t.gmode = 0 ∨ t.gdec = true → s.cur ∉ both →
      (op = 0 → ¬ held → Answers i s c 0 (each fun z c => c.request (.ctxctl (later z).head?))) ∧
      (op = 0 → held → Answers i s c (-2) s) ∧
      (op = 1 → held → Answers i s c 0 ((both.foldl (fun u z =>
        (u.upCore (coreOf z) fun q => { q with copies := q.copies.filter fun d => d.ctx != z }).upCtx z fun c => { c with frec := none })
          s).arrive k arr none)) ∧
      (1 ≤ op → op ≤ 3 → ¬ held → Answers i s c (-2) s) ∧
      (op = 2 → (s.me.rd b).toNat % 4 ≠ 0 → Answers i s c (-2) s) ∧
      (op = 2 → held → (s.me.rd b).toNat % 4 = 0 → ∀ kn, s.kernelOf y = some kn → (kn.krec.codeBase.toNat + (s.me.rd b).toNat) < 2 ^ 48 →
        Answers i s c 0 (each fun z c =>
          { (c.fresh kn.krec (kn.krec.at (s.me.rd b).toNat)).go with restarted := true, rarr := c.rarr ++ later z })) ∧
      (op = 3 → held → Answers i s c 0 (each fun z c => { c.go with rarr := c.rarr ++ later z })) ∧
      (op = 4 → Answers i s c 0 ((each fun _ c => { c with wake := true }).arrive k arr none)))

/-- 16 R369: WSTAT by a privileged context: the wait or the state of another instance, or of nobody. -/
def Sys2Proof.Claims.instanceStatus : Prop :=
  ∀ (s : State) (c a b : Fin 32) (y : Nat), Still s a → Still s b → Performs s → s.worldOf s.cur = true → y ≠ s.cur →
    let x := s.me.rd a
    let t := s.ctx y
    let reads := fun (v : Nat) => Answers (.wstat c a b) s c v s
    (s.me.rd b = 0 → targetBad x = true ∨ s.target s.cur x = .none → reads 0) ∧
    (s.me.rd b = 1 → targetBad x = true ∨ s.target s.cur x = .none → reads 7) ∧
    (1 < (s.me.rd b).toNat → reads 0) ∧
    (targetBad x = false → s.target s.cur x = .at y →
      (s.me.rd b = 0 → t.wait = none → reads 0) ∧
      (s.me.rd b = 0 → ∀ w, t.wait = some w → reads w.word.toNat) ∧
      (s.me.rd b = 1 → ∀ o, t.occ = some o → o.st = .running → reads (b2n t.wait.isSome + 8 * b2n t.hnd + 256 * t.pc.toNat)) ∧
      (s.me.rd b = 1 → ∀ o, t.occ = some o → o.st = .halted → t.ctlhalt = true → reads (2 + 8 * b2n t.hnd + 256 * t.pc.toNat)) ∧
      (s.me.rd b = 1 → ∀ o, t.occ = some o → o.st = .halted → t.ctlhalt = false →
        ∃ st, (st = 0 ∨ st = 3) ∧ reads (st + 8 * b2n t.hnd + 256 * t.pc.toNat))) ∧
    (targetBad x = false → ∀ z, z ≠ s.cur →
      let word := fun (st : Nat) => reads (st + 8 * b2n (s.ctx z).hnd + 256 * (s.ctx z).pc.toNat)
      (s.target s.cur x = .saved z → (s.me.rd b = 0 → reads 0) ∧ (s.me.rd b = 1 → word 3)) ∧
      (s.target s.cur x = .gone (some z) → (s.me.rd b = 0 → reads 0) ∧ (s.me.rd b = 1 → word 4))) ∧
    (targetBad x = false → s.target s.cur x = .gone none → s.me.rd b = 1 → ∃ v, reads (4 + 8 * v)) ∧
    ∀ pc : Addr, targetBad x = false → s.target s.cur x = .early pc → s.me.rd b = 1 → reads (5 + 256 * pc.toNat)

/-- 16 R369, R370: control of another instance, and what WSTAT reads of it. The model's choices in it: log entries 36, 63. -/
def Obligations.ContextControlResult : Prop := contextControl ∧ instanceStatus

/-! ## Fabric words -/

/-- 13 R304, R324 to R327: leases as a context asks for them, gives them back and reads them, and FABST, whose item 1 gives ELIVE, ESPARE,
DLIVE, DSPARE, SPC and PEN of a port. The model's choices in it: log entries 40, 41. -/
def Obligations.BandwidthLeaseResult : Prop :=
  ∀ (s : State) (c a b : Fin 32) (h : Hnd) (arr : Option Arrive), Still s a → Still s b → Performs s → Captures s h arr →
    let x := s.me.rd a
    let y := s.me.rd b
    let f := s.fab
    let l := x.toNat % 256
    let ports := (List.range 16).filter fun p => y.getLsbD p
    let off := f.sync = false ∨ ∃ p ∈ ports, f.portEn.getLsbD p = false
    let keyed := ∃ w ∈ f.keyEntries s.me.pkey, bitOf w 23 = true
    let asks := Answers (.bwreq c a b h) s c
    (bwBad s.sys.nodeid x y = true → asks (-1) s) ∧
    (bwBad s.sys.nodeid x y = false →
      (off → asks (-4) s) ∧
      (¬ off → ¬ keyed → asks (-3) s) ∧
      (¬ off → keyed → (∀ n, n < 256 → (f.lease n).isSome = true) → asks (-2) s) ∧
      (¬ off → keyed → ∀ n, n < 256 → f.lease n = none → (∀ m, m < n → (f.lease m).isSome = true) →
        ∃ u, asks n u ∧ u = { s with fab := u.fab, transit := u.transit } ∧ ∃ v, u.fab.lease n = some v ∧ v.peer.toNat = x.toNat % 2 ^ 13 ∧
          v.pkey = s.me.pkey ∧ v.qpp = x.toNat / 2 ^ 16 % 8 ∧ v.frames = x.toNat / 2 ^ 32 % 2 ^ 16 ∧ v.gmask.toNat = y.toNat / 2 ^ 16 % 64 ∧
          v.ports.map (·.port) = ports ∧ v.rel = false ∧ v.arr = arr)) ∧
    (∀ v, f.lease l = some v → some v.kid = s.kidOf s.cur → x.toNat / 256 = 0 →
      (v.finished = true → Does (.bwrel a h) s s.me (s.setLease l none)) ∧
      (v.finished = false → ∃ u, Does (.bwrel a h) s s.me u ∧ u.fab.lease l = some { v with rel := true, endArr := some arr } ∧
        u = { s with fab := { f with leases := u.fab.leases, ctlq := u.fab.ctlq } })) ∧
    (f.lease l = none ∨ x.toNat / 256 ≠ 0 → Does (.bwrel a h) s s.me s) ∧
    (f.lease l = none → Answers (.bwqry c a) s c 0 s) ∧
    (∀ v, f.lease l = some v → (some v.kid ≠ s.kidOf s.cur → Answers (.bwqry c a) s c 0 s) ∧
      (some v.kid = s.kidOf s.cur →
        (x.getLsbD 15 = false → Answers (.bwqry c a) s c (v.state + 8 * whyCode v.why +
          65536 * (((v.live.map fun p => 2 ^ p.port).foldl (· + ·) 0 : Nat) : Int) + 2 ^ 32 * (v.effect % 2 ^ 32 : Nat)) s) ∧
        (x.getLsbD 15 = true → (∀ p ∈ v.live, p.port ≠ x.toNat / 256 % 16) → Answers (.bwqry c a) s c 0 s))) ∧
    (x.toNat % 16 = 0 → Answers (.fabst c a) s c (s.sys.nodeid.toNat + 2 ^ 13 * b2n f.sync + 2 ^ 14 * b2n f.en + 2 ^ 15 * b2n f.rtPend +
      65536 * (min 255 ((List.range 256).countP fun n => (f.lease n).isSome) : Nat) + 2 ^ 32 * (s.frame % 2 ^ 32 : Nat)) s) ∧
    (x.toNat % 16 = 1 →
      let p := x.toNat / 16 % 16
      let spare := fun (j : Nat) => f.chLive p j && !f.chGone s.frame p j
      (f.portOn p = false → Answers (.fabst c a) s c (2 ^ 37 * b2n (f.portEn.getLsbD p) : Nat) s) ∧
      (f.portOn p = true → ∃ v : Nat, Answers (.fabst c a) s c v s ∧ v < 2 ^ 38 ∧
        (∀ j, j < 16 → (v.testBit j = true ↔
          f.chLive p j = true ∧ ∀ n, n < 64 → ephUse (f.active p n j) = 0 ∨ f.lineLit p (ephLine (f.active p n j)) = true)) ∧
        (∀ j, j < 2 → v.testBit (16 + j) = spare (16 + j)) ∧
        (∀ j, j < 16 → (v.testBit (18 + j) = true ↔ f.chGone s.frame p (18 + j) = false ∧
          (f.los.get false (36 * p + 18 + j) = true → f.serves s.frame p (18 + j) ≠ 18 + j))) ∧
        (∀ j, j < 2 → v.testBit (34 + j) = spare (34 + j)) ∧ v.testBit 36 = f.spareLit s.frame p ∧ v.testBit 37 = f.portEn.getLsbD p)) ∧
    (1 < x.toNat % 16 → Answers (.fabst c a) s c 0 s)

/-- 13 R319 to R322: landing rings: setting one, a send that takes a slot, and the release of messages. The model's choices in it: log
entry 37. -/
def Obligations.LandingRingResult : Prop :=
  ∀ (s : State) (l : CopyLend) (a b c : Fin 32) (h : Hnd) (arr : Option Arrive), Still s a → Still s b → Still s c → Performs s → Captures s h arr →
    let x := s.me.rd a
    let y := s.me.rd b
    let z := s.me.rd c
    let r := x.toNat % 2 ^ 10
    (SpOk s x 32 32 → NoPoison s x.toNat 32 →
      let e := s.landRec s.cur ((List.range 32).map fun j => myByte s (x.toNat + j)) arr
      (e.2.2 = true → Answers (.lrset c a h) s c (-1) s) ∧
      (e.2.2 = false →
        (∀ q, s.fab.ring e.1 = some q → q.taken (s.kidOf s.cur) = true → Answers (.lrset c a h) s c (-2) s) ∧
        ((∀ q, s.fab.ring e.1 = some q → q.taken (s.kidOf s.cur) = false) →
          (e.2.1.tx = true ∨ s.rxPages s.cur e.2.1.base (e.2.1.slotsz * e.2.1.nslot) = true →
            Answers (.lrset c a h) s c 0 (s.setRing e.1 (some e.2.1))) ∧
          (e.2.1.tx = false → s.rxPages s.cur e.2.1.base (e.2.1.slotsz * e.2.1.nslot) = false → Answers (.lrset c a h) s c (-3) s)))) ∧
    (∀ v, s.fab.ring r = some v → some v.kid = s.kidOf s.cur → x.toNat / 2 ^ 10 = 0 →
      (let len := z.toNat
       let dst : W64 := BitVec.ofNat 64 (2 ^ 63 + 2 ^ 48 * v.peer.toNat)
       v.tx = true → len < 2 ^ 40 → len ≠ 0 → len + 16 ≤ v.slotsz → CopyAccepted s ⟨0x33, dst, some y, ⟨len, none, none⟩, false⟩ l.opx →
        Does (.puts l a b c h) s s.me ((s.setRing r (some { v with b := v.b + 1 })) |> fun u =>
          queued u { fresh s 0x33 l dst y z arr len none 0 with slot := some (r, v.b) })) ∧
      (v.tx = false → y.toNat ≤ (v.b - v.a).toNat → y ≠ 0 → (∀ d ∈ (myCore s).copies, d.ctx ≠ s.cur) →
        (∀ p ∈ s.me.pends, ∀ e n g rs got, p.what ≠ .load e n g rs got) →
        Does (.rels a b) s s.me ((s.setRing r (some { v with a := v.a + BitVec.ofNat 32 y.toNat })).queueCtl 0 0 63 none
          (.rhead v.peer v.plrid (v.a + BitVec.ofNat 32 y.toNat)))) ∧
      (v.tx = true ∨ (v.b - v.a).toNat < y.toNat → Traps (.rels a b) s .engineFault (BitVec.ofNat 64 (2 ^ 48 * 0x20 + 2 ^ 56 * 0x34))))

/-- 15 R344, R348, R352, R353: COLL takes the lowest free ticket of the die's Orrery, or is turned away; COLLQ reads a ticket. The
model's choices in it: log entry 45. -/
def Obligations.CollectiveResult : Prop :=
  ∀ (s : State) (c a : Fin 32) (h : Fin 96) (ob : Nat), Still s a → Performs s → (mine s h).obj = some ob →
    let x := s.me.rd a
    let d := dieOf (coreOf s.cur)
    let o := s.orrery d
    let bs := (List.range 256).map fun j => myByte s (x.toNat + j)
    let v := collOf bs
    (SpOk s x 256 256 → NoPoison s x.toNat 256 →
      (collBad bs = true → Answers (.coll c a h) s c (-1) s) ∧
      (collBad bs = false → (o.holds v.key v.comm).isSome = true → Answers (.coll c a h) s c (-3) s) ∧
      (collBad bs = false → o.holds v.key v.comm = none →
        (s.sys.worldOrrery.get false d ≠ s.worldOf s.cur ∨ (∀ n, n < 64 → (o.ticket n).isSome = true) → Answers (.coll c a h) s c (-2) s) ∧
        (s.sys.worldOrrery.get false d = s.worldOf s.cur → s.quarantined (0x5000 + d) = false →
          ∀ n, n < 64 → o.ticket n = none → (∀ m, m < n → (o.ticket m).isSome = true) →
          ∃ u, Answers (.coll c a h) s c n u ∧ u = { s with orreries := u.orreries, fab := u.fab, nextId := u.nextId } ∧
            ∃ t, (u.orrery d).ticket n = some t ∧ t.coll = v ∧ t.kid = (s.kidOf s.cur).getD 0 ∧ t.arr = ⟨h, ob⟩ ∧ t.admitted = false ∧ t.next = 0 ∧ t.xfers = [] ∧
              ((∀ y ∈ (myCore s).copies, y.ctx ≠ s.cur) → t.announced = true)))) ∧
    (match o.ticket (x.toNat % 64) with
      | none => Answers (.collq c a) s c 0 s
      | some t =>
        (some t.kid ≠ s.kidOf s.cur → Answers (.collq c a) s c 0 s) ∧
        (some t.kid = s.kidOf s.cur → Answers (.collq c a) s c (((if t.admitted = false then 1
          else if t.admits.length < t.coll.gsize ∧ t.next = 0 then 2
          else if t.next < (t.coll.levels.map (·.bound)).foldl (· * ·) 1 then 3 else 4) +
          65536 * min 65535 t.admits.length + 2 ^ 32 * (t.next % 2 ^ 32) : Nat) : Int) s))

/-! ## What the host does -/

/-- 03 R45, R47, 12 R264, 16 R362, 17 R388: the host's queue operations, those of the Zenith controller on a secure queue, and the
initialisation of a phaser object. Any of the host's wakes the device (17 R387). The model's choices in it: log entries 32, 46, 70. -/
def Obligations.HostQueueResult : Prop :=
  ∀ (s : State) (q : Fin 64) (v : W32) (z : Bool) (o : Fin 16384) (phase : W32) (anon : BitVec 16),
    let w := s.barAccess
    let a := if z = true then s else w
    let k := s.queue q
    let shut := s.sys.worldQueue.get false q ≠ z
    let new := { k with
      qprio := v.extractLsb' 5 3, log2n := if k.en = true then k.log2n else v.extractLsb' 0 5, src := if k.en = true then k.src else v.getLsbD 8 }
    let bad := new.log2n.toNat < 4 ∨ 16 < new.log2n.toNat ∨ k.base.toNat % 64 ≠ 0
    (shut → Makes (.qtailWrite ⟨q, z⟩ v) s a ∧ Makes (.qcfgWrite ⟨q, z⟩ v) s a ∧ Makes (.kstopKill ⟨q, z⟩) s a ∧ Makes (.kstopPreempt ⟨q, z⟩) s a) ∧
    (k.src = true → Makes (.qtailWrite ⟨q, z⟩ v) s a) ∧
    (¬ shut → k.src = false →
      (2 ^ k.log2n.toNat < (v - k.head).toNat → Makes (.qtailWrite ⟨q, z⟩ v) s (a.setQueue q { k with err := k.err ||| 4 })) ∧
      ((v - k.head).toNat ≤ 2 ^ k.log2n.toNat → Makes (.qtailWrite ⟨q, z⟩ v) s (a.setQueue q { k with tail := v }))) ∧
    (¬ shut →
      (v.getLsbD 9 = true → bad → Makes (.qcfgWrite ⟨q, z⟩ v) s (a.setQueue q { new with en := false, err := k.err ||| 8 })) ∧
      (v.getLsbD 9 = false ∨ ¬ bad → Makes (.qcfgWrite ⟨q, z⟩ v) s (a.setQueue q { new with en := v.getLsbD 9 }))) ∧
    (¬ shut → Ends (.kstopKill ⟨q, z⟩) s fun t => ∀ kid k, s.kernel kid = some k →
      (k.q ≠ q.val → t.kernel kid = some k) ∧ (k.q = q.val → k.open = false → k.st ≠ .killing → Dying t kid)) ∧
    (¬ shut → Ends (.kstopPreempt ⟨q, z⟩) s fun t => ∀ kid k, s.kernel kid = some k →
      (k.q ≠ q.val → t.kernel kid = some k) ∧
      (k.q = q.val → k.st = .placed → (s.queue q).save = 0 → Dying t kid) ∧
      (k.q = q.val → k.st = .placed → (s.queue q).save ≠ 0 → (s.queue q).savedKid = none →
        (∀ y z, y ≠ kid → s.kernel y = some z → z.q = q.val → z.st ≠ .placed) →
        t.kernel kid = some { k with st := .requeueing false } ∧ (t.queue q).savedKid = some kid)) ∧
    Ends (.phaserObjectInit o phase anon) s fun t =>
      t = { w with phasers := t.phasers, cores := t.cores, transit := t.transit } ∧
      t.phaser o = { Phaser.init with phase := phase, anon := anon.toNat } ∧ (∀ x, x ≠ o.val → t.phaser x = s.phaser x) ∧
      (t.transit = s.transit.filter fun m => match m with | .member x _ _ _ => x != o.val | .reg x .. => x != o.val | .anon .. => true) ∧
      ∀ c (h : Fin 96), (t.core c).handles[h] =
        let g := (s.core c).handles[h]
        if g.obj = some o.val then { g with pend := .none, frec := none } else g

/-- 00 R7, 03 R45, 09 R188, 17 R381, R383, R385 to R388: reads and writes through the BARs, the Zenith controller's writes of a secure
queue's registers, power states, and the end of the hold-off of completion interrupts. The model's choices in it: log entries 50, 51, 52,
70. -/
def Obligations.HostAccessResult : Prop :=
  ∀ (s : State) (q : Fin 64) (z : Bool) (off n : Nat) (v : W64) (w : W32) (u : BitVec 16) (data : List Byte),
    let a := s.barAccess
    let b := if z = true then s else a
    let k := s.queue q
    let p := s.sys.w2base.toNat + off
    let inBar := fun (n : Nat) => off + n ≤ 2 ^ (30 + Config.barLog.val) ∧ p + n ≤ 2 ^ 39 ∧ s.carveSecure p = false ∧ s.carveSecure (p + n - 1) = false
    let write := fun (off n : Nat) => Makes (.registerWrite ⟨off, z⟩ n v) s
    Makes (.registerWrite ⟨0x170000, false⟩ 4 v) s (a.upSys fun y => { y with sysmode := v.setWidth 5 }) ∧
    Makes (.registerWrite ⟨0x170000, true⟩ 4 v) s s ∧
    (s.sys.worldQueue.get false q ≠ z → write (0x100020 + 64 * q.val) 8 b ∧ write (0x120000 + 8 * q.val) 8 b) ∧
    (s.sys.worldQueue.get false q = z → write (0x100020 + 64 * q.val) 8 (b.setQueue q { k with save := v.setWidth 48 }) ∧
      write (0x100014 + 64 * q.val) 4 (b.setQueue q { k with err := k.err &&& ~~~(v.setWidth 4) }) ∧
      write (0x120000 + 8 * q.val) 8 (b.upSys fun y => { y with roots := y.roots.set 0 q (v &&& 0xFFFFFFFFF001) })) ∧
    Makes (.bar0RegisterRead (0x10000C + 64 * q.val) 4) s
      (a.upSys fun y => { y with hostRead := if s.sys.worldQueue.get false q = true then natLe 4 0 else natLe 4 k.tail.toNat, hostErr := false }) ∧
    Makes .pstateRead s (a.upSys fun y => { y with hostRead := natLe 4 s.sys.cstate, hostErr := false }) ∧
    (inBar data.length → Makes (.hostBar2Write off data) s (a.wr tagHost p data)) ∧
    (¬ inBar data.length → Makes (.hostBar2Write off data) s (a.upSys fun y => { y with hostRead := [], hostErr := true })) ∧
    (inBar n → s.poisonAt p n = none →
      Makes (.hostBar2Read off n) s (a.upSys fun y => { y with hostRead := (List.range n).map fun j => s.byte (p + j), hostErr := false })) ∧
    (¬ inBar n → Makes (.hostBar2Read off n) s (a.upSys fun y => { y with hostRead := [], hostErr := true })) ∧
    (Ends (.qliftWrite u) s fun t => t = { a with sys := { a.sys with quar := t.sys.quar } } ∧
      ∀ e, e ∈ t.sys.quar ↔ e ∈ s.sys.quar ∧ ¬(e.unit = u ∧ e.host = true ∧ e.pair = false)) ∧
    Makes (.ltrWrite w) s (a.upSys fun y => { y with ltr := w }) ∧ Makes .lowPowerExit s a ∧
    (s.idle = false → Makes .enterLowPower s s) ∧
    (s.idle = true → Makes .enterLowPower s (s.upSys fun y => { y with
      cstate := let t := y.ltr.toNat; if t < 1000 then 0 else if t < 40000 ∨ s.fab.en = true then 1 else if t < 400000 then 2 else 3 })) ∧
    Makes .d3Entry s (s.upSys fun y => { y with d3 := true, mreg := [] }) ∧
    (s.sys.cintBusy = false → Makes .cintHoldoffExpiry s s) ∧
    (s.sys.cintBusy = true → Makes .cintHoldoffExpiry s (s.upSys fun y =>
      if y.cintOwed = true ∧ y.cpend ≠ 0 then { y with msix := y.msix ++ [y.cintVec], cintOwed := false, cintBusy := y.cintHold != 0 }
      else { y with cintBusy := false, cintOwed := false }))

/-- 16 R375, 17 R388 to R392: boot, the services of the Zenith controller, and its own diagnostics. The model's choices in it: log
entries 1, 5, 50. -/
def Obligations.BootAndServiceResult : Prop :=
  ∀ (s : State) (outs : List (Option W32)) (j : Nat) (pass : Bool) (u : BitVec 16),
    let same := fun (t : State) => t.mem = s.mem ∧ t.sys = s.sys
    (Ends (.powerOnBoot outs) s fun t =>
      t = { State.reset with mem := t.mem, sys := t.sys, agenda := s.agenda, nfree := t.nfree } ∧
      (∀ p, t.byte p = if inHost p = true then s.byte p else 0) ∧
      ((∀ i, i < 64 → (s.bootEnt i).id = 0) → t.sys.bootst = 1 ∧ t.sys.d3 = false ∧ ∀ i, t.bootEnt i = s.bootEnt i) ∧
      let e := s.bootEnt 0
      (e.id ≠ 0 → e.started = false → e.failed = false → e.opt = false → ∀ c rest, outs = some c :: rest →
        t.sys.bootst = 2 ∧ t.sys.d3 = false ∧
          t.bootEnt 0 = { e with failed := true, failcnt := if e.failcnt = 255 then 255 else e.failcnt + 1, err := c })) ∧
    Replies (.zenithAttest j) s j 1 (fun a v t =>
      (a.toNat % 4096 ≠ 0 → v = -1 ∧ same t) ∧
      (a.toNat % 4096 = 0 → s.attestPa j a.toNat = none ∨ s.attestPa j (a.toNat + 4096) = none → v = -1 ∧ same t) ∧
      ∀ p q, a.toNat % 4096 = 0 → s.attestPa j a.toNat = some p → s.attestPa j (a.toNat + 4096) = some q →
        let bs := s.quote (s.rd p 64)
        v = 0 ∧ bs.length = 8192 ∧ t.mem = memWr (memWr s.mem p (bs.take 4096)) q (bs.drop 4096)) ∧
    Replies (.zenithBootinfo j) s j 2 (fun _ v t => same t ∧ ∀ i, i < 64 → v.getLsbD i = (s.bootEnt i).failed) ∧
    Replies (.zenithSetworld j) s j 3 (fun a v t =>
      let i := a.toNat % 2 ^ 16
      let k := a.toNat / 2 ^ 16 % 16
      let w := a.getLsbD 20
      let sets := fun (m : SMap Bool) (old : SMap Bool) => v = 0 ∧ ∀ x, m.get false x = if x = i then w else old.get false x
      (k = 0 → i < 8192 → sets t.sys.worldCarve s.sys.worldCarve ∧
        ∀ p, t.byte p = if s.sys.worldCarve.get false i = true ∧ w = false ∧ p / 2 ^ 26 = i then 0 else s.byte p) ∧
      (k = 1 → (384 ≤ i ∨ s.coreBusy i = true → v = -1 ∧ same t) ∧
        (i < 384 → s.coreBusy i = false → sets t.sys.worldCore s.sys.worldCore ∧ t.mem = s.mem)) ∧
      (k = 2 → i < 16 → sets t.sys.worldPort s.sys.worldPort) ∧ (k = 3 → i < 4 → sets t.sys.worldOrrery s.sys.worldOrrery) ∧
      (k = 4 → i < 4 → sets t.sys.worldMeridian s.sys.worldMeridian) ∧
      (k = 5 → i < 64 → (s.queue i).en = false → (∀ kid v, s.kernel kid = some v → v.q ≠ i) → sets t.sys.worldQueue s.sys.worldQueue) ∧
      (k = 5 → 64 ≤ i ∨ (s.queue i).en = true → v = -1 ∧ same t) ∧ (5 < k → v = -1 ∧ same t)) ∧
    Replies (.zenithBootclr j) s j 4 (fun a v t =>
      (64 ≤ a.toNat → v = -1 ∧ same t) ∧
      (a.toNat < 64 → v = 0 ∧ ∀ i, t.bootEnt i = if i = a.toNat then { s.bootEnt i with failed := false, started := false } else s.bootEnt i)) ∧
    Replies (.zenithDiag j pass) s j 5 (fun a v t =>
      (s.unitBusy a.toNat = true → v = -1 ∧ same t) ∧ (s.unitBusy a.toNat = false → pass = false → v = 1 ∧ same t) ∧
      (s.unitBusy a.toNat = false → pass = true → v = 0 ∧ t.mem = s.mem ∧ Lifts s t a.toNat)) ∧
    ((∀ e ∈ s.sys.quar, e.unit = u → e.host = true) ∨ s.unitBusy u.toNat = true ∨ pass = false → Makes (.zenithAutoDiag u pass) s s) ∧
    ((∃ e ∈ s.sys.quar, e.unit = u ∧ e.host = false) → s.unitBusy u.toNat = false → Ends (.zenithAutoDiag u true) s fun t =>
      Lifts s t u.toNat ∧ t = { s with sys := { s.sys with quar := t.sys.quar } })

/-- 04 R67, R68, 05 R107, 09 R194, 16 R374 to R377: fills, translation walks, commit signatures, soft errors and poisoned write-backs.
What TINFO, TPC and the event TYPE of an eviction are is free (log entry 1). The model's choices in it: log entries 1, 9, 25, 49, 64. -/
def Obligations.ErrorAndFillResult : Prop :=
  ∀ (s : State) (k g l x : Nat) (gs : BitVec 8) (asid : Fin 64) (va : Addr) (die : Fin 4) (port : Fin 16), k < 384 →
    let err := fun (e : EccSite) => Ends (.eccError e) s
    let r := s.lines.get LineRec.init l
    let u := 0x3000 + homeSlice (128 * l)
    Makes (.eccError .single) s s ∧
    err (.icache k g) (fun t => Isolates s t (0x1000 + k) ∧ (t.core k).icache.get none (g / 8) = none) ∧
    err (.l1 k g) (fun t => Isolates s t (0x1000 + k) ∧ (t.core k).l1.get none (g / 8) = none) ∧
    err (.tlb k) (fun t => Isolates s t (0x1000 + k) ∧ ∀ e ∈ (t.core k).tlb, e ∈ (s.core k).tlb) ∧
    err (.scratch k g) (fun t => Isolates s t (0x1000 + k) ∧ g ∈ (t.core k).spPoison) ∧
    err (.tile k g) (fun t => Isolates s t (0x1000 + k) ∧ g ∈ (t.core k).tilePoison) ∧
    err (.l2tlb die) (fun t => t = { s with l2tlb := t.l2tlb, nfree := t.nfree } ∧
      ∀ e ∈ t.l2tlb.get [] die.val, e ∈ s.l2tlb.get [] die.val) ∧
    (g < 96 → err (.scaleCache g) (fun t => Isolates s t (0x2000 + g) ∧ (t.group g).scache = []) ∧
      (s.servedOp g = none → err (.array g) fun t => Isolates s t (0x2000 + g)) ∧
      ∀ y m r, s.servedOp g = some (y, m, r) →
        (m.started = false → err (.array g) fun t => Isolates s t (0x2000 + g)) ∧
        (m.started = true → err (.array g) fun t => t.quarantined (0x2000 + g) = true ∧ t.mem = s.mem ∧ (t.ctx y).mxq = [] ∧
          (t.ctx y).mxfault.isSome = true)) ∧
    (∀ v, (s.orrery die).ticket g = some v → err (.staging die g) fun t => t.quarantined (0x5000 + die) = true ∧ t.mem = s.mem ∧
      ∃ f : FaultRec, f.cause = .poison ∧ f.unit = BitVec.ofNat 16 (0x5000 + die) ∧ TicketEnds t die g v (some f)) ∧
    err (.meridian die) (fun t => Isolates s t (0x6000 + die)) ∧ err (.port port) (fun t => Isolates s t (0x7000 + port)) ∧
    err (.cleanLine l) (fun t => Isolates s t u) ∧
    (r.tag = none → Makes (.eccError (.dirtyLine l)) s s) ∧
    (r.tag ≠ none → err (.dirtyLine l) fun t => Isolates s t u ∧ t.lines.get LineRec.init l = { r with poison := some (BitVec.ofNat 16 u) }) ∧
    (r.tag ≠ none → Makes (.eccError (.hbmLine l)) s s) ∧
    (r.tag = none → err (.hbmLine l) fun t =>
      let v := 0x4000 + 128 * l / 2 ^ 36 % 8
      Isolates s t v ∧ t.lines.get LineRec.init l = { r with poison := some (BitVec.ofNat 16 v) }) ∧
    (r.back = none → r.tag = none ∨ r.poison = none → Makes (.writebackPoison l) s s) ∧
    (∀ w, r.back = some w ∨ (r.back = none ∧ r.tag = some w ∧ r.poison ≠ none) →
      ((∀ o, w.toNat < 768 → (s.ctx w.toNat).occ ≠ some o) → Ends (.writebackPoison l) s fun t => t.sys.evSeq = s.sys.evSeq + 1) ∧
      ∀ o q, w.toNat < 768 → Holds s w.toNat o q → q.st ≠ .killing → Ends (.writebackPoison l) s fun t =>
        t.lines.get LineRec.init l = (if r.back = none then { r with tag := none, zero := false } else { r with back := none }) ∧
        KilledBy t o.kid fun e => e.status = .fault ∧ e.cause = some .poison ∧ e.unit = BitVec.ofNat 16 u ∧ e.evict = true) ∧
    (let y := 2 * k
     let p := s.ctx y
     let c := s.ctx (y + 2)
     (p.gmode ≠ 2 ∨ p.gchk = true ∨ p.sigs = [] ∨ c.sigs = [] → Makes (.checkSignatureCompare k) s s) ∧
     (p.gmode = 2 → p.gchk = false → ∀ a b ps qs, p.sigs = a :: ps → c.sigs = b :: qs →
      (a.whole = false ∨ b.whole = false → Makes (.checkSignatureCompare k) s s) ∧
      (a.whole = true → b.whole = true → a.word = b.word → Ends (.checkSignatureCompare k) s fun t => t = { s with ctxs := t.ctxs } ∧
        t.ctx y = { p with sigs := ps } ∧ t.ctx (y + 2) = { c with sigs := qs } ∧ ∀ z, z ≠ y → z ≠ y + 2 → t.ctx z = s.ctx z) ∧
      (a.whole = true → b.whole = true → a.word ≠ b.word → ∀ o q, Holds s y o q → q.st ≠ .killing →
        Ends (.checkSignatureCompare k) s fun t => t.quarantined (0x1000 + k) = true ∧ t.quarantined (0x1001 + k) = true ∧
          KilledBy t o.kid fun e => e.status = .fault ∧ e.cause = some .checkMismatch ∧ e.tpc = a.pc ∧ e.pair = true))) ∧
    ((s.core k).icache.get none l ≠ none ∨ s.poisonAt (128 * l) 128 ≠ none → Makes (.icacheFill k l gs) s s) ∧
    ((s.core k).icache.get none l = none → s.poisonAt (128 * l) 128 = none → (s.core k).ifill.get [] l = [] → Ends (.icacheFill k l gs) s fun t =>
      t = { s with cores := t.cores } ∧ (∀ m, m ≠ k → t.core m = s.core m) ∧
      (gs = 255 → (t.core k).icache.get none l = some (s.memLine l)) ∧
      (gs ≠ 255 → (t.core k).icache.get none l = none ∧ ∀ e, e ∈ (t.core k).ifill.get [] l ↔
        e.1 < 8 ∧ gs.getLsbD e.1 = true ∧ e.2 = s.rdGran (8 * l + e.1))) ∧
    ((s.ctx x).running = false ∨ s.fetches x = false → Makes (.fetchBufferFill x) s s) ∧
    ((s.ctx x).running = true → s.fetches x = true →
      let pk := (s.ctx x).pc.toNat / 32 * 32
      (∀ q, (s.ctx x).fbuf.getLast? = some q → pk + 96 < q.va.toNat + 32 → Makes (.fetchBufferFill x) s s) ∧
      ((s.ctx x).fbuf = [] → Ends (.fetchBufferFill x) s fun t => t.mem = s.mem ∧ (∀ z, z ≠ x → t.ctx z = s.ctx z) ∧
        t.ctx x = { s.ctx x with fbuf :=
          match (s.fetchPacket x pk).2 with | .ok ws => [⟨BitVec.ofNat 48 pk, ws⟩] | _ => [] })) ∧
    (s.walksFor k asid = false → Makes (.translationWalkEnd k asid va) s s) ∧
    (s.walksFor k asid = true →
      let w := s.sys.worldQueue.get false asid
      tlbFind (s.core k).tlb asid w va.toNat = none → tlbFind (s.l2tlb.get [] (dieOf k)) asid w va.toNat = none →
      (s.walksOf (dieOf k)).length < 96 → (∀ z ∈ s.walksOf (dieOf k), z.serves asid w va.toNat = false) →
      match s.walk asid w va.toNat with
      | .error _ => Makes (.translationWalkEnd k asid va) s s
      | .ok e => Ends (.translationWalkEnd k asid va) s fun t => t = { s with cores := t.cores, l2tlb := t.l2tlb } ∧
        tlbFind (t.core k).tlb asid w va.toNat = some e ∧ tlbFind (t.l2tlb.get [] (dieOf k)) asid w va.toNat = some e)

/-- 02 R31, R32, 03 R46 to R63, 06 R131, 16 R360, 17 R379, R380: the dispatcher takes entries, sees dependences, places, starts, requeues,
kills and retires. The model's choices in it: log entries 46, 63. -/
def Obligations.DispatcherResult : Prop :=
  ∀ (s : State) (q : Fin 64) (o : Fin 16384) (x kid : Nat),
    let v := s.queue q
    let take := Instr.takeQueueEntry q
    let dec := { s with sys := { s.sys with decided := some s.sys.cyc } }
    let bad := fun (u : State) (a : Nat) => { u with queues := u.queues.put q { v with
      err := v.err ||| 1, errptr := BitVec.ofNat 64 a, head := v.head + 1, part := none } }
    let reads := fun (ptr : Nat) (bs : List Byte) => ∃ m, m ≤ 32 ∧
      let n := min (8 * m) (256 - bs.length)
      (∀ a, s.devRead q (ptr + bs.length) n = .error a → Makes take s (bad s a).draw) ∧
      ∀ more, s.devRead q (ptr + bs.length) n = .ok more →
        let all := bs ++ more
        let r := recOf all
        let tells := fun (t : State) (st : BitVec 8) => ∀ pc, r.crec.toNat % 64 = 0 → s.devXlate q r.crec.toNat .write = .ok pc →
          t.byte (pc + 4) = st ∧ t.byte (pc + 5) = 0
        (all.length < 256 → Makes take s (s.setQueue q { v with part := some (ptr, all) }).draw) ∧
        (256 ≤ all.length →
          (s.recBad q all = true → Ends take s fun t =>
            t.kernels = s.kernels ∧ (t.queue q).head = v.head + 1 ∧ (t.queue q).part = none ∧ (t.queue q).cands = v.cands ∧ tells t 4) ∧
          (s.recBad q all = false → (∃ w, some w ∈ r.waits ∧ (s.phaser w.1).broken = true) → Ends take s fun t =>
            t.kernel s.nextKid = none ∧ (t.queue q).head = v.head + 1 ∧ (t.queue q).part = none ∧ s.nextKid ∉ (t.queue q).cands ∧
              tells t 3) ∧
          (s.recBad q all = false → (∀ w, some w ∈ r.waits → (s.phaser w.1).broken = false) → Ends take s fun t =>
            t = { s with queues := t.queues, kernels := t.kernels, nextKid := s.nextKid + 1, nfree := s.nfree + 1 } ∧
            t.queue q = { v with head := v.head + 1, part := none, cands := v.cands ++ [s.nextKid] } ∧
            (∀ y, y ≠ s.nextKid → t.kernel y = s.kernel y) ∧
            ∃ b, t.kernel s.nextKid = some { Kernel.new r q s.sys.cyc with sat := b } ∧ ∀ i, i < 4 →
              (b.getD i false = true ↔ ∀ w, r.waits.getD i none = some w → ((s.phaser w.1).phase - w.2).toNat < 2 ^ 31)))
    (v.part = none → v.en = false ∨ v.cands ≠ [] ∨ v.head = v.tail → Makes take s s) ∧
    (v.part = none → v.en = true → v.cands = [] → v.head ≠ v.tail →
      (∀ a, s.devRead q (v.entryVa v.head) 8 = .error a → Makes take s (bad s a)) ∧
      ∀ bs, s.devRead q (v.entryVa v.head) 8 = .ok bs →
        (leNat bs % 256 ≠ 0 ∨ 2 ^ 48 ≤ leNat bs → Makes take s (bad s (leNat bs))) ∧
        (leNat bs % 256 = 0 → leNat bs < 2 ^ 48 → reads (leNat bs) [])) ∧
    (∀ ptr bs, v.part = some (ptr, bs) → reads ptr bs) ∧
    (∀ k, s.kids = [kid] → s.kernel kid = some k →
      let p := s.phaser o
      let met := fun (i : Nat) => ∀ w, k.krec.waits.getD i none = some w → k.sat.getD i false = true ∨
        w.1 = o.val ∧ (p.phase - w.2).toNat < 2 ^ 31 ∧ (p.broken = true → (p.brokenAt - w.2).toNat < 2 ^ 31)
      let broken := p.broken = true ∧ ∃ i, i < 4 ∧ ∃ w, k.krec.waits.getD i none = some w ∧ w.1 = o.val ∧ ¬ met i
      (k.open = false → Makes (.dependenceEventSeen o) s s) ∧
      (k.open = true → broken → Ends (.dependenceEventSeen o) s fun t => t.kernel kid = none ∧ kid ∉ (t.queue k.q).cands) ∧
      (k.open = true → ¬ broken → ∃ b, Makes (.dependenceEventSeen o) s (s.setKernel kid (some { k with sat := b })) ∧
        ∀ i, i < 4 → (b.getD i false = true ↔ met i))) ∧
    (s.mayDecide = false → Makes .placementDecision s s) ∧
    (s.mayDecide = true →
      (s.ranked = [] → ∃ n, Makes .placementDecision s { dec with nfree := n }) ∧
      ∀ k xs, s.ranked = [(kid, k)] → k.eligible = true → (∀ y z, s.kernel y = some z → z.krec.preload = false) → k.krec.preload = false →
        k.saved = false → s.fits k.krec = some xs → Ends .placementDecision s fun t =>
          t.kernel kid = some { k with st := .placed, ctxs := xs, cycles := 0 } ∧ t.sys = { dec.sys with cstate := 0 } ∧ kid ∉ (t.queue k.q).cands ∧
          ∀ y, xs = [y] → s.hasRetired kid k 0 = false → (t.ctx y).occ = some ⟨kid, 0, .prepared⟩ ∧ (t.ctx y).s[0] = 0 ∧
            (t.ctx y).pc = BitVec.ofNat 48 ((k.krec.codeBase.toNat + k.krec.entry.toNat) % 2 ^ 64)) ∧
    (∀ oc k, Holds s x oc k →
      (oc.st ≠ .prepared ∨ k.st ≠ .placed → Makes (.instanceStart x) s s) ∧
      (oc.st = .prepared → k.st = .placed → k.ctxs.getD oc.n x = x → (k.krec.codeBase.toNat + k.krec.entry.toNat) % 2 ^ 64 < 2 ^ 48 →
        Makes (.instanceStart x) s ((s.upCore (coreOf x) fun c => { c with icache := [], ifill := [], l1 := [] }).upCtx x fun c =>
          { c with occ := some { oc with st := .running } }))) ∧
    (∀ k, s.kernel kid = some k →
      (k.st ≠ .preloaded ∨ k.eligible = false ∨ (∃ y ∈ k.deferred, s.kernel y ≠ none) ∨ (s.queue k.q).cands.head? ≠ some kid →
        Makes (.preloadStart kid) s s) ∧
      (k.st = .preloaded → k.eligible = true → (∀ y ∈ k.deferred, s.kernel y = none) → (s.queue k.q).cands.head? = some kid →
        (k.krec.codeBase.toNat + k.krec.entry.toNat) % 2 ^ 64 < 2 ^ 48 → Ends (.preloadStart kid) s fun t =>
          t.kernel kid = some { k with st := .placed } ∧ kid ∉ (t.queue k.q).cands ∧ (∀ y ∈ k.ctxs, (t.core (coreOf y)).l1 = []) ∧
          ∀ y ∈ k.ctxs, ∀ oc, (s.ctx y).occ = some oc → (t.ctx y).occ = some { oc with st := .running }) ∧
      (let spent := k.krec.budget ≠ 0 ∧ ∃ y ∈ k.ctxs, ∃ oc, (s.ctx y).occ = some oc ∧ oc.kid = kid ∧ (oc.st = .running ∨ oc.st = .halted) ∧
         k.krec.budget.toNat ≤ (s.ctx y).cycle.toNat
       let q := s.queue k.q
       (k.st ≠ .placed ∨ ¬ spent → Makes (.budgetOverrun kid) s s) ∧
       (k.st = .placed → spent → k.krec.ovr = true → q.save ≠ 0 → q.savedKid = none → Ends (.budgetOverrun kid) s fun t =>
         t.kernel kid = some { k with ovrcnt := min 255 (k.ovrcnt + 1), st := .requeueing true } ∧ (t.queue k.q).savedKid = some kid ∧
           ∀ y, (∀ oc, (s.ctx y).occ = some oc → oc.kid ≠ kid) → t.ctx y = s.ctx y) ∧
       (k.st = .placed → spent → k.krec.ovr = false ∨ q.save = 0 → Ends (.budgetOverrun kid) s fun t =>
         (∃ k', t.kernel kid = some k' ∧ k'.st = .killing ∧ k'.fin = some (EndInfo.plain .overrun) ∧ k'.ovrcnt = min 255 (k.ovrcnt + 1)) ∧
           ∀ y, (∀ oc, (s.ctx y).occ = some oc → oc.kid ≠ kid) → t.ctx y = s.ctx y)) ∧
      ((∀ b, k.st ≠ .requeueing b) → Makes (.requeueSettle kid) s s) ∧
      (∀ b, k.st = .requeueing b →
        let is := fun (y : Nat) (st : OccSt) => ∃ oc, (s.ctx y).occ = some oc ∧ oc.st = st
        (∃ y ∈ s.heldBy kid, is y .saved) → (∀ y ∈ s.heldBy kid, is y .saved ∨ is y .retired) → Ends (.requeueSettle kid) s fun t =>
          (∃ k', t.kernel kid = some k' ∧ k'.st = .cand ∧ k'.saved = true ∧ k'.again = true ∧ k'.born = s.sys.cyc ∧ k'.krec = k.krec) ∧
          kid ∈ (t.queue k.q).cands ∧ ∀ y ∈ s.heldBy kid, is y .saved → (t.ctx y).cycle = 0) ∧
      (k.st ≠ .killing ∨ (∃ y ∈ s.heldBy kid, (s.ctx y).running = true) → Makes (.killSettle kid) s s) ∧
      (k.st = .killing → (∀ y ∈ s.heldBy kid, (s.ctx y).running = false) → Ends (.killSettle kid) s fun t =>
        (∀ y ∈ s.heldBy kid, (t.ctx y).occ = none) ∧
        let again := (∃ e, k.fin = some e ∧ e.status = .fault) ∧ k.reruns < k.krec.rerun
        (¬ again → t.kernel kid = none) ∧
        (again → ∃ k', t.kernel kid = some k' ∧ k'.st = .cand ∧ k'.reruns = k.reruns + 1 ∧ k'.krec = k.krec ∧ k'.ctxs = [] ∧
          kid ∈ (t.queue k.q).cands))) ∧
    ∀ oc k, Holds s x oc k →
      let c := s.ctx x
      let lo := k.krec.phlo
      let idle := (∀ d ∈ (s.core (coreOf x)).copies, d.ctx ≠ x) ∧ c.mxq = [] ∧ s.runners x = [] ∧ c.sigs = [] ∧
        ∀ ob n f (h : Fin 96), PhMsg.anon ob n (some f) (coreOf x) (some h) ∈ s.transit → h.val < lo ∨ lo + k.krec.phcnt ≤ h.val
      (oc.st ≠ .retired ∨ k.st = .killing ∨ ¬ idle → Makes (.instanceRetireDone x) s s) ∧
      (oc.st = .retired → k.st ≠ .killing → idle → Ends (.instanceRetireDone x) s fun t =>
        (t.ctx x).occ = none ∧ (t.core (coreOf x)).claim ≠ some x ∧
        (k.gone.length + 1 = k.krec.count → t.kernel oc.kid = none) ∧
        (k.gone.length + 1 ≠ k.krec.count → ∃ k', t.kernel oc.kid = some k' ∧ k'.gone = oc.n :: k.gone ∧ k'.st = k.st))

/-- 16 R362 to R366: halt requests, halts and saves. The model's choices in it: log entries 39, 47. -/
def Obligations.HaltResult : Prop :=
  ∀ (s : State) (x : Nat),
    let c := s.ctx x
    (c.hreq = none → Makes (.haltRequestArrives x) s s) ∧
    (∀ h, c.hreq = some h →
      (h.reached = true → Makes (.haltRequestArrives x) s s) ∧
      (h.reached = false → Makes (.haltRequestArrives x) s
        (s.upCtx x fun c => { c with hreq := some { h with reached := true, slack := c.pslack.toNat, age := 0 } }))) ∧
    (Alone s x → c.hreq = none → Makes (.contextHalt x) s s ∧ Makes (.forcedHalt x) s s) ∧
    (Alone s x → ∀ h, c.hreq = some h →
      let point := c.wait ≠ none ∨ c.loops = [] ∨ c.iter = true
      (h.reached = false → Makes (.contextHalt x) s s ∧ Makes (.forcedHalt x) s s) ∧
      (h.reached = true → point → Ends (.contextHalt x) s (fun t => HaltsCtx s t x h false) ∧ Makes (.forcedHalt x) s s) ∧
      (h.reached = true → ¬ point → Makes (.contextHalt x) s s ∧
        (h.age ≤ h.slack → Makes (.forcedHalt x) s s) ∧
        (h.slack < h.age → Ends (.forcedHalt x) s fun t => HaltsCtx s t x h true))) ∧
    ∀ o k, x < 768 → Holds s x o k →
      (s.savable x = false → Makes (.instanceSave x) s s) ∧
      (s.savable x = true → k.ctxs[o.n]? ≠ some x → Ends (.instanceSave x) s fun t =>
        t = { s with ctxs := t.ctxs, groups := t.groups } ∧ (t.ctx x).occ = none ∧ (∀ y, y ≠ x → t.ctx y = s.ctx y) ∧
          ∀ g, t.group g = { s.group g with
            scache := if g = groupOf (coreOf x) then (s.group g).scache.filter (fun e => e.1.ctx != x) else (s.group g).scache }) ∧
      (s.savable x = true → k.ctxs[o.n]? = some x → Ends (.instanceSave x) s fun t =>
        let d := t.ctx (savedCtx o.kid o.n k.krec.ctx)
        (t.ctx x).occ = none ∧ d.occ = some { o with st := .saved } ∧ d.s = c.s ∧ d.v = c.v ∧ d.em = c.em ∧ d.cm = c.cm ∧ d.pc = c.pc ∧
          d.loops = c.loops ∧ d.pends = c.pends ∧ d.cycle = c.cycle ∧ d.nsave = (if c.nsave = 255 then 255 else c.nsave + 1) ∧
          (∀ e ∈ (t.core (coreOf x)).copies, e.ctx ≠ x) ∧
          ∃ k', t.kernel o.kid = some k' ∧ k'.ctxs = k.ctxs.set o.n (savedCtx o.kid o.n k.krec.ctx))

/-- 05 R111, 09 R184, R185, R197, 12 R271, R275, R276, 16 R368, 17 R384: the ends of waits, and the watchdogs. The model's choices in it:
log entries 48, 54. -/
def Obligations.WaitEndResult : Prop :=
  ∀ (s : State) (x g : Nat) (asid : Fin 64) (page : W32),
    let c := s.ctx x
    let a := s.barAccess
    (c.phnext = none →
      EndsWait s x (.phwaitEnd x) 1 ∧ EndsWait s x (.phsigHoldEnd x) 2 ∧ EndsWait s x (.feWaitEnd x) 3 ∧ EndsWait s x (.copyEntryFree x) 4 ∧
      EndsWait s x (.ringpushEnd x) 5 ∧ EndsWait s x (.matrixQueueRoom x) 6 ∧ EndsWait s x (.tileClaimGrant x) 7 ∧
      EndsWait s x (.mxwaitEnd x) 8 ∧ EndsWait s x (.fenceComplete x) 12 ∧ EndsWait s x (.waitevEnd x) 13 ∧ EndsWait s x (.tableUnpinEnd x) 14) ∧
    (∀ h p pc, c.phnext = some (h, p, pc) →
      let k := coreOf x
      let q := (s.core k).handles[h]
      let s0 := s.upCtx x fun c => { c with phnext := none, wait := none }
      (c.running = false → Makes (.phwaitEnd x) s s) ∧
      (Alone s x → ∀ f, q.frec.or c.frec = some f → Makes (.phwaitEnd x) s (s0.takeTrap x ⟨f.cause, pc, f.info, f.unit⟩).draw) ∧
      (Alone s x → q.frec = none → c.frec = none → ∀ ob, q.obj = some ob →
        let o := s.phaser ob
        let passed := 1 ≤ (o.phase - q.lph).toNat ∧ (o.phase - q.lph).toNat ≤ 2 ^ 31 - 1
        (¬ passed → o.broken = false → Makes (.phwaitEnd x) s s) ∧
        (¬ passed → o.broken = true → Makes (.phwaitEnd x) s (s0.takeTrap x
          ⟨.phaserBroken, pc, BitVec.ofNat 64 (ob % 2 ^ 14 + 2 ^ 16 * h.val + 2 ^ 32 * q.lph.toNat), 0⟩).draw) ∧
        (passed → Ends (.phwaitEnd x) s fun t => t = { s0 with cores := t.cores } ∧ (∀ m, m ≠ k → t.core m = s.core m) ∧
          t.core k = { s.core k with
            handles := (s.core k).handles.set h { q with lph := q.lph + 1 }
            l1 := match p with | .device | .pod => [] | _ => (s.core k).l1 }))) ∧
    GrantsWait s x (.icinvComplete x) 9 ∧ GrantsWait s x (.tlbinvComplete x) 15 ∧
    (let us := s.rejoiners g
     (us = [] ∨ (∃ y ∈ us, s.arrivedAt y = false) → Makes (.rejnComplete g) s s) ∧
     (us ≠ [] → (∀ y ∈ us, s.arrivedAt y = true) → us.head? ≠ some (8 * g) → Ends (.rejnComplete g) s fun t =>
      ∀ y ∈ us, t.ctx y = { s.ctx y with wait := none, granted := some 10 }) ∧
     (us.head? = some (8 * g) → (∀ y ∈ us, s.arrivedAt y = true) →
      (State.issueRejns us s = none → Makes (.rejnComplete g) s s) ∧
      (∀ u, State.issueRejns us s = some u → Ends (.rejnComplete g) s fun t => ∀ j, j < 4 →
        let y := 8 * g + 2 * j
        (u.ctx y).running = true → (u.ctx y).gmode ≠ 0 →
          (t.ctx y).gdec = false ∧ (t.ctx y).pc = (u.ctx (8 * g)).pc ∧ (t.ctx y).loops = (u.ctx (8 * g)).loops))) ∧
    (let late := fun (w : Wait) (n : W32) => n ≠ 0 ∧ n.toNat ≤ (c.cycle.setWidth 32 - w.since).toNat
     (c.wait = none → Makes (.feWatchdog x) s s ∧ Makes (.waitTimeout x) s s) ∧
     ∀ w, c.wait = some w →
      (w.kind ≠ 3 ∨ ¬ late w c.fewdog → Makes (.feWatchdog x) s s) ∧
      (Alone s x → w.kind = 3 → late w c.fewdog → ∀ u v, (s.upCtx x fun c => { c with wait := none }).rewait x = some (u, v) → v.kind = 3 →
        Makes (.feWatchdog x) s (s.takeTrap x ⟨.feWatchdog, c.pc, BitVec.ofNat 64 (16 * v.arg), 0⟩).draw) ∧
      (w.kind = 3 ∨ w.kind = 11 ∨ w.kind = 13 ∨ ¬ late w c.waitdog → Makes (.waitTimeout x) s s) ∧
      (Alone s x → w.kind ≠ 3 → w.kind ≠ 11 → w.kind ≠ 13 → late w c.waitdog → c.phnext = none → Ends (.waitTimeout x) s fun t =>
        ∀ o k, Holds s x o k → k.st ≠ .killing →
          KilledBy t o.kid fun e => e.status = .fault ∧ e.cause = some .waitTimeout ∧ e.tpc = c.pc ∧ e.info = w.word)) ∧
    (s.isParked asid page = false → Makes (.pfansRetry asid page) s a ∧ Makes (.pfansFail asid page) s a) ∧
    (s.isParked asid page = true →
      (Ends (.pfansRetry asid page) s fun t => t.isParked asid page = false ∧ (∀ y ∈ s.parkedOn asid page, (t.ctx y).wait = none) ∧
        (∀ k, ∀ d ∈ (t.core k).copies, d.parked = true → d.page = page → s.asidOf d.ctx ≠ asid) ∧ t.mem = s.mem) ∧
      (∀ y w, s.parkedOn asid page = [y] → s.copiesOn asid page = [] → (s.ctx y).wait = some w → w.kind = 11 → (s.ctx y).gmode = 0 →
        w.tpc = (s.ctx y).pc → Makes (.pfansFail asid page) s ((a.unpark asid page).takeTrap y ⟨.xlate, w.tpc, w.info, 0⟩).draw))

/-- 04 R70 to R72, R82, 05 R92, R94 to R96, 09 R206, 16 R372: results that land, forced issue, and the bundles that trap before they
issue. The model's choices in it: log entries 16, 58. -/
def Obligations.LandingResult : Prop :=
  ∀ (s : State) (x j core : Nat) (refill : Bool) (gs : BitVec 16),
    let c := s.ctx x
    (c.flight[j]? = none → Makes (.resultLands x j) s s) ∧
    (∀ f, c.flight[j]? = some f → Ends (.resultLands x j) s fun t =>
      t = { s with ctxs := t.ctxs } ∧ (∀ y, y ≠ x → t.ctx y = s.ctx y) ∧
      t.ctx x = { c with
        flight := (c.flight.take j).map (·.cut f.val f.live) ++ c.flight.drop (j + 1)
        arith := c.arith ||| f.flags, s := (t.ctx x).s, v := (t.ctx x).v, cm := (t.ctx x).cm } ∧
      match f.val with
      | .s n y => (t.ctx x).v = c.v ∧ (t.ctx x).cm = c.cm ∧ (t.ctx x).s = if f.live = 0 then c.s else c.s.set n y
      | .v n y => (t.ctx x).s = c.s ∧ (t.ctx x).cm = c.cm ∧ (∀ m : Fin 64, m ≠ n → (t.ctx x).v[m] = c.v[m]) ∧
        ∀ k : Fin 64, (t.ctx x).v[n][k] = if f.live.getLsbD k then y[k] else c.v[n][k]
      | .cm y => (t.ctx x).s = c.s ∧ (t.ctx x).v = c.v ∧ ∀ k, k < 64 → (t.ctx x).cm.getLsbD k = if f.live.getLsbD k then y.getLsbD k else c.cm.getLsbD k) ∧
    (let land := Instr.loadResultLands x j ⟨refill, gs⟩
     let takes := fun (i : Nat) => gs.getLsbD (i / 4) = true
     let read := fun (f : Bool) (pa n : Nat) =>
       ((f = true ∧ c.olderReads j (pa, n) = false) ∨ (f = false ∧ refill = true)) ∧ s.poisonAt pa n = none
     (c.running = false → Makes land s s) ∧
     (c.running = true → c.pends[j]? = none → Makes land s s.draw) ∧
     (c.running = true → ∀ p, c.pends[j]? = some p →
      let lands := fun (n : Fin 32) (v : W64) (P : State → Prop) => Ends land s fun t => P t ∧
        (t.ctx x).pends = c.pends.eraseIdx j ∧ (∀ m : Fin 32, (t.ctx x).s[m] = if m = n ∧ m ≠ 0 then v else c.s[m]) ∧ t.mem = s.mem ∧
          ∀ y, y ≠ x → y ≠ x + 2 → t.ctx y = s.ctx y
      let le := fun (pa n : Nat) => leNat ((List.range n).map fun i => s.byte (pa + i))
      (∀ n v, p.dst = .s n → p.what = .ans v → lands n v fun t => t.cores = s.cores) ∧
      (∀ n svc a, p.dst = .s n → p.what = .smc svc a → svc = 0 ∨ 5 < svc.toNat ∨ (2 < svc.toNat ∧ s.worldOf x = false) →
        lands n (-1) fun t => (t.core (coreOf x)).l1 = []) ∧
      (∀ n va pa f, p.dst = .s n → takes 0 →
        (p.what = .load va 8 f [(0, .mem pa)] [] → read f pa 8 → lands n (BitVec.ofNat 64 (le pa 8)) fun _ => True) ∧
        (p.what = .load va 4 f [(0, .mem pa)] [] → read f pa 4 → lands n ((BitVec.ofNat 32 (le pa 4)).signExtend 64) fun _ => True)) ∧
      (∀ n va ls, p.dst = .v n → p.what = .load va 4 true ls [] → (∀ e ∈ ls, takes e.1 ∧ ∃ pa, e.2 = .mem pa ∧ read true pa 4) →
        (ls.map (·.1)).Nodup → Ends land s fun t =>
          (t.ctx x).pends = c.pends.eraseIdx j ∧ (∀ m : Fin 64, m ≠ n → (t.ctx x).v[m] = c.v[m]) ∧
          ∀ k : Fin 64, (∀ pa, (k.val, GRef.mem pa) ∈ ls → (t.ctx x).v[n][k] = BitVec.ofNat 32 (le pa 4)) ∧
            ((∀ e ∈ ls, e.1 ≠ k.val) → (t.ctx x).v[n][k] = c.v[n][k])) ∧
      (∀ va m f e es got, p.what = .load va m f (e :: es) got → (∀ i ∈ e :: es, ¬ takes i.1) → Ends land s fun t =>
        t = { s with ctxs := t.ctxs, nfree := s.nfree + 1 } ∧ t.ctx x = c) ∧
      (∀ n va m f pa u o k, p.what = .load va m f [(n, .raw pa)] [] → takes n → c.olderReads j (pa, m) = false → s.poisonAt pa m = some u →
        Holds s x o k → k.st ≠ .killing → Ends land s fun t =>
          KilledBy t o.kid fun e => e.status = .fault ∧ e.cause = some .poison ∧ e.tpc = p.pc ∧ e.unit = u))) ∧
    ((s.core core).forced = false ∨ s.mayIssue (2 * core + 1) = false → Makes (.forcedIssue core) s s) ∧
    ((s.core core).forced = true → ∀ u b n, s.tryHand (2 * core + 1) = .ready u b n → Ends (.forcedIssue core) s fun t =>
      (∃ v, issueWords (bundleEffs b.items) { u.settleLoads (2 * core + 1) b.items with cur := 2 * core + 1 } = .next v ∧
        t = (v.deliverResume (2 * core + 1)).upCore core fun k => { k with w := 0, forced := false }) ∧
      (t.core core).w = 0 ∧ (t.core core).forced = false) ∧
    (s.mayIssue x = false → Makes (.illegalEnc x) s s ∧ Makes (.fetchFault x) s s) ∧
    (s.mayIssue x = true → c.gmode = 0 →
      let pk := c.pc.toNat / 32 * 32
      let i := c.pc.toNat % 32 / 4
      let u := (s.packet x pk).1
      let trap := fun (cause : Cause) (info : W64) => (u.takeTrap x ⟨cause, c.pc, info, 0⟩).draw
      match (s.packet x pk).2 with
      | .ok ws =>
        let b := (frameAt ws i).map (·.toNat)
        (isPool ws = true → Makes (.illegalEnc x) s u ∧ Makes (.fetchFault x) s (trap .poolExec (BitVec.ofNat 64 pk))) ∧
        (isPool ws = false → bBit (ws.getD i 0) = false → ws.length = 8 → Makes (.fetchFault x) s u ∧
          Makes (.illegalEnc x) s (trap .illegalEnc (encInfo 0 .frame (ws.getD i 0).toNat))) ∧
        (isPool ws = false → bBit (ws.getD i 0) = true → ws.length = 8 →
          match decodeBundle (u.phloOf x) (u.phcntOf x) (u.ringsOf x) b with
          | .error (k, r, w) => Makes (.fetchFault x) s u ∧ Makes (.illegalEnc x) s (trap .illegalEnc (encInfo k r w))
          | .ok _ => Makes (.fetchFault x) s u ∧ Makes (.illegalEnc x) s u)
      | .fault f =>
        Makes (.illegalEnc x) s u ∧ (f = xNomap ∧ u.hostPf = true → Makes (.fetchFault x) s u) ∧
        (¬(f = xNomap ∧ u.hostPf = true) → Makes (.fetchFault x) s (trap f.cause (c.pc.setWidth 64)))
      | .poison n => Makes (.illegalEnc x) s u ∧ ∃ w, Makes (.fetchFault x) s (u.takeTrap x ⟨.poison, c.pc, w, n⟩).draw)

/-- 11 R238, R246 to R248, R255, 16 R360: a core's copy commands start, are performed and complete; those of a killed kernel go. -/
def Sys2Proof.Claims.commandEvents : Prop :=
  ∀ (s : State) (k j upto : Nat),
    let start := Instr.commandStart k j upto
    let complete := Instr.commandComplete k j
    ((s.core k).copies[j]? = none → Makes start s s ∧ Makes complete s s) ∧
    (∀ c, IsCmd s k j c →
      let before := (s.core k).copies.filter fun d => d.ctx == c.ctx && decide (d.id < c.id)
      let may := ∀ d ∈ before, d.started = true ∧ (d.lend.acq = true → d.acqDone = true ∨ d.fault ≠ none)
      let free := c.lend.rel = false ∨ before = []
      let still := fun (t : State) => (t.core k).copies = (s.core k).copies ∧ t.transit = s.transit ∧ t.mem = s.mem ∧ t.ctxs = s.ctxs
      let goes := fun (t : State) => (t.core k).copies = (s.core k).copies.filter (fun d => d.id != c.id) ∧
        t = { s with cores := t.cores, nfree := s.nfree + 1 } ∧ ∀ m, m ≠ k → t.core m = s.core m
      (c.started = false → ¬ may → Makes start s s ∧ Makes complete s s) ∧
      (c.started = true ∨ may → s.killed c.kid = true → Ends start s goes ∧ Ends complete s goes) ∧
      (s.killed c.kid = false →
        (c.started = false → may → c.slot = none → c.acqDone = false → c.buf = [] → c.got = [] → c.bad = none → Ends (.commandStart k j 0) s fun t =>
          let acq := c.lend.acq = true ∧ ¬(11 ≤ c.op ∧ c.op ≤ 14)
          (t.core k).copies = (s.core k).copies.map (fun d => if d.id = c.id then { d with started := true, acqDone := decide acq } else d) ∧
          (t.core k).l1 = (if acq ∧ (c.lend.scope = .device ∨ c.lend.scope = .pod) then [] else (s.core k).l1) ∧
          t = { s with cores := t.cores, nfree := s.nfree + 1 } ∧ ∀ m, m ≠ k → t.core m = s.core m) ∧
        (c.started = true → c.fault = none → c.slot = none → c.len ≤ c.off → c.buf = [] → c.got = [] → c.bad = none →
          (c.unacked = 0 → free → Ends complete s fun t => Leaves s t k c none ∧ t.mem = s.mem ∧ t.ctxs = s.ctxs) ∧
          (c.unacked ≠ 0 ∨ ¬ free → Ends complete s still)) ∧
        (c.started = true → ∀ f, c.fault = some f →
          (c.asked.length < c.unacked → Ends complete s still) ∧
          (c.unacked ≤ c.asked.length → ∀ o, (s.ctx c.ctx).occ = some o →
            (o.st ≠ .retired → c.arr ≠ none → Ends complete s fun t => Leaves s t k c (some f) ∧ t.mem = s.mem ∧ t.ctxs = s.ctxs) ∧
            (o.st ≠ .retired → c.arr = none → Ends complete s fun t => Leaves s t k c none ∧ t.mem = s.mem ∧
              t.ctx c.ctx = { s.ctx c.ctx with frec := (s.ctx c.ctx).frec.or (some f) }) ∧
            (o.st = .retired → ∀ q, s.kernel o.kid = some q → q.st ≠ .killing → Ends complete s fun t =>
              KilledBy t o.kid fun e => e.status = .fault ∧ e.cause = some f.cause ∧ e.info = f.info ∧ e.n = o.n ∧ e.unit = f.unit))) ∧
        (∀ a b, c.started = true → c.fault = none → c.slot = none → c.parked = false → c.op = 0 → c.len = 16 → c.off = 0 → c.unacked = 0 →
          c.buf = [] → c.got = [] → c.bad = none → c.wr = 0 → free → c.shape = none → c.ringOf = none →
          endpOf c.a = .loc a → endpOf c.b = .loc b →
          let base := (s.ctx c.ctx).spbase
          (base + a) % 16 = 0 → a + 16 ≤ b ∨ b + 16 ≤ a → (s.core k).spPoisoned (base + b) 16 = false → s.pinnedAt k (base + a) 16 = false →
          s.checker k (base + a) = none →
          let moved := fun (t : State) => t.mem = s.mem ∧ (t.core k).feGet ((base + a) / 16) = true ∧
            ∀ o, t.spByte k o = if base + a ≤ o ∧ o < base + a + 16 then s.spByte k (base + b + (o - (base + a))) else s.spByte k o
          Ends complete s (fun t => Leaves s t k c none ∧ moved t) ∧
          (16 ≤ upto → Ends start s fun t => t.transit = s.transit ∧ moved t ∧
            (t.core k).copies = (s.core k).copies.map fun d => if d.id = c.id then { d with off := 16, wr := 16 } else d)) ∧
        (c.started = true → c.fault = none → c.slot = none → c.parked = false → free → c.op = 11 → c.len = 16 → c.off = 0 → 0 < upto →
          let va := c.a.toNat % 2 ^ 48
          let w := if c.lend.opx.val % 2 = 1 then 4 else 8
          let ret := (s.ctx c.ctx).spbase + c.b.toNat
          ∀ u x, s.page (s.copyVia c) .atom .add va = (u, .ok x) → x.isValue = false → s.poisonAt (x.paOf va) w = none →
            s.pinnedAt k ret 16 = false → s.checker k ret = none → Ends start s fun t =>
              let old := leNat ((List.range w).map fun i => s.byte (x.paOf va + i))
              leNat ((List.range w).map fun i => t.byte (x.paOf va + i)) = (old + c.c.toNat) % 2 ^ (8 * w) ∧
              (∀ p, p < x.paOf va ∨ x.paOf va + w ≤ p → t.byte p = s.byte p) ∧
              leNat ((List.range 16).map fun i => t.spByte k (ret + i)) = old ∧ t.transit = s.transit ∧ t.ctxs = s.ctxs)))

/-- 11 R253, 13 R320: a copy waits for the free slots of its ring, and a PUTS for a free landing slot. -/
def Sys2Proof.Claims.slotEvents : Prop :=
  ∀ (s : State) (k j upto : Nat),
    let room := Instr.ringPanelRoom k j upto
    let land := Instr.putsSlotRoom k j
    ((s.core k).copies[j]? = none → Makes room s s ∧ Makes land s s) ∧
    (∀ c, IsCmd s k j c →
      let before := (s.core k).copies.filter fun d => d.ctx == c.ctx && decide (d.id < c.id)
      let free := c.lend.rel = false ∨ before = []
      (c.started = false ∨ c.ringOf = none → Makes room s s) ∧
      (c.started = true → ∀ q, c.ringOf = some q → s.killed c.kid = false → c.fault = none → c.parked = false → c.slot = none → c.op = 0 →
        c.shape = none → c.len = 16 → c.off = 0 → c.wr = 0 → c.buf = [] → c.got = [] → c.bad = none → free →
        let x := s.ctx c.ctx
        let r := x.ring q
        (r.cap ≤ (c.claim - r.head).toNat → s.podSrc c = false → Makes room s s.draw) ∧
        (∀ b, (c.claim - r.head).toNat < r.cap → r.psize = 1 → endpOf c.b = .loc b → 16 ≤ upto →
          let src := x.spbase + b
          let dst := x.spbase + r.base + 16 * (c.claim.toNat % r.cap)
          dst % 16 = 0 → src + 16 ≤ dst ∨ dst + 16 ≤ src → (s.core k).spPoisoned src 16 = false → s.pinnedAt k dst 16 = false →
          s.checker k dst = none → Ends room s fun t =>
            t.mem = s.mem ∧ t.transit = s.transit ∧ (t.core k).feGet (dst / 16) = true ∧
            (∀ o, t.spByte k o = if dst ≤ o ∧ o < dst + 16 then s.spByte k (src + (o - dst)) else s.spByte k o) ∧
            (t.core k).copies = (s.core k).copies.map (fun d => if d.id = c.id then { d with off := 16, wr := 16 } else d) ∧
            (r.early = [] → (t.ctx c.ctx).ring q =
              if c.claim = r.tail then { r with tail := r.tail + 1 } else { r with early := [c.claim] }) ∧
            (r.early = [r.tail + 1] → c.claim = r.tail → (t.ctx c.ctx).ring q = { r with tail := r.tail + 2, early := [] }))) ∧
      (c.started = false ∨ c.slot = none → Makes land s s) ∧
      (∀ q n v, c.started = true → c.slot = some (q, n) → s.fab.ring q = some v →
        (v.nslot ≤ (n - v.a).toNat → Makes land s s) ∧
        ((n - v.a).toNat < v.nslot → s.killed c.kid = false → free → c.fault = none → c.parked = false → c.op = 0x33 → c.len ≠ 0 → c.len ≤ c.off →
          c.len ≤ c.wr → c.buf = [] → c.got = [] → c.bad = none → c.unacked = 0 → c.headed = false → s.fab.routed s.sys.nodeid v.peer = true → Ends land s fun t =>
            t = { s with cores := t.cores, fab := t.fab, nfree := s.nfree + 1 } ∧
            (t.core k).copies = (s.core k).copies.map (fun d => if d.id = c.id then { d with unacked := 1, headed := true } else d) ∧
            ∃ f, t.fab.outq = s.fab.outq ++ [⟨.copy k c.id, f, s.sys.sidt⟩] ∧ f.dst = v.peer ∧ f.src = s.sys.nodeid ∧ f.type = 3 ∧
              f.payload = natLe 4 c.len ++ natLe 4 n.toNat ∧ f.addr = BitVec.ofNat 48 (v.plrid + 2 ^ 26 * (n.toNat % 2 ^ 22)))))

/-- 12 R267, R268, R270: signals, arrivals and registrations reach a phaser object, those of one handle in the order in which they were sent.
A drop of a signalling member whose SPH is the object's PHASE delivers the member's signal first, and what the handle has signalled since
is for a phase later. -/
def Sys2Proof.Claims.phaserMessages : Prop :=
  ∀ (s : State) (j : Nat),
    let u := { s with transit := s.transit.eraseIdx j }
    (s.transitTurn j = false → Makes (.memberSignal j) s s ∧ Makes (.registrationArrives j) s s) ∧
    (s.transit[j]? = none → Makes (.memberSignal j) s s ∧ Makes (.anonymousArrival j) s s ∧ Makes (.registrationArrives j) s s) ∧
    (∀ o k h ph, s.transit[j]? = some (.member o k h ph) →
      let p := s.phaser o
      let p1 := if ph = p.phase then { p with sc0 := p.sc0 + 1 } else { p with sc1 := p.sc1 + 1 }
      Makes (.anonymousArrival j) s s ∧ Makes (.registrationArrives j) s s ∧
      (s.transitTurn j = true → p.pend = [] → Rests (Advances p1) → Ends (.memberSignal j) s fun t =>
        t.phaser o = Advances p1 ∧ (∀ y, y ≠ o → t.phaser y = s.phaser y) ∧ t = { u with phasers := t.phasers })) ∧
    (∀ o n f k h, s.transit[j]? = some (.anon o n f k h) →
      let p := s.phaser o
      let ovf := 2 ^ 31 - 1 < p.acnt + n
      let p0 := if ovf then p else { p with acnt := p.acnt + n }
      let p1 := if p.broken = false ∧ (ovf ∨ f ≠ none) then { p0 with broken := true, brokenAt := p.phase } else p0
      let comes := fun (P : State → Prop) => p.pend = [] → Rests (Advances p1) → Ends (.anonymousArrival j) s fun t =>
        t.phaser o = Advances p1 ∧ (∀ y, y ≠ o → t.phaser y = s.phaser y) ∧ P t
      Makes (.memberSignal j) s s ∧ Makes (.registrationArrives j) s s ∧
      (f = none ∨ h = none → comes fun t => t = { u with phasers := t.phasers }) ∧
      (∀ e g, f = some e → h = some g →
        ((∀ y oc, s.holder k g = some (y, oc) → oc.st ≠ .retired) → comes fun t =>
          t = { u with phasers := t.phasers, cores := t.cores } ∧ (∀ m, m ≠ k → t.core m = s.core m) ∧
          t.core k = { s.core k with handles := (s.core k).handles.set g { (s.core k).handles[g] with
            frec := (s.core k).handles[g].frec.or (some e) } }) ∧
        (∀ y oc q, s.holder k g = some (y, oc) → oc.st = .retired → s.kernel oc.kid = some q → q.st ≠ .killing → comes fun t =>
          KilledBy t oc.kid fun i => i.status = .fault ∧ i.cause = some e.cause ∧ i.info = e.info ∧ i.n = oc.n))) ∧
    (∀ o k h w first, s.transit[j]? = some (.reg o k h w first) →
      let p := s.phaser o
      let only := fun (t : State) => (∀ y, y ≠ o → t.phaser y = s.phaser y) ∧ t = { u with phasers := t.phasers }
      Makes (.memberSignal j) s s ∧ Makes (.anonymousArrival j) s s ∧
      (s.transitTurn j = true →
        (first ≠ some p.phase → (k, h, w) ∉ p.pend → p.sc0 + p.sc1 + p.acnt ≠ 0 → Rests p → Ends (.registrationArrives j) s fun t =>
          t.phaser o = { p with pend := p.pend ++ [(k, h, w)] } ∧ only t) ∧
        (first = some p.phase → Rests { p with sc0 := p.sc0 + 1 } →
          (∀ ph, w = .gone ph → (k, h, RegWhat.gone (p.phase + 1)) ∉ p.pend → Ends (.registrationArrives j) s fun t =>
            t.phaser o = { p with sc0 := p.sc0 + 1, pend := p.pend ++ [(k, h, .gone (p.phase + 1))] } ∧ only t) ∧
          (w = .handle → (k, h, w) ∉ p.pend → Ends (.registrationArrives j) s fun t =>
            t.phaser o = { p with sc0 := p.sc0 + 1, pend := p.pend ++ [(k, h, w)] } ∧ (∀ y, y ≠ o → t.phaser y = s.phaser y) ∧
            (t.core k).handles = (s.core k).handles.set h { (s.core k).handles[h] with sph := (s.core k).handles[h].sph + 1 } ∧
            t = { u with phasers := t.phasers, cores := t.cores, transit := t.transit } ∧ t.transit.length = u.transit.length ∧
            ∀ ph, .member o k h ph ∈ u.transit → .member o k h (ph + 1) ∈ t.transit)) ∧
        (first = none → w = .handle → p.pend = [] → p.sc0 = 0 → p.sc1 = 0 → p.acnt = 0 →
          let q := (s.core k).handles[h]
          q.obj = some o → q.mode = .wait → q.pend = .drop → Ends (.registrationArrives j) s fun t =>
            t.phaser o = p ∧ (t.core k).handles[h] = { q with mode := .none, pend := .none }) ∧
        (∀ m, first = none → w = .handle → p.pend = [] → p.sc0 = 0 → p.sc1 = 0 → p.acnt = 0 →
          let q := (s.core k).handles[h]
          q.obj = some o → q.mode = .none → q.pend = .reg m → Ends (.registrationArrives j) s fun t =>
            t.phaser o = { p with nsig := p.nsig + (if m = .sig ∨ m = .sigwait then 1 else 0) } ∧
            (t.core k).handles[h] = { q with
              mode := m, pend := .none, sph := if m = .sig ∨ m = .sigwait then p.phase else q.sph
              lph := if m = .wait ∨ m = .sigwait then p.phase else q.lph })))

/-- 11 R238, R246 to R249, R253, R255, 12 R267, R268, R270, 13 R320: the copy engine at work, and what reaches a phaser object. The
model's choices in it: log entries 37, 59. -/
def Obligations.EngineResult : Prop := commandEvents ∧ slotEvents ∧ phaserMessages

/-- 10 R208 to R224, R230, R233: runs of a matrix group, panels, drains, tile commands, joins and scale records. The model's choices in
it: log entries 27, 28, 29, 61. -/
def Obligations.MatrixEventResult : Prop :=
  ∀ (s : State) (g x t row blk : Nat),
    let gr := s.group g
    let order := fun j => 4 * g + (gr.last + 1 + j) % 4
    (gr.run ≠ none ∨ s.draining g ≠ none ∨ (∀ j, j < 4 → s.requester (order j) = none) → Makes (.mxRunStart g) s s) ∧
    (∀ j, gr.run = none → s.draining g = none → j < 4 → s.requester (order j) ≠ none → (∀ i, i < j → s.requester (order i) = none) →
      Makes (.mxRunStart g) s (s.setGroup g { gr with run := some ⟨order j, 0, 0⟩, last := order j % 4 })) ∧
    (gr.run = none ∨ s.runOver g = false → Makes (.mxRunEnd g) s s) ∧
    (∀ r, gr.run = some r → s.runOver g = true →
      let rival := ∃ j, j < 4 ∧ 4 * g + j ≠ r.core ∧ s.requester (4 * g + j) ≠ none
      (rival ∨ s.requester r.core = none → Makes (.mxRunEnd g) s (s.setGroup g { gr with run := none })) ∧
      (¬ rival → s.requester r.core ≠ none → Makes (.mxRunEnd g) s (s.setGroup g { gr with run := some ⟨r.core, 0, 0⟩ }))) ∧
    (s.servedOp g = none → Makes (.mxPanelRead g) s s ∧ Makes (.mxOpComplete g) s s ∧ Makes (.scaleMissFill g t row blk) s s) ∧
    (∀ y m r q, s.servedOp g = some (y, m, r) → (s.ctx y).mxq = m :: q → m.accValid = true →
      let c := s.ctx y
      let k := coreOf y
      let rd := fun (p : Ring × Nat) => (s.core k).spRd (c.spbase + p.1.base + 16 * p.1.psize * (p.2 % p.1.cap)) (16 * p.1.psize)
      let clean := fun (p : Ring × Nat) => (s.core k).spPoisoned (c.spbase + p.1.base + 16 * p.1.psize * (p.2 % p.1.cap)) (16 * p.1.psize) = false
      (mxKP r ≤ m.chunk → Makes (.mxPanelRead g) s s) ∧ (m.chunk < mxKP r → Makes (.mxOpComplete g) s s) ∧
      (m.chunk < mxKP r → s.scaleMiss y m r ≠ none → Makes (.mxPanelRead g) s s) ∧
      (m.chunk < mxKP r → s.scaleMiss y m r = none → takePanels c m r = none → Makes (.mxPanelRead g) s s.draw) ∧
      (m.chunk < mxKP r → s.scaleMiss y m r = none → ∀ c' a b, takePanels c m r = some (c', a, b, none) → clean a → clean b →
        s.recPoison y m r[4] (mxM r) m.chunk = false → s.recPoison y m r[5] (mxN r) m.chunk = false → Ends (.mxPanelRead g) s fun u =>
          (u.ctx y).mxq = { m with chunk := m.chunk + 1, acc := (chunkAll s y m r m.chunk (rd a) (rd b) [] m.acc).1 } :: q ∧
          (u.ctx y).rings = c'.rings ∧ u.mem = s.mem ∧ u.transit = s.transit) ∧
      (mxKP r ≤ m.chunk → 16 * mxTcolb r + min 256 (mxN r) ≤ 256 → m.acc.length = mxM r * mxN r → Ends (.mxOpComplete g) s fun u =>
        (u.ctx y).mxq = q ∧ HoldsC u k r m.acc ∧ u.transit = s.transit ++ arrivals k m.arr none ∧ u.mem = s.mem)) ∧
    (∀ (r : Vector W64 16) (skip : Nat → Bool) (a b : Nat → Int) (acc : Int), (∀ j, j < 32 → mxPat r (j % mxPlen r) = 0) →
      let v := acc + ((List.range 32).map fun j => if skip j = true then 0 else a j * b j).sum
      (chunkI r skip a b acc).1 = max (-2 ^ 31) (min (2 ^ 31 - 1) v) ∧
      ((chunkI r skip a b acc).2 = fOV ↔ v < -2 ^ 31 ∨ 2 ^ 31 - 1 < v)) ∧
    (∀ y m r, s.servedOp g = some (y, m, r) →
      let used := bitOf r[4] 6 = true ∧ r[4].toNat % 64 = t ∨ bitOf r[5] 6 = true ∧ r[5].toNat % 64 = t
      ((s.ctx y).sctab.get none t = none ∨ ¬ used → Makes (.scaleMissFill g t row blk) s s) ∧
      (∀ d, (s.ctx y).sctab.get none t = some d → used → row < d.rows → blk < d.blks →
        let off := (s.ctx y).spbase + d.base + 2 * (row * d.blks + blk)
        m.kept = [] → (∀ e ∈ (s.group (groupOf (coreOf y))).scache, e.1 ≠ ⟨y, t, row, blk⟩) →
        ((s.core (coreOf y)).spPoisoned off 2 = true → Makes (.scaleMissFill g t row blk) s s) ∧
        ((s.core (coreOf y)).spPoisoned off 2 = false → Ends (.scaleMissFill g t row blk) s fun u => u = { s with groups := u.groups } ∧
          (u.group g).scache = (⟨y, t, row, blk⟩, BitVec.ofNat 16 (leNat ((s.core (coreOf y)).spRd off 2))) ::
            gr.scache.filter fun e => e.1 != ⟨y, t, row, blk⟩))) ∧
    (s.draining g = none → Makes (.mxSuspendComplete g) s s) ∧
    (∀ y m r q, s.draining g = some y → (s.ctx y).mxq = m :: q → m.kind = .go r → 16 * mxTcolb r + min 256 (mxN r) ≤ 256 →
      m.acc.length = mxM r * mxN r → Ends (.mxSuspendComplete g) s fun u => HoldsC u (coreOf y) r m.acc ∧ (u.ctx y).mxq = { m with acc := [], accValid := false } :: q ∧
        u.mem = s.mem ∧ u.transit = s.transit) ∧
    (let dead := ∃ kid, s.kidOf x = some kid ∧ s.killed kid = true
     (dead ∨ (s.ctx x).mxq = [] ∨ (∃ m q r, (s.ctx x).mxq = m :: q ∧ m.kind = .go r) → Makes (.mxTileCmdComplete x) s s) ∧
     ∀ m q, ¬ dead → (s.ctx x).mxq = m :: q →
      let k := coreOf x
      let off := fun (a : W64) => (s.ctx x).spbase + a.toNat
      let bare := fun (c : MxCmd) => { c with kept := [] }
      let done := fun (P : State → Prop) => Ends (.mxTileCmdComplete x) s fun u =>
        (u.ctx x).mxq.map bare = q.map bare ∧ u.transit = s.transit ++ arrivals k m.arr none ∧ u.mem = s.mem ∧ P u
      (∀ b r, m.kind = .z b false → regionOf b = some r → done fun u => RegionIs s u k r (fun _ _ => 0) ∧ (u.core k).tstatus = (s.core k).tstatus) ∧
      (∀ a b r, m.kind = .ld a b false → regionOf b = some r → (s.core k).spPoisoned (off a) (regionBytes b false) = false →
        done fun u => RegionIs s u k r fun i j =>
          BitVec.ofNat 32 (leNat ((List.range 4).map fun n => s.spByte k (off a + 4 * (r.ncols * i + j) + n)))) ∧
      (∀ a b r, m.kind = .st a b false → regionOf b = some r →
        (∀ i, i < r.nrows → (s.core k).tilePoisoned (r.trow + i) r.tcol r.ncols = false) → (s.ctx (2 * k)).gmode ≠ 2 → (s.ctx (2 * k + 1)).gmode ≠ 2 →
        done fun u => ∀ i j n, i < r.nrows → j < r.ncols → n < 4 →
          u.spByte k (off a + 4 * (r.ncols * i + j) + n) = ((s.core k).tileRd (r.trow + i) (r.tcol + j)).extractLsb' (8 * n) 8)) ∧
    (let joins := (s.ctx x).join = .pending 0 ∧ (s.core (coreOf x)).claim = some x ∧ s.kidOf x = s.kidOf (x - 2)
     (¬ joins → Makes (.mxJoinEffect x) s s) ∧ (joins → Makes (.mxJoinEffect x) s (s.upCtx x fun c => { c with join := .inEffect })))

/-- 13 R299, R306, R307, R336; 14 R329: flits that are not for the instruction, reserved or damaged. A discard asks for a replay. -/
def Sys2Proof.Claims.flitTurnedAway : Prop :=
  ∀ (s : State) (p : Fin 16) (k : Fin 128) (f : Flit),
    let a := s.toC0
    let q := s.fab.link (linkOf p k)
    let me := f.dst = s.sys.nodeid
    let other := fun (mine : Prop) => ¬ me ∨ (¬ mine ∧ f.type ≠ 7 ∧ f.hc ≠ 3)
    (other (f.type = 0) → Makes (.flitWriteRx p k f) s s) ∧ (other (f.type = 6) → Makes (.flitZeroRx p k f) s s) ∧
    (other (8 ≤ f.type.val) → Makes (.flitAtomicRx p k f) s s) ∧ (other (f.type = 1) → Makes (.flitReadreqRx p k f) s s) ∧
    (other (f.type = 2) → Makes (.flitReadrspRx p k f) s s.draw) ∧ (other (f.type = 3) → Makes (.flitLandRx p k f) s s) ∧
    (me → Makes (.flitTransitRx p k f) s s) ∧
    (me → s.fab.portOn p = false ∨ s.listens p k = false →
      (f.type = 0 → Makes (.flitWriteRx p k f) s a) ∧ (f.type = 1 → Makes (.flitReadreqRx p k f) s a) ∧
      (f.type = 3 → Makes (.flitLandRx p k f) s a)) ∧
    (me → s.fab.portOn p = true → s.listens p k = true → flitIntact f = false ∨ f.lseq ≠ q.rx →
      let lost := fun (t : State) => t = { a with fab := t.fab } ∧
        t.fab.lerrCrc = (if s.fab.lerrCrc = 0xFFFF then s.fab.lerrCrc else s.fab.lerrCrc + 1) ∧
        t.fab.link (linkOf p k) = { q with unack := 0, owe0 := 0, owe1 := 0, owe2 := 0 } ∧
        Emits a t (.linkAck p (k.val % 64) (q.rx - 1) q.owe0 q.owe1 q.owe2 true)
      (f.type = 0 → Ends (.flitWriteRx p k f) s lost) ∧ (f.type = 1 → Ends (.flitReadreqRx p k f) s lost) ∧
      (f.type = 3 → Ends (.flitLandRx p k f) s lost)) ∧
    (me → ComesIn s p k f → f.type = 7 ∨ f.hc = 3 → Ends (.flitWriteRx p k f) s fun t =>
      t.fab.lerrRsv = (if s.fab.lerrRsv = 0xFFFF then s.fab.lerrRsv else s.fab.lerrRsv + 1) ∧ t.mem = s.mem ∧ Credited s t p k f)

/-- 13 R308 to R312, R316, R321: flits that are performed. -/
def Sys2Proof.Claims.flitPerformed : Prop :=
  ∀ (s : State) (p : Fin 16) (k : Fin 128) (f : Flit),
    let me := f.dst = s.sys.nodeid
    let va := f.addr.toNat
    let len := f.payload.length
    let remote : FaultRec := ⟨.engineFault, BitVec.ofNat 64 (va + 2 ^ 48 * 0x23), 0⟩
    (me → Arrives s p k f → f.ord = false →
      (∀ x, LetsIn s f .wr .write x → va % 65536 + len ≤ 65536 → s.poisonAt (x.paOf va) len = none →
        (f.type = 0 → Ends (.flitWriteRx p k f) s fun t => BytesAre s t (x.paOf va) f.payload ∧ Credited s t p k f ∧ Answered s t f none) ∧
        (f.type = 6 → Ends (.flitZeroRx p k f) s fun t =>
          BytesAre s t (x.paOf va) (List.replicate len 0) ∧ Credited s t p k f ∧ Answered s t f none)) ∧
      (f.type = 0 → s.fab.keyOk f.pkey = true → s.window va = none → NoVerdict s f → Ends (.flitWriteRx p k f) s fun t =>
        t.mem = s.mem ∧ Credited s t p k f ∧ Answered s t f (some remote)) ∧
      (∀ x, LetsIn s f .add .atom x → f.type = 8 → len = 4 → s.poisonAt (x.paOf va) 4 = none → Ends (.flitAtomicRx p k f) s fun t =>
        BytesAre s t (x.paOf va) (natLe 4 ((leNat ((List.range 4).map fun i => s.byte (x.paOf va + i)) + leNat f.payload) % 2 ^ 32)) ∧
        Credited s t p k f ∧ Answered s t f none) ∧
      (∀ x, LetsIn s f .rd .read x → f.type = 1 → 0 < len → va % 65536 + len ≤ 65536 → s.firstPoison (x.paOf va) len = none →
        Ends (.flitReadreqRx p k f) s fun t => t.mem = s.mem ∧ Credited s t p k f ∧ ∃ g, t.fab.outq = s.fab.outq ++ [⟨.reply p, g, s.sys.sidt⟩] ∧
          g.dst = f.src ∧ g.src = s.sys.nodeid ∧ g.type = 2 ∧ g.tag = f.tag ∧ g.addr = f.off ∧
          g.payload = (List.range len).map fun i => s.byte (x.paOf va + i)) ∧
      (f.type = 2 → s.byTag f.src f.tag = none → Ends (.flitReadrspRx p k f) s fun t => t.mem = s.mem ∧ t.cores = s.cores ∧ Credited s t p k f) ∧
      (∀ c i b, f.type = 2 → s.byTag f.src f.tag = some c → IsCmd s (coreOf c.ctx) i c → c.asked = [(va, 16)] → c.wr = va → c.buf = [] →
        c.got = [] → c.bad = none → c.fault = none → c.parked = false → c.slot = none → c.shape = none → c.ringOf = none →
        endpOf c.a = .loc b → len = 16 → va + 16 ≤ c.len →
        c.op = 0 → f.src ≠ s.sys.nodeid →
        let to_ := (s.ctx c.ctx).spbase + b + va
        to_ % 16 = 0 → s.pinnedAt (coreOf c.ctx) to_ 16 = false → s.checker (coreOf c.ctx) to_ = none → Ends (.flitReadrspRx p k f) s fun t =>
          Credited s t p k f ∧ t.mem = s.mem ∧ (t.core (coreOf c.ctx)).feGet (to_ / 16) = true ∧
          (∀ i, i < 16 → t.spByte (coreOf c.ctx) (to_ + i) = f.payload.getD i 0) ∧
          (t.core (coreOf c.ctx)).copies = (s.core (coreOf c.ctx)).copies.map fun d =>
            if d.id = c.id then { d with asked := [], unacked := c.unacked - 1, wr := va + 16 } else d) ∧
      (f.type = 3 → s.fab.keyOk f.pkey = true → s.fab.ring (va % 1024) = none → Ends (.flitLandRx p k f) s fun t =>
        t.mem = s.mem ∧ Credited s t p k f ∧ Answered s t f (some remote)) ∧
      (∀ r, f.type = 3 → s.fab.keyOk f.pkey = true → s.fab.ring (va % 1024) = some r → r.tx = false → r.peer = f.src →
        let m := r.a + BitVec.ofNat 32 ((va / 2 ^ 26 + 2 ^ 22 - r.a.toNat % 2 ^ 22) % 2 ^ 22)
        let off := va / 1024 % 65536
        let to_ := r.base + r.slotsz * (m.toNat % r.nslot) + off
        let size := if off = 0 then 16 else len
        (m - r.a).toNat < r.nslot → to_ % 65536 + size ≤ 65536 → off + len ≤ r.slotsz →
        ∀ x, s.walkFor r.asid false .write to_ = .ok x → x.isValue = false → s.poisonAt (x.paOf to_) size = none →
          (off = 0 → 4 ≤ len → Ends (.flitLandRx p k f) s fun t =>
            BytesAre s t (x.paOf to_) (f.payload.take 4 ++ natLe 4 m.toNat ++ natLe 2 f.src.toNat ++ natLe 6 0) ∧ Credited s t p k f ∧
            Answered s t f none ∧ t.transit = s.transit ++ (r.arr.map fun h => PhMsg.anon h.obj 1 none r.core none).toList ∧
            t.fab.ring (va % 1024) = some { r with
              b := if (m + 1 - r.a).toNat ≤ (r.b - r.a).toNat then r.b else m + 1, landing := r.landing.filter (· != m) }) ∧
          (16 ≤ off → 0 < len → Ends (.flitLandRx p k f) s fun t =>
            BytesAre s t (x.paOf to_) f.payload ∧ Credited s t p k f ∧ Answered s t f none ∧ t.transit = s.transit ∧
            ∃ r', t.fab.ring (va % 1024) = some r' ∧ r'.b = r.b ∧ m ∈ r'.landing)))

/-- 13 R309, R312, R314; 14 R329, R330: transit, acknowledgements, replays. -/
def Sys2Proof.Claims.flitLinkLayer : Prop :=
  ∀ (s : State) (p : Fin 16) (k : Fin 128) (f : Flit) (ack : BitVec 16) (f0 f1 f2 : Nat) (lp : Fin 16) (lk : Fin 128)
    (n : Nat) (start : BitVec 16) (src : BitVec 13) (bad : Option FaultRec) (again : Bool),
    let a := s.toC0
    let l := linkOf p k
    let q := s.fab.link l
    let me := f.dst = s.sys.nodeid
    let va := f.addr.toNat
    (¬ me → s.fab.portOn p = false ∨ s.listens p k = false → Makes (.flitTransitRx p k f) s a) ∧
    (¬ me → Arrives s p k f →
      let g : Flit := { f with hc := f.hc + 1 }
      let path := s.ordPathOf g
      let straight := if f.ord = true then
          (if path < 1000 then path < 16 else ∃ e ∈ s.leaseStands f.dst, e.1.seq + 1000 = path ∧ e.2.ordOk s.frame = true ∧ e.2.fwd = none)
        else s.fab.directPorts s.sys.nodeid f.dst ≠ [] ∨ ∃ e ∈ s.leaseStands f.dst, e.2.fwd = none
      let on := s.fab.routed s.sys.nodeid f.dst = true ∧ (f.hc = 0 ∨ (f.hc = 1 ∧ straight))
      (on → Ends (.flitTransitRx p k f) s fun t => t.fab.outq = s.fab.outq ++ [⟨.transit l, g, s.sys.sidt⟩] ∧
        t.mem = s.mem ∧ (t.fab.link l).rx = q.rx + 1) ∧
      (¬ on → Ends (.flitTransitRx p k f) s fun t => t.fab.outq = s.fab.outq ∧ Credited s t p k f ∧
        Answered s t f (some ⟨.engineFault, BitVec.ofNat 64 (va + 2 ^ 48 * 0x23), 0⟩))) ∧
    (Ends (.linkAckRx p k ⟨ack, again⟩ f0 f1 f2) s fun t => t = { a with fab := t.fab } ∧
      t.fab.link l = { q with free0 := min 256 (q.free0 + f0), free1 := min 64 (q.free1 + f1), free2 := min 64 (q.free2 + f2) } ∧
      (∀ e ∈ t.fab.store, (e.link = some l → again = true → e.again = true) ∧
        ¬((e.link = some l ∧ (ack - e.f.lseq).toNat < 2 ^ 15) ∨
          (e.orig = l ∧ (ack - e.olseq).toNat < 2 ^ 15 ∧ s.fab.announced e = false))) ∧
      (again = false → ∀ e, e ∈ t.fab.store ↔ e ∈ s.fab.store ∧
        ¬((e.link = some l ∧ (ack - e.f.lseq).toNat < 2 ^ 15) ∨
          (e.orig = l ∧ (ack - e.olseq).toNat < 2 ^ 15 ∧ s.fab.announced e = false)))) ∧
    (q.due = false → Makes (.lackDue p k) s s) ∧
    (q.due = true → Ends (.lackDue p k) s fun t => t = { s with fab := t.fab } ∧ t.fab.link l = { q with unack := 0, owe0 := 0, owe1 := 0, owe2 := 0 } ∧
      Emits s t (.linkAck p (k.val % 64) (q.rx - 1) q.owe0 q.owe1 q.owe2 false)) ∧
    (Ends (.replayRx p k lp lk ⟨ack, start⟩ n) s fun t => t = { a with fab := t.fab } ∧
      t.fab.link l = { q with replay := if n = 0 then none else some (linkOf lp lk, ack, n, start) }) ∧
    (s.byTag src ack = none → s.xferOf src ack = none →
      (Ends (.performedAckRx src ack n bad) s fun t => t = { a with fab := { s.fab with ordTx := t.fab.ordTx } } ∧
        t.fab.ordTx.map (·.dst) = s.fab.ordTx.map (·.dst)) ∧
      ((∀ e ∈ s.fab.ordTx, e.dst = src → ∀ y ∈ e.out, y.2.1 ≠ ack) → Makes (.performedAckRx src ack n bad) s a)) ∧
    (∀ c, s.byTag src ack = some c →
      (bad = none ∨ c.asked = [] → Ends (.performedAckRx src ack n bad) s fun t => t.mem = s.mem ∧ t.ctxs = s.ctxs ∧
        (t.core (coreOf c.ctx)).copies = (s.core (coreOf c.ctx)).copies.map fun d =>
          if d.id = c.id then { d with unacked := d.unacked - n, fault := (bad.map fun r => forOp r d.op).or d.fault } else d) ∧
      (∀ i o m nd y w r, bad = some r → IsCmd s (coreOf c.ctx) i c → c.asked = [(o, m)] → 0 < m → c.wr = o → c.buf = [] → c.got = [] →
        c.bad = none → c.fault = none → c.parked = false → s.srcPlace c o = (.pod nd y, w) → bf r.info 0 48 = y % 2 ^ 48 →
        Ends (.performedAckRx src ack n bad) s fun t => t.mem = s.mem ∧ t.ctxs = s.ctxs ∧
          (t.core (coreOf c.ctx)).copies = (s.core (coreOf c.ctx)).copies.map fun d =>
            if d.id = c.id then { d with
              asked := [], unacked := d.unacked - 1, bad := some (o, forOp r d.op), fault := some (forOp r d.op) } else d))

/-- 13 R306, R314; 14 R329, R331: sending, sending again, and abandoned flits. -/
def Sys2Proof.Claims.flitSent : Prop :=
  ∀ (s : State) (p : Fin 16) (ch : Fin 18) (j : Nat),
    let puts := fun (w : W32) (h : Flit) (t : State) (P : Flit → Prop) => ∃ g : Flit, t.fab.wire = .flit p (ephLine w) g :: s.fab.wire ∧
      { g with lack := h.lack, free0 := h.free0, free1 := h.free1, free2 := h.free2, fline := h.fline, fport := h.fport, crc := h.crc } = h ∧
      (g.payload.length ≤ 224 → flitIntact g = true) ∧ P g
    (s.fab.outq[j]? = none → s.opportunity p ch = none → Makes (.flitSend p ch j) s s) ∧
    (∀ w m, (∀ o, s.fab.outq[j]? = some o → s.ownerLive o.own = true ∧ s.canGo o.f = true) → s.opportunity p ch = some (w, m) →
      let l := 64 * p.val + ephLine w % 64
      let q := s.fab.link l
      (s.linkWork p ch (ephLine w) m = none → s.fab.outq[j]? = none → Makes (.flitSend p ch j) s s) ∧
      (∀ e, q.out = none → s.fab.resend l = some e → Ends (.flitSend p ch j) s fun t => t = { s with fab := t.fab } ∧
        t.fab.outq = s.fab.outq ∧
        puts w e.f t fun g => t.fab.store = s.fab.store.map fun u => if u = e then { e with f := g, again := false } else u) ∧
      (∀ lost x n e, q.out = some (lost, x, n) → (s.fab.waiting lost).find? (fun u => u.olseq == x) = some e → 0 < q.free e.f.hc.val →
        Ends (.flitSend p ch j) s fun t => t = { s with fab := t.fab } ∧ t.fab.outq = s.fab.outq ∧ (t.fab.link l).tx = q.tx + 1 ∧
          (t.fab.link l).out = (if n ≤ 1 then none else some (lost, x + 1, n - 1)) ∧
          puts w { e.f with lseq := q.tx } t fun g =>
            t.fab.store = s.fab.store.map fun u => if u = e then { e with f := g, link := some l } else u)) ∧
    (∀ o, s.fab.outq[j]? = some o →
      let b : State := { s with fab := { s.fab with outq := s.fab.outq.eraseIdx j } }
      (s.ownerLive o.own = false → Makes (.flitSend p ch j) s b) ∧
      (∀ l, o.own = .transit l → s.canGo o.f = false → Ends (.flitSend p ch j) s fun t => t = { b with fab := t.fab } ∧
        t.fab.outq = b.fab.outq ∧ t.fab.link l = (s.fab.link l).owe (o.f.hc.val - 1) ∧
        Answered b t o.f (some ⟨.engineFault, BitVec.ofNat 64 (o.f.addr.toNat + 2 ^ 48 * 0x23), 0⟩)) ∧
      (∀ c i, o.own = .copy (coreOf c.ctx) i → s.copyId (coreOf c.ctx) i = some c → s.canGo o.f = false → o.f.type ≠ 1 →
        Ends (.flitSend p ch j) s fun t => t.fab = b.fab ∧ t.mem = s.mem ∧
          (t.core (coreOf c.ctx)).copies = (s.core (coreOf c.ctx)).copies.map fun d => if d.id = i then { d with
            unacked := d.unacked - 1, fault := d.fault.or (some (d.recOf accRemote o.f.addr.toNat)) } else d) ∧
      (s.ownerLive o.own = true → s.canGo o.f = true → s.opportunity p ch = none → Makes (.flitSend p ch j) s s) ∧
      (∀ w m, s.ownerLive o.own = true → s.canGo o.f = true → s.opportunity p ch = some (w, m) → s.linkWork p ch (ephLine w) m = none →
        let l := 64 * p.val + ephLine w % 64
        let q := s.fab.link l
        (q.free o.f.hc.val = 0 ∨ s.mayGo o p ch w m = false ∨ s.ordTurn o j = false ∨ 65536 ≤ s.fab.store.length →
          Makes (.flitSend p ch j) s s) ∧
        (0 < q.free o.f.hc.val → s.mayGo o p ch w m = true → s.fab.store.length < 65536 → o.f.ord = false → (∀ i, o.own ≠ .transit i) →
          (∀ z ∈ s.fab.outq, prioLt (s.prio z p ch w) (s.prio o p ch w) = false) → Ends (.flitSend p ch j) s fun t => t = { s with fab := t.fab } ∧
            t.fab.outq = s.fab.outq.eraseIdx j ∧ (t.fab.link l).tx = q.tx + 1 ∧ (t.fab.link l).free o.f.hc.val = q.free o.f.hc.val - 1 ∧
            t.fab.sent.get 0 (18 * p + ch) = s.fab.sent.get 0 (18 * p + ch) + 1 ∧
            puts w { o.f with lseq := q.tx } t fun g => t.fab.store = s.fab.store ++ [⟨o.own, g, some l, s.sys.sidt, l, q.tx, false⟩])) ∧
      let sec := s.ofSecure o.own
      let barred := o.f.ord = true ∧ s.ordPathOf o.f < 16 ∧ s.carries (s.ordPathOf o.f) sec = false
      let away := s.pathTo o.f.dst o.f.hc.val sec = false ∨ barred
      (¬(o.since.toNat + 1000000 ≤ s.sys.sidt.toNat) ∨ ¬ away ∨ s.ownerLive o.own = false → Makes (.flitAbandon j) s s) ∧
      (∀ c i, o.since.toNat + 1000000 ≤ s.sys.sidt.toNat → away → o.own = .copy (coreOf c.ctx) i → o.f.type ≠ 1 →
        s.copyId (coreOf c.ctx) i = some c → Ends (.flitAbandon j) s fun t =>
          t.fab.outq = s.fab.outq.eraseIdx j ∧ t.sys.evSeq = s.sys.evSeq + 1 ∧
          (t.core (coreOf c.ctx)).copies = (s.core (coreOf c.ctx)).copies.map fun d =>
            if d.id = i then { d with
              unacked := d.unacked - 1, fault := d.fault.or (some (d.recOf accRemote o.f.addr.toNat)) } else d)) ∧
    (s.fab.outq[j]? = none →
      (s.fab.store[j - s.fab.outq.length]? = none → Makes (.flitAbandon j) s s) ∧
      (∀ e, s.fab.store[j - s.fab.outq.length]? = some e →
        let i := j - s.fab.outq.length
        let old := e.since.toNat + 1000000 ≤ s.sys.sidt.toNat
        (¬ old ∨ (s.fab.announced e = true ∧ e.own = .gone) → Makes (.flitAbandon j) s s) ∧
        (∀ y, old → e.own = .reply y → Ends (.flitAbandon j) s fun t => t.sys.evSeq = s.sys.evSeq + 1 ∧
          (t.fab.store = if s.fab.announced e = true then s.fab.store.set i { e with own := .gone } else s.fab.store.eraseIdx i) ∧
          Goes s t (.performed e.f.dst e.f.tag 1 (some ⟨.engineFault, BitVec.ofNat 64 (e.f.off.toNat + 2 ^ 48 * 0x23), 0⟩)))))

/-- 13 R306 to R316, R321; 14 R329 to R331: flits. The model's choices in it: log entries 37, 38, 44, 60, 62, 70. -/
def Obligations.FlitResult : Prop := flitTurnedAway ∧ flitPerformed ∧ flitLinkLayer ∧ flitSent

/-- 15 R345, R347, R349, R350; 13 R311, R312: what messages of other Orreries do. -/
def Sys2Proof.Claims.collectiveMessage : Prop :=
  ∀ (s : State) (die : Fin 4) (comm : BitVec 16) (key : W64) (rank m : Nat) (data : List Byte) (dog : Bool) (p : Fin 16) (src : BitVec 13)
    (tag pkey : BitVec 16),
    let a := s.toC0
    let o := s.orrery die
    let at_ := fun (t : State) (i : Nat) (P : Ticket → Prop) => ∃ v, (t.orrery die).ticket i = some v ∧ P v
    let gone := fun (kind : Nat) => some (⟨.engineFault, BitVec.ofNat 64 (2 ^ 48 * kind + 2 ^ 56 * 0x38), 0⟩ : FaultRec)
    let rfwd := Instr.rfwdMessageRx die comm key m ⟨data, p, src, tag, pkey⟩
    (∀ i v, o.holds key comm = some i → o.ticket i = some v → v.admitted = true → Makes (.announceRx die comm key) s a) ∧
    ((∀ i v, o.holds key comm = some i → o.ticket i = some v → v.admitted = false) → Ends (.announceRx die comm key) s fun t =>
      t = { a with orreries := t.orreries } ∧ (key, comm) ∈ (t.orrery die).known ∧ (t.orrery die).tickets = o.tickets) ∧
    (s.fab.keyOk pkey = false → Ends rfwd s fun t => t.orreries = s.orreries ∧
      ∃ r : FaultRec, r.cause = .pkey ∧ Emits a t (.performed src tag 1 (some r))) ∧
    (o.holds key comm = none →
      (Ends (.admitRx die comm key rank) s fun t => t = { a with orreries := t.orreries } ∧ (key, comm, rank) ∈ (t.orrery die).early ∧
        (t.orrery die).tickets = o.tickets) ∧
      (Ends (.collDoneRx die comm key rank) s fun t => t = { a with orreries := t.orreries } ∧ (key, comm, rank) ∈ (t.orrery die).earlyDone ∧
        (t.orrery die).tickets = o.tickets) ∧
      (s.fab.keyOk pkey = true → Ends rfwd s fun t => t = { a with fab := t.fab } ∧ Emits a t (.performed src tag 1 none)) ∧
      Makes (.rfwdSlotFree die comm key m) s a ∧
      Ends (.abortRx die comm key dog) s fun t => t = { a with orreries := t.orreries } ∧ (key, comm) ∉ (t.orrery die).known ∧
        (∀ e ∈ (t.orrery die).early ++ (t.orrery die).earlyDone, ¬(e.1 = key ∧ e.2.1 = comm)) ∧ (t.orrery die).tickets = o.tickets) ∧
    (∀ i v, o.holds key comm = some i → o.ticket i = some v →
      (Ends (.admitRx die comm key rank) s fun t => at_ t i fun w => rank ∈ w.admits ∧ w.coll = v.coll ∧ ∀ r ∈ v.admits, r ∈ w.admits) ∧
      (s.fab.keyOk pkey = true → Ends rfwd s fun t => at_ t i (· = { v with msgs := v.msgs ++ [(m, data)] }) ∧
        Emits a t (.performed src tag 1 none)) ∧
      (let all := if rank ∈ v.dones then v.dones else rank :: v.dones
       (all.length < v.coll.gsize → Ends (.collDoneRx die comm key rank) s fun t => at_ t i (· = { v with dones := all })) ∧
       (v.coll.gsize ≤ all.length → Ends (.collDoneRx die comm key rank) s fun t => TicketEnds t die i v none)) ∧
      (let next := m + v.coll.rxslot
       ((∀ e ∈ v.waiting, e.1 ≠ next) → Ends (.rfwdSlotFree die comm key m) s fun t => at_ t i (· = { v with freed := m :: v.freed })) ∧
       (∀ bs n d, v.waiting = [(next, bs)] → v.group.getD (v.coll.peer next) (0, 0) = (n, d) → n ≠ s.sys.nodeid →
         s.fab.routed s.sys.nodeid n = true → Ends (.rfwdSlotFree die comm key m) s fun t =>
           let tag := BitVec.ofNat 16 s.nextId
           Emits a t (.rfwd n d v.coll.comm v.coll.key next bs s.sys.nodeid tag v.pkey) ∧
           at_ t i (· = { v with freed := m :: v.freed, waiting := [], xfers := v.xfers ++ [⟨next, tag, n, 0, [], 1, none⟩] }))) ∧
      Ends (.abortRx die comm key dog) s fun t => TicketEnds t die i v (gone (if dog = true then 0x24 else 0x25)))

/-- 15 R345, R347, R348, R350: admission and its watchdog. -/
def Sys2Proof.Claims.collectiveAdmission : Prop :=
  ∀ (s : State) (die : Fin 4) (n : Fin 64),
    let o := s.orrery die
    let at_ := fun (t : State) (i : Nat) (P : Ticket → Prop) => ∃ v, (t.orrery die).ticket i = some v ∧ P v
    let gone := fun (kind : Nat) => some (⟨.engineFault, BitVec.ofNat 64 (2 ^ 48 * kind + 2 ^ 56 * 0x38), 0⟩ : FaultRec)
    (o.ticket n = none → Makes (.collAdmission die n) s s ∧ Makes (.collTransfer die n) s s ∧ Makes (.admissionWatchdog die n) s s) ∧
    (∀ v, o.ticket n = some v →
      let c := v.coll
      let late := v.since.toNat + 10000000 ≤ s.sys.sidt.toNat ∧ v.admits.length < c.gsize
      (¬ late → Makes (.admissionWatchdog die n) s s) ∧
      (late → Ends (.admissionWatchdog die n) s fun t => TicketEnds t die n v (gone 0x24)) ∧
      (let before := ∃ d ∈ (s.core v.core).copies, d.ctx = v.ctx ∧ d.id < v.id
       let held := v.admitted = true ∨
         (∃ e ∈ o.known, e.1.toNat < c.key.toNat ∨ e.1 = c.key ∧ e.2.toNat < c.comm.toNat) ∨ 2 ^ 21 < o.used + c.stage
       (before ∨ (v.announced = true ∧ held) → Makes (.collAdmission die n) s s) ∧
       (¬ before → v.announced = false → 2 ^ 21 < o.used + c.stage →
        let g := groupOfBytes (s.orrRead v.asid v.world c.gtab (2 * c.gsize))
        Ends (.collAdmission die n) s fun t => at_ t n (· = { v with group := g, announced := true }) ∧
          ∀ e ∈ g, e.1 ≠ s.sys.nodeid → Goes s t (.announce e.1 e.2 c.comm c.key)) ∧
       (¬ before → v.announced = true → ¬ held → ∀ bs, State.gRead (.walk v.asid v.world) 2 s c.gtab (2 * c.gsize) = (s, bs, .ok ()) →
        let g := groupOfBytes bs
        let bad := groupReserved bs = true ∨ ∃ e ∈ g, s.fab.route e.1 = none
        (bad → Ends (.collAdmission die n) s fun t => TicketEnds t die n v (gone 0x20)) ∧
        (¬ bad → Ends (.collAdmission die n) s fun t =>
          at_ t n (fun w => w.admitted = true ∧ w.group = g ∧ w.coll = c) ∧ (t.orrery die).used = o.used + c.stage ∧
          (c.key, c.comm) ∉ (t.orrery die).known ∧
          ∀ e ∈ g, e.1 ≠ s.sys.nodeid → Goes s t (.admission e.1 e.2 c.comm c.key c.rank)))))

/-- 15 R346, R347, R349: the transfers of a collective. -/
def Sys2Proof.Claims.collectiveTransfer : Prop :=
  ∀ (s : State) (die : Fin 4) (n : Fin 64),
    let o := s.orrery die
    let at_ := fun (t : State) (i : Nat) (P : Ticket → Prop) => ∃ v, (t.orrery die).ticket i = some v ∧ P v
    (∀ v, o.ticket n = some v →
      let c := v.coll
      let total := (c.levels.map (·.bound)).foldl (· * ·) 1
      (let may := v.admitted = true ∧ v.next < total ∧ (c.act ≠ 2 ∨ v.next + 1 < total → c.peer v.next ∈ v.admits) ∧
         (∀ d ∈ (s.core v.core).copies, d.ctx = v.ctx → v.id ≤ d.id) ∧
         (c.act = 2 → 0 < v.next → ∃ e ∈ v.msgs, e.1 = v.next - 1)
       let e := v.group.getD (c.peer v.next) (0, 0)
       let tag := BitVec.ofNat 16 s.nextId
       (¬ may → Makes (.collTransfer die n) s s) ∧
       (may → ∀ bs, State.gRead (.walk v.asid v.world) (c.len / 65536 + 2) s (c.src v.next) c.len = (s, bs, .ok ()) → e.1 ≠ s.sys.nodeid →
        s.fab.routed s.sys.nodeid e.1 = true →
        (c.act = 2 → v.next = 0 → 1 < total → 0 < c.rxslot → Ends (.collTransfer die n) s fun t =>
          Emits s t (.rfwd e.1 e.2 c.comm c.key 0 (bs.take (bs.length / efmtSize c.efmt * efmtSize c.efmt)) s.sys.nodeid tag v.pkey) ∧
          at_ t n fun w => w.next = 1 ∧ w.xfers = v.xfers ++ [⟨0, tag, e.1, 0, [], 1, none⟩]) ∧
        (c.act = 0 → bs ≠ [] → bs.length ≤ 224 → c.dst v.next < 2 ^ 48 → c.dst v.next % 65536 + bs.length ≤ 65536 →
          Ends (.collTransfer die n) s fun t => (∃ f, t.fab.outq = s.fab.outq ++ [⟨.ticket die n v.id, f, s.sys.sidt⟩] ∧
            f.dst = e.1 ∧ f.type = 0 ∧ f.payload = bs ∧ f.addr = BitVec.ofNat 48 (c.dst v.next) ∧ f.pkey = v.pkey ∧ f.tag = tag) ∧
            at_ t n fun w => w.next = v.next + 1))))

/-- 15 R344 to R350: admission, transfers and completion of collectives. The model's choices in it: log entries 38, 45. -/
def Obligations.CollectiveEventResult : Prop := collectiveMessage ∧ collectiveAdmission ∧ collectiveTransfer

/-- 13 R293, R294, R297, R315: slots, frames, SYNC and TIME flits. The model's choices in it: log entry 42. -/
def Sys2Proof.Claims.siderealTime : Prop :=
  ∀ (s : State) (p : Fin 16) (k : Fin 128) (sync agree : Bool) (src : BitVec 13),
    let a : State := s.toC0
    let base := fun (t : State) => t.ctxs = s.ctxs ∧ t.cores = s.cores ∧ t.agenda = s.agenda
    let known := s.fab.timeGood.any fun n => !s.fab.timeBad.contains n
    let peer := ∃ q : Fin 16, s.fab.portOn q = true ∧ (s.fab.lineTo s.sys.nodeid q src).isSome = true
    (Ends .slotBoundary s fun t => t.sys.sidt = BitVec.ofNat 64 (1024 * (s.sys.sidt.toNat / 1024 + 1)) ∧ base t ∧
      (t.fab.ephAct = if s.slot = 63 then !s.fab.ephAct else s.fab.ephAct) ∧
      (t.fab.rtA = if s.slot = 63 ∧ s.fab.rtPend = true then s.fab.rtS else s.fab.rtA) ∧
      (s.slot ≠ 63 → t.fab.rtPend = s.fab.rtPend ∧ t.fab.sync = s.fab.sync)) ∧
    (Ends (.frameBoundary agree) s fun t => t.sys.sidt = BitVec.ofNat 64 (65536 * (s.frame + 1)) ∧ base t ∧ t.fab.ephAct = !s.fab.ephAct ∧
      (t.fab.rtA = if s.fab.rtPend = true then s.fab.rtS else s.fab.rtA) ∧ t.fab.rtPend = false ∧
      t.fab.sync = (s.fab.sync || (s.fab.en && agree && known))) ∧
    (s.fab.sync = false → Makes .syncLoss s s) ∧
    (s.fab.sync = true → Ends .syncLoss s fun t => t.fab.sync = false ∧ t.sys.evSeq = s.sys.evSeq + 1 ∧ base t) ∧
    (s.fab.portOn p = false → Makes (.timeFlitRx p k ⟨src, sync⟩ agree) s a) ∧
    (s.fab.portOn p = true → Ends (.timeFlitRx p k ⟨src, sync⟩ agree) s fun t => OnlyFab a t ∧
      t.fab.link (linkOf p k) = { s.fab.link (linkOf p k) with peer := some src } ∧
      (∀ n, t.heard n = if n = src then sync else s.heard n) ∧
      (peer → if agree = true then src.toNat ∈ t.fab.timeGood else src.toNat ∈ t.fab.timeBad) ∧
      (¬ peer → t.fab.timeGood = s.fab.timeGood ∧ t.fab.timeBad = s.fab.timeBad))

/-- 13 R301, R304, R305: lease requests, their answers and confirmations. The model's choices in it: log entries 41, 53. -/
def Sys2Proof.Claims.leaseRequests : Prop :=
  ∀ (s : State) (r : LeaseReq) (src frm : BitVec 13) (l : Fin 256) (p : Fin 16) (g : BitVec 6) (n : BitVec 13),
    let a : State := s.toC0
    let two := s.frame + 2
    let cancelled := fun (t : State) => OnlyFab a t ∧ Queued t (.cancel frm src l p) ∧ t.fab.leases = s.fab.leases
    (s.fab.portOn r.rport = false ∨ 11 < s.slot → Makes (.leaseRequestRx r) s a) ∧
    (s.fab.portOn r.rport = true → s.slot ≤ 11 → Ends (.leaseRequestRx r) s fun t => OnlyFab a t ∧ t.fab.reqs = s.fab.reqs ++ [r] ∧
      (r.dst = s.sys.nodeid → t.fab.fwds = s.fab.fwds ∧ t.fab.ctlq = s.fab.ctlq) ∧
      (∀ k, r.dst ≠ s.sys.nodeid → s.fab.lineTo s.sys.nodeid 0 r.dst = some k →
        t.fab.fwds = s.fab.fwds ++ [⟨r, 0, k, none, none, s.frame, false⟩] ∧
        ∃ m : LeaseReq, Queued t (.request m) ∧ m.via = some s.sys.nodeid ∧ m.src = r.src ∧ m.dst = r.dst ∧ m.offer = r.offer)) ∧
    (∀ x, src ≠ s.sys.nodeid → Makes (.leaseAnswerRx src l p ⟨x, frm⟩) s { a with fab := { a.fab with
      fwds := s.fab.fwds.map fun y => if y.req.src = src ∧ y.req.lid = l ∧ y.req.sport = p then { y with answer := some x } else y } }) ∧
    (src = s.sys.nodeid → s.leasePort l p = none → Ends (.leaseAnswerRx src l p ⟨.grant g, frm⟩) s cancelled ∧
      Makes (.leaseAnswerRx src l p ⟨.denied, frm⟩) s a ∧ Ends (.leaseAnswerRx src l p ⟨.held g n, frm⟩) s cancelled) ∧
    (∀ v q, src = s.sys.nodeid → s.leasePort l p = some (v, q) →
      (∀ e, q.st = .requesting → q.held = false → q.sent = some e → e.toNat + 16000 < s.sys.sidt.toNat →
        Ends (.leaseAnswerRx src l p ⟨.grant g, frm⟩) s fun t => PortOver t l p ∧ Queued t (.cancel frm src l p) ∧
          ∀ w, t.fab.lease l = some w → w.why = .timeout) ∧
      (∀ e, q.st = .requesting → q.sent = some e → q.held = true ∨ s.sys.sidt.toNat ≤ e.toNat + 16000 →
        (Ends (.leaseAnswerRx src l p ⟨.grant g, frm⟩) s fun t => PortIs t l p { q with
            st := .granted, groups := g, eff := two
            fin := some (match q.fin with
              | some e => (if e.2 = .repaired then two else max two e.1, e.2) | none => (two + v.frames, .expired)) } ∧ t.cores = s.cores ∧
          (v.settled = true ∨ (∃ z ∈ v.ports, z.port ≠ p ∧ z.st = .requesting) → t.transit = s.transit) ∧
          (v.settled = false → (∀ z ∈ v.ports, z.port ≠ p → z.st ≠ .requesting) → t.transit = s.transit ++ arrivals v.core v.arr none)) ∧
        (q.retry ≠ 0 → v.rel = false → q.fin = none → Ends (.leaseAnswerRx src l p ⟨.denied, frm⟩) s fun t => OnlyFab a t ∧
          PortIs t l p { q with retry := q.retry - 1, age := q.age + 1, from_ := s.frame + 1, sent := none, held := false } ∧
          ∀ w, t.fab.lease l = some w → w.why = .denied) ∧
        (q.retry = 0 ∨ v.rel = true ∨ q.fin ≠ none → Ends (.leaseAnswerRx src l p ⟨.denied, frm⟩) s fun t => PortOver t l p) ∧
        (Ends (.leaseAnswerRx src l p ⟨.held g n, frm⟩) s fun t => OnlyFab a t ∧ PortIs t l p { q with held := true, fwd := some n })) ∧
      (∀ x, q.st = .granted ∨ q.st = .inEffect → Makes (.leaseAnswerRx src l p ⟨x, frm⟩) s a) ∧
      (q.st = .over ∨ (q.st = .requesting ∧ q.sent = none) → Ends (.leaseAnswerRx src l p ⟨.grant g, frm⟩) s cancelled ∧
        Ends (.leaseAnswerRx src l p ⟨.held g n, frm⟩) s cancelled ∧ Makes (.leaseAnswerRx src l p ⟨.denied, frm⟩) s a)) ∧
    (s.leasePort l p = none → Makes (.leaseAnswerTimeout l p) s s) ∧
    (∀ q, PortIs s l p q →
      let late := q.st = .requesting ∧ q.held = false ∧ ∃ t, q.sent = some t ∧ t.toNat + 16000 ≤ s.sys.sidt.toNat
      (¬ late → Makes (.leaseAnswerTimeout l p) s s) ∧ (late → Ends (.leaseAnswerTimeout l p) s fun t => PortOver t l p ∧ t.cores = s.cores)) ∧
    (s.fab.incomingOf src l p = none → Makes (.leaseConfirmRx src l p) s a) ∧
    (∀ i, s.fab.incomingOf src l p = some i → Ends (.leaseConfirmRx src l p) s fun t => OnlyFab a t ∧
      (t.fab.incoming = s.fab.incoming.map fun i =>
        if i.src = src ∧ i.lid = l.val ∧ i.sport = p.val then { i with held := false } else i) ∧
      ∀ j, j < 4 → 16 * j + i.line % 16 ≠ i.line → ∃ gs, Queued t (.displace i.rport (16 * j + i.line % 16) gs i.eff))

/-- 13 R293, R294, R297, R301, R304, R305, R315: Sidereal time, and lease requests with their answers. The model's choices in it: log
entries 41, 42, 53. -/
def Obligations.TimeAndRequestResult : Prop := siderealTime ∧ leaseRequests

/-- 13 R300, R303, R304, R322; 14 R339: notices of leases and landing rings. The model's choices in it: log entries 41, 42. -/
def Sys2Proof.Claims.leaseNotices : Prop :=
  ∀ (s : State) (src : BitVec 13) (l : Fin 256) (p : Fin 16) (k : Fin 128) (gs : BitVec 6) (fr : Nat) (r : Fin 1024) (head : W32),
    let a := s.toC0
    let two := s.frame + 2
    let inc := s.fab.incomingOf src l p
    let under := s.fab.fwds.find? fun x => x.about src l p
    let asked := s.fab.reqs.any fun q => q.src == src && q.lid == l && q.sport == p
    let ends := fun (i : Instr) (m : BitVec 13 → FabMsg) =>
      (under = none → inc = none → Ends i s fun t => OnlyFab a t ∧ t.fab.incoming = s.fab.incoming ∧ t.fab.ctlq = s.fab.ctlq ∧
        t.fab.early = if asked = true then (src, l.val, p.val) :: s.fab.early else s.fab.early) ∧
      (∀ x, under = some x → Ends i s fun t => OnlyFab a t ∧ t.fab.incoming = s.fab.incoming ∧ Queued t (m x.req.dst) ∧
        (t.fab.fwds = s.fab.fwds.map fun y => if y.about src l p = true then { y with ended := true } else y)) ∧
      (∀ x, under = none → inc = some x → Ends i s fun t => OnlyFab a t ∧ EndsIncoming s t src l p two ∧
        ∀ n z y, x.onward = some (n, z, y) → Queued t (m n))
    ends (.releaseNoticeRx src l p) (fun n => .release n src l p) ∧
    ends (.cancelNoticeRx src l p) (fun n => .cancel n src l p) ∧
    (inc = none → (src ≠ s.sys.nodeid → Makes (.revocationNoticeRx src l p) s a) ∧ Makes (.skewDetected src l p) s s) ∧
    (∀ i, inc = some i →
      (src ≠ s.sys.nodeid → Ends (.revocationNoticeRx src l p) s fun t => OnlyFab a t ∧ EndsIncoming s t src l p two ∧
        (i.onward ≠ none → Queued t (.revoke src src l p))) ∧
      Ends (.skewDetected src l p) s fun t => Emits s t (.skew src l p) ∧ t.sys.evSeq = s.sys.evSeq + 1 ∧
        t.fab.incoming = s.fab.incoming) ∧
    (s.fab.lease l = none → (src = s.sys.nodeid → Makes (.revocationNoticeRx src l p) s a) ∧ Makes (.skewNoticeRx l p) s a) ∧
    (∀ q, PortIs s l p q →
      (Ends (.skewNoticeRx l p) s fun t => OnlyFab a t ∧ PortIs t l p { q with noOrd := some (q.noOrd.getD (s.frame + 1)) }) ∧
      (src = s.sys.nodeid →
        let fr := if q.st = .granted then max two q.eff else two
        (q.st = .over ∨ (∃ e, q.fin = some e ∧ e.1 ≤ fr) → Ends (.revocationNoticeRx src l p) s fun t => OnlyFab a t ∧ PortIs t l p q) ∧
        (q.st ≠ .over → (∀ e, q.fin = some e → fr < e.1) → Ends (.revocationNoticeRx src l p) s fun t =>
          OnlyFab a t ∧ PortIs t l p { q with fin := some (fr, .revoked) }))) ∧
    (let marks : List Mark := s.fab.marks ++ [⟨fr, p, .displaced (k % 64) gs⟩]
     (two ≤ fr → Makes (.displacementNoticeRx p k ⟨gs, fr⟩) s { a with fab := { a.fab with marks := marks } }) ∧
     Ends (.displacementNoticeRx p k ⟨gs, fr⟩) s fun t => OnlyFab a t ∧ t.fab.marks = marks ∧ t.fab.leases = s.fab.leases) ∧
    ((∀ x, s.fab.ring r = some x → x.tx = false ∨ x.nslot < (head - x.a).toNat) → Makes (.rheadNoticeRx r head) s a) ∧
    (∀ x, s.fab.ring r = some x → x.tx = true → (head - x.a).toNat ≤ x.nslot → Ends (.rheadNoticeRx r head) s fun t => OnlyFab a t ∧
      t.fab.ring r = some { x with a := head } ∧ ∀ y, y ≠ r → t.fab.ring y = s.fab.ring y)

/-- 13 R303, R315, R317, R327: writes of the fabric's control registers. The model's choices in it: log entries 41, 42. -/
def Sys2Proof.Claims.fabricControl : Prop :=
  ∀ (s : State) (src : BitVec 13) (ports : BitVec 16) (v : W32) (j : Fin 256),
    let a := s.toC0
    let two := s.frame + 2
    let quiet := ∀ e ∈ s.fab.ctlq, ∀ d x y z, e.msg ≠ .revoke d x y z
    let lone := fun (i : Incoming) (cap : Nat) => s.fab.incoming = [i] ∧ i.rport < 16 ∧ two < i.fin ∧ cap < popCount i.groups ∧ quiet
    let pair := fun (i j : Incoming) (cap : Nat) => s.fab.incoming = [i, j] ∧ i.rport < 16 ∧ i.rport = j.rport ∧ i.src = j.src ∧
      two < i.fin ∧ two < j.fin ∧ i.seq < j.seq ∧ cap < popCount i.groups + popCount j.groups ∧ popCount i.groups ≤ cap ∧ quiet
    let back : Incoming → FabMsg := fun i => .revoke (i.via.getD i.src) i.src i.lid i.sport
    let ahead := fun (t : State) (i : Incoming) => ∀ n z y, i.onward = some (n, z, y) → Queued t (.revoke n i.src i.lid i.sport)
    let cap := min 6 (v.toNat % 8)
    (Ends (.fabricEnable ports) s fun t => OnlyFab a t ∧ t.fab.en = true ∧ t.fab.portEn = ports ∧ t.fab.leases = s.fab.leases ∧
      (∀ y, t.fab.link y = if s.fab.en = true ∧ s.fab.portEn.getLsbD (y / 64) = true then s.fab.link y else Link.init) ∧
      t.fab.store.length = s.fab.store.length ∧
      ∀ z ∈ t.fab.store, ∀ y, z.link = some y → s.fab.en = true ∧ s.fab.portEn.getLsbD (y / 64) = true) ∧
    (Ends (.fabricDisable ports) s fun t => t.fab.en = false ∧ t.fab.portEn = ports ∧ t.fab.sync = false ∧ t.fab.incoming = [] ∧
      t.fab.marks = [] ∧ t.fab.ctlq = [] ∧ t.fab.reqs = [] ∧ t.fab.fwds = [] ∧ t.fab.repairs = [] ∧ t.fab.wire = s.fab.wire ∧
      t.cores = s.cores ∧ t.mem = s.mem ∧ (∀ n, t.heard n = false) ∧ ∀ y x, t.fab.lease y = some x → ∀ q ∈ x.ports, q.st = .over) ∧
    Makes .routingCommit s { a with fab := { a.fab with rtPend := true } } ∧
    (Ends (.lpolWrite v) s fun t => OnlyFab a t ∧ t.fab.srcCap = cap ∧ t.fab.incoming = s.fab.incoming ∧
      (s.fab.incoming = [] → t.fab.ctlq = s.fab.ctlq) ∧ (∀ i, lone i cap → Queued t (back i) ∧ ahead t i) ∧
      ∀ i j, pair i j cap → Queued t (back j) ∧ ahead t j ∧
        (back i ≠ back j → (∀ n z y, j.onward = some (n, z, y) → back i ≠ .revoke n j.src j.lid j.sport) → ¬ Queued t (back i))) ∧
    (Ends (.revokeWrite src ports) s fun t => OnlyFab a t ∧ t.fab.incoming = s.fab.incoming ∧
      ∀ i ∈ s.fab.incoming, i.src = src → ports.getLsbD i.rport = true → Queued t (back i)) ∧
    (Ends (.membershipWrite j v) s fun t => OnlyFab a t ∧ t.fab.incoming = s.fab.incoming ∧
      (∀ y, t.fab.member.get 0x180000#32 y = if y = j.val then v &&& 0x80FFFFFF else s.fab.member.get 0x180000#32 y) ∧
      (v.getLsbD 31 = false → t.fab.ctlq = s.fab.ctlq) ∧
      ∀ i, v.getLsbD 31 = true → i.pkey.toNat = v.toNat % 65536 → lone i (v.toNat / 65536 % 128) → Queued t (back i) ∧ ahead t i)

/-- 13 R300, R303, R304, R315, R317, R322; 14 R339: notices, and writes of the fabric's control registers. The model's choices in it: log
entries 41, 42. -/
def Obligations.LeaseNoticeResult : Prop := leaseNotices ∧ fabricControl

/-- A mark on port `p` from frame `fr` on. -/
def Marked (t : State) (fr p : Nat) (w : MarkWhat) : Prop := (⟨fr, p, w⟩ : Mark) ∈ t.fab.marks

/-- The tap of comb line `j` of port `p` shows light for certain; of a secondary line, a spare comb serves the port with light on every
secondary line that is not in use (14 R332, R335). -/
def Powered (s : State) (p j : Nat) : Prop :=
  s.fab.dark.get false (128 * p + j) = false ∧ (64 ≤ j → s.fab.spcDark.get false p = false ∧
    ∀ i, i < 64 → s.fab.dark.get false (128 * p + 64 + i) = false ∨ s.fab.ownLine s.frame p i = some (i + 64))

/-- 01 R20; 14 R332 to R335: losses and failures. The model's choices in it: log entries 42, 43. -/
def Sys2Proof.Claims.losses : Prop :=
  ∀ (s : State) (p : Fin 16) (k : Fin 128) (e : Fin 18) (ch : Fin 36) (b : Bool),
    let two := s.frame + 2
    let byHost := s.sys.sysmode.getLsbD 1 = true ∨ s.sys.sysmode.getLsbD 2 = true
    let other := (k.val + 64) % 128
    let used := s.fab.ownLine s.frame p (k.val % 64) = some k.val
    let gone := s.fab.dark.get false (128 * p.val + k) = true
    let d : State := { s with fab := { s.fab with dark := s.fab.dark.set false (128 * p.val + k) true } }
    let det := 18 + e.val
    let ent := s.fab.active p s.slot det
    let sees := s.fab.portOn p = true ∧ ephUse ent ≠ 0 ∧ (s.fab.link (64 * p.val + ephLine ent % 64)).peer.any s.heard = true ∧
      s.fab.los.get false (36 * p.val + det) = false
    let mends := fun (t : State) (c : Option Nat) (y : Nat) => ∃ r ∈ t.fab.repairs, r.port = p ∧ r.line = y ∧ r.chan = c
    (gone → Makes (.lossOfLight p (.one k)) s s.draw) ∧ (¬ gone → 64 ≤ k.val → ¬ used → Makes (.lossOfLight p (.one k)) s d.draw) ∧
    (¬ gone → k.val < 64 → ¬ used → Ends (.lossOfLight p (.one k)) s fun t => OnlyFabFree s t ∧ t.fab.dark = d.fab.dark ∧
      NotesOne s t 1 p (s.sender p k) ∧ t.fab.store = s.fab.store ∧ t.fab.repairs = s.fab.repairs ∧ t.fab.wire = s.fab.wire) ∧
    (¬ gone → used → Ends (.lossOfLight p (.one k)) s fun t => OnlyFabFree s t ∧ t.fab.dark = d.fab.dark ∧ t.fab.store = s.fab.store ∧
      t.fab.repairs = s.fab.repairs ∧ t.fab.wire = s.fab.wire ∧ t.fab.evq = s.fab.evq ∧ ∃ x : EvRec, t.fab.lol = s.fab.lol ++ [(p.val, k.val, x)] ∧
        x.type = 1 ∧ x.port = p ∧ x.chan = s.sender p k ∧ x.line = some k.val ∧ x.tdet = s.sys.sidt) ∧
    (∀ x, s.fab.lol = [(p.val, k.val, x)] → Ends .slotBoundary s fun t => t.fab.lol = [] ∧
      (∀ n ∈ s.concerned p k, s.fab.sync = true → s.tellable n = true →
        Goes { s with sys := { s.sys with sidt := s.slotEnd - 1 } } t (.loss (some n) false p k)) ∧
      (t.fab.store.length = s.fab.store.length ∧ ∀ y ∈ t.fab.store, y.link ≠ some (linkOf p k)) ∧
      (byHost → mends t none k) ∧ (¬ byHost → Powered s p other → mends t none k) ∧
      (¬ byHost → (∀ r ∈ s.fab.repairs, r.port ≠ p) → 64 ≤ other → s.fab.spcDark.get false p = true →
        Marked t two p (.lineGone (k % 64)))) ∧
    (Ends (.lossOfLight p (.fed k)) s fun t => OnlyFabFree s t ∧
      (k.val < 64 → ∀ q j, q < 16 → q / 4 = p.val / 4 → j < 64 → j % 4 = k.val % 4 → t.fab.lineLit q j = false) ∧
      (64 ≤ k.val → ∀ q, q < 16 → q / 4 = p.val / 4 → t.fab.spcDark.get false q = true)) ∧
    (¬ sees → Makes (.lossOfSignal p e b) s s) ∧
    (sees → (Ends (.lossOfSignal p e b) s fun t => OnlyFab s t ∧ Notes t 2 p ∧ t.fab.los.get false (36 * p.val + det) = true ∧
        (∀ n ∈ s.concernedIn p (ephLine ent), s.fab.sync = true → s.tellable n = true → Goes s t (.loss (some n) true p (ephLine ent))) ∧
        (b = false → NotesOne s t 2 p det)) ∧
      (s.fab.spareFree p 34 = true → e ≠ 16 → Ends (.lossOfSignal p e true) s fun t =>
        Marked t (s.frame + 1) p (.spare 34 ((s.fab.plays s.frame p det).getD det)))) ∧
    (Ends (.drift p ch) s fun t => OnlyFab s t ∧ NotesOne s t 3 p ch) ∧
    (Ends (.retune p ch) s fun t => OnlyFab s t ∧ NotesOne s t 4 p ch ∧ t.fab.unlocked.get false (36 * p.val + ch) = true) ∧
    (let back := s.fab.unlocked.get false (36 * p.val + ch) = true ∧ s.fab.chGone two p ch = false
     (¬ back → Makes (.retuneRelock p ch) s s) ∧
     (back → Ends (.retuneRelock p ch) s fun t => OnlyFab s t ∧ t.fab.unlocked = s.fab.unlocked.set false (36 * p.val + ch) false ∧
       t.fab.evq = s.fab.evq)) ∧
    (Ends (.lockfail p ch) s fun t => OnlyFabFree s t ∧ t.fab.unlocked.get false (36 * p.val + ch) = true ∧ Notes t 5 p ∧
      (s.fab.plays s.frame p ch = none → NotesOne s t 5 p ch) ∧
      ∀ c, s.fab.plays s.frame p ch = some c → c < 18 → byHost →
        (∃ i, i < 4 ∧ ∃ y, s.fab.ownLine s.frame p (16 * i + c) = some y ∧ s.fab.lineLit p y = true) → mends t (some c) c) ∧
    (Ends (.spareCombLightChange p b) s fun t => OnlyFab s t ∧
      (∀ q, q < 16 → t.fab.spcDark.get false q = if q / 4 = p.val / 4 then !b else s.fab.spcDark.get false q) ∧
      ∀ q j, q < 16 → j < 128 → t.fab.dark.get false (128 * q + j) =
        if q / 4 = p.val / 4 ∧ 64 ≤ j then (if b = true ∧ s.fab.ownLine s.frame q (j - 64) ≠ some j then false
          else if b = true then s.fab.dark.get false (128 * q + j) else true)
        else s.fab.dark.get false (128 * q + j))

/-- 14 R335, R338: attempts, and the host's answers. The model's choices in it: log entry 43. -/
def Sys2Proof.Claims.attempts : Prop :=
  ∀ (s : State) (p : Fin 16) (k : Fin 128) (m : Fin 64) (b : Bool),
    let a := s.toC0
    let two := s.frame + 2
    let other := (k.val + 64) % 128
    ((∀ r ∈ s.fab.repairs, ¬(r.port = p ∧ r.line = k ∧ r.waiting = false ∧ r.queued = false)) → Makes (.spareAttemptEnd p k b) s s) ∧
    (∀ r, s.fab.repairs = [r] → r.port = p → r.line = k → r.waiting = false → r.queued = false → r.chan = none → r.attempt = 0 →
      (Powered s p other → Ends (.spareAttemptEnd p k true) s fun t => OnlyFabFree s t ∧ t.fab.repairs = [] ∧ Notes t 6 p ∧
        Marked t two p (.line (k % 64) (decide (64 ≤ other))) ∧ Marked t two p (.lit other) ∧ Marked t two p (.heard k)) ∧
      (Ends (.spareAttemptEnd p k false) s fun t => Notes t 7 p ∧ OnlyFabFree s t) ∧
      (s.fab.spcDark.get false p = true → Ends (.spareAttemptEnd p k false) s fun t => t.fab.repairs = [] ∧
        Marked t two p (.lineGone (k % 64)))) ∧
    (s.fab.awaiting p m = none → Makes (.repansSpareComb p m) s a.draw ∧ Makes (.repansSpareEmitter p m) s a.draw ∧
      Makes (.repansRetryOriginal p m) s a.draw ∧ Makes (.repansRemove p m) s a ∧ Makes (.repansTimeout p m) s s) ∧
    (∀ r, s.fab.awaiting p m = some r →
      let due := r.since.toNat + 10000000 ≤ s.sys.sidt.toNat
      let out : MarkWhat := match r.chan with | some c => .chGone (s.fab.serves s.frame p c) | none => .lineGone m
      (Ends (.repansRemove p m) s fun t => OnlyFab a t ∧ t.fab.repairs = s.fab.repairs.erase r ∧ Marked t two p out ∧ Notes t 8 p) ∧
      (¬ due → Makes (.repansTimeout p m) s s) ∧
      (due → Ends (.repansTimeout p m) s fun t => OnlyFab s t ∧ t.fab.repairs = s.fab.repairs.erase r ∧ Marked t two p out ∧ Notes t 8 p)) ∧
    (∀ r, s.fab.awaiting p m = some r → r.chan = none → r.line < 128 →
      let tries := fun (i : Instr) (n : Nat) => Ends i s fun t => OnlyFabFree a t ∧
        t.fab.repairs = s.fab.repairs.erase r ++ [{ r with
          attempt := n, byHost := true, waiting := false, queued := if n = 3 then r.queued else false }]
      (r.line < 64 → Powered s p (r.line + 64) → tries (.repansSpareComb p m) 0) ∧
      (64 ≤ r.line → tries (.repansSpareComb p m) 3) ∧
      (s.fab.spareFree p 16 = true → (∀ z ∈ s.fab.repairs, z.port = p → z.waiting = false → z.attempt ≠ 1) → r.line < 64 ∨ Powered s p r.line → tries (.repansSpareEmitter p m) 1) ∧
      (r.line < 64 → tries (.repansRetryOriginal p m) 3) ∧
      (64 ≤ r.line → Powered s p (r.line - 64) → tries (.repansRetryOriginal p m) 0))

/-- 14 R334, R336, R337: what the peers' notices do. The model's choices in it: log entry 43. -/
def Sys2Proof.Claims.peersTell : Prop :=
  ∀ (s : State) (p : Fin 16) (k k2 : Fin 128) (lid : Fin 256) (fr : Nat),
    let a := s.toC0
    let told := fun (x : Bool) => s.fab.lossTold.set false (128 * p.val + k % 64) x
    let seen := s.fab.los.set false (36 * p.val + s.fab.serves s.frame p (18 + k % 16)) false
    let shut := fun (t : State) (on : Incoming → Prop) => ∀ i ∈ t.fab.incoming, on i → i.fin ≤ max fr i.eff
    (Ends (.lossNoticeRx false p k) s fun t => OnlyFab a t ∧ t.fab.lossTold = s.fab.lossTold ∧
      t.fab.link (linkOf p k) = { s.fab.link (linkOf p k) with replay := none }) ∧
    (Ends (.lossNoticeRx true p k) s fun t => OnlyFab a t ∧ t.fab.lossTold = told true ∧ t.fab.store.length = s.fab.store.length ∧
      ∀ x ∈ t.fab.store, x.link ≠ some (linkOf p k)) ∧
    (fr ≤ s.frame → Makes (.substNoticeRx true p k ⟨k2, fr⟩) s { a with fab := { a.fab with lossTold := told false } }) ∧
    (s.frame < fr → Ends (.substNoticeRx true p k ⟨k2, fr⟩) s fun t => OnlyFab a t ∧ t.fab.marks = s.fab.marks ++ [⟨fr, p, .heard k⟩]) ∧
    (Ends (.substNoticeRx false p k ⟨k2, fr⟩) s fun t => OnlyFab a t ∧ t.fab.los = seen ∧
      t.fab.marks = if k = k2 then s.fab.marks else s.fab.marks ++ [⟨fr, p, .inLine (k % 64) (decide (64 ≤ k2.val))⟩]) ∧
    (Ends (.removeNoticeRx true none p ⟨k, fr⟩) s fun t => OnlyFab a t ∧ Marked t fr p (.lineGone (k % 64))) ∧
    (Ends (.removeNoticeRx false none p ⟨k, fr⟩) s fun t => OnlyFab a t ∧ Marked t fr p (.inGone (k % 64)) ∧ t.fab.los = seen ∧
      shut t fun i => i.rport = p ∧ i.line = k.val % 64) ∧
    (s.fab.lease lid = none → Makes (.removeNoticeRx true (some lid) p ⟨k, fr⟩) s a) ∧
    (∀ q, PortIs s lid p q → q.st = .inEffect ∨ q.st = .granted → q.fin = none → Ends (.removeNoticeRx true (some lid) p ⟨k, fr⟩) s fun t =>
      OnlyFab a t ∧ PortIs t lid p { q with fin := some (if q.st = .granted then q.eff else fr, .repaired) }) ∧
    (Ends (.removeNoticeRx false (some lid) p ⟨k, fr⟩) s fun t => OnlyFab a t ∧
      shut t fun i => i.rport = p ∧ i.lid = lid ∧ i.line = k.val % 64)

/-- 01 R20; 14 R332 to R338: losses, repairs and what they tell. The model's choices in it: log entries 42, 43. -/
def Obligations.RepairResult : Prop := losses ∧ attempts ∧ peersTell

/-! ## The machine as a whole -/

/-- 05 R91: a step in which core `k`'s context 0 has the turn runs the instruction at its pc. Around it stand: a tick before, the
arrivals of a resumption, context 1's part of the cycle, the stall count of the group's array, and the turn that passes on. A happening
that the agenda lists is run as it stands. In D3 nothing but a boot happens (17 R387). The turns are the model's: log entry 2. The
model's choices in it: log entries 2, 15. -/
def Obligations.StepRunsInstruction : Prop :=
  (∀ (s : State) (k : Nat) (i : Instr) (ws : List Nat) (n : Nat) (u : State), TurnOf s k →
    let x := 2 * k
    let v := u.latch x ws (BitVec.ofNat 48 n)
    (s.tick x).atHalt x = false → (s.tick x).slackOver x = false → AtPc (s.tick x) u x i ws n → (v.ctx x).clearOf i = true →
    (∀ t w, tryWords (bundleEffs [i]) v x ≠ .wait t w) →
    step s = andThen (exec i { v.settleLoads x [i] with cur := x }) fun t =>
      andThen (second k (some [unitOf i]) false false (t.deliverResume x)) fun t =>
        .next (if k % 4 = 0 then t.stallTick (k / 4) else t).passTurn) ∧
  (∀ (s : State) (k : Nat) (us : Option (List Nat)), (s.ctx (2 * k + 1)).running = false →
    second k us false false s = .next (s.upCore k fun c => { c with w := 0, forced := false })) ∧
  (∀ (s : State) (i : Instr) (rest : List Instr), s.agenda = i :: rest → s.sys.d3 = false → (wordEff i).isSome = false →
    step s = exec i { s with agenda := rest }) ∧
  (∀ s : State, s.agenda = [] → s.sys.d3 = true → step s = .fault .poweredDown)

/-- 04 R69, R73 to R83, 05 R99, 06 R116, R118, R119, R131, 08 R168: words whose encoding the spec writes out, and bundles that are refused. -/
def Obligations.WordsDecode : Prop :=
  decodeTableWord 32 0x880E6001 = some (.addi 7 6 1) ∧ decodeTableWord 32 0x948B0009 = some (.ldc 5 .d 9) ∧
  decodeTableWord 32 0x8C70000E = some (.jmp 14) ∧ decodeTableWord 32 0x858A6307 = some (.extr 5 6 12 7) ∧
  decodeTableWord 32 0x8C08FFF0 = some (.br .nz 3 (-16)) ∧ decodeTableWord 32 0x8CC1F000 = some (.jr 31) ∧
  decodeTableWord 32 0xF100007F = some .halt ∧ decodeTableWord 32 0xA0020407 = some (.vaddI32 2 (.row 4) (.row 7)) ∧
  decodeTableWord 32 0xA0024506 = some (.vaddI32 2 (.col 5) (.row 6)) ∧ decodeTableWord 32 0xAC040927 = some (.vcvt 4 (.row 9) .f32ToE4m3 1 false) ∧
  decodeTableWord 32 0xA9080203 = some (.vfmaF32 8 (.row 2) (.row 3)) ∧
  decodeTableWord 64 (0xFA580000 + 2 ^ 32 * 0x24CA0203) = some (.vlut3 10 (.row 2) (.row 3) 0x96) ∧
  decodeBundle 0 96 8 [0xF8600000, 0x080606A0] = .ok ⟨[0xF8600000, 0x080606A0], [.addi 3 0 100000]⟩ ∧
  decodeBundle 0 96 8 [0xA0020406] = .error (0, .view, 0xA0020406) ∧ decodeBundle 0 96 8 [0x80000000, 0x08021001] = .error (1, .compose, 0x08021001) ∧
  decodeBundle 0 96 8 [0x80000000, 1] = .error (1, .reserved, 1) ∧
  decodeBundle 0 96 8 [0xF8600000] = .error (0, .header, 0xF8600000)

/-- 04 R75 to R83: decoding the encoding of an instruction word gives it back, with every operand at every value that its encoding
admits. Left out are words that no encoding can tell apart, those whose selectors break the bank rule, and loops that end inside their
own bundle, which the decoder refuses. -/
def Obligations.EncodeDecodes : Prop :=
  ∀ (i : Instr) (x : WordInfo), i.info = some x → i.wf = true → Named i → selsBad x.sels = false →
    (∀ e, x.endOff = some e → (encode i).length ≤ e) → decodeBundle 0 96 8 (encode i) = .ok ⟨encode i, [i]⟩

/-- Every step keeps physical memory in its canonical form, from every state in which it stands so. The model's choices in it: log entry
5. -/
def Obligations.StepKeepsCanonical : Prop := ∀ s t : State, s.canonical → step s = .next t → t.canonical

/-- 05 R92, R103; 13 R294, R297; 17 R387, R388, R391: the device right after reset. The model's choices in it: log entries 3, 6. -/
def Obligations.ResetState : Prop :=
  State.reset.canonical ∧ (∀ x, (State.reset.ctx x).occ = none ∧ (State.reset.ctx x).legal) ∧
    (∀ k, (State.reset.core k).w = 0 ∧ (State.reset.core k).forced = false) ∧
    State.reset.fab.en = false ∧ State.reset.fab.sync = false ∧ State.reset.sys.ltr = 0 ∧ State.reset.sys.w2base = 0 ∧
    (∀ i, State.reset.sys.mreg.get 0 i = 0) ∧ (∀ i, State.reset.sys.worldCarve.get false i = false ∧ State.reset.sys.worldCore.get false i = false ∧
      State.reset.sys.worldPort.get false i = false ∧ State.reset.sys.worldOrrery.get false i = false ∧
      State.reset.sys.worldMeridian.get false i = false ∧ State.reset.sys.worldQueue.get false i = false) ∧
    (∀ p sl c, p < 16 → sl < 64 → c < 18 → ∀ d, d = 0 ∨ d = 18 →
      let w := State.reset.fab.active p sl (d + c)
      (c < 16 → ephUse w = 1 ∧ ephLine w = 16 * (sl % 4) + c) ∧ (16 ≤ c → w = 0))
end

