-- ==== Sys2Proof/Laws/SMap.lean ====
section
/-! SUPPORT. Sparse maps: reading after a write, and the canonical form. -/

namespace Sys2Proof.SMap

variable {α : Type}

@[simp] theorem get_nil (d : α) (k : Nat) : get d [] k = d := rfl

@[simp] theorem get_put_self (d : α) (m : SMap α) (k : Nat) (v : α) : (m.put k v).get d k = v := by
  induction m with
  | nil => simp [put, get]
  | cons e m ih =>
    obtain ⟨j, w⟩ := e
    simp only [put]
    split
    · simp [get]
    · split
      · simp [get]
      · simp [get, *]

theorem get_put_of_ne (d : α) (m : SMap α) {k j : Nat} (v : α) (h : j ≠ k) : (m.put k v).get d j = m.get d j := by
  induction m with
  | nil => simp [put, get, h]
  | cons e m ih =>
    obtain ⟨i, w⟩ := e
    simp only [put]
    split
    · simp [get, h]
    · split
      · subst_vars; simp [get, h]
      · simp [get, ih]

theorem get_put (d : α) (m : SMap α) (k j : Nat) (v : α) : (m.put k v).get d j = if j = k then v else m.get d j := by
  split
  · subst_vars; simp
  · exact get_put_of_ne d m v ‹_›

@[simp] theorem get_del_self (d : α) (m : SMap α) (k : Nat) : (m.del k).get d k = d := by
  induction m with
  | nil => rfl
  | cons e m ih =>
    obtain ⟨j, w⟩ := e
    simp only [del]
    split
    · exact ih
    · simp [get, *]

theorem get_del_of_ne (d : α) (m : SMap α) {k j : Nat} (h : j ≠ k) : (m.del k).get d j = m.get d j := by
  induction m with
  | nil => rfl
  | cons e m ih =>
    obtain ⟨i, w⟩ := e
    simp only [del]
    split
    · subst_vars; simp [get, h, ih]
    · simp [get, ih]

variable [DecidableEq α]

@[simp] theorem get_set_self (d : α) (m : SMap α) (k : Nat) (v : α) : (m.set d k v).get d k = v := by
  unfold set
  split
  · simp [*]
  · simp

theorem get_set_of_ne (d : α) (m : SMap α) {k j : Nat} (v : α) (h : j ≠ k) : (m.set d k v).get d j = m.get d j := by
  unfold set
  split
  · exact get_del_of_ne d m h
  · exact get_put_of_ne d m v h

theorem get_set (d : α) (m : SMap α) (k j : Nat) (v : α) : (m.set d k v).get d j = if j = k then v else m.get d j := by
  split
  · subst_vars; simp
  · exact get_set_of_ne d m v ‹_›

omit [DecidableEq α] in
theorem above_put {b k : Nat} {m : SMap α} {v : α} (h : above b m = true) (hk : b < k) : above b (m.put k v) = true := by
  induction m with
  | nil => simp [put, above, hk]
  | cons e m ih =>
    obtain ⟨j, w⟩ := e
    simp only [above, Bool.and_eq_true, decide_eq_true_eq] at h
    simp only [put]
    split
    · simp [above, *]
    · split
      · simp [above, *]
      · simp [above, h.1, ih h.2]

omit [DecidableEq α] in
theorem above_del {b k : Nat} {m : SMap α} (h : above b m = true) : above b (m.del k) = true := by
  induction m with
  | nil => rfl
  | cons e m ih =>
    obtain ⟨j, w⟩ := e
    simp only [above, Bool.and_eq_true, decide_eq_true_eq] at h
    simp only [del]
    split
    · exact ih h.2
    · simp [above, h.1, ih h.2]

omit [DecidableEq α] in
theorem above_mono {a b : Nat} {m : SMap α} (h : above b m = true) (hab : a ≤ b) : above a m = true := by
  induction m with
  | nil => rfl
  | cons e m ih =>
    obtain ⟨j, w⟩ := e
    simp only [above, Bool.and_eq_true, decide_eq_true_eq] at h ⊢
    exact ⟨by omega, ih h.2⟩

omit [DecidableEq α] in
theorem above_filter {b : Nat} {m : SMap α} (p : Nat × α → Bool) (h : above b m = true) : above b (m.filter p) = true := by
  induction m with
  | nil => rfl
  | cons e m ih =>
    obtain ⟨j, w⟩ := e
    simp only [above, Bool.and_eq_true, decide_eq_true_eq] at h
    simp only [List.filter]
    split
    · simp [above, h.1, ih h.2]
    · exact ih h.2

theorem wf_put {d : α} {m : SMap α} {k : Nat} {v : α} (h : m.wf d = true) (hv : v ≠ d) : (m.put k v).wf d = true := by
  induction m with
  | nil => simp [put, wf, above, hv]
  | cons e m ih =>
    obtain ⟨j, w⟩ := e
    simp only [wf, Bool.and_eq_true, bne_iff_ne] at h
    simp only [put]
    split
    · rename_i hk
      simp [wf, above, hv, h.1.1, h.1.2, h.2, hk, above_mono h.1.1 (Nat.le_of_lt hk)]
    · split
      · rename_i hk; subst hk
        simp [wf, hv, h.1.1, h.2]
      · have hjk : j < k := by omega
        simp [wf, above_put h.1.1 hjk, h.1.2, ih h.2]

theorem wf_del {d : α} {m : SMap α} {k : Nat} (h : m.wf d = true) : (m.del k).wf d = true := by
  induction m with
  | nil => rfl
  | cons e m ih =>
    obtain ⟨j, w⟩ := e
    simp only [wf, Bool.and_eq_true, bne_iff_ne] at h
    simp only [del]
    split
    · exact ih h.2
    · simp [wf, above_del h.1.1, h.1.2, ih h.2]

/-- A write keeps the canonical form. -/
theorem wf_set {d : α} {m : SMap α} {k : Nat} {v : α} (h : m.wf d = true) : (m.set d k v).wf d = true := by
  unfold set
  split
  · exact wf_del h
  · exact wf_put h ‹_›

/-- Dropping entries keeps the canonical form. -/
theorem wf_filter {d : α} {m : SMap α} (p : Nat × α → Bool) (h : m.wf d = true) : wf d (m.filter p) = true := by
  induction m with
  | nil => rfl
  | cons e m ih =>
    obtain ⟨j, w⟩ := e
    simp only [wf, Bool.and_eq_true, bne_iff_ne] at h
    simp only [List.filter]
    split
    · simp [wf, above_filter p h.1.1, h.1.2, ih h.2]
    · exact ih h.2

/-- Two maps in canonical form that read alike are equal. -/
theorem wf_ext {d : α} {m n : SMap α} (hm : m.wf d = true) (hn : n.wf d = true) (h : ∀ k, m.get d k = n.get d k) : m = n := by
  have low : ∀ (m : SMap α) (b k : Nat), above b m = true → k ≤ b → m.get d k = d := by
    intro m
    induction m with
    | nil => intros; rfl
    | cons e m ih =>
      intro b k ha hk
      obtain ⟨j, w⟩ := e
      simp only [above, Bool.and_eq_true, decide_eq_true_eq] at ha
      simp only [get, if_neg (show k ≠ j by omega)]
      exact ih b k ha.2 hk
  induction m generalizing n with
  | nil =>
    cases n with
    | nil => rfl
    | cons e n =>
      obtain ⟨j, w⟩ := e
      simp only [wf, Bool.and_eq_true, bne_iff_ne] at hn
      have := h j
      simp [get] at this
      exact absurd this.symm hn.1.2
  | cons e m ih =>
    obtain ⟨i, v⟩ := e
    simp only [wf, Bool.and_eq_true, bne_iff_ne] at hm
    cases n with
    | nil =>
      have := h i
      simp [get] at this
      exact absurd this hm.1.2
    | cons e n =>
      obtain ⟨j, w⟩ := e
      simp only [wf, Bool.and_eq_true, bne_iff_ne] at hn
      have hi := h i
      have hj := h j
      simp only [get, if_true] at hi hj
      have hij : i = j := by
        by_contra hne
        rw [if_neg hne] at hi
        rw [if_neg (Ne.symm hne)] at hj
        rcases Nat.lt_or_gt_of_ne hne with hlt | hgt
        · rw [low n j i hn.1.1 (by omega)] at hi; exact hm.1.2 hi
        · rw [low m i j hm.1.1 (by omega)] at hj; exact hn.1.2 hj.symm
      subst hij
      simp only [if_true] at hi
      subst hi
      congr 1
      refine ih hm.2 hn.2 fun k => ?_
      by_cases hk : k = i
      · subst hk
        rw [low m k k hm.1.1 (Nat.le_refl k), low n k k hn.1.1 (Nat.le_refl k)]
      · have := h k
        simpa [get, hk] using this

end Sys2Proof.SMap
end

