-- ==== Sys2Proof/Laws/Memory.lean ====
section
/-! SUPPORT. Physical memory and scratchpad: what a write leaves, and the canonical form. -/

namespace Sys2Proof.Machine

/-- Every byte of a memory after a write: the bytes written, and all others as before. -/
theorem memWr_get (m : SMap Byte) (pa a : Nat) (bs : List Byte) :
    (memWr m pa bs).get memDefault a = if pa ≤ a ∧ a < pa + bs.length then bs.getD (a - pa) 0 else m.get memDefault a := by
  induction bs generalizing m pa with
  | nil => simp only [memWr, List.length_nil]; rw [if_neg (by omega)]
  | cons b bs ih =>
    simp only [memWr, ih, SMap.get_set, List.length_cons]
    by_cases h1 : pa + 1 ≤ a ∧ a < pa + 1 + bs.length
    · rw [if_pos h1, if_pos (by omega)]
      obtain ⟨k, hk⟩ : ∃ k, a - pa = k + 1 := ⟨a - pa - 1, by omega⟩
      rw [hk, List.getD_cons_succ, show a - (pa + 1) = k by omega]
    · rw [if_neg h1]
      by_cases h2 : a = pa
      · subst h2; simp
      · rw [if_neg h2, if_neg (by omega)]

theorem memWr_get_of_outside (m : SMap Byte) (pa a : Nat) (bs : List Byte) (h : a < pa ∨ pa + bs.length ≤ a) :
    (memWr m pa bs).get memDefault a = m.get memDefault a := by
  rw [memWr_get, if_neg (by omega)]

@[simp] theorem memRd_length (m : SMap Byte) (pa n : Nat) : (memRd m pa n).length = n := by
  induction n generalizing pa with
  | zero => rfl
  | succ n ih => simp [memRd, ih]

theorem memRd_getD (m : SMap Byte) (pa n i : Nat) (h : i < n) : (memRd m pa n).getD i 0 = m.get memDefault (pa + i) := by
  induction n generalizing pa i with
  | zero => omega
  | succ n ih =>
    cases i with
    | zero => rfl
    | succ i => simp only [memRd, List.getD_cons_succ, ih (pa + 1) i (by omega)]; congr 1; omega

/-- Two memories that agree on a range read alike there. -/
theorem memRd_congr {m m' : SMap Byte} (pa n : Nat) (h : ∀ a, pa ≤ a → a < pa + n → m.get memDefault a = m'.get memDefault a) :
    memRd m pa n = memRd m' pa n := by
  induction n generalizing pa with
  | zero => rfl
  | succ n ih =>
    simp only [memRd, h pa (Nat.le_refl pa) (by omega)]
    rw [ih (pa + 1) fun a h1 h2 => h a (by omega) (by omega)]

/-- A read of the bytes just written gives them back. -/
theorem memRd_memWr (m : SMap Byte) (pa : Nat) (bs : List Byte) : memRd (memWr m pa bs) pa bs.length = bs := by
  induction bs generalizing m pa with
  | nil => rfl
  | cons b bs ih =>
    simp only [List.length_cons, memRd, memWr]
    rw [ih, memWr_get_of_outside _ _ _ _ (by omega), SMap.get_set_self]

/-- A write leaves a read of other bytes alone. -/
theorem memRd_memWr_of_apart (m : SMap Byte) (pa qa n : Nat) (bs : List Byte) (h : qa + n ≤ pa ∨ pa + bs.length ≤ qa) :
    memRd (memWr m pa bs) qa n = memRd m qa n :=
  memRd_congr qa n fun a h1 h2 => memWr_get_of_outside m pa a bs (by omega)

/-- A write keeps the canonical form of a memory. -/
theorem memWr_wf {m : SMap Byte} (pa : Nat) (bs : List Byte) (h : Memory.wf m = true) : Memory.wf (memWr m pa bs) = true := by
  induction bs generalizing m pa with
  | nil => exact h
  | cons b bs ih => exact ih (pa + 1) (SMap.wf_set h)

/-- The canonical form of physical memory after a write through `State.wr`. -/
theorem State.wr_wf {s : State} (tag : BitVec 12) (pa : Nat) (bs : List Byte) (h : Memory.wf s.mem = true) :
    Memory.wf (s.wr tag pa bs).mem = true := by
  unfold State.wr
  split
  · exact h
  · exact memWr_wf _ _ h

/-- Memory after a write through `State.wr`. -/
theorem State.wr_mem (s : State) (tag : BitVec 12) (pa : Nat) (bs : List Byte) : (s.wr tag pa bs).mem = memWr s.mem pa bs := by
  unfold State.wr
  split <;> rfl

/-- A write to memory changes memory and the records of its cache lines, and nothing else. -/
theorem State.wr_frame (s : State) (tag : BitVec 12) (pa : Nat) (bs : List Byte) :
    s.wr tag pa bs = { s with mem := (s.wr tag pa bs).mem, lines := (s.wr tag pa bs).lines } := by
  unfold State.wr
  split <;> rfl

/-- A read of the bytes just written at a physical address gives them back. -/
theorem State.rd_wr (s : State) (tag : BitVec 12) (pa : Nat) (bs : List Byte) : (s.wr tag pa bs).rd pa bs.length = bs := by
  rw [State.rd, State.wr_mem, memRd_memWr]

/-- A write leaves a read of other physical addresses alone. -/
theorem State.rd_wr_of_apart (s : State) (tag : BitVec 12) (pa qa n : Nat) (bs : List Byte)
    (h : qa + n ≤ pa ∨ pa + bs.length ≤ qa) : (s.wr tag pa bs).rd qa n = s.rd qa n := by
  rw [State.rd, State.wr_mem, memRd_memWr_of_apart _ _ _ _ _ h, State.rd]

/-- A scratchpad write is read back. -/
theorem Core.spRd_spWr (k : Core) (off : Nat) (bs : List Byte) : (k.spWr off bs).spRd off bs.length = bs := memRd_memWr _ _ _

/-- A scratchpad write leaves other bytes alone. -/
theorem Core.spRd_spWr_of_apart (k : Core) (off o n : Nat) (bs : List Byte) (h : o + n ≤ off ∨ off + bs.length ≤ o) :
    (k.spWr off bs).spRd o n = k.spRd o n := memRd_memWr_of_apart _ _ _ _ _ h

/-- The canonical form of a scratchpad after a write. -/
theorem Core.spWr_wf {k : Core} (off : Nat) (bs : List Byte) (h : Memory.wf k.sp = true) : Memory.wf (k.spWr off bs).sp = true :=
  memWr_wf _ _ h

end Sys2Proof.Machine
end

