-- ==== Sys2Proof/Laws/State.lean ====
section
/-! SUPPORT. One lemma for each field and each update of the state, and of a context where a word's result is written: no proof
has to unfold an update. -/

namespace Sys2Proof.Machine

/-! ## Accessors after updates -/

@[simp] theorem State.ctx_setCtx_self (s : State) (x : Nat) (c : Ctx) : (s.setCtx x c).ctx x = c := SMap.get_put_self _ _ _ _
theorem State.ctx_setCtx_of_ne (s : State) {x y : Nat} (c : Ctx) (h : y ≠ x) : (s.setCtx x c).ctx y = s.ctx y := SMap.get_put_of_ne _ _ _ h
@[simp] theorem State.ctx_upCtx_self (s : State) (x : Nat) (f : Ctx → Ctx) : (s.upCtx x f).ctx x = f (s.ctx x) := State.ctx_setCtx_self _ _ _
theorem State.ctx_upCtx_of_ne (s : State) {x y : Nat} (f : Ctx → Ctx) (h : y ≠ x) : (s.upCtx x f).ctx y = s.ctx y :=
  State.ctx_setCtx_of_ne _ _ h
@[simp] theorem State.core_setCore_self (s : State) (x : Nat) (c : Core) : (s.setCore x c).core x = c := SMap.get_put_self _ _ _ _
theorem State.core_setCore_of_ne (s : State) {x y : Nat} (c : Core) (h : y ≠ x) : (s.setCore x c).core y = s.core y := SMap.get_put_of_ne _ _ _ h
@[simp] theorem State.core_upCore_self (s : State) (x : Nat) (f : Core → Core) : (s.upCore x f).core x = f (s.core x) :=
  State.core_setCore_self _ _ _
theorem State.core_upCore_of_ne (s : State) {x y : Nat} (f : Core → Core) (h : y ≠ x) : (s.upCore x f).core y = s.core y :=
  State.core_setCore_of_ne _ _ h
@[simp] theorem State.group_setGroup_self (s : State) (g : Nat) (v : Group) : (s.setGroup g v).group g = v := SMap.get_put_self _ _ _ _
theorem State.group_setGroup_of_ne (s : State) {g h : Nat} (v : Group) (n : h ≠ g) : (s.setGroup g v).group h = s.group h :=
  SMap.get_put_of_ne _ _ _ n
@[simp] theorem State.queue_setQueue_self (s : State) (q : Nat) (v : Queue) : (s.setQueue q v).queue q = v := SMap.get_put_self _ _ _ _
theorem State.queue_setQueue_of_ne (s : State) {q r : Nat} (v : Queue) (h : r ≠ q) : (s.setQueue q v).queue r = s.queue r :=
  SMap.get_put_of_ne _ _ _ h
@[simp] theorem State.kernel_setKernel_self (s : State) (k : Nat) (v : Option Kernel) : (s.setKernel k v).kernel k = v :=
  SMap.get_put_self _ _ _ _
theorem State.kernel_setKernel_of_ne (s : State) {k j : Nat} (v : Option Kernel) (h : j ≠ k) : (s.setKernel k v).kernel j = s.kernel j :=
  SMap.get_put_of_ne _ _ _ h
@[simp] theorem State.phaser_setPhaser_self (s : State) (o : Nat) (v : Phaser) : (s.setPhaser o v).phaser o = v := SMap.get_put_self _ _ _ _
theorem State.phaser_setPhaser_of_ne (s : State) {o p : Nat} (v : Phaser) (h : p ≠ o) : (s.setPhaser o v).phaser p = s.phaser p :=
  SMap.get_put_of_ne _ _ _ h

/-! ## Fields after updates -/

@[simp] theorem State.setCtx_cores (s : State) (x : Nat) (c : Ctx) : (s.setCtx x c).cores = s.cores := rfl
@[simp] theorem State.setCtx_groups (s : State) (x : Nat) (c : Ctx) : (s.setCtx x c).groups = s.groups := rfl
@[simp] theorem State.setCtx_l2tlb (s : State) (x : Nat) (c : Ctx) : (s.setCtx x c).l2tlb = s.l2tlb := rfl
@[simp] theorem State.setCtx_walks (s : State) (x : Nat) (c : Ctx) : (s.setCtx x c).walks = s.walks := rfl
@[simp] theorem State.setCtx_mem (s : State) (x : Nat) (c : Ctx) : (s.setCtx x c).mem = s.mem := rfl
@[simp] theorem State.setCtx_lines (s : State) (x : Nat) (c : Ctx) : (s.setCtx x c).lines = s.lines := rfl
@[simp] theorem State.setCtx_queues (s : State) (x : Nat) (c : Ctx) : (s.setCtx x c).queues = s.queues := rfl
@[simp] theorem State.setCtx_kernels (s : State) (x : Nat) (c : Ctx) : (s.setCtx x c).kernels = s.kernels := rfl
@[simp] theorem State.setCtx_nextKid (s : State) (x : Nat) (c : Ctx) : (s.setCtx x c).nextKid = s.nextKid := rfl
@[simp] theorem State.setCtx_nextId (s : State) (x : Nat) (c : Ctx) : (s.setCtx x c).nextId = s.nextId := rfl
@[simp] theorem State.setCtx_phasers (s : State) (x : Nat) (c : Ctx) : (s.setCtx x c).phasers = s.phasers := rfl
@[simp] theorem State.setCtx_transit (s : State) (x : Nat) (c : Ctx) : (s.setCtx x c).transit = s.transit := rfl
@[simp] theorem State.setCtx_sys (s : State) (x : Nat) (c : Ctx) : (s.setCtx x c).sys = s.sys := rfl
@[simp] theorem State.setCtx_fab (s : State) (x : Nat) (c : Ctx) : (s.setCtx x c).fab = s.fab := rfl
@[simp] theorem State.setCtx_orreries (s : State) (x : Nat) (c : Ctx) : (s.setCtx x c).orreries = s.orreries := rfl
@[simp] theorem State.setCtx_agenda (s : State) (x : Nat) (c : Ctx) : (s.setCtx x c).agenda = s.agenda := rfl
@[simp] theorem State.setCtx_turn (s : State) (x : Nat) (c : Ctx) : (s.setCtx x c).turn = s.turn := rfl
@[simp] theorem State.setCtx_devTurn (s : State) (x : Nat) (c : Ctx) : (s.setCtx x c).devTurn = s.devTurn := rfl
@[simp] theorem State.setCtx_cur (s : State) (x : Nat) (c : Ctx) : (s.setCtx x c).cur = s.cur := rfl
@[simp] theorem State.setCtx_nfree (s : State) (x : Nat) (c : Ctx) : (s.setCtx x c).nfree = s.nfree := rfl
@[simp] theorem State.setCtx_core (s : State) (x : Nat) (c : Ctx) (i : Nat) : (s.setCtx x c).core i = s.core i := rfl
@[simp] theorem State.setCtx_group (s : State) (x : Nat) (c : Ctx) (i : Nat) : (s.setCtx x c).group i = s.group i := rfl
@[simp] theorem State.setCtx_queue (s : State) (x : Nat) (c : Ctx) (i : Nat) : (s.setCtx x c).queue i = s.queue i := rfl
@[simp] theorem State.setCtx_kernel (s : State) (x : Nat) (c : Ctx) (i : Nat) : (s.setCtx x c).kernel i = s.kernel i := rfl
@[simp] theorem State.setCtx_phaser (s : State) (x : Nat) (c : Ctx) (i : Nat) : (s.setCtx x c).phaser i = s.phaser i := rfl
@[simp] theorem State.upCtx_cores (s : State) (x : Nat) (f : Ctx → Ctx) : (s.upCtx x f).cores = s.cores := rfl
@[simp] theorem State.upCtx_groups (s : State) (x : Nat) (f : Ctx → Ctx) : (s.upCtx x f).groups = s.groups := rfl
@[simp] theorem State.upCtx_l2tlb (s : State) (x : Nat) (f : Ctx → Ctx) : (s.upCtx x f).l2tlb = s.l2tlb := rfl
@[simp] theorem State.upCtx_walks (s : State) (x : Nat) (f : Ctx → Ctx) : (s.upCtx x f).walks = s.walks := rfl
@[simp] theorem State.upCtx_mem (s : State) (x : Nat) (f : Ctx → Ctx) : (s.upCtx x f).mem = s.mem := rfl
@[simp] theorem State.upCtx_lines (s : State) (x : Nat) (f : Ctx → Ctx) : (s.upCtx x f).lines = s.lines := rfl
@[simp] theorem State.upCtx_queues (s : State) (x : Nat) (f : Ctx → Ctx) : (s.upCtx x f).queues = s.queues := rfl
@[simp] theorem State.upCtx_kernels (s : State) (x : Nat) (f : Ctx → Ctx) : (s.upCtx x f).kernels = s.kernels := rfl
@[simp] theorem State.upCtx_nextKid (s : State) (x : Nat) (f : Ctx → Ctx) : (s.upCtx x f).nextKid = s.nextKid := rfl
@[simp] theorem State.upCtx_nextId (s : State) (x : Nat) (f : Ctx → Ctx) : (s.upCtx x f).nextId = s.nextId := rfl
@[simp] theorem State.upCtx_phasers (s : State) (x : Nat) (f : Ctx → Ctx) : (s.upCtx x f).phasers = s.phasers := rfl
@[simp] theorem State.upCtx_transit (s : State) (x : Nat) (f : Ctx → Ctx) : (s.upCtx x f).transit = s.transit := rfl
@[simp] theorem State.upCtx_sys (s : State) (x : Nat) (f : Ctx → Ctx) : (s.upCtx x f).sys = s.sys := rfl
@[simp] theorem State.upCtx_fab (s : State) (x : Nat) (f : Ctx → Ctx) : (s.upCtx x f).fab = s.fab := rfl
@[simp] theorem State.upCtx_orreries (s : State) (x : Nat) (f : Ctx → Ctx) : (s.upCtx x f).orreries = s.orreries := rfl
@[simp] theorem State.upCtx_agenda (s : State) (x : Nat) (f : Ctx → Ctx) : (s.upCtx x f).agenda = s.agenda := rfl
@[simp] theorem State.upCtx_turn (s : State) (x : Nat) (f : Ctx → Ctx) : (s.upCtx x f).turn = s.turn := rfl
@[simp] theorem State.upCtx_devTurn (s : State) (x : Nat) (f : Ctx → Ctx) : (s.upCtx x f).devTurn = s.devTurn := rfl
@[simp] theorem State.upCtx_cur (s : State) (x : Nat) (f : Ctx → Ctx) : (s.upCtx x f).cur = s.cur := rfl
@[simp] theorem State.upCtx_nfree (s : State) (x : Nat) (f : Ctx → Ctx) : (s.upCtx x f).nfree = s.nfree := rfl
@[simp] theorem State.upCtx_core (s : State) (x : Nat) (f : Ctx → Ctx) (i : Nat) : (s.upCtx x f).core i = s.core i := rfl
@[simp] theorem State.upCtx_group (s : State) (x : Nat) (f : Ctx → Ctx) (i : Nat) : (s.upCtx x f).group i = s.group i := rfl
@[simp] theorem State.upCtx_queue (s : State) (x : Nat) (f : Ctx → Ctx) (i : Nat) : (s.upCtx x f).queue i = s.queue i := rfl
@[simp] theorem State.upCtx_kernel (s : State) (x : Nat) (f : Ctx → Ctx) (i : Nat) : (s.upCtx x f).kernel i = s.kernel i := rfl
@[simp] theorem State.upCtx_phaser (s : State) (x : Nat) (f : Ctx → Ctx) (i : Nat) : (s.upCtx x f).phaser i = s.phaser i := rfl
@[simp] theorem State.setCore_ctxs (s : State) (k : Nat) (c : Core) : (s.setCore k c).ctxs = s.ctxs := rfl
@[simp] theorem State.setCore_groups (s : State) (k : Nat) (c : Core) : (s.setCore k c).groups = s.groups := rfl
@[simp] theorem State.setCore_l2tlb (s : State) (k : Nat) (c : Core) : (s.setCore k c).l2tlb = s.l2tlb := rfl
@[simp] theorem State.setCore_walks (s : State) (k : Nat) (c : Core) : (s.setCore k c).walks = s.walks := rfl
@[simp] theorem State.setCore_mem (s : State) (k : Nat) (c : Core) : (s.setCore k c).mem = s.mem := rfl
@[simp] theorem State.setCore_lines (s : State) (k : Nat) (c : Core) : (s.setCore k c).lines = s.lines := rfl
@[simp] theorem State.setCore_queues (s : State) (k : Nat) (c : Core) : (s.setCore k c).queues = s.queues := rfl
@[simp] theorem State.setCore_kernels (s : State) (k : Nat) (c : Core) : (s.setCore k c).kernels = s.kernels := rfl
@[simp] theorem State.setCore_nextKid (s : State) (k : Nat) (c : Core) : (s.setCore k c).nextKid = s.nextKid := rfl
@[simp] theorem State.setCore_nextId (s : State) (k : Nat) (c : Core) : (s.setCore k c).nextId = s.nextId := rfl
@[simp] theorem State.setCore_phasers (s : State) (k : Nat) (c : Core) : (s.setCore k c).phasers = s.phasers := rfl
@[simp] theorem State.setCore_transit (s : State) (k : Nat) (c : Core) : (s.setCore k c).transit = s.transit := rfl
@[simp] theorem State.setCore_sys (s : State) (k : Nat) (c : Core) : (s.setCore k c).sys = s.sys := rfl
@[simp] theorem State.setCore_fab (s : State) (k : Nat) (c : Core) : (s.setCore k c).fab = s.fab := rfl
@[simp] theorem State.setCore_orreries (s : State) (k : Nat) (c : Core) : (s.setCore k c).orreries = s.orreries := rfl
@[simp] theorem State.setCore_agenda (s : State) (k : Nat) (c : Core) : (s.setCore k c).agenda = s.agenda := rfl
@[simp] theorem State.setCore_turn (s : State) (k : Nat) (c : Core) : (s.setCore k c).turn = s.turn := rfl
@[simp] theorem State.setCore_devTurn (s : State) (k : Nat) (c : Core) : (s.setCore k c).devTurn = s.devTurn := rfl
@[simp] theorem State.setCore_cur (s : State) (k : Nat) (c : Core) : (s.setCore k c).cur = s.cur := rfl
@[simp] theorem State.setCore_nfree (s : State) (k : Nat) (c : Core) : (s.setCore k c).nfree = s.nfree := rfl
@[simp] theorem State.setCore_ctx (s : State) (k : Nat) (c : Core) (i : Nat) : (s.setCore k c).ctx i = s.ctx i := rfl
@[simp] theorem State.setCore_group (s : State) (k : Nat) (c : Core) (i : Nat) : (s.setCore k c).group i = s.group i := rfl
@[simp] theorem State.setCore_queue (s : State) (k : Nat) (c : Core) (i : Nat) : (s.setCore k c).queue i = s.queue i := rfl
@[simp] theorem State.setCore_kernel (s : State) (k : Nat) (c : Core) (i : Nat) : (s.setCore k c).kernel i = s.kernel i := rfl
@[simp] theorem State.setCore_phaser (s : State) (k : Nat) (c : Core) (i : Nat) : (s.setCore k c).phaser i = s.phaser i := rfl
@[simp] theorem State.upCore_ctxs (s : State) (k : Nat) (f : Core → Core) : (s.upCore k f).ctxs = s.ctxs := rfl
@[simp] theorem State.upCore_groups (s : State) (k : Nat) (f : Core → Core) : (s.upCore k f).groups = s.groups := rfl
@[simp] theorem State.upCore_l2tlb (s : State) (k : Nat) (f : Core → Core) : (s.upCore k f).l2tlb = s.l2tlb := rfl
@[simp] theorem State.upCore_walks (s : State) (k : Nat) (f : Core → Core) : (s.upCore k f).walks = s.walks := rfl
@[simp] theorem State.upCore_mem (s : State) (k : Nat) (f : Core → Core) : (s.upCore k f).mem = s.mem := rfl
@[simp] theorem State.upCore_lines (s : State) (k : Nat) (f : Core → Core) : (s.upCore k f).lines = s.lines := rfl
@[simp] theorem State.upCore_queues (s : State) (k : Nat) (f : Core → Core) : (s.upCore k f).queues = s.queues := rfl
@[simp] theorem State.upCore_kernels (s : State) (k : Nat) (f : Core → Core) : (s.upCore k f).kernels = s.kernels := rfl
@[simp] theorem State.upCore_nextKid (s : State) (k : Nat) (f : Core → Core) : (s.upCore k f).nextKid = s.nextKid := rfl
@[simp] theorem State.upCore_nextId (s : State) (k : Nat) (f : Core → Core) : (s.upCore k f).nextId = s.nextId := rfl
@[simp] theorem State.upCore_phasers (s : State) (k : Nat) (f : Core → Core) : (s.upCore k f).phasers = s.phasers := rfl
@[simp] theorem State.upCore_transit (s : State) (k : Nat) (f : Core → Core) : (s.upCore k f).transit = s.transit := rfl
@[simp] theorem State.upCore_sys (s : State) (k : Nat) (f : Core → Core) : (s.upCore k f).sys = s.sys := rfl
@[simp] theorem State.upCore_fab (s : State) (k : Nat) (f : Core → Core) : (s.upCore k f).fab = s.fab := rfl
@[simp] theorem State.upCore_orreries (s : State) (k : Nat) (f : Core → Core) : (s.upCore k f).orreries = s.orreries := rfl
@[simp] theorem State.upCore_agenda (s : State) (k : Nat) (f : Core → Core) : (s.upCore k f).agenda = s.agenda := rfl
@[simp] theorem State.upCore_turn (s : State) (k : Nat) (f : Core → Core) : (s.upCore k f).turn = s.turn := rfl
@[simp] theorem State.upCore_devTurn (s : State) (k : Nat) (f : Core → Core) : (s.upCore k f).devTurn = s.devTurn := rfl
@[simp] theorem State.upCore_cur (s : State) (k : Nat) (f : Core → Core) : (s.upCore k f).cur = s.cur := rfl
@[simp] theorem State.upCore_nfree (s : State) (k : Nat) (f : Core → Core) : (s.upCore k f).nfree = s.nfree := rfl
@[simp] theorem State.upCore_ctx (s : State) (k : Nat) (f : Core → Core) (i : Nat) : (s.upCore k f).ctx i = s.ctx i := rfl
@[simp] theorem State.upCore_group (s : State) (k : Nat) (f : Core → Core) (i : Nat) : (s.upCore k f).group i = s.group i := rfl
@[simp] theorem State.upCore_queue (s : State) (k : Nat) (f : Core → Core) (i : Nat) : (s.upCore k f).queue i = s.queue i := rfl
@[simp] theorem State.upCore_kernel (s : State) (k : Nat) (f : Core → Core) (i : Nat) : (s.upCore k f).kernel i = s.kernel i := rfl
@[simp] theorem State.upCore_phaser (s : State) (k : Nat) (f : Core → Core) (i : Nat) : (s.upCore k f).phaser i = s.phaser i := rfl
@[simp] theorem State.setGroup_ctxs (s : State) (g : Nat) (v : Group) : (s.setGroup g v).ctxs = s.ctxs := rfl
@[simp] theorem State.setGroup_cores (s : State) (g : Nat) (v : Group) : (s.setGroup g v).cores = s.cores := rfl
@[simp] theorem State.setGroup_l2tlb (s : State) (g : Nat) (v : Group) : (s.setGroup g v).l2tlb = s.l2tlb := rfl
@[simp] theorem State.setGroup_walks (s : State) (g : Nat) (v : Group) : (s.setGroup g v).walks = s.walks := rfl
@[simp] theorem State.setGroup_mem (s : State) (g : Nat) (v : Group) : (s.setGroup g v).mem = s.mem := rfl
@[simp] theorem State.setGroup_lines (s : State) (g : Nat) (v : Group) : (s.setGroup g v).lines = s.lines := rfl
@[simp] theorem State.setGroup_queues (s : State) (g : Nat) (v : Group) : (s.setGroup g v).queues = s.queues := rfl
@[simp] theorem State.setGroup_kernels (s : State) (g : Nat) (v : Group) : (s.setGroup g v).kernels = s.kernels := rfl
@[simp] theorem State.setGroup_nextKid (s : State) (g : Nat) (v : Group) : (s.setGroup g v).nextKid = s.nextKid := rfl
@[simp] theorem State.setGroup_nextId (s : State) (g : Nat) (v : Group) : (s.setGroup g v).nextId = s.nextId := rfl
@[simp] theorem State.setGroup_phasers (s : State) (g : Nat) (v : Group) : (s.setGroup g v).phasers = s.phasers := rfl
@[simp] theorem State.setGroup_transit (s : State) (g : Nat) (v : Group) : (s.setGroup g v).transit = s.transit := rfl
@[simp] theorem State.setGroup_sys (s : State) (g : Nat) (v : Group) : (s.setGroup g v).sys = s.sys := rfl
@[simp] theorem State.setGroup_fab (s : State) (g : Nat) (v : Group) : (s.setGroup g v).fab = s.fab := rfl
@[simp] theorem State.setGroup_orreries (s : State) (g : Nat) (v : Group) : (s.setGroup g v).orreries = s.orreries := rfl
@[simp] theorem State.setGroup_agenda (s : State) (g : Nat) (v : Group) : (s.setGroup g v).agenda = s.agenda := rfl
@[simp] theorem State.setGroup_turn (s : State) (g : Nat) (v : Group) : (s.setGroup g v).turn = s.turn := rfl
@[simp] theorem State.setGroup_devTurn (s : State) (g : Nat) (v : Group) : (s.setGroup g v).devTurn = s.devTurn := rfl
@[simp] theorem State.setGroup_cur (s : State) (g : Nat) (v : Group) : (s.setGroup g v).cur = s.cur := rfl
@[simp] theorem State.setGroup_nfree (s : State) (g : Nat) (v : Group) : (s.setGroup g v).nfree = s.nfree := rfl
@[simp] theorem State.setGroup_ctx (s : State) (g : Nat) (v : Group) (i : Nat) : (s.setGroup g v).ctx i = s.ctx i := rfl
@[simp] theorem State.setGroup_core (s : State) (g : Nat) (v : Group) (i : Nat) : (s.setGroup g v).core i = s.core i := rfl
@[simp] theorem State.setGroup_queue (s : State) (g : Nat) (v : Group) (i : Nat) : (s.setGroup g v).queue i = s.queue i := rfl
@[simp] theorem State.setGroup_kernel (s : State) (g : Nat) (v : Group) (i : Nat) : (s.setGroup g v).kernel i = s.kernel i := rfl
@[simp] theorem State.setGroup_phaser (s : State) (g : Nat) (v : Group) (i : Nat) : (s.setGroup g v).phaser i = s.phaser i := rfl
@[simp] theorem State.setQueue_ctxs (s : State) (q : Nat) (v : Queue) : (s.setQueue q v).ctxs = s.ctxs := rfl
@[simp] theorem State.setQueue_cores (s : State) (q : Nat) (v : Queue) : (s.setQueue q v).cores = s.cores := rfl
@[simp] theorem State.setQueue_groups (s : State) (q : Nat) (v : Queue) : (s.setQueue q v).groups = s.groups := rfl
@[simp] theorem State.setQueue_l2tlb (s : State) (q : Nat) (v : Queue) : (s.setQueue q v).l2tlb = s.l2tlb := rfl
@[simp] theorem State.setQueue_walks (s : State) (q : Nat) (v : Queue) : (s.setQueue q v).walks = s.walks := rfl
@[simp] theorem State.setQueue_mem (s : State) (q : Nat) (v : Queue) : (s.setQueue q v).mem = s.mem := rfl
@[simp] theorem State.setQueue_lines (s : State) (q : Nat) (v : Queue) : (s.setQueue q v).lines = s.lines := rfl
@[simp] theorem State.setQueue_kernels (s : State) (q : Nat) (v : Queue) : (s.setQueue q v).kernels = s.kernels := rfl
@[simp] theorem State.setQueue_nextKid (s : State) (q : Nat) (v : Queue) : (s.setQueue q v).nextKid = s.nextKid := rfl
@[simp] theorem State.setQueue_nextId (s : State) (q : Nat) (v : Queue) : (s.setQueue q v).nextId = s.nextId := rfl
@[simp] theorem State.setQueue_phasers (s : State) (q : Nat) (v : Queue) : (s.setQueue q v).phasers = s.phasers := rfl
@[simp] theorem State.setQueue_transit (s : State) (q : Nat) (v : Queue) : (s.setQueue q v).transit = s.transit := rfl
@[simp] theorem State.setQueue_sys (s : State) (q : Nat) (v : Queue) : (s.setQueue q v).sys = s.sys := rfl
@[simp] theorem State.setQueue_fab (s : State) (q : Nat) (v : Queue) : (s.setQueue q v).fab = s.fab := rfl
@[simp] theorem State.setQueue_orreries (s : State) (q : Nat) (v : Queue) : (s.setQueue q v).orreries = s.orreries := rfl
@[simp] theorem State.setQueue_agenda (s : State) (q : Nat) (v : Queue) : (s.setQueue q v).agenda = s.agenda := rfl
@[simp] theorem State.setQueue_turn (s : State) (q : Nat) (v : Queue) : (s.setQueue q v).turn = s.turn := rfl
@[simp] theorem State.setQueue_devTurn (s : State) (q : Nat) (v : Queue) : (s.setQueue q v).devTurn = s.devTurn := rfl
@[simp] theorem State.setQueue_cur (s : State) (q : Nat) (v : Queue) : (s.setQueue q v).cur = s.cur := rfl
@[simp] theorem State.setQueue_nfree (s : State) (q : Nat) (v : Queue) : (s.setQueue q v).nfree = s.nfree := rfl
@[simp] theorem State.setQueue_ctx (s : State) (q : Nat) (v : Queue) (i : Nat) : (s.setQueue q v).ctx i = s.ctx i := rfl
@[simp] theorem State.setQueue_core (s : State) (q : Nat) (v : Queue) (i : Nat) : (s.setQueue q v).core i = s.core i := rfl
@[simp] theorem State.setQueue_group (s : State) (q : Nat) (v : Queue) (i : Nat) : (s.setQueue q v).group i = s.group i := rfl
@[simp] theorem State.setQueue_kernel (s : State) (q : Nat) (v : Queue) (i : Nat) : (s.setQueue q v).kernel i = s.kernel i := rfl
@[simp] theorem State.setQueue_phaser (s : State) (q : Nat) (v : Queue) (i : Nat) : (s.setQueue q v).phaser i = s.phaser i := rfl
@[simp] theorem State.setKernel_ctxs (s : State) (k : Nat) (v : Option Kernel) : (s.setKernel k v).ctxs = s.ctxs := rfl
@[simp] theorem State.setKernel_cores (s : State) (k : Nat) (v : Option Kernel) : (s.setKernel k v).cores = s.cores := rfl
@[simp] theorem State.setKernel_groups (s : State) (k : Nat) (v : Option Kernel) : (s.setKernel k v).groups = s.groups := rfl
@[simp] theorem State.setKernel_l2tlb (s : State) (k : Nat) (v : Option Kernel) : (s.setKernel k v).l2tlb = s.l2tlb := rfl
@[simp] theorem State.setKernel_walks (s : State) (k : Nat) (v : Option Kernel) : (s.setKernel k v).walks = s.walks := rfl
@[simp] theorem State.setKernel_mem (s : State) (k : Nat) (v : Option Kernel) : (s.setKernel k v).mem = s.mem := rfl
@[simp] theorem State.setKernel_lines (s : State) (k : Nat) (v : Option Kernel) : (s.setKernel k v).lines = s.lines := rfl
@[simp] theorem State.setKernel_queues (s : State) (k : Nat) (v : Option Kernel) : (s.setKernel k v).queues = s.queues := rfl
@[simp] theorem State.setKernel_nextKid (s : State) (k : Nat) (v : Option Kernel) : (s.setKernel k v).nextKid = s.nextKid := rfl
@[simp] theorem State.setKernel_nextId (s : State) (k : Nat) (v : Option Kernel) : (s.setKernel k v).nextId = s.nextId := rfl
@[simp] theorem State.setKernel_phasers (s : State) (k : Nat) (v : Option Kernel) : (s.setKernel k v).phasers = s.phasers := rfl
@[simp] theorem State.setKernel_transit (s : State) (k : Nat) (v : Option Kernel) : (s.setKernel k v).transit = s.transit := rfl
@[simp] theorem State.setKernel_sys (s : State) (k : Nat) (v : Option Kernel) : (s.setKernel k v).sys = s.sys := rfl
@[simp] theorem State.setKernel_fab (s : State) (k : Nat) (v : Option Kernel) : (s.setKernel k v).fab = s.fab := rfl
@[simp] theorem State.setKernel_orreries (s : State) (k : Nat) (v : Option Kernel) : (s.setKernel k v).orreries = s.orreries := rfl
@[simp] theorem State.setKernel_agenda (s : State) (k : Nat) (v : Option Kernel) : (s.setKernel k v).agenda = s.agenda := rfl
@[simp] theorem State.setKernel_turn (s : State) (k : Nat) (v : Option Kernel) : (s.setKernel k v).turn = s.turn := rfl
@[simp] theorem State.setKernel_devTurn (s : State) (k : Nat) (v : Option Kernel) : (s.setKernel k v).devTurn = s.devTurn := rfl
@[simp] theorem State.setKernel_cur (s : State) (k : Nat) (v : Option Kernel) : (s.setKernel k v).cur = s.cur := rfl
@[simp] theorem State.setKernel_nfree (s : State) (k : Nat) (v : Option Kernel) : (s.setKernel k v).nfree = s.nfree := rfl
@[simp] theorem State.setKernel_ctx (s : State) (k : Nat) (v : Option Kernel) (i : Nat) : (s.setKernel k v).ctx i = s.ctx i := rfl
@[simp] theorem State.setKernel_core (s : State) (k : Nat) (v : Option Kernel) (i : Nat) : (s.setKernel k v).core i = s.core i := rfl
@[simp] theorem State.setKernel_group (s : State) (k : Nat) (v : Option Kernel) (i : Nat) : (s.setKernel k v).group i = s.group i := rfl
@[simp] theorem State.setKernel_queue (s : State) (k : Nat) (v : Option Kernel) (i : Nat) : (s.setKernel k v).queue i = s.queue i := rfl
@[simp] theorem State.setKernel_phaser (s : State) (k : Nat) (v : Option Kernel) (i : Nat) : (s.setKernel k v).phaser i = s.phaser i := rfl
@[simp] theorem State.setPhaser_ctxs (s : State) (o : Nat) (v : Phaser) : (s.setPhaser o v).ctxs = s.ctxs := rfl
@[simp] theorem State.setPhaser_cores (s : State) (o : Nat) (v : Phaser) : (s.setPhaser o v).cores = s.cores := rfl
@[simp] theorem State.setPhaser_groups (s : State) (o : Nat) (v : Phaser) : (s.setPhaser o v).groups = s.groups := rfl
@[simp] theorem State.setPhaser_l2tlb (s : State) (o : Nat) (v : Phaser) : (s.setPhaser o v).l2tlb = s.l2tlb := rfl
@[simp] theorem State.setPhaser_walks (s : State) (o : Nat) (v : Phaser) : (s.setPhaser o v).walks = s.walks := rfl
@[simp] theorem State.setPhaser_mem (s : State) (o : Nat) (v : Phaser) : (s.setPhaser o v).mem = s.mem := rfl
@[simp] theorem State.setPhaser_lines (s : State) (o : Nat) (v : Phaser) : (s.setPhaser o v).lines = s.lines := rfl
@[simp] theorem State.setPhaser_queues (s : State) (o : Nat) (v : Phaser) : (s.setPhaser o v).queues = s.queues := rfl
@[simp] theorem State.setPhaser_kernels (s : State) (o : Nat) (v : Phaser) : (s.setPhaser o v).kernels = s.kernels := rfl
@[simp] theorem State.setPhaser_nextKid (s : State) (o : Nat) (v : Phaser) : (s.setPhaser o v).nextKid = s.nextKid := rfl
@[simp] theorem State.setPhaser_nextId (s : State) (o : Nat) (v : Phaser) : (s.setPhaser o v).nextId = s.nextId := rfl
@[simp] theorem State.setPhaser_transit (s : State) (o : Nat) (v : Phaser) : (s.setPhaser o v).transit = s.transit := rfl
@[simp] theorem State.setPhaser_sys (s : State) (o : Nat) (v : Phaser) : (s.setPhaser o v).sys = s.sys := rfl
@[simp] theorem State.setPhaser_fab (s : State) (o : Nat) (v : Phaser) : (s.setPhaser o v).fab = s.fab := rfl
@[simp] theorem State.setPhaser_orreries (s : State) (o : Nat) (v : Phaser) : (s.setPhaser o v).orreries = s.orreries := rfl
@[simp] theorem State.setPhaser_agenda (s : State) (o : Nat) (v : Phaser) : (s.setPhaser o v).agenda = s.agenda := rfl
@[simp] theorem State.setPhaser_turn (s : State) (o : Nat) (v : Phaser) : (s.setPhaser o v).turn = s.turn := rfl
@[simp] theorem State.setPhaser_devTurn (s : State) (o : Nat) (v : Phaser) : (s.setPhaser o v).devTurn = s.devTurn := rfl
@[simp] theorem State.setPhaser_cur (s : State) (o : Nat) (v : Phaser) : (s.setPhaser o v).cur = s.cur := rfl
@[simp] theorem State.setPhaser_nfree (s : State) (o : Nat) (v : Phaser) : (s.setPhaser o v).nfree = s.nfree := rfl
@[simp] theorem State.setPhaser_ctx (s : State) (o : Nat) (v : Phaser) (i : Nat) : (s.setPhaser o v).ctx i = s.ctx i := rfl
@[simp] theorem State.setPhaser_core (s : State) (o : Nat) (v : Phaser) (i : Nat) : (s.setPhaser o v).core i = s.core i := rfl
@[simp] theorem State.setPhaser_group (s : State) (o : Nat) (v : Phaser) (i : Nat) : (s.setPhaser o v).group i = s.group i := rfl
@[simp] theorem State.setPhaser_queue (s : State) (o : Nat) (v : Phaser) (i : Nat) : (s.setPhaser o v).queue i = s.queue i := rfl
@[simp] theorem State.setPhaser_kernel (s : State) (o : Nat) (v : Phaser) (i : Nat) : (s.setPhaser o v).kernel i = s.kernel i := rfl
@[simp] theorem State.upSys_ctxs (s : State) (f : Sys → Sys) : (s.upSys f).ctxs = s.ctxs := rfl
@[simp] theorem State.upSys_cores (s : State) (f : Sys → Sys) : (s.upSys f).cores = s.cores := rfl
@[simp] theorem State.upSys_groups (s : State) (f : Sys → Sys) : (s.upSys f).groups = s.groups := rfl
@[simp] theorem State.upSys_l2tlb (s : State) (f : Sys → Sys) : (s.upSys f).l2tlb = s.l2tlb := rfl
@[simp] theorem State.upSys_walks (s : State) (f : Sys → Sys) : (s.upSys f).walks = s.walks := rfl
@[simp] theorem State.upSys_mem (s : State) (f : Sys → Sys) : (s.upSys f).mem = s.mem := rfl
@[simp] theorem State.upSys_lines (s : State) (f : Sys → Sys) : (s.upSys f).lines = s.lines := rfl
@[simp] theorem State.upSys_queues (s : State) (f : Sys → Sys) : (s.upSys f).queues = s.queues := rfl
@[simp] theorem State.upSys_kernels (s : State) (f : Sys → Sys) : (s.upSys f).kernels = s.kernels := rfl
@[simp] theorem State.upSys_nextKid (s : State) (f : Sys → Sys) : (s.upSys f).nextKid = s.nextKid := rfl
@[simp] theorem State.upSys_nextId (s : State) (f : Sys → Sys) : (s.upSys f).nextId = s.nextId := rfl
@[simp] theorem State.upSys_phasers (s : State) (f : Sys → Sys) : (s.upSys f).phasers = s.phasers := rfl
@[simp] theorem State.upSys_transit (s : State) (f : Sys → Sys) : (s.upSys f).transit = s.transit := rfl
@[simp] theorem State.upSys_sys (s : State) (f : Sys → Sys) : (s.upSys f).sys = f s.sys := rfl
@[simp] theorem State.upSys_fab (s : State) (f : Sys → Sys) : (s.upSys f).fab = s.fab := rfl
@[simp] theorem State.upSys_orreries (s : State) (f : Sys → Sys) : (s.upSys f).orreries = s.orreries := rfl
@[simp] theorem State.upSys_agenda (s : State) (f : Sys → Sys) : (s.upSys f).agenda = s.agenda := rfl
@[simp] theorem State.upSys_turn (s : State) (f : Sys → Sys) : (s.upSys f).turn = s.turn := rfl
@[simp] theorem State.upSys_devTurn (s : State) (f : Sys → Sys) : (s.upSys f).devTurn = s.devTurn := rfl
@[simp] theorem State.upSys_cur (s : State) (f : Sys → Sys) : (s.upSys f).cur = s.cur := rfl
@[simp] theorem State.upSys_nfree (s : State) (f : Sys → Sys) : (s.upSys f).nfree = s.nfree := rfl
@[simp] theorem State.upSys_ctx (s : State) (f : Sys → Sys) (i : Nat) : (s.upSys f).ctx i = s.ctx i := rfl
@[simp] theorem State.upSys_core (s : State) (f : Sys → Sys) (i : Nat) : (s.upSys f).core i = s.core i := rfl
@[simp] theorem State.upSys_group (s : State) (f : Sys → Sys) (i : Nat) : (s.upSys f).group i = s.group i := rfl
@[simp] theorem State.upSys_queue (s : State) (f : Sys → Sys) (i : Nat) : (s.upSys f).queue i = s.queue i := rfl
@[simp] theorem State.upSys_kernel (s : State) (f : Sys → Sys) (i : Nat) : (s.upSys f).kernel i = s.kernel i := rfl
@[simp] theorem State.upSys_phaser (s : State) (f : Sys → Sys) (i : Nat) : (s.upSys f).phaser i = s.phaser i := rfl
@[simp] theorem State.upFab_ctxs (s : State) (f : Fabric → Fabric) : (s.upFab f).ctxs = s.ctxs := rfl
@[simp] theorem State.upFab_cores (s : State) (f : Fabric → Fabric) : (s.upFab f).cores = s.cores := rfl
@[simp] theorem State.upFab_groups (s : State) (f : Fabric → Fabric) : (s.upFab f).groups = s.groups := rfl
@[simp] theorem State.upFab_l2tlb (s : State) (f : Fabric → Fabric) : (s.upFab f).l2tlb = s.l2tlb := rfl
@[simp] theorem State.upFab_walks (s : State) (f : Fabric → Fabric) : (s.upFab f).walks = s.walks := rfl
@[simp] theorem State.upFab_mem (s : State) (f : Fabric → Fabric) : (s.upFab f).mem = s.mem := rfl
@[simp] theorem State.upFab_lines (s : State) (f : Fabric → Fabric) : (s.upFab f).lines = s.lines := rfl
@[simp] theorem State.upFab_queues (s : State) (f : Fabric → Fabric) : (s.upFab f).queues = s.queues := rfl
@[simp] theorem State.upFab_kernels (s : State) (f : Fabric → Fabric) : (s.upFab f).kernels = s.kernels := rfl
@[simp] theorem State.upFab_nextKid (s : State) (f : Fabric → Fabric) : (s.upFab f).nextKid = s.nextKid := rfl
@[simp] theorem State.upFab_nextId (s : State) (f : Fabric → Fabric) : (s.upFab f).nextId = s.nextId := rfl
@[simp] theorem State.upFab_phasers (s : State) (f : Fabric → Fabric) : (s.upFab f).phasers = s.phasers := rfl
@[simp] theorem State.upFab_transit (s : State) (f : Fabric → Fabric) : (s.upFab f).transit = s.transit := rfl
@[simp] theorem State.upFab_sys (s : State) (f : Fabric → Fabric) : (s.upFab f).sys = s.sys := rfl
@[simp] theorem State.upFab_fab (s : State) (f : Fabric → Fabric) : (s.upFab f).fab = f s.fab := rfl
@[simp] theorem State.upFab_orreries (s : State) (f : Fabric → Fabric) : (s.upFab f).orreries = s.orreries := rfl
@[simp] theorem State.upFab_agenda (s : State) (f : Fabric → Fabric) : (s.upFab f).agenda = s.agenda := rfl
@[simp] theorem State.upFab_turn (s : State) (f : Fabric → Fabric) : (s.upFab f).turn = s.turn := rfl
@[simp] theorem State.upFab_devTurn (s : State) (f : Fabric → Fabric) : (s.upFab f).devTurn = s.devTurn := rfl
@[simp] theorem State.upFab_cur (s : State) (f : Fabric → Fabric) : (s.upFab f).cur = s.cur := rfl
@[simp] theorem State.upFab_nfree (s : State) (f : Fabric → Fabric) : (s.upFab f).nfree = s.nfree := rfl
@[simp] theorem State.upFab_ctx (s : State) (f : Fabric → Fabric) (i : Nat) : (s.upFab f).ctx i = s.ctx i := rfl
@[simp] theorem State.upFab_core (s : State) (f : Fabric → Fabric) (i : Nat) : (s.upFab f).core i = s.core i := rfl
@[simp] theorem State.upFab_group (s : State) (f : Fabric → Fabric) (i : Nat) : (s.upFab f).group i = s.group i := rfl
@[simp] theorem State.upFab_queue (s : State) (f : Fabric → Fabric) (i : Nat) : (s.upFab f).queue i = s.queue i := rfl
@[simp] theorem State.upFab_kernel (s : State) (f : Fabric → Fabric) (i : Nat) : (s.upFab f).kernel i = s.kernel i := rfl
@[simp] theorem State.upFab_phaser (s : State) (f : Fabric → Fabric) (i : Nat) : (s.upFab f).phaser i = s.phaser i := rfl
@[simp] theorem State.draw_ctxs (s : State) : (s.draw).ctxs = s.ctxs := rfl
@[simp] theorem State.draw_cores (s : State) : (s.draw).cores = s.cores := rfl
@[simp] theorem State.draw_groups (s : State) : (s.draw).groups = s.groups := rfl
@[simp] theorem State.draw_l2tlb (s : State) : (s.draw).l2tlb = s.l2tlb := rfl
@[simp] theorem State.draw_walks (s : State) : (s.draw).walks = s.walks := rfl
@[simp] theorem State.draw_mem (s : State) : (s.draw).mem = s.mem := rfl
@[simp] theorem State.draw_lines (s : State) : (s.draw).lines = s.lines := rfl
@[simp] theorem State.draw_queues (s : State) : (s.draw).queues = s.queues := rfl
@[simp] theorem State.draw_kernels (s : State) : (s.draw).kernels = s.kernels := rfl
@[simp] theorem State.draw_nextKid (s : State) : (s.draw).nextKid = s.nextKid := rfl
@[simp] theorem State.draw_nextId (s : State) : (s.draw).nextId = s.nextId := rfl
@[simp] theorem State.draw_phasers (s : State) : (s.draw).phasers = s.phasers := rfl
@[simp] theorem State.draw_transit (s : State) : (s.draw).transit = s.transit := rfl
@[simp] theorem State.draw_sys (s : State) : (s.draw).sys = s.sys := rfl
@[simp] theorem State.draw_fab (s : State) : (s.draw).fab = s.fab := rfl
@[simp] theorem State.draw_orreries (s : State) : (s.draw).orreries = s.orreries := rfl
@[simp] theorem State.draw_agenda (s : State) : (s.draw).agenda = s.agenda := rfl
@[simp] theorem State.draw_turn (s : State) : (s.draw).turn = s.turn := rfl
@[simp] theorem State.draw_devTurn (s : State) : (s.draw).devTurn = s.devTurn := rfl
@[simp] theorem State.draw_cur (s : State) : (s.draw).cur = s.cur := rfl
@[simp] theorem State.draw_nfree (s : State) : s.draw.nfree = s.nfree + 1 := rfl
@[simp] theorem State.draw_ctx (s : State) (i : Nat) : (s.draw).ctx i = s.ctx i := rfl
@[simp] theorem State.draw_core (s : State) (i : Nat) : (s.draw).core i = s.core i := rfl
@[simp] theorem State.draw_group (s : State) (i : Nat) : (s.draw).group i = s.group i := rfl
@[simp] theorem State.draw_queue (s : State) (i : Nat) : (s.draw).queue i = s.queue i := rfl
@[simp] theorem State.draw_kernel (s : State) (i : Nat) : (s.draw).kernel i = s.kernel i := rfl
@[simp] theorem State.draw_phaser (s : State) (i : Nat) : (s.draw).phaser i = s.phaser i := rfl

/-! ## A context whose register is written -/

@[simp] theorem Ctx.putS_v (c : Ctx) (n : Fin 32) (x : W64) : (c.putS n x).v = c.v := by unfold Ctx.putS; split <;> rfl
@[simp] theorem Ctx.putS_em (c : Ctx) (n : Fin 32) (x : W64) : (c.putS n x).em = c.em := by unfold Ctx.putS; split <;> rfl
@[simp] theorem Ctx.putS_cm (c : Ctx) (n : Fin 32) (x : W64) : (c.putS n x).cm = c.cm := by unfold Ctx.putS; split <;> rfl
@[simp] theorem Ctx.putS_pc (c : Ctx) (n : Fin 32) (x : W64) : (c.putS n x).pc = c.pc := by unfold Ctx.putS; split <;> rfl
@[simp] theorem Ctx.putS_loops (c : Ctx) (n : Fin 32) (x : W64) : (c.putS n x).loops = c.loops := by unfold Ctx.putS; split <;> rfl
@[simp] theorem Ctx.putS_arith (c : Ctx) (n : Fin 32) (x : W64) : (c.putS n x).arith = c.arith := by unfold Ctx.putS; split <;> rfl
@[simp] theorem Ctx.putS_rmode (c : Ctx) (n : Fin 32) (x : W64) : (c.putS n x).rmode = c.rmode := by unfold Ctx.putS; split <;> rfl
@[simp] theorem Ctx.putS_srseed (c : Ctx) (n : Fin 32) (x : W64) : (c.putS n x).srseed = c.srseed := by unfold Ctx.putS; split <;> rfl
@[simp] theorem Ctx.putS_rsdctr (c : Ctx) (n : Fin 32) (x : W64) : (c.putS n x).rsdctr = c.rsdctr := by unfold Ctx.putS; split <;> rfl
@[simp] theorem Ctx.putS_tvec (c : Ctx) (n : Fin 32) (x : W64) : (c.putS n x).tvec = c.tvec := by unfold Ctx.putS; split <;> rfl
@[simp] theorem Ctx.putS_tcause (c : Ctx) (n : Fin 32) (x : W64) : (c.putS n x).tcause = c.tcause := by unfold Ctx.putS; split <;> rfl
@[simp] theorem Ctx.putS_tpc (c : Ctx) (n : Fin 32) (x : W64) : (c.putS n x).tpc = c.tpc := by unfold Ctx.putS; split <;> rfl
@[simp] theorem Ctx.putS_tinfo (c : Ctx) (n : Fin 32) (x : W64) : (c.putS n x).tinfo = c.tinfo := by unfold Ctx.putS; split <;> rfl
@[simp] theorem Ctx.putS_hnd (c : Ctx) (n : Fin 32) (x : W64) : (c.putS n x).hnd = c.hnd := by unfold Ctx.putS; split <;> rfl
@[simp] theorem Ctx.putS_mid (c : Ctx) (n : Fin 32) (x : W64) : (c.putS n x).mid = c.mid := by unfold Ctx.putS; split <;> rfl
@[simp] theorem Ctx.putS_self (c : Ctx) (n : Fin 32) (x : W64) : (c.putS n x).self = c.self := by unfold Ctx.putS; split <;> rfl
@[simp] theorem Ctx.putS_restarted (c : Ctx) (n : Fin 32) (x : W64) : (c.putS n x).restarted = c.restarted := by unfold Ctx.putS; split <;> rfl
@[simp] theorem Ctx.putS_nsave (c : Ctx) (n : Fin 32) (x : W64) : (c.putS n x).nsave = c.nsave := by unfold Ctx.putS; split <;> rfl
@[simp] theorem Ctx.putS_pslack (c : Ctx) (n : Fin 32) (x : W64) : (c.putS n x).pslack = c.pslack := by unfold Ctx.putS; split <;> rfl
@[simp] theorem Ctx.putS_fewdog (c : Ctx) (n : Fin 32) (x : W64) : (c.putS n x).fewdog = c.fewdog := by unfold Ctx.putS; split <;> rfl
@[simp] theorem Ctx.putS_waitdog (c : Ctx) (n : Fin 32) (x : W64) : (c.putS n x).waitdog = c.waitdog := by unfold Ctx.putS; split <;> rfl
@[simp] theorem Ctx.putS_cycle (c : Ctx) (n : Fin 32) (x : W64) : (c.putS n x).cycle = c.cycle := by unfold Ctx.putS; split <;> rfl
@[simp] theorem Ctx.putS_kcoord (c : Ctx) (n : Fin 32) (x : W64) : (c.putS n x).kcoord = c.kcoord := by unfold Ctx.putS; split <;> rfl
@[simp] theorem Ctx.putS_kshape (c : Ctx) (n : Fin 32) (x : W64) : (c.putS n x).kshape = c.kshape := by unfold Ctx.putS; split <;> rfl
@[simp] theorem Ctx.putS_pkey (c : Ctx) (n : Fin 32) (x : W64) : (c.putS n x).pkey = c.pkey := by unfold Ctx.putS; split <;> rfl
@[simp] theorem Ctx.putS_spbase (c : Ctx) (n : Fin 32) (x : W64) : (c.putS n x).spbase = c.spbase := by unfold Ctx.putS; split <;> rfl
@[simp] theorem Ctx.putS_spsize (c : Ctx) (n : Fin 32) (x : W64) : (c.putS n x).spsize = c.spsize := by unfold Ctx.putS; split <;> rfl
@[simp] theorem Ctx.putS_gmode (c : Ctx) (n : Fin 32) (x : W64) : (c.putS n x).gmode = c.gmode := by unfold Ctx.putS; split <;> rfl
@[simp] theorem Ctx.putS_gdec (c : Ctx) (n : Fin 32) (x : W64) : (c.putS n x).gdec = c.gdec := by unfold Ctx.putS; split <;> rfl
@[simp] theorem Ctx.putS_gchk (c : Ctx) (n : Fin 32) (x : W64) : (c.putS n x).gchk = c.gchk := by unfold Ctx.putS; split <;> rfl
@[simp] theorem Ctx.putS_gskew (c : Ctx) (n : Fin 32) (x : W64) : (c.putS n x).gskew = c.gskew := by unfold Ctx.putS; split <;> rfl
@[simp] theorem Ctx.putS_wait (c : Ctx) (n : Fin 32) (x : W64) : (c.putS n x).wait = c.wait := by unfold Ctx.putS; split <;> rfl
@[simp] theorem Ctx.putS_pends (c : Ctx) (n : Fin 32) (x : W64) : (c.putS n x).pends = c.pends := by unfold Ctx.putS; split <;> rfl
@[simp] theorem Ctx.putS_fbuf (c : Ctx) (n : Fin 32) (x : W64) : (c.putS n x).fbuf = c.fbuf := by unfold Ctx.putS; split <;> rfl
@[simp] theorem Ctx.putS_rings (c : Ctx) (n : Fin 32) (x : W64) : (c.putS n x).rings = c.rings := by unfold Ctx.putS; split <;> rfl
@[simp] theorem Ctx.putS_mxc (c : Ctx) (n : Fin 32) (x : W64) : (c.putS n x).mxc = c.mxc := by unfold Ctx.putS; split <;> rfl
@[simp] theorem Ctx.putS_mxq (c : Ctx) (n : Fin 32) (x : W64) : (c.putS n x).mxq = c.mxq := by unfold Ctx.putS; split <;> rfl
@[simp] theorem Ctx.putS_mxfault (c : Ctx) (n : Fin 32) (x : W64) : (c.putS n x).mxfault = c.mxfault := by unfold Ctx.putS; split <;> rfl
@[simp] theorem Ctx.putS_hold (c : Ctx) (n : Fin 32) (x : W64) : (c.putS n x).hold = c.hold := by unfold Ctx.putS; split <;> rfl
@[simp] theorem Ctx.putS_join (c : Ctx) (n : Fin 32) (x : W64) : (c.putS n x).join = c.join := by unfold Ctx.putS; split <;> rfl
@[simp] theorem Ctx.putS_sctab (c : Ctx) (n : Fin 32) (x : W64) : (c.putS n x).sctab = c.sctab := by unfold Ctx.putS; split <;> rfl
@[simp] theorem Ctx.putS_frec (c : Ctx) (n : Fin 32) (x : W64) : (c.putS n x).frec = c.frec := by unfold Ctx.putS; split <;> rfl
@[simp] theorem Ctx.putS_hreq (c : Ctx) (n : Fin 32) (x : W64) : (c.putS n x).hreq = c.hreq := by unfold Ctx.putS; split <;> rfl
@[simp] theorem Ctx.putS_ctlhalt (c : Ctx) (n : Fin 32) (x : W64) : (c.putS n x).ctlhalt = c.ctlhalt := by unfold Ctx.putS; split <;> rfl
@[simp] theorem Ctx.putS_rarr (c : Ctx) (n : Fin 32) (x : W64) : (c.putS n x).rarr = c.rarr := by unfold Ctx.putS; split <;> rfl
@[simp] theorem Ctx.putS_granted (c : Ctx) (n : Fin 32) (x : W64) : (c.putS n x).granted = c.granted := by unfold Ctx.putS; split <;> rfl
@[simp] theorem Ctx.putS_wake (c : Ctx) (n : Fin 32) (x : W64) : (c.putS n x).wake = c.wake := by unfold Ctx.putS; split <;> rfl
@[simp] theorem Ctx.putS_arrived (c : Ctx) (n : Fin 32) (x : W64) : (c.putS n x).arrived = c.arrived := by unfold Ctx.putS; split <;> rfl
@[simp] theorem Ctx.putS_yielded (c : Ctx) (n : Fin 32) (x : W64) : (c.putS n x).yielded = c.yielded := by unfold Ctx.putS; split <;> rfl
@[simp] theorem Ctx.putS_phnext (c : Ctx) (n : Fin 32) (x : W64) : (c.putS n x).phnext = c.phnext := by unfold Ctx.putS; split <;> rfl
@[simp] theorem Ctx.putS_occ (c : Ctx) (n : Fin 32) (x : W64) : (c.putS n x).occ = c.occ := by unfold Ctx.putS; split <;> rfl
@[simp] theorem Ctx.putS_mir (c : Ctx) (n : Fin 32) (x : W64) : (c.putS n x).mir = c.mir := by unfold Ctx.putS; split <;> rfl
@[simp] theorem Ctx.putS_mirv (c : Ctx) (n : Fin 32) (x : W64) : (c.putS n x).mirv = c.mirv := by unfold Ctx.putS; split <;> rfl
@[simp] theorem Ctx.putS_sigs (c : Ctx) (n : Fin 32) (x : W64) : (c.putS n x).sigs = c.sigs := by unfold Ctx.putS; split <;> rfl
@[simp] theorem Ctx.putS_stream (c : Ctx) (n : Fin 32) (x : W64) : (c.putS n x).stream = c.stream := by unfold Ctx.putS; split <;> rfl
@[simp] theorem Ctx.putS_iter (c : Ctx) (n : Fin 32) (x : W64) : (c.putS n x).iter = c.iter := by unfold Ctx.putS; split <;> rfl
@[simp] theorem Ctx.putS_bwords (c : Ctx) (n : Fin 32) (x : W64) : (c.putS n x).bwords = c.bwords := by unfold Ctx.putS; split <;> rfl
@[simp] theorem Ctx.putS_bsucc (c : Ctx) (n : Fin 32) (x : W64) : (c.putS n x).bsucc = c.bsucc := by unfold Ctx.putS; split <;> rfl
@[simp] theorem Ctx.launch_s (c : Ctx) (v : FVal) (l : W64) (n : Nat) (f : Flags) : (c.launch v l n f).s = c.s := rfl
@[simp] theorem Ctx.launch_v (c : Ctx) (v : FVal) (l : W64) (n : Nat) (f : Flags) : (c.launch v l n f).v = c.v := rfl
@[simp] theorem Ctx.launch_em (c : Ctx) (v : FVal) (l : W64) (n : Nat) (f : Flags) : (c.launch v l n f).em = c.em := rfl
@[simp] theorem Ctx.launch_cm (c : Ctx) (v : FVal) (l : W64) (n : Nat) (f : Flags) : (c.launch v l n f).cm = c.cm := rfl
@[simp] theorem Ctx.launch_pc (c : Ctx) (v : FVal) (l : W64) (n : Nat) (f : Flags) : (c.launch v l n f).pc = c.pc := rfl
@[simp] theorem Ctx.launch_loops (c : Ctx) (v : FVal) (l : W64) (n : Nat) (f : Flags) : (c.launch v l n f).loops = c.loops := rfl
@[simp] theorem Ctx.launch_arith (c : Ctx) (v : FVal) (l : W64) (n : Nat) (f : Flags) : (c.launch v l n f).arith = c.arith := rfl
@[simp] theorem Ctx.launch_rmode (c : Ctx) (v : FVal) (l : W64) (n : Nat) (f : Flags) : (c.launch v l n f).rmode = c.rmode := rfl
@[simp] theorem Ctx.launch_srseed (c : Ctx) (v : FVal) (l : W64) (n : Nat) (f : Flags) : (c.launch v l n f).srseed = c.srseed := rfl
@[simp] theorem Ctx.launch_rsdctr (c : Ctx) (v : FVal) (l : W64) (n : Nat) (f : Flags) : (c.launch v l n f).rsdctr = c.rsdctr := rfl
@[simp] theorem Ctx.launch_tvec (c : Ctx) (v : FVal) (l : W64) (n : Nat) (f : Flags) : (c.launch v l n f).tvec = c.tvec := rfl
@[simp] theorem Ctx.launch_tcause (c : Ctx) (v : FVal) (l : W64) (n : Nat) (f : Flags) : (c.launch v l n f).tcause = c.tcause := rfl
@[simp] theorem Ctx.launch_tpc (c : Ctx) (v : FVal) (l : W64) (n : Nat) (f : Flags) : (c.launch v l n f).tpc = c.tpc := rfl
@[simp] theorem Ctx.launch_tinfo (c : Ctx) (v : FVal) (l : W64) (n : Nat) (f : Flags) : (c.launch v l n f).tinfo = c.tinfo := rfl
@[simp] theorem Ctx.launch_hnd (c : Ctx) (v : FVal) (l : W64) (n : Nat) (f : Flags) : (c.launch v l n f).hnd = c.hnd := rfl
@[simp] theorem Ctx.launch_mid (c : Ctx) (v : FVal) (l : W64) (n : Nat) (f : Flags) : (c.launch v l n f).mid = c.mid := rfl
@[simp] theorem Ctx.launch_self (c : Ctx) (v : FVal) (l : W64) (n : Nat) (f : Flags) : (c.launch v l n f).self = c.self := rfl
@[simp] theorem Ctx.launch_restarted (c : Ctx) (v : FVal) (l : W64) (n : Nat) (f : Flags) : (c.launch v l n f).restarted = c.restarted := rfl
@[simp] theorem Ctx.launch_nsave (c : Ctx) (v : FVal) (l : W64) (n : Nat) (f : Flags) : (c.launch v l n f).nsave = c.nsave := rfl
@[simp] theorem Ctx.launch_pslack (c : Ctx) (v : FVal) (l : W64) (n : Nat) (f : Flags) : (c.launch v l n f).pslack = c.pslack := rfl
@[simp] theorem Ctx.launch_fewdog (c : Ctx) (v : FVal) (l : W64) (n : Nat) (f : Flags) : (c.launch v l n f).fewdog = c.fewdog := rfl
@[simp] theorem Ctx.launch_waitdog (c : Ctx) (v : FVal) (l : W64) (n : Nat) (f : Flags) : (c.launch v l n f).waitdog = c.waitdog := rfl
@[simp] theorem Ctx.launch_cycle (c : Ctx) (v : FVal) (l : W64) (n : Nat) (f : Flags) : (c.launch v l n f).cycle = c.cycle := rfl
@[simp] theorem Ctx.launch_kcoord (c : Ctx) (v : FVal) (l : W64) (n : Nat) (f : Flags) : (c.launch v l n f).kcoord = c.kcoord := rfl
@[simp] theorem Ctx.launch_kshape (c : Ctx) (v : FVal) (l : W64) (n : Nat) (f : Flags) : (c.launch v l n f).kshape = c.kshape := rfl
@[simp] theorem Ctx.launch_pkey (c : Ctx) (v : FVal) (l : W64) (n : Nat) (f : Flags) : (c.launch v l n f).pkey = c.pkey := rfl
@[simp] theorem Ctx.launch_spbase (c : Ctx) (v : FVal) (l : W64) (n : Nat) (f : Flags) : (c.launch v l n f).spbase = c.spbase := rfl
@[simp] theorem Ctx.launch_spsize (c : Ctx) (v : FVal) (l : W64) (n : Nat) (f : Flags) : (c.launch v l n f).spsize = c.spsize := rfl
@[simp] theorem Ctx.launch_gmode (c : Ctx) (v : FVal) (l : W64) (n : Nat) (f : Flags) : (c.launch v l n f).gmode = c.gmode := rfl
@[simp] theorem Ctx.launch_gdec (c : Ctx) (v : FVal) (l : W64) (n : Nat) (f : Flags) : (c.launch v l n f).gdec = c.gdec := rfl
@[simp] theorem Ctx.launch_gchk (c : Ctx) (v : FVal) (l : W64) (n : Nat) (f : Flags) : (c.launch v l n f).gchk = c.gchk := rfl
@[simp] theorem Ctx.launch_gskew (c : Ctx) (v : FVal) (l : W64) (n : Nat) (f : Flags) : (c.launch v l n f).gskew = c.gskew := rfl
@[simp] theorem Ctx.launch_wait (c : Ctx) (v : FVal) (l : W64) (n : Nat) (f : Flags) : (c.launch v l n f).wait = c.wait := rfl
@[simp] theorem Ctx.launch_pends (c : Ctx) (v : FVal) (l : W64) (n : Nat) (f : Flags) : (c.launch v l n f).pends = c.pends := rfl
@[simp] theorem Ctx.launch_fbuf (c : Ctx) (v : FVal) (l : W64) (n : Nat) (f : Flags) : (c.launch v l n f).fbuf = c.fbuf := rfl
@[simp] theorem Ctx.launch_rings (c : Ctx) (v : FVal) (l : W64) (n : Nat) (f : Flags) : (c.launch v l n f).rings = c.rings := rfl
@[simp] theorem Ctx.launch_mxc (c : Ctx) (v : FVal) (l : W64) (n : Nat) (f : Flags) : (c.launch v l n f).mxc = c.mxc := rfl
@[simp] theorem Ctx.launch_mxq (c : Ctx) (v : FVal) (l : W64) (n : Nat) (f : Flags) : (c.launch v l n f).mxq = c.mxq := rfl
@[simp] theorem Ctx.launch_mxfault (c : Ctx) (v : FVal) (l : W64) (n : Nat) (f : Flags) : (c.launch v l n f).mxfault = c.mxfault := rfl
@[simp] theorem Ctx.launch_hold (c : Ctx) (v : FVal) (l : W64) (n : Nat) (f : Flags) : (c.launch v l n f).hold = c.hold := rfl
@[simp] theorem Ctx.launch_join (c : Ctx) (v : FVal) (l : W64) (n : Nat) (f : Flags) : (c.launch v l n f).join = c.join := rfl
@[simp] theorem Ctx.launch_sctab (c : Ctx) (v : FVal) (l : W64) (n : Nat) (f : Flags) : (c.launch v l n f).sctab = c.sctab := rfl
@[simp] theorem Ctx.launch_frec (c : Ctx) (v : FVal) (l : W64) (n : Nat) (f : Flags) : (c.launch v l n f).frec = c.frec := rfl
@[simp] theorem Ctx.launch_hreq (c : Ctx) (v : FVal) (l : W64) (n : Nat) (f : Flags) : (c.launch v l n f).hreq = c.hreq := rfl
@[simp] theorem Ctx.launch_ctlhalt (c : Ctx) (v : FVal) (l : W64) (n : Nat) (f : Flags) : (c.launch v l n f).ctlhalt = c.ctlhalt := rfl
@[simp] theorem Ctx.launch_rarr (c : Ctx) (v : FVal) (l : W64) (n : Nat) (f : Flags) : (c.launch v l n f).rarr = c.rarr := rfl
@[simp] theorem Ctx.launch_granted (c : Ctx) (v : FVal) (l : W64) (n : Nat) (f : Flags) : (c.launch v l n f).granted = c.granted := rfl
@[simp] theorem Ctx.launch_wake (c : Ctx) (v : FVal) (l : W64) (n : Nat) (f : Flags) : (c.launch v l n f).wake = c.wake := rfl
@[simp] theorem Ctx.launch_arrived (c : Ctx) (v : FVal) (l : W64) (n : Nat) (f : Flags) : (c.launch v l n f).arrived = c.arrived := rfl
@[simp] theorem Ctx.launch_yielded (c : Ctx) (v : FVal) (l : W64) (n : Nat) (f : Flags) : (c.launch v l n f).yielded = c.yielded := rfl
@[simp] theorem Ctx.launch_phnext (c : Ctx) (v : FVal) (l : W64) (n : Nat) (f : Flags) : (c.launch v l n f).phnext = c.phnext := rfl
@[simp] theorem Ctx.launch_occ (c : Ctx) (v : FVal) (l : W64) (n : Nat) (f : Flags) : (c.launch v l n f).occ = c.occ := rfl
@[simp] theorem Ctx.launch_mir (c : Ctx) (v : FVal) (l : W64) (n : Nat) (f : Flags) : (c.launch v l n f).mir = c.mir := rfl
@[simp] theorem Ctx.launch_mirv (c : Ctx) (v : FVal) (l : W64) (n : Nat) (f : Flags) : (c.launch v l n f).mirv = c.mirv := rfl
@[simp] theorem Ctx.launch_sigs (c : Ctx) (v : FVal) (l : W64) (n : Nat) (f : Flags) : (c.launch v l n f).sigs = c.sigs := rfl
@[simp] theorem Ctx.launch_stream (c : Ctx) (v : FVal) (l : W64) (n : Nat) (f : Flags) : (c.launch v l n f).stream = c.stream := rfl
@[simp] theorem Ctx.launch_iter (c : Ctx) (v : FVal) (l : W64) (n : Nat) (f : Flags) : (c.launch v l n f).iter = c.iter := rfl
@[simp] theorem Ctx.launch_bwords (c : Ctx) (v : FVal) (l : W64) (n : Nat) (f : Flags) : (c.launch v l n f).bwords = c.bwords := rfl
@[simp] theorem Ctx.launch_bsucc (c : Ctx) (v : FVal) (l : W64) (n : Nat) (f : Flags) : (c.launch v l n f).bsucc = c.bsucc := rfl
@[simp] theorem Ctx.sign_s (c : Ctx) (b : List SigItem) (n : Nat) : (c.sign b n).s = c.s := by unfold Ctx.sign; split <;> rfl
@[simp] theorem Ctx.sign_v (c : Ctx) (b : List SigItem) (n : Nat) : (c.sign b n).v = c.v := by unfold Ctx.sign; split <;> rfl
@[simp] theorem Ctx.sign_em (c : Ctx) (b : List SigItem) (n : Nat) : (c.sign b n).em = c.em := by unfold Ctx.sign; split <;> rfl
@[simp] theorem Ctx.sign_cm (c : Ctx) (b : List SigItem) (n : Nat) : (c.sign b n).cm = c.cm := by unfold Ctx.sign; split <;> rfl
@[simp] theorem Ctx.sign_pc (c : Ctx) (b : List SigItem) (n : Nat) : (c.sign b n).pc = c.pc := by unfold Ctx.sign; split <;> rfl
@[simp] theorem Ctx.sign_loops (c : Ctx) (b : List SigItem) (n : Nat) : (c.sign b n).loops = c.loops := by unfold Ctx.sign; split <;> rfl
@[simp] theorem Ctx.sign_arith (c : Ctx) (b : List SigItem) (n : Nat) : (c.sign b n).arith = c.arith := by unfold Ctx.sign; split <;> rfl
@[simp] theorem Ctx.sign_rmode (c : Ctx) (b : List SigItem) (n : Nat) : (c.sign b n).rmode = c.rmode := by unfold Ctx.sign; split <;> rfl
@[simp] theorem Ctx.sign_srseed (c : Ctx) (b : List SigItem) (n : Nat) : (c.sign b n).srseed = c.srseed := by unfold Ctx.sign; split <;> rfl
@[simp] theorem Ctx.sign_rsdctr (c : Ctx) (b : List SigItem) (n : Nat) : (c.sign b n).rsdctr = c.rsdctr := by unfold Ctx.sign; split <;> rfl
@[simp] theorem Ctx.sign_tvec (c : Ctx) (b : List SigItem) (n : Nat) : (c.sign b n).tvec = c.tvec := by unfold Ctx.sign; split <;> rfl
@[simp] theorem Ctx.sign_tcause (c : Ctx) (b : List SigItem) (n : Nat) : (c.sign b n).tcause = c.tcause := by unfold Ctx.sign; split <;> rfl
@[simp] theorem Ctx.sign_tpc (c : Ctx) (b : List SigItem) (n : Nat) : (c.sign b n).tpc = c.tpc := by unfold Ctx.sign; split <;> rfl
@[simp] theorem Ctx.sign_tinfo (c : Ctx) (b : List SigItem) (n : Nat) : (c.sign b n).tinfo = c.tinfo := by unfold Ctx.sign; split <;> rfl
@[simp] theorem Ctx.sign_hnd (c : Ctx) (b : List SigItem) (n : Nat) : (c.sign b n).hnd = c.hnd := by unfold Ctx.sign; split <;> rfl
@[simp] theorem Ctx.sign_mid (c : Ctx) (b : List SigItem) (n : Nat) : (c.sign b n).mid = c.mid := by unfold Ctx.sign; split <;> rfl
@[simp] theorem Ctx.sign_self (c : Ctx) (b : List SigItem) (n : Nat) : (c.sign b n).self = c.self := by unfold Ctx.sign; split <;> rfl
@[simp] theorem Ctx.sign_restarted (c : Ctx) (b : List SigItem) (n : Nat) : (c.sign b n).restarted = c.restarted := by unfold Ctx.sign; split <;> rfl
@[simp] theorem Ctx.sign_nsave (c : Ctx) (b : List SigItem) (n : Nat) : (c.sign b n).nsave = c.nsave := by unfold Ctx.sign; split <;> rfl
@[simp] theorem Ctx.sign_pslack (c : Ctx) (b : List SigItem) (n : Nat) : (c.sign b n).pslack = c.pslack := by unfold Ctx.sign; split <;> rfl
@[simp] theorem Ctx.sign_fewdog (c : Ctx) (b : List SigItem) (n : Nat) : (c.sign b n).fewdog = c.fewdog := by unfold Ctx.sign; split <;> rfl
@[simp] theorem Ctx.sign_waitdog (c : Ctx) (b : List SigItem) (n : Nat) : (c.sign b n).waitdog = c.waitdog := by unfold Ctx.sign; split <;> rfl
@[simp] theorem Ctx.sign_cycle (c : Ctx) (b : List SigItem) (n : Nat) : (c.sign b n).cycle = c.cycle := by unfold Ctx.sign; split <;> rfl
@[simp] theorem Ctx.sign_kcoord (c : Ctx) (b : List SigItem) (n : Nat) : (c.sign b n).kcoord = c.kcoord := by unfold Ctx.sign; split <;> rfl
@[simp] theorem Ctx.sign_kshape (c : Ctx) (b : List SigItem) (n : Nat) : (c.sign b n).kshape = c.kshape := by unfold Ctx.sign; split <;> rfl
@[simp] theorem Ctx.sign_pkey (c : Ctx) (b : List SigItem) (n : Nat) : (c.sign b n).pkey = c.pkey := by unfold Ctx.sign; split <;> rfl
@[simp] theorem Ctx.sign_spbase (c : Ctx) (b : List SigItem) (n : Nat) : (c.sign b n).spbase = c.spbase := by unfold Ctx.sign; split <;> rfl
@[simp] theorem Ctx.sign_spsize (c : Ctx) (b : List SigItem) (n : Nat) : (c.sign b n).spsize = c.spsize := by unfold Ctx.sign; split <;> rfl
@[simp] theorem Ctx.sign_gmode (c : Ctx) (b : List SigItem) (n : Nat) : (c.sign b n).gmode = c.gmode := by unfold Ctx.sign; split <;> rfl
@[simp] theorem Ctx.sign_gdec (c : Ctx) (b : List SigItem) (n : Nat) : (c.sign b n).gdec = c.gdec := by unfold Ctx.sign; split <;> rfl
@[simp] theorem Ctx.sign_gchk (c : Ctx) (b : List SigItem) (n : Nat) : (c.sign b n).gchk = c.gchk := by unfold Ctx.sign; split <;> rfl
@[simp] theorem Ctx.sign_gskew (c : Ctx) (b : List SigItem) (n : Nat) : (c.sign b n).gskew = c.gskew := by unfold Ctx.sign; split <;> rfl
@[simp] theorem Ctx.sign_wait (c : Ctx) (b : List SigItem) (n : Nat) : (c.sign b n).wait = c.wait := by unfold Ctx.sign; split <;> rfl
@[simp] theorem Ctx.sign_flight (c : Ctx) (b : List SigItem) (n : Nat) : (c.sign b n).flight = c.flight := by unfold Ctx.sign; split <;> rfl
@[simp] theorem Ctx.sign_pends (c : Ctx) (b : List SigItem) (n : Nat) : (c.sign b n).pends = c.pends := by unfold Ctx.sign; split <;> rfl
@[simp] theorem Ctx.sign_fbuf (c : Ctx) (b : List SigItem) (n : Nat) : (c.sign b n).fbuf = c.fbuf := by unfold Ctx.sign; split <;> rfl
@[simp] theorem Ctx.sign_rings (c : Ctx) (b : List SigItem) (n : Nat) : (c.sign b n).rings = c.rings := by unfold Ctx.sign; split <;> rfl
@[simp] theorem Ctx.sign_mxc (c : Ctx) (b : List SigItem) (n : Nat) : (c.sign b n).mxc = c.mxc := by unfold Ctx.sign; split <;> rfl
@[simp] theorem Ctx.sign_mxq (c : Ctx) (b : List SigItem) (n : Nat) : (c.sign b n).mxq = c.mxq := by unfold Ctx.sign; split <;> rfl
@[simp] theorem Ctx.sign_mxfault (c : Ctx) (b : List SigItem) (n : Nat) : (c.sign b n).mxfault = c.mxfault := by unfold Ctx.sign; split <;> rfl
@[simp] theorem Ctx.sign_hold (c : Ctx) (b : List SigItem) (n : Nat) : (c.sign b n).hold = c.hold := by unfold Ctx.sign; split <;> rfl
@[simp] theorem Ctx.sign_join (c : Ctx) (b : List SigItem) (n : Nat) : (c.sign b n).join = c.join := by unfold Ctx.sign; split <;> rfl
@[simp] theorem Ctx.sign_sctab (c : Ctx) (b : List SigItem) (n : Nat) : (c.sign b n).sctab = c.sctab := by unfold Ctx.sign; split <;> rfl
@[simp] theorem Ctx.sign_frec (c : Ctx) (b : List SigItem) (n : Nat) : (c.sign b n).frec = c.frec := by unfold Ctx.sign; split <;> rfl
@[simp] theorem Ctx.sign_hreq (c : Ctx) (b : List SigItem) (n : Nat) : (c.sign b n).hreq = c.hreq := by unfold Ctx.sign; split <;> rfl
@[simp] theorem Ctx.sign_ctlhalt (c : Ctx) (b : List SigItem) (n : Nat) : (c.sign b n).ctlhalt = c.ctlhalt := by unfold Ctx.sign; split <;> rfl
@[simp] theorem Ctx.sign_rarr (c : Ctx) (b : List SigItem) (n : Nat) : (c.sign b n).rarr = c.rarr := by unfold Ctx.sign; split <;> rfl
@[simp] theorem Ctx.sign_granted (c : Ctx) (b : List SigItem) (n : Nat) : (c.sign b n).granted = c.granted := by unfold Ctx.sign; split <;> rfl
@[simp] theorem Ctx.sign_wake (c : Ctx) (b : List SigItem) (n : Nat) : (c.sign b n).wake = c.wake := by unfold Ctx.sign; split <;> rfl
@[simp] theorem Ctx.sign_arrived (c : Ctx) (b : List SigItem) (n : Nat) : (c.sign b n).arrived = c.arrived := by unfold Ctx.sign; split <;> rfl
@[simp] theorem Ctx.sign_yielded (c : Ctx) (b : List SigItem) (n : Nat) : (c.sign b n).yielded = c.yielded := by unfold Ctx.sign; split <;> rfl
@[simp] theorem Ctx.sign_phnext (c : Ctx) (b : List SigItem) (n : Nat) : (c.sign b n).phnext = c.phnext := by unfold Ctx.sign; split <;> rfl
@[simp] theorem Ctx.sign_occ (c : Ctx) (b : List SigItem) (n : Nat) : (c.sign b n).occ = c.occ := by unfold Ctx.sign; split <;> rfl
@[simp] theorem Ctx.sign_mir (c : Ctx) (b : List SigItem) (n : Nat) : (c.sign b n).mir = c.mir := by unfold Ctx.sign; split <;> rfl
@[simp] theorem Ctx.sign_mirv (c : Ctx) (b : List SigItem) (n : Nat) : (c.sign b n).mirv = c.mirv := by unfold Ctx.sign; split <;> rfl
@[simp] theorem Ctx.sign_stream (c : Ctx) (b : List SigItem) (n : Nat) : (c.sign b n).stream = c.stream := by unfold Ctx.sign; split <;> rfl
@[simp] theorem Ctx.sign_iter (c : Ctx) (b : List SigItem) (n : Nat) : (c.sign b n).iter = c.iter := by unfold Ctx.sign; split <;> rfl
@[simp] theorem Ctx.sign_bwords (c : Ctx) (b : List SigItem) (n : Nat) : (c.sign b n).bwords = c.bwords := by unfold Ctx.sign; split <;> rfl
@[simp] theorem Ctx.sign_bsucc (c : Ctx) (b : List SigItem) (n : Nat) : (c.sign b n).bsucc = c.bsucc := by unfold Ctx.sign; split <;> rfl
@[simp] theorem Ctx.raiseFlags_s (c : Ctx) (f : Flags) : (c.raiseFlags f).s = c.s := rfl
@[simp] theorem Ctx.raiseFlags_v (c : Ctx) (f : Flags) : (c.raiseFlags f).v = c.v := rfl
@[simp] theorem Ctx.raiseFlags_em (c : Ctx) (f : Flags) : (c.raiseFlags f).em = c.em := rfl
@[simp] theorem Ctx.raiseFlags_cm (c : Ctx) (f : Flags) : (c.raiseFlags f).cm = c.cm := rfl
@[simp] theorem Ctx.raiseFlags_pc (c : Ctx) (f : Flags) : (c.raiseFlags f).pc = c.pc := rfl
@[simp] theorem Ctx.raiseFlags_loops (c : Ctx) (f : Flags) : (c.raiseFlags f).loops = c.loops := rfl
@[simp] theorem Ctx.raiseFlags_rmode (c : Ctx) (f : Flags) : (c.raiseFlags f).rmode = c.rmode := rfl
@[simp] theorem Ctx.raiseFlags_srseed (c : Ctx) (f : Flags) : (c.raiseFlags f).srseed = c.srseed := rfl
@[simp] theorem Ctx.raiseFlags_rsdctr (c : Ctx) (f : Flags) : (c.raiseFlags f).rsdctr = c.rsdctr := rfl
@[simp] theorem Ctx.raiseFlags_tvec (c : Ctx) (f : Flags) : (c.raiseFlags f).tvec = c.tvec := rfl
@[simp] theorem Ctx.raiseFlags_tcause (c : Ctx) (f : Flags) : (c.raiseFlags f).tcause = c.tcause := rfl
@[simp] theorem Ctx.raiseFlags_tpc (c : Ctx) (f : Flags) : (c.raiseFlags f).tpc = c.tpc := rfl
@[simp] theorem Ctx.raiseFlags_tinfo (c : Ctx) (f : Flags) : (c.raiseFlags f).tinfo = c.tinfo := rfl
@[simp] theorem Ctx.raiseFlags_hnd (c : Ctx) (f : Flags) : (c.raiseFlags f).hnd = c.hnd := rfl
@[simp] theorem Ctx.raiseFlags_mid (c : Ctx) (f : Flags) : (c.raiseFlags f).mid = c.mid := rfl
@[simp] theorem Ctx.raiseFlags_self (c : Ctx) (f : Flags) : (c.raiseFlags f).self = c.self := rfl
@[simp] theorem Ctx.raiseFlags_restarted (c : Ctx) (f : Flags) : (c.raiseFlags f).restarted = c.restarted := rfl
@[simp] theorem Ctx.raiseFlags_nsave (c : Ctx) (f : Flags) : (c.raiseFlags f).nsave = c.nsave := rfl
@[simp] theorem Ctx.raiseFlags_pslack (c : Ctx) (f : Flags) : (c.raiseFlags f).pslack = c.pslack := rfl
@[simp] theorem Ctx.raiseFlags_fewdog (c : Ctx) (f : Flags) : (c.raiseFlags f).fewdog = c.fewdog := rfl
@[simp] theorem Ctx.raiseFlags_waitdog (c : Ctx) (f : Flags) : (c.raiseFlags f).waitdog = c.waitdog := rfl
@[simp] theorem Ctx.raiseFlags_cycle (c : Ctx) (f : Flags) : (c.raiseFlags f).cycle = c.cycle := rfl
@[simp] theorem Ctx.raiseFlags_kcoord (c : Ctx) (f : Flags) : (c.raiseFlags f).kcoord = c.kcoord := rfl
@[simp] theorem Ctx.raiseFlags_kshape (c : Ctx) (f : Flags) : (c.raiseFlags f).kshape = c.kshape := rfl
@[simp] theorem Ctx.raiseFlags_pkey (c : Ctx) (f : Flags) : (c.raiseFlags f).pkey = c.pkey := rfl
@[simp] theorem Ctx.raiseFlags_spbase (c : Ctx) (f : Flags) : (c.raiseFlags f).spbase = c.spbase := rfl
@[simp] theorem Ctx.raiseFlags_spsize (c : Ctx) (f : Flags) : (c.raiseFlags f).spsize = c.spsize := rfl
@[simp] theorem Ctx.raiseFlags_gmode (c : Ctx) (f : Flags) : (c.raiseFlags f).gmode = c.gmode := rfl
@[simp] theorem Ctx.raiseFlags_gdec (c : Ctx) (f : Flags) : (c.raiseFlags f).gdec = c.gdec := rfl
@[simp] theorem Ctx.raiseFlags_gchk (c : Ctx) (f : Flags) : (c.raiseFlags f).gchk = c.gchk := rfl
@[simp] theorem Ctx.raiseFlags_gskew (c : Ctx) (f : Flags) : (c.raiseFlags f).gskew = c.gskew := rfl
@[simp] theorem Ctx.raiseFlags_wait (c : Ctx) (f : Flags) : (c.raiseFlags f).wait = c.wait := rfl
@[simp] theorem Ctx.raiseFlags_flight (c : Ctx) (f : Flags) : (c.raiseFlags f).flight = c.flight := rfl
@[simp] theorem Ctx.raiseFlags_pends (c : Ctx) (f : Flags) : (c.raiseFlags f).pends = c.pends := rfl
@[simp] theorem Ctx.raiseFlags_fbuf (c : Ctx) (f : Flags) : (c.raiseFlags f).fbuf = c.fbuf := rfl
@[simp] theorem Ctx.raiseFlags_rings (c : Ctx) (f : Flags) : (c.raiseFlags f).rings = c.rings := rfl
@[simp] theorem Ctx.raiseFlags_mxc (c : Ctx) (f : Flags) : (c.raiseFlags f).mxc = c.mxc := rfl
@[simp] theorem Ctx.raiseFlags_mxq (c : Ctx) (f : Flags) : (c.raiseFlags f).mxq = c.mxq := rfl
@[simp] theorem Ctx.raiseFlags_mxfault (c : Ctx) (f : Flags) : (c.raiseFlags f).mxfault = c.mxfault := rfl
@[simp] theorem Ctx.raiseFlags_hold (c : Ctx) (f : Flags) : (c.raiseFlags f).hold = c.hold := rfl
@[simp] theorem Ctx.raiseFlags_join (c : Ctx) (f : Flags) : (c.raiseFlags f).join = c.join := rfl
@[simp] theorem Ctx.raiseFlags_sctab (c : Ctx) (f : Flags) : (c.raiseFlags f).sctab = c.sctab := rfl
@[simp] theorem Ctx.raiseFlags_frec (c : Ctx) (f : Flags) : (c.raiseFlags f).frec = c.frec := rfl
@[simp] theorem Ctx.raiseFlags_hreq (c : Ctx) (f : Flags) : (c.raiseFlags f).hreq = c.hreq := rfl
@[simp] theorem Ctx.raiseFlags_ctlhalt (c : Ctx) (f : Flags) : (c.raiseFlags f).ctlhalt = c.ctlhalt := rfl
@[simp] theorem Ctx.raiseFlags_rarr (c : Ctx) (f : Flags) : (c.raiseFlags f).rarr = c.rarr := rfl
@[simp] theorem Ctx.raiseFlags_granted (c : Ctx) (f : Flags) : (c.raiseFlags f).granted = c.granted := rfl
@[simp] theorem Ctx.raiseFlags_wake (c : Ctx) (f : Flags) : (c.raiseFlags f).wake = c.wake := rfl
@[simp] theorem Ctx.raiseFlags_arrived (c : Ctx) (f : Flags) : (c.raiseFlags f).arrived = c.arrived := rfl
@[simp] theorem Ctx.raiseFlags_yielded (c : Ctx) (f : Flags) : (c.raiseFlags f).yielded = c.yielded := rfl
@[simp] theorem Ctx.raiseFlags_phnext (c : Ctx) (f : Flags) : (c.raiseFlags f).phnext = c.phnext := rfl
@[simp] theorem Ctx.raiseFlags_occ (c : Ctx) (f : Flags) : (c.raiseFlags f).occ = c.occ := rfl
@[simp] theorem Ctx.raiseFlags_mir (c : Ctx) (f : Flags) : (c.raiseFlags f).mir = c.mir := rfl
@[simp] theorem Ctx.raiseFlags_mirv (c : Ctx) (f : Flags) : (c.raiseFlags f).mirv = c.mirv := rfl
@[simp] theorem Ctx.raiseFlags_sigs (c : Ctx) (f : Flags) : (c.raiseFlags f).sigs = c.sigs := rfl
@[simp] theorem Ctx.raiseFlags_stream (c : Ctx) (f : Flags) : (c.raiseFlags f).stream = c.stream := rfl
@[simp] theorem Ctx.raiseFlags_iter (c : Ctx) (f : Flags) : (c.raiseFlags f).iter = c.iter := rfl
@[simp] theorem Ctx.raiseFlags_bwords (c : Ctx) (f : Flags) : (c.raiseFlags f).bwords = c.bwords := rfl
@[simp] theorem Ctx.raiseFlags_bsucc (c : Ctx) (f : Flags) : (c.raiseFlags f).bsucc = c.bsucc := rfl
@[simp] theorem Ctx.goto_s (c : Ctx) (a : Addr) : (c.goto a).s = c.s := rfl
@[simp] theorem Ctx.goto_v (c : Ctx) (a : Addr) : (c.goto a).v = c.v := rfl
@[simp] theorem Ctx.goto_em (c : Ctx) (a : Addr) : (c.goto a).em = c.em := rfl
@[simp] theorem Ctx.goto_cm (c : Ctx) (a : Addr) : (c.goto a).cm = c.cm := rfl
@[simp] theorem Ctx.goto_loops (c : Ctx) (a : Addr) : (c.goto a).loops = c.loops := rfl
@[simp] theorem Ctx.goto_arith (c : Ctx) (a : Addr) : (c.goto a).arith = c.arith := rfl
@[simp] theorem Ctx.goto_rmode (c : Ctx) (a : Addr) : (c.goto a).rmode = c.rmode := rfl
@[simp] theorem Ctx.goto_srseed (c : Ctx) (a : Addr) : (c.goto a).srseed = c.srseed := rfl
@[simp] theorem Ctx.goto_rsdctr (c : Ctx) (a : Addr) : (c.goto a).rsdctr = c.rsdctr := rfl
@[simp] theorem Ctx.goto_tvec (c : Ctx) (a : Addr) : (c.goto a).tvec = c.tvec := rfl
@[simp] theorem Ctx.goto_tcause (c : Ctx) (a : Addr) : (c.goto a).tcause = c.tcause := rfl
@[simp] theorem Ctx.goto_tpc (c : Ctx) (a : Addr) : (c.goto a).tpc = c.tpc := rfl
@[simp] theorem Ctx.goto_tinfo (c : Ctx) (a : Addr) : (c.goto a).tinfo = c.tinfo := rfl
@[simp] theorem Ctx.goto_hnd (c : Ctx) (a : Addr) : (c.goto a).hnd = c.hnd := rfl
@[simp] theorem Ctx.goto_mid (c : Ctx) (a : Addr) : (c.goto a).mid = c.mid := rfl
@[simp] theorem Ctx.goto_self (c : Ctx) (a : Addr) : (c.goto a).self = c.self := rfl
@[simp] theorem Ctx.goto_restarted (c : Ctx) (a : Addr) : (c.goto a).restarted = c.restarted := rfl
@[simp] theorem Ctx.goto_nsave (c : Ctx) (a : Addr) : (c.goto a).nsave = c.nsave := rfl
@[simp] theorem Ctx.goto_pslack (c : Ctx) (a : Addr) : (c.goto a).pslack = c.pslack := rfl
@[simp] theorem Ctx.goto_fewdog (c : Ctx) (a : Addr) : (c.goto a).fewdog = c.fewdog := rfl
@[simp] theorem Ctx.goto_waitdog (c : Ctx) (a : Addr) : (c.goto a).waitdog = c.waitdog := rfl
@[simp] theorem Ctx.goto_cycle (c : Ctx) (a : Addr) : (c.goto a).cycle = c.cycle := rfl
@[simp] theorem Ctx.goto_kcoord (c : Ctx) (a : Addr) : (c.goto a).kcoord = c.kcoord := rfl
@[simp] theorem Ctx.goto_kshape (c : Ctx) (a : Addr) : (c.goto a).kshape = c.kshape := rfl
@[simp] theorem Ctx.goto_pkey (c : Ctx) (a : Addr) : (c.goto a).pkey = c.pkey := rfl
@[simp] theorem Ctx.goto_spbase (c : Ctx) (a : Addr) : (c.goto a).spbase = c.spbase := rfl
@[simp] theorem Ctx.goto_spsize (c : Ctx) (a : Addr) : (c.goto a).spsize = c.spsize := rfl
@[simp] theorem Ctx.goto_gmode (c : Ctx) (a : Addr) : (c.goto a).gmode = c.gmode := rfl
@[simp] theorem Ctx.goto_gdec (c : Ctx) (a : Addr) : (c.goto a).gdec = c.gdec := rfl
@[simp] theorem Ctx.goto_gchk (c : Ctx) (a : Addr) : (c.goto a).gchk = c.gchk := rfl
@[simp] theorem Ctx.goto_gskew (c : Ctx) (a : Addr) : (c.goto a).gskew = c.gskew := rfl
@[simp] theorem Ctx.goto_wait (c : Ctx) (a : Addr) : (c.goto a).wait = c.wait := rfl
@[simp] theorem Ctx.goto_flight (c : Ctx) (a : Addr) : (c.goto a).flight = c.flight := rfl
@[simp] theorem Ctx.goto_pends (c : Ctx) (a : Addr) : (c.goto a).pends = c.pends := rfl
@[simp] theorem Ctx.goto_rings (c : Ctx) (a : Addr) : (c.goto a).rings = c.rings := rfl
@[simp] theorem Ctx.goto_mxc (c : Ctx) (a : Addr) : (c.goto a).mxc = c.mxc := rfl
@[simp] theorem Ctx.goto_mxq (c : Ctx) (a : Addr) : (c.goto a).mxq = c.mxq := rfl
@[simp] theorem Ctx.goto_mxfault (c : Ctx) (a : Addr) : (c.goto a).mxfault = c.mxfault := rfl
@[simp] theorem Ctx.goto_hold (c : Ctx) (a : Addr) : (c.goto a).hold = c.hold := rfl
@[simp] theorem Ctx.goto_join (c : Ctx) (a : Addr) : (c.goto a).join = c.join := rfl
@[simp] theorem Ctx.goto_sctab (c : Ctx) (a : Addr) : (c.goto a).sctab = c.sctab := rfl
@[simp] theorem Ctx.goto_frec (c : Ctx) (a : Addr) : (c.goto a).frec = c.frec := rfl
@[simp] theorem Ctx.goto_hreq (c : Ctx) (a : Addr) : (c.goto a).hreq = c.hreq := rfl
@[simp] theorem Ctx.goto_ctlhalt (c : Ctx) (a : Addr) : (c.goto a).ctlhalt = c.ctlhalt := rfl
@[simp] theorem Ctx.goto_rarr (c : Ctx) (a : Addr) : (c.goto a).rarr = c.rarr := rfl
@[simp] theorem Ctx.goto_granted (c : Ctx) (a : Addr) : (c.goto a).granted = c.granted := rfl
@[simp] theorem Ctx.goto_wake (c : Ctx) (a : Addr) : (c.goto a).wake = c.wake := rfl
@[simp] theorem Ctx.goto_arrived (c : Ctx) (a : Addr) : (c.goto a).arrived = c.arrived := rfl
@[simp] theorem Ctx.goto_yielded (c : Ctx) (a : Addr) : (c.goto a).yielded = c.yielded := rfl
@[simp] theorem Ctx.goto_phnext (c : Ctx) (a : Addr) : (c.goto a).phnext = c.phnext := rfl
@[simp] theorem Ctx.goto_occ (c : Ctx) (a : Addr) : (c.goto a).occ = c.occ := rfl
@[simp] theorem Ctx.goto_mir (c : Ctx) (a : Addr) : (c.goto a).mir = c.mir := rfl
@[simp] theorem Ctx.goto_mirv (c : Ctx) (a : Addr) : (c.goto a).mirv = c.mirv := rfl
@[simp] theorem Ctx.goto_sigs (c : Ctx) (a : Addr) : (c.goto a).sigs = c.sigs := rfl
@[simp] theorem Ctx.goto_stream (c : Ctx) (a : Addr) : (c.goto a).stream = c.stream := rfl
@[simp] theorem Ctx.goto_iter (c : Ctx) (a : Addr) : (c.goto a).iter = c.iter := rfl
@[simp] theorem Ctx.goto_bwords (c : Ctx) (a : Addr) : (c.goto a).bwords = c.bwords := rfl
@[simp] theorem Ctx.goto_bsucc (c : Ctx) (a : Addr) : (c.goto a).bsucc = c.bsucc := rfl
@[simp] theorem Ctx.endSeq_s (c : Ctx) : c.endSeq.s = c.s := by unfold Ctx.endSeq; split <;> rfl
@[simp] theorem Ctx.endSeq_v (c : Ctx) : c.endSeq.v = c.v := by unfold Ctx.endSeq; split <;> rfl
@[simp] theorem Ctx.endSeq_em (c : Ctx) : c.endSeq.em = c.em := by unfold Ctx.endSeq; split <;> rfl
@[simp] theorem Ctx.endSeq_cm (c : Ctx) : c.endSeq.cm = c.cm := by unfold Ctx.endSeq; split <;> rfl
@[simp] theorem Ctx.endSeq_arith (c : Ctx) : c.endSeq.arith = c.arith := by unfold Ctx.endSeq; split <;> rfl
@[simp] theorem Ctx.endSeq_rmode (c : Ctx) : c.endSeq.rmode = c.rmode := by unfold Ctx.endSeq; split <;> rfl
@[simp] theorem Ctx.endSeq_srseed (c : Ctx) : c.endSeq.srseed = c.srseed := by unfold Ctx.endSeq; split <;> rfl
@[simp] theorem Ctx.endSeq_rsdctr (c : Ctx) : c.endSeq.rsdctr = c.rsdctr := by unfold Ctx.endSeq; split <;> rfl
@[simp] theorem Ctx.endSeq_tvec (c : Ctx) : c.endSeq.tvec = c.tvec := by unfold Ctx.endSeq; split <;> rfl
@[simp] theorem Ctx.endSeq_tcause (c : Ctx) : c.endSeq.tcause = c.tcause := by unfold Ctx.endSeq; split <;> rfl
@[simp] theorem Ctx.endSeq_tpc (c : Ctx) : c.endSeq.tpc = c.tpc := by unfold Ctx.endSeq; split <;> rfl
@[simp] theorem Ctx.endSeq_tinfo (c : Ctx) : c.endSeq.tinfo = c.tinfo := by unfold Ctx.endSeq; split <;> rfl
@[simp] theorem Ctx.endSeq_hnd (c : Ctx) : c.endSeq.hnd = c.hnd := by unfold Ctx.endSeq; split <;> rfl
@[simp] theorem Ctx.endSeq_mid (c : Ctx) : c.endSeq.mid = c.mid := by unfold Ctx.endSeq; split <;> rfl
@[simp] theorem Ctx.endSeq_self (c : Ctx) : c.endSeq.self = c.self := by unfold Ctx.endSeq; split <;> rfl
@[simp] theorem Ctx.endSeq_restarted (c : Ctx) : c.endSeq.restarted = c.restarted := by unfold Ctx.endSeq; split <;> rfl
@[simp] theorem Ctx.endSeq_nsave (c : Ctx) : c.endSeq.nsave = c.nsave := by unfold Ctx.endSeq; split <;> rfl
@[simp] theorem Ctx.endSeq_pslack (c : Ctx) : c.endSeq.pslack = c.pslack := by unfold Ctx.endSeq; split <;> rfl
@[simp] theorem Ctx.endSeq_fewdog (c : Ctx) : c.endSeq.fewdog = c.fewdog := by unfold Ctx.endSeq; split <;> rfl
@[simp] theorem Ctx.endSeq_waitdog (c : Ctx) : c.endSeq.waitdog = c.waitdog := by unfold Ctx.endSeq; split <;> rfl
@[simp] theorem Ctx.endSeq_cycle (c : Ctx) : c.endSeq.cycle = c.cycle := by unfold Ctx.endSeq; split <;> rfl
@[simp] theorem Ctx.endSeq_kcoord (c : Ctx) : c.endSeq.kcoord = c.kcoord := by unfold Ctx.endSeq; split <;> rfl
@[simp] theorem Ctx.endSeq_kshape (c : Ctx) : c.endSeq.kshape = c.kshape := by unfold Ctx.endSeq; split <;> rfl
@[simp] theorem Ctx.endSeq_pkey (c : Ctx) : c.endSeq.pkey = c.pkey := by unfold Ctx.endSeq; split <;> rfl
@[simp] theorem Ctx.endSeq_spbase (c : Ctx) : c.endSeq.spbase = c.spbase := by unfold Ctx.endSeq; split <;> rfl
@[simp] theorem Ctx.endSeq_spsize (c : Ctx) : c.endSeq.spsize = c.spsize := by unfold Ctx.endSeq; split <;> rfl
@[simp] theorem Ctx.endSeq_gmode (c : Ctx) : c.endSeq.gmode = c.gmode := by unfold Ctx.endSeq; split <;> rfl
@[simp] theorem Ctx.endSeq_gdec (c : Ctx) : c.endSeq.gdec = c.gdec := by unfold Ctx.endSeq; split <;> rfl
@[simp] theorem Ctx.endSeq_gchk (c : Ctx) : c.endSeq.gchk = c.gchk := by unfold Ctx.endSeq; split <;> rfl
@[simp] theorem Ctx.endSeq_gskew (c : Ctx) : c.endSeq.gskew = c.gskew := by unfold Ctx.endSeq; split <;> rfl
@[simp] theorem Ctx.endSeq_wait (c : Ctx) : c.endSeq.wait = c.wait := by unfold Ctx.endSeq; split <;> rfl
@[simp] theorem Ctx.endSeq_flight (c : Ctx) : c.endSeq.flight = c.flight := by unfold Ctx.endSeq; split <;> rfl
@[simp] theorem Ctx.endSeq_pends (c : Ctx) : c.endSeq.pends = c.pends := by unfold Ctx.endSeq; split <;> rfl
@[simp] theorem Ctx.endSeq_rings (c : Ctx) : c.endSeq.rings = c.rings := by unfold Ctx.endSeq; split <;> rfl
@[simp] theorem Ctx.endSeq_mxc (c : Ctx) : c.endSeq.mxc = c.mxc := by unfold Ctx.endSeq; split <;> rfl
@[simp] theorem Ctx.endSeq_mxq (c : Ctx) : c.endSeq.mxq = c.mxq := by unfold Ctx.endSeq; split <;> rfl
@[simp] theorem Ctx.endSeq_mxfault (c : Ctx) : c.endSeq.mxfault = c.mxfault := by unfold Ctx.endSeq; split <;> rfl
@[simp] theorem Ctx.endSeq_hold (c : Ctx) : c.endSeq.hold = c.hold := by unfold Ctx.endSeq; split <;> rfl
@[simp] theorem Ctx.endSeq_join (c : Ctx) : c.endSeq.join = c.join := by unfold Ctx.endSeq; split <;> rfl
@[simp] theorem Ctx.endSeq_sctab (c : Ctx) : c.endSeq.sctab = c.sctab := by unfold Ctx.endSeq; split <;> rfl
@[simp] theorem Ctx.endSeq_frec (c : Ctx) : c.endSeq.frec = c.frec := by unfold Ctx.endSeq; split <;> rfl
@[simp] theorem Ctx.endSeq_hreq (c : Ctx) : c.endSeq.hreq = c.hreq := by unfold Ctx.endSeq; split <;> rfl
@[simp] theorem Ctx.endSeq_ctlhalt (c : Ctx) : c.endSeq.ctlhalt = c.ctlhalt := by unfold Ctx.endSeq; split <;> rfl
@[simp] theorem Ctx.endSeq_rarr (c : Ctx) : c.endSeq.rarr = c.rarr := by unfold Ctx.endSeq; split <;> rfl
@[simp] theorem Ctx.endSeq_granted (c : Ctx) : c.endSeq.granted = c.granted := by unfold Ctx.endSeq; split <;> rfl
@[simp] theorem Ctx.endSeq_wake (c : Ctx) : c.endSeq.wake = c.wake := by unfold Ctx.endSeq; split <;> rfl
@[simp] theorem Ctx.endSeq_arrived (c : Ctx) : c.endSeq.arrived = c.arrived := by unfold Ctx.endSeq; split <;> rfl
@[simp] theorem Ctx.endSeq_yielded (c : Ctx) : c.endSeq.yielded = c.yielded := by unfold Ctx.endSeq; split <;> rfl
@[simp] theorem Ctx.endSeq_phnext (c : Ctx) : c.endSeq.phnext = c.phnext := by unfold Ctx.endSeq; split <;> rfl
@[simp] theorem Ctx.endSeq_occ (c : Ctx) : c.endSeq.occ = c.occ := by unfold Ctx.endSeq; split <;> rfl
@[simp] theorem Ctx.endSeq_mir (c : Ctx) : c.endSeq.mir = c.mir := by unfold Ctx.endSeq; split <;> rfl
@[simp] theorem Ctx.endSeq_mirv (c : Ctx) : c.endSeq.mirv = c.mirv := by unfold Ctx.endSeq; split <;> rfl
@[simp] theorem Ctx.endSeq_sigs (c : Ctx) : c.endSeq.sigs = c.sigs := by unfold Ctx.endSeq; split <;> rfl
@[simp] theorem Ctx.endSeq_stream (c : Ctx) : c.endSeq.stream = c.stream := by unfold Ctx.endSeq; split <;> rfl
@[simp] theorem Ctx.endSeq_iter (c : Ctx) : c.endSeq.iter = c.iter := by unfold Ctx.endSeq; split <;> rfl
@[simp] theorem Ctx.endSeq_bwords (c : Ctx) : c.endSeq.bwords = c.bwords := by unfold Ctx.endSeq; split <;> rfl
@[simp] theorem Ctx.endSeq_bsucc (c : Ctx) : c.endSeq.bsucc = c.bsucc := by unfold Ctx.endSeq; split <;> rfl

end Sys2Proof.Machine
end

