-- ==== Sys2Proof/Laws/Fetch.lean ====
section
/-! SUPPORT. What a fetch of code depends on and what it changes: the caches and TLBs of a core, and no context. -/

namespace Sys2Proof.Machine

/-- `s` with other contexts. -/
def State.withCtxs (s : State) (m : SMap Ctx) : State := { s with ctxs := m }

/-- What `t` may differ in from `s` after a translation or a fetch: the caches of core code, the TLBs and the walks in flight. -/
structure Fetches (s t : State) : Prop where
  state : t = { s with cores := t.cores, l2tlb := t.l2tlb, walks := t.walks }
  core : ∀ k, t.core k = { s.core k with icache := (t.core k).icache, ifill := (t.core k).ifill, tlb := (t.core k).tlb }

theorem Fetches.refl (s : State) : Fetches s s := ⟨rfl, fun _ => rfl⟩

theorem Fetches.trans {s t u : State} (h : Fetches s t) (g : Fetches t u) : Fetches s u := by
  refine ⟨?_, fun k => ?_⟩
  · rw [g.state, h.state]
  · rw [g.core k, h.core k]

theorem Fetches.upCore (s : State) (k : Nat) (f : Core → Core)
    (h : ∀ c, f c = { c with icache := (f c).icache, ifill := (f c).ifill, tlb := (f c).tlb }) : Fetches s (s.upCore k f) := by
  refine ⟨rfl, fun j => ?_⟩
  by_cases hj : j = k
  · subst hj; rw [State.core_upCore_self]; exact h _
  · rw [State.core_upCore_of_ne _ _ hj]

theorem Fetches.ctxs {s t : State} (h : Fetches s t) : t.ctxs = s.ctxs := by rw [h.state]
theorem Fetches.ctx {s t : State} (h : Fetches s t) (x : Nat) : t.ctx x = s.ctx x := by rw [State.ctx, h.ctxs]; rfl
theorem Fetches.mem {s t : State} (h : Fetches s t) : t.mem = s.mem := by rw [h.state]
theorem Fetches.cur {s t : State} (h : Fetches s t) : t.cur = s.cur := by rw [h.state]

theorem State.tlbFill_fetches (s : State) (k asid : Nat) (w : Bool) (x : Xl) : Fetches s (s.tlbFill k asid w x) :=
  Fetches.upCore s k (fun c => { c with tlb := tlbPut 128 (Config.freeNat s.nfree (0x650000 + k)) c.tlb ⟨asid, w, x⟩ }) fun _ => rfl

theorem State.l2Fill_fetches (s : State) (d asid : Nat) (w : Bool) (x : Xl) : Fetches s (s.l2Fill d asid w x) := ⟨rfl, fun _ => rfl⟩

theorem State.walkEnds_fetches (s : State) (d : Nat) (w : Walk) (r : Except XFault Xl) : Fetches s (s.walkEnds d w r) := by
  cases r <;> exact ⟨rfl, fun _ => rfl⟩

theorem State.endWalks_fetches (d n : Nat) (s : State) : Fetches s (State.endWalks d n s) := by
  induction n generalizing s with
  | zero => exact .refl s
  | succ n ih =>
    unfold State.endWalks
    split
    · exact .refl s
    · exact (s.walkEnds_fetches d _ _).trans (ih _)

/-- A walk changes the L2 TLB and the walks in flight only. -/
theorem State.missWalk_fetches (s : State) (d asid : Nat) (w : Bool) (va : Nat) : Fetches s (s.missWalk d asid w va).1 := by
  unfold State.missWalk
  split
  · exact s.walkEnds_fetches d _ _
  · exact State.endWalks_fetches d _ s

theorem State.lookup_fetches (s : State) (k asid : Nat) (w : Bool) (va : Nat) : Fetches s (s.lookup k asid w va).1 := by
  have h := s.missWalk_fetches (dieOf k) asid w va
  unfold State.lookup
  split
  · exact .refl s
  · split
    · exact s.tlbFill_fetches k asid w _
    · split <;> (rename_i e; rw [e] at h)
      · exact h.trans ((State.l2Fill_fetches _ _ asid w _).trans (State.tlbFill_fetches _ k asid w _))
      · exact h

/-- A translation changes TLBs and walks only. -/
theorem State.translate_fetches (s : State) (k asid : Nat) (w : Bool) (acc : Acc) (va : Nat) :
    Fetches s (s.translate k asid w acc va).1 := by
  have := s.lookup_fetches k asid w va
  unfold State.translate
  split <;> simp_all

theorem State.icacheLine_fetches (s : State) (k l : Nat) : Fetches s (s.icacheLine k l).1 := by
  unfold State.icacheLine
  split
  · exact .refl s
  · split
    · exact .refl s
    · exact Fetches.upCore s k (fun c => c.icPut (s.icRoom k) l (s.fillLine k l)) fun _ => rfl

/-- A fetch of a packet changes caches, TLBs and walks only. -/
theorem State.fetchPacket_fetches (s : State) (x pk : Nat) : Fetches s (s.fetchPacket x pk).1 := by
  have h := s.translate_fetches (coreOf x) (s.asidOf x) (s.worldOf x) .fetch pk
  unfold State.fetchPacket
  split
  · rename_i e; rw [e] at h; exact h
  · rename_i s' t e
    rw [e] at h
    have g := s'.icacheLine_fetches (coreOf x) (t.paOf pk / 128)
    dsimp only at h ⊢
    split <;> (rename_i e2; rw [e2] at g; exact h.trans g)

theorem State.walkFrom_withCtxs (s : State) (m : SMap Ctx) (w : Bool) (va fuel lvl tab : Nat) :
    (s.withCtxs m).walkFrom w va fuel lvl tab = s.walkFrom w va fuel lvl tab := by
  induction fuel generalizing lvl tab with
  | zero => rfl
  | succ n ih => simp only [State.walkFrom, ih]; rfl

theorem State.walk_withCtxs (s : State) (m : SMap Ctx) (asid : Nat) (w : Bool) (va : Nat) :
    (s.withCtxs m).walk asid w va = s.walk asid w va := by
  simp only [State.walk, State.walkFrom_withCtxs]; rfl

theorem State.walkRest_withCtxs (s : State) (m : SMap Ctx) (w : Walk) (va : Nat) :
    (s.withCtxs m).walkRest w va = s.walkRest w va := State.walkFrom_withCtxs s m w.world va _ _ _

theorem State.walkEnds_withCtxs (s : State) (m : SMap Ctx) (d : Nat) (w : Walk) (r : Except XFault Xl) :
    (s.withCtxs m).walkEnds d w r = (s.walkEnds d w r).withCtxs m := by
  cases r <;> rfl

theorem State.endWalks_withCtxs (s : State) (m : SMap Ctx) (d n : Nat) :
    State.endWalks d n (s.withCtxs m) = (State.endWalks d n s).withCtxs m := by
  induction n generalizing s with
  | zero => rfl
  | succ n ih =>
    simp only [State.endWalks]
    rw [show (s.withCtxs m).walksOf d = s.walksOf d from rfl]
    cases s.walksOf d with
    | nil => rfl
    | cons w ws => simp only [State.walkRest_withCtxs, State.walkEnds_withCtxs, ih]

theorem State.missWalk_withCtxs (s : State) (m : SMap Ctx) (d asid : Nat) (w : Bool) (va : Nat) :
    (s.withCtxs m).missWalk d asid w va = ((s.missWalk d asid w va).1.withCtxs m, (s.missWalk d asid w va).2) := by
  simp only [State.missWalk]
  rw [show (s.withCtxs m).walksOf d = s.walksOf d from rfl]
  cases (s.walksOf d).find? fun v => v.serves asid w va with
  | some v =>
    simp only [State.walkRest_withCtxs, State.walkEnds_withCtxs]
    cases s.walkRest v va with
    | ok x => rfl
    | error f => simp only [State.walk_withCtxs]
  | none => simp only [State.endWalks_withCtxs, State.walk_withCtxs]

theorem State.lookup_withCtxs (s : State) (m : SMap Ctx) (k asid : Nat) (w : Bool) (va : Nat) :
    (s.withCtxs m).lookup k asid w va = ((s.lookup k asid w va).1.withCtxs m, (s.lookup k asid w va).2) := by
  have h1 : (s.withCtxs m).core k = s.core k := rfl
  have h2 : (s.withCtxs m).l2tlb = s.l2tlb := rfl
  simp only [State.lookup, State.missWalk_withCtxs, h1, h2]
  cases tlbFind (s.core k).tlb asid w va with
  | some x => rfl
  | none =>
    cases tlbFind (s.l2tlb.get [] (dieOf k)) asid w va with
    | some x => rfl
    | none => rcases s.missWalk (dieOf k) asid w va with ⟨t, _ | _⟩ <;> rfl

/-- A translation does not look at contexts. -/
theorem State.translate_withCtxs (s : State) (m : SMap Ctx) (k asid : Nat) (w : Bool) (acc : Acc) (va : Nat) :
    (s.withCtxs m).translate k asid w acc va = ((s.translate k asid w acc va).1.withCtxs m, (s.translate k asid w acc va).2) := by
  simp only [State.translate, State.lookup_withCtxs]
  rcases s.lookup k asid w va with ⟨s', _ | _⟩ <;> rfl

theorem State.icacheLine_withCtxs (s : State) (m : SMap Ctx) (k l : Nat) :
    (s.withCtxs m).icacheLine k l = ((s.icacheLine k l).1.withCtxs m, (s.icacheLine k l).2) := by
  have h1 : (s.withCtxs m).core k = s.core k := rfl
  have h2 : (s.withCtxs m).poisonAt (128 * l) 128 = s.poisonAt (128 * l) 128 := rfl
  simp only [State.icacheLine, h1, h2]
  cases (s.core k).icache.get none l with
  | some v => rfl
  | none => cases s.poisonAt (128 * l) 128 <;> rfl

/-- A fetch looks at contexts for the address space and the world of the kernel only. -/
theorem State.fetchPacket_withCtxs (s : State) (m : SMap Ctx) (x pk : Nat) (ha : (s.withCtxs m).asidOf x = s.asidOf x)
    (hw : (s.withCtxs m).worldOf x = s.worldOf x) :
    (s.withCtxs m).fetchPacket x pk = ((s.fetchPacket x pk).1.withCtxs m, (s.fetchPacket x pk).2) := by
  simp only [State.fetchPacket, ha, hw, State.translate_withCtxs]
  rcases s.translate (coreOf x) (s.asidOf x) (s.worldOf x) .fetch pk with ⟨s', e | t⟩
  · rfl
  · simp only [State.icacheLine_withCtxs]
    rcases s'.icacheLine (coreOf x) (t.paOf pk / 128) with ⟨s'', _ | _ | _⟩ <;> rfl

/-- A context stored in the map of contexts: its kernel is found by its occupant alone. -/
theorem State.kernelOf_setCtx (s : State) (x : Nat) (c : Ctx) (h : c.occ = (s.ctx x).occ) : (s.setCtx x c).kernelOf x = s.kernelOf x := by
  simp only [State.kernelOf, State.ctx_setCtx_self, h, State.setCtx_kernel]

/-- A fetch from the buffer or the cache, after the context has changed in other respects. -/
theorem State.fetchPacket_setCtx (s : State) (x pk : Nat) (c : Ctx) (h : c.occ = (s.ctx x).occ) :
    (s.setCtx x c).fetchPacket x pk = ((s.fetchPacket x pk).1.setCtx x c, (s.fetchPacket x pk).2) := by
  have hk := s.kernelOf_setCtx x c h
  have := s.fetchPacket_withCtxs (s.ctxs.put x c) x pk (congrArg (fun o : Option Kernel => o.elim 0 (·.q)) hk)
    (congrArg (fun o : Option Kernel => o.elim false (·.krec.world)) hk)
  rw [show s.withCtxs (s.ctxs.put x c) = s.setCtx x c from rfl] at this
  rw [this]
  have hc : (s.fetchPacket x pk).1.ctxs = s.ctxs := (s.fetchPacket_fetches x pk).ctxs
  simp only [State.withCtxs, State.setCtx, hc]

/-- What the packet at `pk` is, for a context that differs from another in what does not concern a fetch. -/
theorem State.packet_setCtx (s : State) (x pk : Nat) (c : Ctx) (h : c.occ = (s.ctx x).occ) :
    (s.setCtx x c).packet x pk =
      match bufFind c.fbuf pk with
      | some ws => (s.setCtx x c, .ok ws)
      | none =>
        match s.fetchPacket x pk with
        | (s', .ok ws) => (s'.setCtx x { c with fbuf := bufPut c.fbuf ⟨BitVec.ofNat 48 pk, ws⟩ }, .ok ws)
        | (s', .fault f) => (s'.setCtx x c, .fault f)
        | (s', .poison u) => (s'.setCtx x c, .poison u) := by
  simp only [State.packet, State.ctx_setCtx_self]
  cases bufFind c.fbuf pk with
  | some ws => rfl
  | none =>
    rw [s.fetchPacket_setCtx x pk c h]
    have hp : ∀ (m : SMap Ctx) (c d : Ctx), (m.put x c).put x d = m.put x d := by
      intro m c d
      induction m with
      | nil => simp [SMap.put]
      | cons e m ih =>
        obtain ⟨j, w⟩ := e
        simp only [SMap.put]
        by_cases h1 : x < j
        · simp [h1, SMap.put]
        · by_cases h2 : x = j
          · simp [h2, SMap.put]
          · simp [h1, h2, SMap.put, ih]
    rcases s.fetchPacket x pk with ⟨s', ws | f | u⟩
    · simp only [State.upCtx, State.ctx_setCtx_self]
      simp only [State.setCtx, hp]
    · rfl
    · rfl

end Sys2Proof.Machine
end

