-- ==== Sys2Proof/Laws/Flits.lean ====
section
/-! SUPPORT. What sending does to a flit: the CRC is the last thing put in, and holds (13 R308). -/

namespace Sys2Proof.Machine

@[simp] theorem flitBody_sealFlit (f : Flit) : flitBody (sealFlit f) = flitBody f := rfl

/-- A flit that leaves with a payload of at most 224 bytes is whole. -/
theorem sealFlit_intact (f : Flit) (h : f.payload.length ≤ 224) : flitIntact (sealFlit f) = true := by
  unfold flitIntact
  rw [flitBody_sealFlit]
  simp [sealFlit, h]

/-- A payload past 224 bytes is no flit's. -/
theorem long_not_intact (f : Flit) (h : 224 < f.payload.length) : flitIntact f = false := by
  simp [flitIntact, Nat.not_le.mpr h]

end Sys2Proof.Machine
end

