-- ==== Sys2Proof/Laws/Issue.lean ====
section
/-! SUPPORT. The issue of a bundle of one word, once for every way in which it ends. -/

namespace Sys2Proof.Machine

/-- What a bundle starts from. -/
def State.out0 (s : State) : Out := { c := s.ctx s.cur, s := s, next := .seq, sig := [] }

/-- The context of a word that has been performed, before the next bundle is found. -/
def Out.sealed (s : State) (o : Out) (at_ : Bool) : Ctx :=
  { o.c.sign o.sig (o.c.lastLanding (s.ctx s.cur).flight.length) with rsdctr := rsdAfter (s.iss s.cur) o, iter := at_, granted := none }

/-- A word that goes on in sequence. -/
theorem issueWords_seq {e : Eff} {s : State} {o : Out} (h : e (s.iss s.cur) s.out0 = .ok o) (hn : o.next = .seq) :
    issueWords [e] s = .next ((o.s.setCtx s.cur (o.sealed s (o.c.atEnd (s.ctx s.cur).pc)).endSeq).draw) := by
  simp only [issueWords, tryWords, runEffs]
  unfold State.out0 at h
  simp only [State.iss] at h ⊢
  rw [h]
  simp only [finish, hn, Ended.outcome, Out.sealed, State.iss]

/-- A word that pushes a loop. -/
theorem issueWords_fall {e : Eff} {s : State} {o : Out} (h : e (s.iss s.cur) s.out0 = .ok o) (hn : o.next = .fall) :
    issueWords [e] s =
      .next ((o.s.setCtx s.cur { o.sealed s (o.c.atEnd (s.ctx s.cur).pc) with pc := (o.c.sign o.sig (o.c.lastLanding (s.ctx s.cur).flight.length)).bsucc }).draw) := by
  simp only [issueWords, tryWords, runEffs]
  unfold State.out0 at h
  simp only [State.iss] at h ⊢
  rw [h]
  simp only [finish, hn, Ended.outcome, Out.sealed, State.iss]

/-- A word that retires the instance. -/
theorem issueWords_stop {e : Eff} {s : State} {o : Out} (h : e (s.iss s.cur) s.out0 = .ok o) (hn : o.next = .stop) :
    issueWords [e] s = .next (((o.s.setCtx s.cur (o.sealed s (o.c.atEnd (s.ctx s.cur).pc))).retireCtx s.cur).draw) := by
  simp only [issueWords, tryWords, runEffs]
  unfold State.out0 at h
  simp only [State.iss] at h ⊢
  rw [h]
  simp only [finish, hn, Ended.outcome, Out.sealed, State.iss]

/-- A word that transfers. -/
theorem issueWords_jump {e : Eff} {s : State} {o : Out} {a : W64} (h : e (s.iss s.cur) s.out0 = .ok o) (hn : o.next = .jump a) :
    issueWords [e] s = (jumpTo (s.iss s.cur) o.s (o.sealed s (o.c.atEnd (s.ctx s.cur).pc)) a).outcome s s.cur := by
  simp only [issueWords, tryWords, runEffs]
  unfold State.out0 at h
  simp only [State.iss] at h ⊢
  rw [h]
  simp only [finish, hn, Out.sealed, State.iss]

/-- A word that raises a trap after it. -/
theorem issueWords_trapAfter {e : Eff} {s : State} {o : Out} {k : Cause} {info : W64} (h : e (s.iss s.cur) s.out0 = .ok o)
    (hn : o.next = .trapAfter k info) :
    issueWords [e] s =
      .next (((o.s.setCtx s.cur (o.sealed s (o.c.atEnd (s.ctx s.cur).pc)).endSeq).takeTrap s.cur
        ⟨k, (o.sealed s (o.c.atEnd (s.ctx s.cur).pc)).endSeq.pc, info, 0⟩).draw) := by
  simp only [issueWords, tryWords, runEffs]
  unfold State.out0 at h
  simp only [State.iss] at h ⊢
  rw [h]
  simp only [finish, hn, Ended.outcome, Out.sealed, State.iss]

/-- A word that traps leaves nothing of itself (00 R14). -/
theorem issueWords_trap {e : Eff} {s : State} {t : Trap} (h : e (s.iss s.cur) s.out0 = .trap t) :
    issueWords [e] s = .next (s.takeTrap s.cur t).draw := by
  simp only [issueWords, tryWords, runEffs]
  unfold State.out0 at h
  simp only [State.iss] at h ⊢
  rw [h]
  rfl

/-- A word that waits leaves its bundle unissued. -/
theorem issueWords_wait {e : Eff} {s t : State} {w : Wait} (h : e (s.iss s.cur) s.out0 = .wait t w) :
    issueWords [e] s = .next (t.upCtx s.cur fun c => { c with wait := some w }).draw := by
  simp only [issueWords, tryWords, runEffs]
  unfold State.out0 at h
  simp only [State.iss] at h ⊢
  rw [h]
  rfl

/-- A bundle always answers a next state. -/
theorem issueWords_next (es : List Eff) (s : State) : ∃ t, issueWords es s = .next t := by
  unfold issueWords Ended.outcome
  split <;> exact ⟨_, rfl⟩

/-- Without results in flight a register reads what a program sees of it. -/
theorem Iss.rS_of_landed {i : Iss} {n : Fin 32} (h : i.c.flight = []) : i.rS n = i.c.rd n := by
  simp [Iss.rS, Ctx.rd, Ctx.busyS, h]

theorem Ctx.rd_zero (c : Ctx) : c.rd 0 = 0 := by simp [Ctx.rd]

/-- What a program reads after a scalar register has been written. -/
theorem Ctx.rd_putS (c : Ctx) (d n : Fin 32) (x : W64) : (c.putS d x).rd n = if n = d ∧ n ≠ 0 then x else c.rd n := by
  unfold Ctx.putS
  by_cases hd : d = 0
  · subst hd
    by_cases hn : n = 0 <;> simp [hn, Ctx.rd]
  · rw [if_neg hd]
    by_cases hn : n = 0
    · subst hn; simp [Ctx.rd]
    · simp only [Ctx.rd, if_neg hn]
      by_cases h : n = d
      · subst h; simp [hn]
      · have : d.val ≠ n.val := fun e => h (Fin.ext e.symm)
        simp [h, this]

end Sys2Proof.Machine
end

