-- ==== Sys2Proof/Laws/Lanes.lean ====
section
/-! SUPPORT. Rows, lanes and masks: what a lane reads, and what a lane word gives for each lane. -/

namespace Sys2Proof.Machine

@[simp] theorem lane_eq (r : Row) (k : Fin 64) : lane r k = r[k] := by
  simp [lane, Vector.getD]

@[simp] theorem rowOf_getElem (f : Nat → W32) (k : Fin 64) : (rowOf f)[k] = f k := by simp [rowOf]

/-- A lane of a row with no result in flight for it. -/
theorem Iss.rV_of_still {i : Iss} {n : Fin 64} {k : Nat} (h : i.c.busyV n k = false) : i.rV n k = lane i.c.v[n] k := by
  simp [Iss.rV, h]

/-- A lane of a selector, where no result of a row is in flight. -/
theorem Iss.rSel_of_still {i : Iss} (h : ∀ n k, i.c.busyV n k = false) (a : Sel) (k : Fin 64) : i.rSel a k = i.c.at_ a k := by
  cases a with
  | row n => simp only [Iss.rSel, Ctx.at_, Iss.rV_of_still (h _ _), lane_eq]
  | col j =>
    have : (Fin.ofNat 64 k.val) = k := by ext; simp
    simp only [Iss.rSel, Ctx.at_, Iss.rV_of_still (h _ _), this, lane_eq]
  | diag d => simp only [Iss.rSel, Ctx.at_, Iss.rV_of_still (h _ _), lane_eq]

/-- An enabled lane of a lane word. -/
theorem lanesOf_getElem (em : W64) (f : Nat → W32 × Flags) (k : Fin 64) (h : em.getLsbD k = true) : (lanesOf em f).1[k] = (f k).1 := by
  simp only [lanesOf, rowOf_getElem]
  simp [List.getD_eq_getElem?_getD, k.isLt, h]

/-- A bit of a mask given by a function. -/
theorem maskOfFn_getLsbD (f : Nat → Bool) (k : Nat) (hk : k < 64) : (maskOfFn f).getLsbD k = f k := by
  have gen : ∀ (n : Nat) (k : Nat), ((List.range n).foldl (fun a i => a + b2n (f i) * 2 ^ i) 0).testBit k = (decide (k < n) && f k) ∧
      (List.range n).foldl (fun a i => a + b2n (f i) * 2 ^ i) 0 < 2 ^ n := by
    intro n
    induction n with
    | zero => intro k; simp
    | succ n ih =>
      intro k
      simp only [List.range_succ, List.foldl_append, List.foldl_cons, List.foldl_nil]
      have hlt := (ih 0).2
      generalize hS : (List.range n).foldl (fun a i => a + b2n (f i) * 2 ^ i) 0 = S at *
      cases hf : f n with
      | false =>
        simp only [b2n, cond_false, Nat.zero_mul, Nat.add_zero]
        refine ⟨?_, by rw [Nat.pow_succ]; omega⟩
        rw [(ih k).1]
        by_cases h : k = n
        · subst h; simp [hf]
        · by_cases h2 : k < n <;> simp [h2] <;> omega
      | true =>
        simp only [b2n, cond_true, Nat.one_mul]
        refine ⟨?_, by rw [Nat.pow_succ]; omega⟩
        rw [Nat.add_comm]
        rcases Nat.lt_trichotomy k n with h | h | h
        · rw [Nat.testBit_two_pow_add_gt h, (ih k).1]; simp [h, Nat.lt_succ_of_lt h]
        · subst h; rw [Nat.testBit_two_pow_add_eq, Nat.testBit_lt_two_pow hlt]; simp [hf]
        · rw [Nat.testBit_lt_two_pow]
          · simp; omega
          · calc 2 ^ n + S < 2 ^ n + 2 ^ n := by omega
              _ = 2 ^ (n + 1) := by rw [Nat.pow_succ]; omega
              _ ≤ 2 ^ k := Nat.pow_le_pow_right (by omega) h
  rw [maskOfFn, BitVec.getLsbD_ofNat]
  simp [hk, (gen 64 k).1]

end Sys2Proof.Machine
end

