-- ==== Sys2Proof/Laws/PerInstr.lean ====
section
/-! SUPPORT. What holds of every instruction as syntax, constructor by constructor: the encoding tables give an instruction word nine
bits of unit and opcode, 22 operand bits, and a lend of nine bits (04 R75, R79). -/

namespace Sys2Proof

theorem lowF_lt (n : Nat) (i : Int) : lowF n i < 2 ^ n := by
  have h : (0 : Int) < 2 ^ n := by positivity
  have := Int.emod_lt_of_pos i h
  have := Int.emod_nonneg i h.ne'
  unfold lowF
  have : ((2 : Int) ^ n) = ((2 ^ n : Nat) : Int) := by norm_cast
  omega

theorem lendF_lt (n : Nat) (i : Int) : lendF n i < 512 := by unfold lendF; omega
theorem condCode_lt (c : Cond) : condCode c < 8 := by cases c <;> decide
theorem maskCode_lt (m : Mask) : maskCode m < 2 := by cases m <;> decide
theorem MaskY.code_lt (y : MaskY) : y.code < 2 := by cases y <;> simp [MaskY.code]
theorem MaskY.regNum_lt (y : MaskY) : y.regNum < 32 := by cases y <;> simp [MaskY.regNum]
theorem ldcCode_lt (z : LdcSz) : ldcCode z < 4 := by cases z <;> decide
theorem selCode_lt (a : Sel) : selCode a < 256 := by cases a <;> simp only [selCode] <;> omega
theorem selCode_zero : selCode (.row 0) = 0 := rfl
theorem cvtCode_lt (c : CvtCode) : cvtCode c < 32 := by cases c <;> decide
theorem qfmtCode_lt (t : QFmt) : qfmtCode t < 8 := by cases t <;> decide
theorem sfCode_lt (f : SfFmt) : sfCode f < 4 := by cases f <;> decide
theorem bcCode_lt (z : BcSz) : bcCode z < 4 := by cases z <;> decide
theorem redCode_lt (op : RedOp) : redCode op < 8 := by cases op <;> decide
theorem qloadCode_lt (q : QLoad) : qloadCode q < 4 := by cases q <;> decide
theorem qstoreCode_lt (q : QStore) : qstoreCode q < 4 := by cases q <;> decide
theorem scopeCode_lt (p : Scope) : scopeCode p < 8 := by cases p <;> decide
theorem regModeCode_lt (m : RegMode) : regModeCode m < 4 := by cases m <;> decide
theorem hndCode_lt (h : Hnd) : hndCode h < 128 := by cases h <;> simp only [hndCode] <;> omega
theorem CopyLend.code_lt (l : CopyLend) : l.code < 512 := by
  have := scopeCode_lt l.scope
  have := l.opx.isLt
  unfold CopyLend.code
  cases l.acq <;> cases l.rel <;> cases l.ord <;> simp only [cond_true, cond_false] <;> omega
theorem bif_le (b : Bool) (n : Nat) : (bif b then n else 0) ≤ n := by cases b <;> simp

end Sys2Proof

namespace Sys2Proof.Laws.Fits

/-- The word of an instruction has nine bits of unit and opcode, 22 operand bits and a lend of nine bits. -/
def Statement (i : Instr) : Prop := ∀ x, i.info = some x → x.uop < 512 ∧ x.body < 4194304 ∧ x.lend < 512

theorem nop : Statement (.nop) := by
  rintro x h
  cases h
  dsimp only
  omega
theorem add (d : Fin 32) (a : Fin 32) (b : Fin 32) : Statement (.add d a b) := by
  rintro x h
  cases h
  have := d.isLt
  have := a.isLt
  have := b.isLt
  dsimp only [rB]
  omega
theorem sub (d : Fin 32) (a : Fin 32) (b : Fin 32) : Statement (.sub d a b) := by
  rintro x h
  cases h
  have := d.isLt
  have := a.isLt
  have := b.isLt
  dsimp only [rB]
  omega
theorem and (d : Fin 32) (a : Fin 32) (b : Fin 32) : Statement (.and d a b) := by
  rintro x h
  cases h
  have := d.isLt
  have := a.isLt
  have := b.isLt
  dsimp only [rB]
  omega
theorem or (d : Fin 32) (a : Fin 32) (b : Fin 32) : Statement (.or d a b) := by
  rintro x h
  cases h
  have := d.isLt
  have := a.isLt
  have := b.isLt
  dsimp only [rB]
  omega
theorem xor (d : Fin 32) (a : Fin 32) (b : Fin 32) : Statement (.xor d a b) := by
  rintro x h
  cases h
  have := d.isLt
  have := a.isLt
  have := b.isLt
  dsimp only [rB]
  omega
theorem shl (d : Fin 32) (a : Fin 32) (b : Fin 32) : Statement (.shl d a b) := by
  rintro x h
  cases h
  have := d.isLt
  have := a.isLt
  have := b.isLt
  dsimp only [rB]
  omega
theorem shr (d : Fin 32) (a : Fin 32) (b : Fin 32) : Statement (.shr d a b) := by
  rintro x h
  cases h
  have := d.isLt
  have := a.isLt
  have := b.isLt
  dsimp only [rB]
  omega
theorem sra (d : Fin 32) (a : Fin 32) (b : Fin 32) : Statement (.sra d a b) := by
  rintro x h
  cases h
  have := d.isLt
  have := a.isLt
  have := b.isLt
  dsimp only [rB]
  omega
theorem mul (d : Fin 32) (a : Fin 32) (b : Fin 32) : Statement (.mul d a b) := by
  rintro x h
  cases h
  have := d.isLt
  have := a.isLt
  have := b.isLt
  dsimp only [rB]
  omega
theorem mulhs (d : Fin 32) (a : Fin 32) (b : Fin 32) : Statement (.mulhs d a b) := by
  rintro x h
  cases h
  have := d.isLt
  have := a.isLt
  have := b.isLt
  dsimp only [rB]
  omega
theorem mulhu (d : Fin 32) (a : Fin 32) (b : Fin 32) : Statement (.mulhu d a b) := by
  rintro x h
  cases h
  have := d.isLt
  have := a.isLt
  have := b.isLt
  dsimp only [rB]
  omega
theorem min (d : Fin 32) (a : Fin 32) (b : Fin 32) : Statement (.min d a b) := by
  rintro x h
  cases h
  have := d.isLt
  have := a.isLt
  have := b.isLt
  dsimp only [rB]
  omega
theorem max (d : Fin 32) (a : Fin 32) (b : Fin 32) : Statement (.max d a b) := by
  rintro x h
  cases h
  have := d.isLt
  have := a.isLt
  have := b.isLt
  dsimp only [rB]
  omega
theorem minu (d : Fin 32) (a : Fin 32) (b : Fin 32) : Statement (.minu d a b) := by
  rintro x h
  cases h
  have := d.isLt
  have := a.isLt
  have := b.isLt
  dsimp only [rB]
  omega
theorem maxu (d : Fin 32) (a : Fin 32) (b : Fin 32) : Statement (.maxu d a b) := by
  rintro x h
  cases h
  have := d.isLt
  have := a.isLt
  have := b.isLt
  dsimp only [rB]
  omega
theorem seq (d : Fin 32) (a : Fin 32) (b : Fin 32) : Statement (.seq d a b) := by
  rintro x h
  cases h
  have := d.isLt
  have := a.isLt
  have := b.isLt
  dsimp only [rB]
  omega
theorem slt (d : Fin 32) (a : Fin 32) (b : Fin 32) : Statement (.slt d a b) := by
  rintro x h
  cases h
  have := d.isLt
  have := a.isLt
  have := b.isLt
  dsimp only [rB]
  omega
theorem sltu (d : Fin 32) (a : Fin 32) (b : Fin 32) : Statement (.sltu d a b) := by
  rintro x h
  cases h
  have := d.isLt
  have := a.isLt
  have := b.isLt
  dsimp only [rB]
  omega
theorem sel (d : Fin 32) (a : Fin 32) (b : Fin 32) (c : Fin 32) : Statement (.sel d a b c) := by
  rintro x h
  cases h
  have := d.isLt
  have := a.isLt
  have := b.isLt
  have := c.isLt
  dsimp only [rB]
  omega
theorem clz (d : Fin 32) (a : Fin 32) : Statement (.clz d a) := by
  rintro x h
  cases h
  have := d.isLt
  have := a.isLt
  dsimp only [rB]
  omega
theorem popc (d : Fin 32) (a : Fin 32) : Statement (.popc d a) := by
  rintro x h
  cases h
  have := d.isLt
  have := a.isLt
  dsimp only [rB]
  omega
theorem extr (d : Fin 32) (a : Fin 32) (pos : Fin 64) (len1 : Fin 64) : Statement (.extr d a pos len1) := by
  rintro x h
  cases h
  have := d.isLt
  have := a.isLt
  have := pos.isLt
  have := len1.isLt
  dsimp only [rB]
  omega
theorem insr (d : Fin 32) (a : Fin 32) (pos : Fin 64) (len1 : Fin 64) : Statement (.insr d a pos len1) := by
  rintro x h
  cases h
  have := d.isLt
  have := a.isLt
  have := pos.isLt
  have := len1.isLt
  dsimp only [rB]
  omega
theorem addw (d : Fin 32) (a : Fin 32) (b : Fin 32) : Statement (.addw d a b) := by
  rintro x h
  cases h
  have := d.isLt
  have := a.isLt
  have := b.isLt
  dsimp only [rB]
  omega
theorem addi (d : Fin 32) (a : Fin 32) (i : Int) : Statement (.addi d a i) := by
  rintro x h
  cases h
  have := d.isLt
  have := a.isLt
  have := lowF_lt 12 i
  have := lendF_lt 12 i
  dsimp only [rB]
  omega
theorem andi (d : Fin 32) (a : Fin 32) (i : Int) : Statement (.andi d a i) := by
  rintro x h
  cases h
  have := d.isLt
  have := a.isLt
  have := lowF_lt 12 i
  have := lendF_lt 12 i
  dsimp only [rB]
  omega
theorem ori (d : Fin 32) (a : Fin 32) (i : Int) : Statement (.ori d a i) := by
  rintro x h
  cases h
  have := d.isLt
  have := a.isLt
  have := lowF_lt 12 i
  have := lendF_lt 12 i
  dsimp only [rB]
  omega
theorem xori (d : Fin 32) (a : Fin 32) (i : Int) : Statement (.xori d a i) := by
  rintro x h
  cases h
  have := d.isLt
  have := a.isLt
  have := lowF_lt 12 i
  have := lendF_lt 12 i
  dsimp only [rB]
  omega
theorem shli (d : Fin 32) (a : Fin 32) (i : Int) : Statement (.shli d a i) := by
  rintro x h
  cases h
  have := d.isLt
  have := a.isLt
  have := lowF_lt 12 i
  have := lendF_lt 12 i
  dsimp only [rB]
  omega
theorem shri (d : Fin 32) (a : Fin 32) (i : Int) : Statement (.shri d a i) := by
  rintro x h
  cases h
  have := d.isLt
  have := a.isLt
  have := lowF_lt 12 i
  have := lendF_lt 12 i
  dsimp only [rB]
  omega
theorem srai (d : Fin 32) (a : Fin 32) (i : Int) : Statement (.srai d a i) := by
  rintro x h
  cases h
  have := d.isLt
  have := a.isLt
  have := lowF_lt 12 i
  have := lendF_lt 12 i
  dsimp only [rB]
  omega
theorem slti (d : Fin 32) (a : Fin 32) (i : Int) : Statement (.slti d a i) := by
  rintro x h
  cases h
  have := d.isLt
  have := a.isLt
  have := lowF_lt 12 i
  have := lendF_lt 12 i
  dsimp only [rB]
  omega
theorem lui (d : Fin 32) (i : Int) : Statement (.lui d i) := by
  rintro x h
  cases h
  have := d.isLt
  have := lowF_lt 12 i
  have := lendF_lt 12 i
  dsimp only [rB]
  omega
theorem br (c : Cond) (a : Fin 32) (o : Int) : Statement (.br c a o) := by
  rintro x h
  cases h
  have := condCode_lt c
  have := a.isLt
  have := lowF_lt 14 o
  have := lendF_lt 14 o
  dsimp only
  omega
theorem jmp (o : Int) : Statement (.jmp o) := by
  rintro x h
  cases h
  have := lowF_lt 14 o
  have := lendF_lt 14 o
  dsimp only
  omega
theorem call (o : Int) : Statement (.call o) := by
  rintro x h
  cases h
  have := lowF_lt 14 o
  have := lendF_lt 14 o
  dsimp only
  omega
theorem jr (a : Fin 32) : Statement (.jr a) := by
  rintro x h
  cases h
  have := a.isLt
  dsimp only [rB]
  omega
theorem callr (a : Fin 32) : Statement (.callr a) := by
  rintro x h
  cases h
  have := a.isLt
  dsimp only [rB]
  omega
theorem loop (a : Fin 32) (e : Nat) : Statement (.loop a e) := by
  rintro x h
  cases h
  have := a.isLt
  dsimp only [rB]
  omega
theorem loopi (n : Fin 1024) (e : Nat) : Statement (.loopi n e) := by
  rintro x h
  cases h
  have := n.isLt
  dsimp only
  omega
theorem brkl : Statement (.brkl) := by
  rintro x h
  cases h
  dsimp only
  omega
theorem lidx (d : Fin 32) (k : Fin 6) : Statement (.lidx d k) := by
  rintro x h
  cases h
  have := d.isLt
  have := k.isLt
  dsimp only [rB]
  omega
theorem msave (d : Fin 32) (m : Mask) : Statement (.msave d m) := by
  rintro x h
  cases h
  have := d.isLt
  have := maskCode_lt m
  dsimp only [rB]
  omega
theorem mrest (m : Mask) (a : Fin 32) : Statement (.mrest m a) := by
  rintro x h
  cases h
  have := maskCode_lt m
  have := a.isLt
  dsimp only [rB]
  omega
theorem mand (m : Mask) (y : MaskY) : Statement (.mand m y) := by
  rintro x h
  cases h
  have := maskCode_lt m
  have := MaskY.code_lt y
  have := MaskY.regNum_lt y
  dsimp only [rB]
  omega
theorem mor (m : Mask) (y : MaskY) : Statement (.mor m y) := by
  rintro x h
  cases h
  have := maskCode_lt m
  have := MaskY.code_lt y
  have := MaskY.regNum_lt y
  dsimp only [rB]
  omega
theorem mandn (m : Mask) (y : MaskY) : Statement (.mandn m y) := by
  rintro x h
  cases h
  have := maskCode_lt m
  have := MaskY.code_lt y
  have := MaskY.regNum_lt y
  dsimp only [rB]
  omega
theorem mset (m : Mask) (a : Fin 32) : Statement (.mset m a) := by
  rintro x h
  cases h
  have := maskCode_lt m
  have := a.isLt
  dsimp only [rB]
  omega
theorem mcmv (m : Mask) : Statement (.mcmv m) := by
  rintro x h
  cases h
  have := maskCode_lt m
  dsimp only
  omega
theorem mpopc (d : Fin 32) (m : Mask) : Statement (.mpopc d m) := by
  rintro x h
  cases h
  have := d.isLt
  have := maskCode_lt m
  dsimp only [rB]
  omega
theorem rdsr (d : Fin 32) (r : Fin 4096) : Statement (.rdsr d r) := by
  rintro x h
  cases h
  have := d.isLt
  have := r.isLt
  dsimp only [rB]
  omega
theorem wrsr (r : Fin 4096) (a : Fin 32) : Statement (.wrsr r a) := by
  rintro x h
  cases h
  have := r.isLt
  have := a.isLt
  dsimp only [rB]
  omega
theorem ldc (d : Fin 32) (z : LdcSz) (o : Int) : Statement (.ldc d z o) := by
  rintro x h
  cases h
  have := d.isLt
  have := ldcCode_lt z
  have := lowF_lt 12 o
  have := lendF_lt 12 o
  dsimp only [rB]
  omega
theorem vaddI32 (d : Fin 64) (a : Sel) (b : Sel) : Statement (.vaddI32 d a b) := by
  rintro x h
  cases h
  have := d.isLt
  have := selCode_lt a
  have := selCode_lt b
  dsimp only [vvB]
  omega
theorem vsubI32 (d : Fin 64) (a : Sel) (b : Sel) : Statement (.vsubI32 d a b) := by
  rintro x h
  cases h
  have := d.isLt
  have := selCode_lt a
  have := selCode_lt b
  dsimp only [vvB]
  omega
theorem vmulI32 (d : Fin 64) (a : Sel) (b : Sel) : Statement (.vmulI32 d a b) := by
  rintro x h
  cases h
  have := d.isLt
  have := selCode_lt a
  have := selCode_lt b
  dsimp only [vvB]
  omega
theorem vmulhI32 (d : Fin 64) (a : Sel) (b : Sel) : Statement (.vmulhI32 d a b) := by
  rintro x h
  cases h
  have := d.isLt
  have := selCode_lt a
  have := selCode_lt b
  dsimp only [vvB]
  omega
theorem vaddI16 (d : Fin 64) (a : Sel) (b : Sel) : Statement (.vaddI16 d a b) := by
  rintro x h
  cases h
  have := d.isLt
  have := selCode_lt a
  have := selCode_lt b
  dsimp only [vvB]
  omega
theorem vsubI16 (d : Fin 64) (a : Sel) (b : Sel) : Statement (.vsubI16 d a b) := by
  rintro x h
  cases h
  have := d.isLt
  have := selCode_lt a
  have := selCode_lt b
  dsimp only [vvB]
  omega
theorem vaddI8 (d : Fin 64) (a : Sel) (b : Sel) : Statement (.vaddI8 d a b) := by
  rintro x h
  cases h
  have := d.isLt
  have := selCode_lt a
  have := selCode_lt b
  dsimp only [vvB]
  omega
theorem vsubI8 (d : Fin 64) (a : Sel) (b : Sel) : Statement (.vsubI8 d a b) := by
  rintro x h
  cases h
  have := d.isLt
  have := selCode_lt a
  have := selCode_lt b
  dsimp only [vvB]
  omega
theorem vaddsI16 (d : Fin 64) (a : Sel) (b : Sel) : Statement (.vaddsI16 d a b) := by
  rintro x h
  cases h
  have := d.isLt
  have := selCode_lt a
  have := selCode_lt b
  dsimp only [vvB]
  omega
theorem vsubsI16 (d : Fin 64) (a : Sel) (b : Sel) : Statement (.vsubsI16 d a b) := by
  rintro x h
  cases h
  have := d.isLt
  have := selCode_lt a
  have := selCode_lt b
  dsimp only [vvB]
  omega
theorem vaddsI8 (d : Fin 64) (a : Sel) (b : Sel) : Statement (.vaddsI8 d a b) := by
  rintro x h
  cases h
  have := d.isLt
  have := selCode_lt a
  have := selCode_lt b
  dsimp only [vvB]
  omega
theorem vsubsI8 (d : Fin 64) (a : Sel) (b : Sel) : Statement (.vsubsI8 d a b) := by
  rintro x h
  cases h
  have := d.isLt
  have := selCode_lt a
  have := selCode_lt b
  dsimp only [vvB]
  omega
theorem vminI32 (d : Fin 64) (a : Sel) (b : Sel) : Statement (.vminI32 d a b) := by
  rintro x h
  cases h
  have := d.isLt
  have := selCode_lt a
  have := selCode_lt b
  dsimp only [vvB]
  omega
theorem vmaxI32 (d : Fin 64) (a : Sel) (b : Sel) : Statement (.vmaxI32 d a b) := by
  rintro x h
  cases h
  have := d.isLt
  have := selCode_lt a
  have := selCode_lt b
  dsimp only [vvB]
  omega
theorem vminuI32 (d : Fin 64) (a : Sel) (b : Sel) : Statement (.vminuI32 d a b) := by
  rintro x h
  cases h
  have := d.isLt
  have := selCode_lt a
  have := selCode_lt b
  dsimp only [vvB]
  omega
theorem vmaxuI32 (d : Fin 64) (a : Sel) (b : Sel) : Statement (.vmaxuI32 d a b) := by
  rintro x h
  cases h
  have := d.isLt
  have := selCode_lt a
  have := selCode_lt b
  dsimp only [vvB]
  omega
theorem vand (d : Fin 64) (a : Sel) (b : Sel) : Statement (.vand d a b) := by
  rintro x h
  cases h
  have := d.isLt
  have := selCode_lt a
  have := selCode_lt b
  dsimp only [vvB]
  omega
theorem vor (d : Fin 64) (a : Sel) (b : Sel) : Statement (.vor d a b) := by
  rintro x h
  cases h
  have := d.isLt
  have := selCode_lt a
  have := selCode_lt b
  dsimp only [vvB]
  omega
theorem vxor (d : Fin 64) (a : Sel) (b : Sel) : Statement (.vxor d a b) := by
  rintro x h
  cases h
  have := d.isLt
  have := selCode_lt a
  have := selCode_lt b
  dsimp only [vvB]
  omega
theorem vlut3 (d : Fin 64) (a : Sel) (b : Sel) (tt : Fin 256) : Statement (.vlut3 d a b tt) := by
  rintro x h
  cases h
  have := d.isLt
  have := selCode_lt a
  have := selCode_lt b
  have := tt.isLt
  dsimp only [vvB]
  omega
theorem vshl (d : Fin 64) (a : Sel) (b : Sel) : Statement (.vshl d a b) := by
  rintro x h
  cases h
  have := d.isLt
  have := selCode_lt a
  have := selCode_lt b
  dsimp only [vvB]
  omega
theorem vshr (d : Fin 64) (a : Sel) (b : Sel) : Statement (.vshr d a b) := by
  rintro x h
  cases h
  have := d.isLt
  have := selCode_lt a
  have := selCode_lt b
  dsimp only [vvB]
  omega
theorem vsra (d : Fin 64) (a : Sel) (b : Sel) : Statement (.vsra d a b) := by
  rintro x h
  cases h
  have := d.isLt
  have := selCode_lt a
  have := selCode_lt b
  dsimp only [vvB]
  omega
theorem vfshl (d : Fin 64) (a : Sel) (b : Sel) (n : Fin 32) : Statement (.vfshl d a b n) := by
  rintro x h
  cases h
  have := d.isLt
  have := selCode_lt a
  have := selCode_lt b
  have := n.isLt
  dsimp only [vvB]
  omega
theorem vfshr (d : Fin 64) (a : Sel) (b : Sel) (n : Fin 32) : Statement (.vfshr d a b n) := by
  rintro x h
  cases h
  have := d.isLt
  have := selCode_lt a
  have := selCode_lt b
  have := n.isLt
  dsimp only [vvB]
  omega
theorem vcmpeqI32 (a : Sel) (b : Sel) : Statement (.vcmpeqI32 a b) := by
  rintro x h
  cases h
  have := selCode_lt a
  have := selCode_lt b
  dsimp only [vvB]
  omega
theorem vcmpltI32 (a : Sel) (b : Sel) : Statement (.vcmpltI32 a b) := by
  rintro x h
  cases h
  have := selCode_lt a
  have := selCode_lt b
  dsimp only [vvB]
  omega
theorem vcmpltuI32 (a : Sel) (b : Sel) : Statement (.vcmpltuI32 a b) := by
  rintro x h
  cases h
  have := selCode_lt a
  have := selCode_lt b
  dsimp only [vvB]
  omega
theorem vcmpeqF32 (a : Sel) (b : Sel) : Statement (.vcmpeqF32 a b) := by
  rintro x h
  cases h
  have := selCode_lt a
  have := selCode_lt b
  dsimp only [vvB]
  omega
theorem vcmpltF32 (a : Sel) (b : Sel) : Statement (.vcmpltF32 a b) := by
  rintro x h
  cases h
  have := selCode_lt a
  have := selCode_lt b
  dsimp only [vvB]
  omega
theorem vcmpleF32 (a : Sel) (b : Sel) : Statement (.vcmpleF32 a b) := by
  rintro x h
  cases h
  have := selCode_lt a
  have := selCode_lt b
  dsimp only [vvB]
  omega
theorem vcmpunF32 (a : Sel) (b : Sel) : Statement (.vcmpunF32 a b) := by
  rintro x h
  cases h
  have := selCode_lt a
  have := selCode_lt b
  dsimp only [vvB]
  omega
theorem vsel (d : Fin 64) (a : Sel) (b : Sel) : Statement (.vsel d a b) := by
  rintro x h
  cases h
  have := d.isLt
  have := selCode_lt a
  have := selCode_lt b
  dsimp only [vvB]
  omega
theorem vfaddF32 (d : Fin 64) (a : Sel) (b : Sel) : Statement (.vfaddF32 d a b) := by
  rintro x h
  cases h
  have := d.isLt
  have := selCode_lt a
  have := selCode_lt b
  dsimp only [vvB]
  omega
theorem vfsubF32 (d : Fin 64) (a : Sel) (b : Sel) : Statement (.vfsubF32 d a b) := by
  rintro x h
  cases h
  have := d.isLt
  have := selCode_lt a
  have := selCode_lt b
  dsimp only [vvB]
  omega
theorem vfmulF32 (d : Fin 64) (a : Sel) (b : Sel) : Statement (.vfmulF32 d a b) := by
  rintro x h
  cases h
  have := d.isLt
  have := selCode_lt a
  have := selCode_lt b
  dsimp only [vvB]
  omega
theorem vfmaF32 (d : Fin 64) (a : Sel) (b : Sel) : Statement (.vfmaF32 d a b) := by
  rintro x h
  cases h
  have := d.isLt
  have := selCode_lt a
  have := selCode_lt b
  dsimp only [vvB]
  omega
theorem vfminF32 (d : Fin 64) (a : Sel) (b : Sel) : Statement (.vfminF32 d a b) := by
  rintro x h
  cases h
  have := d.isLt
  have := selCode_lt a
  have := selCode_lt b
  dsimp only [vvB]
  omega
theorem vfmaxF32 (d : Fin 64) (a : Sel) (b : Sel) : Statement (.vfmaxF32 d a b) := by
  rintro x h
  cases h
  have := d.isLt
  have := selCode_lt a
  have := selCode_lt b
  dsimp only [vvB]
  omega
theorem vfaddBf16 (d : Fin 64) (a : Sel) (b : Sel) : Statement (.vfaddBf16 d a b) := by
  rintro x h
  cases h
  have := d.isLt
  have := selCode_lt a
  have := selCode_lt b
  dsimp only [vvB]
  omega
theorem vfmulBf16 (d : Fin 64) (a : Sel) (b : Sel) : Statement (.vfmulBf16 d a b) := by
  rintro x h
  cases h
  have := d.isLt
  have := selCode_lt a
  have := selCode_lt b
  dsimp only [vvB]
  omega
theorem vfmaBf16 (d : Fin 64) (a : Sel) (b : Sel) : Statement (.vfmaBf16 d a b) := by
  rintro x h
  cases h
  have := d.isLt
  have := selCode_lt a
  have := selCode_lt b
  dsimp only [vvB]
  omega
theorem vfaddF16 (d : Fin 64) (a : Sel) (b : Sel) : Statement (.vfaddF16 d a b) := by
  rintro x h
  cases h
  have := d.isLt
  have := selCode_lt a
  have := selCode_lt b
  dsimp only [vvB]
  omega
theorem vfmulF16 (d : Fin 64) (a : Sel) (b : Sel) : Statement (.vfmulF16 d a b) := by
  rintro x h
  cases h
  have := d.isLt
  have := selCode_lt a
  have := selCode_lt b
  dsimp only [vvB]
  omega
theorem vfmaF16 (d : Fin 64) (a : Sel) (b : Sel) : Statement (.vfmaF16 d a b) := by
  rintro x h
  cases h
  have := d.isLt
  have := selCode_lt a
  have := selCode_lt b
  dsimp only [vvB]
  omega
theorem vcvt (d : Fin 64) (a : Sel) (code : CvtCode) (part : Fin 4) (rm : Bool) : Statement (.vcvt d a code part rm) := by
  rintro x h
  cases h
  have := d.isLt
  have := selCode_lt a
  have := cvtCode_lt code
  have := part.isLt
  have := bif_le rm 128
  dsimp only [vvB, selCode_zero]
  omega
theorem vqnt (t : QFmt) (d : Fin 64) (a : Sel) (b : Sel) : Statement (.vqnt t d a b) := by
  rintro x h
  cases h
  have := qfmtCode_lt t
  have := d.isLt
  have := selCode_lt a
  have := selCode_lt b
  dsimp only [vvB]
  omega
theorem vdqnt (d : Fin 64) (a : Sel) (b : Sel) : Statement (.vdqnt d a b) := by
  rintro x h
  cases h
  have := d.isLt
  have := selCode_lt a
  have := selCode_lt b
  dsimp only [vvB]
  omega
theorem vbmax (d : Fin 64) (a : Sel) : Statement (.vbmax d a) := by
  rintro x h
  cases h
  have := d.isLt
  have := selCode_lt a
  dsimp only [vvB, selCode_zero]
  omega
theorem vrcp (d : Fin 64) (a : Sel) (f : SfFmt) : Statement (.vrcp d a f) := by
  rintro x h
  cases h
  have := d.isLt
  have := selCode_lt a
  have := sfCode_lt f
  dsimp only [vvB, selCode_zero]
  omega
theorem vrsq (d : Fin 64) (a : Sel) (f : SfFmt) : Statement (.vrsq d a f) := by
  rintro x h
  cases h
  have := d.isLt
  have := selCode_lt a
  have := sfCode_lt f
  dsimp only [vvB, selCode_zero]
  omega
theorem vsqrt (d : Fin 64) (a : Sel) (f : SfFmt) : Statement (.vsqrt d a f) := by
  rintro x h
  cases h
  have := d.isLt
  have := selCode_lt a
  have := sfCode_lt f
  dsimp only [vvB, selCode_zero]
  omega
theorem vexp2 (d : Fin 64) (a : Sel) (f : SfFmt) : Statement (.vexp2 d a f) := by
  rintro x h
  cases h
  have := d.isLt
  have := selCode_lt a
  have := sfCode_lt f
  dsimp only [vvB, selCode_zero]
  omega
theorem vlog2 (d : Fin 64) (a : Sel) (f : SfFmt) : Statement (.vlog2 d a f) := by
  rintro x h
  cases h
  have := d.isLt
  have := selCode_lt a
  have := sfCode_lt f
  dsimp only [vvB, selCode_zero]
  omega
theorem vsinpi (d : Fin 64) (a : Sel) (f : SfFmt) : Statement (.vsinpi d a f) := by
  rintro x h
  cases h
  have := d.isLt
  have := selCode_lt a
  have := sfCode_lt f
  dsimp only [vvB, selCode_zero]
  omega
theorem vcospi (d : Fin 64) (a : Sel) (f : SfFmt) : Statement (.vcospi d a f) := by
  rintro x h
  cases h
  have := d.isLt
  have := selCode_lt a
  have := sfCode_lt f
  dsimp only [vvB, selCode_zero]
  omega
theorem vtanh (d : Fin 64) (a : Sel) (f : SfFmt) : Statement (.vtanh d a f) := by
  rintro x h
  cases h
  have := d.isLt
  have := selCode_lt a
  have := sfCode_lt f
  dsimp only [vvB, selCode_zero]
  omega
theorem vperm (d : Fin 64) (a : Sel) (b : Sel) : Statement (.vperm d a b) := by
  rintro x h
  cases h
  have := d.isLt
  have := selCode_lt a
  have := selCode_lt b
  dsimp only [vvB]
  omega
theorem vrot (d : Fin 64) (a : Sel) (b : Fin 32) : Statement (.vrot d a b) := by
  rintro x h
  cases h
  have := d.isLt
  have := selCode_lt a
  have := b.isLt
  dsimp only [vvB, selCode_zero]
  omega
theorem vbcst (z : BcSz) (d : Fin 64) (b : Fin 32) : Statement (.vbcst z d b) := by
  rintro x h
  cases h
  have := bcCode_lt z
  have := d.isLt
  have := b.isLt
  dsimp only
  omega
theorem vext (sx : Bool) (d : Fin 32) (a : Sel) (b : Fin 32) : Statement (.vext sx d a b) := by
  rintro x h
  cases h
  have := bif_le sx 1
  have := d.isLt
  have := selCode_lt a
  have := b.isLt
  dsimp only [vvB, selCode_zero]
  omega
theorem vins (d : Fin 64) (b : Fin 32) (k : Fin 64) : Statement (.vins d b k) := by
  rintro x h
  cases h
  have := d.isLt
  have := b.isLt
  have := k.isLt
  dsimp only
  omega
theorem vred (op : RedOp) (d : Fin 32) (a : Sel) : Statement (.vred op d a) := by
  rintro x h
  cases h
  have := redCode_lt op
  have := d.isLt
  have := selCode_lt a
  dsimp only [vvB, selCode_zero]
  omega
theorem vpopc (d : Fin 32) (a : Sel) : Statement (.vpopc d a) := by
  rintro x h
  cases h
  have := d.isLt
  have := selCode_lt a
  dsimp only [vvB, selCode_zero]
  omega
theorem vclz (d : Fin 64) (a : Sel) : Statement (.vclz d a) := by
  rintro x h
  cases h
  have := d.isLt
  have := selCode_lt a
  dsimp only [vvB, selCode_zero]
  omega
theorem viota (cm : Bool) (d : Fin 64) : Statement (.viota cm d) := by
  rintro x h
  cases h
  have := bif_le cm 1
  have := d.isLt
  dsimp only
  omega
theorem vmov (d : Fin 64) (a : Sel) : Statement (.vmov d a) := by
  rintro x h
  cases h
  have := d.isLt
  have := selCode_lt a
  dsimp only [vvB, selCode_zero]
  omega
theorem vaddiI32 (d : Fin 64) (a : Sel) (i : BitVec 8) : Statement (.vaddiI32 d a i) := by
  rintro x h
  cases h
  have := d.isLt
  have := selCode_lt a
  have := i.isLt
  dsimp only [vvB, selCode_zero]
  omega
theorem vandi (d : Fin 64) (a : Sel) (i : BitVec 8) : Statement (.vandi d a i) := by
  rintro x h
  cases h
  have := d.isLt
  have := selCode_lt a
  have := i.isLt
  dsimp only [vvB, selCode_zero]
  omega
theorem vshli (d : Fin 64) (a : Sel) (n : Fin 32) : Statement (.vshli d a n) := by
  rintro x h
  cases h
  have := d.isLt
  have := selCode_lt a
  have := n.isLt
  dsimp only [vvB, selCode_zero]
  omega
theorem vshri (d : Fin 64) (a : Sel) (n : Fin 32) : Statement (.vshri d a n) := by
  rintro x h
  cases h
  have := d.isLt
  have := selCode_lt a
  have := n.isLt
  dsimp only [vvB, selCode_zero]
  omega
theorem vsrai (d : Fin 64) (a : Sel) (n : Fin 32) : Statement (.vsrai d a n) := by
  rintro x h
  cases h
  have := d.isLt
  have := selCode_lt a
  have := n.isLt
  dsimp only [vvB, selCode_zero]
  omega
theorem vmovi (d : Fin 64) (i : BitVec 8) : Statement (.vmovi d i) := by
  rintro x h
  cases h
  have := d.isLt
  have := i.isLt
  dsimp only
  omega
theorem ldv (q : QLoad) (d : Fin 64) (a : Fin 32) (o : Int) : Statement (.ldv q d a o) := by
  rintro x h
  cases h
  have := qloadCode_lt q
  have := d.isLt
  have := a.isLt
  have := lowF_lt 9 o
  have := lendF_lt 9 o
  dsimp only [mvB]
  omega
theorem stv (q : QStore) (v : Fin 64) (a : Fin 32) (o : Int) : Statement (.stv q v a o) := by
  rintro x h
  cases h
  have := qstoreCode_lt q
  have := v.isLt
  have := a.isLt
  have := lowF_lt 9 o
  have := lendF_lt 9 o
  dsimp only [mvB]
  omega
theorem ldsD (q : QLoad) (d : Fin 32) (a : Fin 32) (o : Int) : Statement (.ldsD q d a o) := by
  rintro x h
  cases h
  have := qloadCode_lt q
  have := d.isLt
  have := a.isLt
  have := lowF_lt 10 o
  have := lendF_lt 10 o
  dsimp only [rB]
  omega
theorem ldsW (q : QLoad) (d : Fin 32) (a : Fin 32) (o : Int) : Statement (.ldsW q d a o) := by
  rintro x h
  cases h
  have := qloadCode_lt q
  have := d.isLt
  have := a.isLt
  have := lowF_lt 10 o
  have := lendF_lt 10 o
  dsimp only [rB]
  omega
theorem ldsWu (q : QLoad) (d : Fin 32) (a : Fin 32) (o : Int) : Statement (.ldsWu q d a o) := by
  rintro x h
  cases h
  have := qloadCode_lt q
  have := d.isLt
  have := a.isLt
  have := lowF_lt 10 o
  have := lendF_lt 10 o
  dsimp only [rB]
  omega
theorem ldsH (q : QLoad) (d : Fin 32) (a : Fin 32) (o : Int) : Statement (.ldsH q d a o) := by
  rintro x h
  cases h
  have := qloadCode_lt q
  have := d.isLt
  have := a.isLt
  have := lowF_lt 10 o
  have := lendF_lt 10 o
  dsimp only [rB]
  omega
theorem ldsB (q : QLoad) (d : Fin 32) (a : Fin 32) (o : Int) : Statement (.ldsB q d a o) := by
  rintro x h
  cases h
  have := qloadCode_lt q
  have := d.isLt
  have := a.isLt
  have := lowF_lt 10 o
  have := lendF_lt 10 o
  dsimp only [rB]
  omega
theorem stsD (q : QStore) (v : Fin 32) (a : Fin 32) (o : Int) : Statement (.stsD q v a o) := by
  rintro x h
  cases h
  have := qstoreCode_lt q
  have := v.isLt
  have := a.isLt
  have := lowF_lt 10 o
  have := lendF_lt 10 o
  dsimp only [rB]
  omega
theorem stsW (q : QStore) (v : Fin 32) (a : Fin 32) (o : Int) : Statement (.stsW q v a o) := by
  rintro x h
  cases h
  have := qstoreCode_lt q
  have := v.isLt
  have := a.isLt
  have := lowF_lt 10 o
  have := lendF_lt 10 o
  dsimp only [rB]
  omega
theorem stsH (q : QStore) (v : Fin 32) (a : Fin 32) (o : Int) : Statement (.stsH q v a o) := by
  rintro x h
  cases h
  have := qstoreCode_lt q
  have := v.isLt
  have := a.isLt
  have := lowF_lt 10 o
  have := lendF_lt 10 o
  dsimp only [rB]
  omega
theorem stsB (q : QStore) (v : Fin 32) (a : Fin 32) (o : Int) : Statement (.stsB q v a o) := by
  rintro x h
  cases h
  have := qstoreCode_lt q
  have := v.isLt
  have := a.isLt
  have := lowF_lt 10 o
  have := lendF_lt 10 o
  dsimp only [rB]
  omega
theorem ldvg (d : Fin 64) (a : Fin 32) (x : Fin 64) : Statement (.ldvg d a x) := by
  rintro x h
  cases h
  have := d.isLt
  have := a.isLt
  have := x.isLt
  dsimp only [mvB]
  omega
theorem stvs (v : Fin 64) (a : Fin 32) (x : Fin 64) : Statement (.stvs v a x) := by
  rintro x h
  cases h
  have := v.isLt
  have := a.isLt
  have := x.isLt
  dsimp only [mvB]
  omega
theorem feset (a : Fin 32) (o : Int) : Statement (.feset a o) := by
  rintro x h
  cases h
  have := a.isLt
  have := lowF_lt 10 o
  have := lendF_lt 10 o
  dsimp only [rB]
  omega
theorem feclr (a : Fin 32) (o : Int) : Statement (.feclr a o) := by
  rintro x h
  cases h
  have := a.isLt
  have := lowF_lt 10 o
  have := lendF_lt 10 o
  dsimp only [rB]
  omega
theorem fetest (d : Fin 32) (a : Fin 32) (o : Int) : Statement (.fetest d a o) := by
  rintro x h
  cases h
  have := d.isLt
  have := a.isLt
  have := lowF_lt 10 o
  have := lendF_lt 10 o
  dsimp only [rB]
  omega
theorem ldgD (f : Bool) (d : Fin 32) (a : Fin 32) (o : Int) : Statement (.ldgD f d a o) := by
  rintro x h
  cases h
  have := bif_le f 2048
  have := d.isLt
  have := a.isLt
  have := lowF_lt 11 o
  have := lendF_lt 11 o
  dsimp only [rB]
  omega
theorem ldgW (f : Bool) (d : Fin 32) (a : Fin 32) (o : Int) : Statement (.ldgW f d a o) := by
  rintro x h
  cases h
  have := bif_le f 2048
  have := d.isLt
  have := a.isLt
  have := lowF_lt 11 o
  have := lendF_lt 11 o
  dsimp only [rB]
  omega
theorem ldgv (f : Bool) (d : Fin 64) (a : Fin 32) (o : Int) : Statement (.ldgv f d a o) := by
  rintro x h
  cases h
  have := bif_le f 1024
  have := d.isLt
  have := a.isLt
  have := lowF_lt 10 o
  have := lendF_lt 10 o
  dsimp only [mvB]
  omega
theorem cpy (l : CopyLend) (a : Fin 32) (b : Fin 32) (c : Fin 32) (h : Hnd) : Statement (.cpy l a b c h) := by
  rintro x h
  cases h
  have := CopyLend.code_lt l
  have := a.isLt
  have := b.isLt
  have := c.isLt
  have := hndCode_lt h
  dsimp only [rB]
  omega
theorem cpys (l : CopyLend) (a : Fin 32) (b : Fin 32) (c : Fin 32) (h : Hnd) : Statement (.cpys l a b c h) := by
  rintro x h
  cases h
  have := CopyLend.code_lt l
  have := a.isLt
  have := b.isLt
  have := c.isLt
  have := hndCode_lt h
  dsimp only [rB]
  omega
theorem cpyz (l : CopyLend) (a : Fin 32) (c : Fin 32) (h : Hnd) : Statement (.cpyz l a c h) := by
  rintro x h
  cases h
  have := CopyLend.code_lt l
  have := a.isLt
  have := c.isLt
  have := hndCode_lt h
  dsimp only [rB]
  omega
theorem cpyaAddi32 (l : CopyLend) (a : Fin 32) (b : Fin 32) (c : Fin 32) (h : Hnd) : Statement (.cpyaAddi32 l a b c h) := by
  rintro x h
  cases h
  have := CopyLend.code_lt l
  have := a.isLt
  have := b.isLt
  have := c.isLt
  have := hndCode_lt h
  dsimp only [rB]
  omega
theorem cpyaAddi64 (l : CopyLend) (a : Fin 32) (b : Fin 32) (c : Fin 32) (h : Hnd) : Statement (.cpyaAddi64 l a b c h) := by
  rintro x h
  cases h
  have := CopyLend.code_lt l
  have := a.isLt
  have := b.isLt
  have := c.isLt
  have := hndCode_lt h
  dsimp only [rB]
  omega
theorem cpyaAddf (l : CopyLend) (a : Fin 32) (b : Fin 32) (c : Fin 32) (h : Hnd) : Statement (.cpyaAddf l a b c h) := by
  rintro x h
  cases h
  have := CopyLend.code_lt l
  have := a.isLt
  have := b.isLt
  have := c.isLt
  have := hndCode_lt h
  dsimp only [rB]
  omega
theorem cpyaMin (l : CopyLend) (a : Fin 32) (b : Fin 32) (c : Fin 32) (h : Hnd) : Statement (.cpyaMin l a b c h) := by
  rintro x h
  cases h
  have := CopyLend.code_lt l
  have := a.isLt
  have := b.isLt
  have := c.isLt
  have := hndCode_lt h
  dsimp only [rB]
  omega
theorem cpyaMax (l : CopyLend) (a : Fin 32) (b : Fin 32) (c : Fin 32) (h : Hnd) : Statement (.cpyaMax l a b c h) := by
  rintro x h
  cases h
  have := CopyLend.code_lt l
  have := a.isLt
  have := b.isLt
  have := c.isLt
  have := hndCode_lt h
  dsimp only [rB]
  omega
theorem cpyaOr (l : CopyLend) (a : Fin 32) (b : Fin 32) (c : Fin 32) (h : Hnd) : Statement (.cpyaOr l a b c h) := by
  rintro x h
  cases h
  have := CopyLend.code_lt l
  have := a.isLt
  have := b.isLt
  have := c.isLt
  have := hndCode_lt h
  dsimp only [rB]
  omega
theorem cpyaAnd (l : CopyLend) (a : Fin 32) (b : Fin 32) (c : Fin 32) (h : Hnd) : Statement (.cpyaAnd l a b c h) := by
  rintro x h
  cases h
  have := CopyLend.code_lt l
  have := a.isLt
  have := b.isLt
  have := c.isLt
  have := hndCode_lt h
  dsimp only [rB]
  omega
theorem cpyaXor (l : CopyLend) (a : Fin 32) (b : Fin 32) (c : Fin 32) (h : Hnd) : Statement (.cpyaXor l a b c h) := by
  rintro x h
  cases h
  have := CopyLend.code_lt l
  have := a.isLt
  have := b.isLt
  have := c.isLt
  have := hndCode_lt h
  dsimp only [rB]
  omega
theorem fopAdd (l : CopyLend) (a : Fin 32) (b : Fin 32) (c : Fin 32) (h : Hnd) : Statement (.fopAdd l a b c h) := by
  rintro x h
  cases h
  have := CopyLend.code_lt l
  have := a.isLt
  have := b.isLt
  have := c.isLt
  have := hndCode_lt h
  dsimp only [rB]
  omega
theorem fopBadd (l : CopyLend) (a : Fin 32) (b : Fin 32) (c : Fin 32) (h : Hnd) : Statement (.fopBadd l a b c h) := by
  rintro x h
  cases h
  have := CopyLend.code_lt l
  have := a.isLt
  have := b.isLt
  have := c.isLt
  have := hndCode_lt h
  dsimp only [rB]
  omega
theorem fopSwap (l : CopyLend) (a : Fin 32) (b : Fin 32) (c : Fin 32) (h : Hnd) : Statement (.fopSwap l a b c h) := by
  rintro x h
  cases h
  have := CopyLend.code_lt l
  have := a.isLt
  have := b.isLt
  have := c.isLt
  have := hndCode_lt h
  dsimp only [rB]
  omega
theorem fopCas (l : CopyLend) (a : Fin 32) (b : Fin 32) (h : Hnd) : Statement (.fopCas l a b h) := by
  rintro x h
  cases h
  have := CopyLend.code_lt l
  have := a.isLt
  have := b.isLt
  have := hndCode_lt h
  dsimp only [rB]
  omega
theorem cpyq (c : Fin 32) : Statement (.cpyq c) := by
  rintro x h
  cases h
  have := c.isLt
  dsimp only [rB]
  omega
theorem mxcfg (n : Fin 8) (a : Fin 32) (b : Fin 32) : Statement (.mxcfg n a b) := by
  rintro x h
  cases h
  have := n.isLt
  have := a.isLt
  have := b.isLt
  dsimp only [rB]
  omega
theorem mxgo (h : Hnd) : Statement (.mxgo h) := by
  rintro x h
  cases h
  have := hndCode_lt h
  dsimp only [rB]
  omega
theorem mxwait (a : Fin 32) : Statement (.mxwait a) := by
  rintro x h
  cases h
  have := a.isLt
  dsimp only [rB]
  omega
theorem mxlease : Statement (.mxlease) := by
  rintro x h
  cases h
  dsimp only [rB]
  omega
theorem mxleaseJoin : Statement (.mxleaseJoin) := by
  rintro x h
  cases h
  dsimp only [rB]
  omega
theorem mxfree : Statement (.mxfree) := by
  rintro x h
  cases h
  dsimp only [rB]
  omega
theorem mxfreeJoin : Statement (.mxfreeJoin) := by
  rintro x h
  cases h
  dsimp only [rB]
  omega
theorem mxfreeClaim : Statement (.mxfreeClaim) := by
  rintro x h
  cases h
  dsimp only [rB]
  omega
theorem mxld (a : Fin 32) (b : Fin 32) (st : Bool) (h : Hnd) : Statement (.mxld a b st h) := by
  rintro x h
  cases h
  have := a.isLt
  have := b.isLt
  have := bif_le st 1
  have := hndCode_lt h
  dsimp only [rB]
  omega
theorem mxst (a : Fin 32) (b : Fin 32) (st : Bool) (h : Hnd) : Statement (.mxst a b st h) := by
  rintro x h
  cases h
  have := a.isLt
  have := b.isLt
  have := bif_le st 1
  have := hndCode_lt h
  dsimp only [rB]
  omega
theorem mxz (b : Fin 32) (st : Bool) (h : Hnd) : Statement (.mxz b st h) := by
  rintro x h
  cases h
  have := b.isLt
  have := bif_le st 1
  have := hndCode_lt h
  dsimp only [rB]
  omega
theorem ringset (q : Fin 8) (a : Fin 32) (c : Fin 32) : Statement (.ringset q a c) := by
  rintro x h
  cases h
  have := q.isLt
  have := a.isLt
  have := c.isLt
  dsimp only [rB]
  omega
theorem ringpush (q : Fin 8) (a : Fin 32) : Statement (.ringpush q a) := by
  rintro x h
  cases h
  have := q.isLt
  have := a.isLt
  dsimp only [rB]
  omega
theorem ringstat (c : Fin 32) (q : Fin 8) : Statement (.ringstat c q) := by
  rintro x h
  cases h
  have := c.isLt
  have := q.isLt
  dsimp only [rB]
  omega
theorem sctab (a : Fin 32) (b : Fin 32) (c : Fin 32) : Statement (.sctab a b c) := by
  rintro x h
  cases h
  have := a.isLt
  have := b.isLt
  have := c.isLt
  dsimp only [rB]
  omega
theorem scinv (a : Fin 32) : Statement (.scinv a) := by
  rintro x h
  cases h
  have := a.isLt
  dsimp only [rB]
  omega
theorem mxstat (c : Fin 32) : Statement (.mxstat c) := by
  rintro x h
  cases h
  have := c.isLt
  dsimp only [rB]
  omega
theorem phbind (c : Fin 32) (a : Fin 32) (h : Fin 96) : Statement (.phbind c a h) := by
  rintro x h
  cases h
  have := c.isLt
  have := a.isLt
  have := h.isLt
  dsimp only [rB]
  omega
theorem phreg (m : RegMode) (h : Fin 96) : Statement (.phreg m h) := by
  rintro x h
  cases h
  have := regModeCode_lt m
  have := h.isLt
  dsimp only [rB]
  omega
theorem phdrop (h : Fin 96) : Statement (.phdrop h) := by
  rintro x h
  cases h
  have := h.isLt
  dsimp only [rB]
  omega
theorem phsig (p : Scope) (h : Fin 96) : Statement (.phsig p h) := by
  rintro x h
  cases h
  have := scopeCode_lt p
  have := h.isLt
  dsimp only [rB]
  omega
theorem phwait (p : Scope) (h : Fin 96) : Statement (.phwait p h) := by
  rintro x h
  cases h
  have := scopeCode_lt p
  have := h.isLt
  dsimp only [rB]
  omega
theorem phnext (p : Scope) (h : Fin 96) : Statement (.phnext p h) := by
  rintro x h
  cases h
  have := scopeCode_lt p
  have := h.isLt
  dsimp only [rB]
  omega
theorem phadd (p : Scope) (h : Fin 96) (a : Fin 32) : Statement (.phadd p h a) := by
  rintro x h
  cases h
  have := scopeCode_lt p
  have := h.isLt
  have := a.isLt
  dsimp only [rB]
  omega
theorem phtest (c : Fin 32) (h : Fin 96) : Statement (.phtest c h) := by
  rintro x h
  cases h
  have := c.isLt
  have := h.isLt
  dsimp only [rB]
  omega
theorem bwreq (c : Fin 32) (a : Fin 32) (b : Fin 32) (h : Hnd) : Statement (.bwreq c a b h) := by
  rintro x h
  cases h
  have := c.isLt
  have := a.isLt
  have := b.isLt
  have := hndCode_lt h
  dsimp only [rB]
  omega
theorem bwrel (a : Fin 32) (h : Hnd) : Statement (.bwrel a h) := by
  rintro x h
  cases h
  have := a.isLt
  have := hndCode_lt h
  dsimp only [rB]
  omega
theorem bwqry (c : Fin 32) (a : Fin 32) : Statement (.bwqry c a) := by
  rintro x h
  cases h
  have := c.isLt
  have := a.isLt
  dsimp only [rB]
  omega
theorem puts (l : CopyLend) (a : Fin 32) (b : Fin 32) (c : Fin 32) (h : Hnd) : Statement (.puts l a b c h) := by
  rintro x h
  cases h
  have := CopyLend.code_lt l
  have := a.isLt
  have := b.isLt
  have := c.isLt
  have := hndCode_lt h
  dsimp only [rB]
  omega
theorem rels (a : Fin 32) (b : Fin 32) : Statement (.rels a b) := by
  rintro x h
  cases h
  have := a.isLt
  have := b.isLt
  dsimp only [rB]
  omega
theorem lrset (c : Fin 32) (a : Fin 32) (h : Hnd) : Statement (.lrset c a h) := by
  rintro x h
  cases h
  have := c.isLt
  have := a.isLt
  have := hndCode_lt h
  dsimp only [rB]
  omega
theorem fabst (c : Fin 32) (a : Fin 32) : Statement (.fabst c a) := by
  rintro x h
  cases h
  have := c.isLt
  have := a.isLt
  dsimp only [rB]
  omega
theorem coll (c : Fin 32) (a : Fin 32) (h : Fin 96) : Statement (.coll c a h) := by
  rintro x h
  cases h
  have := c.isLt
  have := a.isLt
  have := h.isLt
  dsimp only [rB]
  omega
theorem collq (c : Fin 32) (a : Fin 32) : Statement (.collq c a) := by
  rintro x h
  cases h
  have := c.isLt
  have := a.isLt
  dsimp only [rB]
  omega
theorem decpl : Statement (.decpl) := by
  rintro x h
  cases h
  dsimp only [rB]
  omega
theorem rejn : Statement (.rejn) := by
  rintro x h
  cases h
  dsimp only [rB]
  omega
theorem fence (p : Scope) : Statement (.fence p) := by
  rintro x h
  cases h
  have := scopeCode_lt p
  dsimp only
  omega
theorem icinv (p : Scope) (a : Fin 32) (b : Fin 32) : Statement (.icinv p a b) := by
  rintro x h
  cases h
  have := scopeCode_lt p
  have := a.isLt
  have := b.isLt
  dsimp only [rB]
  omega
theorem fetchb : Statement (.fetchb) := by
  rintro x h
  cases h
  dsimp only [rB]
  omega
theorem launch (c : Fin 32) (a : Fin 32) (b : Fin 32) : Statement (.launch c a b) := by
  rintro x h
  cases h
  have := c.isLt
  have := a.isLt
  have := b.isLt
  dsimp only [rB]
  omega
theorem halt : Statement (.halt) := by
  rintro x h
  cases h
  dsimp only [rB]
  omega
theorem trap (a : Fin 32) : Statement (.trap a) := by
  rintro x h
  cases h
  have := a.isLt
  dsimp only [rB]
  omega
theorem eret : Statement (.eret) := by
  rintro x h
  cases h
  dsimp only [rB]
  omega
theorem smc (c : Fin 32) (a : Fin 32) (b : Fin 32) : Statement (.smc c a b) := by
  rintro x h
  cases h
  have := c.isLt
  have := a.isLt
  have := b.isLt
  dsimp only [rB]
  omega
theorem brk : Statement (.brk) := by
  rintro x h
  cases h
  dsimp only [rB]
  omega
theorem waitev (c : Fin 32) (a : Fin 32) (h : Hnd) : Statement (.waitev c a h) := by
  rintro x h
  cases h
  have := c.isLt
  have := a.isLt
  have := hndCode_lt h
  dsimp only [rB]
  omega
theorem tlbinv (p : Scope) (a : Fin 32) (b : Fin 32) : Statement (.tlbinv p a b) := by
  rintro x h
  cases h
  have := scopeCode_lt p
  have := a.isLt
  have := b.isLt
  dsimp only [rB]
  omega
theorem yield : Statement (.yield) := by
  rintro x h
  cases h
  dsimp only [rB]
  omega
theorem ctxctlHalt (c : Fin 32) (a : Fin 32) (b : Fin 32) (h : Hnd) : Statement (.ctxctlHalt c a b h) := by
  rintro x h
  cases h
  have := c.isLt
  have := a.isLt
  have := b.isLt
  have := hndCode_lt h
  dsimp only [rB]
  omega
theorem ctxctlFlush (c : Fin 32) (a : Fin 32) (b : Fin 32) (h : Hnd) : Statement (.ctxctlFlush c a b h) := by
  rintro x h
  cases h
  have := c.isLt
  have := a.isLt
  have := b.isLt
  have := hndCode_lt h
  dsimp only [rB]
  omega
theorem ctxctlRestart (c : Fin 32) (a : Fin 32) (b : Fin 32) (h : Hnd) : Statement (.ctxctlRestart c a b h) := by
  rintro x h
  cases h
  have := c.isLt
  have := a.isLt
  have := b.isLt
  have := hndCode_lt h
  dsimp only [rB]
  omega
theorem ctxctlResume (c : Fin 32) (a : Fin 32) (b : Fin 32) (h : Hnd) : Statement (.ctxctlResume c a b h) := by
  rintro x h
  cases h
  have := c.isLt
  have := a.isLt
  have := b.isLt
  have := hndCode_lt h
  dsimp only [rB]
  omega
theorem ctxctlWake (c : Fin 32) (a : Fin 32) (b : Fin 32) (h : Hnd) : Statement (.ctxctlWake c a b h) := by
  rintro x h
  cases h
  have := c.isLt
  have := a.isLt
  have := b.isLt
  have := hndCode_lt h
  dsimp only [rB]
  omega
theorem wstat (c : Fin 32) (a : Fin 32) (b : Fin 32) : Statement (.wstat c a b) := by
  rintro x h
  cases h
  have := c.isLt
  have := a.isLt
  have := b.isLt
  dsimp only [rB]
  omega
theorem qtailWrite (q : QueueAt) (v : W32) : Statement (.qtailWrite q v) := fun _ h => nomatch h
theorem qcfgWrite (q : QueueAt) (v : W32) : Statement (.qcfgWrite q v) := fun _ h => nomatch h
theorem kstopPreempt (q : QueueAt) : Statement (.kstopPreempt q) := fun _ h => nomatch h
theorem kstopKill (q : QueueAt) : Statement (.kstopKill q) := fun _ h => nomatch h
theorem phaserObjectInit (o : Fin 16384) (phase : W32) (anon : BitVec 16) : Statement (.phaserObjectInit o phase anon) := fun _ h => nomatch h
theorem registerWrite (off : RegAt) (n : Nat) (v : W64) : Statement (.registerWrite off n v) := fun _ h => nomatch h
theorem bar0RegisterRead (off : Nat) (n : Nat) : Statement (.bar0RegisterRead off n) := fun _ h => nomatch h
theorem hostBar2Write (off : Nat) (data : List Byte) : Statement (.hostBar2Write off data) := fun _ h => nomatch h
theorem hostBar2Read (off : Nat) (n : Nat) : Statement (.hostBar2Read off n) := fun _ h => nomatch h
theorem qliftWrite (u : BitVec 16) : Statement (.qliftWrite u) := fun _ h => nomatch h
theorem ltrWrite (v : W32) : Statement (.ltrWrite v) := fun _ h => nomatch h
theorem pfansRetry (asid : Fin 64) (page : W32) : Statement (.pfansRetry asid page) := fun _ h => nomatch h
theorem pfansFail (asid : Fin 64) (page : W32) : Statement (.pfansFail asid page) := fun _ h => nomatch h
theorem fabricEnable (ports : BitVec 16) : Statement (.fabricEnable ports) := fun _ h => nomatch h
theorem fabricDisable (ports : BitVec 16) : Statement (.fabricDisable ports) := fun _ h => nomatch h
theorem lpolWrite (v : W32) : Statement (.lpolWrite v) := fun _ h => nomatch h
theorem revokeWrite (node : BitVec 13) (ports : BitVec 16) : Statement (.revokeWrite node ports) := fun _ h => nomatch h
theorem membershipWrite (j : Fin 256) (v : W32) : Statement (.membershipWrite j v) := fun _ h => nomatch h
theorem flitWriteRx (p : Fin 16) (k : Fin 128) (f : Flit) : Statement (.flitWriteRx p k f) := fun _ h => nomatch h
theorem flitReadrspRx (p : Fin 16) (k : Fin 128) (f : Flit) : Statement (.flitReadrspRx p k f) := fun _ h => nomatch h
theorem performedAckRx (src : BitVec 13) (tag : BitVec 16) (n : Nat) (bad : Option FaultRec) : Statement (.performedAckRx src tag n bad) := fun _ h => nomatch h
theorem linkAckRx (p : Fin 16) (k : Fin 128) (a : LinkAck) (f0 f1 f2 : Nat) : Statement (.linkAckRx p k a f0 f1 f2) := fun _ h => nomatch h
theorem timeFlitRx (p : Fin 16) (k : Fin 128) (f : TimeFlit) (agree : Bool) : Statement (.timeFlitRx p k f agree) := fun _ h => nomatch h
theorem leaseAnswerRx (src : BitVec 13) (lid : Fin 256) (p : Fin 16) (a : LeaseReply) : Statement (.leaseAnswerRx src lid p a) := fun _ h => nomatch h
theorem frameBoundary (agree : Bool) : Statement (.frameBoundary agree) := fun _ h => nomatch h
theorem eccError (e : EccSite) : Statement (.eccError e) := fun _ h => nomatch h
theorem powerOnBoot (outcomes : List (Option W32)) : Statement (.powerOnBoot outcomes) := fun _ h => nomatch h
theorem takeQueueEntry (q : Fin 64) : Statement (.takeQueueEntry q) := fun _ h => nomatch h
theorem dependenceEventSeen (o : Fin 16384) : Statement (.dependenceEventSeen o) := fun _ h => nomatch h
theorem placementDecision : Statement (.placementDecision) := fun _ h => nomatch h
theorem instanceStart (x : Nat) : Statement (.instanceStart x) := fun _ h => nomatch h
theorem preloadStart (kid : Nat) : Statement (.preloadStart kid) := fun _ h => nomatch h
theorem budgetOverrun (kid : Nat) : Statement (.budgetOverrun kid) := fun _ h => nomatch h
theorem requeueSettle (kid : Nat) : Statement (.requeueSettle kid) := fun _ h => nomatch h
theorem killSettle (kid : Nat) : Statement (.killSettle kid) := fun _ h => nomatch h
theorem instanceRetireDone (x : Nat) : Statement (.instanceRetireDone x) := fun _ h => nomatch h
theorem cintHoldoffExpiry : Statement (.cintHoldoffExpiry) := fun _ h => nomatch h
theorem icacheFill (core : Nat) (line : Nat) (gs : BitVec 8) : Statement (.icacheFill core line gs) := fun _ h => nomatch h
theorem fetchBufferFill (x : Nat) : Statement (.fetchBufferFill x) := fun _ h => nomatch h
theorem forcedIssue (core : Nat) : Statement (.forcedIssue core) := fun _ h => nomatch h
theorem resultLands (x : Nat) (j : Nat) : Statement (.resultLands x j) := fun _ h => nomatch h
theorem loadResultLands (x j : Nat) (g : LoadTake) : Statement (.loadResultLands x j g) := fun _ h => nomatch h
theorem checkSignatureCompare (core : Nat) : Statement (.checkSignatureCompare core) := fun _ h => nomatch h
theorem feWaitEnd (x : Nat) : Statement (.feWaitEnd x) := fun _ h => nomatch h
theorem feWatchdog (x : Nat) : Statement (.feWatchdog x) := fun _ h => nomatch h
theorem waitTimeout (x : Nat) : Statement (.waitTimeout x) := fun _ h => nomatch h
theorem phwaitEnd (x : Nat) : Statement (.phwaitEnd x) := fun _ h => nomatch h
theorem phsigHoldEnd (x : Nat) : Statement (.phsigHoldEnd x) := fun _ h => nomatch h
theorem copyEntryFree (x : Nat) : Statement (.copyEntryFree x) := fun _ h => nomatch h
theorem ringpushEnd (x : Nat) : Statement (.ringpushEnd x) := fun _ h => nomatch h
theorem matrixQueueRoom (x : Nat) : Statement (.matrixQueueRoom x) := fun _ h => nomatch h
theorem tileClaimGrant (x : Nat) : Statement (.tileClaimGrant x) := fun _ h => nomatch h
theorem mxwaitEnd (x : Nat) : Statement (.mxwaitEnd x) := fun _ h => nomatch h
theorem icinvComplete (x : Nat) : Statement (.icinvComplete x) := fun _ h => nomatch h
theorem rejnComplete (g : Nat) : Statement (.rejnComplete g) := fun _ h => nomatch h
theorem fenceComplete (x : Nat) : Statement (.fenceComplete x) := fun _ h => nomatch h
theorem waitevEnd (x : Nat) : Statement (.waitevEnd x) := fun _ h => nomatch h
theorem tlbinvComplete (x : Nat) : Statement (.tlbinvComplete x) := fun _ h => nomatch h
theorem tableUnpinEnd (x : Nat) : Statement (.tableUnpinEnd x) := fun _ h => nomatch h
theorem translationWalkEnd (core : Nat) (asid : Fin 64) (va : Addr) : Statement (.translationWalkEnd core asid va) := fun _ h => nomatch h
theorem haltRequestArrives (x : Nat) : Statement (.haltRequestArrives x) := fun _ h => nomatch h
theorem contextHalt (x : Nat) : Statement (.contextHalt x) := fun _ h => nomatch h
theorem forcedHalt (x : Nat) : Statement (.forcedHalt x) := fun _ h => nomatch h
theorem instanceSave (x : Nat) : Statement (.instanceSave x) := fun _ h => nomatch h
theorem commandStart (core : Nat) (j : Nat) (upto : Nat) : Statement (.commandStart core j upto) := fun _ h => nomatch h
theorem ringPanelRoom (core : Nat) (j : Nat) (upto : Nat) : Statement (.ringPanelRoom core j upto) := fun _ h => nomatch h
theorem putsSlotRoom (core : Nat) (j : Nat) : Statement (.putsSlotRoom core j) := fun _ h => nomatch h
theorem commandComplete (core : Nat) (j : Nat) : Statement (.commandComplete core j) := fun _ h => nomatch h
theorem mxRunStart (g : Nat) : Statement (.mxRunStart g) := fun _ h => nomatch h
theorem mxRunEnd (g : Nat) : Statement (.mxRunEnd g) := fun _ h => nomatch h
theorem mxPanelRead (g : Nat) : Statement (.mxPanelRead g) := fun _ h => nomatch h
theorem scaleMissFill (g : Nat) (t : Nat) (row : Nat) (blk : Nat) : Statement (.scaleMissFill g t row blk) := fun _ h => nomatch h
theorem mxOpComplete (g : Nat) : Statement (.mxOpComplete g) := fun _ h => nomatch h
theorem mxSuspendComplete (g : Nat) : Statement (.mxSuspendComplete g) := fun _ h => nomatch h
theorem mxTileCmdComplete (x : Nat) : Statement (.mxTileCmdComplete x) := fun _ h => nomatch h
theorem mxJoinEffect (x : Nat) : Statement (.mxJoinEffect x) := fun _ h => nomatch h
theorem memberSignal (j : Nat) : Statement (.memberSignal j) := fun _ h => nomatch h
theorem anonymousArrival (j : Nat) : Statement (.anonymousArrival j) := fun _ h => nomatch h
theorem registrationArrives (j : Nat) : Statement (.registrationArrives j) := fun _ h => nomatch h
theorem slotBoundary : Statement (.slotBoundary) := fun _ h => nomatch h
theorem syncLoss : Statement (.syncLoss) := fun _ h => nomatch h
theorem flitSend (p : Fin 16) (ch : Fin 18) (j : Nat) : Statement (.flitSend p ch j) := fun _ h => nomatch h
theorem flitZeroRx (p : Fin 16) (k : Fin 128) (f : Flit) : Statement (.flitZeroRx p k f) := fun _ h => nomatch h
theorem flitAtomicRx (p : Fin 16) (k : Fin 128) (f : Flit) : Statement (.flitAtomicRx p k f) := fun _ h => nomatch h
theorem flitReadreqRx (p : Fin 16) (k : Fin 128) (f : Flit) : Statement (.flitReadreqRx p k f) := fun _ h => nomatch h
theorem flitLandRx (p : Fin 16) (k : Fin 128) (f : Flit) : Statement (.flitLandRx p k f) := fun _ h => nomatch h
theorem flitTransitRx (p : Fin 16) (k : Fin 128) (f : Flit) : Statement (.flitTransitRx p k f) := fun _ h => nomatch h
theorem lackDue (p : Fin 16) (k : Fin 128) : Statement (.lackDue p k) := fun _ h => nomatch h
theorem replayRx (p : Fin 16) (k : Fin 128) (lp : Fin 16) (lk : Fin 128) (first : ReplayAt) (n : Nat) : Statement (.replayRx p k lp lk first n) := fun _ h => nomatch h
theorem leaseRequestRx (r : LeaseReq) : Statement (.leaseRequestRx r) := fun _ h => nomatch h
theorem leaseConfirmRx (src : BitVec 13) (lid : Fin 256) (p : Fin 16) : Statement (.leaseConfirmRx src lid p) := fun _ h => nomatch h
theorem leaseAnswerTimeout (lid : Fin 256) (p : Fin 16) : Statement (.leaseAnswerTimeout lid p) := fun _ h => nomatch h
theorem releaseNoticeRx (src : BitVec 13) (lid : Fin 256) (p : Fin 16) : Statement (.releaseNoticeRx src lid p) := fun _ h => nomatch h
theorem revocationNoticeRx (src : BitVec 13) (lid : Fin 256) (p : Fin 16) : Statement (.revocationNoticeRx src lid p) := fun _ h => nomatch h
theorem cancelNoticeRx (src : BitVec 13) (lid : Fin 256) (p : Fin 16) : Statement (.cancelNoticeRx src lid p) := fun _ h => nomatch h
theorem displacementNoticeRx (p : Fin 16) (k : Fin 128) (gs : GroupsFrom) : Statement (.displacementNoticeRx p k gs) := fun _ h => nomatch h
theorem lossNoticeRx (out : Bool) (p : Fin 16) (k : Fin 128) : Statement (.lossNoticeRx out p k) := fun _ h => nomatch h
theorem substNoticeRx (out : Bool) (p : Fin 16) (k : Fin 128) (n : LineFrom) : Statement (.substNoticeRx out p k n) := fun _ h => nomatch h
theorem removeNoticeRx (out : Bool) (lid : Option (Fin 256)) (p : Fin 16) (n : LineFrom) : Statement (.removeNoticeRx out lid p n) := fun _ h => nomatch h
theorem skewNoticeRx (lid : Fin 256) (p : Fin 16) : Statement (.skewNoticeRx lid p) := fun _ h => nomatch h
theorem rheadNoticeRx (r : Fin 1024) (rhead : W32) : Statement (.rheadNoticeRx r rhead) := fun _ h => nomatch h
theorem flitAbandon (j : Nat) : Statement (.flitAbandon j) := fun _ h => nomatch h
theorem lossOfLight (p : Fin 16) (k : LostLight) : Statement (.lossOfLight p k) := fun _ h => nomatch h
theorem lossOfSignal (p : Fin 16) (ch : Fin 18) (peerLit : Bool) : Statement (.lossOfSignal p ch peerLit) := fun _ h => nomatch h
theorem drift (p : Fin 16) (ch : Fin 36) : Statement (.drift p ch) := fun _ h => nomatch h
theorem retune (p : Fin 16) (ch : Fin 36) : Statement (.retune p ch) := fun _ h => nomatch h
theorem retuneRelock (p : Fin 16) (ch : Fin 36) : Statement (.retuneRelock p ch) := fun _ h => nomatch h
theorem lockfail (p : Fin 16) (ch : Fin 36) : Statement (.lockfail p ch) := fun _ h => nomatch h
theorem spareAttemptEnd (p : Fin 16) (k : Fin 128) (locked : Bool) : Statement (.spareAttemptEnd p k locked) := fun _ h => nomatch h
theorem repansSpareComb (p : Fin 16) (k : Fin 64) : Statement (.repansSpareComb p k) := fun _ h => nomatch h
theorem repansSpareEmitter (p : Fin 16) (k : Fin 64) : Statement (.repansSpareEmitter p k) := fun _ h => nomatch h
theorem repansRetryOriginal (p : Fin 16) (k : Fin 64) : Statement (.repansRetryOriginal p k) := fun _ h => nomatch h
theorem repansRemove (p : Fin 16) (k : Fin 64) : Statement (.repansRemove p k) := fun _ h => nomatch h
theorem repansTimeout (p : Fin 16) (k : Fin 64) : Statement (.repansTimeout p k) := fun _ h => nomatch h
theorem skewDetected (src : BitVec 13) (lid : Fin 256) (p : Fin 16) : Statement (.skewDetected src lid p) := fun _ h => nomatch h
theorem routingCommit : Statement (.routingCommit) := fun _ h => nomatch h
theorem announceRx (die : Fin 4) (comm : BitVec 16) (key : W64) : Statement (.announceRx die comm key) := fun _ h => nomatch h
theorem collAdmission (die : Fin 4) (t : Fin 64) : Statement (.collAdmission die t) := fun _ h => nomatch h
theorem admitRx (die : Fin 4) (comm : BitVec 16) (key : W64) (rank : Nat) : Statement (.admitRx die comm key rank) := fun _ h => nomatch h
theorem collTransfer (die : Fin 4) (t : Fin 64) : Statement (.collTransfer die t) := fun _ h => nomatch h
theorem rfwdMessageRx (die : Fin 4) (comm : BitVec 16) (key : W64) (n : Nat) (d : RfwdData) : Statement (.rfwdMessageRx die comm key n d) := fun _ h => nomatch h
theorem collDoneRx (die : Fin 4) (comm : BitVec 16) (key : W64) (rank : Nat) : Statement (.collDoneRx die comm key rank) := fun _ h => nomatch h
theorem abortRx (die : Fin 4) (comm : BitVec 16) (key : W64) (dog : Bool) : Statement (.abortRx die comm key dog) := fun _ h => nomatch h
theorem admissionWatchdog (die : Fin 4) (t : Fin 64) : Statement (.admissionWatchdog die t) := fun _ h => nomatch h
theorem pstateRead : Statement (.pstateRead) := fun _ h => nomatch h
theorem enterLowPower : Statement (.enterLowPower) := fun _ h => nomatch h
theorem lowPowerExit : Statement (.lowPowerExit) := fun _ h => nomatch h
theorem d3Entry : Statement (.d3Entry) := fun _ h => nomatch h
theorem zenithAttest (j : Nat) : Statement (.zenithAttest j) := fun _ h => nomatch h
theorem zenithBootinfo (j : Nat) : Statement (.zenithBootinfo j) := fun _ h => nomatch h
theorem zenithSetworld (j : Nat) : Statement (.zenithSetworld j) := fun _ h => nomatch h
theorem zenithBootclr (j : Nat) : Statement (.zenithBootclr j) := fun _ h => nomatch h
theorem zenithDiag (j : Nat) (pass : Bool) : Statement (.zenithDiag j pass) := fun _ h => nomatch h
theorem zenithAutoDiag (u : BitVec 16) (pass : Bool) : Statement (.zenithAutoDiag u pass) := fun _ h => nomatch h
theorem writebackPoison (line : Nat) : Statement (.writebackPoison line) := fun _ h => nomatch h
theorem illegalEnc (x : Nat) : Statement (.illegalEnc x) := fun _ h => nomatch h
theorem fetchFault (x : Nat) : Statement (.fetchFault x) := fun _ h => nomatch h
theorem rfwdSlotFree (die : Fin 4) (comm : BitVec 16) (key : W64) (n : Nat) : Statement (.rfwdSlotFree die comm key n) := fun _ h => nomatch h
theorem spareCombLightChange (p : Fin 16) (on : Bool) : Statement (.spareCombLightChange p on) := fun _ h => nomatch h

end Sys2Proof.Laws.Fits
end

