-- ==== Sys2Proof/Tests/Slice0.lean ====
section
/-! SUPPORT. Tests: words of the encoding tables, ill-formed terms, single steps on small states, and for each statement with
hypotheses a state and operands that meet them. -/

open Sys2Proof Sys2Proof.Machine Sys2Proof.Claims

namespace Sys2Proof.Tests

/-! ## Decoding: each constructor's word, from the encoding tables -/

/-- Words of the control rows, written out from the encoding tables (04 R69, R74, R77; 06 R118 to R129). -/
theorem test_reads_control1 :
    decodeTableWord 32 0x80000000 = some .nop ∧
    decodeTableWord 32 0x8C08FFF0 = some (.br .nz 3 (-16)) ∧
    decodeTableWord 32 0x8C70000E = some (.jmp 14) ∧
    decodeTableWord 32 0x8CB0001E = some (.call 30) ∧
    decodeTableWord 32 0x8CC1F000 = some (.jr 31) ∧
    decodeTableWord 32 0x8D01F000 = some (.callr 31) ∧
    decodeTableWord 32 0x8E0A0001 = some (.loop 5 1) ∧
    decodeTableWord 32 0x8E403003 = some (.loopi 3 3) ∧
    decodeTableWord 32 0x8E800000 = some .brkl ∧
    decodeTableWord 32 0x8ECA0000 = some (.lidx 5 0) ∧
    decodeTableWord 32 0x90100001 = some (.msave 8 .cm) ∧
    decodeTableWord 32 0x90408000 = some (.mrest .em 8) ∧
    decodeTableWord 32 0x90800000 = some (.mand .em .other) ∧
    decodeTableWord 32 0x90C09002 = some (.mor .em (.reg 9)) ∧
    decodeTableWord 32 0x91009003 = some (.mandn .cm (.reg 9)) ∧
    decodeTableWord 32 0x91404000 = some (.mset .em 4) ∧
    decodeTableWord 32 0x91800001 = some (.mcmv .cm) ∧
    decodeTableWord 32 0x91C60001 = some (.mpopc 3 .cm) ∧
    decodeTableWord 32 0x940E0001 = some (.rdsr 7 1) ∧
    decodeTableWord 32 0x94460060 = some (.wrsr 0x60 3) := by
  decide

/-- Words of the control rows, written out from the encoding tables (04 R69, R74, R77; 06 R118 to R129). -/
theorem test_reads_control2 :
    decodeTableWord 32 0x948B0009 = some (.ldc 5 .d 9) := by
  decide

/-- Words of the scalar rows, written out from the encoding tables (04 R76; 06 R113 to R117). -/
theorem test_reads_scalar1 :
    decodeTableWord 32 0x80445A00 = some (.add 2 5 20) ∧
    decodeTableWord 32 0x80865980 = some (.sub 3 5 19) ∧
    decodeTableWord 32 0x80C85900 = some (.and 4 5 18) ∧
    decodeTableWord 32 0x810A5880 = some (.or 5 5 17) ∧
    decodeTableWord 32 0x814C5800 = some (.xor 6 5 16) ∧
    decodeTableWord 32 0x818E5780 = some (.shl 7 5 15) ∧
    decodeTableWord 32 0x81D05700 = some (.shr 8 5 14) ∧
    decodeTableWord 32 0x82125680 = some (.sra 9 5 13) ∧
    decodeTableWord 32 0x82545600 = some (.mul 10 5 12) ∧
    decodeTableWord 32 0x82965580 = some (.mulhs 11 5 11) ∧
    decodeTableWord 32 0x82D85500 = some (.mulhu 12 5 10) ∧
    decodeTableWord 32 0x831A5480 = some (.min 13 5 9) ∧
    decodeTableWord 32 0x835C5400 = some (.max 14 5 8) ∧
    decodeTableWord 32 0x839E5380 = some (.minu 15 5 7) ∧
    decodeTableWord 32 0x83E05300 = some (.maxu 16 5 6) ∧
    decodeTableWord 32 0x84225280 = some (.seq 17 5 5) ∧
    decodeTableWord 32 0x84645200 = some (.slt 18 5 4) ∧
    decodeTableWord 32 0x84A65180 = some (.sltu 19 5 3) ∧
    decodeTableWord 32 0x84D2431E = some (.sel 9 4 6 30) ∧
    decodeTableWord 32 0x85124000 = some (.clz 9 4) := by
  decide

/-- Words of the scalar rows, written out from the encoding tables (04 R76; 06 R113 to R117). -/
theorem test_reads_scalar2 :
    decodeTableWord 32 0x857E7000 = some (.popc 31 7) ∧
    decodeTableWord 32 0x858A6307 = some (.extr 5 6 12 7) ∧
    decodeTableWord 32 0x85CA7307 = some (.insr 5 7 12 7) ∧
    decodeTableWord 32 0x86022180 = some (.addw 1 2 3) ∧
    decodeTableWord 32 0x880E6001 = some (.addi 7 6 1) ∧
    decodeTableWord 32 0x885DCFF0 = some (.andi 14 28 (-16)) ∧
    decodeTableWord 32 0x889DC7FF = some (.ori 14 28 2047) ∧
    decodeTableWord 32 0x88DDC800 = some (.xori 14 28 (-2048)) ∧
    decodeTableWord 32 0x891DC005 = some (.shli 14 28 5) ∧
    decodeTableWord 32 0x895DC03F = some (.shri 14 28 63) ∧
    decodeTableWord 32 0x899DC001 = some (.srai 14 28 1) ∧
    decodeTableWord 32 0x89DDCFFF = some (.slti 14 28 (-1)) ∧
    decodeTableWord 32 0x8A060005 = some (.lui 3 5) := by
  decide

/-- Words of the vector rows, written out from the encoding tables (04 R78, R80; 08 R160 to R177). -/
theorem test_reads_vector1 :
    decodeTableWord 32 0xA0024506 = some (.vaddI32 2 (.col 5) (.row 6)) ∧
    decodeTableWord 32 0xA07B0381 = some (.vsubI32 59 (.row 3) (.diag 1)) ∧
    decodeTableWord 32 0xA0BA0582 = some (.vmulI32 58 (.row 5) (.diag 2)) ∧
    decodeTableWord 32 0xA0F90783 = some (.vmulhI32 57 (.row 7) (.diag 3)) ∧
    decodeTableWord 32 0xA1380984 = some (.vaddI16 56 (.row 9) (.diag 4)) ∧
    decodeTableWord 32 0xA1770B85 = some (.vsubI16 55 (.row 11) (.diag 5)) ∧
    decodeTableWord 32 0xA1B60D86 = some (.vaddI8 54 (.row 13) (.diag 6)) ∧
    decodeTableWord 32 0xA1F50F87 = some (.vsubI8 53 (.row 15) (.diag 7)) ∧
    decodeTableWord 32 0xA2341188 = some (.vaddsI16 52 (.row 17) (.diag 8)) ∧
    decodeTableWord 32 0xA2731389 = some (.vsubsI16 51 (.row 19) (.diag 9)) ∧
    decodeTableWord 32 0xA2850607 = some (.vaddsI8 5 (.row 6) (.row 7)) ∧
    decodeTableWord 32 0xA2F1178B = some (.vsubsI8 49 (.row 23) (.diag 11)) ∧
    decodeTableWord 32 0xA330198C = some (.vminI32 48 (.row 25) (.diag 12)) ∧
    decodeTableWord 32 0xA36F1B8D = some (.vmaxI32 47 (.row 27) (.diag 13)) ∧
    decodeTableWord 32 0xA3AE1D8E = some (.vminuI32 46 (.row 29) (.diag 14)) ∧
    decodeTableWord 32 0xA3ED1F8F = some (.vmaxuI32 45 (.row 31) (.diag 15)) ∧
    decodeTableWord 32 0xA42C2190 = some (.vand 44 (.row 33) (.diag 16)) ∧
    decodeTableWord 32 0xA46B2391 = some (.vor 43 (.row 35) (.diag 17)) ∧
    decodeTableWord 32 0xA4AA2592 = some (.vxor 42 (.row 37) (.diag 18)) ∧
    decodeTableWord 64 (0xFA580000 + 2 ^ 32 * 0x24CA0203) = some (.vlut3 10 (.row 2) (.row 3) 0x96) := by
  decide

/-- Words of the vector rows, written out from the encoding tables (04 R78, R80; 08 R160 to R177). -/
theorem test_reads_vector2 :
    decodeTableWord 32 0xA50C0A0B = some (.vshl 12 (.row 10) (.row 11)) ∧
    decodeTableWord 32 0xA54C0A0B = some (.vshr 12 (.row 10) (.row 11)) ∧
    decodeTableWord 32 0xA58C0A0B = some (.vsra 12 (.row 10) (.row 11)) ∧
    decodeTableWord 64 (0xF8040000 + 2 ^ 32 * 0x25CB0B0B) = some (.vfshl 11 (.row 11) (.row 11) 1) ∧
    decodeTableWord 64 (0xF87C0000 + 2 ^ 32 * 0x260B0001) = some (.vfshr 11 (.row 0) (.row 1) 31) ∧
    decodeTableWord 32 0xA6400001 = some (.vcmpeqI32 (.row 0) (.row 1)) ∧
    decodeTableWord 32 0xA6800102 = some (.vcmpltI32 (.row 1) (.row 2)) ∧
    decodeTableWord 32 0xA6C00203 = some (.vcmpltuI32 (.row 2) (.row 3)) ∧
    decodeTableWord 32 0xA7000304 = some (.vcmpeqF32 (.row 3) (.row 4)) ∧
    decodeTableWord 32 0xA7400405 = some (.vcmpltF32 (.row 4) (.row 5)) ∧
    decodeTableWord 32 0xA7800506 = some (.vcmpleF32 (.row 5) (.row 6)) ∧
    decodeTableWord 32 0xA7C00607 = some (.vcmpunF32 (.row 6) (.row 7)) ∧
    decodeTableWord 32 0xA8080203 = some (.vsel 8 (.row 2) (.row 3)) ∧
    decodeTableWord 32 0xA8480203 = some (.vfaddF32 8 (.row 2) (.row 3)) ∧
    decodeTableWord 32 0xA8880203 = some (.vfsubF32 8 (.row 2) (.row 3)) ∧
    decodeTableWord 32 0xA8C80203 = some (.vfmulF32 8 (.row 2) (.row 3)) ∧
    decodeTableWord 32 0xA9080203 = some (.vfmaF32 8 (.row 2) (.row 3)) ∧
    decodeTableWord 32 0xA9480203 = some (.vfminF32 8 (.row 2) (.row 3)) ∧
    decodeTableWord 32 0xA9880203 = some (.vfmaxF32 8 (.row 2) (.row 3)) ∧
    decodeTableWord 32 0xAA3F3E7D = some (.vfaddBf16 63 (.row 62) (.col 61)) := by
  decide

/-- Words of the vector rows, written out from the encoding tables (04 R78, R80; 08 R160 to R177). -/
theorem test_reads_vector3 :
    decodeTableWord 32 0xAA7F3E7D = some (.vfmulBf16 63 (.row 62) (.col 61)) ∧
    decodeTableWord 32 0xAABF3E7D = some (.vfmaBf16 63 (.row 62) (.col 61)) ∧
    decodeTableWord 32 0xAAFF3E7D = some (.vfaddF16 63 (.row 62) (.col 61)) ∧
    decodeTableWord 32 0xAB3F3E7D = some (.vfmulF16 63 (.row 62) (.col 61)) ∧
    decodeTableWord 32 0xAB7F3E7D = some (.vfmaF16 63 (.row 62) (.col 61)) ∧
    decodeTableWord 32 0xAC040927 = some (.vcvt 4 (.row 9) .f32ToE4m3 1 false) ∧
    decodeTableWord 64 (0xF8080000 + 2 ^ 32 * 0x2C540607) = some (.vqnt .e2m1x 20 (.row 6) (.row 7)) ∧
    decodeTableWord 32 0xAC810203 = some (.vdqnt 1 (.row 2) (.row 3)) ∧
    decodeTableWord 32 0xACC10200 = some (.vbmax 1 (.row 2)) ∧
    decodeTableWord 32 0xAE0C0D00 = some (.vrcp 12 (.row 13) .f32) ∧
    decodeTableWord 32 0xAE4C0D01 = some (.vrsq 12 (.row 13) .bf16) ∧
    decodeTableWord 32 0xAE8C0D02 = some (.vsqrt 12 (.row 13) .f16) ∧
    decodeTableWord 32 0xAECC0D00 = some (.vexp2 12 (.row 13) .f32) ∧
    decodeTableWord 32 0xAF0C0D01 = some (.vlog2 12 (.row 13) .bf16) ∧
    decodeTableWord 32 0xAF4C0D02 = some (.vsinpi 12 (.row 13) .f16) ∧
    decodeTableWord 32 0xAF8C0D00 = some (.vcospi 12 (.row 13) .f32) ∧
    decodeTableWord 32 0xAFCC0D01 = some (.vtanh 12 (.row 13) .bf16) ∧
    decodeTableWord 32 0xB0010203 = some (.vperm 1 (.row 2) (.row 3)) ∧
    decodeTableWord 32 0xB0410018 = some (.vrot 1 (.row 0) 3) ∧
    decodeTableWord 32 0xB08200E8 = some (.vbcst .w 2 29) := by
  decide

/-- Words of the vector rows, written out from the encoding tables (04 R78, R80; 08 R160 to R177). -/
theorem test_reads_vector4 :
    decodeTableWord 32 0xB0DF0931 = some (.vext true 31 (.row 9) 6) ∧
    decodeTableWord 32 0xB1073F28 = some (.vins 7 5 63) ∧
    decodeTableWord 32 0xB1491001 = some (.vred .addF32 9 (.row 16)) ∧
    decodeTableWord 32 0xB1C60500 = some (.vclz 6 (.row 5)) ∧
    decodeTableWord 32 0xB2060001 = some (.viota true 6) ∧
    decodeTableWord 32 0xB2454500 = some (.vmov 5 (.col 5)) ∧
    decodeTableWord 32 0xB28506FF = some (.vaddiI32 5 (.row 6) 0xFF) ∧
    decodeTableWord 32 0xB2C50680 = some (.vandi 5 (.row 6) 0x80) ∧
    decodeTableWord 32 0xB305061F = some (.vshli 5 (.row 6) 31) ∧
    decodeTableWord 32 0xB345061F = some (.vshri 5 (.row 6) 31) ∧
    decodeTableWord 32 0xB385061F = some (.vsrai 5 (.row 6) 31) ∧
    decodeTableWord 32 0xB3C5007F = some (.vmovi 5 0x7F) ∧
    decodeTableWord 32 0xB1860500 = some (.vpopc 6 (.row 5)) := by
  decide

/-- Words of the memory rows, written out from the encoding tables (04 R78; 09 R202 to R206). -/
theorem test_reads_memory :
    decodeTableWord 32 0xC0041C04 = some (.ldv .waitClr 4 3 4) ∧
    decodeTableWord 32 0xC07FFB00 = some (.stv .full 63 31 (-256)) ∧
    decodeTableWord 32 0xC09A0900 = some (.ldsD .waitClr 13 0 0x100) ∧
    decodeTableWord 32 0xC0D02600 = some (.ldsW .wait 8 2 (-512)) ∧
    decodeTableWord 32 0xC1102200 = some (.ldsWu .plain 8 2 (-512)) ∧
    decodeTableWord 32 0xC1502200 = some (.ldsH .plain 8 2 (-512)) ∧
    decodeTableWord 32 0xC1902200 = some (.ldsB .plain 8 2 (-512)) ∧
    decodeTableWord 32 0xC2160008 = some (.stsD .plain 11 0 8) ∧
    decodeTableWord 32 0xC24E240C = some (.stsW .full 7 2 12) ∧
    decodeTableWord 32 0xC28E2802 = some (.stsH .empty 7 2 2) ∧
    decodeTableWord 32 0xC2CE2001 = some (.stsB .plain 7 2 1) ∧
    decodeTableWord 32 0xC4092140 = some (.ldvg 9 4 10) ∧
    decodeTableWord 32 0xC44927C0 = some (.stvs 9 4 62) ∧
    decodeTableWord 32 0xC6002010 = some (.feset 2 16) ∧
    decodeTableWord 32 0xC64023F0 = some (.feclr 2 (-16)) ∧
    decodeTableWord 32 0xC6902000 = some (.fetest 8 2 0) ∧
    decodeTableWord 32 0xC80A6828 = some (.ldgD true 5 6 40) ∧
    decodeTableWord 32 0xC84A67FC = some (.ldgW false 5 6 (-4)) ∧
    decodeTableWord 32 0xC881F000 = some (.ldgv false 1 30 0) := by
  decide

/-- Words of the engine rows, written out from the encoding tables (04 R80; 11 R241, R254, R255, R261). -/
theorem test_reads_engine :
    decodeTableWord 64 (0xFB000000 + 2 ^ 32 * 0x60085304) = some (.cpy ⟨false, true, .device, false, 0⟩ 4 5 6 (some 4)) ∧
    decodeTableWord 32 0xE048537F = some (.cpys ⟨false, false, .ctx, false, 0⟩ 4 5 6 none) ∧
    decodeTableWord 32 0xE088035F = some (.cpyz ⟨false, false, .ctx, false, 0⟩ 4 6 (some 95)) ∧
    decodeTableWord 32 0xE0DCF8FF = some (.cpyaAddi32 ⟨false, false, .ctx, false, 0⟩ 14 15 17 none) ∧
    decodeTableWord 32 0xE11CF8FF = some (.cpyaAddi64 ⟨false, false, .ctx, false, 0⟩ 14 15 17 none) ∧
    decodeTableWord 64 (0xF8040000 + 2 ^ 32 * 0x61509506) = some (.cpyaAddf ⟨false, false, .ctx, false, 1⟩ 8 9 10 (some 6)) ∧
    decodeTableWord 64 (0xFCF00000 + 2 ^ 32 * 0x619CF8FF) = some (.cpyaMin ⟨true, false, .die, true, 4⟩ 14 15 17 none) ∧
    decodeTableWord 64 (0xFCEC0000 + 2 ^ 32 * 0x61DCF8FF) = some (.cpyaMax ⟨true, false, .die, true, 3⟩ 14 15 17 none) ∧
    decodeTableWord 64 (0xFCE40000 + 2 ^ 32 * 0x621CF8FF) = some (.cpyaOr ⟨true, false, .die, true, 1⟩ 14 15 17 none) ∧
    decodeTableWord 64 (0xFCE40000 + 2 ^ 32 * 0x625CF8FF) = some (.cpyaAnd ⟨true, false, .die, true, 1⟩ 14 15 17 none) ∧
    decodeTableWord 64 (0xFCE00000 + 2 ^ 32 * 0x629CF8FF) = some (.cpyaXor ⟨true, false, .die, true, 0⟩ 14 15 17 none) ∧
    decodeTableWord 64 (0xF8040000 + 2 ^ 32 * 0x62F165FF) = some (.fopAdd ⟨false, false, .ctx, false, 1⟩ 24 22 11 none) ∧
    decodeTableWord 32 0xE3064287 = some (.fopBadd ⟨false, false, .ctx, false, 0⟩ 3 4 5 (some 7)) ∧
    decodeTableWord 64 (0xF8040000 + 2 ^ 32 * 0x636179FF) = some (.fopSwap ⟨false, false, .ctx, false, 1⟩ 16 23 19 none) ∧
    decodeTableWord 32 0xE3864007 = some (.fopCas ⟨false, false, .ctx, false, 0⟩ 3 4 (some 7)) ∧
    decodeTableWord 32 0xE3C004FF = some (.cpyq 9) := by
  decide

/-- Words of the matrix rows, written out from the encoding tables (10 R228). -/
theorem test_reads_matrix :
    decodeTableWord 32 0xE414B07F = some (.mxcfg 0 10 11) ∧
    decodeTableWord 32 0xE4400003 = some (.mxgo (some 3)) ∧
    decodeTableWord 32 0xE480007F = some (.mxwait 0) ∧
    decodeTableWord 32 0xE4C0007F = some .mxlease ∧
    decodeTableWord 32 0xE4C000FF = some .mxleaseJoin ∧
    decodeTableWord 32 0xE500007F = some .mxfree ∧
    decodeTableWord 32 0xE50000FF = some .mxfreeJoin ∧
    decodeTableWord 32 0xE500017F = some .mxfreeClaim ∧
    decodeTableWord 32 0xE5485089 = some (.mxld 4 5 true (some 9)) ∧
    decodeTableWord 32 0xE588507F = some (.mxst 4 5 false none) ∧
    decodeTableWord 32 0xE5C050FF = some (.mxz 5 true none) ∧
    decodeTableWord 32 0xE608737F = some (.ringset 7 4 6) ∧
    decodeTableWord 32 0xE648207F = some (.ringpush 2 4) ∧
    decodeTableWord 32 0xE68024FF = some (.ringstat 9 2) ∧
    decodeTableWord 32 0xE6C8537F = some (.sctab 4 5 6) ∧
    decodeTableWord 32 0xE708007F = some (.scinv 4) ∧
    decodeTableWord 32 0xE74004FF = some (.mxstat 9) := by
  decide

/-- Words of the phaser rows, written out from the encoding tables (12 R272). -/
theorem test_reads_phaser :
    decodeTableWord 32 0xE8040187 = some (.phbind 3 2 7) ∧
    decodeTableWord 32 0xE8400187 = some (.phreg .sigwait 7) ∧
    decodeTableWord 32 0xE8800007 = some (.phdrop 7) ∧
    decodeTableWord 32 0xE8C00205 = some (.phsig .device 5) ∧
    decodeTableWord 32 0xE9000205 = some (.phwait .device 5) ∧
    decodeTableWord 32 0xE9400107 = some (.phnext .group 7) ∧
    decodeTableWord 32 0xE98C0004 = some (.phadd .ctx 4 6) ∧
    decodeTableWord 32 0xE9C00485 = some (.phtest 9 5) := by
  decide

/-- Words of the fabric rows, written out from the encoding tables (13 R323; 15 R351). -/
theorem test_reads_fabric :
    decodeTableWord 32 0xEC085506 = some (.bwreq 10 4 5 (some 6)) ∧
    decodeTableWord 32 0xEC540006 = some (.bwrel 10 (some 6)) ∧
    decodeTableWord 32 0xEC9405FF = some (.bwqry 11 10) ∧
    decodeTableWord 32 0xECC43208 = some (.puts ⟨false, false, .ctx, false, 0⟩ 2 3 4 (some 8)) ∧
    decodeTableWord 32 0xED04707F = some (.rels 2 7) ∧
    decodeTableWord 32 0xED44048A = some (.lrset 9 2 (some 10)) ∧
    decodeTableWord 32 0xED82067F = some (.fabst 12 1) ∧
    decodeTableWord 32 0xEE04048C = some (.coll 9 2 12) ∧
    decodeTableWord 32 0xEE5205FF = some (.collq 11 9) := by
  decide

/-- Words of the system rows, written out from the encoding tables (04 R86; 05 R109; 06 R131, R132; 16 R359, R373). -/
theorem test_reads_system :
    decodeTableWord 32 0xEF00007F = some .decpl ∧
    decodeTableWord 32 0xEF40007F = some .rejn ∧
    decodeTableWord 32 0xF000087F = some (.fence .device) ∧
    decodeTableWord 32 0xF048587F = some (.icinv .device 4 5) ∧
    decodeTableWord 32 0xF080007F = some .fetchb ∧
    decodeTableWord 32 0xF0C8557F = some (.launch 10 4 5) ∧
    decodeTableWord 32 0xF100007F = some .halt ∧
    decodeTableWord 32 0xF14A007F = some (.trap 5) ∧
    decodeTableWord 32 0xF180007F = some .eret ∧
    decodeTableWord 32 0xF1C434FF = some (.smc 9 2 3) ∧
    decodeTableWord 32 0xF200007F = some .brk ∧
    decodeTableWord 32 0xF2440485 = some (.waitev 9 2 (some 5)) ∧
    decodeTableWord 32 0xF288587F = some (.tlbinv .device 4 5) ∧
    decodeTableWord 32 0xF300007F = some .yield ∧
    decodeTableWord 32 0xF3485509 = some (.ctxctlHalt 10 4 5 (some 9)) ∧
    decodeTableWord 32 0xF388557F = some (.wstat 10 4 5) := by
  decide

/-! ## Ill-formed terms, one for each check of well-formedness -/

/-- A field that leaves the register; immediates past their field and its lend; shift amounts past 63. -/
theorem test_wf_scalar :
    (Instr.extr 0 0 63 1).wf = false ∧ (Instr.insr 0 0 1 63).wf = false ∧ (Instr.addi 1 1 1048576).wf = false ∧
    (Instr.andi 1 1 (-1050625)).wf = false ∧ (Instr.ori 1 1 1048576).wf = false ∧ (Instr.xori 1 1 1050624).wf = false ∧
    (Instr.shli 1 1 64).wf = false ∧ (Instr.shri 1 1 (-1)).wf = false ∧ (Instr.srai 1 1 64).wf = false ∧
    (Instr.slti 1 1 1050624).wf = false ∧ (Instr.lui 1 1050624).wf = false := by decide

/-- Offsets of transfers past their field; a register of BR's always condition; ends of loops; indices outside the special register map,
read-only indices; LDC offsets. -/
theorem test_wf_control :
    (Instr.br .z 1 4202496).wf = false ∧ (Instr.br .always 1 0).wf = false ∧ (Instr.jmp 4202496).wf = false ∧
    (Instr.call (-4202497)).wf = false ∧ (Instr.loop 1 2097152).wf = false ∧ (Instr.loopi 1 2097152).wf = false ∧
    (Instr.rdsr 1 5).wf = false ∧ (Instr.wrsr 0x041 1).wf = false ∧ (Instr.ldc 1 .w 1050624).wf = false := by decide

/-- A part that the code has not; a rounding mode for a widening conversion. -/
theorem test_wf_convert :
    (Instr.vcvt 1 (.row 1) .f32ToI32 1 false).wf = false ∧ (Instr.vcvt 1 (.row 1) .f32ToBf16 2 false).wf = false ∧
    (Instr.vcvt 1 (.row 1) .bf16ToF32 0 true).wf = false := by decide

/-- Offsets of scratchpad and global accesses past their field and its lend. -/
theorem test_wf_memory :
    (Instr.ldv .plain 1 1 131328).wf = false ∧ (Instr.stv .plain 1 1 131328).wf = false ∧ (Instr.ldsD .plain 1 1 262656).wf = false ∧
    (Instr.ldsW .plain 1 1 262656).wf = false ∧ (Instr.ldsWu .plain 1 1 262656).wf = false ∧ (Instr.ldsH .plain 1 1 262656).wf = false ∧
    (Instr.ldsB .plain 1 1 262656).wf = false ∧ (Instr.stsD .plain 1 1 262656).wf = false ∧ (Instr.stsW .plain 1 1 262656).wf = false ∧
    (Instr.stsH .plain 1 1 262656).wf = false ∧ (Instr.stsB .plain 1 1 262656).wf = false ∧ (Instr.feset 1 262656).wf = false ∧
    (Instr.feclr 1 262656).wf = false ∧ (Instr.fetest 1 1 262656).wf = false ∧ (Instr.ldgD false 1 1 525312).wf = false ∧
    (Instr.ldgW false 1 1 525312).wf = false ∧ (Instr.ldgv false 1 1 262656).wf = false := by decide

/-- A lend with operation bits `x`, and one that names a scope without ACQ and REL. -/
def lendOf (x : Fin 8) : CopyLend := ⟨false, false, .ctx, false, x⟩
def lendScope : CopyLend := ⟨false, false, .pod, false, 0⟩

/-- Operation bits and scopes of copy-class words, and POD on an invalidation. -/
theorem test_wf_engine :
    (Instr.cpy (lendOf 1) 1 2 3 none).wf = false ∧ (Instr.cpys (lendOf 1) 1 2 3 none).wf = false ∧ (Instr.cpyz (lendOf 1) 1 3 none).wf = false ∧
    (Instr.cpyaAddi32 (lendOf 1) 1 2 3 none).wf = false ∧ (Instr.cpyaAddi64 (lendOf 1) 1 2 3 none).wf = false ∧
    (Instr.cpyaAddf (lendOf 4) 1 2 3 none).wf = false ∧ (Instr.cpyaMin (lendOf 5) 1 2 3 none).wf = false ∧
    (Instr.cpyaMax (lendOf 5) 1 2 3 none).wf = false ∧ (Instr.cpyaOr (lendOf 2) 1 2 3 none).wf = false ∧
    (Instr.cpyaAnd (lendOf 2) 1 2 3 none).wf = false ∧ (Instr.cpyaXor (lendOf 2) 1 2 3 none).wf = false ∧
    (Instr.fopAdd (lendOf 2) 1 2 3 none).wf = false ∧ (Instr.fopBadd (lendOf 1) 1 2 3 none).wf = false ∧
    (Instr.fopSwap (lendOf 2) 1 2 3 none).wf = false ∧ (Instr.fopCas (lendOf 2) 1 2 none).wf = false ∧
    (Instr.puts (lendOf 1) 1 2 3 none).wf = false ∧ (Instr.cpy lendScope 1 2 3 none).wf = false ∧
    (Instr.icinv .pod 1 2).wf = false ∧ (Instr.tlbinv .pod 1 2).wf = false := by decide

/-! ## A small state: context 0 of core 0 runs a kernel of its own -/

def ctx0 : Ctx :=
  { Ctx.init with occ := some ⟨1, 0, .running⟩, spsize := 65536, pc := 0x100, bsucc := 0x104, tvec := 0x4000 }

def kernel1 : Kernel := { Kernel.new KRec.plain 0 0 with st := .placed, ctxs := [0] }

def run : State := { State.reset with ctxs := [(0, ctx0)], kernels := [(1, some kernel1)] }

def onCtx (f : Ctx → Ctx) : State := run.upCtx 0 f

/-- The state with these scalar registers. -/
def regs (l : List (Nat × W64)) : State := onCtx fun c => { c with s := l.foldl (fun v e => v.set! e.1 e.2) c.s }

/-- The state with these rows, each of one lane value. -/
def rows (l : List (Nat × W32)) : State := onCtx fun c => { c with v := l.foldl (fun v e => v.set! e.1 (Vector.replicate 64 e.2)) c.v }

/-- The next state, or the state itself where there is none. -/
def after (i : Instr) (s : State) : State := match exec i s with | .next t => t | _ => s

/-- What the newest result in flight is of a scalar register, and lane 0 of a row, with the flags and the cycles left. -/
def newest (s : State) : Option (W64 × W32 × Flags × Nat) :=
  s.me.flight.getLast?.map fun f => match f.val with | .s _ x => (x, 0, f.flags, f.left) | .v _ r => (0, r[0], f.flags, f.left) | .cm x => (x, 0, f.flags, f.left)

/-! ## Single steps; what is expected is worked out by hand from the rules named -/

/-- 06 R113: the shift amount is taken modulo 64; SRA copies the sign. -/
theorem test_sra : (after (.sra 3 1 2) (regs [(1, 0x8000000000000000), (2, 65)])).me.s[3] = 0xC000000000000000 := by decide

/-- 05 R97: s0 reads zero and discards what is written. -/
theorem test_add_s0 : (after (.add 0 1 1) (regs [(1, 5)])).me.s[0] = 0 ∧ (after (.add 3 0 1) (regs [(1, 5)])).me.s[3] = 5 := by decide

/-- 06 R113: a sum wraps; ADDW sign-extends bit 31. -/
theorem test_add_wraps : (after (.add 3 1 2) (regs [(1, BitVec.allOnes 64), (2, 2)])).me.s[3] = 1 ∧
    (after (.addw 3 1 2) (regs [(1, 0x7FFFFFFF), (2, 1)])).me.s[3] = 0xFFFFFFFF80000000 := by decide

/-- 06 R114: the high half of (−1) × 2 is −1, signed, and 1, unsigned; bound 4. -/
theorem test_mulh : newest (after (.mulhs 3 1 2) (regs [(1, BitVec.allOnes 64), (2, 2)])) = some (BitVec.allOnes 64, 0, 0, 3) ∧
    newest (after (.mulhu 3 1 2) (regs [(1, BitVec.allOnes 64), (2, 2)])) = some (1, 0, 0, 3) := by decide

/-- 06 R115, R116: CLZ of zero is 64; EXTR of the top byte; INSR keeps the bits around its field. -/
theorem test_fields : (after (.clz 3 1) (regs [])).me.s[3] = 64 ∧
    (after (.extr 3 1 56 7) (regs [(1, 0xAB00000000000000)])).me.s[3] = 0xAB ∧
    (after (.insr 3 1 4 3) (regs [(1, 0x1F), (3, 0xFFFF)])).me.s[3] = 0xFFFF ∧
    (after (.insr 3 1 4 3) (regs [(1, 0), (3, 0xFFFF)])).me.s[3] = 0xFF0F := by decide

/-- 06 R117: an immediate is sign-extended; LUI shifts it by 12. -/
theorem test_immediates : (after (.addi 3 1 (-1)) (regs [(1, 0)])).me.s[3] = BitVec.allOnes 64 ∧
    (after (.lui 3 (-1)) (regs [])).me.s[3] = 0xFFFFFFFFFFFFF000 ∧ (after (.slti 3 1 (-1)) (regs [(1, 0)])).me.s[3] = 0 := by decide

/-- 06 R127: MSET of 3 enables lanes 0 to 2; of a number past 64, all. -/
theorem test_mset : (after (.mset .em 1) (regs [(1, 3)])).me.em = 7 ∧ (after (.mset .cm 1) (regs [(1, 1000)])).me.cm = BitVec.allOnes 64 ∧
    (after (.mset .em 1) (regs [(1, BitVec.allOnes 64)])).me.em = 0 := by decide

/-- 06 R129: PSLACK saturates at 16,384; a reserved RMODE becomes 0; TVEC drops its two low bits. -/
theorem test_wrsr : (after (.wrsr 0x060 1) (regs [(1, 20000)])).me.pslack = 16384 ∧ (after (.wrsr 0x011 1) (regs [(1, 5)])).me.rmode = 0 ∧
    (after (.wrsr 0x040 1) (regs [(1, 0x4003)])).me.tvec = 0x4000 := by decide

/-- 16 R357: TRAP saves cause 17, the successor and its operand, and goes to TVEC. -/
theorem test_trap : let t := after (.trap 1) (regs [(1, 77)])
    t.me.pc = 0x4000 ∧ t.me.tpc = 0x104 ∧ t.me.tinfo = 77 ∧ t.me.tcause = 17 ∧ t.me.hnd = true := by decide

/-- 06 R125: a loop below one that is left; BRKL without a loop traps with cause LOOP_UNDERFLOW (5). -/
theorem test_loop : (after (.loopi 3 8) run).me.loops = [⟨3, 0x104, 0x120⟩] ∧ (after .brkl run).me.tcause = 5 ∧
    (after .brkl run).me.pc = 0x4000 := by decide

/-- 08 R161, R162: lanes wrap; a saturating sum clamps and raises OV; a shift takes its amount modulo 32. -/
theorem test_lanes : newest (after (.vaddI32 3 (.row 1) (.row 2)) (rows [(1, 0xFFFFFFFF), (2, 3)])) = some (0, 2, 0, 1) ∧
    newest (after (.vaddsI16 3 (.row 1) (.row 2)) (rows [(1, 0x7FFF8000), (2, 0x0001FFFF)])) = some (0, 0x7FFF8000, fOV, 1) ∧
    newest (after (.vsra 3 (.row 1) (.row 2)) (rows [(1, 0x80000000), (2, 33)])) = some (0, 0xC0000000, 0, 1) := by decide

set_option maxRecDepth 20000 in
/-- 07 R141: 1 + 2^−24 in FP32 rounds to even, inexact; 08 R165: bound 4. -/
theorem test_vfadd : newest (after (.vfaddF32 3 (.row 1) (.row 2)) (rows [(1, 0x3F800000), (2, 0x33800000)])) = some (0, 0x3F800000, fIX, 3) := by decide

set_option maxRecDepth 20000 in
/-- 08 R172: √4 = 2, 1 ÷ 4 = 0.25; bound 12. -/
theorem test_special : newest (after (.vsqrt 3 (.row 1) .f32) (rows [(1, 0x40800000)])) = some (0, 0x40000000, 0, 11) ∧
    newest (after (.vrcp 3 (.row 1) .f32) (rows [(1, 0x40800000)])) = some (0, 0x3E800000, 0, 11) := by decide

set_option maxRecDepth 20000 in
/-- 08 R164: a compare writes CM for the enabled lanes. -/
theorem test_compare : (newest (after (.vcmpltI32 (.row 1) (.row 2)) (rows [(1, 0xFFFFFFFF), (2, 0)]))).map (·.1) = some (BitVec.allOnes 64) := by decide

set_option maxRecDepth 20000 in
/-- 08 R175: the sum of 64 ones. -/
theorem test_vred : newest (after (.vred .addI32 3 (.row 1)) (rows [(1, 1)])) = some (64, 0, 0, 5) := by decide

/-- 09 R203: a stored word is little-endian; LDS.H reads two bytes unsigned, LDS.W sign-extends. -/
theorem test_scratchpad : let s := after (.stsW .plain 2 0 8) (regs [(2, 0xFFFFFFFF80018283)])
    (s.spByte 0 8, s.spByte 0 11) = (0x83, 0x80) ∧ newest (after (.ldsH .plain 3 0 8) s) = some (0x8283, 0, 0, 7) ∧
    newest (after (.ldsW .plain 3 0 8) s) = some (0xFFFFFFFF80018283, 0, 0, 7) := by decide

/-- 09 R181: alignment is checked before the range; cause ALIGN is 6. -/
theorem test_align : (after (.ldsD .plain 3 1 0) (regs [(1, 0x10001)])).me.tinfo = 0x10001 ∧ (after (.ldsD .plain 3 1 0) (regs [(1, 0x10001)])).me.tcause = 6 := by decide

/-- 09 R205: FESET sets the bit of its granule, and FETEST reads it at bit 0. -/
theorem test_full_empty : newest (after (.fetest 3 0 20) (after (.feset 0 16) run)) = some (1, 0, 0, 7) := by decide

set_option maxRecDepth 20000 in
/-- 11 R242: a copy enters its queue; CPYQ counts it. -/
theorem test_copy : let s := after (.cpy (lendOf 0) 1 2 3 none) (regs [(1, 2 ^ 62), (2, 2 ^ 62 + 256), (3, 256)])
    (s.core 0).copies.map (fun c => (c.op, c.len, c.ctx)) = [(0, 256, 0)] := by decide

/-- 10 R229: MXCFG writes a pair of the shadow set. -/
theorem test_mxcfg : (after (.mxcfg 3 1 2) (regs [(1, 5), (2, 6)])).me.mxc[6] = 5 ∧ (after (.mxcfg 3 1 2) (regs [(1, 5), (2, 6)])).me.mxc[7] = 6 := by decide

/-- 10 R233: MXZ takes the tile claim. -/
theorem test_mxz : ((after (.mxz 1 false none) (regs [(1, 0)])).core 0).claim = some 0 := by decide

/-- 12 R273: an object outside the queue's window is not bound. -/
theorem test_phbind : (after (.phbind 3 1 0) (regs [(1, 16383)])).me.pends.map (·.what) = [.ans (BitVec.allOnes 64)] := by decide

/-- 06 R133: a queue of 64 and above does not exist. -/
theorem test_launch : (after (.launch 3 1 2) (regs [(1, 64)])).me.pends.map (·.what) = [.ans (BitVec.ofInt 64 (-4))] := by decide

/-- 16 R371: a Sidereal count of 1 has not come at reset, and the context waits. -/
theorem test_waitev : ((after (.waitev 3 1 none) (regs [(1, 1)])).me.wait).map (·.kind) = some 13 := by decide

/-- 13 R326: FABST with no fabric reads zero. -/
theorem test_fabst : (after (.fabst 3 0) run).me.pends.map (·.what) = [.ans 0] := by decide

/-- 03 R45: a tail past the queue's size is refused with ERR bit 2. -/
theorem test_qtail : ((after (.qtailWrite ⟨0, false⟩ 17) State.reset).queue 0).err = 4 ∧ ((after (.qtailWrite ⟨0, false⟩ 16) State.reset).queue 0).tail = 16 := by decide

/-- 17 R381: SYSMODE keeps its five bits. -/
theorem test_sysmode : (after (.registerWrite ⟨0x170000, false⟩ 4 0x2A) State.reset).sys.sysmode = 0x0A := by decide

set_option maxRecDepth 100000 in
/-- 17 R391: the first lane of Keccak-f[1600] of the zero state, from the known-answer file of its authors. -/
theorem test_keccak : (keccakF (List.replicate 25 0)).head? = some 0xF1258F7940E1DDE7 := by decide

/-! ## Witnesses: for each statement, a state and operands that meet its hypotheses, clause by clause -/

theorem test_w_scalarAlu : Still run 0 ∧ Still run 31 := by unfold Still; decide

theorem test_w_scalarField : Still run 1 ∧ (63 : Fin 64).val + (0 : Fin 64).val < 64 ∧ (0 : Fin 64).val + (63 : Fin 64).val < 64 ∧
    (63 : Nat) < 64 ∧ (0 : Nat) < 64 := by unfold Still; decide

/-- No result is in flight in `run`. -/
theorem test_w_rows : StillRows run ∧ NoCompare run := ⟨fun _ h => (nomatch h), fun _ h => (nomatch h)⟩

theorem test_w_mask : Still run 1 ∧ NoCompare run := ⟨rfl, test_w_rows.2⟩

theorem test_w_specialRegisters : Still run 1 ∧ run.me.gmode ≠ 2 ∧ run.me.wait = none ∧ (5 : Nat) < 6 ∧ (2 : Nat) < 3 := by unfold Still; decide

/-- A program whose first packet is `ws`, right after reset. -/
def placed (ws : List Nat) : State := State.reset.withCode ws

/-- A pool packet of two words, and a packet of NOPs. -/
def pool : State := placed [0xF2C00002, 7, 8]
def nops : State := placed (List.replicate 8 0x80000000)

/-- The placed program's first line, poisoned by unit 3. -/
def poisoned : State := { nops with lines := [(lineOf 0x40000000, { LineRec.init with poison := some 3 })] }

theorem test_w_loadConstant_pool : (4 : W64).toNat < 2 ^ 48 ∧ (pool.fetchPacket 0 0).2 = .ok [0xF2C00002, 7, 8, 0, 0, 0, 0, 0] ∧
    0xF2C00002 / 2 ^ 22 = 0x3CB ∧ 0xF2C00002 / 2 ^ 21 % 2 = 0 ∧ 0xF2C00002 / 8 % 2 ^ 17 = 0 ∧ 1 + 2 - 1 ≤ 0xF2C00002 % 8 := by decide

theorem test_w_loadConstant_traps : (nops.fetchPacket 0 0).2 = .ok (List.replicate 8 0x80000000) ∧ 0x80000000 / 2 ^ 22 ≠ 0x3CB ∧
    0xF2C00002 % 8 < 3 := by decide

/-- LDC: an address past 2^48, a page that is not mapped, with and without the host's help, a poisoned line, a header with bit 21 set, and a
bundle of one S word that lends nothing. -/
theorem test_w_loadConstant_faults : 2 ^ 48 ≤ (0x1000000000000 : W64).toNat ∧ (run.fetchPacket 0 0x100).2 = .fault xNomap ∧ run.hostPf = false ∧
    ({ run with sys := { run.sys with sysmode := 1 } } : State).hostPf = true ∧ (poisoned.fetchPacket 0 0).2 = .poison 3 ∧
    0xF2E00002 / 2 ^ 21 % 2 = 1 ∧ 0x948B0009 / 2 ^ 29 % 4 = 0 ∧ 0x948B0009 / 2 ^ 27 % 16 ≠ 15 := by decide

/-- Transfers: to no word's address, past 2^48, to word 4 of a packet of NOPs, into a pool packet, to a word that begins no bundle, and to a
page that is not mapped; a poisoned line. -/
theorem test_w_takes : (2 : W64).toNat % 4 ≠ 0 ∧ 2 ^ 48 ≤ (0x1000000000000 : W64).toNat ∧
    fetchedAt nops nops.me.fbuf 16 = .ok (List.replicate 8 0x80000000) ∧ isPool (List.replicate 8 0x80000000) = false ∧
    bBit ((List.replicate 8 0x80000000 : List W32).getD (16 % 32 / 4) 0) = true ∧
    fetchedAt pool [] 0 = .ok [0xF2C00002, 7, 8, 0, 0, 0, 0, 0] ∧ isPool [0xF2C00002, 7, 8, 0, 0, 0, 0, 0] = true ∧
    fetchedAt (placed [0]) [] 0 = .ok (List.replicate 8 0) ∧ bBit 0 = false ∧ fetchedAt run [] 0x100 = .fault xNomap ∧ run.hostPf = false ∧
    fetchedAt poisoned [] 0 = .poison 3 := by decide

theorem test_w_transfer : Still nops 1 ∧ (nops.me.rd 1 = 0) ∧ ¬ (nops.me.rd 1 ≠ 0) ∧
    nops.me.pc.setWidth 64 + BitVec.ofInt 64 (4 * 4) = 16 ∧ (regs [(1, 16)]).me.rd 1 = 16 := by unfold Still; decide

/-- `n` entries on the loop stack, the innermost of which ends at the pc. -/
def loops (n : Nat) : State := onCtx fun c => { c with loops := List.replicate n ⟨2, 0x100, 0x100⟩ }

theorem test_w_loops : (loops 5).me.loops.length < 6 ∧ 6 ≤ (loops 6).me.loops.length ∧ (loops 0).me.loops = [] ∧
    (loops 6).me.loops[5]? = some ⟨2, 0x100, 0x100⟩ ∧ (loops 5).me.loops.length ≤ (5 : Fin 6).val ∧
    (0 < ((regs [(1, 1)]).me.rd 1).toInt ∧ ((regs [(1, 1)]).me.rd 1).toInt < 2 ^ 32) ∧ (1023 : Fin 1024).val ≠ 0 ∧
    ((regs []).me.rd 1).toInt ≤ 0 ∧ 2 ^ 32 ≤ ((regs [(1, 0x100000000)]).me.rd 1).toInt ∧
    ((regs [(1, 0xFFFFFFFF)]).me.rd 1).toInt < 2 ^ 32 := by decide

/-- The bundle at address 0 of the packet of NOPs is followed by address 4; no loop ends at it. -/
theorem test_w_follows : Follows nops 0 4 ∧ ∀ o ∈ nops.me.loops.head?, o.fin ≠ 0 :=
  ⟨⟨List.replicate 8 0x80000000, by decide, by decide, by decide⟩, fun o h => nomatch h⟩

theorem test_w_endOf : ctx0.loops = [] ∧ (loops 1).me.loops = [⟨2, 0x100, 0x100⟩] ∧ (0x100 : Addr) = (loops 1).me.pc ∧
    1 < (2 : W32).toNat ∧ (1 : W32).toNat ≤ 1 ∧ (0x104 : Addr) ≠ (loops 1).me.pc := by decide

/-- A recorded engine fault of a context. -/
def bad : FaultRec := ⟨.engineFault, 5, 0⟩

theorem test_w_halt : run.me.frec = none ∧ (onCtx fun c => { c with frec := some bad }).me.frec = some bad := by decide

theorem test_w_trap : Still run 1 ∧ run.me.tvec ≠ 0 ∧ run.me.hnd = false ∧ run.me.gmode = 0 := by unfold Still; decide

theorem test_w_trapEntry : (causeFielded .align = true ∧ (run.ctx 0).tvec ≠ 0 ∧ (run.ctx 0).hnd = false) ∧
    causeFielded .poison = false ∧ (run.ctx 0).occ = some ⟨1, 0, .running⟩ ∧ run.kernel 1 = some kernel1 ∧ kernel1.st ≠ .killing ∧
    0 ∈ kernel1.ctxs := by decide

theorem test_w_vectorLane : StillRows run ∧ Still run 1 ∧ NoCompare run := ⟨test_w_rows.1, rfl, test_w_rows.2⟩

theorem test_w_vectorReduce : StillRows run ∧ (RedOp.addF32 = .addF32 ∨ RedOp.addF32 = .minF32 ∨ RedOp.addF32 = .maxF32) :=
  ⟨test_w_rows.1, .inl rfl⟩

/-- A format code that there is and one that there is not; a lane of VQNT of which only the first element is enabled. -/
theorem test_w_convert : qfmtOf ((0x10000 : Nat) / 65536 % 8) ≠ none ∧ qfmtOf ((0x70000 : Nat) / 65536 % 8) = none ∧
    (onCtx fun c => { c with em := 1 }).me.em.getLsbD 0 = true ∧ (onCtx fun c => { c with em := 1 }).me.em.getLsbD 1 = false ∧
    1 / (32 / QFmt.bits .e2m1x) = 0 := by decide

/-! ### Scratchpad -/

set_option maxRecDepth 20000 in
theorem test_w_scratchpad : SpOk run 65528 8 8 ∧ SpOk run 65280 256 16 ∧ SpOk run 65535 1 1 ∧ NoPoison run 65528 8 ∧ NoPoison run 65280 256 ∧
    FullFor run .plain 65280 16 := by
  refine ⟨?_, ?_, ?_, ?_, ?_, .inl rfl⟩ <;> first | (unfold SpOk; decide) | (unfold NoPoison; decide)

/-- The state whose last granule of the partition, and whose first, is full. -/
def full : State := run.upCore 0 fun k => { k with fe := (List.range 16).foldl (fun m g => m.put g true) [] }

theorem test_w_full : FullFor full .waitClr 0 16 ∧ SpOk full 0 256 16 := by
  refine ⟨.inr ?_, by unfold SpOk; decide⟩
  decide

theorem test_w_gather : (∀ k : Fin 64, run.me.em.getLsbD k = true → SpOk run (run.me.rd 1 + (run.me.v[(0 : Fin 64)][k]).setWidth 64) 4 4 ∧
    NoPoison run (run.me.rd 1 + (run.me.v[(0 : Fin 64)][k]).setWidth 64).toNat 4) := by
  unfold SpOk NoPoison; decide

theorem test_w_stores : Still run 1 ∧ Still run 2 ∧ StillRows run ∧ pinsOf run.me.mxq = [] ∧ SpOk run 65528 8 8 :=
  ⟨rfl, rfl, test_w_rows.1, rfl, test_w_scratchpad.1⟩

theorem test_w_scratchpadFaults : (65529 : W64).toNat % 8 ≠ 0 ∧ (65536 : W64).toNat % 8 = 0 ∧ run.me.spsize < (65536 : W64).toNat + 8 ∧
    run.me.spsize < (65536 : W64).toNat + 1 ∧ QLoad.wait ≠ .plain ∧ SpOk run 0 8 8 ∧ (myCore run).feGet (run.me.spbase / 16 + 0 / 16) = false := by
  unfold SpOk; decide

/-- The page of address 8 of the placed program may be read. -/
theorem test_w_globalLoad : Performs nops ∧ (8 : W64).toNat % 8 = 0 ∧ (12 : W64).toNat % 8 ≠ 0 ∧ (2 : W64).toNat % 4 ≠ 0 ∧ (8 : W64).toNat % 16 ≠ 0 ∧
    (match readRefs 0 (nops.asidOf 0) (nops.worldOf 0) [(0, 8)] nops with | (_, .ok _) => true | _ => false) = true := by
  unfold Performs; decide

/-! ### Engines -/

theorem test_w_captures : Captures run none none ∧
    Captures (run.upHandle 0 3 fun q => { q with obj := some 9 }) (some 3) (some ⟨3, 9⟩) := ⟨rfl, 9, rfl, rfl⟩

/-- A copy of 256 bytes inside the partition. -/
def copyReq : CopyReq := ⟨0, 2 ^ 62, some (2 ^ 62 + 256), ⟨256, none, none⟩, false⟩

set_option maxRecDepth 20000 in
theorem test_w_copy : Performs run ∧ CopyAccepted run copyReq 0 := by unfold Performs CopyAccepted; decide

theorem test_w_copyShape : SpOk run 65504 32 32 ∧ NoPoison run 65504 32 := by unfold SpOk NoPoison; decide

theorem test_w_fetchOp : 0 < copyFree (myCore run).copies 0 ∧ (0x1000 : W64).toNat % fopWidth 11 0 = 0 ∧ (0x1000 : W64).toNat < 2 ^ 48 ∧
    SpOk run 65520 16 16 := by unfold SpOk; decide

theorem test_w_copyFaults : (2 ^ 40 : W64).toNat / 2 ^ 40 % 2 ^ 8 ≠ 0 ∧ (2 ^ 63 : W64).toNat / 2 ^ 61 = 4 ∧
    (0x1001 : W64).toNat % fopWidth 13 0 ≠ 0 ∧ (2 ^ 62 + 8 : W64).toNat = 2 ^ 62 + 8 ∧ 8 % 16 ≠ 0 ∧ (16 : W64).toNat < 2 ^ 40 ∧
    (2 ^ 62 + 65536 : W64).toNat = 2 ^ 62 + 65536 ∧ 65536 % 16 = 0 ∧ 65536 < 2 ^ 23 ∧ run.me.spsize < 65536 + 16 := by decide

/-- A shadow set of one chunk over ring 0, and a context whose ring 0 holds four panels of 32 granules. -/
def shadow : Vector W64 16 := (Vector.replicate 16 0).set! 1 0x10000
def ringed : State := onCtx fun c => { c with mxc := shadow, rings := c.rings.set! 0 ⟨true, 0, 32, 4, 0, 0, 0, []⟩ }

/-- MXGO passes the checks over `ringed`, and names a ring that is not set over `run`; a region of one word row. -/
theorem test_w_matrixQueue : Performs ringed ∧ ringed.me.mxq.length < 3 ∧ shadowFault ringed 0 ringed.me ringed.me.mxc = none ∧
    shadowFault run 0 run.me run.me.mxc = some (3, 2) ∧ (regionOf 0).isSome = true ∧ SpOk run 0 (4 * 1 * 4) 16 := by
  unfold Performs SpOk; decide

/-- Each check of the shadow set passes over `ringed`; over `run` the RING check, the 23rd, is the first to fail. -/
theorem test_w_shadowPasses : ∀ e ∈ shadowChecks ringed, ¬ e.1 := by
  have c : ∀ j : Nat, (ringed.me.mxc[j]!).toNat = if j = 1 then 0x10000 else 0 := fun j => by
    by_cases h : j < 16
    · have : ∀ i : Fin 16, (ringed.me.mxc[i.val]!).toNat = if i.val = 1 then 0x10000 else 0 := by decide
      exact this ⟨j, h⟩
    · have h1 : j ≠ 1 := by omega
      simp [h, h1]
      rfl
  intro e h
  simp only [shadowChecks, List.mem_append, List.mem_cons, List.mem_map, List.mem_range, c] at h
  rcases h with ((h | h | h | h | h | h | h | h) | ⟨j, hj, rfl⟩) | h | h | h | h | h | h | h | h | h | h | h | h
  all_goals first
    | exact absurd h List.not_mem_nil
    | (try subst h); simp; try first | omega | decide

theorem test_w_shadowFails : ∃ e, (shadowChecks run)[22]? = some e ∧ e.1 ∧ e.2 = (3, 2) ∧ ∀ f ∈ (shadowChecks run).take 22, ¬ f.1 := by
  have c : ∀ j : Nat, (run.me.mxc[j]!).toNat = 0 := fun j => by
    by_cases h : j < 16
    · have : ∀ i : Fin 16, (run.me.mxc[i.val]!).toNat = 0 := by decide
      exact this ⟨j, h⟩
    · simp [h]
      rfl
  refine ⟨_, rfl, .inr (.inl ⟨by simp only [c]; decide, .inr (.inl rfl)⟩), rfl, fun e h => ?_⟩
  simp only [shadowChecks, c, List.take, List.map, List.range, List.range.loop, List.cons_append, List.nil_append, List.mem_cons] at h
  rcases h with h | h | h | h | h | h | h | h | h | h | h | h | h | h | h | h | h | h | h | h | h | h | h
  all_goals first
    | exact absurd h List.not_mem_nil
    | (try subst h); simp; try first | omega | decide

theorem test_w_claim : ClaimFree run ∧ ¬ ClaimFree (run.upCore 0 fun k => { k with claim := some 1 }) ∧ run.me.join ≠ .inEffect ∧
    3 ≤ (onCtx fun c => { c with mxq := List.replicate 3 (.new (.z 0 false) none) }).me.mxq.length := by unfold ClaimFree; decide

/-- The same program on core 1, whose context 0 asks to join. -/
theorem test_w_matrixLease : Performs run ∧ run.me.join = .none ∧ coreOf { run with cur := 2 }.cur % 2 = 1 ∧ run.me.mxq = [] ∧ run.me.gmode = 0 ∧
    run.me.mxq.length ≤ (run.me.rd 1).toNat ∧ run.me.mxfault = none ∧ (onCtx fun c => { c with mxfault := some bad }).me.mxfault = some bad ∧
    ((onCtx fun c => { c with mxq := [.new (.z 0 false) none] }).me.rd 1).toNat < 1 := by unfold Performs; decide

/-- A region past the last row; the odd context of core 1 joined while the even one has a wide operation. -/
def joined : State := { run with cur := 2, ctxs := [(0, { ctx0 with mxq := [.new (.go (shadow.set! 1 0x10080)) none] }), (2, { ctx0 with join := .inEffect })] }

theorem test_w_regions : LegalRegion 0 ∧ ¬ LegalRegion 0x80 ∧ tileBytes 0 true = 32 ∧ (8 : W64).toNat % 16 ≠ 0 ∧ joined.me.join = .inEffect ∧
    (joined.ctx (joined.cur - 2)).mxq.any MxCmd.wide = true ∧ joined.me.join ≠ .none := by unfold LegalRegion; decide

/-- Four panels of 32 granules; a push of all four, and of one more than there are; a scale table of 8 × 8 records. -/
theorem test_w_ringAndScale : SpOk run 0 (16 * (32 * 4)) 16 ∧ (0x40020 : W64).toNat % 2 ^ 16 = 32 ∧ (0x40020 : W64).toNat / 2 ^ 16 % 2 ^ 16 = 4 ∧
    run.ringNamed 0 run.me 0 = false ∧ ringed.me.rings[0].cap = 4 ∧ (ringed.me.rings[0].tail - ringed.me.rings[0].head).toNat + 4 ≤ 4 ∧
    ((myCore ringed).copies.any fun d => d.ctx == ringed.cur && d.ringOf == some 0) = false ∧
    SpOk run 0 (2 * (8 * 8)) 16 ∧ (63 : W64).toNat < 64 ∧ (pinsOf run.me.mxq).contains 63 = false ∧ 63 < (64 : W64).toNat := by
  unfold SpOk; decide

/-! ### Phasers and system words -/

/-- Handle 3 bound to object 5 with mode `m` and signal phase `p`, in the window of the queue, at phase 0. -/
def bound (m : HMode) (p : W32) : State :=
  { run.upHandle 0 3 fun _ => ⟨some 5, m, .none, p, p, none⟩ with sys := { run.sys with objwins := [(0, ⟨0, 5, true⟩)] } }

/-- An object is outside the window, at its end, has members; a handle is unbound, or bound. -/
theorem test_w_phaserBind : Performs run ∧ run.bindable 0 5 = false ∧ (bound .sig 0).bindable 0 5 = true ∧ (bound .sig 0).bindable 0 6 = false ∧
    (mine run 3).obj = none ∧ (mine (bound .sig 0) 3).obj = some 5 ∧ ((bound .sig 0).phaser 5).nsig = 0 ∧ (bound .sig 0).regPending 5 = false ∧
    (((bound .sig 0).setPhaser 5 { Phaser.init with nsig := 1 }).phaser 5).nsig ≠ 0 ∧
    (0x8000000000000005 : W64).getLsbD 63 = true ∧ (5 : W64).getLsbD 63 = false := by unfold Performs; decide

/-- A signaller in the object's phase, one ahead, two ahead; a waiter; a handle without a mode. -/
theorem test_w_phaserSignal : (mine (bound .sig 0) 3).sph = ((bound .sig 0).phaser 5).phase ∧
    ((mine (bound .sig 1) 3).sph - ((bound .sig 1).phaser 5).phase).toNat < 2 ∧ 2 ≤ ((mine (bound .sig 2) 3).sph - ((bound .sig 2).phaser 5).phase).toNat ∧
    2 ^ 31 ≤ ((mine (bound .sig (BitVec.allOnes 32)) 3).sph - ((bound .sig 2).phaser 5).phase).toNat ∧
    (mine (bound .wait 0) 3).mode = .wait ∧ (mine (bound .none 0) 3).mode = .none ∧ (1 : Nat) % 2 ^ 16 ≠ 0 := by decide

/-- The phase has passed a waiter that is one behind; it has not where they are equal; the object is broken. -/
theorem test_w_phaserWait : (mine (bound .wait 0) 3).frec = none ∧ (bound .wait 0).me.frec = none ∧
    (let d := (((bound .wait (BitVec.allOnes 32)).phaser 5).phase - (mine (bound .wait (BitVec.allOnes 32)) 3).lph).toNat; 1 ≤ d ∧ d ≤ 2 ^ 31 - 1) ∧
    (((bound .wait 0).phaser 5).phase - (mine (bound .wait 0) 3).lph).toNat = 0 ∧ ((bound .wait 0).phaser 5).broken = false ∧
    (mine (bound .sigwait 2) 3).mode = .sigwait ∧ 2 ≤ ((mine (bound .sigwait 2) 3).sph - ((bound .sigwait 2).phaser 5).phase).toNat ∧
    (((bound .wait 0).setPhaser 5 { Phaser.init with broken := true }).phaser 5).broken = true ∧
    (mine (run.upHandle 0 3 fun q => { q with frec := some bad }) 3).frec = some bad := by decide

/-- A core whose copy queue holds a command of this context, and one whose queue holds none. -/
theorem test_w_fence : (∀ d ∈ (myCore run).copies, d.ctx ≠ run.cur) ∧
    ∃ d ∈ (myCore (queued run (fresh run 0 (lendOf 0) 0 0 16 none 16 none 0))).copies, d.ctx = run.cur :=
  ⟨fun d h => (nomatch (show d ∈ [] from h)), _, List.mem_singleton.mpr rfl, rfl⟩

/-- The same kernel with these fields of its record, on contexts 0 and 2. -/
def priv : State :=
  { run with
    kernels := [(1, some { kernel1 with krec := { KRec.plain with world := true }, ctxs := [0, 2] })]
    ctxs := [(0, ctx0), (2, { ctx0 with occ := some ⟨1, 1, .running⟩ })] }

theorem test_w_gang : (onCtx fun c => { c with gmode := 1, gdec := true }).me.gdec = true ∧ (onCtx fun c => { c with gmode := 1 }).me.gmode ≠ 0 ∧
    run.me.gmode = 0 ∧ run.me.gdec = false ∧ (onCtx fun c => { c with granted := some 10 }).me.granted = some 10 ∧
    Performs (onCtx fun c => { c with gmode := 1, gdec := true }) ∧
    run.me.granted ≠ some 9 ∧ run.me.rd 1 = 0 ∧ (regs [(1, 1)]).me.rd 1 ≠ 0 ∧ run.worldOf 0 = false ∧ priv.worldOf 0 = true := by
  unfold Performs; decide

/-- Cores in scope; a selected and another translation; a line of the placed program that ICINV over its first word removes, and one that it
keeps. -/
theorem test_w_invalidations : within .group 0 3 = true ∧ within .group 0 4 = false ∧ removes 0x4000000000000000 0 0 0 65536 = true ∧
    removes 0 4 0 65536 65536 = false ∧ Stale nops 0 4 8388608 ∧ ¬ Stale nops 0x100 0 8388608 := by
  refine ⟨by decide, by decide, by decide, by decide, .inr ⟨0, ⟨0, 2 ^ 30, 0x40000000, true, false, true, false, false, false, 0, 0⟩, ?_⟩, ?_⟩
  · refine ⟨by decide, by decide, by decide, by decide, by decide, by decide⟩
  · rintro (h | ⟨va, t, h1, h2, -⟩) <;> omega

/-- A queue for LAUNCH, of 16 entries of which `n` are taken, whose ring and record lie in memory that the queue may write. -/
def launches (n : Nat) : State :=
  { { nops with mem := memWr nops.mem 0x11000 (natLe 8 (0x40000000 + 0x0D)) } with
    queues := [(0, { Queue.init with en := true, src := true, base := 0x1000, tail := BitVec.ofNat 32 n })] }

theorem test_w_launch : Performs (launches 15) ∧ 64 ≤ (64 : W64).toNat ∧ (63 : W64).toNat < 64 ∧ (255 : W64).toNat % 256 ≠ 0 ∧
    (run.queue 0).en = false ∧ ((launches 15).queue 0).en = true ∧ ((launches 15).queue 0).src = true ∧ (launches 15).sys.worldQueue.get false 0 = false ∧
    (((launches 15).queue 0).tail - ((launches 15).queue 0).head).toNat ≠ 2 ^ 4 ∧ (((launches 16).queue 0).tail - ((launches 16).queue 0).head).toNat = 2 ^ 4 ∧
    (launches 15).devXlate 0 (0x1000 + 8 * 15) .write = .ok 0x40001078 ∧ nops.devXlate 0 0x1078 .write = .error xNowrite := by
  unfold Performs; decide

theorem test_w_event : (onCtx fun c => { c with wake := true }).me.wake = true ∧ run.me.gmode ≠ 2 ∧ run.me.wake = false ∧
    Performs run ∧ ¬((1 : W64) ≠ 0 ∧ (1 : W64).toNat ≤ run.sys.sidt.toNat) := by unfold Performs; decide

/-- Instance 1 of the privileged context's kernel, named by its index, in a state `f`. -/
def other (f : Ctx → Ctx) : State := priv.upCtx 2 f

theorem test_w_contextControl : Performs priv ∧ priv.worldOf 0 = true ∧ targetBad 1 = false ∧ priv.target 0 1 = .at 2 ∧ priv.target 0 2 = .none ∧
    (other fun c => { c with occ := some ⟨1, 1, .retired⟩ }).target 0 1 = .gone (some 2) ∧
    (other fun c => { c with occ := some ⟨1, 1, .saved⟩ }).target 0 1 = .saved 2 ∧ (other fun c => { c with occ := none }).target 0 1 = .gone none ∧
    (other fun c => { c with occ := some ⟨1, 1, .prepared⟩ }).target 0 1 = .early 0 ∧ priv.target 0 0 = .at 0 ∧ priv.saving 2 = false ∧
    (other fun c => { c with hreq := some ⟨false, true, false, [], false, 0, 0⟩ }).saving 2 = true ∧
    ((other fun c => { c with gmode := 1 }).ctx 2).gmode ≠ 0 ∧ (priv.ctx 2).gmode = 0 ∧ (0x50000 : W64).toNat / 2 ^ 16 % 16 = 5 ∧
    (0x40000 : W64).toNat / 2 ^ 16 % 16 = 4 ∧ (0x10000 : W64).toNat / 2 ^ 16 % 16 = 1 := by unfold Performs; decide

/-- The other instance halted by a CTXCTL: its control operations apply. -/
def heldOther : State := other fun c => { c with ctlhalt := true, occ := some ⟨1, 1, .halted⟩ }

theorem test_w_contextHeld : (heldOther.ctx 2).ctlhalt = true ∧ (heldOther.ctx 2).occ = some ⟨1, 1, .halted⟩ ∧ heldOther.target 0 1 = .at 2 ∧
    (heldOther.kernelOf 2).isSome = true ∧ (heldOther.me.rd 3).toNat % 4 = 0 ∧ (heldOther.ctx 2).wait = none ∧ targetBad 0x100000 = true ∧
    1 < (2 : W64).toNat := by decide

/-! ### Fabric words -/

/-- The fabric is up: port 0 enabled, in step with its peers, key 7 in its table and allowed to ask for bandwidth. -/
def fabOn : State :=
  { onCtx fun c => { c with pkey := 7 } with
    fab := { Fabric.init with en := true, sync := true, portEn := 1, member := [(0, 0x80FF0007)], reach := [(0, 0x80000001)], rtA := [] } }

/-- A lease of kernel 1 with this port. -/
def leaseOf (q : LPort) : Lease :=
  { kid := 1, core := 0, seq := 0, peer := 1, pkey := 7, qpp := 1, frames := 9, gmask := 0, ports := [q], arr := none, endArr := none
    settled := false, took := false, why := .none, rel := false, orphan := false, finished := false }

/-- Port 0 of a lease as it stands in state `st`. -/
def port0 (st : LpSt) : LPort :=
  { port := 0, st := st, groups := 1, fwd := none, line := 0, eff := 2, fin := none, age := 0, retry := 1, from_ := 0, sent := some 0
    offer := 1, held := false, noOrd := none }

/-- The fabric with lease 255 of that standing. -/
def leased (st : LpSt) : State := fabOn.setLease 255 (some (leaseOf (port0 st)))

/-- A request that asks for its own node is ill-formed; port 1 is off; the key is known, and is not; lease 0 is free. -/
theorem test_w_bandwidth : Performs fabOn ∧ bwBad fabOn.sys.nodeid 0 1 = true ∧ bwBad fabOn.sys.nodeid 0x100010001 1 = false ∧
    fabOn.fab.sync = true ∧ fabOn.fab.portEn.getLsbD 0 = true ∧ fabOn.fab.portEn.getLsbD 1 = false ∧
    ((fabOn.fab.keyEntry 7).map fun w => bitOf w 23) = some true ∧ fabOn.fab.keyEntry 8 = none ∧ fabOn.fab.lease 0 = none ∧ (0 : Nat) < 256 := by
  unfold Performs; decide

theorem test_w_leaseWords : ((leased .inEffect).fab.lease 255).map (·.kid) = (leased .inEffect).kidOf 0 ∧ (255 : W64).toNat / 256 = 0 ∧
    ((leased .inEffect).fab.lease 255).map (·.finished) = some false ∧ (leased .inEffect).fab.lease 254 = none ∧
    (0x80FF : W64).getLsbD 15 = true ∧ (0xFF : W64).getLsbD 15 = false ∧ (0x10 : W64).toNat % 16 = 0 ∧ (0xF1 : W64).toNat % 16 = 1 ∧
    1 < (0xFF : W64).toNat % 16 := by decide

/-- A TX ring of two slots of 256 bytes, and the bytes of an RX and of a TX record. -/
def ring (tx : Bool) (b : W32) : LandRing :=
  { kid := 1, core := 0, asid := 0, tx := tx, peer := 1, plrid := 3, slotsz := 256, nslot := 2, base := 0x10000, a := 0, b := b, arr := none, landing := [] }
def withRing (tx : Bool) (b : W32) : State := fabOn.setRing 1023 (some (ring tx b))
def txRec : List Byte := natLe 2 1023 ++ natLe 1 1 ++ natLe 1 0 ++ natLe 2 1 ++ natLe 2 3 ++ natLe 4 256 ++ natLe 4 2 ++ natLe 16 0

theorem test_w_landing : SpOk run 0 32 32 ∧ (run.landRec 0 txRec none).2.2 = false ∧ (run.landRec 0 txRec none).2.1.tx = true ∧
    (run.landRec 0 (natLe 32 0) none).2.2 = true ∧ (ring true 1).taken (run.kidOf 0) = true ∧ (ring true 0).taken (run.kidOf 0) = false ∧
    run.fab.ring 1023 = none ∧ run.rxPages 0 0x10000 512 = false ∧ (0x3FF : W64).toNat / 2 ^ 10 = 0 := by unfold SpOk; decide

set_option maxRecDepth 20000 in
theorem test_w_puts : ((withRing true 0).fab.ring 1023).map (·.kid) = (withRing true 0).kidOf 0 ∧ 240 + 16 ≤ (ring true 0).slotsz ∧
    CopyAccepted (withRing true 0) ⟨0x33, 2 ^ 63 + 2 ^ 48, some (2 ^ 62), ⟨240, none, none⟩, false⟩ 0 := by unfold CopyAccepted; decide

theorem test_w_rels : (2 : Nat) ≤ ((ring false 2).b - (ring false 2).a).toNat ∧ ((ring false 1).b - (ring false 1).a).toNat < 2 ∧ (ring true 0).tx = true := by decide

/-- A collective record of one member, one transfer of one element. -/
def collRec : List Byte :=
  natLe 4 0x014C5A44 ++ natLe 2 0 ++ natLe 2 1 ++ natLe 8 9 ++ natLe 8 0 ++ natLe 2 0 ++ natLe 1 1 ++ natLe 1 0 ++ natLe 4 8192 ++ natLe 2 0 ++
    natLe 2 1 ++ natLe 4 1 ++ natLe 24 0 ++ natLe 4 1 ++ natLe 188 0

/-- A ticket for it. -/
def ticket1 : Ticket :=
  { coll := collOf collRec, kid := 1, ctx := 0, arr := ⟨3, 5⟩, core := 0, asid := 0, world := false, pkey := 0, since := 0, id := 0, group := []
    announced := true, admitted := false, admits := [], next := 0, xfers := [], msgs := [], freed := [], waiting := [], sentDone := false, dones := [] }
def held63 : State := { bound .none 0 with orreries := [(0, { Orrery.init with tickets := [(63, some ticket1)] })] }

set_option maxRecDepth 20000 in
theorem test_w_collective : SpOk run 65280 256 256 ∧ collBad collRec = false ∧ collBad (natLe 256 0) = true ∧
    ((run.orrery 0).holds 9 0 = none) ∧ ((held63.orrery 0).holds 9 0).isSome = true ∧ (mine held63 3).obj = some 5 ∧
    held63.sys.worldOrrery.get false 0 = held63.worldOf 0 ∧ priv.sys.worldOrrery.get false 0 ≠ priv.worldOf 0 ∧
    held63.quarantined 0x5000 = false ∧ (run.orrery 0).ticket 0 = none ∧ (held63.orrery 0).ticket 63 = some ticket1 ∧
    some ticket1.kid = held63.kidOf 0 := by unfold SpOk; decide

/-! ### What the host does, and the device's own happenings -/

def secureQueue : State := { run with sys := { run.sys with worldQueue := [(63, true)] } }

/-- A queue of a secure world; one that kernels may fill; a tail of 16 entries and of 17; a bad size. -/
theorem test_w_hostQueue : secureQueue.sys.worldQueue.get false 63 = true ∧ run.sys.worldQueue.get false 0 = false ∧ ((launches 0).queue 0).src = true ∧
    (run.queue 0).src = false ∧ 2 ^ (run.queue 0).log2n.toNat < ((17 : W32) - (run.queue 0).head).toNat ∧
    ((16 : W32) - (run.queue 0).head).toNat ≤ 2 ^ (run.queue 0).log2n.toNat ∧ (0x203 : W32).getLsbD 9 = true ∧
    ((0x203 : W32).extractLsb' 0 5).toNat < 4 ∧ (0 : W32).getLsbD 9 = false ∧ run.kernel 1 = some kernel1 ∧ kernel1.q = 0 ∧ kernel1.st = .placed ∧
    (run.queue 0).save = 0 ∧ ((run.setQueue 0 { Queue.init with save := 0x10000 }).queue 0).save ≠ 0 := by decide

/-- The last byte that a BAR2 of 1 GiB shows, and the first past the largest one. -/
theorem test_w_bar2 : (0 : Nat) + 1 ≤ 2 ^ (30 + Config.barLog.val) ∧ run.sys.w2base.toNat + 0 + 1 ≤ 2 ^ 39 ∧ run.carveSecure 0 = false ∧
    ¬ (2 ^ 39 + 1 ≤ 2 ^ (30 + Config.barLog.val)) ∧ run.poisonAt 0 1 = none := by
  refine ⟨?_, by decide, by decide, ?_, by decide⟩
  · exact Nat.one_le_two_pow
  · have h : 2 ^ (30 + Config.barLog.val) ≤ 2 ^ 39 := Nat.pow_le_pow_right (by decide) (by omega)
    omega

theorem test_w_power : run.idle = false ∧ State.reset.idle = true ∧ run.sys.cintBusy = false ∧
    ({ run with sys := { run.sys with cintBusy := true } } : State).sys.cintBusy = true := by decide

/-- A boot step of an ordinary kind at the head of the list. -/
def boots : State := { State.reset with sys := { Sys.init with boot := [(0, ⟨1, false, false, false, false, false, 255, 0⟩)] } }

theorem test_w_boot : (boots.bootEnt 0).id ≠ 0 ∧ (boots.bootEnt 0).started = false ∧ (boots.bootEnt 0).failed = false ∧ (boots.bootEnt 0).opt = false ∧
    (∀ i, i < 64 → (State.reset.bootEnt i).id = 0) := by
  refine ⟨by decide, by decide, by decide, by decide, fun i _ => rfl⟩

/-- A privileged instance that has asked the controller for service 3 about queue 63, and one that has asked for an attestation of `va`. -/
def asks (svc arg : W64) : State := priv.upCtx 0 fun c => { c with pends := [⟨.s 4, .smc svc arg, 0, false⟩] }

theorem test_w_service : ((asks 3 0).ctx 0).pends = [⟨.s 4, .smc 3 0, 0, false⟩] ∧ ((asks 3 0).ctx 0).running = true ∧ (asks 3 0).worldOf 0 = true ∧
    (0x5003F : W64).toNat / 2 ^ 16 % 16 = 5 ∧ (0x5003F : W64).toNat % 2 ^ 16 = 63 ∧ (0x6003F : W64).toNat / 2 ^ 16 % 16 = 6 ∧
    (priv.queue 63).en = false ∧ priv.coreBusy 0 = true ∧ priv.coreBusy 383 = false ∧ (0xFFF : W64).toNat % 4096 ≠ 0 ∧ priv.attestPa 0 0 = none ∧
    priv.unitBusy 0x1000 = true ∧ priv.unitBusy 0x3000 = false ∧ priv.hostQuar = false ∧
    ({ priv with sys := { priv.sys with sysmode := 8 } } : State).hostQuar = true := by decide

theorem test_w_attest : (launches 0).attestPa 0 0x1000 = some 0x40001000 ∧ (launches 0).attestPa 0 0x2000 = some 0x40002000 := by decide

/-- A line of the last-level cache that context 0 wrote, with poison. -/
def dirty : State := { run with lines := [(7, { LineRec.init with tag := some 0, poison := some 3 })] }

/-- A bundle at 0x100 whose signature is over this byte; `left` cycles until its last result has landed. -/
def signed (b : Byte) (left : Nat) : Sig := ⟨0x100, [.bytes [b]], left, 0⟩

/-- A CHECK pair on cores 0 and 1 with these signatures to compare. -/
def pair (a b : Sig) : State :=
  { run with ctxs := [(0, { ctx0 with gmode := 2, sigs := [a] }), (2, { ctx0 with gmode := 2, gchk := true, sigs := [b] })] }

theorem test_w_errors : (383 : Nat) < 384 ∧ ((dirty.lines.get LineRec.init 7).tag = some 0) ∧ (dirty.lines.get LineRec.init 7).poison = some 3 ∧
    (run.lines.get LineRec.init 7).tag = none ∧ ({ LineRec.init with back := some 0 } : LineRec).back ≠ none ∧ Holds dirty 0 ⟨1, 0, .running⟩ kernel1 ∧ kernel1.st ≠ .killing ∧ (run.ctx 766).occ = none ∧
    ((pair (signed 1 0) (signed 2 1)).ctx 0).sigs = [signed 1 0] ∧ ((pair (signed 1 0) (signed 2 1)).ctx 2).sigs = [signed 2 1] ∧
    (signed 1 0).whole = true ∧ (signed 2 1).whole = false ∧ (signed 1 0).word ≠ (signed 2 0).word ∧
    ((pair (signed 1 0) (signed 2 0)).ctx 0).gmode = 2 ∧ ((pair (signed 1 0) (signed 2 0)).ctx 0).gchk = false ∧
    Holds (pair (signed 1 0) (signed 2 0)) 0 ⟨1, 0, .running⟩ kernel1 := by unfold Holds; decide

/-- An array serves no operation in `run`; an Orrery with a ticket. -/
theorem test_w_moreErrors : run.servedOp 95 = none ∧ (held63.orrery 0).ticket 63 = some ticket1 := by decide

theorem test_w_fills : (nops.core 0).icache.get none 8388608 = none ∧ nops.poisonAt (128 * 8388608) 128 = none ∧ (nops.core 0).ifill.get [] 8388608 = [] ∧
    (nops.ctx 0).running = true ∧ nops.fetches 0 = true ∧ (nops.ctx 0).fbuf = [] ∧ nops.walksFor 0 0 = true ∧ nops.walksFor 0 1 = false := by decide

/-- A context that waits for a walk of the placed program's space. -/
theorem test_w_walk : (nops.walk 0 false 0).isOk = true ∧ (run.walk 0 false 0).isOk = false ∧ tlbFind (nops.core 0).tlb 0 false 0 = none ∧
    tlbFind (nops.l2tlb.get [] 0) 0 false 0 = none ∧ (nops.walksOf 0).length < 96 ∧ nops.walksOf 0 = [] := by decide

/-! ### Dispatcher, halts, waits -/

/-- A queue that the host fills, whose first entry at 0x1000 names `ptr`, and the record of 256 bytes `r` at 0x2000. -/
def offers (ptr : Nat) (r : List Byte) : State :=
  { launches 0 with
    mem := memWr (memWr (launches 0).mem 0x40001000 (natLe 8 ptr)) 0x40002000 r
    queues := [(0, { Queue.init with en := true, base := 0x1000, tail := 1 })] }

/-- A kernel record of one instance, and the same with a wrong magic number. -/
def record : List Byte := natLe 4 0x014B5A44 ++ natLe 16 0 ++ natLe 8 0x00000101010101 ++ natLe 228 0
def badRecord : List Byte := natLe 256 0

set_option maxRecDepth 20000 in
theorem test_w_takeEntry : (run.queue 0).en = false ∧ ((offers 0x2000 record).queue 0).en = true ∧ ((offers 0x2000 record).queue 0).cands = [] ∧
    ((offers 0x2000 record).queue 0).head ≠ ((offers 0x2000 record).queue 0).tail ∧
    (offers 0x2000 record).devXlate 0 0x1000 .read = .ok 0x40001000 ∧ (offers 0x2000 record).firstPoison 0x40001000 8 = none ∧
    leNat ((offers 0x2000 record).rd 0x40001000 8) = 0x2000 ∧ (offers 0x2000 record).devXlate 0 0x2000 .read = .ok 0x40002000 ∧
    (offers 0x2000 record).firstPoison 0x40002000 256 = none ∧ (0x20FF : Nat) % 256 ≠ 0 := by decide

set_option maxRecDepth 20000 in
theorem test_w_records : (launches 0).recBad 0 record = false ∧ (launches 0).recBad 0 badRecord = true ∧ (recOf badRecord).crec.toNat % 64 = 0 ∧
    (∀ w ∈ (recOf record).waits, w = none) := by decide

/-- Kernel 1 in standing `k`, alone in the dispatcher and in queue 0's list of candidates, with context 0's instance in state `o`. -/
def inState (k : KSt) (o : OccSt) : State :=
  { run with
    kernels := [(1, some { kernel1 with st := k })], queues := [(0, { Queue.init with cands := [1] })]
    ctxs := [(0, { ctx0 with occ := some ⟨1, 0, o⟩ })] }

theorem test_w_ranked : (inState .cand .prepared).ranked = [(1, { kernel1 with st := .cand })] ∧ run.ranked = [] := by
  simp [State.ranked, inState, run, State.kernel, SMap.get, State.reset]

/-- A kernel that waits for object 5 at phase 3. -/
def waiter : Kernel := { kernel1 with st := .cand, krec := { KRec.plain with waits := [some (5, 3)] } }

theorem test_w_dispatcher : (inState .cand .prepared).kids = [1] ∧ ({ kernel1 with st := .cand } : Kernel).open = true ∧ kernel1.open = false ∧
    run.mayDecide = true ∧ ({ run with sys := { run.sys with decided := some 0 } } : State).mayDecide = false ∧
    ({ kernel1 with st := .cand } : Kernel).eligible = true ∧ kernel1.krec.preload = false ∧ kernel1.saved = false ∧
    ({ Phaser.init with broken := true } : Phaser).broken = true ∧ ((3 : W32) - 3).toNat < 2 ^ 31 ∧ ¬ ((0 : W32) - 3).toNat < 2 ^ 31 ∧
    waiter.krec.waits.getD 0 none = some (5, 3) ∧ waiter.eligible = false ∧ (∃ y ∈ ({ kernel1 with deferred := [1] } : Kernel).deferred, run.kernel y ≠ none) ∧
    ∀ y ∈ kernel1.deferred, run.kernel y = none := by decide

theorem test_w_fits : (State.reset.fits KRec.plain).isSome = true := by decide

theorem test_w_kernels : Holds (inState .placed .prepared) 0 ⟨1, 0, .prepared⟩ kernel1 ∧ kernel1.ctxs.getD 0 0 = 0 ∧
    (kernel1.krec.codeBase.toNat + kernel1.krec.entry.toNat) % 2 ^ 64 < 2 ^ 48 ∧ (inState .preloaded .preload).kernel 1 = some { kernel1 with st := .preloaded } ∧
    ((inState .preloaded .preload).queue 0).cands.head? = some 1 ∧ (inState (.requeueing false) .saved).kernel 1 = some { kernel1 with st := .requeueing false } ∧
    (∃ y ∈ (inState (.requeueing false) .saved).heldBy 1, ∃ oc, ((inState (.requeueing false) .saved).ctx y).occ = some oc ∧ oc.st = .saved) ∧
    ((inState .killing .halted).ctx 0).running = false ∧ ((inState .killing .running).ctx 0).running = true := by
  refine ⟨by unfold Holds; decide, by decide, by decide, by decide, by decide, by decide, ⟨0, by decide, ⟨1, 0, .saved⟩, by decide, rfl⟩, by decide, by decide⟩

/-- A kernel with a budget of 10 cycles that have been spent. -/
theorem test_w_budget : let k : Kernel := { kernel1 with krec := { KRec.plain with budget := 10, ovr := true } }
    k.krec.budget ≠ 0 ∧ k.krec.budget.toNat ≤ ({ ctx0 with cycle := 10 } : Ctx).cycle.toNat ∧ k.krec.ovr = true ∧ KRec.plain.ovr = false ∧
    KRec.plain.budget = 0 := by decide

theorem test_w_retire : Holds (inState .placed .retired) 0 ⟨1, 0, .retired⟩ kernel1 ∧ (∀ d ∈ ((inState .placed .retired).core 0).copies, d.ctx ≠ 0) ∧
    ((inState .placed .retired).ctx 0).mxq = [] ∧ (inState .placed .retired).runners 0 = [] ∧ ((inState .placed .retired).ctx 0).sigs = [] ∧
    kernel1.gone.length + 1 = kernel1.krec.count := by unfold Holds; decide

/-- A kill request that has, and has not, reached context 0, with `age` cycles past a slack of 8. -/
def halting (reached : Bool) (age : Nat) (ls : List LoopEnt) : State :=
  onCtx fun c => { c with hreq := some ⟨true, false, false, [], reached, 8, age⟩, loops := ls }

theorem test_w_halts : Alone run 0 ∧ (run.ctx 0).hreq = none ∧ Alone (halting true 8 []) 0 ∧ ((halting true 8 []).ctx 0).loops = [] ∧
    ((halting false 0 []).ctx 0).hreq = some ⟨true, false, false, [], false, 8, 0⟩ ∧
    ¬(((halting true 9 [⟨2, 0, 8⟩]).ctx 0).wait ≠ none ∨ ((halting true 9 [⟨2, 0, 8⟩]).ctx 0).loops = [] ∨ ((halting true 9 [⟨2, 0, 8⟩]).ctx 0).iter = true) ∧
    (8 : Nat) ≤ 8 ∧ (8 : Nat) < 9 := by unfold Alone; decide

theorem test_w_saves : (767 : Nat) < 768 ∧ run.savable 0 = false ∧ (inState (.requeueing false) .halted).savable 0 = true ∧
    ({ kernel1 with st := .requeueing false } : Kernel).ctxs[0]? = some 0 ∧ ({ kernel1 with ctxs := [2] } : Kernel).ctxs[0]? ≠ some 0 ∧
    Holds (inState (.requeueing false) .halted) 0 ⟨1, 0, .halted⟩ { kernel1 with st := .requeueing false } := by unfold Holds; decide

/-- Context 0 in a wait of kind `k` with watchdogs of 10 cycles, at cycle `c`. -/
def waits (k : Nat) (c : W64) : State := onCtx fun x => { x with wait := some { kind := k }, cycle := c, fewdog := 10, waitdog := 10 }

theorem test_w_waits : ((waits 3 10).ctx 0).wait = some { kind := 3 } ∧ ((waits 3 10).ctx 0).phnext = none ∧ ((waits 3 10).ctx 0).running = true ∧
    ((10 : W32) ≠ 0 ∧ (10 : W32).toNat ≤ (((waits 3 10).ctx 0).cycle.setWidth 32 - 0).toNat) ∧
    ¬((10 : W32).toNat ≤ (((waits 3 9).ctx 0).cycle.setWidth 32 - 0).toNat) ∧ Alone (waits 6 10) 0 ∧ (run.ctx 0).wait = none := by
  unfold Alone; decide

/-- A bundle of the placed program no longer waits: no wait is left. -/
theorem test_w_rewait : (nops.rewait 0).isNone = true := by decide

/-- Context 0 in the wait half of a PHNEXT on handle 3. -/
def nexting (lph : W32) : State :=
  let s := bound .wait lph
  s.upCtx 0 fun c => { c with phnext := some (3, .ctx, 0x80), wait := some { kind := 1, h := 3, arg := 5 } }

theorem test_w_phnext : ((nexting 0).ctx 0).phnext = some (3, .ctx, 0x80) ∧ Alone (nexting 0) 0 ∧ ((nexting 0).core 0).handles[3].frec = none ∧
    ((nexting 0).ctx 0).frec = none ∧ ((nexting 0).core 0).handles[3].obj = some 5 ∧
    (((nexting (BitVec.allOnes 32)).phaser 5).phase - ((nexting (BitVec.allOnes 32)).core 0).handles[3].lph).toNat = 1 ∧
    (((nexting 0).phaser 5).phase - ((nexting 0).core 0).handles[3].lph).toNat = 0 := by unfold Alone; decide

/-- A gang of one follower that has released itself and waits in REJN. -/
def rejoining : State :=
  { run with ctxs := [(2, { ctx0 with gmode := 1, gdec := true, arrived := true, wait := some { kind := 10 } })] }

theorem test_w_rejoin : run.rejoiners 0 = [] ∧ rejoining.rejoiners 0 = [2] ∧ rejoining.arrivedAt 2 = true ∧ [2].head? ≠ some (8 * 0) := by decide

/-- Context 0 parked on page 7 of the space of queue 0. -/
def parks : State :=
  { (onCtx fun c => { c with wait := some { kind := 11, page := 7 } }) with sys := { run.sys with parked := [⟨0, 7⟩] } }

theorem test_w_parked : run.isParked 0 7 = false ∧ parks.isParked 0 7 = true ∧ parks.parkedOn 0 7 = [0] ∧ parks.copiesOn 0 7 = [] ∧
    (parks.ctx 0).gmode = 0 := by decide

/-- A result and a load on their way in context 0. -/
def flying : State := onCtx fun c => { c with
  flight := [⟨.s 3 9, 1, 1, 2, 0⟩], pends := [⟨.s 4, .ans 5, 0, false⟩, ⟨.s 6, .load 8 8 true [(0, .mem 0x40000008)] [], 0, false⟩, ⟨.v 6, .load 8 4 true [(63, .mem 0x40000008)] [], 0, false⟩] }

theorem test_w_landing_results : (flying.ctx 0).flight[0]? = some ⟨.s 3 9, 1, 1, 2, 0⟩ ∧ (flying.ctx 0).flight[1]? = none ∧
    (flying.ctx 0).pends[0]? = some ⟨.s 4, .ans 5, 0, false⟩ ∧ (flying.ctx 0).pends[1]? = some ⟨.s 6, .load 8 8 true [(0, .mem 0x40000008)] [], 0, false⟩ ∧
    (flying.ctx 0).pends[2]? = some ⟨.v 6, .load 8 4 true [(63, .mem 0x40000008)] [], 0, false⟩ ∧
    (flying.ctx 0).pends[3]? = none ∧ (BitVec.allOnes 16).getLsbD (63 / 4) = true ∧ (1 : BitVec 16).getLsbD (63 / 4) = false ∧
    (flying.ctx 0).olderReads 1 (0x40000008, 8) = false ∧ (flying.ctx 0).olderReads 1 (0x40000008, 4) = false ∧ flying.poisonAt 0x40000008 8 = none ∧ (flying.ctx 0).running = true ∧
    ({ dirty with lines := [(8388608, { LineRec.init with poison := some 3 })] } : State).poisonAt 0x40000008 8 = some 3 := by decide

/-- The placed program in context 1, whose forced turn it is. -/
def forcedTurn : State :=
  { (nops.upCtx 1 fun _ => nops.ctx 0) with cores := [(0, { Core.init with forced := true })] }

theorem test_w_forced : (forcedTurn.core 0).forced = true ∧ forcedTurn.mayIssue 1 = true ∧ (run.core 0).forced = false ∧
    (match forcedTurn.tryHand 1 with | .ready .. => true | _ => false) = true := by decide

/-- A packet of NOPs, a pool packet, and a word without its start bit. -/
theorem test_w_begins : nops.mayIssue 0 = true ∧ (nops.packet 0 0).2 = .ok (List.replicate 8 0x80000000) ∧ isPool (List.replicate 8 0x80000000) = false ∧
    (pool.packet 0 0).2 = .ok [0xF2C00002, 7, 8, 0, 0, 0, 0, 0] ∧ isPool [0xF2C00002, 7, 8, 0, 0, 0, 0, 0] = true ∧
    ((placed [0]).packet 0 0).2 = .ok (List.replicate 8 0) ∧ bBit (0 : W32) = false ∧ isPool (List.replicate 8 0) = false ∧
    (run.packet 0 0x100).2 = .fault xNomap ∧ run.hostPf = false := by decide

/-! ### Engines at work -/

/-- A command of context 0 and of that number, with these fields. -/
def command (op : Nat) (a b : W64) (len off : Nat) (started : Bool) : Copy :=
  { fresh run op (lendOf 0) a b 0 none len none 0 with started := started, off := off }
def engine (cs : List Copy) : State := run.upCore 0 fun k => { k with copies := cs }

theorem test_w_commands : IsCmd (engine [command 0 (2 ^ 62) (2 ^ 62 + 256) 16 0 true]) 0 0 (command 0 (2 ^ 62) (2 ^ 62 + 256) 16 0 true) ∧
    ((engine []).core 0).copies[0]? = none := by
  refine ⟨⟨rfl, rfl, fun d h _ => ?_⟩, rfl⟩
  exact List.mem_singleton.mp h

/-- A command that has not started stands first among its context's; its kernel lives. -/
theorem test_w_starts : let c := command 0 (2 ^ 62) (2 ^ 62 + 256) 16 0 false
    IsCmd (engine [c]) 0 0 c ∧ c.started = false ∧ ((engine [c]).core 0).copies.filter (fun d => d.ctx == c.ctx && decide (d.id < c.id)) = [] ∧
    (engine [c]).killed c.kid = false ∧ c.slot = none ∧ c.acqDone = false ∧ c.buf = [] ∧ c.got = [] ∧ c.bad = none ∧
    (inState .killing .running).killed 1 = true := by
  refine ⟨⟨rfl, rfl, fun d h _ => ?_⟩, by decide⟩
  exact List.mem_singleton.mp h

/-- Commands that have failed: one of an instance that runs and one of an instance that has retired. -/
theorem test_w_failed : let c := { command 0 (2 ^ 62) (2 ^ 62 + 256) 16 0 true with fault := some bad, arr := some ⟨3, 5⟩ }
    c.unacked ≤ c.asked.length ∧ ((engine [c]).ctx 0).occ = some ⟨1, 0, .running⟩ ∧ ((inState .placed .retired).ctx 0).occ = some ⟨1, 0, .retired⟩ ∧
    (inState .placed .retired).kernel 1 = some kernel1 ∧ kernel1.st ≠ .killing ∧ ({ c with unacked := 1 } : Copy).asked.length < 1 := by decide

set_option maxRecDepth 20000 in
/-- A copy of one granule inside the partition can start and is whole; one that has failed. -/
theorem test_w_localCopy : let c := command 0 (2 ^ 62) (2 ^ 62 + 256) 16 0 true
    let s := engine [c]
    endpOf c.a = .loc 0 ∧ endpOf c.b = .loc 256 ∧ c.slot = none ∧ c.fault = none ∧ c.ringOf = none ∧ c.shape = none ∧
    (s.core 0).spPoisoned 256 16 = false ∧ s.pinnedAt 0 0 16 = false ∧ s.checker 0 0 = none ∧ (command 0 0 0 16 16 true).len ≤ 16 ∧
    ((s.core 0).copies.filter fun d => d.ctx == c.ctx && decide (d.id < c.id)) = [] := by decide

/-- A fetch-operation on a device address that may be read and written. -/
theorem test_w_fetchAdd : let s := { launches 0 with cores := [(0, { Core.init with copies := [command 11 0x1000 0 16 0 true] })] }
    (match (s.page (s.copyVia (command 11 0x1000 0 16 0 true)) .atom .add 0x1000).2 with
      | .ok x => x.paOf 0x1000 == 0x40001000 && !x.isValue | _ => false) = true ∧
    s.poisonAt 0x40001000 8 = none := by decide

/-- A copy of one granule into ring 0 of four panels of one granule, the first of which it has claimed; `n` of them are taken. -/
def filling (n : W32) : State :=
  let c := { command 0 (2 ^ 62) (2 ^ 62 + 256) 16 0 true with c := BitVec.ofNat 64 (2 ^ 48), claim := n }
  (engine [c]).upCtx 0 fun x => { x with rings := x.rings.set! 0 ⟨true, 0, 1, 4, 0, n, n + 1, []⟩ }

set_option maxRecDepth 20000 in
theorem test_w_panelRoom : ∀ c ∈ ((filling 3).core 0).copies, c.started = true ∧ c.ringOf = some 0 ∧ (filling 3).killed c.kid = false ∧
    c.shape = none ∧ c.len = 16 ∧ c.off = 0 ∧ endpOf c.b = .loc 256 ∧ (c.claim - (((filling 3).ctx 0).ring 0).head).toNat < (((filling 3).ctx 0).ring 0).cap ∧
    (((filling 3).ctx 0).ring 0).psize = 1 ∧ ((filling 3).core 0).spPoisoned 256 16 = false ∧ (filling 3).pinnedAt 0 48 16 = false ∧
    (filling 3).checker 0 48 = none := by decide

set_option maxRecDepth 20000 in
theorem test_w_noPanelRoom : ∀ c ∈ ((filling 4).core 0).copies, (((filling 4).ctx 0).ring 0).cap ≤ (c.claim - (((filling 4).ctx 0).ring 0).head).toNat ∧
    (filling 4).podSrc c = false := by decide

/-- A send of 16 bytes on ring 1023 that only the header is left of; slot `n` is its. -/
def landing (n : W32) : State :=
  let c := { command 0x33 (2 ^ 63 + 2 ^ 48) (2 ^ 62) 16 16 true with slot := some (1023, n), wr := 16 }
  let s := (withRing true 2).upCore 0 fun k => { k with copies := [c] }
  { s with fab := { s.fab with rtA := [(1, 0x800001)] } }

theorem test_w_slotRoom : ((landing 1).fab.ring 1023 = some (ring true 2)) ∧ ((1 : W32) - (ring true 2).a).toNat < (ring true 2).nslot ∧
    (ring true 2).nslot ≤ ((2 : W32) - (ring true 2).a).toNat ∧ (landing 1).fab.routed (landing 1).sys.nodeid (ring true 2).peer = true ∧
    (∀ c ∈ ((landing 1).core 0).copies, c.started = true ∧ c.slot = some (1023, 1) ∧ (landing 1).killed c.kid = false ∧ c.fault = none ∧
      c.op = 0x33 ∧ c.len ≠ 0 ∧ c.len ≤ c.off ∧ c.len ≤ c.wr ∧ c.buf = [] ∧ c.got = [] ∧ c.bad = none ∧ c.parked = false ∧ c.lend.rel = false ∧
      c.unacked = 0 ∧ c.headed = false) ∧ (⟨true, 0, 1, 4, 0, 0, 2, [1]⟩ : Ring).early = [(⟨true, 0, 1, 4, 0, 0, 2, [1]⟩ : Ring).tail + 1] := by decide

/-- A signal, an arrival and a registration on their way to object 5: the registration comes behind the signal of the same handle. -/
def messages : State := { bound .none 0 with transit := [.member 5 0 3 0, .anon 5 1 none 0 (some 3), .reg 5 0 3 .handle none] }

/-- A registration alone. -/
def registering : State :=
  { bound .none 0 with transit := [.reg 5 0 3 .handle none] }.upHandle 0 3 fun q => { q with pend := .reg .sig }

theorem test_w_messages : messages.transit[0]? = some (.member 5 0 3 0) ∧ messages.transit[1]? = some (.anon 5 1 none 0 (some 3)) ∧
    messages.transit[2]? = some (.reg 5 0 3 .handle none) ∧ messages.transit[3]? = none ∧ (messages.phaser 5).pend = [] ∧
    messages.transitTurn 0 = true ∧ messages.transitTurn 2 = false ∧ ((messages.holder 0 3).map fun e => e.2.st) = some .running ∧
    Rests (Advances { Phaser.init with nsig := 1, sc0 := 1 }) ∧ Rests { Phaser.init with nsig := 1 } := by
  unfold Rests Advances; decide

/-- The holder of handle 3, running and retired. -/
theorem test_w_holder : ({ inState .placed .retired with kernels := [(1, some { kernel1 with krec := { KRec.plain with phcnt := 4 } })] } : State).holder 0 3 =
    some (0, ⟨1, 0, .retired⟩) := by decide

theorem test_w_registration : registering.transitTurn 0 = true ∧ (registering.core 0).handles[3].pend = .reg .sig ∧
    (registering.core 0).handles[3].obj = some 5 ∧ (registering.core 0).handles[3].mode = .none ∧ (registering.phaser 5).sc0 = 0 := by decide

/-- Drops: of a signalling member whose SPH is PHASE, by its handle with a signal behind and by an instance that has ended; of a member that
waits. -/
def dropping (w : RegWhat) (first : Option W32) : State :=
  { bound .wait 0 with transit := [.reg 5 0 3 w first, .member 5 0 3 0] }.upHandle 0 3 fun q => { q with pend := .drop }

theorem test_w_drops : (dropping .handle (some 0)).transitTurn 0 = true ∧ (dropping (.gone 0) (some 0)).transitTurn 0 = true ∧
    ((dropping .handle none).phaser 5).pend = [] ∧ ((dropping .handle none).phaser 5).phase = 0 ∧
    ((dropping .handle none).core 0).handles[3].mode = .wait ∧ ((dropping .handle none).core 0).handles[3].pend = .drop ∧
    ((dropping .handle none).core 0).handles[3].obj = some 5 ∧ Rests { Phaser.init with nsig := 2, sc0 := 1 } := by unfold Rests; decide

/-- Context 0 with MXGO over `ringed` at the head of its queue, its core's claim, and its panels filled. -/
def multiplies (chunk : Nat) (full : Bool) : State :=
  let s := ringed.upCtx 0 fun c => { c with
    rings := c.rings.set! 0 ⟨true, 0, 32, 4, 0, if full then 4 else 0, 4, []⟩
    mxq := [⟨.go shadow, none, true, chunk, List.replicate 256 0, true, [], []⟩] }
  { s.upCore 0 fun k => { k with claim := some 0 } with groups := [(0, ⟨some ⟨0, 1, 0⟩, 0, []⟩)] }

set_option maxRecDepth 20000 in
theorem test_w_matrixRuns : run.draining 0 = none ∧ (run.group 0).run = none ∧ (multiplies 0 true).requester 0 = some 0 ∧
    ((multiplies 0 true).group 0).run = some ⟨0, 1, 0⟩ ∧ (multiplies 0 true).runOver 0 = false ∧ run.servedOp 0 = none ∧
    ((multiplies 0 true).servedOp 0).map (·.1) = some 0 ∧ mxKP shadow = 1 ∧
    (takePanels ((multiplies 0 false).ctx 0) ⟨.go shadow, none, true, 0, [], true, [], []⟩ shadow).isNone = true ∧
    ((takePanels ((multiplies 0 true).ctx 0) ⟨.go shadow, none, true, 0, [], true, [], []⟩ shadow).map (·.2.2.2)) = some none ∧
    16 * mxTcolb shadow + min 256 (mxN shadow) ≤ 256 ∧ (List.replicate 256 (0 : W32)).length = mxM shadow * mxN shadow ∧
    (∀ j, j < 32 → mxPat shadow (j % mxPlen shadow) = 0) ∧
    (multiplies 0 true).scaleMiss 0 ⟨.go shadow, none, true, 0, [], true, [], []⟩ shadow = none ∧
    (multiplies 0 true).recPoison 0 ⟨.go shadow, none, true, 0, [], true, [], []⟩ shadow[4] (mxM shadow) 0 = false := by decide

/-- The same operation over scale table 1 of one record for operand A. -/
def scaled : State := (multiplies 0 true).upCtx 0 fun c => { c with
  mxq := [⟨.go (shadow.set! 4 0x41), none, true, 0, List.replicate 256 0, true, [], []⟩], sctab := [(1, some ⟨0, 1, 1⟩)] }

set_option maxRecDepth 20000 in
theorem test_w_scaleMiss : (scaled.servedOp 0).map (·.1) = some 0 ∧ bitOf (0x41 : W64) 6 = true ∧ (0x41 : W64).toNat % 64 = 1 ∧
    (scaled.ctx 0).sctab.get none 1 = some ⟨0, 1, 1⟩ ∧ (scaled.group 0).scache = [] ∧ (scaled.core 0).spPoisoned 0 2 = false ∧
    (scaled.ctx 0).sctab.get none 2 = none ∧
    (scaled.scaleMiss 0 ⟨.go (shadow.set! 4 0x41), none, true, 0, [], true, [], []⟩ (shadow.set! 4 0x41)).isSome = true := by decide

theorem test_w_matrixEnds : ({ multiplies 0 true with groups := [(0, ⟨some ⟨0, 1, 65536⟩, 0, []⟩)] } : State).runOver 0 = true ∧
    ({ multiplies 0 true with groups := [] } : State).draining 0 = some 0 := by decide

/-- Tile commands on a region of one row and four columns; a join that waits for nothing. -/
theorem test_w_tileCommands : (regionOf 0).map (fun r => (r.trow, r.nrows, r.tcol, r.ncols)) = some (0, 1, 0, 4) ∧ regionBytes 0 false = 16 ∧
    (run.core 0).spPoisoned 0 16 = false ∧ (run.core 0).tilePoisoned 0 0 4 = false ∧ (run.ctx 1).gmode ≠ 2 ∧ (run.ctx 0).gmode ≠ 2 ∧
    (let s := { priv with kernels := run.kernels, ctxs := [(0, ctx0), (2, { ctx0 with join := .pending 0 })], cores := [(1, { Core.init with claim := some 2 })] }
     (s.ctx 2).join = .pending 0 ∧ (s.core (coreOf 2)).claim = some 2 ∧ s.kidOf 2 = s.kidOf 0) := by decide

/-! ### Flits -/

/-- A flit for node `dst` of a type, with a payload, sealed, on the link (0, 0). -/
def flitOf (dst : BitVec 13) (type : Fin 16) (addr : Addr) (bs : List Byte) : Flit :=
  sealFlit { dst := dst, hc := 0, ord := false, src := 1, pkey := 7, type := type, opx := 0, addr := addr, tag := 9, payload := bs, lseq := 0 }

theorem test_w_intact : flitIntact (flitOf 0 0 0xFFFF [1]) = true ∧ flitIntact (flitOf 0 0 0 (List.replicate 225 0)) = false :=
  ⟨sealFlit_intact _ (by decide), long_not_intact _ (show 224 < (List.replicate 225 (0 : Byte)).length by rw [List.length_replicate]; decide)⟩

/-- The fabric with export window 63 over the memory of the placed program, which may be written. -/
def exported : State :=
  { launches 0 with fab := fabOn.fab, sys := { (launches 0).sys with exports := [(63, ⟨true, true, true, true, 0, 0, 1⟩)] } }

theorem test_w_flitTurnedAway : (flitOf 0 6 0 []).type ≠ 0 ∧ ¬((flitOf 2 0 0 []).dst = fabOn.sys.nodeid) ∧ (flitOf 0 7 0 []).type.val < 8 ∧
    (flitOf 0 0 0 []).dst = fabOn.sys.nodeid ∧ fabOn.fab.portOn 0 = true ∧ fabOn.fab.portOn 1 = false ∧ fabOn.listens 0 0 = true ∧
    fabOn.listens 0 127 = false ∧ ({ flitOf 0 0 0 [] with lseq := 1 } : Flit).lseq ≠ (fabOn.fab.link 0).rx ∧ (flitOf 0 0 0 []).hc ≠ 3 := by decide

/-- A flit of a reserved type, whole. -/
theorem test_w_reserved : ComesIn exported 0 0 (flitOf 0 7 0 []) ∧ (flitOf 0 7 0 []).dst = exported.sys.nodeid :=
  ⟨⟨by decide, by decide, sealFlit_intact _ (by decide), by decide, by decide, by decide, by decide⟩, by decide⟩

/-- The last byte of a page; a page that no window covers. -/
theorem test_w_flitPerformed : Arrives exported 0 0 (flitOf 0 0 0xFFFF [1]) ∧
    (∃ x, LetsIn exported (flitOf 0 0 0xFFFF [1]) .wr .write x ∧ exported.poisonAt (x.paOf 0xFFFF) 1 = none) ∧ 0xFFFF % 65536 + 1 ≤ 65536 ∧
    exported.window 0x10000 = none ∧ exported.fab.keyOk 7 = true ∧ exported.fab.verdicts = [] := by
  refine ⟨⟨⟨by decide, by decide, sealFlit_intact _ (by decide), by decide, by decide, by decide, by decide⟩, by decide, by decide⟩,
    ⟨⟨0, 2 ^ 30, 0x40000000, true, true, false, false, false, false, 0, 0⟩, ⟨by decide, ?_, ⟨_, rfl, rfl, rfl⟩, by decide⟩, by decide⟩,
    by decide, by decide, by decide, by decide⟩
  intro v h
  exact nomatch h

theorem test_w_flitAtomic : ∃ x, LetsIn exported (flitOf 0 8 0x100 (natLe 4 1)) .add .atom x ∧ exported.poisonAt (x.paOf 0x100) 4 = none :=
  ⟨⟨0, 2 ^ 30, 0x40000000, true, true, false, false, false, false, 0, 0⟩, ⟨by decide, fun v h => (nomatch h), ⟨_, rfl, rfl, rfl⟩, by decide⟩, by decide⟩

theorem test_w_flitRead : ∃ x, LetsIn exported (flitOf 0 1 0x100 (natLe 4 0)) .rd .read x ∧ exported.firstPoison (x.paOf 0x100) 4 = none :=
  ⟨⟨0, 2 ^ 30, 0x40000000, true, true, false, false, false, false, 0, 0⟩, ⟨by decide, fun v h => (nomatch h), ⟨_, rfl, rfl, rfl⟩, by decide⟩, by decide⟩

/-- A command that has asked node 1 for its one granule. -/
def asked : Copy := { command 0 (2 ^ 62) (2 ^ 63 + 2 ^ 48) 16 0 true with id := 9, unacked := 1, asked := [(0, 16)] }
def asking : State := { engine [asked] with fab := fabOn.fab }

set_option maxRecDepth 20000 in
theorem test_w_flitAnswered : asking.byTag 1 9 = some asked ∧ fabOn.byTag 1 9 = none ∧ asked.asked = [(0, 16)] ∧ asked.wr = 0 ∧
    asked.buf = [] ∧ asked.got = [] ∧ asked.bad = none ∧ endpOf asked.a = .loc 0 ∧ 0 + 16 ≤ asked.len ∧ asked.shape = none ∧ asked.ringOf = none ∧
    asking.pinnedAt 0 0 16 = false ∧ asking.checker 0 0 = none ∧ (asking.srcPlace asked 0).1 = .pod 1 0 := by decide

/-- A receive ring over memory that may be written; the header of message 1, and its data. -/
theorem test_w_flitLand : (withRing true 0).fab.ring 0 = none ∧ ((1 : W32) - (ring false 0).a).toNat < (ring false 0).nslot ∧
    (((launches 0).walkFor 0 false .write (0x10000 + 256 * 1 + 0)).isOk = true) ∧ (0x10100 % 65536 + 16 ≤ 65536) ∧ 240 + 16 ≤ (ring false 0).slotsz ∧
    (16 : Nat) ≤ 16 ∧ (launches 0).poisonAt 0x40010100 16 = none := by decide

theorem test_w_flitLink : fabOn.fab.portOn 1 = false ∧ fabOn.fab.routed 0 2 = false ∧
    ({ fabOn with fab := { fabOn.fab with rtA := [(1, 0x800001)] } } : State).fab.routed 0 1 = true ∧ (fabOn.fab.link 0).due = false ∧
    ({ Link.init with unack := 1 } : Link).due = true ∧ fabOn.xferOf 1 9 = none := by decide

/-- A flit for node 1 that waits, at tick 48 of a slot in which the peer of link (0, 0) is in step; it has waited for 2²⁰ counts. One more has
been sent on the link, again to be sent or not. -/
def sending (again : Bool) : State :=
  { fabOn with
    sys := { fabOn.sys with sidt := 0x100030 }
    fab := { fabOn.fab with
      rtA := [(1, 0x800001)], nodeSync := [(1, true)], links := [(0, { Link.init with peer := some 1 })]
      outq := [⟨.reply 0, flitOf 1 2 0 [], 0⟩], store := [⟨.reply 0, flitOf 1 2 0 [], some 0, 0, 0, 0, again⟩] } }

theorem test_w_flitSend : (sending false).opportunity 0 0 = some (ephWord 0 1 0, 1) ∧ (sending false).opportunity 0 1 = none ∧
    (sending false).ownerLive (.reply 0) = true ∧ (sending false).ownerLive (.copy 0 9) = false ∧ (sending false).fab.outq[1]? = none ∧
    0 < ((sending false).fab.link 0).free 0 ∧ (sending false).mayGo ⟨.reply 0, flitOf 1 2 0 [], 0⟩ 0 0 (ephWord 0 1 0) 1 = true ∧
    1000000 ≤ (sending false).sys.sidt.toNat ∧ (sending false).pathTo 2 0 false = false ∧ (sending false).pathTo 1 0 false = true ∧
    ((sending false).linkWork 0 0 0 1).isNone = true ∧ ((sending true).fab.resend 0).isSome = true ∧
    (sending false).canLeave (.performed 1 9 1 none) = true ∧ fabOn.canLeave (.performed 1 9 1 none) = false ∧
    (sending false).canGo (flitOf 1 2 0 []) = true ∧ (sending false).canGo (flitOf 2 2 0 []) = false ∧
    (sending false).ordPathOf { flitOf 1 0 0 [] with ord := true, hc := 2 } < 16 ∧ (sending false).fab.directPorts 0 1 ≠ [] := by decide

/-- Link (0, 0) has announced a run of one flit of link 5, which waits; the flit is still to go, whatever has been acknowledged. -/
def replaying : State :=
  { sending false with fab := { (sending false).fab with
    links := [(0, { Link.init with peer := some 1, out := some (5, 3, 1) })], store := [⟨.reply 0, flitOf 1 2 0 [], none, 0, 5, 3, false⟩] } }

set_option maxRecDepth 20000 in
theorem test_w_replaySent : (replaying.fab.link 0).out = some (5, 3, 1) ∧ 0 < (replaying.fab.link 0).free 0 ∧
    ((replaying.fab.waiting 5).find? fun u => u.olseq == 3).isSome = true ∧ (replaying.fab.store.all replaying.fab.announced) = true ∧
    ((sending false).fab.store.any (sending false).fab.announced) = false ∧ replaying.opportunity 0 0 = some (ephWord 0 1 0, 1) ∧
    ({ asking with fab := (sending false).fab } : State).copyId 0 9 = some asked := by decide

/-! ### Collectives, time, leases, repairs -/

/-- Ticket 63 as it stands after an admission that `group` knows. -/
def admitted : State :=
  { bound .none 0 with orreries := [(0, { Orrery.init with
    tickets := [(63, some { ticket1 with admitted := true, admits := [0], group := [(1, 0)], since := 0 })] })] }

theorem test_w_collectiveMessages : (held63.orrery 0).holds 9 0 = some 63 ∧ ((held63.orrery 0).ticket 63) = some ticket1 ∧ ticket1.admitted = false ∧
    (run.orrery 0).holds 9 0 = none ∧ (admitted.orrery 0).holds 9 0 = some 63 ∧ (0 :: ticket1.dones).length = ticket1.coll.gsize := by decide

/-- A ticket that waits for more than 10 ms; a group table that names the node itself. -/
theorem test_w_collectiveAdmission : ({ held63 with sys := { held63.sys with sidt := 10000000 } } : State).sys.sidt.toNat = 10000000 + ticket1.since.toNat ∧
    ticket1.admits.length < ticket1.coll.gsize ∧ 0 + ticket1.coll.stage ≤ 2 ^ 21 ∧
    (State.gRead (.walk 0 false) 2 (launches 0) 0 2).2.2 = .ok () ∧ groupOfBytes [0, 0] = [(0, 0)] ∧ groupReserved [0, 0] = false ∧
    groupReserved [0, 0x80] = true := by decide

/-- A message that waits for the slot of message 0, for node 1; staging that is all in use; an earlier copy of the same context. -/
theorem test_w_collectiveSlots : let v : Ticket := { ticket1 with waiting := [(ticket1.coll.rxslot, [])], group := [(1, 0)] }
    v.group.getD (v.coll.peer (0 + v.coll.rxslot)) (0, 0) = (1, 0) ∧ (sending false).fab.routed (sending false).sys.nodeid 1 = true ∧
    (1 : BitVec 13) ≠ run.sys.nodeid ∧ (∀ e ∈ ticket1.waiting, e.1 ≠ 0 + ticket1.coll.rxslot) ∧ ticket1.announced = true ∧
    2 ^ 21 < 2 ^ 21 + ticket1.coll.stage ∧ ({ ticket1 with announced := false } : Ticket).announced = false ∧
    ∃ d ∈ ((engine [command 0 0 0 16 0 true]).core 0).copies, d.ctx = ticket1.ctx ∧ d.id < ({ ticket1 with id := 9 } : Ticket).id := by decide

theorem test_w_collectiveTransfer : let c := ticket1.coll
    c.peer 0 ∈ [0] ∧ 0 < (c.levels.map (·.bound)).foldl (· * ·) 1 ∧ c.act = 0 ∧ c.len ≤ 224 ∧ c.dst 0 % 65536 + c.len ≤ 65536 ∧ c.len ≠ 0 := by decide

theorem test_w_time : State.reset.slot ≠ 63 ∧ ({ run with sys := { run.sys with sidt := 63 * 1024 } } : State).slot = 63 ∧ run.fab.sync = false ∧
    fabOn.fab.sync = true ∧ fabOn.fab.portOn 0 = true ∧ fabOn.fab.portOn 1 = false ∧ ({ run with sys := { run.sys with sidt := 11 * 1024 } } : State).slot ≤ 11 ∧
    11 < ({ run with sys := { run.sys with sidt := 12 * 1024 } } : State).slot ∧ fabOn.fab.lineTo 0 0 1 = some 0 := by decide

/-- Node 1 is a peer of port 0; node 2 of none. -/
theorem test_w_peers : (fabOn.fab.lineTo fabOn.sys.nodeid 0 1).isSome = true ∧
    ((List.range 16).all fun q => (fabOn.fab.lineTo fabOn.sys.nodeid q 2).isNone) = true := by decide

/-- The port of the lease is asking, in effect, over; a port that the lease has not. -/
theorem test_w_leasePorts : ((leased .requesting).leasePort 255 0).map (·.2.st) = some .requesting ∧ (leased .requesting).leasePort 255 1 = none ∧
    ((leased .over).leasePort 255 0).map (·.2.st) = some .over ∧ (port0 .requesting).sent ≠ none ∧ (port0 .requesting).retry ≠ 0 ∧
    (port0 .requesting).fin = none ∧ (port0 .requesting).held = false ∧ (0 : W64).toNat + 16000 ≤ (16000 : W64).toNat ∧
    (port0 .requesting).sent = some 0 ∧ (0 : W64).toNat + 16000 < (16001 : W64).toNat ∧ (leased .requesting).sys.sidt.toNat ≤ (0 : W64).toNat + 16000 ∧
    ({ port0 .inEffect with fin := some (9, .repaired) } : LPort).fin ≠ none := by decide

/-- An incoming lease of two groups. -/
def incoming : Incoming :=
  { src := 1, lid := 255, sport := 15, rport := 0, line := 0, groups := 3, pkey := 7, eff := 0, fin := 3, seq := 0, via := none, held := true, onward := none }
def receiving : State := { fabOn with fab := { fabOn.fab with incoming := [incoming] } }

theorem test_w_leaseNotices : receiving.fab.incomingOf 1 255 15 = some incoming ∧ receiving.fab.incomingOf 1 255 14 = none ∧ (1 : BitVec 13) ≠ receiving.sys.nodeid ∧
    receiving.frame + 2 < incoming.fin ∧ 1 < popCount incoming.groups ∧ (leased .over).fab.lease 0 = none ∧ (withRing true 0).fab.ring 0 = none ∧
    ((0 : W32) - (ring true 0).a).toNat ≤ (ring true 0).nslot ∧ (0x80000000 : W32).getLsbD 31 = true := by decide

/-- Two incoming leases of three groups each of the same source and port, the second the younger; an exchange that this node forwards, a
request that it has collected. -/
def twoLeases : State :=
  { fabOn with fab := { fabOn.fab with incoming := [{ incoming with groups := 7, seq := 1 }, { incoming with lid := 254, groups := 56, seq := 2 }] } }
def request1 : LeaseReq :=
  { src := 1, dst := 2, lid := 255, sport := 15, rport := 0, line := 0, qpp := 1, offer := 1, gmask := 0, pkey := 7, age := 0, order := 0, frames := 1, via := none }
def forwarding : State := { fabOn with fab := { fabOn.fab with fwds := [⟨request1, 0, 0, none, none, 0, false⟩], reqs := [request1] } }

theorem test_w_moreNotices : twoLeases.frame + 2 < 3 ∧ 3 < popCount (7 : BitVec 6) + popCount (56 : BitVec 6) ∧ popCount (7 : BitVec 6) ≤ 3 ∧
    min 6 ((3 : W32).toNat % 8) = 3 ∧ twoLeases.fab.ctlq = [] ∧ (forwarding.fab.fwds.find? fun x => x.about 1 255 15).isSome = true ∧
    (fabOn.fab.fwds.find? fun x => x.about 1 255 15) = none ∧
    ({ incoming with onward := some (2, 0, 0) } : Incoming).onward ≠ none ∧ fabOn.frame + 2 ≤ 2 ∧ ¬ fabOn.frame + 2 ≤ 1 ∧
    (forwarding.fab.reqs.any fun q => q.src == 1 && q.lid == 255 && q.sport == 15) = true ∧ fabOn.fab.incomingOf 1 255 15 = none := by decide

/-- Line 0 of port 0 is in use; a repair of it that runs, and one that waits for the host since count 0. -/
def repairing (waiting : Bool) : State :=
  { fabOn with fab := { fabOn.fab with repairs := [⟨0, 0, none, 0, waiting, false, 0, false⟩], spcDark := [(0, true)] } }

theorem test_w_repairs : fabOn.fab.dark.get false 0 = false ∧ fabOn.fab.ownLine fabOn.frame 0 0 = some 0 ∧ fabOn.sys.sysmode.getLsbD 1 = false ∧
    fabOn.fab.lineLit 0 64 = true ∧ fabOn.fab.spcDark.get false 0 = false ∧ ((repairing true).fab.awaiting 0 0).isSome = true ∧
    (repairing false).fab.awaiting 0 0 = none ∧ (repairing false).fab.spcDark.get false 0 = true ∧ fabOn.fab.spareFree 0 34 = true ∧
    fabOn.fab.spareFree 0 16 = true ∧ fabOn.fab.unlocked.get false 35 = false ∧ (fabOn.fab.plays fabOn.frame 0 0) = some 0 ∧
    fabOn.fab.ownLine fabOn.frame 0 (64 % 64) ≠ some 64 ∧ fabOn.frame < 1 := by decide

/-- A repair of line 64 that waits for the host; the emitter 0 that waits; what has come from a fourth port of the die. -/
theorem test_w_moreRepairs : let s : State := { fabOn with fab := { fabOn.fab with repairs := [⟨0, 64, none, 0, true, true, 0, false⟩] } }
    let e : State := { fabOn with fab := { fabOn.fab with repairs := [⟨0, 0, some 0, 0, true, true, 0, false⟩] } }
    (s.fab.awaiting 0 0).map (·.line) = some 64 ∧ Powered s 0 0 ∧ Powered s 0 64 ∧ s.fab.spareFree 0 16 = true ∧
    (e.fab.awaiting 0 0).map (·.chan) = some (some 0) ∧ e.fab.serves e.frame 0 0 = 0 ∧ (3 : Nat) / 4 = (0 : Fin 16).val / 4 ∧
    s.fab.plays s.frame 0 16 = none := by unfold Powered; decide

theorem test_w_lossOfSignal : let s := sending false
    s.fab.portOn 0 = true ∧ ephUse (s.fab.active 0 s.slot 18) ≠ 0 ∧
    (s.fab.link (64 * 0 + ephLine (s.fab.active 0 s.slot 18) % 64)).peer.any s.heard = true ∧ s.fab.los.get false 18 = false ∧
    s.concernedIn 0 (ephLine (s.fab.active 0 s.slot 18)) = [1] ∧ s.fab.sync = true ∧ s.tellable 1 = true ∧ s.concerned 0 0 = [1] := by decide

/-- Line 0 of port 0 has lost its light, and its restripe is to come. -/
theorem test_w_restripes : ({ fabOn.fab with lol := [(0, 0, fabOn.ev 1)] } : Fabric).lol = [((0 : Fin 16).val, (0 : Fin 128).val, fabOn.ev 1)] ∧
    Powered fabOn 0 64 := by unfold Powered; decide

/-! ### The machine as a whole -/

theorem test_w_turn : TurnOf nops 0 ∧ (nops.tick 0).atHalt 0 = false ∧ (nops.tick 0).slackOver 0 = false := by unfold TurnOf; decide

/-- NOP stands at the pc; an agenda lists a happening; D3. -/
theorem test_w_atPc : AtPc (nops.tick 0) ((nops.tick 0).packet 0 0).1 0 .nop [0x80000000] 4 :=
  ⟨List.replicate 8 0x80000000, by
    have h : ((nops.tick 0).packet 0 (((nops.tick 0).ctx 0).pc.toNat / 32 * 32)).2 = .ok (List.replicate 8 0x80000000) := by decide
    exact Prod.ext rfl h, by decide, by decide, by decide, by decide, by decide⟩

theorem test_w_agenda : ({ run with agenda := [.slotBoundary] } : State).agenda = [.slotBoundary] ∧ (wordEff .slotBoundary).isSome = false ∧
    ({ run with sys := { run.sys with d3 := true } } : State).sys.d3 = true ∧ run.agenda = [] := by decide

/-- Right after the program is placed, a step answers a next state, from a memory in its canonical form. -/
theorem test_w_step : nops.canonical ∧ (match step nops with | .next _ => true | _ => false) = true := by unfold State.canonical; decide

theorem test_w_encode : (Instr.addi 3 1 1046527).wf = true ∧ Named (.addi 3 1 1046527) ∧ (encode (.addi 3 1 1046527)).length = 2 ∧
    ((Instr.addi 3 1 1046527).info.map fun x => (selsBad x.sels, x.endOff)) = some (false, none) ∧
    ((Instr.loop 3 2).info.bind (·.endOff)) = some 2 ∧ (encode (.loop 3 2)).length ≤ 2 := by
  refine ⟨by decide, trivial, by decide, by decide, by decide, by decide⟩
end Sys2Proof.Tests
end

section
/-! SUPPORT. What the host reads and writes through the BARs, the power states and the end of the interrupt hold-off: the cells of BAR0
that a register access touches, the window of BAR2, and the statement about them (17 R381 to R388). -/

namespace Sys2Proof.Machine

/-! ## Memory and the BAR2 window -/

/-- A read of memory, byte by byte. -/
theorem memRd_eq_map (m : SMap Byte) (pa n : Nat) : memRd m pa n = (List.range n).map fun j => m.get memDefault (pa + j) := by
  induction n generalizing pa with
  | zero => rfl
  | succ n ih =>
    simp only [memRd, ih, List.range_succ_eq_map, List.map_cons, List.map_map, Nat.add_zero]
    congr 2
    funext j
    simp only [Function.comp_apply, Nat.succ_eq_add_one, Nat.add_assoc, Nat.add_comm 1 j]

theorem State.rd_eq_map_byte (s : State) (pa n : Nat) : s.rd pa n = (List.range n).map fun j => s.byte (pa + j) := memRd_eq_map _ _ _

/-- A BAR access changes the power state only: the window and what lies behind it stay. -/
@[simp] theorem State.bar2Pa_barAccess (s : State) (off n : Nat) : s.barAccess.bar2Pa off n = s.bar2Pa off n := rfl
@[simp] theorem State.poisonAt_barAccess (s : State) (pa n : Nat) : s.barAccess.poisonAt pa n = s.poisonAt pa n := rfl
@[simp] theorem State.byte_barAccess (s : State) (pa : Nat) : s.barAccess.byte pa = s.byte pa := rfl

/-- The window of BAR2 takes `n` bytes at offset `off`: they lie in the BAR and in HBM, and in no secure carve-out (17 R381, R388). -/
def State.InBar2 (s : State) (off n : Nat) : Prop :=
  off + n ≤ 2 ^ (30 + Config.barLog.val) ∧ s.sys.w2base.toNat + off + n ≤ 2 ^ 39 ∧
    s.carveSecure (s.sys.w2base.toNat + off) = false ∧ s.carveSecure (s.sys.w2base.toNat + off + n - 1) = false

theorem State.bar2Pa_of_inBar2 {s : State} {off n : Nat} (h : s.InBar2 off n) :
    s.bar2Pa off n = some (s.sys.w2base.toNat + off) := by
  obtain ⟨hbar, hhbm, hfirst, hlast⟩ := h
  exact if_neg (by simp only [hfirst, hlast, Nat.not_lt.2 hbar, Nat.not_lt.2 hhbm, Bool.false_eq_true, or_self, not_false_eq_true])

theorem State.bar2Pa_of_not_inBar2 {s : State} {off n : Nat} (h : ¬ s.InBar2 off n) : s.bar2Pa off n = none := by
  refine if_pos ?_
  simpa only [State.InBar2, not_and_or, Nat.not_le, Bool.not_eq_false] using h

/-! ## Reading a register -/

/-- The little-endian bytes of a number, one by one. -/
theorem natLe_eq_map (n x : Nat) : natLe n x = (List.range n).map fun j => BitVec.ofNat 8 (x / 2 ^ (8 * j)) := by
  induction n generalizing x with
  | zero => rfl
  | succ n ih =>
    simp only [natLe, ih, List.range_succ_eq_map, List.map_cons, List.map_map, Nat.mul_zero, Nat.pow_zero, Nat.div_one]
    congr 2
    funext j
    simp only [Function.comp_apply, Nat.succ_eq_add_one, Nat.mul_add, Nat.mul_one, Nat.pow_add, Nat.div_div_eq_div_mul,
      Nat.mul_comm (2 ^ (8 * j))]

/-- Cell `i` of the block of queue `q` (03 R44). -/
theorem State.regCell_queue (s : State) (q : Fin 64) {i : Nat} (hi : i < 8) :
    s.regCell (0x100000 + 64 * q.val + 8 * i) = s.ofQueue q.val ((s.queue q.val).cell i) := by
  have hq := q.isLt
  have hcell : (0x100000 + 64 * q.val + 8 * i) % 64 / 8 = i := by omega
  have hqueue : (0x100000 + 64 * q.val + 8 * i - 0x100000) / 64 = q.val := by omega
  have hin : (decide (0x100000 ≤ 0x100000 + 64 * q.val + 8 * i) &&
      decide (0x100000 + 64 * q.val + 8 * i < 0x100000 + 0x1000)) = true := by
    simp only [Bool.and_eq_true, decide_eq_true_eq]; omega
  simp only [State.regCell, if_pos hin, hcell, hqueue]

theorem Queue.cfg_lt (k : Queue) : k.cfg < 2 ^ 32 := by
  have := k.log2n.isLt
  have := k.qprio.isLt
  unfold Queue.cfg b2n
  cases k.src <;> cases k.en <;> simp only [cond_true, cond_false] <;> omega

/-- QTAIL is the high half of its cell. -/
theorem State.ofQueue_tail (s : State) (q j : Nat) (k : Queue) :
    s.ofQueue q (k.cell 1) / 2 ^ (8 * (4 + j)) = s.ofQueue q k.tail.toNat / 2 ^ (8 * j) := by
  have hhigh : k.cell 1 / 2 ^ 32 = k.tail.toNat := by
    have := k.cfg_lt
    change (k.cfg + 2 ^ 32 * k.tail.toNat) / 2 ^ 32 = _
    omega
  rw [Nat.mul_add, Nat.pow_add, ← Nat.div_div_eq_div_mul]
  unfold State.ofQueue
  split
  · simp only [Nat.zero_div]
  · rw [hhigh]

/-- The bytes of QTAIL. -/
theorem State.regByte_qtail (s : State) (q : Fin 64) {j : Nat} (hj : j < 4) :
    s.regByte (0x10000C + 64 * q.val + j) = BitVec.ofNat 8 (s.ofQueue q.val (s.queue q.val).tail.toNat / 2 ^ (8 * j)) := by
  have hcell : (0x10000C + 64 * q.val + j) / 8 * 8 = 0x100000 + 64 * q.val + 8 * 1 := by omega
  have hbyte : (0x10000C + 64 * q.val + j) % 8 = 4 + j := by omega
  rw [State.regByte, hcell, hbyte, s.regCell_queue q (by omega), State.ofQueue_tail]

/-- A read of QTAIL brings its four bytes. -/
theorem State.regBytes_qtail (s : State) (q : Fin 64) :
    ((List.range 4).map fun j => s.regByte (0x10000C + 64 * q.val + j)) = natLe 4 (s.ofQueue q.val (s.queue q.val).tail.toNat) := by
  rw [natLe_eq_map]
  exact List.map_congr_left fun j hj => s.regByte_qtail q (List.mem_range.1 hj)

/-! ## Writing a register -/

/-- The mask of a write has the bits of the bytes written. -/
theorem byteMask_getLsbD_iff (o off n : Nat) {i : Nat} (hi : i < 64) :
    (byteMask o off n).getLsbD i = true ↔ off ≤ o + i / 8 ∧ o + i / 8 < off + n := by
  rw [byteMask, maskOfFn_getLsbD _ _ hi, Bool.and_eq_true, decide_eq_true_eq, decide_eq_true_eq]

theorem merge_getLsbD_of_mask (old : Nat) (v m : W64) {i : Nat} (hm : m.getLsbD i = true) :
    (merge old v m).getLsbD i = v.getLsbD i := by
  simp [merge, hm]

/-- A write of a whole cell leaves nothing of the old word. -/
theorem merge_byteMask_cell (o old : Nat) (v : W64) : merge old v (byteMask o o 8) = v :=
  BitVec.eq_of_getLsbD_eq fun _ hi => merge_getLsbD_of_mask old v _ ((byteMask_getLsbD_iff o o 8 hi).2 (by omega))

/-- A write of the low half of a cell, seen in bits of that half. -/
theorem merge_byteMask_lowHalf (o old w : Nat) (v : W64) (hw : w ≤ 32) :
    (merge old v (byteMask o o 4)).setWidth w = v.setWidth w := by
  refine BitVec.eq_of_getLsbD_eq fun i hi => ?_
  have hmask := (byteMask_getLsbD_iff o o 4 (show i < 64 by omega)).2 (by omega)
  rw [BitVec.getLsbD_setWidth, BitVec.getLsbD_setWidth, merge_getLsbD_of_mask old v _ hmask]

/-- What a write of the high half of a cell carries is all of the shifted word. -/
theorem and_byteMask_highHalf (o : Nat) (v : W64) : (v <<< 32) &&& byteMask o (o + 4) 4 = v <<< 32 := by
  refine BitVec.eq_of_getLsbD_eq fun i hi => ?_
  rw [BitVec.getLsbD_and]
  by_cases hhigh : 32 ≤ i
  · rw [(byteMask_getLsbD_iff o (o + 4) 4 hi).2 (by omega), Bool.and_true]
  · simp only [BitVec.getLsbD_shiftLeft, decide_eq_true (Nat.not_le.1 hhigh), Bool.not_true, Bool.and_false, Bool.false_and]

/-- The lowest four bits of a word's high half. -/
theorem bf_shiftLeft_highHalf (v : W64) : BitVec.ofNat 4 (bf (v <<< 32) 32 4) = v.setWidth 4 := by
  refine BitVec.eq_of_toNat_eq ?_
  simp only [bf, BitVec.toNat_ofNat, BitVec.toNat_shiftLeft, BitVec.toNat_setWidth, Nat.shiftLeft_eq]
  omega

/-- A write that stays within one cell. -/
theorem execRegisterWrite_within (r : RegAt) (n : Nat) (v : W64) (s : State) (h : r.off % 8 + n ≤ 8) :
    execRegisterWrite r n v s = .next ((s.regAccess r.zenith).writeCell (r.off / 8 * 8) (v <<< (8 * (r.off % 8)))
      (byteMask (r.off / 8 * 8) r.off n) r.zenith) := by
  have hn : min n 8 = n := by omega
  simp only [execRegisterWrite, hn, if_neg (Nat.not_lt.2 h)]

/-- Cell `i` of the block of queue `q` (03 R45). -/
theorem State.writeCell_queue (s : State) (q : Fin 64) {i : Nat} (hi : i < 8) (v m : W64) (z : Bool) :
    s.writeCell (0x100000 + 64 * q.val + 8 * i) v m z =
      if s.queueTakes q.val z = true then s.setQueue q.val ((s.queue q.val).write i v m) else s := by
  have hq := q.isLt
  have hcell : (0x100000 + 64 * q.val + 8 * i) % 64 / 8 = i := by omega
  have hqueue : (0x100000 + 64 * q.val + 8 * i - 0x100000) / 64 = q.val := by omega
  have hin : (decide (0x100000 ≤ 0x100000 + 64 * q.val + 8 * i) &&
      decide (0x100000 + 64 * q.val + 8 * i < 0x100000 + 0x1000)) = true := by
    simp only [Bool.and_eq_true, decide_eq_true_eq]; omega
  simp only [State.writeCell, if_pos hin, hcell, hqueue]

/-- The root of queue `q`'s page tables. -/
theorem State.writeCell_root (s : State) (q : Fin 64) (v m : W64) (z : Bool) :
    s.writeCell (0x120000 + 8 * q.val) v m z =
      if s.queueTakes q.val z = true then
        s.upSys fun y => { y with roots := y.roots.set 0 q.val (merge (y.roots.get 0 q.val).toNat v m &&& 0xFFFFFFFFF001) }
      else s := by
  have hq := q.isLt
  have hqueue : (0x120000 + 8 * q.val - 0x120000) / 8 = q.val := by omega
  have hout : ¬ (decide (0x100000 ≤ 0x120000 + 8 * q.val) && decide (0x120000 + 8 * q.val < 0x100000 + 0x1000)) = true := by
    simp only [Bool.and_eq_true, decide_eq_true_eq]; omega
  have hin : (decide (0x120000 ≤ 0x120000 + 8 * q.val) && decide (0x120000 + 8 * q.val < 0x120000 + 0x200)) = true := by
    simp only [Bool.and_eq_true, decide_eq_true_eq]; omega
  simp only [State.writeCell, if_neg hout, if_pos hin, hqueue]

/-- SYSMODE is the host's alone (17 R383, R388). -/
theorem State.writeCell_sysmode (s : State) (v m : W64) (z : Bool) :
    s.writeCell 0x170000 v m z =
      if z = true then s else s.upSys fun y => { y with sysmode := (merge y.sysmode.toNat v m).setWidth 5 } := by
  cases z <;> rfl

/-- The queue whose world bit is `z` takes the writes of the writer `z`, also after the access has woken the device. -/
theorem State.queueTakes_regAccess (s : State) (q : Nat) (z z' : Bool) : (s.regAccess z').queueTakes q z = s.queueTakes q z := by
  cases z' <;> rfl

@[simp] theorem State.queue_regAccess (s : State) (q : Nat) (z : Bool) : (s.regAccess z).queue q = s.queue q := by cases z <;> rfl

theorem State.queueTakes_eq_true_iff (s : State) (q : Nat) (z : Bool) :
    s.queueTakes q z = true ↔ s.sys.worldQueue.get false q = z := beq_iff_eq

/-! ## The end of the hold-off -/

/-- The hold-off interval is over, and no interrupt is owed. -/
def State.endHoldoff (s : State) : State := s.upSys fun y => { y with cintBusy := false, cintOwed := false }

/-- The interrupt outside a hold-off interval begins one (17 R386). -/
theorem State.cint_of_idle (s : State) (h : s.sys.cintBusy = false) :
    s.cint = s.upSys fun y => { y with msix := y.msix ++ [y.cintVec], cintBusy := y.cintHold != 0 } := by
  rw [State.cint, h]
  rfl

end Sys2Proof.Machine

namespace Sys2Proof.Claims

open Sys2Proof Sys2Proof.Machine

/-! ## Register writes (00 R7, 03 R45, 17 R383, R388) -/

theorem makes_registerWrite_within (s : State) (off n : Nat) (z : Bool) (v : W64) (h : off % 8 + n ≤ 8) :
    Makes (.registerWrite ⟨off, z⟩ n v) s
      ((s.regAccess z).writeCell (off / 8 * 8) (v <<< (8 * (off % 8))) (byteMask (off / 8 * 8) off n) z) :=
  execRegisterWrite_within ⟨off, z⟩ n v s h

theorem makes_sysmodeWrite_host (s : State) (v : W64) :
    Makes (.registerWrite ⟨0x170000, false⟩ 4 v) s (s.barAccess.upSys fun y => { y with sysmode := v.setWidth 5 }) := by
  have h := makes_registerWrite_within s 0x170000 4 false v (by decide)
  simpa [State.writeCell_sysmode, merge_byteMask_lowHalf, State.regAccess] using h

theorem makes_sysmodeWrite_zenith (s : State) (v : W64) : Makes (.registerWrite ⟨0x170000, true⟩ 4 v) s s := by
  have h := makes_registerWrite_within s 0x170000 4 true v (by decide)
  simpa [State.writeCell_sysmode, State.regAccess] using h

/-- QSAVE is cell 4 of its block, and is written whole. -/
theorem makes_qsaveWrite (s : State) (q : Fin 64) (z : Bool) (v : W64) :
    Makes (.registerWrite ⟨0x100020 + 64 * q.val, z⟩ 8 v) s
      (if s.queueTakes q.val z = true then
        (s.regAccess z).setQueue q.val { s.queue q.val with save := v.setWidth 48 } else s.regAccess z) := by
  have h := makes_registerWrite_within s (0x100020 + 64 * q.val) 8 z v (by omega)
  have hcell : (0x100020 + 64 * q.val) / 8 * 8 = 0x100000 + 64 * q.val + 8 * 4 := by omega
  have hbyte : (0x100020 + 64 * q.val) % 8 = 0 := by omega
  have hoff : 0x100020 + 64 * q.val = 0x100000 + 64 * q.val + 8 * 4 := by omega
  rw [hcell, hbyte, State.writeCell_queue _ _ (by decide), hoff, State.queueTakes_regAccess] at h
  simpa only [hoff, State.queue_regAccess, Queue.write, merge_byteMask_cell, Nat.mul_zero, BitVec.shiftLeft_zero] using h

/-- QERR is the high half of cell 2 of its block; ones clear its bits. -/
theorem makes_qerrWrite (s : State) (q : Fin 64) (z : Bool) (v : W64) :
    Makes (.registerWrite ⟨0x100014 + 64 * q.val, z⟩ 4 v) s
      (if s.queueTakes q.val z = true then
        (s.regAccess z).setQueue q.val { s.queue q.val with err := (s.queue q.val).err &&& ~~~(v.setWidth 4) } else s.regAccess z) := by
  have h := makes_registerWrite_within s (0x100014 + 64 * q.val) 4 z v (by omega)
  have hcell : (0x100014 + 64 * q.val) / 8 * 8 = 0x100000 + 64 * q.val + 8 * 2 := by omega
  have hbyte : (0x100014 + 64 * q.val) % 8 = 4 := by omega
  have hoff : 0x100014 + 64 * q.val = 0x100000 + 64 * q.val + 8 * 2 + 4 := by omega
  rw [hcell, hbyte, State.writeCell_queue _ _ (by decide), hoff, State.queueTakes_regAccess] at h
  simpa only [hoff, State.queue_regAccess, Queue.write, and_byteMask_highHalf, bf_shiftLeft_highHalf, Nat.reduceMul] using h

theorem makes_rootWrite (s : State) (q : Fin 64) (z : Bool) (v : W64) :
    Makes (.registerWrite ⟨0x120000 + 8 * q.val, z⟩ 8 v) s
      (if s.queueTakes q.val z = true then
        (s.regAccess z).upSys fun y => { y with roots := y.roots.set 0 q.val (v &&& 0xFFFFFFFFF001) } else s.regAccess z) := by
  have h := makes_registerWrite_within s (0x120000 + 8 * q.val) 8 z v (by omega)
  have hcell : (0x120000 + 8 * q.val) / 8 * 8 = 0x120000 + 8 * q.val := by omega
  have hbyte : (0x120000 + 8 * q.val) % 8 = 0 := by omega
  rw [hcell, hbyte, State.writeCell_root, State.queueTakes_regAccess] at h
  simpa only [merge_byteMask_cell, Nat.mul_zero, BitVec.shiftLeft_zero] using h

/-- A queue of the other world takes no write (17 R388). -/
theorem makes_queueWrites_shut (s : State) (q : Fin 64) (z : Bool) (v : W64) (h : s.sys.worldQueue.get false q.val ≠ z) :
    Makes (.registerWrite ⟨0x100020 + 64 * q.val, z⟩ 8 v) s (s.regAccess z) ∧
      Makes (.registerWrite ⟨0x120000 + 8 * q.val, z⟩ 8 v) s (s.regAccess z) := by
  have hshut := mt (s.queueTakes_eq_true_iff q.val z).1 h
  exact ⟨by simpa only [if_neg hshut] using makes_qsaveWrite s q z v, by simpa only [if_neg hshut] using makes_rootWrite s q z v⟩

/-- A queue of the writer's world takes its writes (03 R45, 17 R388). -/
theorem makes_queueWrites_open (s : State) (q : Fin 64) (z : Bool) (v : W64) (h : s.sys.worldQueue.get false q.val = z) :
    Makes (.registerWrite ⟨0x100020 + 64 * q.val, z⟩ 8 v) s
        ((s.regAccess z).setQueue q.val { s.queue q.val with save := v.setWidth 48 }) ∧
      Makes (.registerWrite ⟨0x100014 + 64 * q.val, z⟩ 4 v) s
        ((s.regAccess z).setQueue q.val { s.queue q.val with err := (s.queue q.val).err &&& ~~~(v.setWidth 4) }) ∧
      Makes (.registerWrite ⟨0x120000 + 8 * q.val, z⟩ 8 v) s
        ((s.regAccess z).upSys fun y => { y with roots := y.roots.set 0 q.val (v &&& 0xFFFFFFFFF001) }) := by
  have hopen := (s.queueTakes_eq_true_iff q.val z).2 h
  exact ⟨by simpa only [if_pos hopen] using makes_qsaveWrite s q z v, by simpa only [if_pos hopen] using makes_qerrWrite s q z v,
    by simpa only [if_pos hopen] using makes_rootWrite s q z v⟩

/-! ## Register reads (17 R382, R387, R388) -/

theorem makes_qtailRead (s : State) (q : Fin 64) :
    Makes (.bar0RegisterRead (0x10000C + 64 * q.val) 4) s (s.barAccess.upSys fun y => { y with
      hostRead := if s.sys.worldQueue.get false q.val = true then natLe 4 0 else natLe 4 (s.queue q.val).tail.toNat, hostErr := false }) := by
  have hworld : natLe 4 (s.ofQueue q.val (s.queue q.val).tail.toNat) =
      if s.sys.worldQueue.get false q.val = true then natLe 4 0 else natLe 4 (s.queue q.val).tail.toNat := apply_ite (natLe 4) _ _ _
  change execBar0RegisterRead (0x10000C + 64 * q.val) 4 s = _
  rw [execBar0RegisterRead, s.regBytes_qtail q, hworld]
  rfl

/-! ## BAR2 (17 R381, R388) -/

theorem makes_bar2Write (s : State) (off : Nat) (data : List Byte) (h : s.InBar2 off data.length) :
    Makes (.hostBar2Write off data) s (s.barAccess.wr tagHost (s.sys.w2base.toNat + off) data) := by
  change execHostBar2Write off data s = _
  simp only [execHostBar2Write, State.bar2Pa_barAccess, State.bar2Pa_of_inBar2 h]

theorem makes_bar2Write_unsupported (s : State) (off : Nat) (data : List Byte) (h : ¬ s.InBar2 off data.length) :
    Makes (.hostBar2Write off data) s (s.barAccess.answer [] true) := by
  change execHostBar2Write off data s = _
  simp only [execHostBar2Write, State.bar2Pa_barAccess, State.bar2Pa_of_not_inBar2 h]

theorem makes_bar2Read (s : State) (off n : Nat) (h : s.InBar2 off n) (hp : s.poisonAt (s.sys.w2base.toNat + off) n = none) :
    Makes (.hostBar2Read off n) s
      (s.barAccess.answer ((List.range n).map fun j => s.byte (s.sys.w2base.toNat + off + j)) false) := by
  change execHostBar2Read off n s = _
  simp [execHostBar2Read, State.bar2Pa_of_inBar2 h, hp, State.rd_eq_map_byte]

theorem makes_bar2Read_unsupported (s : State) (off n : Nat) (h : ¬ s.InBar2 off n) :
    Makes (.hostBar2Read off n) s (s.barAccess.answer [] true) := by
  change execHostBar2Read off n s = _
  simp only [execHostBar2Read, State.bar2Pa_barAccess, State.bar2Pa_of_not_inBar2 h]

/-! ## Quarantine, power and the interrupt hold-off (17 R385 to R387) -/

theorem ends_qliftWrite (s : State) (u : BitVec 16) :
    Ends (.qliftWrite u) s fun t => t = { s.barAccess with sys := { s.barAccess.sys with quar := t.sys.quar } } ∧
      ∀ e, e ∈ t.sys.quar ↔ e ∈ s.sys.quar ∧ ¬(e.unit = u ∧ e.host = true ∧ e.pair = false) := by
  refine ⟨_, rfl, rfl, fun e => ?_⟩
  simp [State.barAccess, imp_iff_not_or, or_assoc]

/-- A busy device stays in C0. -/
theorem makes_enterLowPower_of_busy (s : State) (h : s.idle = false) : Makes .enterLowPower s s := by
  change execEnterLowPower s = _
  rw [execEnterLowPower, h]
  rfl

theorem makes_enterLowPower_of_idle (s : State) (h : s.idle = true) :
    Makes .enterLowPower s (s.upSys fun y => { y with cstate := s.deepest }) := by
  change execEnterLowPower s = _
  rw [execEnterLowPower, h]
  rfl

theorem makes_cintHoldoffExpiry_of_idle (s : State) (h : s.sys.cintBusy = false) : Makes .cintHoldoffExpiry s s := by
  change execCintHoldoffExpiry s = _
  rw [execCintHoldoffExpiry, h]
  rfl

theorem exec_cintHoldoffExpiry_of_busy (s : State) (h : s.sys.cintBusy = true) :
    exec .cintHoldoffExpiry s =
      .next (if s.sys.cintOwed = true ∧ s.sys.cpend ≠ 0 then s.endHoldoff.cint else s.endHoldoff) := by
  change execCintHoldoffExpiry s = _
  rw [execCintHoldoffExpiry, h]
  rfl

/-- The interval ends, and an interrupt that is owed begins the next one (17 R386). -/
theorem makes_cintHoldoffExpiry_of_busy (s : State) (h : s.sys.cintBusy = true) :
    Makes .cintHoldoffExpiry s (s.upSys fun y =>
      if y.cintOwed = true ∧ y.cpend ≠ 0 then { y with msix := y.msix ++ [y.cintVec], cintOwed := false, cintBusy := y.cintHold != 0 }
      else { y with cintBusy := false, cintOwed := false }) := by
  rw [Makes, exec_cintHoldoffExpiry_of_busy s h]
  by_cases howed : s.sys.cintOwed = true ∧ s.sys.cpend ≠ 0
  · rw [if_pos howed, State.cint_of_idle s.endHoldoff rfl]
    exact congrArg (fun y => Host.Outcome.next { s with sys := y }) (if_pos howed).symm
  · rw [if_neg howed]
    exact congrArg (fun y => Host.Outcome.next { s with sys := y }) (if_neg howed).symm

/-- Settles O42: each clause is the lemma above about its register, window or power state; the host's access also wakes the device. -/
theorem hostAccessResult : Obligations.HostAccessResult := by
  intro s q z off n v w u data
  exact ⟨makes_sysmodeWrite_host s v, makes_sysmodeWrite_zenith s v, makes_queueWrites_shut s q z v, makes_queueWrites_open s q z v,
    makes_qtailRead s q, rfl, makes_bar2Write s off data, makes_bar2Write_unsupported s off data, makes_bar2Read s off n,
    makes_bar2Read_unsupported s off n, ends_qliftWrite s u, rfl, rfl, makes_enterLowPower_of_busy s,
    makes_enterLowPower_of_idle s, rfl, makes_cintHoldoffExpiry_of_idle s, makes_cintHoldoffExpiry_of_busy s⟩

end Sys2Proof.Claims
end

section
/-! SUPPORT. What sending, records, marks and removals leave unchanged in the fabric, and what they only add to: the ground of the
statements about losses and repairs (13 R304; 14 R332 to R338). -/

namespace Sys2Proof.Machine

open Sys2Proof.Claims

theorem onlyFab_trans {s t u : State} (hst : OnlyFab s t) (htu : OnlyFab t u) : OnlyFab s u := by
  have hfab := congrArg (fun v : State => ({ v with fab := u.fab } : State)) (show t = { s with fab := t.fab } from hst)
  exact htu.trans hfab

/-! ## Messages that go out -/

/-- Only sending separates `t` from `s`: more messages have left, more wait for their slot. -/
def State.Tells (s t : State) : Prop :=
  ∃ (w : List FabMsg) (q : List CtlWait), t = s.upFab fun f => { f with wire := w ++ f.wire, ctlq := f.ctlq ++ q }

namespace State.Tells

variable {s t u : State}

theorem refl (s : State) : s.Tells s :=
  ⟨[], [], by simp only [State.upFab, List.nil_append, List.append_nil]⟩

theorem trans (hst : s.Tells t) (htu : t.Tells u) : s.Tells u := by
  obtain ⟨w, q, rfl⟩ := hst
  obtain ⟨w', q', rfl⟩ := htu
  exact ⟨w' ++ w, q ++ q', by simp only [State.upFab, List.append_assoc]⟩

/-- A loop that only sends in each round only sends. -/
theorem foldl {α : Type} {f : State → α → State} (hf : ∀ (u : State) (a : α), u.Tells (f u a)) (l : List α) (s : State) :
    s.Tells (l.foldl f s) :=
  List.foldlRecOn l f (refl s) fun u hu a _ => hu.trans (hf u a)

theorem canLeave (h : s.Tells t) (m : FabMsg) : t.canLeave m = s.canLeave m := by
  obtain ⟨w, q, rfl⟩ := h
  rfl

theorem wire (h : s.Tells t) : s.fab.wire ⊆ t.fab.wire := by
  obtain ⟨w, q, rfl⟩ := h
  exact List.subset_append_right w _

theorem ctlq (h : s.Tells t) : s.fab.ctlq ⊆ t.fab.ctlq := by
  obtain ⟨w, q, rfl⟩ := h
  exact List.subset_append_left _ q

end State.Tells

theorem State.tells_put (s : State) (m : FabMsg) : s.Tells (s.put m) :=
  ⟨[m], [], by simp only [State.put, State.upFab, List.singleton_append, List.append_nil]⟩

theorem State.tells_queueCtl (s : State) (fr lo hi : Nat) (line : Option Nat) (m : FabMsg) : s.Tells (s.queueCtl fr lo hi line m) :=
  ⟨[], _, rfl⟩

theorem State.tells_emit (s : State) (m : FabMsg) : s.Tells (s.emit m) := by
  unfold State.emit
  split
  · exact s.tells_put m
  · exact s.tells_queueCtl ..

theorem State.tells_tell (s : State) (ns : List (BitVec 13)) (m : Option (BitVec 13) → FabMsg) : s.Tells (s.tell ns m) :=
  State.Tells.foldl (fun u _ => u.tells_emit _) _ s

theorem State.tells_tellPeers (s : State) (p k : Nat) (m : Option (BitVec 13) → FabMsg) : s.Tells (s.tellPeers p k m) := s.tells_tell _ m

theorem State.tells_tellIn (s : State) (p k : Nat) (m : Option (BitVec 13) → FabMsg) : s.Tells (s.tellIn p k m) := s.tells_tell _ m

theorem State.tells_tellDisplaced (s : State) (fr p k : Nat) : s.Tells (s.tellDisplaced fr p k) := by
  unfold State.tellDisplaced
  refine State.Tells.foldl (fun u j => ?_) _ s
  dsimp only
  split
  · exact Tells.refl u
  · exact u.tells_queueCtl ..

theorem State.tells_sendBack (s : State) (fr lo hi p : Nat) (n : BitVec 13) (m : FabMsg) : s.Tells (s.sendBack fr lo hi p n m) := by
  unfold State.sendBack
  split <;> exact s.tells_queueCtl ..

/-- What has left, or waits, goes on doing so in a state to which only more was added. -/
theorem goes_mono {s t u : State} {m : FabMsg} (h : Goes s t m) (hw : t.fab.wire ⊆ u.fab.wire) (hq : t.fab.ctlq ⊆ u.fab.ctlq) : Goes s u m :=
  ⟨fun hm => hw (h.1 hm), fun hm => (h.2 hm).imp fun _ he => ⟨hq he.1, he.2⟩⟩

theorem State.goes_emit (s : State) (m : FabMsg) : Goes s (s.emit m) m := by
  unfold State.emit
  refine ⟨fun hm => ?_, fun hm => ?_⟩
  · rw [if_pos hm]
    exact List.mem_cons_self
  · rw [if_neg (by rw [hm]; decide)]
    exact ⟨_, List.mem_append_right _ (List.mem_singleton_self _), rfl⟩

/-- Every peer that a notice can reach is sent it (14 R337). -/
theorem State.goes_tell (s : State) (ns : List (BitVec 13)) (m : Option (BitVec 13) → FabMsg) {n : BitVec 13} (hn : n ∈ ns)
    (hr : s.notifiable n = true) : Goes s (s.tell ns m) (m (some n)) := by
  have hmem : n ∈ ns.filter s.notifiable := List.mem_filter.2 ⟨hn, hr⟩
  unfold State.tell
  generalize ns.filter s.notifiable = l at hmem
  have go : ∀ u : State, s.Tells u → Goes s (l.foldl (fun u n => u.emit (m (some n))) u) (m (some n)) := by
    induction l with
    | nil => cases hmem
    | cons a l ih =>
      intro u hu
      rw [List.foldl_cons]
      rcases List.mem_cons.1 hmem with rfl | hmem
      · have hemit : Goes s (u.emit (m (some n))) (m (some n)) := by
          simpa only [Goes, hu.canLeave] using u.goes_emit (m (some n))
        have hrest := State.Tells.foldl (fun v k => v.tells_emit (m (some k))) l (u.emit (m (some n)))
        exact goes_mono hemit hrest.wire hrest.ctlq
      · exact ih hmem _ (hu.trans (u.tells_emit _))
  exact go s (State.Tells.refl s)

/-! ## Records -/

/-- The lease that a record names does not change what it is about. -/
theorem State.evLease_about (s : State) (p c : Nat) (ks : List Nat) (e : EvRec) :
    (s.evLease p c ks e).type = e.type ∧ (s.evLease p c ks e).port = e.port ∧ (s.evLease p c ks e).chan = e.chan ∧
      (s.evLease p c ks e).line = e.line ∧ (s.evLease p c ks e).tdet = e.tdet := by
  unfold State.evLease
  split
  · split <;> exact ⟨rfl, rfl, rfl, rfl, rfl⟩
  · split <;> exact ⟨rfl, rfl, rfl, rfl, rfl⟩

/-- A change that leaves type, port and channel of a record alone. -/
def KeepsAbout (g : EvRec → EvRec) : Prop := ∀ e, (g e).type = e.type ∧ (g e).port = e.port ∧ (g e).chan = e.chan

theorem State.evRec_about (s : State) (type p c : Nat) (k : Option Nat) (ks : List Nat) (ns : List (BitVec 13)) {g : EvRec → EvRec}
    (hg : KeepsAbout g) : let e := s.evRec type p c k ks ns g
    e.type = type ∧ e.port = p ∧ e.chan = c := by
  obtain ⟨ht, hp, hc, -, -⟩ := s.evLease_about p c ks
    (g { s.ev type with port := p, chan := c, line := k, notice := s.fab.sync && ns.all s.notifiable })
  obtain ⟨ht', hp', hc'⟩ := hg { s.ev type with port := p, chan := c, line := k, notice := s.fab.sync && ns.all s.notifiable }
  exact ⟨ht.trans ht', hp.trans hp', hc.trans hc'⟩

theorem keepsAbout_id : KeepsAbout id := fun _ => ⟨rfl, rfl, rfl⟩

theorem State.notesOne_postEv (s : State) {type p c : Nat} {e : EvRec} (h : e.type = type ∧ e.port = p ∧ e.chan = c) :
    NotesOne s (s.postEv e) type p c := ⟨e, rfl, h⟩

theorem State.note_eq_postEv (s : State) (type p c : Nat) (k : Option Nat) (ks : List Nat) {g : EvRec → EvRec} (hg : KeepsAbout g) :
    ∃ e, s.note type p c k ks g = s.postEv e ∧ e.type = type ∧ e.port = p ∧ e.chan = c :=
  ⟨_, rfl, s.evRec_about type p c k ks _ hg⟩

theorem State.notesOne_note (s : State) (type p c : Nat) (k : Option Nat) (ks : List Nat) {g : EvRec → EvRec} (hg : KeepsAbout g) :
    NotesOne s (s.note type p c k ks g) type p c := s.notesOne_postEv (s.evRec_about type p c k ks _ hg)

theorem notes_of_notesOne {s t : State} {type p c : Nat} (h : NotesOne s t type p c) : Notes t type p := by
  obtain ⟨e, heq, htype, hport, -⟩ := h
  exact ⟨e, by rw [heq]; exact List.mem_append_right _ (List.mem_singleton_self e), htype, hport⟩

theorem State.notes_note (s : State) (type p c : Nat) (k : Option Nat) (ks : List Nat) {g : EvRec → EvRec} (hg : KeepsAbout g) :
    Notes (s.note type p c k ks g) type p := notes_of_notesOne (s.notesOne_note type p c k ks hg)

/-! ## Repairs: what they change at most -/

/-- The state without what notices, records, marks, ends of leases and repairs change. -/
def State.still (s : State) : State := s.upFab fun f =>
  { f with wire := [], ctlq := [], leases := [], incoming := [], marks := [], eph0 := [], eph1 := [], evq := [], repairs := [] }

/-- Only notices, records, marks, ends of leases and repairs separate `t` from `s`, and of the first three none has gone. -/
structure State.Mends (s t : State) : Prop where
  still : t.still = s.still
  wire : s.fab.wire ⊆ t.fab.wire
  ctlq : s.fab.ctlq ⊆ t.fab.ctlq
  marks : s.fab.marks ⊆ t.fab.marks
  evq : s.fab.evq ⊆ t.fab.evq

/-- The same, and no repair has begun or ended. -/
structure State.Quiet (s t : State) : Prop extends State.Mends s t where
  repairs : t.fab.repairs = s.fab.repairs

namespace State.Mends

variable {s t u : State}

theorem refl (s : State) : s.Mends s := ⟨rfl, List.Subset.refl _, List.Subset.refl _, List.Subset.refl _, List.Subset.refl _⟩

theorem trans (hst : s.Mends t) (htu : t.Mends u) : s.Mends u :=
  ⟨htu.still.trans hst.still, List.Subset.trans hst.wire htu.wire, List.Subset.trans hst.ctlq htu.ctlq,
    List.Subset.trans hst.marks htu.marks, List.Subset.trans hst.evq htu.evq⟩

theorem foldl {α : Type} {f : State → α → State} (hf : ∀ (u : State) (a : α), u.Mends (f u a)) (l : List α) (s : State) :
    s.Mends (l.foldl f s) :=
  List.foldlRecOn l f (refl s) fun u hu a _ => hu.trans (hf u a)

/-- What can be told from the rest of the state has not changed. -/
theorem eq_of_still {α : Type} (h : s.Mends t) (f : State → α) (hf : ∀ u : State, f u.still = f u) : f t = f s := by
  rw [← hf t, h.still, hf]

theorem frame (h : s.Mends t) : t.frame = s.frame := h.eq_of_still (·.frame) fun _ => rfl

theorem onlyFab (h : s.Mends t) : OnlyFab s t := by
  have hfab := congrArg (fun u : State => ({ u with fab := t.fab } : State)) h.still
  exact hfab

theorem marked {fr p : Nat} {w : MarkWhat} (h : s.Mends t) (hm : Marked s fr p w) : Marked t fr p w := h.marks hm

theorem notes {type p : Nat} (h : s.Mends t) (hn : Notes s type p) : Notes t type p := hn.imp fun _ he => ⟨h.evq he.1, he.2⟩

theorem goes {a : State} {m : FabMsg} (h : s.Mends t) (hg : Goes a s m) : Goes a t m := goes_mono hg h.wire h.ctlq

end State.Mends

namespace State.Quiet

variable {s t u : State}

theorem refl (s : State) : s.Quiet s := ⟨Mends.refl s, rfl⟩

theorem trans (hst : s.Quiet t) (htu : t.Quiet u) : s.Quiet u := ⟨hst.toMends.trans htu.toMends, htu.repairs.trans hst.repairs⟩

theorem foldl {α : Type} {f : State → α → State} (hf : ∀ (u : State) (a : α), u.Quiet (f u a)) (l : List α) (s : State) :
    s.Quiet (l.foldl f s) :=
  List.foldlRecOn l f (refl s) fun u hu a _ => hu.trans (hf u a)

end State.Quiet

theorem State.Tells.quiet {s t : State} (h : s.Tells t) : s.Quiet t := by
  have hwire := h.wire
  have hctlq := h.ctlq
  obtain ⟨w, q, rfl⟩ := h
  exact ⟨⟨rfl, hwire, hctlq, List.Subset.refl _, List.Subset.refl _⟩, rfl⟩

theorem State.quiet_postEv (s : State) (e : EvRec) : s.Quiet (s.postEv e) :=
  ⟨⟨rfl, List.Subset.refl _, List.Subset.refl _, List.Subset.refl _, List.subset_append_left _ _⟩, rfl⟩

theorem State.quiet_note (s : State) (type p c : Nat) (k : Option Nat) (ks : List Nat) (g : EvRec → EvRec) :
    s.Quiet (s.note type p c k ks g) := s.quiet_postEv _

/-- A mark joins the others; the shadow bank may follow, and nothing else changes. -/
theorem State.markAt_eq (s : State) (fr p : Nat) (w : MarkWhat) : ∃ b0 b1, s.markAt fr p w =
    s.upFab fun f => { f with marks := f.marks ++ [⟨fr, p, w⟩], eph0 := b0, eph1 := b1 } := by
  unfold State.markAt Fabric.prepare
  dsimp only [State.upFab]
  split
  · split <;> exact ⟨_, _, rfl⟩
  · exact ⟨_, _, rfl⟩

theorem State.quiet_markAt (s : State) (fr p : Nat) (w : MarkWhat) : s.Quiet (s.markAt fr p w) := by
  obtain ⟨b0, b1, heq⟩ := s.markAt_eq fr p w
  rw [heq]
  exact ⟨⟨rfl, List.Subset.refl _, List.Subset.refl _, List.subset_append_left _ _, List.Subset.refl _⟩, rfl⟩

theorem State.marks_markAt (s : State) (fr p : Nat) (w : MarkWhat) : (s.markAt fr p w).fab.marks = s.fab.marks ++ [⟨fr, p, w⟩] := by
  obtain ⟨b0, b1, heq⟩ := s.markAt_eq fr p w
  rw [heq]
  rfl

theorem State.marked_markAt (s : State) (fr p : Nat) (w : MarkWhat) : Marked (s.markAt fr p w) fr p w := by
  rw [Marked, State.marks_markAt]
  exact List.mem_append_right _ (List.mem_singleton_self _)

theorem State.quiet_upIncoming (s : State) (src : BitVec 13) (lid sport : Nat) (g : Incoming → Incoming) :
    s.Quiet (s.upIncoming src lid sport g) :=
  ⟨⟨rfl, List.Subset.refl _, List.Subset.refl _, List.Subset.refl _, List.Subset.refl _⟩, rfl⟩

theorem State.quiet_endIncoming (s : State) (src : BitVec 13) (lid sport fr : Nat) : s.Quiet (s.endIncoming src lid sport fr) := by
  unfold State.endIncoming
  split
  · exact (s.quiet_upIncoming src lid sport _).trans (State.tells_tellDisplaced _ _ _ _).quiet
  · exact State.Quiet.refl s

theorem State.quiet_shrink (s : State) (fr p : Nat) (on : Nat → Bool) : s.Quiet (s.shrink fr p on) := by
  refine State.Quiet.trans (t := s.upFab _) ?_
    (State.Quiet.foldl (fun u i => (u.quiet_endIncoming _ _ _ _).trans (State.tells_tell _ _ _).quiet) _ _)
  exact ⟨⟨rfl, List.Subset.refl _, List.Subset.refl _, List.Subset.refl _, List.Subset.refl _⟩, rfl⟩

/-! ## Removal -/

theorem State.quiet_removeLine (s : State) (p k : Nat) (host : Bool) : s.Quiet (s.removeLine p k host) :=
  (s.tells_tellPeers _ _ _).quiet.trans <| (State.quiet_shrink _ _ _ _).trans <| (State.quiet_note _ _ _ _ _ _ _).trans <|
    State.quiet_markAt _ _ _ _

theorem State.quiet_removeEmitter (s : State) (p c : Nat) (host : Bool) : s.Quiet (s.removeEmitter p c host) :=
  (State.Tells.foldl (fun u _ => u.tells_tellPeers _ _ _) _ s).quiet.trans <| (State.quiet_shrink _ _ _ _).trans <|
    (State.quiet_note _ _ _ _ _ _ _).trans <| State.quiet_markAt _ _ _ _

/-- What the removal of a repair's line or emitter marks on its port. -/
def Repair.out (s : State) (r : Repair) : MarkWhat :=
  match r.chan with
  | some c => .chGone (s.fab.serves s.frame r.port c)
  | none => .lineGone (r.line % 64)

theorem State.removeLine_removes (s : State) (p k : Nat) (host : Bool) :
    Notes (s.removeLine p k host) 8 p ∧ Marked (s.removeLine p k host) s.boundary p (.lineGone (k % 64)) :=
  ⟨(State.quiet_markAt _ _ _ _).notes (State.notes_note _ _ _ _ _ _ fun _ => ⟨rfl, rfl, rfl⟩), State.marked_markAt _ _ _ _⟩

theorem State.removeEmitter_removes (s : State) (p c : Nat) (host : Bool) : Notes (s.removeEmitter p c host) 8 p ∧
    Marked (s.removeEmitter p c host) s.boundary p (.chGone (s.fab.serves s.frame p c)) :=
  ⟨(State.quiet_markAt _ _ _ _).notes (State.notes_note _ _ _ _ _ _ fun _ => ⟨rfl, rfl, rfl⟩), State.marked_markAt _ _ _ _⟩

theorem State.quiet_repairRemove (s : State) (r : Repair) : s.Quiet (s.repairRemove r) := by
  unfold State.repairRemove
  cases r.chan with
  | some c => exact s.quiet_removeEmitter _ _ _
  | none => exact s.quiet_removeLine _ _ _

/-- A removal is recorded and marked, from the second frame boundary on (14 R335, R336). -/
theorem State.repairRemove_removes (s : State) (r : Repair) :
    Notes (s.repairRemove r) 8 r.port ∧ Marked (s.repairRemove r) s.boundary r.port (r.out s) := by
  unfold State.repairRemove Repair.out
  cases r.chan with
  | some c => exact s.removeEmitter_removes _ _ _
  | none => exact s.removeLine_removes _ _ _

end Sys2Proof.Machine
end

section
/-! SUPPORT. What the peers' notices do (14 R334, R336, R337): lease ports and incoming leases that end, links that are replayed elsewhere. -/

namespace Sys2Proof.Machine

open Sys2Proof.Claims

/-! ## Links that are replayed elsewhere, or replay nothing more -/

theorem State.store_restripe_length (s : State) (p k : Nat) : (s.restripe p k).1.fab.store.length = s.fab.store.length :=
  List.length_map _

/-- No flit waits for an acknowledgement on a link that has been restriped (14 R334). -/
theorem State.store_restripe_link (s : State) (p k : Nat) : ∀ x ∈ (s.restripe p k).1.fab.store, x.link ≠ some (64 * p + k % 64) := by
  intro x hx
  obtain ⟨t, -, rfl⟩ := List.mem_map.1 hx
  split
  · simp
  · assumption

/-! ## Ports of an own lease -/

theorem State.lease_setLease_self (s : State) (l : Nat) (v : Option Lease) : (s.setLease l v).fab.lease l = v :=
  SMap.get_set_self none s.fab.leases l v

theorem State.upPort_of_lease {s : State} {l : Nat} {v : Lease} (h : s.fab.lease l = some v) (p : Nat) (g : LPort → LPort) :
    s.upPort l p g = s.setLease l (some { v with ports := v.ports.map fun q => if q.port = p then g q else q }) := by
  simp only [State.upPort, h]

/-- A lease port that is changed, and stays of its number, reads as changed. -/
theorem State.portIs_upPort {s : State} {l p : Nat} {q : LPort} (g : LPort → LPort) (hg : ∀ q, (g q).port = q.port)
    (h : PortIs s l p q) : PortIs (s.upPort l p g) l p (g q) := by
  obtain ⟨v, hv⟩ := h
  obtain ⟨v', hlease, hport⟩ := Option.bind_eq_some_iff.1 hv
  obtain ⟨q', hfind, hpair⟩ := Option.map_eq_some_iff.1 hport
  obtain ⟨rfl, rfl⟩ := Prod.mk.inj hpair
  have hq : q'.port = p := by simpa using List.find?_some hfind
  have hset : (s.upPort l p g).fab.lease l = some { v' with ports := v'.ports.map fun q => if q.port = p then g q else q } := by
    rw [State.upPort_of_lease hlease]
    exact s.lease_setLease_self l _
  have hsame : ((fun q : LPort => q.port == p) ∘ fun q => if q.port = p then g q else q) = fun q => q.port == p := by
    funext q
    simp only [Function.comp_apply]
    split <;> simp only [hg]
  refine ⟨{ v' with ports := v'.ports.map fun q => if q.port = p then g q else q }, ?_⟩
  rw [State.leasePort, hset, Option.bind_some, List.find?_map, hsame, hfind, Option.map_some, Option.map_some, if_pos hq]

theorem LPort.endAt_port (q : LPort) (fr : Nat) (w : Why) : (q.endAt fr w).port = q.port := by
  unfold LPort.endAt
  dsimp only
  split_ifs <;> rfl

/-- A port with no end known ends with the removal of its line: at once, where it awaits effect (14 R342). -/
theorem LPort.endAt_repaired (q : LPort) (fr : Nat) (hst : q.st = .inEffect ∨ q.st = .granted) (hfin : q.fin = none) :
    q.endAt fr .repaired = { q with fin := some (if q.st = .granted then q.eff else fr, .repaired) } := by
  rcases hst with hst | hst <;> simp [LPort.endAt, hst, hfin]

/-! ## Incoming leases that end -/

/-- Incoming lease `i` after the leases of the number of `x` end, which a removal that takes effect in frame `fr` ends (13 R304). -/
def Incoming.endBy (now fr : Nat) (i x : Incoming) : Incoming :=
  if i.src = x.src ∧ i.lid = x.lid ∧ i.sport = x.sport then i.endAt (x.gone now fr) else i

/-- Ends come only earlier, nothing but the end changes, and every lease that is ended in turn bounds the end. -/
theorem Incoming.endBy_foldl (now fr : Nat) (xs : List Incoming) (i : Incoming) :
    ∃ e, xs.foldl (endBy now fr) i = { i with fin := e } ∧ e ≤ i.fin ∧
      ∀ x ∈ xs, i.src = x.src ∧ i.lid = x.lid ∧ i.sport = x.sport → e ≤ max (x.gone now fr) i.eff := by
  induction xs generalizing i with
  | nil => exact ⟨i.fin, rfl, Nat.le_refl _, fun _ h => nomatch h⟩
  | cons y xs ih =>
    obtain ⟨e, heq, hle, hall⟩ := ih (i.endBy now fr y)
    rw [List.foldl_cons, heq]
    by_cases hy : i.src = y.src ∧ i.lid = y.lid ∧ i.sport = y.sport
    · rw [endBy, if_pos hy] at hle hall ⊢
      have hmin : e ≤ i.fin ∧ e ≤ max (y.gone now fr) i.eff := Nat.le_min.1 hle
      refine ⟨e, rfl, hmin.1, fun x hx hkey => ?_⟩
      rcases List.mem_cons.1 hx with rfl | hx
      · exact hmin.2
      · exact hall x hx hkey
    · rw [endBy, if_neg hy] at hle hall ⊢
      refine ⟨e, rfl, hle, fun x hx hkey => ?_⟩
      rcases List.mem_cons.1 hx with rfl | hx
      · exact absurd hkey hy
      · exact hall x hx hkey

theorem State.Tells.incoming {s t : State} (h : s.Tells t) : t.fab.incoming = s.fab.incoming := by
  obtain ⟨w, q, rfl⟩ := h
  rfl

/-- Where no incoming lease bears the number, none ends. -/
theorem State.incoming_endIncoming (s : State) (now fr : Nat) (x : Incoming) :
    (s.endIncoming x.src x.lid x.sport (x.gone now fr)).fab.incoming = s.fab.incoming.map fun i => i.endBy now fr x := by
  unfold State.endIncoming
  split
  · rw [(State.tells_tellDisplaced _ _ _ _).incoming]
    rfl
  next hnone =>
    have hkeep : ∀ i ∈ s.fab.incoming, i.endBy now fr x = i := fun i hi => by
      have hkey := List.find?_eq_none.1 hnone i (List.mem_reverse.2 hi)
      simp only [Bool.and_eq_true, beq_iff_eq, and_assoc] at hkey
      exact if_neg hkey
    rw [List.map_congr_left hkeep, List.map_id']

/-- The end of one incoming lease whose line is removed in frame `fr`, and what a forwarder tells of it (14 R336). -/
def State.endIn (fr : Nat) (s : State) (i : Incoming) : State :=
  let s := s.endIncoming i.src i.lid i.sport (i.gone s.frame fr)
  match i.onward with
  | some (n, op, ol) => s.tell [n] fun n => .remove n false (some i.lid) op ol fr
  | none => s

theorem State.quiet_endIn (fr : Nat) (s : State) (i : Incoming) : s.Quiet (s.endIn fr i) := by
  unfold State.endIn
  dsimp only
  split
  · exact (s.quiet_endIncoming _ _ _ _).trans (State.tells_tell _ _ _).quiet
  · exact s.quiet_endIncoming _ _ _ _

theorem State.incoming_endIn (fr : Nat) (s : State) (x : Incoming) :
    (s.endIn fr x).fab.incoming = s.fab.incoming.map fun i => i.endBy s.frame fr x := by
  unfold State.endIn
  dsimp only
  split
  · rw [(State.tells_tell _ _ _).incoming, s.incoming_endIncoming]
  · exact s.incoming_endIncoming _ _ _

theorem State.shrinkIn_eq (s : State) (fr p : Nat) (on : Incoming → Bool) :
    s.shrinkIn fr p on = (s.fab.incoming.filter fun i => i.rport == p && on i).foldl (State.endIn fr) s := rfl

theorem State.quiet_shrinkIn (s : State) (fr p : Nat) (on : Incoming → Bool) : s.Quiet (s.shrinkIn fr p on) :=
  State.Quiet.foldl (State.quiet_endIn fr) _ s

theorem State.incoming_foldl_endIn (fr : Nat) (xs : List Incoming) (s : State) :
    (xs.foldl (State.endIn fr) s).fab.incoming = s.fab.incoming.map fun i => xs.foldl (Incoming.endBy s.frame fr) i := by
  induction xs generalizing s with
  | nil => exact (List.map_id' _).symm
  | cons x xs ih =>
    rw [List.foldl_cons, ih, s.incoming_endIn, List.map_map, (s.quiet_endIn fr x).frame]
    rfl

/-- The leases on port `p` that satisfy `on`, which looks at no end, end as a removal in frame `fr` ends them (14 R336, R342). -/
theorem State.shrinkIn_ends (s : State) (fr p : Nat) (on : Incoming → Bool) (hon : ∀ i e, on { i with fin := e } = on i) :
    ∀ i ∈ (s.shrinkIn fr p on).fab.incoming, i.rport = p → on i = true → i.fin ≤ max fr i.eff := by
  intro j hj hport hlease
  rw [s.shrinkIn_eq, State.incoming_foldl_endIn] at hj
  obtain ⟨i, hi, rfl⟩ := List.mem_map.1 hj
  obtain ⟨e, heq, -, hall⟩ := Incoming.endBy_foldl s.frame fr (s.fab.incoming.filter fun i => i.rport == p && on i) i
  rw [heq] at hport hlease ⊢
  have hmem : i ∈ s.fab.incoming.filter fun i => i.rport == p && on i :=
    List.mem_filter.2 ⟨hi, by simp only [Bool.and_eq_true, beq_iff_eq]; exact ⟨hport, (hon i e).symm.trans hlease⟩⟩
  have hend : e ≤ max (i.gone s.frame fr) i.eff := hall i hmem ⟨rfl, rfl, rfl⟩
  refine Nat.le_trans hend ?_
  unfold Incoming.gone
  split
  · exact Nat.max_le.2 ⟨Nat.le_max_right _ _, Nat.le_max_right _ _⟩
  · exact Nat.le_refl _

end Sys2Proof.Machine

namespace Sys2Proof.Claims

open Sys2Proof Sys2Proof.Machine

/-! ## Notices of peers (14 R334, R336, R337) -/

theorem ends_lossNoticeRx_in (s : State) (p : Fin 16) (k : Fin 128) : Ends (.lossNoticeRx false p k) s fun t =>
    OnlyFab s.toC0 t ∧ t.fab.lossTold = s.fab.lossTold ∧
      t.fab.link (linkOf p k) = { s.fab.link (linkOf p k) with replay := none } :=
  ⟨_, rfl, rfl, rfl, SMap.get_put_self Link.init s.fab.links (linkOf p k) _⟩

theorem ends_lossNoticeRx_out (s : State) (p : Fin 16) (k : Fin 128) : Ends (.lossNoticeRx true p k) s fun t =>
    OnlyFab s.toC0 t ∧ t.fab.lossTold = s.fab.lossTold.set false (128 * p.val + k % 64) true ∧
      t.fab.store.length = s.fab.store.length ∧ ∀ x ∈ t.fab.store, x.link ≠ some (linkOf p k) :=
  ⟨_, rfl, rfl, rfl, State.store_restripe_length _ p k, State.store_restripe_link _ p k⟩

/-- The port's own line is received again at its far end. -/
theorem makes_substNoticeRx_now (s : State) (p : Fin 16) (k k2 : Fin 128) (fr : Nat) (h : fr ≤ s.frame) :
    Makes (.substNoticeRx true p k ⟨k2, fr⟩) s (s.toC0.upFab fun f =>
      { f with lossTold := f.lossTold.set false (128 * p.val + k % 64) false }) :=
  congrArg Host.Outcome.next (if_pos h)

theorem ends_substNoticeRx_later (s : State) (p : Fin 16) (k k2 : Fin 128) (fr : Nat) (h : s.frame < fr) :
    Ends (.substNoticeRx true p k ⟨k2, fr⟩) s fun t =>
      OnlyFab s.toC0 t ∧ t.fab.marks = s.fab.marks ++ [⟨fr, p, .heard k⟩] :=
  ⟨_, congrArg Host.Outcome.next (if_neg (Nat.not_le.2 h)), (State.quiet_markAt _ _ _ _).onlyFab, State.marks_markAt _ _ _ _⟩

theorem ends_substNoticeRx_in (s : State) (p : Fin 16) (k k2 : Fin 128) (fr : Nat) :
    Ends (.substNoticeRx false p k ⟨k2, fr⟩) s fun t => OnlyFab s.toC0 t ∧
      t.fab.los = s.fab.los.set false (36 * p.val + s.fab.serves s.frame p (18 + k % 16)) false ∧
      t.fab.marks = if k = k2 then s.fab.marks else s.fab.marks ++ [⟨fr, p, .inLine (k % 64) (decide (64 ≤ k2.val))⟩] := by
  by_cases hk : k = k2
  · refine ⟨s.toC0.losOver p k, congrArg Host.Outcome.next (if_pos hk), rfl, rfl, ?_⟩
    rw [if_pos hk]
    rfl
  · have hmark := (s.toC0.losOver p k).quiet_markAt fr p (.inLine (k % 64) (decide (64 ≤ k2.val)))
    refine ⟨_, congrArg Host.Outcome.next (if_neg hk), hmark.onlyFab, hmark.eq_of_still (·.fab.los) fun _ => rfl, ?_⟩
    rw [if_neg hk]
    exact State.marks_markAt _ _ _ _

theorem ends_removeNoticeRx_out (s : State) (p : Fin 16) (k : Fin 128) (fr : Nat) :
    Ends (.removeNoticeRx true none p ⟨k, fr⟩) s fun t => OnlyFab s.toC0 t ∧ Marked t fr p (.lineGone (k % 64)) :=
  have hshrink := (s.toC0.markAt fr p (.lineGone (k % 64))).quiet_shrink fr p fun j => j == k.val % 64
  ⟨_, rfl, ((State.quiet_markAt _ _ _ _).trans hshrink).onlyFab, hshrink.marked (State.marked_markAt _ _ _ _)⟩

theorem ends_removeNoticeRx_in (s : State) (p : Fin 16) (k : Fin 128) (fr : Nat) :
    Ends (.removeNoticeRx false none p ⟨k, fr⟩) s fun t => OnlyFab s.toC0 t ∧ Marked t fr p (.inGone (k % 64)) ∧
      t.fab.los = s.fab.los.set false (36 * p.val + s.fab.serves s.frame p (18 + k % 16)) false ∧
      ∀ i ∈ t.fab.incoming, i.rport = p ∧ i.line = k.val % 64 → i.fin ≤ max fr i.eff := by
  have hmark := (s.toC0.losOver p k).quiet_markAt fr p (.inGone (k % 64))
  have hshrink := ((s.toC0.losOver p k).markAt fr p (.inGone (k % 64))).quiet_shrinkIn fr p fun i => i.line == k.val % 64
  have hall := hmark.trans hshrink
  refine ⟨_, rfl, hall.onlyFab, hshrink.marked (State.marked_markAt _ _ _ _), hall.eq_of_still (·.fab.los) fun _ => rfl, ?_⟩
  exact fun i hi hon => State.shrinkIn_ends _ fr p _ (fun _ _ => rfl) i hi hon.1 (beq_iff_eq.2 hon.2)

theorem makes_removeNoticeRx_noLease (s : State) (p : Fin 16) (k : Fin 128) (lid : Fin 256) (fr : Nat) (h : s.fab.lease lid = none) :
    Makes (.removeNoticeRx true (some lid) p ⟨k, fr⟩) s s.toC0 := by
  have hup : s.toC0.upPort lid p (·.endAt fr .repaired) = s.toC0 := by
    unfold State.upPort
    rw [show s.toC0.fab.lease lid = none from h]
  exact congrArg Host.Outcome.next hup

theorem State.onlyFab_upPort (s : State) (l p : Nat) (g : LPort → LPort) : OnlyFab s (s.upPort l p g) := by
  unfold State.upPort
  split <;> rfl

theorem ends_removeNoticeRx_port (s : State) (p : Fin 16) (k : Fin 128) (lid : Fin 256) (fr : Nat) {q : LPort} (h : PortIs s lid p q)
    (hst : q.st = .inEffect ∨ q.st = .granted) (hfin : q.fin = none) :
    Ends (.removeNoticeRx true (some lid) p ⟨k, fr⟩) s fun t => OnlyFab s.toC0 t ∧
      PortIs t lid p { q with fin := some (if q.st = .granted then q.eff else fr, .repaired) } := by
  refine ⟨_, rfl, State.onlyFab_upPort _ _ _ _, ?_⟩
  rw [← q.endAt_repaired fr hst hfin]
  exact State.portIs_upPort (s := s.toC0) (·.endAt fr .repaired) (fun q => q.endAt_port fr .repaired) h

theorem ends_removeNoticeRx_lease (s : State) (p : Fin 16) (k : Fin 128) (lid : Fin 256) (fr : Nat) :
    Ends (.removeNoticeRx false (some lid) p ⟨k, fr⟩) s fun t => OnlyFab s.toC0 t ∧
      ∀ i ∈ t.fab.incoming, i.rport = p ∧ i.lid = lid ∧ i.line = k.val % 64 → i.fin ≤ max fr i.eff :=
  ⟨_, rfl, (State.quiet_shrinkIn _ _ _ _).onlyFab, fun i hi hon =>
    State.shrinkIn_ends _ fr p _ (fun _ _ => rfl) i hi hon.1 (by simp only [Bool.and_eq_true, beq_iff_eq]; exact hon.2)⟩

theorem peersTell_holds : peersTell := fun s p k k2 lid fr =>
  ⟨ends_lossNoticeRx_in s p k, ends_lossNoticeRx_out s p k, makes_substNoticeRx_now s p k k2 fr, ends_substNoticeRx_later s p k k2 fr,
    ends_substNoticeRx_in s p k k2 fr, ends_removeNoticeRx_out s p k fr, ends_removeNoticeRx_in s p k fr,
    makes_removeNoticeRx_noLease s p k lid fr, fun _ => ends_removeNoticeRx_port s p k lid fr, ends_removeNoticeRx_lease s p k lid fr⟩

end Sys2Proof.Claims
end

section
/-! SUPPORT. Attempts of a repair, and the host's answers (14 R335, R338). -/

namespace Sys2Proof.Machine

open Sys2Proof.Claims

/-! ## Light that is there for certain -/

theorem tapLit_of_powered {s : State} {p j : Nat} (h : Powered s p j) : s.tapLit p j = true := by
  obtain ⟨hdark, hspare⟩ := h
  unfold State.tapLit Fabric.lineLit
  by_cases hj : 64 ≤ j
  · simp [hj, hdark, (hspare hj).1]
  · simp [hj, hdark]

/-- A secondary line stays without light while the spare comb gives none (01 R20). -/
theorem tapLit_secondary_of_dark {s : State} {p j : Nat} (hj : 64 ≤ j) (h : s.fab.spcDark.get false p = true) : s.tapLit p j = false :=
  if_pos ⟨hj, h⟩

theorem spareLit_of_powered {s : State} {p j : Nat} (h : Powered s p j) (hj : 64 ≤ j) : s.fab.spareLit s.frame p = true := by
  obtain ⟨hspc, hlines⟩ := h.2 hj
  simpa [Fabric.spareLit, hspc] using hlines

/-! ## The next attempt -/

/-- The other line of the pair can be tried once its tap shows light for certain (14 R335). -/
theorem canTry_other {s : State} {r : Repair} (hattempt : r.attempt = 0) (hchan : r.chan = none) (hline : r.line < 128)
    (h : Powered s r.port ((r.line + 64) % 128)) : s.canTry r = true := by
  unfold State.canTry
  rw [hattempt, hchan]
  by_cases hlow : r.line < 64
  · rw [Nat.mod_eq_of_lt (by omega)] at h
    rw [if_pos hlow, spareLit_of_powered h (by omega), tapLit_of_powered h]
    rfl
  · rw [show (r.line + 64) % 128 = r.line - 64 by omega] at h
    rw [if_neg hlow, tapLit_of_powered h]
    rfl

theorem canTry_other_of_dark {s : State} {r : Repair} (hattempt : r.attempt = 0) (hchan : r.chan = none) (hline : r.line < 64)
    (h : s.fab.spcDark.get false r.port = true) : s.canTry r = false := by
  unfold State.canTry
  rw [hattempt, hchan]
  simp [hline, Fabric.spareLit, h]

/-- A spare emitter that is free can be tried for a lost primary line, or for a secondary one with light (14 R335). -/
theorem canTry_spareEmitter {s : State} {r : Repair} (hattempt : r.attempt = 1) (hchan : r.chan = none)
    (hfree : s.fab.spareFree r.port 16 = true) (h : r.line < 64 ∨ Powered s r.port r.line) : s.canTry r = true := by
  unfold State.canTry
  rw [hattempt, hchan]
  rcases h with h | h
  · simp [hfree, h]
  · simp [hfree, tapLit_of_powered h]

/-- An attempt joins the repairs under way; it waits where its spare emitter tries another line. -/
def State.tryIt (s : State) (r : Repair) : State :=
  s.upFab fun f => { f with repairs := f.repairs ++ [{ r with waiting := false, queued := f.tuning r }] }

/-- An attempt whose emitter is free begins at once. -/
theorem State.repairs_tryIt {s : State} {r : Repair} (h : s.fab.tuning r = false) :
    (s.tryIt r).fab.repairs = s.fab.repairs ++ [{ r with waiting := false, queued := false }] := by
  change s.fab.repairs ++ [{ r with waiting := false, queued := s.fab.tuning r }] = _
  rw [h]

theorem tryNext_of_canTry {s : State} {r : Repair} (n : Nat) (hattempt : r.attempt ≤ 2) (h : s.canTry r = true) :
    State.tryNext (n + 1) s r = s.tryIt r := by
  rw [State.tryNext, if_neg (Nat.not_lt.2 hattempt), if_pos h]
  rfl

/-- Without light on the secondary line a lost primary line is removed (14 R335). -/
theorem tryNext_of_noLight {s : State} {r : Repair} (n : Nat) (hattempt : r.attempt = 0) (hchan : r.chan = none) (hline : r.line < 64)
    (h : s.canTry r = false) : State.tryNext (n + 1) s r = s.repairRemove r := by
  rw [State.tryNext, if_neg (by omega), if_neg (by rw [h]; decide), if_pos ⟨hattempt, hline, hchan⟩]

theorem State.mends_upRepairs (s : State) (g : Fabric → List Repair) : s.Mends (s.upFab fun f => { f with repairs := g f }) :=
  ⟨rfl, List.Subset.refl _, List.Subset.refl _, List.Subset.refl _, List.Subset.refl _⟩

theorem State.mends_tryNext (n : Nat) (s : State) (r : Repair) : s.Mends (State.tryNext n s r) := by
  induction n generalizing r with
  | zero => exact (s.quiet_repairRemove r).toMends
  | succ n ih =>
    rw [State.tryNext]
    split
    · exact (s.quiet_repairRemove r).toMends
    split
    · exact s.mends_upRepairs _
    split
    · exact (s.quiet_repairRemove r).toMends
    · exact ih _

theorem State.mends_dropRepair (s : State) (r : Repair) : s.Mends (s.dropRepair r) := s.mends_upRepairs _

theorem State.mends_beginRepair (s : State) (p k : Nat) (chan : Option Nat) : s.Mends (s.beginRepair p k chan) := by
  unfold State.beginRepair
  split
  · exact State.Mends.refl s
  split
  · exact s.mends_upRepairs _
  · exact State.mends_tryNext _ _ _

theorem State.mends_nextRepairs (s : State) (p : Nat) : s.Mends (s.nextRepairs p) :=
  State.Mends.foldl (fun u r => (u.mends_dropRepair r).trans (State.mends_tryNext _ _ _)) _ s

theorem State.nextRepairs_of_nil {s : State} (h : s.fab.repairs = []) (p : Nat) : s.nextRepairs p = s := by
  unfold State.nextRepairs
  rw [h]
  rfl

/-! ## The end of an attempt -/

/-- Line `k` of port `p` is sent on line `j` of its pair from frame `fr` on, where its light and its reception are taken for good
(14 R335, R337). -/
def State.moveLine (s : State) (fr p k j : Nat) : State :=
  (((s.tellPeers p k fun n => .subst n false p k j fr).markAt fr p (.line (k % 64) (decide (64 ≤ j)))).markAt fr p (.lit j)).markAt
    fr p (.heard k)

theorem State.quiet_moveLine (s : State) (fr p k j : Nat) : s.Quiet (s.moveLine fr p k j) :=
  (s.tells_tellPeers _ _ _).quiet.trans <| (State.quiet_markAt _ _ _ _).trans <| (State.quiet_markAt _ _ _ _).trans <|
    State.quiet_markAt _ _ _ _

theorem State.marked_moveLine (s : State) (fr p k j : Nat) : Marked (s.moveLine fr p k j) fr p (.line (k % 64) (decide (64 ≤ j))) ∧
    Marked (s.moveLine fr p k j) fr p (.lit j) ∧ Marked (s.moveLine fr p k j) fr p (.heard k) :=
  ⟨((State.quiet_markAt _ _ _ _).trans (State.quiet_markAt _ _ _ _)).marked (State.marked_markAt _ _ _ _),
    (State.quiet_markAt _ _ _ _).marked (State.marked_markAt _ _ _ _), State.marked_markAt _ _ _ _⟩

/-- A success on the other line of the pair is recorded, and the line moves at the second frame boundary (14 R335). -/
theorem State.repaired_other (s : State) {r : Repair} (hattempt : r.attempt = 0) :
    s.Quiet (s.repaired r) ∧ Notes (s.repaired r) 6 r.port ∧
      Marked (s.repaired r) s.boundary r.port (.line (r.line % 64) (decide (64 ≤ (r.line + 64) % 128))) ∧
      Marked (s.repaired r) s.boundary r.port (.lit ((r.line + 64) % 128)) ∧
      Marked (s.repaired r) s.boundary r.port (.heard r.line) := by
  unfold State.repaired
  rw [hattempt]
  exact ⟨(s.quiet_note _ _ _ _ _ _).trans (State.quiet_moveLine _ _ _ _ _),
    (State.quiet_moveLine _ _ _ _ _).notes (s.notes_note _ _ _ _ _ fun _ => ⟨rfl, rfl, rfl⟩), State.marked_moveLine _ _ _ _ _⟩

/-- The record of a failed attempt. -/
def State.noteFailure (s : State) (r : Repair) : State :=
  s.note 0x07 r.port (if r.attempt = 1 ∨ r.attempt = 2 then 15 + r.attempt else s.sender r.port r.line)
    (if r.chan.isSome then none else some r.line) (match r.chan with | some c => linesOfRole c | none => [r.line])
    fun e => { e with host := r.byHost }

/-- What follows the record of a failed attempt (14 R335). -/
def State.afterFailure (s : State) (r : Repair) : State :=
  match r.attempt with
  | 0 => if s.tapLit r.port (r.line % 64 + 64) then State.tryNext 3 s { r with attempt := 1 } else s.repairRemove r
  | 3 => State.tryNext 4 s { r with attempt := 0 }
  | _ => State.tryNext 3 s { r with attempt := r.attempt + 1 }

theorem State.attemptFailed_eq (s : State) (r : Repair) : s.attemptFailed r = (s.noteFailure r).afterFailure r := rfl

theorem State.mends_afterFailure (s : State) (r : Repair) : s.Mends (s.afterFailure r) := by
  unfold State.afterFailure
  split
  · split
    · exact State.mends_tryNext _ _ _
    · exact (State.quiet_repairRemove _ _).toMends
  · exact State.mends_tryNext _ _ _
  · exact State.mends_tryNext _ _ _

theorem State.afterFailure_of_dark {s : State} {r : Repair} (hattempt : r.attempt = 0) (h : s.fab.spcDark.get false r.port = true) :
    s.afterFailure r = s.repairRemove r := by
  unfold State.afterFailure
  rw [hattempt, tapLit_secondary_of_dark (Nat.le_add_left _ _) h]
  rfl

/-- A failed attempt is recorded; then the next one is made, or the line or emitter is removed (14 R335). -/
theorem State.attemptFailed_fails (s : State) (r : Repair) : s.Mends (s.attemptFailed r) ∧ Notes (s.attemptFailed r) 7 r.port :=
  have hmends := (s.noteFailure r).mends_afterFailure r
  ⟨(s.quiet_note _ _ _ _ _ _).toMends.trans hmends, hmends.notes (s.notes_note _ _ _ _ _ fun _ => ⟨rfl, rfl, rfl⟩)⟩

/-- A primary line whose secondary line has no light is removed when its attempt fails (14 R335). -/
theorem State.attemptFailed_of_dark {s : State} {r : Repair} (hattempt : r.attempt = 0) (hchan : r.chan = none)
    (h : s.fab.spcDark.get false r.port = true) : (s.attemptFailed r).fab.repairs = s.fab.repairs ∧
      Marked (s.attemptFailed r) s.boundary r.port (.lineGone (r.line % 64)) := by
  have hdark : (s.noteFailure r).fab.spcDark.get false r.port = true := h
  have hquiet : s.Quiet (s.noteFailure r) := s.quiet_note _ _ _ _ _ _
  have hmarked := ((s.noteFailure r).repairRemove_removes r).2
  rw [Repair.out, hchan, State.boundary, hquiet.frame] at hmarked
  rw [s.attemptFailed_eq, State.afterFailure_of_dark hattempt hdark]
  exact ⟨((s.noteFailure r).quiet_repairRemove r).repairs.trans hquiet.repairs, hmarked⟩

end Sys2Proof.Machine

namespace Sys2Proof.Claims

open Sys2Proof Sys2Proof.Machine

theorem OnlyFab.draw {s t : State} (h : OnlyFab s t) : OnlyFabFree s t.draw := by
  have hdraw := congrArg (fun u : State => ({ u with nfree := t.draw.nfree } : State)) h
  exact hdraw

/-! ## The end of an attempt (14 R335) -/

theorem makes_spareAttemptEnd_none (s : State) (p : Fin 16) (k : Fin 128) (b : Bool)
    (h : ∀ r ∈ s.fab.repairs, ¬(r.port = p ∧ r.line = k ∧ r.waiting = false ∧ r.queued = false)) : Makes (.spareAttemptEnd p k b) s s := by
  have hfind : (s.fab.repairs.find? fun r => r.port == p.val && r.line == k.val && !r.waiting && !r.queued) = none :=
    List.find?_eq_none.2 fun r hr => by
      simp only [Bool.and_eq_true, beq_iff_eq, Bool.not_eq_true', and_assoc]
      exact h r hr
  change execSpareAttemptEnd p k b s = _
  rw [execSpareAttemptEnd, hfind]

/-- What the end of an attempt does where the repair is the only one: it is over, and has failed or succeeded. -/
theorem exec_spareAttemptEnd_lone {s : State} {p : Fin 16} {k : Fin 128} {r : Repair} (b : Bool) (hr : s.fab.repairs = [r])
    (hport : r.port = p) (hline : r.line = k) (hwaiting : r.waiting = false) (hqueued : r.queued = false) :
    exec (.spareAttemptEnd p k b) s = .next (((if b && (s.dropRepair r).tapLit p ((s.dropRepair r).tries r) then
      (s.dropRepair r).repaired r else (s.dropRepair r).attemptFailed r).nextRepairs p).draw) := by
  have hfind : (s.fab.repairs.find? fun r => r.port == p.val && r.line == k.val && !r.waiting && !r.queued) = some r := by
    rw [hr]
    exact List.find?_cons_of_pos (by simp [hport, hline, hwaiting, hqueued])
  change execSpareAttemptEnd p k b s = _
  rw [execSpareAttemptEnd, hfind]

/-- The only repair leaves none behind. -/
theorem repairs_dropRepair_lone {s : State} {r : Repair} (hr : s.fab.repairs = [r]) : (s.dropRepair r).fab.repairs = [] := by
  change s.fab.repairs.erase r = []
  rw [hr, List.erase_cons_head]

section
variable {s : State} {p : Fin 16} {k : Fin 128} {r : Repair} (hr : s.fab.repairs = [r]) (hport : r.port = p) (hline : r.line = k)
  (hwaiting : r.waiting = false) (hqueued : r.queued = false) (hchan : r.chan = none) (hattempt : r.attempt = 0)
include hr hport hline hwaiting hqueued

include hchan hattempt in
theorem ends_spareAttemptEnd_locked (h : Powered s p ((k.val + 64) % 128)) : Ends (.spareAttemptEnd p k true) s fun t =>
    OnlyFabFree s t ∧ t.fab.repairs = [] ∧ Notes t 6 p ∧
      Marked t (s.frame + 2) p (.line (k % 64) (decide (64 ≤ (k.val + 64) % 128))) ∧
      Marked t (s.frame + 2) p (.lit ((k.val + 64) % 128)) ∧ Marked t (s.frame + 2) p (.heard k) := by
  have htries : (s.dropRepair r).tries r = (k.val + 64) % 128 := by
    simp only [State.tries, hchan, hattempt, hline]
  have hlit : (s.dropRepair r).tapLit p ((s.dropRepair r).tries r) = true := by
    rw [htries]
    exact tapLit_of_powered h
  obtain ⟨hquiet, hnotes, hmarked⟩ := (s.dropRepair r).repaired_other hattempt
  have hrepairs := hquiet.repairs.trans (repairs_dropRepair_lone hr)
  have hexec := exec_spareAttemptEnd_lone true hr hport hline hwaiting hqueued
  rw [hlit, Bool.and_true, if_pos rfl, State.nextRepairs_of_nil hrepairs] at hexec
  rw [hport, hline] at hmarked
  rw [hport] at hnotes
  exact ⟨_, hexec, OnlyFab.draw ((s.mends_dropRepair r).trans hquiet.toMends).onlyFab, hrepairs, hnotes, hmarked⟩

theorem ends_spareAttemptEnd_failed : Ends (.spareAttemptEnd p k false) s fun t => Notes t 7 p ∧ OnlyFabFree s t := by
  obtain ⟨hmends, hnotes⟩ := (s.dropRepair r).attemptFailed_fails r
  have hnext := ((s.dropRepair r).attemptFailed r).mends_nextRepairs p
  rw [hport] at hnotes
  exact ⟨_, exec_spareAttemptEnd_lone false hr hport hline hwaiting hqueued, hnext.notes hnotes,
    OnlyFab.draw ((s.mends_dropRepair r).trans (hmends.trans hnext)).onlyFab⟩

include hchan hattempt in
theorem ends_spareAttemptEnd_dark (h : s.fab.spcDark.get false p = true) : Ends (.spareAttemptEnd p k false) s fun t =>
    t.fab.repairs = [] ∧ Marked t (s.frame + 2) p (.lineGone (k % 64)) := by
  have hdark : (s.dropRepair r).fab.spcDark.get false r.port = true := by
    rw [hport]
    exact h
  obtain ⟨hrepairs, hmarked⟩ := State.attemptFailed_of_dark hattempt hchan hdark
  have hrepairs := hrepairs.trans (repairs_dropRepair_lone hr)
  have hexec := exec_spareAttemptEnd_lone false hr hport hline hwaiting hqueued
  rw [Bool.false_and, if_neg Bool.false_ne_true, State.nextRepairs_of_nil hrepairs] at hexec
  rw [hport, hline] at hmarked
  exact ⟨_, hexec, hrepairs, hmarked⟩

end

/-! ## The host's answers (14 R338) -/

theorem makes_repans_none (s : State) (p : Fin 16) (m : Fin 64) (h : s.fab.awaiting p m = none) :
    Makes (.repansSpareComb p m) s s.toC0.draw ∧ Makes (.repansSpareEmitter p m) s s.toC0.draw ∧
      Makes (.repansRetryOriginal p m) s s.toC0.draw ∧ Makes (.repansRemove p m) s s.toC0 ∧ Makes (.repansTimeout p m) s s := by
  have hwake : s.toC0.fab.awaiting p m = none := h
  have hrepans (n : Nat) : s.repans p m n = s.toC0 := by
    simp only [State.repans, hwake]
  refine ⟨?_, ?_, ?_, ?_, ?_⟩
  · change execRepansSpareComb p m s = _
    rw [execRepansSpareComb, hrepans]
  · change execRepansSpareEmitter p m s = _
    rw [execRepansSpareEmitter, hrepans]
  · change execRepansRetryOriginal p m s = _
    rw [execRepansRetryOriginal, hrepans]
  · change execRepansRemove p m s = _
    simp only [execRepansRemove, hwake]
  · change execRepansTimeout p m s = _
    rw [execRepansTimeout, h]

theorem awaiting_spec {f : Fabric} {p m : Nat} {r : Repair} (h : f.awaiting p m = some r) :
    r ∈ f.repairs ∧ r.port = p ∧ r.line % 64 = m ∧ r.waiting = true := by
  have hspec := List.find?_some h
  simp only [Bool.and_eq_true, beq_iff_eq, and_assoc] at hspec
  exact ⟨List.mem_of_find?_eq_some h, hspec⟩

/-- What the removal of repair `r` of line or emitter marks, as the state before it says. -/
theorem out_of_awaiting {s : State} {p : Fin 16} {m : Fin 64} {r : Repair} (h : s.fab.awaiting p m = some r) :
    r.out s = match r.chan with | some c => .chGone (s.fab.serves s.frame p c) | none => .lineGone m := by
  obtain ⟨-, hport, hline, -⟩ := awaiting_spec h
  unfold Repair.out
  rw [hport, hline]

/-- The removal of a repair that waited for the host, whoever decides it (14 R338). -/
theorem removal_of_awaiting {s : State} {p : Fin 16} {m : Fin 64} {r : Repair} (h : s.fab.awaiting p m = some r) (host : Bool) {t : State}
    (ht : t = (s.dropRepair r).repairRemove { r with byHost := host }) :
    OnlyFab s t ∧ t.fab.repairs = s.fab.repairs.erase r ∧
      Marked t (s.frame + 2) p (match r.chan with | some c => .chGone (s.fab.serves s.frame p c) | none => .lineGone m) ∧ Notes t 8 p := by
  obtain ⟨-, hport, -, -⟩ := awaiting_spec h
  have hquiet := (s.dropRepair r).quiet_repairRemove { r with byHost := host }
  obtain ⟨hnotes, hmarked⟩ := (s.dropRepair r).repairRemove_removes { r with byHost := host }
  rw [← ht] at hquiet hnotes hmarked
  have hout : ({ r with byHost := host } : Repair).out (s.dropRepair r) = r.out s := rfl
  rw [hout, out_of_awaiting h] at hmarked
  dsimp only at hmarked hnotes
  rw [hport] at hmarked hnotes
  exact ⟨((s.mends_dropRepair r).trans hquiet.toMends).onlyFab, hquiet.repairs, hmarked, hnotes⟩

theorem ends_repansRemove {s : State} {p : Fin 16} {m : Fin 64} {r : Repair} (h : s.fab.awaiting p m = some r) :
    Ends (.repansRemove p m) s fun t => OnlyFab s.toC0 t ∧ t.fab.repairs = s.fab.repairs.erase r ∧
      Marked t (s.frame + 2) p (match r.chan with | some c => .chGone (s.fab.serves s.frame p c) | none => .lineGone m) ∧ Notes t 8 p := by
  have hwake : s.toC0.fab.awaiting p m = some r := h
  refine ⟨_, ?_, removal_of_awaiting hwake true rfl⟩
  change execRepansRemove p m s = _
  simp only [execRepansRemove, hwake]

theorem makes_repansTimeout_early {s : State} {p : Fin 16} {m : Fin 64} {r : Repair} (h : s.fab.awaiting p m = some r)
    (hdue : ¬ r.since.toNat + 10000000 ≤ s.sys.sidt.toNat) : Makes (.repansTimeout p m) s s := by
  change execRepansTimeout p m s = _
  simp only [execRepansTimeout, h, if_neg hdue]

theorem ends_repansTimeout_due {s : State} {p : Fin 16} {m : Fin 64} {r : Repair} (h : s.fab.awaiting p m = some r)
    (hdue : r.since.toNat + 10000000 ≤ s.sys.sidt.toNat) :
    Ends (.repansTimeout p m) s fun t => OnlyFab s t ∧ t.fab.repairs = s.fab.repairs.erase r ∧
      Marked t (s.frame + 2) p (match r.chan with | some c => .chGone (s.fab.serves s.frame p c) | none => .lineGone m) ∧ Notes t 8 p := by
  refine ⟨_, ?_, removal_of_awaiting h r.byHost rfl⟩
  change execRepansTimeout p m s = _
  simp only [execRepansTimeout, h, if_pos hdue]

/-- Repair `r` with the host's choice of attempt `n` (14 R338). -/
def chosen (r : Repair) (n : Nat) : Repair := { r with attempt := n, byHost := true, waiting := false }

/-- The happening `i` puts attempt `n`, which the host has chosen, in the place of the repair that waited; one that needs no spare emitter
of its own keeps its turn. -/
def TriesNext (s : State) (r : Repair) (i : Instr) (n : Nat) : Prop :=
  Ends i s fun t => OnlyFabFree s.toC0 t ∧ t.fab.repairs = s.fab.repairs.erase r ++
    [{ r with attempt := n, byHost := true, waiting := false, queued := if n = 3 then r.queued else false }]

/-- The attempt on the other line of the pair tunes no spare emitter. -/
theorem tuning_other (f : Fabric) (r : Repair) : f.tuning (chosen r 0) = false := by
  simp [Fabric.tuning, chosen]

/-- Spare emitter 16 is free to try a line where no attempt under way on the port is the one with it. -/
theorem tuning_spareEmitter {f : Fabric} {r : Repair} (h : ∀ z ∈ f.repairs, z.port = r.port → z.waiting = false → z.attempt ≠ 1) :
    f.tuning (chosen r 1) = false := by
  refine List.any_eq_false.2 fun z hz => ?_
  simp only [Bool.and_eq_true, beq_iff_eq, Bool.not_eq_true', and_assoc]
  rintro ⟨hport, hwaiting, -, hemitter, -⟩
  have hattempt := h z hz hport hwaiting
  rw [show (chosen r 1).emitter = 16 from rfl, Repair.emitter] at hemitter
  split at hemitter <;> omega

section
variable {s : State} {p : Fin 16} {m : Fin 64} {r : Repair} (h : s.fab.awaiting p m = some r)
include h

theorem repans_original : s.repans p m 3 =
    (s.toC0.dropRepair r).upFab fun f => { f with repairs := f.repairs ++ [chosen r 3] } := by
  have hwake : s.toC0.fab.awaiting p m = some r := h
  simp only [State.repans, hwake]
  rfl

theorem repans_of_canTry {n : Nat} (hn : n ≤ 2) (hcan : (s.toC0.dropRepair r).canTry (chosen r n) = true) :
    s.repans p m n = (s.toC0.dropRepair r).tryIt (chosen r n) := by
  have hwake : s.toC0.fab.awaiting p m = some r := h
  simp only [State.repans, hwake]
  rw [if_neg (by omega)]
  exact tryNext_of_canTry 3 hn hcan

theorem triesNext_original {i : Instr} (hexec : exec i s = .next (s.repans p m 3).draw) : TriesNext s r i 3 := by
  rw [repans_original h] at hexec
  exact ⟨_, hexec, rfl, rfl⟩

theorem triesNext_of_canTry {i : Instr} {n : Nat} (hexec : exec i s = .next (s.repans p m n).draw) (hn : n ≤ 2)
    (hcan : (s.toC0.dropRepair r).canTry (chosen r n) = true) (hidle : (s.toC0.dropRepair r).fab.tuning (chosen r n) = false) :
    TriesNext s r i n := by
  rw [repans_of_canTry h hn hcan] at hexec
  refine ⟨_, hexec, rfl, ?_⟩
  rw [if_neg (by omega)]
  exact State.repairs_tryIt hidle

variable (hchan : r.chan = none)
include hchan

theorem triesNext_other {i : Instr} (hline : r.line < 128) (hexec : exec i s = .next (s.repans p m 0).draw)
    (hlit : Powered s p ((r.line + 64) % 128)) : TriesNext s r i 0 := by
  obtain ⟨-, hport, -, -⟩ := awaiting_spec h
  rw [← hport] at hlit
  exact triesNext_of_canTry h hexec (by decide) (canTry_other (r := chosen r 0) rfl hchan hline hlit) (tuning_other _ _)

/-- Spare emitter 16 is the first that is tried; while it tries another line of the port, the attempt would wait. -/
theorem triesNext_spareEmitter (hfree : s.fab.spareFree p 16 = true)
    (hidle : ∀ z ∈ s.fab.repairs, z.port = p → z.waiting = false → z.attempt ≠ 1) (hlit : r.line < 64 ∨ Powered s p r.line) :
    TriesNext s r (.repansSpareEmitter p m) 1 := by
  obtain ⟨-, hport, -, -⟩ := awaiting_spec h
  rw [← hport] at hlit hfree hidle
  exact triesNext_of_canTry h rfl (by decide) (canTry_spareEmitter (r := chosen r 1) rfl hchan hfree hlit)
    (tuning_spareEmitter fun z hz => hidle z (List.mem_of_mem_erase hz))

end

/-- Which attempt the host's answers ask for, by the line that was lost (14 R338). -/
theorem retryOf_of_awaiting {s : State} {p : Fin 16} {m : Fin 64} {r : Repair} (h : s.fab.awaiting p m = some r) :
    s.fab.retryOf p m = if 64 ≤ r.line then 0 else 3 := by
  simp only [Fabric.retryOf, h, Option.any_some, decide_eq_true_eq]

theorem exec_repansSpareComb {s : State} {p : Fin 16} {m : Fin 64} {r : Repair} (h : s.fab.awaiting p m = some r) :
    exec (.repansSpareComb p m) s = .next (s.repans p m (if 64 ≤ r.line then 3 else 0)).draw := by
  change execRepansSpareComb p m s = _
  simp only [execRepansSpareComb, h, Option.any_some, decide_eq_true_eq]

theorem exec_repansRetryOriginal {s : State} {p : Fin 16} {m : Fin 64} {r : Repair} (h : s.fab.awaiting p m = some r) :
    exec (.repansRetryOriginal p m) s = .next (s.repans p m (if 64 ≤ r.line then 0 else 3)).draw := by
  change execRepansRetryOriginal p m s = _
  rw [execRepansRetryOriginal, retryOf_of_awaiting h]

/-- The host's choice of an attempt for a lost comb line (14 R338). -/
theorem triesNext_repans {s : State} {p : Fin 16} {m : Fin 64} {r : Repair} (h : s.fab.awaiting p m = some r) (hchan : r.chan = none)
    (hline : r.line < 128) :
    (r.line < 64 → Powered s p (r.line + 64) → TriesNext s r (.repansSpareComb p m) 0) ∧
    (64 ≤ r.line → TriesNext s r (.repansSpareComb p m) 3) ∧
    (s.fab.spareFree p 16 = true → (∀ z ∈ s.fab.repairs, z.port = p → z.waiting = false → z.attempt ≠ 1) →
      r.line < 64 ∨ Powered s p r.line → TriesNext s r (.repansSpareEmitter p m) 1) ∧
    (r.line < 64 → TriesNext s r (.repansRetryOriginal p m) 3) ∧
    (64 ≤ r.line → Powered s p (r.line - 64) → TriesNext s r (.repansRetryOriginal p m) 0) := by
  have hcomb := exec_repansSpareComb h
  have hretry := exec_repansRetryOriginal h
  refine ⟨fun hlow hlit => ?_, fun hhigh => ?_, triesNext_spareEmitter h hchan, fun hlow => ?_, fun hhigh hlit => ?_⟩
  · rw [if_neg (by omega)] at hcomb
    rw [← Nat.mod_eq_of_lt (show r.line + 64 < 128 by omega)] at hlit
    exact triesNext_other h hchan hline hcomb hlit
  · rw [if_pos hhigh] at hcomb
    exact triesNext_original h hcomb
  · rw [if_neg (by omega)] at hretry
    exact triesNext_original h hretry
  · rw [if_pos hhigh] at hretry
    rw [show r.line - 64 = (r.line + 64) % 128 by omega] at hlit
    exact triesNext_other h hchan hline hretry hlit

theorem attempts_holds : attempts := fun s p k m b =>
  ⟨makes_spareAttemptEnd_none s p k b,
    fun _ hr hport hline hwaiting hqueued hchan hattempt =>
      ⟨ends_spareAttemptEnd_locked hr hport hline hwaiting hqueued hchan hattempt,
        ends_spareAttemptEnd_failed hr hport hline hwaiting hqueued,
        ends_spareAttemptEnd_dark hr hport hline hwaiting hqueued hchan hattempt⟩,
    makes_repans_none s p m,
    fun _ h => ⟨ends_repansRemove h, makes_repansTimeout_early h, ends_repansTimeout_due h⟩,
    fun _ h hchan hline => triesNext_repans h hchan hline⟩

end Sys2Proof.Claims
end

section
/-! SUPPORT. Losses of light, signal and lock, away from the restripe (01 R20; 14 R332, R333, R335). -/

namespace Sys2Proof.Machine

open Sys2Proof.Claims

/-! ## A line loses its light -/

/-- Comb line `k` of port `p` is dark. -/
def State.darken (s : State) (p k : Nat) : State := s.upFab fun f => { f with dark := f.dark.set false (128 * p + k) true }

theorem State.loseLight_of_dark {s : State} {p k : Nat} (h : s.fab.dark.get false (128 * p + k) = true) : s.loseLight p k = s := if_pos h

/-- Of a line in use the record waits for the restripe, which completes it (14 R334). -/
theorem State.loseLight_used {s : State} {p k : Nat} (h : s.fab.dark.get false (128 * p + k) ≠ true)
    (hused : s.fab.ownLine s.frame p (k % 64) = some k) : ∃ x : EvRec,
    s.loseLight p k = (s.darken p k).upFab (fun f => { f with lol := f.lol ++ [(p, k, x)] }) ∧
      x.type = 1 ∧ x.port = p ∧ x.chan = s.sender p k ∧ x.line = some k ∧ x.tdet = s.sys.sidt :=
  ⟨_, (if_neg h).trans (if_pos (beq_iff_eq.2 hused)), (s.darken p k).evLease_about p (s.sender p k) [k] _⟩

theorem State.loseLight_unused {s : State} {p k : Nat} (h : s.fab.dark.get false (128 * p + k) ≠ true)
    (hused : s.fab.ownLine s.frame p (k % 64) ≠ some k) :
    s.loseLight p k = if 64 ≤ k then s.darken p k else (s.darken p k).note 0x01 p ((s.darken p k).sender p k) (some k) [] id :=
  (if_neg h).trans (if_neg (mt beq_iff_eq.1 hused))

/-- What any loss of light changes: the line is dark, and records are made. -/
theorem State.loseLight_changes (s : State) (p k : Nat) : ∃ l q, s.loseLight p k =
    s.upFab fun f => { f with dark := (s.loseLight p k).fab.dark, lol := l, evq := q } := by
  unfold State.loseLight
  dsimp only
  split
  · exact ⟨_, _, rfl⟩
  split
  · exact ⟨_, _, rfl⟩
  split
  · exact ⟨_, _, rfl⟩
  · exact ⟨_, _, rfl⟩

theorem State.onlyFab_loseLight (s : State) (p k : Nat) : OnlyFab s (s.loseLight p k) := by
  obtain ⟨l, q, heq⟩ := s.loseLight_changes p k
  rw [heq]
  rfl

theorem State.spcDark_loseLight (s : State) (p k : Nat) : (s.loseLight p k).fab.spcDark = s.fab.spcDark := by
  obtain ⟨l, q, heq⟩ := s.loseLight_changes p k
  rw [heq]
  rfl

theorem State.dark_loseLight (s : State) (p k j : Nat) :
    (s.loseLight p k).fab.dark.get false j = if j = 128 * p + k then true else s.fab.dark.get false j := by
  have hdark (h : s.fab.dark.get false (128 * p + k) ≠ true) :
      (s.loseLight p k).fab.dark = s.fab.dark.set false (128 * p + k) true := by
    unfold State.loseLight
    rw [if_neg h]
    split
    · rfl
    split <;> rfl
  by_cases h : s.fab.dark.get false (128 * p + k) = true
  · rw [State.loseLight_of_dark h]
    split
    next hj => rw [hj, h]
    · rfl
  · rw [hdark h, SMap.get_set]

/-! ## A module fails (01 R20) -/

/-- Every line of `es` loses its light. -/
def State.loseLights (s : State) (es : List (Nat × Nat)) : State := es.foldl (fun s e => s.loseLight e.1 e.2) s

theorem State.onlyFab_loseLights (s : State) (es : List (Nat × Nat)) : OnlyFab s (s.loseLights es) :=
  List.foldlRecOn es _ (motive := OnlyFab s) rfl fun u hu e _ => onlyFab_trans hu (u.onlyFab_loseLight e.1 e.2)

theorem State.spcDark_loseLights (s : State) (es : List (Nat × Nat)) : (s.loseLights es).fab.spcDark = s.fab.spcDark :=
  List.foldlRecOn es _ (motive := fun u : State => u.fab.spcDark = s.fab.spcDark) rfl fun u hu e _ => (u.spcDark_loseLight e.1 e.2).trans hu

theorem State.dark_loseLights (s : State) (es : List (Nat × Nat)) (j : Nat) :
    (s.loseLights es).fab.dark.get false j = if ∃ e ∈ es, j = 128 * e.1 + e.2 then true else s.fab.dark.get false j := by
  induction es generalizing s with
  | nil => simp [State.loseLights]
  | cons e es ih =>
    change ((s.loseLight e.1 e.2).loseLights es).fab.dark.get false j = _
    rw [ih, State.dark_loseLight]
    simp only [List.mem_cons, exists_eq_or_imp]
    by_cases he : j = 128 * e.1 + e.2
    · simp only [he, if_pos, true_or, ite_self]
    · simp only [he, false_or, if_false]

/-- The module of primary line `k` feeds every fourth primary line of its die's four ports (01 R20). -/
theorem mem_fedWith_primary {p k q j : Nat} (hk : k < 64) (hq : q / 4 = p / 4) (hj : j < 64) (hjk : j % 4 = k % 4) : (q, j) ∈ fedWith p k := by
  simp only [fedWith, if_pos hk, List.mem_flatMap, List.mem_map, List.mem_range, Prod.mk.injEq]
  exact ⟨q, ⟨q % 4, by omega, by omega⟩, j / 4, by omega, rfl, by omega⟩

/-- A spare comb feeds the secondary lines of its die's four ports (01 R20). -/
theorem mem_fedWith_secondary {p q j : Nat} : (q, j) ∈ fedWith p 64 ↔ q / 4 = p / 4 ∧ 64 ≤ j ∧ j < 128 := by
  simp only [fedWith, if_neg (Nat.lt_irrefl 64), List.mem_flatMap, List.mem_map, List.mem_range, Prod.mk.injEq]
  constructor
  · rintro ⟨q', ⟨i, hi, rfl⟩, j', hj', rfl, rfl⟩
    exact ⟨by omega, by omega, by omega⟩
  · rintro ⟨hq, hlow, hhigh⟩
    exact ⟨q, ⟨q % 4, by omega, by omega⟩, j - 64, by omega, rfl, by omega⟩

/-- The state with another record of the ports whose spare comb gives no light. -/
def State.withSpc (s : State) (m : SMap Bool) : State := s.upFab fun f => { f with spcDark := m }

theorem State.foldl_spcDark (s : State) (g : SMap Bool → Nat → SMap Bool) (is : List Nat) :
    is.foldl (fun s i => s.upFab fun f => { f with spcDark := g f.spcDark i }) s = s.withSpc (is.foldl g s.fab.spcDark) := by
  induction is generalizing s with
  | nil => rfl
  | cons i is ih =>
    rw [List.foldl_cons, ih]
    rfl

/-- The secondary range of a die's ports gains or loses power, and nothing else changes. -/
theorem State.setSpc_eq (s : State) (p : Nat) (on : Bool) :
    s.setSpc p on = s.withSpc ((List.range 4).foldl (fun m i => m.set false (4 * (p / 4) + i) (!on)) s.fab.spcDark) := by
  unfold State.setSpc
  exact s.foldl_spcDark (fun m i => m.set false (4 * (p / 4) + i) (!on)) (List.range 4)

theorem get_foldl_set (m : SMap Bool) (b : Bool) (x : Nat → Nat) (is : List Nat) (q : Nat) :
    SMap.get false (is.foldl (fun m i => m.set false (x i) b) m) q = if ∃ i ∈ is, q = x i then b else m.get false q := by
  induction is generalizing m with
  | nil => simp
  | cons i is ih =>
    rw [List.foldl_cons, ih, SMap.get_set]
    simp only [List.mem_cons, exists_eq_or_imp]
    by_cases hi : q = x i
    · simp only [hi, if_pos, true_or, ite_self]
    · simp only [hi, false_or, if_false]

theorem State.spcDark_setSpc (s : State) (p : Nat) (on : Bool) (q : Nat) :
    (s.setSpc p on).fab.spcDark.get false q = if q / 4 = p / 4 then !on else s.fab.spcDark.get false q := by
  have hdie : (∃ i ∈ List.range 4, q = 4 * (p / 4) + i) ↔ q / 4 = p / 4 := by
    simp only [List.mem_range]
    exact ⟨fun ⟨i, hi, hq⟩ => by omega, fun hq => ⟨q % 4, by omega, by omega⟩⟩
  rw [s.setSpc_eq]
  exact (get_foldl_set _ _ _ _ _).trans (if_congr hdie rfl rfl)

theorem State.dark_setSpc (s : State) (p : Nat) (on : Bool) : (s.setSpc p on).fab.dark = s.fab.dark := by
  rw [s.setSpc_eq]
  rfl

theorem State.onlyFab_setSpc (s : State) (p : Nat) (on : Bool) : OnlyFab s (s.setSpc p on) := by
  rw [s.setSpc_eq]
  rfl

theorem State.spareLost_eq (s : State) (p : Nat) : s.spareLost p = (s.setSpc p false).loseLights (fedWith p 64) := rfl

theorem State.onlyFab_spareLost (s : State) (p : Nat) : OnlyFab s (s.spareLost p) :=
  onlyFab_trans (s.onlyFab_setSpc p false) (State.onlyFab_loseLights _ _)

theorem State.spcDark_spareLost (s : State) (p q : Nat) :
    (s.spareLost p).fab.spcDark.get false q = if q / 4 = p / 4 then true else s.fab.spcDark.get false q := by
  rw [State.spareLost_eq, State.spcDark_loseLights, State.spcDark_setSpc]
  rfl

theorem State.dark_spareLost (s : State) (p q j : Nat) (hj : j < 128) : (s.spareLost p).fab.dark.get false (128 * q + j) =
    if q / 4 = p / 4 ∧ 64 ≤ j then true else s.fab.dark.get false (128 * q + j) := by
  have hfed : (∃ e ∈ fedWith p 64, 128 * q + j = 128 * e.1 + e.2) ↔ q / 4 = p / 4 ∧ 64 ≤ j := by
    constructor
    · rintro ⟨⟨q', j'⟩, hmem, heq⟩
      obtain ⟨hq, hlow, hhigh⟩ := mem_fedWith_secondary.1 hmem
      obtain ⟨rfl, rfl⟩ : q = q' ∧ j = j' := by omega
      exact ⟨hq, hlow⟩
    · rintro ⟨hq, hlow⟩
      exact ⟨(q, j), mem_fedWith_secondary.2 ⟨hq, hlow, hj⟩, rfl⟩
  rw [State.spareLost_eq, State.dark_loseLights, State.dark_setSpc]
  exact if_congr hfed rfl rfl

/-- What a map reads once the entries of some keys are gone. -/
theorem get_filter_key {m : SMap Bool} (keep : Nat → Bool) (j : Nat) :
    SMap.get false (m.filter fun e => keep e.1) j = if keep j = true then m.get false j else false := by
  induction m with
  | nil => simp
  | cons e m ih =>
    obtain ⟨i, v⟩ := e
    by_cases hi : keep i = true
    · rw [List.filter_cons_of_pos (p := fun e : Nat × Bool => keep e.1) hi, SMap.get, ih, SMap.get]
      by_cases hj : j = i
      · rw [if_pos hj, if_pos hj, if_pos (hj ▸ hi)]
      · rw [if_neg hj, if_neg hj]
    · rw [List.filter_cons_of_neg (p := fun e : Nat × Bool => keep e.1) hi, ih, SMap.get]
      by_cases hj : j = i
      · rw [if_neg (hj ▸ hi), if_neg (hj ▸ hi)]
      · rw [if_neg hj]

theorem State.dark_spareBack (s : State) (p q j : Nat) (hj : j < 128) : (s.spareBack p).fab.dark.get false (128 * q + j) =
    if q / 4 = p / 4 ∧ 64 ≤ j ∧ s.fab.ownLine s.frame q (j - 64) ≠ some j then false else s.fab.dark.get false (128 * q + j) := by
  have hkeep := get_filter_key (m := s.fab.dark) (fun i => !(decide (i / 512 = p / 4) && decide (64 ≤ i % 128) &&
    s.fab.ownLine s.frame (i / 128) (i % 64) != some (i % 128))) (128 * q + j)
  have hport : (128 * q + j) / 128 = q := by omega
  have hline : (128 * q + j) % 128 = j := by omega
  have hdie : (128 * q + j) / 512 = q / 4 := by omega
  rw [hport, hline, hdie] at hkeep
  refine Eq.trans hkeep ?_
  by_cases hlow : 64 ≤ j
  · rw [show (128 * q + j) % 64 = j - 64 by omega]
    by_cases hq : q / 4 = p / 4 <;> by_cases hown : s.fab.ownLine s.frame q (j - 64) = some j <;> simp [hlow, hq, hown]
  · simp [hlow]

theorem State.ownLine_setSpc (s : State) (p : Nat) (on : Bool) : (s.setSpc p on).fab.ownLine (s.setSpc p on).frame = s.fab.ownLine s.frame := by
  rw [s.setSpc_eq]
  rfl

end Sys2Proof.Machine

namespace Sys2Proof.Claims

open Sys2Proof Sys2Proof.Machine

/-! ## Light (14 R332, R333) -/

theorem makes_lossOfLight_dark {s : State} {p : Fin 16} {k : Fin 128} (h : s.fab.dark.get false (128 * p.val + k) = true) :
    Makes (.lossOfLight p (.one k)) s s.draw :=
  congrArg (fun u : State => Host.Outcome.next u.draw) (State.loseLight_of_dark h)

theorem makes_lossOfLight_spare {s : State} {p : Fin 16} {k : Fin 128} (h : ¬ s.fab.dark.get false (128 * p.val + k) = true)
    (hk : 64 ≤ k.val) (hused : ¬ s.fab.ownLine s.frame p (k.val % 64) = some k.val) :
    Makes (.lossOfLight p (.one k)) s (s.darken p k).draw :=
  congrArg (fun u : State => Host.Outcome.next u.draw) ((State.loseLight_unused h hused).trans (if_pos hk))

theorem ends_lossOfLight_replaced {s : State} {p : Fin 16} {k : Fin 128} (h : ¬ s.fab.dark.get false (128 * p.val + k) = true)
    (hk : k.val < 64) (hused : ¬ s.fab.ownLine s.frame p (k.val % 64) = some k.val) : Ends (.lossOfLight p (.one k)) s fun t =>
    OnlyFabFree s t ∧ t.fab.dark = (s.darken p k).fab.dark ∧ NotesOne s t 1 p (s.sender p k) ∧ t.fab.store = s.fab.store ∧
      t.fab.repairs = s.fab.repairs ∧ t.fab.wire = s.fab.wire := by
  have heq := (State.loseLight_unused h hused).trans (if_neg (Nat.not_le.2 hk))
  obtain ⟨e, hnote, habout⟩ := (s.darken p k).note_eq_postEv 1 p ((s.darken p k).sender p k) (some k.val) [] keepsAbout_id
  exact ⟨((s.darken p k).postEv e).draw, congrArg (fun u : State => Host.Outcome.next u.draw) (heq.trans hnote), rfl, rfl,
    ⟨e, rfl, habout⟩, rfl, rfl, rfl⟩

theorem ends_lossOfLight_used {s : State} {p : Fin 16} {k : Fin 128} (h : ¬ s.fab.dark.get false (128 * p.val + k) = true)
    (hused : s.fab.ownLine s.frame p (k.val % 64) = some k.val) : Ends (.lossOfLight p (.one k)) s fun t =>
    OnlyFabFree s t ∧ t.fab.dark = (s.darken p k).fab.dark ∧ t.fab.store = s.fab.store ∧ t.fab.repairs = s.fab.repairs ∧
      t.fab.wire = s.fab.wire ∧ t.fab.evq = s.fab.evq ∧ ∃ x : EvRec, t.fab.lol = s.fab.lol ++ [(p.val, k.val, x)] ∧
        x.type = 1 ∧ x.port = p ∧ x.chan = s.sender p k ∧ x.line = some k.val ∧ x.tdet = s.sys.sidt := by
  obtain ⟨x, heq, habout⟩ := State.loseLight_used h hused
  exact ⟨_, congrArg (fun u : State => Host.Outcome.next u.draw) heq, rfl, rfl, rfl, rfl, rfl, rfl, x, rfl, habout⟩

theorem ends_lossOfLight_module {s : State} {p : Fin 16} {k : Fin 128} (hk : k.val < 64) : Ends (.lossOfLight p (.fed k)) s fun t =>
    OnlyFabFree s t ∧ ∀ q j, q / 4 = p.val / 4 → j < 64 → j % 4 = k.val % 4 → t.fab.lineLit q j = false := by
  have hexec : exec (.lossOfLight p (.fed k)) s = .next (s.loseLights (fedWith p k)).draw :=
    congrArg (fun u : State => Host.Outcome.next u.draw) (if_neg (Nat.not_le.2 hk))
  refine ⟨_, hexec, OnlyFab.draw (s.onlyFab_loseLights _), fun q j hq hj hjk => ?_⟩
  have hdark : (s.loseLights (fedWith p k)).draw.fab.dark.get false (128 * q + j) = true :=
    (s.dark_loseLights _ _).trans (if_pos ⟨(q, j), mem_fedWith_primary hk hq hj hjk, rfl⟩)
  rw [Fabric.lineLit, hdark]
  rfl

theorem ends_lossOfLight_spareComb {s : State} {p : Fin 16} {k : Fin 128} (hk : 64 ≤ k.val) : Ends (.lossOfLight p (.fed k)) s fun t =>
    OnlyFabFree s t ∧ ∀ q, q / 4 = p.val / 4 → t.fab.spcDark.get false q = true := by
  have hexec : exec (.lossOfLight p (.fed k)) s = .next (s.spareLost p).draw :=
    congrArg (fun u : State => Host.Outcome.next u.draw) (if_pos hk)
  exact ⟨_, hexec, OnlyFab.draw (s.onlyFab_spareLost p), fun q hq => by
    rw [State.draw_fab, s.spcDark_spareLost p q, if_pos hq]⟩

/-- A module fails: comb lines ELS feeds, or the spare comb of the die (01 R20). -/
theorem ends_lossOfLight_fed (s : State) (p : Fin 16) (k : Fin 128) : Ends (.lossOfLight p (.fed k)) s fun t => OnlyFabFree s t ∧
    (k.val < 64 → ∀ q j, q < 16 → q / 4 = p.val / 4 → j < 64 → j % 4 = k.val % 4 → t.fab.lineLit q j = false) ∧
    (64 ≤ k.val → ∀ q, q < 16 → q / 4 = p.val / 4 → t.fab.spcDark.get false q = true) := by
  rcases Nat.lt_or_ge k.val 64 with hk | hk
  · obtain ⟨t, hexec, honly, hlines⟩ := ends_lossOfLight_module (s := s) (p := p) hk
    exact ⟨t, hexec, honly, fun _ q j _ => hlines q j, fun hhigh => absurd hk (Nat.not_lt.2 hhigh)⟩
  · obtain ⟨t, hexec, honly, hports⟩ := ends_lossOfLight_spareComb (s := s) (p := p) hk
    exact ⟨t, hexec, honly, fun hlow => absurd hlow (Nat.not_lt.2 hk), fun _ q _ => hports q⟩

theorem ends_spareCombLightChange (s : State) (p : Fin 16) (b : Bool) : Ends (.spareCombLightChange p b) s fun t => OnlyFab s t ∧
    (∀ q, q < 16 → t.fab.spcDark.get false q = if q / 4 = p.val / 4 then !b else s.fab.spcDark.get false q) ∧
    ∀ q j, q < 16 → j < 128 → t.fab.dark.get false (128 * q + j) =
      if q / 4 = p.val / 4 ∧ 64 ≤ j then (if b = true ∧ s.fab.ownLine s.frame q (j - 64) ≠ some j then false
        else if b = true then s.fab.dark.get false (128 * q + j) else true)
      else s.fab.dark.get false (128 * q + j) := by
  cases b with
  | false =>
    refine ⟨s.spareLost p, rfl, s.onlyFab_spareLost p, fun q _ => ?_, fun q j _ hj => ?_⟩
    · rw [s.spcDark_spareLost p q]
      rfl
    rw [s.dark_spareLost p q j hj]
    simp only [Bool.false_eq_true, false_and, if_false]
  | true =>
    refine ⟨(s.setSpc p true).spareBack p, rfl, onlyFab_trans (s.onlyFab_setSpc p true) rfl, fun q _ => s.spcDark_setSpc p true q,
      fun q j _ hj => ?_⟩
    rw [State.dark_spareBack _ p q j hj, s.ownLine_setSpc, s.dark_setSpc]
    by_cases hdie : q / 4 = p.val / 4 ∧ 64 ≤ j
    · simp only [hdie, true_and, if_true]
    · rw [if_neg hdie, if_neg fun h => hdie ⟨h.1, h.2.1⟩]

end Sys2Proof.Claims
end

section
/-! SUPPORT. Channels and detectors that fail: losses of signal, retunes, failed locks (14 R332, R333, R335). -/

namespace Sys2Proof.Machine

open Sys2Proof.Claims

theorem State.Tells.evq {s t : State} (h : s.Tells t) : t.fab.evq = s.fab.evq := by
  obtain ⟨w, q, rfl⟩ := h
  rfl

theorem State.Tells.unlocked {s t : State} (h : s.Tells t) : t.fab.unlocked = s.fab.unlocked := by
  obtain ⟨w, q, rfl⟩ := h
  rfl

/-! ## A detector that is replaced -/

/-- Spare detector 34 stands in for detector `ch` from the next frame boundary on, if it is free (14 R335). -/
theorem State.marked_replaceDetector {s : State} {p : Nat} (ch : Nat) (h : s.fab.spareFree p 34 = true) :
    Marked (s.replaceDetector p ch) (s.frame + 1) p (.spare 34 ch) := by
  have hfind : [34, 35].find? (fun b => s.fab.spareFree p b) = some 34 := List.find?_cons_of_pos h
  simp only [State.replaceDetector, hfind]
  exact (State.Tells.foldl (fun u k => u.tells_tellIn _ _ _) _ _).quiet.marked (State.marked_markAt _ _ _ _)

theorem State.quiet_replaceDetector (s : State) (p ch : Nat) : s.Quiet (s.replaceDetector p ch) := by
  unfold State.replaceDetector
  dsimp only
  split
  · exact (s.quiet_note _ _ _ _ _ _).trans <| (State.quiet_markAt _ _ _ _).trans <|
      (State.Tells.foldl (fun u k => u.tells_tellIn _ _ _) _ _).quiet
  · exact (State.Tells.foldl (fun u k => u.tells_tellIn _ _ _) _ s).quiet.trans <| (State.quiet_shrinkIn _ _ _ _).trans <|
      (State.quiet_note _ _ _ _ _ _ _).trans (State.quiet_markAt _ _ _ _)

/-! ## A detector that sees no light -/

/-- Detector `c` is under LOS, and the link of line `k` replays nothing more (14 R333). -/
def State.deafen (s : State) (p k c : Nat) : State :=
  (s.stopReplay p k).upFab fun f => { f with los := f.los.set false (36 * p + c) true }

theorem State.los_deafen (s : State) (p k c : Nat) : (s.deafen p k c).fab.los = s.fab.los.set false (36 * p + c) true := rfl

theorem State.onlyFab_deafen (s : State) (p k c : Nat) : OnlyFab s (s.deafen p k c) := rfl

theorem State.frame_deafen (s : State) (p k c : Nat) : (s.deafen p k c).frame = s.frame := rfl

theorem State.detectorOf_deafen (s : State) (p k c q d : Nat) : (s.deafen p k c).detectorOf q d = s.detectorOf q d := rfl

theorem State.goes_deafen {a s : State} {m : FabMsg} (h : Goes a s m) (p k c : Nat) : Goes a (s.deafen p k c) m := h

theorem State.notesOne_deafen {a s : State} {type q d : Nat} (h : NotesOne a s type q d) (p k c : Nat) :
    NotesOne a (s.deafen p k c) type q d := h

theorem State.spareFree_deafen {s : State} {p c b : Nat} (h : s.fab.spareFree p b = true) (hb : b ≠ c) (k : Nat) :
    (s.deafen p k c).fab.spareFree p b = true := by
  have hlos : (s.deafen p k c).fab.los.get false (36 * p + b) = s.fab.los.get false (36 * p + b) :=
    SMap.get_set_of_ne _ s.fab.los true (by omega)
  rw [← h, Fabric.spareFree, hlos]
  rfl

/-- The loss of signal on comb line `k` at detector `c` as it is recorded and told (14 R333, R337). -/
def State.signalNoted (s : State) (p k c : Nat) : State := (s.note 0x02 p c (some k) [k] id).tellIn p k fun n => .loss n true p k

theorem State.quiet_signalNoted (s : State) (p k c : Nat) : s.Quiet (s.signalNoted p k c) :=
  (s.quiet_note _ _ _ _ _ _).trans (State.tells_tellIn _ _ _ _).quiet

theorem State.notesOne_signalNoted (s : State) (p k c : Nat) : NotesOne s (s.signalNoted p k c) 2 p c := by
  obtain ⟨e, heq, habout⟩ := s.notesOne_note 2 p c (some k) [k] keepsAbout_id
  exact ⟨e, (State.tells_tellIn _ p k _).evq.trans heq, habout⟩

/-- The senders and sources that the lost line concerns are told. -/
theorem State.goes_signalNoted (s : State) (p k c : Nat) {n : BitVec 13} (hn : n ∈ s.concernedIn p k) (hr : s.notifiable n = true) :
    Goes s (s.signalNoted p k c) (.loss (some n) true p k) := by
  obtain ⟨e, heq, -⟩ := s.note_eq_postEv 2 p c (some k) [k] keepsAbout_id
  rw [State.signalNoted, heq]
  exact (s.postEv e).goes_tell (s.concernedIn p k) (fun n => .loss n true p k) hn hr

theorem State.signalNoted_eq (s : State) (p k c : Nat) : ∃ e w q,
    s.signalNoted p k c = s.upFab fun f => { f with evq := f.evq ++ [e], wire := w ++ f.wire, ctlq := f.ctlq ++ q } := by
  obtain ⟨w, q, heq⟩ := (s.note 0x02 p c (some k) [k] id).tells_tellIn p k fun n => .loss n true p k
  exact ⟨_, w, q, heq⟩

theorem State.detectorOf_signalNoted (s : State) (p k c q d : Nat) : (s.signalNoted p k c).detectorOf q d = s.detectorOf q d := by
  obtain ⟨e, w, q, heq⟩ := s.signalNoted_eq p k c
  rw [heq]
  rfl

theorem State.spareFree_signalNoted (s : State) (p k c q b : Nat) : (s.signalNoted p k c).fab.spareFree q b = s.fab.spareFree q b := by
  obtain ⟨e, w, q, heq⟩ := s.signalNoted_eq p k c
  rw [heq]
  rfl

/-! ## A channel that goes dark -/

/-- Channel `ch` of port `p` is without lock, or has it. -/
def State.setUnlocked (s : State) (p ch : Nat) (b : Bool) : State :=
  s.upFab fun f => { f with unlocked := f.unlocked.set false (36 * p + ch) b }

/-- The state without what the loss of a channel changes beside the lock: messages, links and flits that wait to be replayed. -/
def State.sansLinks (s : State) : State := s.upFab fun f => { f with wire := [], ctlq := [], links := [], store := [], replayVia := [] }

theorem State.Tells.sansLinks {s t : State} (h : s.Tells t) : t.sansLinks = s.sansLinks := by
  obtain ⟨w, q, rfl⟩ := h
  rfl

theorem State.sansLinks_restripe (s : State) (p k : Nat) : (s.restripe p k).1.sansLinks = s.sansLinks := rfl

theorem State.sansLinks_stopReplay (s : State) (p k : Nat) : (s.stopReplay p k).sansLinks = s.sansLinks := rfl

theorem State.eq_of_sansLinks {s t : State} {α : Type} (h : t.sansLinks = s.sansLinks) (f : State → α) (hf : ∀ u : State, f u.sansLinks = f u) :
    f t = f s := by
  rw [← hf t, h, hf]

theorem State.sansLinks_channelLost (s : State) (p ch : Nat) :
    (s.channelLost p ch).1.sansLinks = (s.setUnlocked p ch true).sansLinks := by
  refine List.foldlRecOn (s.linesOf p ch) _ (motive := fun a : State × Nat => a.1.sansLinks = (s.setUnlocked p ch true).sansLinks)
    rfl fun a ha k _ => ?_
  dsimp only
  split
  · rw [(State.tells_tellPeers _ _ _ _).sansLinks, State.sansLinks_restripe, ha]
  · rw [State.sansLinks_stopReplay, (State.tells_tellIn _ _ _ _).sansLinks, ha]

/-- The loss of channel `ch` as it is recorded (14 R333, R335). -/
def State.channelNoted (s : State) (type p ch : Nat) : State :=
  (s.channelLost p ch).1.note type p ch none (s.linesOf p ch) fun e => { e with replayed := (s.channelLost p ch).2 }

theorem State.channelNoted_loses (s : State) (type p ch : Nat) : OnlyFab s (s.channelNoted type p ch) ∧
    NotesOne s (s.channelNoted type p ch) type p ch ∧
    (s.channelNoted type p ch).fab.unlocked = s.fab.unlocked.set false (36 * p + ch) true ∧
    (s.channelNoted type p ch).fab.marks = s.fab.marks ∧ (s.channelNoted type p ch).fab.dark = s.fab.dark ∧
    (s.channelNoted type p ch).fab.spcDark = s.fab.spcDark ∧ (s.channelNoted type p ch).sys = s.sys := by
  have hsans := s.sansLinks_channelLost p ch
  obtain ⟨e, heq, habout⟩ := State.note_eq_postEv (s.channelLost p ch).1 type p ch none (s.linesOf p ch)
    (g := fun e => { e with replayed := (s.channelLost p ch).2 }) fun _ => ⟨rfl, rfl, rfl⟩
  rw [State.channelNoted, heq]
  generalize (s.channelLost p ch).1 = t at hsans
  have honly := congrArg (fun u : State => ({ u with fab := t.fab } : State)) hsans
  have hevq := State.eq_of_sansLinks hsans (·.fab.evq) fun _ => rfl
  refine ⟨onlyFab_trans (t := t) honly rfl, ⟨e, congrArg (· ++ [e]) hevq, habout⟩, ?_, ?_, ?_, ?_, ?_⟩
  · exact State.eq_of_sansLinks hsans (·.fab.unlocked) fun _ => rfl
  · exact State.eq_of_sansLinks hsans (·.fab.marks) fun _ => rfl
  · exact State.eq_of_sansLinks hsans (·.fab.dark) fun _ => rfl
  · exact State.eq_of_sansLinks hsans (·.fab.spcDark) fun _ => rfl
  · exact State.eq_of_sansLinks hsans (·.sys) fun _ => rfl

/-! ## A repair that begins -/

/-- A repair of line `k` of port `p`, or of emitter `c` that sends it, is under way. -/
def Mending (t : State) (p k : Nat) (c : Option Nat) : Prop := ∃ r ∈ t.fab.repairs, r.port = p ∧ r.line = k ∧ r.chan = c

theorem State.hostRepair_iff (s : State) : s.hostRepair = true ↔ s.sys.sysmode.getLsbD 1 = true ∨ s.sys.sysmode.getLsbD 2 = true :=
  Bool.or_eq_true _ _ ▸ Iff.rfl

/-- A repair that begins. -/
def State.newRepair (s : State) (p k : Nat) (chan : Option Nat) : Repair := ⟨p, k, chan, 0, s.hostRepair, false, s.sys.sidt, false⟩

theorem State.beginRepair_eq (s : State) (p k : Nat) (chan : Option Nat) : s.beginRepair p k chan =
    if s.fab.repairs.any fun q => q.port == p && q.line == k && q.chan == chan then s
    else if s.hostRepair then s.upFab fun f => { f with repairs := f.repairs ++ [s.newRepair p k chan] }
    else State.tryNext 4 s (s.newRepair p k chan) := rfl

/-- A repair is under way once it has begun, be it that it was before. -/
theorem State.mending_beginRepair {s : State} {p k : Nat} {chan : Option Nat}
    (h : s.hostRepair = false → s.canTry (s.newRepair p k chan) = true) : Mending (s.beginRepair p k chan) p k chan := by
  rw [State.beginRepair_eq]
  split
  next hany =>
    obtain ⟨r, hr, heq⟩ := List.any_eq_true.1 hany
    simp only [Bool.and_eq_true, beq_iff_eq, and_assoc] at heq
    exact ⟨r, hr, heq⟩
  split
  · exact ⟨_, List.mem_append_right _ (List.mem_singleton_self _), rfl, rfl, rfl⟩
  next hhost =>
    rw [tryNext_of_canTry 3 (Nat.zero_le 2) (h (Bool.eq_false_iff.2 hhost))]
    exact ⟨_, List.mem_append_right _ (List.mem_singleton_self _), rfl, rfl, rfl⟩

/-- A primary line of a port with no repair under way goes where the spare comb gives no light (14 R335). -/
theorem State.marked_beginRepair_dark {s : State} {p k : Nat} (hhost : s.hostRepair = false) (hk : k < 64)
    (hfree : ∀ r ∈ s.fab.repairs, r.port ≠ p) (hdark : s.fab.spcDark.get false p = true) :
    Marked (s.beginRepair p k none) s.boundary p (.lineGone (k % 64)) := by
  have hany : (s.fab.repairs.any fun q => q.port == p && q.line == k && q.chan == none) = false :=
    List.any_eq_false.2 fun r hr => by simp [hfree r hr]
  have hcan : s.canTry (s.newRepair p k none) = false := canTry_other_of_dark rfl rfl hk hdark
  rw [State.beginRepair_eq, hany, hhost]
  exact (tryNext_of_noLight 3 rfl rfl hk hcan) ▸ (s.repairRemove_removes (s.newRepair p k none)).2

end Sys2Proof.Machine

namespace Sys2Proof.Claims

open Sys2Proof Sys2Proof.Machine

/-! ## Signal (14 R332, R333) -/

/-- Detector `det` of port `p` is to see light in this slot: a peer that shows SYNC sends there, and no LOS is known yet. -/
def Listens (s : State) (p : Fin 16) (det : Nat) : Prop :=
  s.fab.portOn p = true ∧ ephUse (s.fab.active p s.slot det) ≠ 0 ∧
    (s.fab.link (64 * p.val + ephLine (s.fab.active p s.slot det) % 64)).peer.any s.heard = true ∧
    s.fab.los.get false (36 * p.val + det) = false

/-- The state once detector `det` of port `p` has lost its signal. -/
def State.lostSignal (s : State) (p det : Nat) : State :=
  (s.signalNoted p (ephLine (s.fab.active p s.slot det)) det).deafen p (ephLine (s.fab.active p s.slot det)) det

theorem lossOfSignal_cond {s : State} {p : Fin 16} {det : Nat} :
    (!s.fab.portOn p || ephUse (s.fab.active p s.slot det) == 0 ||
      !((s.fab.link (64 * p.val + ephLine (s.fab.active p s.slot det) % 64)).peer.any s.heard) ||
      s.fab.los.get false (36 * p.val + det)) = true ↔ ¬ Listens s p det := by
  simp only [Listens, Bool.or_eq_true, Bool.not_eq_true', beq_iff_eq, not_and_or, Bool.not_eq_true, Bool.not_eq_false, or_assoc, ne_eq,
    not_not]

theorem makes_lossOfSignal_deaf {s : State} {p : Fin 16} {e : Fin 18} {b : Bool} (h : ¬ Listens s p (18 + e.val)) :
    Makes (.lossOfSignal p e b) s s :=
  congrArg Host.Outcome.next (if_pos (lossOfSignal_cond.2 h))

theorem exec_lossOfSignal_dark {s : State} {p : Fin 16} {e : Fin 18} (h : Listens s p (18 + e.val)) :
    exec (.lossOfSignal p e false) s = .next (State.lostSignal s p (18 + e.val)) :=
  congrArg Host.Outcome.next (if_neg fun hcond => lossOfSignal_cond.1 hcond h)

/-- With light at the peer the photodiode has failed, and its detector is replaced (14 R333). -/
theorem exec_lossOfSignal_lit {s : State} {p : Fin 16} {e : Fin 18} (h : Listens s p (18 + e.val)) :
    exec (.lossOfSignal p e true) s = .next ((State.lostSignal s p (18 + e.val)).replaceDetector p
      ((State.lostSignal s p (18 + e.val)).detectorOf p (18 + e.val))) :=
  congrArg Host.Outcome.next (if_neg fun hcond => lossOfSignal_cond.1 hcond h)

theorem ends_lossOfSignal {s : State} {p : Fin 16} {e : Fin 18} {b : Bool} (h : Listens s p (18 + e.val)) :
    Ends (.lossOfSignal p e b) s fun t => OnlyFab s t ∧ Notes t 2 p ∧ t.fab.los.get false (36 * p.val + (18 + e.val)) = true ∧
      (∀ n ∈ s.concernedIn p (ephLine (s.fab.active p s.slot (18 + e.val))), s.fab.sync = true → s.tellable n = true →
        Goes s t (.loss (some n) true p (ephLine (s.fab.active p s.slot (18 + e.val))))) ∧
      (b = false → NotesOne s t 2 p (18 + e.val)) := by
  generalize hk : ephLine (s.fab.active p s.slot (18 + e.val)) = k
  have hdark := exec_lossOfSignal_dark h
  have hlit := exec_lossOfSignal_lit h
  rw [State.lostSignal, hk] at hdark hlit
  generalize 18 + e.val = det at *
  have honly := onlyFab_trans (s.quiet_signalNoted p k det).onlyFab (State.onlyFab_deafen (s.signalNoted p k det) p k det)
  have hone := State.notesOne_deafen (s.notesOne_signalNoted p k det) p k det
  have hgoes : ∀ n ∈ s.concernedIn p k, s.fab.sync = true → s.tellable n = true →
      Goes s ((s.signalNoted p k det).deafen p k det) (.loss (some n) true p k) := fun n hn hsync htell =>
    State.goes_deafen (s.goes_signalNoted p k det hn (by rw [State.notifiable, hsync, htell]; rfl)) p k det
  have hlos : ((s.signalNoted p k det).deafen p k det).fab.los.get false (36 * p.val + det) = true := by
    rw [State.los_deafen, SMap.get_set_self]
  generalize (s.signalNoted p k det).deafen p k det = u at *
  cases b with
  | false => exact ⟨u, hdark, honly, notes_of_notesOne hone, hlos, hgoes, fun _ => hone⟩
  | true =>
    have hquiet := u.quiet_replaceDetector p (u.detectorOf p det)
    exact ⟨_, hlit, onlyFab_trans honly hquiet.onlyFab, hquiet.notes (notes_of_notesOne hone),
      (hquiet.eq_of_still (·.fab.los.get false (36 * p.val + det)) fun _ => rfl).trans hlos,
      fun n hn hsync htell => hquiet.goes (hgoes n hn hsync htell), fun hb => nomatch hb⟩

/-- With light at the peer, spare detector 34 takes over, unless it is the one that has lost its signal (14 R333, R335). -/
theorem ends_lossOfSignal_spare {s : State} {p : Fin 16} {e : Fin 18} (h : Listens s p (18 + e.val))
    (hfree : s.fab.spareFree p 34 = true) (he : e ≠ 16) : Ends (.lossOfSignal p e true) s fun t =>
    Marked t (s.frame + 1) p (.spare 34 ((s.fab.plays s.frame p (18 + e.val)).getD (18 + e.val))) := by
  refine ⟨_, exec_lossOfSignal_lit h, ?_⟩
  rw [State.lostSignal]
  generalize ephLine (s.fab.active p s.slot (18 + e.val)) = k
  have hne : 34 ≠ 18 + e.val := fun heq => he (Fin.ext (by omega))
  have hspare : (s.signalNoted p k (18 + e.val)).fab.spareFree p 34 = true := (s.spareFree_signalNoted p k _ p 34).trans hfree
  rw [State.detectorOf_deafen, State.detectorOf_signalNoted]
  have hmarked := State.marked_replaceDetector (s.detectorOf p (18 + e.val)) (State.spareFree_deafen hspare hne k)
  rw [State.frame_deafen, (s.quiet_signalNoted _ _ _).frame] at hmarked
  exact hmarked

/-! ## Channels (14 R332, R333, R335) -/

theorem ends_drift (s : State) (p : Fin 16) (ch : Fin 36) : Ends (.drift p ch) s fun t => OnlyFab s t ∧ NotesOne s t 3 p ch :=
  ⟨_, rfl, rfl, s.notesOne_postEv (s.evRec_about 3 p ch none _ _ keepsAbout_id)⟩

theorem ends_retune (s : State) (p : Fin 16) (ch : Fin 36) : Ends (.retune p ch) s fun t => OnlyFab s t ∧ NotesOne s t 4 p ch ∧
    t.fab.unlocked.get false (36 * p.val + ch) = true := by
  obtain ⟨honly, hone, hunlocked, -⟩ := s.channelNoted_loses 4 p ch
  refine ⟨s.channelNoted 4 p ch, rfl, honly, hone, ?_⟩
  rw [hunlocked]
  exact SMap.get_set_self _ _ _ _

theorem retuneRelock_cond {s : State} {p : Fin 16} {ch : Fin 36} :
    (s.fab.unlocked.get false (36 * p.val + ch) && !s.fab.chGone (s.frame + 2) p ch) = true ↔
      s.fab.unlocked.get false (36 * p.val + ch) = true ∧ s.fab.chGone (s.frame + 2) p ch = false := by
  rw [Bool.and_eq_true, Bool.not_eq_true']

theorem makes_retuneRelock_none {s : State} {p : Fin 16} {ch : Fin 36}
    (h : ¬(s.fab.unlocked.get false (36 * p.val + ch) = true ∧ s.fab.chGone (s.frame + 2) p ch = false)) :
    Makes (.retuneRelock p ch) s s :=
  congrArg Host.Outcome.next (if_neg (mt retuneRelock_cond.1 h))

theorem ends_retuneRelock {s : State} {p : Fin 16} {ch : Fin 36}
    (h : s.fab.unlocked.get false (36 * p.val + ch) = true ∧ s.fab.chGone (s.frame + 2) p ch = false) :
    Ends (.retuneRelock p ch) s fun t => OnlyFab s t ∧ t.fab.unlocked = s.fab.unlocked.set false (36 * p.val + ch) false ∧
      t.fab.evq = s.fab.evq := by
  have htells : (s.setUnlocked p ch false).Tells (((s.setUnlocked p ch false).linesOf p ch).foldl (fun s k =>
      if ch.val < 18 then s.tellPeers p k fun n => .subst n false p k k s.frame
      else s.tellIn p k fun n => .subst n true p k k s.frame) (s.setUnlocked p ch false)) := by
    refine State.Tells.foldl (fun u k => ?_) _ _
    split
    · exact u.tells_tellPeers _ _ _
    · exact u.tells_tellIn _ _ _
  exact ⟨_, congrArg Host.Outcome.next (if_pos (retuneRelock_cond.2 h)),
    onlyFab_trans (t := s.setUnlocked p ch false) rfl htells.quiet.onlyFab, htells.unlocked, htells.evq⟩

/-- What follows the record of a failed lock: a detector is replaced, the repair of an emitter with light begins (14 R335). -/
def State.afterLockfail (s : State) (p : Nat) (c : Option Nat) : State :=
  match c with
  | none => s
  | some c =>
    if 18 ≤ c then s.replaceDetector p c
    else if (linesOfRole c).any fun k => (s.fab.ownLine s.frame p k).any fun k => s.fab.lineLit p k then
      (s.beginRepair p c (some c)).draw
    else s

theorem exec_lockfail (s : State) (p : Fin 16) (ch : Fin 36) :
    exec (.lockfail p ch) s = .next (State.afterLockfail (s.channelNoted 5 p ch) p
      ((s.channelNoted 5 p ch).fab.plays (s.channelNoted 5 p ch).frame p ch)) := rfl

theorem OnlyFab.free {s t : State} (h : OnlyFab s t) : OnlyFabFree s t :=
  (show t = { s with fab := t.fab } from h).trans (congrArg (fun n => { s with fab := t.fab, nfree := n }) (congrArg State.nfree h).symm)

/-- At most a repair begins, a removal or a replacement is told, and a free value is drawn. -/
theorem mends_afterLockfail (s : State) (p : Nat) (c : Option Nat) :
    ∃ u, s.Mends u ∧ (State.afterLockfail s p c = u ∨ State.afterLockfail s p c = u.draw) := by
  unfold State.afterLockfail
  split
  · exact ⟨s, State.Mends.refl s, .inl rfl⟩
  split
  · exact ⟨_, (s.quiet_replaceDetector p _).toMends, .inl rfl⟩
  split
  · exact ⟨_, s.mends_beginRepair p _ _, .inr rfl⟩
  · exact ⟨s, State.Mends.refl s, .inl rfl⟩

/-- Where the host chooses repairs, that of an emitter with light present begins (14 R335, R338). -/
theorem mending_afterLockfail {s : State} {p c : Nat} (hc : c < 18) (hhost : s.hostRepair = true)
    (hlit : ∃ i, i < 4 ∧ ∃ y, s.fab.ownLine s.frame p (16 * i + c) = some y ∧ s.fab.lineLit p y = true) :
    Mending (State.afterLockfail s p (some c)) p c (some c) := by
  obtain ⟨i, hi, y, hown, hy⟩ := hlit
  have hany : ((linesOfRole c).any fun k => (s.fab.ownLine s.frame p k).any fun k => s.fab.lineLit p k) = true := by
    refine List.any_eq_true.2 ⟨16 * i + c, ?_, by rw [hown]; exact hy⟩
    exact List.mem_map.2 ⟨i, List.mem_range.2 hi, by rw [Nat.mod_eq_of_lt hc]⟩
  simp only [State.afterLockfail, if_neg (Nat.not_le.2 hc), if_pos hany]
  exact State.mending_beginRepair fun hno => absurd hhost (by rw [hno]; decide)

theorem Fabric.marksAt_congr {f g : Fabric} (h : f.marks = g.marks) : f.marksAt = g.marksAt := by
  funext fr p
  rw [Fabric.marksAt, Fabric.marksAt, h]

theorem Fabric.plays_congr {f g : Fabric} (h : f.marks = g.marks) : f.plays = g.plays := by
  funext fr p ch
  unfold Fabric.plays Fabric.serves
  rw [Fabric.marksAt_congr h]

theorem Fabric.ownLine_congr {f g : Fabric} (h : f.marks = g.marks) : f.ownLine = g.ownLine := by
  funext fr p k
  unfold Fabric.ownLine
  rw [Fabric.marksAt_congr h]

theorem Fabric.lineLit_congr {f g : Fabric} (hdark : f.dark = g.dark) (hspc : f.spcDark = g.spcDark) : f.lineLit = g.lineLit := by
  funext p k
  simp only [Fabric.lineLit, hdark, hspc]

theorem ends_lockfail (s : State) (p : Fin 16) (ch : Fin 36) : Ends (.lockfail p ch) s fun t =>
    OnlyFabFree s t ∧ t.fab.unlocked.get false (36 * p.val + ch) = true ∧ Notes t 5 p ∧
      (s.fab.plays s.frame p ch = none → NotesOne s t 5 p ch) ∧
      ∀ c, s.fab.plays s.frame p ch = some c → c < 18 → (s.sys.sysmode.getLsbD 1 = true ∨ s.sys.sysmode.getLsbD 2 = true) →
        (∃ i, i < 4 ∧ ∃ y, s.fab.ownLine s.frame p (16 * i + c) = some y ∧ s.fab.lineLit p y = true) →
        Mending t p c (some c) := by
  obtain ⟨honly, hone, hunlocked, hmarks, hdark, hspc, hsys⟩ := s.channelNoted_loses 5 p ch
  have hexec := exec_lockfail s p ch
  have hframe : (s.channelNoted 5 p ch).frame = s.frame := congrArg (fun y : Sys => frameOf y.sidt) hsys
  have hhost : (s.channelNoted 5 p ch).hostRepair = s.hostRepair :=
    congrArg (fun y : Sys => y.sysmode.getLsbD 1 || y.sysmode.getLsbD 2) hsys
  rw [Fabric.plays_congr hmarks, hframe] at hexec
  have hown := Fabric.ownLine_congr hmarks
  have hlit := Fabric.lineLit_congr hdark hspc
  generalize s.channelNoted 5 p ch = u at *
  have hget : u.fab.unlocked.get false (36 * p.val + ch) = true := by rw [hunlocked, SMap.get_set_self]
  obtain ⟨v, hmends, hv⟩ := mends_afterLockfail u p (s.fab.plays s.frame p ch)
  have hunl : v.fab.unlocked.get false (36 * p.val + ch) = true :=
    (hmends.eq_of_still (·.fab.unlocked.get false (36 * p.val + ch)) fun _ => rfl).trans hget
  have hnotes := hmends.notes (notes_of_notesOne hone)
  have hvonly := onlyFab_trans honly hmends.onlyFab
  refine ⟨_, hexec, ?_, ?_, ?_, fun hnone => ?_, fun c hc hlt hbyHost hlight => ?_⟩
  · rcases hv with hv | hv <;> rw [hv]
    · exact OnlyFab.free hvonly
    · exact OnlyFab.draw hvonly
  · rcases hv with hv | hv <;> rw [hv] <;> exact hunl
  · rcases hv with hv | hv <;> rw [hv] <;> exact hnotes
  · rw [hnone]
    exact hone
  · rw [hc]
    refine mending_afterLockfail hlt (hhost.trans (s.hostRepair_iff.2 hbyHost)) ?_
    rw [hframe, hown, hlit]
    exact hlight

end Sys2Proof.Claims
end

section
/-! SUPPORT. The slot boundary at which lost links are restriped: what the data window before it leaves alone, and what the slot that
begins after it keeps (13 R293, R297, R304; 14 R334). -/

namespace Sys2Proof.SMap

variable {α : Type}

theorem mem_put_self (m : SMap α) (k : Nat) (v : α) : (k, v) ∈ m.put k v := by
  induction m with
  | nil => exact List.mem_singleton_self _
  | cons e m ih =>
    obtain ⟨j, w⟩ := e
    simp only [put]
    split_ifs
    · exact List.mem_cons_self
    · exact List.mem_cons_self
    · exact List.mem_cons_of_mem _ ih

/-- A write takes the place of one entry at most, which is the one that a read finds. -/
theorem mem_put_of_mem (d : α) {m : SMap α} {e : Nat × α} (he : e ∈ m) (k : Nat) (v : α) : e ∈ m.put k v ∨ e = (k, m.get d k) := by
  induction m with
  | nil => cases he
  | cons x m ih =>
    obtain ⟨j, w⟩ := x
    simp only [put, get]
    by_cases hlt : k < j
    · rw [if_pos hlt]
      exact .inl (List.mem_cons_of_mem _ he)
    rw [if_neg hlt]
    by_cases heq : k = j
    · rw [if_pos heq, if_pos heq]
      rcases List.mem_cons.1 he with rfl | he
      · exact .inr (by rw [heq])
      · exact .inl (List.mem_cons_of_mem _ he)
    · rw [if_neg heq, if_neg heq]
      rcases List.mem_cons.1 he with rfl | he
      · exact .inl List.mem_cons_self
      · exact (ih he).imp_left (List.mem_cons_of_mem _)

end Sys2Proof.SMap

namespace Sys2Proof.Machine

open Sys2Proof.Claims

/-! ## The peers that a line concerns -/

/-- The peer of a lease, and its forwarders, whom a change of line `k` of port `p` concerns. -/
def Lease.concernedOn (v : Lease) (p k : Nat) : List (BitVec 13) :=
  (v.ports.filter fun q => q.port == p && q.line % 16 == k % 16 && (q.st == .granted || q.st == .inEffect)).flatMap fun q =>
    v.peer :: q.fwd.toList

/-- Peer and source of a lease that passes through by that emitter. -/
def Incoming.concernedOn (i : Incoming) (p k : Nat) : List (BitVec 13) :=
  match i.onward with
  | some (n, op, ol) => if op = p ∧ ol % 16 = k % 16 then [n, i.src] else []
  | none => []

theorem State.concerned_eq (s : State) (p k : Nat) : s.concerned p k = ((s.fab.direct s.sys.nodeid p k).toList.map (·.1) ++
    s.fab.leases.flatMap (fun e => e.2.elim [] (·.concernedOn p k)) ++ s.fab.incoming.flatMap (·.concernedOn p k)).dedup := rfl

/-- The far end of a line, and the peers and forwarders of the leases that hold its emitter (14 R337). -/
theorem State.mem_concerned {s : State} {p k : Nat} {n : BitVec 13} : n ∈ s.concerned p k ↔
    n ∈ (s.fab.direct s.sys.nodeid p k).toList.map (·.1) ∨ (∃ e ∈ s.fab.leases, n ∈ e.2.elim [] (·.concernedOn p k)) ∨
      ∃ i ∈ s.fab.incoming, n ∈ i.concernedOn p k := by
  rw [State.concerned_eq, List.mem_dedup, List.mem_append, List.mem_append, List.mem_flatMap, List.mem_flatMap, or_assoc]

/-- A change of a lease port that is none of number, line, standing and forwarder. -/
def KeepsPlace (g : LPort → LPort) : Prop := ∀ q, (g q).port = q.port ∧ (g q).line = q.line ∧ (g q).st = q.st ∧ (g q).fwd = q.fwd

theorem Lease.concernedOn_map (v : Lease) (l : Nat) {g : LPort → LPort} (hg : KeepsPlace g) (p k : Nat) :
    ({ v with ports := v.ports.map fun q => if q.port = l then g q else q } : Lease).concernedOn p k = v.concernedOn p k := by
  have hq : ∀ q : LPort, (if q.port = l then g q else q).port = q.port ∧ (if q.port = l then g q else q).line = q.line ∧
      (if q.port = l then g q else q).st = q.st ∧ (if q.port = l then g q else q).fwd = q.fwd := fun q => by
    split
    · exact hg q
    · exact ⟨rfl, rfl, rfl, rfl⟩
  simp only [Lease.concernedOn, List.filter_map, List.flatMap_map, Function.comp_def, fun q => (hq q).1, fun q => (hq q).2.1,
    fun q => (hq q).2.2.1, fun q => (hq q).2.2.2]

/-! ## What a data window leaves alone -/

/-- The state without messages and without what its leases know of their ends and effects. -/
def State.sansLeases (s : State) : State := s.upFab fun f => { f with wire := [], ctlq := [], leases := [], incoming := [] }

/-- Only messages and leases separate `t` from `s`, and every line still concerns at least the same peers. -/
structure State.Opens (s t : State) : Prop where
  rest : t.sansLeases = s.sansLeases
  concerned : ∀ p k, s.concerned p k ⊆ t.concerned p k

namespace State.Opens

variable {s t u : State}

theorem refl (s : State) : s.Opens s := ⟨rfl, fun _ _ => List.Subset.refl _⟩

theorem trans (hst : s.Opens t) (htu : t.Opens u) : s.Opens u :=
  ⟨htu.rest.trans hst.rest, fun p k => List.Subset.trans (hst.concerned p k) (htu.concerned p k)⟩

theorem foldl {α : Type} {f : State → α → State} (hf : ∀ (u : State) (a : α), u.Opens (f u a)) (l : List α) (s : State) :
    s.Opens (l.foldl f s) := List.foldlRecOn l f (refl s) fun u hu a _ => hu.trans (hf u a)

theorem eq_of_rest {α : Type} (h : s.Opens t) (f : State → α) (hf : ∀ u : State, f u.sansLeases = f u) : f t = f s := by
  rw [← hf t, h.rest, hf]

end State.Opens

theorem State.Tells.opens {s t : State} (h : s.Tells t) : s.Opens t := by
  obtain ⟨w, q, rfl⟩ := h
  exact ⟨rfl, fun _ _ => List.Subset.refl _⟩

theorem State.opens_setCtlq (s : State) (q : List CtlWait) : s.Opens (s.upFab fun f => { f with ctlq := q }) :=
  ⟨rfl, fun _ _ => List.Subset.refl _⟩

theorem State.opens_upPort (s : State) (l p : Nat) {g : LPort → LPort} (hg : KeepsPlace g) : s.Opens (s.upPort l p g) := by
  cases hlease : s.fab.lease l with
  | none =>
    rw [State.upPort, hlease]
    exact State.Opens.refl s
  | some v =>
    rw [State.upPort_of_lease hlease]
    refine ⟨rfl, fun i k n hn => ?_⟩
    have hnew := SMap.mem_put_self s.fab.leases l (some { v with ports := v.ports.map fun q => if q.port = p then g q else q })
    rw [State.mem_concerned] at hn ⊢
    refine hn.imp_right (Or.imp_left ?_)
    rintro ⟨e, he, hn⟩
    rcases SMap.mem_put_of_mem none he l (some { v with ports := v.ports.map fun q => if q.port = p then g q else q }) with he | rfl
    · exact ⟨e, he, hn⟩
    · refine ⟨_, hnew, ?_⟩
      change n ∈ (s.fab.lease l).elim [] _ at hn
      rw [hlease] at hn
      exact (congrArg (n ∈ ·) (v.concernedOn_map p hg i k)).mpr hn

theorem State.opens_upIncoming (s : State) (src : BitVec 13) (lid sport : Nat) {g : Incoming → Incoming}
    (hg : ∀ i, (g i).src = i.src ∧ (g i).onward = i.onward) : s.Opens (s.upIncoming src lid sport g) := by
  refine ⟨rfl, fun p k n hn => ?_⟩
  rw [State.mem_concerned] at hn ⊢
  refine hn.imp_right (Or.imp_right ?_)
  rintro ⟨i, hi, hn⟩
  refine ⟨_, List.mem_map_of_mem hi, ?_⟩
  obtain ⟨hsrc, hon⟩ := hg i
  split
  · simpa only [Incoming.concernedOn, hsrc, hon] using hn
  · exact hn

theorem State.opens_endIncoming (s : State) (src : BitVec 13) (lid sport fr : Nat) : s.Opens (s.endIncoming src lid sport fr) := by
  unfold State.endIncoming
  split
  · exact (s.opens_upIncoming src lid sport (g := (·.endAt fr)) fun _ => ⟨rfl, rfl⟩).trans (State.tells_tellDisplaced _ _ _ _).opens
  · exact State.Opens.refl s

theorem LPort.keepsPlace_endAt (fr : Nat) (w : Why) : KeepsPlace fun q => q.endAt fr w := by
  intro q
  unfold LPort.endAt
  dsimp only
  split_ifs <;> exact ⟨rfl, rfl, rfl, rfl⟩

theorem State.opens_leaving (s : State) (m : FabMsg) : s.Opens (s.leaving m) := by
  unfold State.leaving
  split
  · split
    · exact s.opens_upPort _ _ (LPort.keepsPlace_endAt _ _)
    · exact State.Opens.refl s
  · exact s.opens_endIncoming _ _ _ _
  · refine s.opens_upIncoming _ _ _ fun i => ?_
    split <;> exact ⟨rfl, rfl⟩
  · exact State.Opens.refl s

theorem State.opens_sendCtl (s : State) : s.Opens s.sendCtl := by
  unfold State.sendCtl
  refine (s.opens_setCtlq _).trans (State.Opens.foldl (fun u e => ?_) _ _)
  exact (u.opens_leaving e.msg).trans (State.tells_put _ _).opens

theorem State.opens_sendRequest (s : State) (l p : Nat) : s.Opens (s.sendRequest l p) := by
  unfold State.sendRequest
  split
  · exact State.Opens.refl s
  · refine iteInduction (fun _ => ?_) fun _ => State.Opens.refl s
    exact (s.opens_upPort l p (by exact fun _ => ⟨rfl, rfl, rfl, rfl⟩)).trans (State.tells_put _ _).opens

theorem State.opens_sendRequests (s : State) : s.Opens s.sendRequests := by
  unfold State.sendRequests
  refine State.Opens.foldl (fun u e => State.Opens.foldl (fun v q => ?_) _ u) _ s
  exact v.opens_sendRequest _ _

theorem State.tells_sendTime (s : State) : s.Tells s.sendTime := by
  unfold State.sendTime
  split
  · exact State.Tells.refl s
  · refine State.Tells.foldl (fun u i => ?_) _ s
    dsimp only
    split
    · exact u.tells_put _
    · exact State.Tells.refl u

/-- What leaves in a data window changes no more than messages and the ends and effects of leases (13 R293, R304). -/
theorem State.opens_windowOpen (s : State) : s.Opens s.windowOpen := by
  unfold State.windowOpen
  dsimp only
  split
  · exact State.Opens.refl s
  split
  · exact s.tells_sendTime.opens
  · refine s.tells_sendTime.opens.trans (State.Opens.trans ?_ (State.opens_sendCtl _))
    split
    · exact State.opens_sendRequests _
    · exact State.Opens.refl _

end Sys2Proof.Machine
end

section
/-! SUPPORT. What the slot that begins keeps of what the last one left: messages, repairs, flits that wait, lines that are removed
(13 R293, R297, R301, R304, R305). -/

namespace Sys2Proof.Machine

open Sys2Proof.Claims

/-- Messages, repairs, stored flits, losses to be restriped and removed lines of `s` stand in `t`, and time stands still. -/
structure State.Keeps (s t : State) : Prop where
  wire : s.fab.wire ⊆ t.fab.wire
  ctlq : s.fab.ctlq ⊆ t.fab.ctlq
  repairs : t.fab.repairs = s.fab.repairs
  store : t.fab.store = s.fab.store
  lol : t.fab.lol = s.fab.lol
  gone : ∀ fr p k, Marked s fr p (.lineGone k) → Marked t fr p (.lineGone k)
  sidt : t.sys.sidt = s.sys.sidt

namespace State.Keeps

variable {s t u : State}

theorem of_fab (hfab : t.fab = s.fab) (hsidt : t.sys.sidt = s.sys.sidt) : s.Keeps t := by
  refine ⟨?_, ?_, ?_, ?_, ?_, ?_, hsidt⟩
  all_goals simp only [Marked, hfab, List.Subset.refl, imp_self, implies_true]

theorem refl (s : State) : s.Keeps s := of_fab rfl rfl

theorem trans (hst : s.Keeps t) (htu : t.Keeps u) : s.Keeps u :=
  ⟨List.Subset.trans hst.wire htu.wire, List.Subset.trans hst.ctlq htu.ctlq, htu.repairs.trans hst.repairs, htu.store.trans hst.store,
    htu.lol.trans hst.lol, fun fr p k h => htu.gone fr p k (hst.gone fr p k h), htu.sidt.trans hst.sidt⟩

theorem foldl {α : Type} {f : State → α → State} (hf : ∀ (u : State) (a : α), u.Keeps (f u a)) (l : List α) (s : State) :
    s.Keeps (l.foldl f s) := List.foldlRecOn l f (refl s) fun u hu a _ => hu.trans (hf u a)

end State.Keeps

theorem State.Tells.keeps {s t : State} (h : s.Tells t) : s.Keeps t := by
  have hwire := h.wire
  have hctlq := h.ctlq
  obtain ⟨w, q, rfl⟩ := h
  exact ⟨hwire, hctlq, rfl, rfl, rfl, fun _ _ _ h => h, rfl⟩

/-- The fabric fields that `State.Keeps` looks at are those of `f`. -/
def Fabric.SameKept (f g : Fabric) : Prop :=
  g.wire = f.wire ∧ g.ctlq = f.ctlq ∧ g.repairs = f.repairs ∧ g.store = f.store ∧ g.lol = f.lol ∧
    ∀ m ∈ f.marks, (∃ k, m.what = .lineGone k) → m ∈ g.marks

theorem State.keeps_upFab {s : State} {g : Fabric → Fabric} (h : s.fab.SameKept (g s.fab)) : s.Keeps (s.upFab g) := by
  obtain ⟨hwire, hctlq, hrepairs, hstore, hlol, hmarks⟩ := h
  exact ⟨fun _ hx => hwire ▸ hx, fun _ hx => hctlq ▸ hx, hrepairs, hstore, hlol, fun fr p k hm => hmarks _ hm ⟨k, rfl⟩, rfl⟩

/-- What does not touch those fields keeps them. -/
theorem Fabric.sameKept_of_marks {f g : Fabric} (hwire : g.wire = f.wire) (hctlq : g.ctlq = f.ctlq) (hrepairs : g.repairs = f.repairs)
    (hstore : g.store = f.store) (hlol : g.lol = f.lol) (hmarks : g.marks = f.marks) : f.SameKept g :=
  ⟨hwire, hctlq, hrepairs, hstore, hlol, fun _ hm _ => hmarks ▸ hm⟩

theorem State.keeps_wr (s : State) (tag : BitVec 12) (pa : Nat) (bs : List Byte) : s.Keeps (s.wr tag pa bs) := by
  cases bs <;> exact State.Keeps.of_fab rfl rfl

theorem State.keeps_upSys (s : State) {g : Sys → Sys} (h : ∀ y, (g y).sidt = y.sidt) : s.Keeps (s.upSys g) :=
  State.Keeps.of_fab rfl (h s.sys)

theorem State.keeps_msi (s : State) (v : BitVec 16) : s.Keeps (s.msi v) := s.keeps_upSys fun _ => rfl

theorem State.keeps_event (s : State) (e : EvRec) : s.Keeps (s.event e) := by
  unfold State.event
  dsimp only
  split
  · exact (s.keeps_wr _ _ _).trans ((State.keeps_upSys _ (by exact fun _ => rfl)).trans (State.keeps_msi _ _))
  · exact s.keeps_upSys (by exact fun _ => rfl)

theorem State.keeps_flushEv (s : State) : s.Keeps s.flushEv := by
  unfold State.flushEv
  exact (State.keeps_upFab (Fabric.sameKept_of_marks rfl rfl rfl rfl rfl rfl)).trans
    (State.Keeps.foldl (fun u e => u.keeps_event e) _ _)

/-! ## Requests and exchanges -/

theorem State.keeps_say (s : State) (lo hi p : Nat) (n : BitVec 13) (m : FabMsg) : s.Keeps (s.sendBack s.frame lo hi p n m) :=
  (s.tells_sendBack _ _ _ _ _ _).keeps

theorem State.keeps_arbitrate (s : State) (r : LeaseReq) : s.Keeps (s.arbitrate r) := by
  unfold State.arbitrate
  dsimp only
  split
  · split
    · exact s.keeps_say _ _ _ _ _
    · refine State.Keeps.trans (t := s.upFab _) ?_ (State.Keeps.trans (State.tells_tellDisplaced _ _ _ _).keeps (State.keeps_say _ _ _ _ _ _))
      exact State.keeps_upFab (Fabric.sameKept_of_marks rfl rfl rfl rfl rfl rfl)
  · split
    · exact s.keeps_say _ _ _ _ _
    · split
      · exact s.keeps_say _ _ _ _ _
      · refine State.Keeps.trans (t := s.upFab _) ?_ (State.keeps_say _ _ _ _ _ _)
        exact State.keeps_upFab (Fabric.sameKept_of_marks rfl rfl rfl rfl rfl rfl)

theorem State.keeps_arbitrateAll (s : State) : s.Keeps s.arbitrateAll := by
  unfold State.arbitrateAll
  exact ((State.keeps_upFab (Fabric.sameKept_of_marks rfl rfl rfl rfl rfl rfl)).trans
    (State.Keeps.foldl (fun u r => u.keeps_arbitrate r) _ _)).trans
      (State.keeps_upFab (Fabric.sameKept_of_marks rfl rfl rfl rfl rfl rfl))

theorem State.keeps_queueCtl (s : State) (fr lo hi : Nat) (line : Option Nat) (m : FabMsg) : s.Keeps (s.queueCtl fr lo hi line m) :=
  (s.tells_queueCtl _ _ _ _ _).keeps

theorem State.keeps_forwardOne (s : State) (x : Fwding) : s.Keeps (s.forwardOne x) := by
  unfold State.forwardOne
  dsimp only
  split
  · split
    · refine State.Keeps.trans (t := s.upFab _) ?_ (State.Keeps.trans (State.tells_tellDisplaced _ _ _ _).keeps
        (State.Keeps.trans (State.keeps_say _ _ _ _ _ _) (State.keeps_queueCtl _ _ _ _ _ _)))
      exact State.keeps_upFab (Fabric.sameKept_of_marks rfl rfl rfl rfl rfl rfl)
    · exact (s.keeps_say _ _ _ _ _).trans (State.keeps_queueCtl _ _ _ _ _ _)
  · exact s.keeps_say _ _ _ _ _
  · exact s.keeps_queueCtl _ _ _ _ _
  · exact State.Keeps.refl s

theorem State.keeps_forwardAll (s : State) : s.Keeps s.forwardAll := by
  unfold State.forwardAll
  refine State.Keeps.trans (t := s.upFab _) ?_ (State.Keeps.foldl (fun u x => u.keeps_forwardOne x) _ _)
  exact State.keeps_upFab (Fabric.sameKept_of_marks rfl rfl rfl rfl rfl rfl)

/-- The slot that begins keeps what the last one left (13 R301, R305). -/
theorem State.keeps_slotStart (s : State) : s.Keeps s.slotStart := by
  have hflush : s.Keeps (s.upFab fun f => { f with sent := [] }).flushEv :=
    State.Keeps.trans (State.keeps_upFab (Fabric.sameKept_of_marks rfl rfl rfl rfl rfl rfl)) (State.keeps_flushEv _)
  refine hflush.trans ?_
  unfold State.slotStart
  generalize (s.upFab fun f => { f with sent := [] }).flushEv = u
  dsimp only
  split
  · split
    · exact State.keeps_upFab (Fabric.sameKept_of_marks rfl rfl rfl rfl rfl rfl)
    · exact State.Keeps.refl u
  split
  · exact u.keeps_forwardAll
  split
  · exact u.keeps_arbitrateAll
  · exact State.Keeps.refl u

/-! ## Frame boundaries -/

theorem State.keeps_arrive (s : State) (k : Nat) (arr : Option Arrive) (f : Option FaultRec) : s.Keeps (s.arrive k arr f) := by
  unfold State.arrive
  split <;> exact State.Keeps.of_fab rfl rfl

theorem State.keeps_setLease (s : State) (l : Nat) (v : Option Lease) : s.Keeps (s.setLease l v) :=
  State.keeps_upFab (Fabric.sameKept_of_marks rfl rfl rfl rfl rfl rfl)

theorem State.keeps_leaseCheck (s : State) (l : Nat) : s.Keeps (s.leaseCheck l) := by
  unfold State.leaseCheck
  split
  · exact State.Keeps.refl s
  next v hv =>
    have hsettle : s.Keeps (if !v.settled && !(v.ports.any fun p => p.st == .requesting) then
        (s.setLease l (some { v with settled := true })).arrive v.core v.arr none else s) := by
      split
      · exact (s.keeps_setLease _ _).trans (State.keeps_arrive _ _ _ _)
      · exact State.Keeps.refl s
    refine iteInduction (fun _ => ?_) fun _ => hsettle
    refine hsettle.trans (State.Keeps.trans ?_ (State.keeps_setLease _ _ _))
    exact iteInduction (fun _ => State.keeps_arrive _ _ _ _) fun _ => State.Keeps.refl _

/-- Only lines that are lit or heard again and channels that are back lose their marks. -/
theorem Fabric.sameKept_relit (f : Fabric) (fr : Nat) : f.SameKept (f.relit fr) := by
  unfold Fabric.relit
  dsimp only
  refine List.foldlRecOn (motive := fun g => f.SameKept g) _ _ ?_ fun g hg m _ => ?_
  · refine ⟨rfl, rfl, rfl, rfl, rfl, ?_⟩
    rintro m hm ⟨k, hk⟩
    exact List.mem_filter.2 ⟨hm, by rw [hk, Bool.and_false]; rfl⟩
  · split <;> exact hg

theorem Fabric.sameKept_prepare (f : Fabric) (fr : Nat) : f.SameKept (f.prepare fr) := by
  unfold Fabric.prepare
  split <;> exact Fabric.sameKept_of_marks rfl rfl rfl rfl rfl rfl

theorem State.keeps_resync (s : State) (agree : Bool) : s.Keeps (s.resync agree) := by
  unfold State.resync
  dsimp only
  have hclear : s.Keeps (s.upFab fun f => { f with timeGood := [], timeBad := [] }) :=
    State.keeps_upFab (Fabric.sameKept_of_marks rfl rfl rfl rfl rfl rfl)
  split
  · exact hclear
  split
  · exact hclear.trans <| State.Keeps.trans (State.keeps_upFab (Fabric.sameKept_of_marks rfl rfl rfl rfl rfl rfl)) (State.keeps_event _ _)
  · exact hclear.trans (State.keeps_upFab (Fabric.sameKept_of_marks rfl rfl rfl rfl rfl rfl))

/-- The fabric at a frame boundary, before leases are settled (13 R297, R304). -/
def Fabric.turnFrame (f : Fabric) (fr : Nat) : Fabric :=
  { f with
    ephAct := !f.ephAct, pkeyMiss := []
    rtA := if f.rtPend then f.rtS else f.rtA, rtPend := false
    leases := f.leases.map fun e => (e.1, e.2.map (·.atFrame fr))
    incoming := f.incoming.filter fun i => decide (fr < i.fin) && !(i.held && decide (i.eff ≤ fr)) }

theorem Fabric.sameKept_turnFrame (f : Fabric) (fr : Nat) : f.SameKept (f.turnFrame fr) :=
  Fabric.sameKept_of_marks rfl rfl rfl rfl rfl rfl

theorem Fabric.sameKept_nextBank (f : Fabric) (fr : Nat) :
    f.SameKept (if f.en then f.prepare fr else { f with eph0 := [], eph1 := [] }) := by
  split
  · exact f.sameKept_prepare fr
  · exact Fabric.sameKept_of_marks rfl rfl rfl rfl rfl rfl

/-- The frame that begins keeps what the last one left (13 R297, R304). -/
theorem State.keeps_frameStart (s : State) (agree : Bool) : s.Keeps (s.frameStart agree) := by
  have hturn : s.Keeps ((s.upFab (·.relit s.frame)).upFab (·.turnFrame s.frame)) :=
    (State.keeps_upFab (Fabric.sameKept_relit _ _)).trans (State.keeps_upFab (Fabric.sameKept_turnFrame _ _))
  have hbank (u : State) (fr : Nat) : u.Keeps (u.upFab fun f => if f.en then f.prepare fr else { f with eph0 := [], eph1 := [] }) :=
    State.keeps_upFab (Fabric.sameKept_nextBank _ _)
  have htold (u : State) (fr : Nat) (is : List Incoming) : u.Keeps (is.foldl (fun s i => s.tellDisplaced fr i.rport i.line) u) :=
    State.Keeps.foldl (fun v i => (v.tells_tellDisplaced _ _ _).keeps) is u
  unfold State.frameStart
  refine State.Keeps.trans ?_ (State.keeps_resync _ _)
  refine State.Keeps.trans ?_ (htold _ _ _)
  refine State.Keeps.trans ?_ (hbank _ _)
  exact hturn.trans (State.Keeps.foldl (fun u l => u.keeps_leaseCheck l) _ _)

end Sys2Proof.Machine
end

section
/-! SUPPORT. The restripe of a lost link at a slot boundary, and the statement about losses, repairs and their notices (01 R20; 14 R332 to
R338). -/

namespace Sys2Proof.Machine

open Sys2Proof.Claims

/-! ## The end of the slot -/

theorem State.toNat_slotEnd (s : State) : s.slotEnd.toNat = 1024 * (s.sys.sidt.toNat / 1024 + 1) % 2 ^ 64 := BitVec.toNat_ofNat _ _

theorem State.slotEnd_div_ne (s : State) : s.slotEnd.toNat / 1024 ≠ s.sys.sidt.toNat / 1024 := by
  have hlt := s.sys.sidt.isLt
  rw [s.toNat_slotEnd]
  omega

theorem State.tickOf_slotEnd (s : State) : tickOf s.slotEnd = 0 := by
  rw [tickOf, s.toNat_slotEnd]
  omega

/-- The last count of the slot lies in the same frame. -/
theorem State.frameOf_slotLast (s : State) : frameOf (s.slotEnd - 1) = s.frame := by
  have hlt := s.sys.sidt.isLt
  have hone : (1 : W64).toNat = 1 := rfl
  rw [frameOf, State.frame, frameOf, BitVec.toNat_sub, s.toNat_slotEnd, hone]
  omega

theorem State.sidt_setTime (s : State) (t : W64) : (s.setTime t).sys.sidt = t := rfl

section
variable {s : State} {x : W64}

theorem State.frame_setTime (h : frameOf x = s.frame) : (s.setTime x).frame = s.frame := by
  rw [State.frame, s.sidt_setTime, h]

theorem State.linkUp_setTime (h : frameOf x = s.frame) : (s.setTime x).linkUp = s.linkUp := by
  funext p k
  rw [State.linkUp, State.frame_setTime h]
  rfl

theorem State.tellable_setTime (h : frameOf x = s.frame) (n : BitVec 13) : (s.setTime x).tellable n = s.tellable n := by
  unfold State.tellable State.linksTo
  rw [State.linkUp_setTime h]
  rfl

theorem State.notifiable_setTime (h : frameOf x = s.frame) {n : BitVec 13} (hsync : s.fab.sync = true) (htell : s.tellable n = true) :
    (s.setTime x).notifiable n = true := by
  rw [State.notifiable, State.tellable_setTime h, htell, Bool.and_true]
  exact hsync

theorem State.concerned_setTime (s : State) (x : W64) (p k : Nat) : (s.setTime x).concerned p k = s.concerned p k := rfl

theorem powered_setTime (h : frameOf x = s.frame) {p j : Nat} (hp : Powered s p j) : Powered (s.setTime x) p j := by
  unfold Powered at hp ⊢
  rw [State.frame_setTime h]
  exact hp

end

/-- The state at the last count of the slot. -/
def State.last (s : State) : State := s.setTime (s.slotEnd - 1)

/-- The state at the end of the slot, once its data window has been open. -/
def State.closing (s : State) : State :=
  if tickOf s.sys.sidt < 48 ∧ 48 ≤ tickOf s.last.sys.sidt then s.last.windowOpen else s.last

theorem State.opens_closing (s : State) : s.last.Opens s.closing := by
  unfold State.closing
  split
  · exact s.last.opens_windowOpen
  · exact State.Opens.refl _

/-- The next slot begins after the restripe of every lost link, and keeps what it left (14 R334). -/
theorem State.keeps_sidereal_slotEnd (s : State) (agree : Bool) :
    (s.closing.restripeAll.setTime s.slotEnd).Keeps (s.sidereal s.slotEnd agree) := by
  have hbegin : (s.closing.restripeAll.setTime s.slotEnd).Keeps (if frameOf s.slotEnd = frameOf s.sys.sidt then
      (s.closing.restripeAll.setTime s.slotEnd).slotStart
      else ((s.closing.restripeAll.setTime s.slotEnd).frameStart agree).slotStart) := by
    split
    · exact State.keeps_slotStart _
    · exact (State.keeps_frameStart _ _).trans (State.keeps_slotStart _)
  unfold State.sidereal
  rw [if_neg s.slotEnd_div_ne]
  refine iteInduction (fun hopen => ?_) fun _ => hbegin
  have htick := congrArg tickOf hbegin.sidt
  rw [show (s.closing.restripeAll.setTime s.slotEnd).sys.sidt = s.slotEnd from rfl, s.tickOf_slotEnd] at htick
  exact absurd (htick ▸ hopen.2) (by decide)

theorem marked_setTime {s : State} {fr p : Nat} {w : MarkWhat} (h : Marked s fr p w) (x : W64) : Marked (s.setTime x) fr p w := h

theorem State.exec_slotBoundary (s : State) :
    ∃ t, exec .slotBoundary s = .next t ∧ (s.closing.restripeAll.setTime s.slotEnd).Keeps t :=
  ⟨_, rfl, (s.keeps_sidereal_slotEnd _).trans (State.Keeps.of_fab rfl rfl)⟩

/-! ## The restripe of one link -/

/-- Link (p, k), the only one under LOL, is restriped, and its record `e` joins the batch (14 R334). -/
def State.restriped (s : State) (p k : Nat) (e : EvRec) : State := ((s.upFab fun f => { f with lol := [] }).restripe p k).1.postEv e

/-- The state once the restripe has been told to the peers concerned. -/
def State.restripeTold (s : State) (p k : Nat) (e : EvRec) : State := (s.restriped p k e).tellPeers p k fun n => .loss n false p k

theorem State.restripeAll_one {s : State} {p k : Nat} {x : EvRec} (h : s.fab.lol = [(p, k, x)]) :
    ∃ e, s.restripeAll = (s.restripeTold p k e).beginRepair p k none := by
  unfold State.restripeAll
  rw [h]
  exact ⟨_, rfl⟩

/-- The state without records, links and what waits for them. -/
def State.sansRestripe (s : State) : State := s.upFab fun f => { f with links := [], store := [], replayVia := [], lol := [], evq := [] }

theorem State.sansRestripe_clearLol (s : State) : (s.upFab fun f => { f with lol := [] }).sansRestripe = s.sansRestripe := rfl

theorem State.sansRestripe_restripe (s : State) (p k : Nat) : (s.restripe p k).1.sansRestripe = s.sansRestripe := rfl

theorem State.sansRestripe_postEv (s : State) (e : EvRec) : (s.postEv e).sansRestripe = s.sansRestripe := rfl

/-- A restripe changes nothing but the link, the flits that wait and the batch of records. -/
theorem State.sansRestripe_restriped (s : State) (p k : Nat) (e : EvRec) : (s.restriped p k e).sansRestripe = s.sansRestripe := by
  rw [State.restriped, State.sansRestripe_postEv, State.sansRestripe_restripe, State.sansRestripe_clearLol]

theorem State.eq_of_restriped {α : Type} (s : State) (p k : Nat) (e : EvRec) (f : State → α) (hf : ∀ u : State, f u.sansRestripe = f u) :
    f (s.restriped p k e) = f s := by
  rw [← hf, s.sansRestripe_restriped, hf]

/-- What looks at no message, lease, link, flit or record is as it was at the last count of the slot. -/
theorem State.eq_of_restripeTold {s : State} {α : Type} (p k : Nat) (e : EvRec) (f : State → α) (hlease : ∀ u : State, f u.sansLeases = f u)
    (hlink : ∀ u : State, f u.sansRestripe = f u) : f (s.closing.restripeTold p k e) = f s.last := by
  rw [State.restripeTold, (State.tells_tellPeers _ _ _ _).opens.eq_of_rest f hlease, State.eq_of_restriped s.closing p k e f hlink,
    s.opens_closing.eq_of_rest f hlease]

theorem State.concerned_sansRestripe (s : State) (p k : Nat) : s.sansRestripe.concerned p k = s.concerned p k := rfl

theorem State.notifiable_sansRestripe (s : State) (n : BitVec 13) : s.sansRestripe.notifiable n = s.notifiable n := rfl

theorem State.canLeave_loss_sansRestripe (s : State) (n : Option (BitVec 13)) (b : Bool) (p k : Nat) :
    s.sansRestripe.canLeave (.loss n b p k) = s.canLeave (.loss n b p k) := rfl

theorem State.notifiable_sansLeases (s : State) (n : BitVec 13) : s.sansLeases.notifiable n = s.notifiable n := rfl

theorem State.canLeave_loss_sansLeases (s : State) (n : Option (BitVec 13)) (b : Bool) (p k : Nat) :
    s.sansLeases.canLeave (.loss n b p k) = s.canLeave (.loss n b p k) := rfl

/-- Every peer that the lost line concerns and that can be reached is told (14 R334, R337). -/
theorem State.goes_restripeTold (s : State) (p k : Nat) (e : EvRec) {n : BitVec 13} (hn : n ∈ s.concerned p k) (hsync : s.fab.sync = true)
    (htell : s.tellable n = true) : Goes s.last (s.closing.restripeTold p k e) (.loss (some n) false p k) := by
  have hmem : n ∈ (s.closing.restriped p k e).concerned p k := by
    rw [State.eq_of_restriped s.closing p k e (·.concerned p k) fun u => u.concerned_sansRestripe p k]
    refine s.opens_closing.concerned p k ?_
    rw [State.last, State.concerned_setTime]
    exact hn
  have hreach : (s.closing.restriped p k e).notifiable n = true := by
    rw [State.eq_of_restriped s.closing p k e (·.notifiable n) fun u => u.notifiable_sansRestripe n,
      s.opens_closing.eq_of_rest (·.notifiable n) fun u => u.notifiable_sansLeases n, State.last]
    exact State.notifiable_setTime s.frameOf_slotLast hsync htell
  have hleave : (s.closing.restriped p k e).canLeave (.loss (some n) false p k) = s.last.canLeave (.loss (some n) false p k) := by
    rw [State.eq_of_restriped s.closing p k e (·.canLeave (.loss (some n) false p k)) fun u => u.canLeave_loss_sansRestripe (some n) false p k,
      s.opens_closing.eq_of_rest (·.canLeave (.loss (some n) false p k)) fun u => u.canLeave_loss_sansLeases (some n) false p k]
  have hgoes := State.goes_tell _ _ (fun n => .loss n false p k) hmem hreach
  rw [Goes, hleave] at hgoes
  exact hgoes

theorem State.store_restripeTold (s : State) (p k : Nat) (e : EvRec) : (s.restripeTold p k e).fab.store.length = s.fab.store.length ∧
    (∀ y ∈ (s.restripeTold p k e).fab.store, y.link ≠ some (64 * p + k % 64)) ∧ (s.restripeTold p k e).fab.lol = [] := by
  obtain ⟨w, q, heq⟩ := (s.restriped p k e).tells_tellPeers p k fun n => .loss n false p k
  rw [State.restripeTold, heq]
  exact ⟨State.store_restripe_length _ p k, State.store_restripe_link _ p k, rfl⟩

theorem State.lol_closing (s : State) : s.closing.fab.lol = s.fab.lol := s.opens_closing.eq_of_rest (·.fab.lol) fun _ => rfl

theorem State.store_closing (s : State) : s.closing.fab.store = s.fab.store := s.opens_closing.eq_of_rest (·.fab.store) fun _ => rfl

theorem State.hostRepair_setTime (s : State) (x : W64) : (s.setTime x).hostRepair = s.hostRepair := rfl

/-- What an attempt needs and what removes a line stands at the restripe as it did before it. -/
theorem State.hostRepair_restripeTold (s : State) (p k : Nat) (e : EvRec) : (s.closing.restripeTold p k e).hostRepair = s.hostRepair := by
  rw [State.eq_of_restripeTold p k e (·.hostRepair) (fun _ => rfl) fun _ => rfl, State.last]
  exact s.hostRepair_setTime _

theorem State.repairs_restripeTold (s : State) (p k : Nat) (e : EvRec) : (s.closing.restripeTold p k e).fab.repairs = s.fab.repairs :=
  State.eq_of_restripeTold p k e (·.fab.repairs) (fun _ => rfl) fun _ => rfl

theorem State.spcDark_restripeTold (s : State) (p k : Nat) (e : EvRec) : (s.closing.restripeTold p k e).fab.spcDark = s.fab.spcDark :=
  State.eq_of_restripeTold p k e (·.fab.spcDark) (fun _ => rfl) fun _ => rfl

theorem State.boundary_restripeTold (s : State) (p k : Nat) (e : EvRec) : (s.closing.restripeTold p k e).boundary = s.frame + 2 := by
  rw [State.eq_of_restripeTold p k e (·.boundary) (fun _ => rfl) fun _ => rfl, State.boundary, State.last,
    State.frame_setTime s.frameOf_slotLast]

theorem powered_restripeTold {s : State} {p j : Nat} (h : Powered s p j) (q k : Nat) (e : EvRec) :
    Powered (s.closing.restripeTold q k e) p j := by
  rw [State.eq_of_restripeTold q k e (fun u => Powered u p j) (fun _ => rfl) fun _ => rfl, State.last]
  exact powered_setTime s.frameOf_slotLast h

end Sys2Proof.Machine

namespace Sys2Proof.Claims

open Sys2Proof Sys2Proof.Machine

/-- The repair of a lost link under LOL begins at the slot boundary, where its flits are striped anew and its loss is told (14 R334, R335). -/
theorem ends_slotBoundary_restripes {s : State} {p k : Nat} (hk : k < 128) {x : EvRec} (h : s.fab.lol = [(p, k, x)]) :
    Ends .slotBoundary s fun t => t.fab.lol = [] ∧
      (∀ n ∈ s.concerned p k, s.fab.sync = true → s.tellable n = true → Goes s.last t (.loss (some n) false p k)) ∧
      (t.fab.store.length = s.fab.store.length ∧ ∀ y ∈ t.fab.store, y.link ≠ some (64 * p + k % 64)) ∧
      (s.hostRepair = true → Mending t p k none) ∧ (s.hostRepair = false → Powered s p ((k + 64) % 128) → Mending t p k none) ∧
      (s.hostRepair = false → (∀ r ∈ s.fab.repairs, r.port ≠ p) → 64 ≤ (k + 64) % 128 → s.fab.spcDark.get false p = true →
        Marked t (s.frame + 2) p (.lineGone (k % 64))) := by
  obtain ⟨e, hall⟩ := State.restripeAll_one (s.lol_closing.trans h)
  obtain ⟨t, hexec, hkeep⟩ := s.exec_slotBoundary
  rw [hall] at hkeep
  refine ⟨t, hexec, ?_⟩
  have hmends := (s.closing.restripeTold p k e).mends_beginRepair p k none
  have hmending (hcan : s.hostRepair = false → Powered s p ((k + 64) % 128)) : Mending t p k none := by
    obtain ⟨r, hr, hrepair⟩ := State.mending_beginRepair fun hno => canTry_other (r := State.newRepair _ p k none) rfl rfl hk
      (powered_restripeTold (hcan (s.hostRepair_restripeTold p k e ▸ hno)) p k e)
    exact ⟨r, hkeep.repairs ▸ hr, hrepair⟩
  obtain ⟨hlen, hlink, hlol⟩ := s.closing.store_restripeTold p k e
  have hstore := hkeep.store.trans (hmends.eq_of_still (·.fab.store) fun _ => rfl)
  refine ⟨?_, fun n hn hsync htell => ?_, ⟨?_, ?_⟩, fun hhost => hmending fun hno => ?_, fun _ hlit => hmending fun _ => hlit,
    fun hhost hfree hlow hdark => ?_⟩
  · exact (hkeep.lol.trans (hmends.eq_of_still (·.fab.lol) fun _ => rfl)).trans hlol
  · exact goes_mono (hmends.goes (s.goes_restripeTold p k e hn hsync htell)) hkeep.wire hkeep.ctlq
  · exact (congrArg List.length hstore).trans (hlen.trans (congrArg List.length s.store_closing))
  · exact fun y hy => hlink y (hstore ▸ hy)
  · exact absurd (hhost.symm.trans hno) (by decide)
  · have hmark := State.marked_beginRepair_dark (k := k) (s.hostRepair_restripeTold p k e ▸ hhost) (by omega)
      (s.repairs_restripeTold p k e ▸ hfree) (s.spcDark_restripeTold p k e ▸ hdark)
    rw [s.boundary_restripeTold] at hmark
    exact hkeep.gone _ p (k % 64) (marked_setTime hmark _)

/-- The statement's clause about a slot boundary, where the host's choice of repairs is read from SYSMODE. -/
theorem ends_slotBoundary {s : State} {p : Fin 16} {k : Fin 128} {x : EvRec} (h : s.fab.lol = [(p.val, k.val, x)]) :
    Ends .slotBoundary s fun t => t.fab.lol = [] ∧
      (∀ n ∈ s.concerned p k, s.fab.sync = true → s.tellable n = true →
        Goes { s with sys := { s.sys with sidt := s.slotEnd - 1 } } t (.loss (some n) false p k)) ∧
      (t.fab.store.length = s.fab.store.length ∧ ∀ y ∈ t.fab.store, y.link ≠ some (linkOf p k)) ∧
      (s.sys.sysmode.getLsbD 1 = true ∨ s.sys.sysmode.getLsbD 2 = true → Mending t p k none) ∧
      (¬(s.sys.sysmode.getLsbD 1 = true ∨ s.sys.sysmode.getLsbD 2 = true) → Powered s p ((k.val + 64) % 128) → Mending t p k none) ∧
      (¬(s.sys.sysmode.getLsbD 1 = true ∨ s.sys.sysmode.getLsbD 2 = true) → (∀ r ∈ s.fab.repairs, r.port ≠ p) →
        64 ≤ (k.val + 64) % 128 → s.fab.spcDark.get false p = true → Marked t (s.frame + 2) p (.lineGone (k % 64))) := by
  simp only [← s.hostRepair_iff, Bool.not_eq_true]
  exact ends_slotBoundary_restripes k.isLt h

/-- Losses of light and signal, drifts, locks and the light of a spare comb do as 14 R332 to R335 say. -/
theorem losses_holds : losses := fun s p k _ ch b =>
  ⟨makes_lossOfLight_dark, makes_lossOfLight_spare, ends_lossOfLight_replaced, ends_lossOfLight_used, fun _ => ends_slotBoundary,
    ends_lossOfLight_fed s p k, makes_lossOfSignal_deaf, fun hsees => ⟨ends_lossOfSignal hsees, ends_lossOfSignal_spare hsees⟩,
    ends_drift s p ch, ends_retune s p ch, ⟨makes_retuneRelock_none, ends_retuneRelock⟩, ends_lockfail s p ch,
    ends_spareCombLightChange s p b⟩

/-- Settles O55: losses post their records and tell those concerned, and a lost link is restriped and its repair begun at the next slot
boundary; attempts and the host's answers continue or remove the repair; the notices of peers mark lines from the frame they name. -/
theorem repairResult : Obligations.RepairResult := ⟨losses_holds, attempts_holds, peersTell_holds⟩

end Sys2Proof.Claims
end

section
/-! SUPPORT. How a kernel's run ends outside the dispatcher: what its completion report changes, and what it leaves behind in the fabric and
the Orreries (13 R304, R319; 15 R350; 17 R379, R380, R386). -/

namespace Sys2Proof.Machine

/-! ## What a kernel leaves behind in the fabric and the Orreries -/

/-- Only the fabric, the Orreries and the messages on their way to phaser objects separate `t` from `s`. -/
def State.Abroad (s t : State) : Prop :=
  ∃ (f : Fabric) (o : SMap Orrery) (m : List PhMsg), t = { s with fab := f, orreries := o, transit := m }

namespace State.Abroad

variable {s t u : State}

theorem refl (s : State) : s.Abroad s := ⟨s.fab, s.orreries, s.transit, rfl⟩

theorem trans (hst : s.Abroad t) (htu : t.Abroad u) : s.Abroad u := by
  obtain ⟨f, o, m, rfl⟩ := hst
  obtain ⟨f', o', m', rfl⟩ := htu
  exact ⟨f', o', m', rfl⟩

theorem foldl {α : Type} {f : State → α → State} (hf : ∀ (u : State) (a : α), u.Abroad (f u a)) (l : List α) (s : State) :
    s.Abroad (l.foldl f s) :=
  List.foldlRecOn (motive := fun u => s.Abroad u) l f (refl s) fun u hu a _ => hu.trans (hf u a)

theorem ctxs (h : s.Abroad t) : t.ctxs = s.ctxs := by obtain ⟨f, o, m, rfl⟩ := h; rfl
theorem cores (h : s.Abroad t) : t.cores = s.cores := by obtain ⟨f, o, m, rfl⟩ := h; rfl

end State.Abroad

theorem State.Tells.abroad {s t : State} (h : s.Tells t) : s.Abroad t := by
  obtain ⟨w, q, rfl⟩ := h
  exact ⟨_, _, _, rfl⟩

theorem State.abroad_upFab (s : State) (f : Fabric → Fabric) : s.Abroad (s.upFab f) := ⟨_, _, _, rfl⟩

theorem State.abroad_upOrrery (s : State) (d : Nat) (f : Orrery → Orrery) : s.Abroad (s.upOrrery d f) := ⟨_, _, _, rfl⟩

theorem State.abroad_arrive (s : State) (k : Nat) (arr : Option Arrive) (f : Option FaultRec) : s.Abroad (s.arrive k arr f) := by
  unfold State.arrive
  split
  · exact ⟨_, _, _, rfl⟩
  · exact State.Abroad.refl s

theorem State.abroad_abortAt (s : State) (d t : Nat) (f : FaultRec) (dog : Bool) : s.Abroad (s.abortAt d t f dog) := by
  unfold State.abortAt
  split
  · exact State.Abroad.refl s
  · exact ((s.abroad_upOrrery _ _).trans (State.Abroad.foldl (fun u e => (u.tells_emit _).abroad) _ _)).trans (State.abroad_arrive _ _ _ _)

theorem State.abroad_abortIn (s : State) (d : Nat) (comm : BitVec 16) (key : W64) (dog : Bool) : s.Abroad (s.abortIn d comm key dog) := by
  unfold State.abortIn
  split
  · exact s.abroad_abortAt _ _ _ _
  · exact s.abroad_upOrrery _ _

theorem State.abroad_abort (s : State) (d t : Nat) (f : FaultRec) (dog : Bool) : s.Abroad (s.abort d t f dog) := by
  unfold State.abort
  split
  · exact State.Abroad.refl s
  · exact (s.abroad_abortAt _ _ _ _).trans (State.Abroad.foldl (fun u e => u.abroad_abortIn _ _ _ _) _ _)

theorem State.abroad_endTickets (s : State) (kid : Nat) : s.Abroad (s.endTickets kid) :=
  State.Abroad.foldl (fun u _ => State.Abroad.foldl
    (fun w _ => iteInduction (fun _ => w.abroad_abort _ _ _ _) fun _ => State.Abroad.refl w) _ u) _ s

theorem State.abroad_sendReleases (s : State) (l : Nat) (v : Lease) : s.Abroad (s.sendReleases l v) :=
  State.Abroad.foldl (fun u _ => (u.tells_queueCtl _ _ _ _ _).abroad) _ s

theorem State.abroad_endKernel (s : State) (kid : Nat) : s.Abroad (s.endKernel kid) := by
  unfold State.endKernel
  refine ((s.abroad_endTickets kid).trans (State.abroad_upFab _ _)).trans (State.Abroad.foldl (fun u e => ?_) _ _)
  dsimp only
  split
  · exact u.abroad_upFab _
  split
  · exact u.abroad_upFab _
  · exact (u.abroad_upFab _).trans (State.abroad_sendReleases _ _ _)

/-! ## What a completion report changes -/

/-- What a report of the dispatcher separates `t` from `s` by: memory, the error fields of a queue, objects and messages to them, and
interrupts; the cycle count stands. -/
structure State.Reports (s t : State) : Prop where
  rest : t = { s with mem := t.mem, lines := t.lines, queues := t.queues, phasers := t.phasers, transit := t.transit, sys := t.sys }
  queue : ∀ q, t.queue q = { s.queue q with err := (t.queue q).err, errptr := (t.queue q).errptr }
  cyc : t.sys.cyc = s.sys.cyc

namespace State.Reports

variable {s t u : State}

theorem refl (s : State) : s.Reports s := ⟨rfl, fun _ => rfl, rfl⟩

theorem trans (hst : s.Reports t) (htu : t.Reports u) : s.Reports u where
  rest := by rw [htu.rest, hst.rest]
  queue q := by rw [htu.queue q, hst.queue q]
  cyc := htu.cyc.trans hst.cyc

/-- A change that no queue and no cycle count sees. -/
theorem of_rest (h : t = { s with mem := t.mem, lines := t.lines, phasers := t.phasers, transit := t.transit, sys := t.sys })
    (hcyc : t.sys.cyc = s.sys.cyc) : s.Reports t := by
  rw [h]
  exact ⟨rfl, fun _ => rfl, hcyc⟩

theorem ctxs (h : s.Reports t) : t.ctxs = s.ctxs := by rw [h.rest]
theorem cores (h : s.Reports t) : t.cores = s.cores := by rw [h.rest]
theorem kernels (h : s.Reports t) : t.kernels = s.kernels := by rw [h.rest]
theorem ctx (h : s.Reports t) (x : Nat) : t.ctx x = s.ctx x := by rw [State.ctx, h.ctxs]; rfl
theorem core (h : s.Reports t) (k : Nat) : t.core k = s.core k := by rw [State.core, h.cores]; rfl
theorem kernel (h : s.Reports t) (k : Nat) : t.kernel k = s.kernel k := by rw [State.kernel, h.kernels]; rfl
theorem head (h : s.Reports t) (q : Nat) : (t.queue q).head = (s.queue q).head := by rw [h.queue q]
theorem part (h : s.Reports t) (q : Nat) : (t.queue q).part = (s.queue q).part := by rw [h.queue q]
theorem cands (h : s.Reports t) (q : Nat) : (t.queue q).cands = (s.queue q).cands := by rw [h.queue q]

end State.Reports

theorem State.reports_noCrec (s : State) (q : Nat) (a : W64) : s.Reports (s.noCrec q a) where
  rest := rfl
  cyc := rfl
  queue r := by
    by_cases h : r = q
    · subst h
      simp only [State.noCrec, State.queue_setQueue_self]
    · simp only [State.noCrec, State.queue_setQueue_of_ne _ _ h]

theorem State.reports_wr (s : State) (tag : BitVec 12) (pa : Nat) (bs : List Byte) : s.Reports (s.wr tag pa bs) := by
  unfold State.wr
  split
  · exact State.Reports.refl s
  · exact State.Reports.of_rest rfl rfl

theorem State.reports_writeCrec (s : State) (q : Nat) (a : W64) (bs : List Byte) : s.Reports (s.writeCrec q a bs) := by
  unfold State.writeCrec
  split
  · exact s.reports_noCrec q a
  split
  · exact s.reports_wr _ _ _
  · exact s.reports_noCrec q a

theorem State.reports_cint (s : State) : s.Reports s.cint := by
  unfold State.cint
  split <;> exact State.Reports.of_rest rfl rfl

theorem State.reports_finishInt (s : State) (q : Nat) (r : KRec) : s.Reports (s.finishInt q r) := by
  unfold State.finishInt
  split
  · exact (State.Reports.of_rest (by exact rfl) (by exact rfl)).trans (State.reports_cint _)
  split
  · exact State.Reports.of_rest rfl rfl
  · exact State.Reports.refl s

/-- What the end of a kernel does to its DONE object (02 R29): an arrival, or the break. -/
def State.signalDone (s : State) (k : Kernel) (e : EndInfo) (requeue : Bool) : State :=
  match k.krec.done with
  | none => s
  | some o => if e.status = Status.ok then s.post (.anon o 1 none 0 none) else if requeue then s else s.breakObj o

theorem State.finishKernel_eq (s : State) (k : Kernel) (e : EndInfo) (requeue : Bool) : s.finishKernel k e requeue =
    ((s.writeCrec k.q k.krec.crec (crecBytes k e requeue s.sys.sidt)).signalDone k e requeue).finishInt k.q k.krec := rfl

theorem State.reports_signalDone (s : State) (k : Kernel) (e : EndInfo) (requeue : Bool) : s.Reports (s.signalDone k e requeue) := by
  unfold State.signalDone
  split
  · exact State.Reports.refl s
  · exact iteInduction (fun _ => State.Reports.of_rest rfl rfl) fun _ =>
      iteInduction (fun _ => State.Reports.refl s) fun _ => State.Reports.of_rest rfl rfl

theorem State.reports_finishKernel (s : State) (k : Kernel) (e : EndInfo) (requeue : Bool) : s.Reports (s.finishKernel k e requeue) :=
  ((s.reports_writeCrec _ _ _).trans (State.reports_signalDone _ k e requeue)).trans (State.reports_finishInt _ _ _)

/-! ## The completion record in memory -/

theorem State.mem_signalDone (s : State) (k : Kernel) (e : EndInfo) (requeue : Bool) : (s.signalDone k e requeue).mem = s.mem := by
  unfold State.signalDone
  split
  · rfl
  · split_ifs <;> rfl

theorem State.mem_finishInt (s : State) (q : Nat) (r : KRec) : (s.finishInt q r).mem = s.mem := by
  unfold State.finishInt State.cint
  split_ifs <;> rfl

/-- The translation of the dispatcher's accesses rests on memory and the system registers alone. -/
theorem State.devXlate_congr {s t : State} (hmem : t.mem = s.mem) (hsys : t.sys = s.sys) (q va : Nat) (acc : Acc) :
    t.devXlate q va acc = s.devXlate q va acc :=
  have hrest : ∀ u : State, u.devXlate q va acc = State.devXlate { State.reset with mem := u.mem, sys := u.sys } q va acc := fun _ => rfl
  (hrest t).trans (hmem ▸ hsys ▸ (hrest s).symm)

theorem State.mem_finishKernel {s : State} {k : Kernel} {pa : Nat} (halign : k.krec.crec.toNat % 64 = 0)
    (hpa : s.devXlate k.q k.krec.crec.toNat .write = .ok pa) (e : EndInfo) (requeue : Bool) :
    (s.finishKernel k e requeue).mem = memWr s.mem pa (crecBytes k e requeue s.sys.sidt) := by
  rw [State.finishKernel_eq, State.mem_finishInt, State.mem_signalDone, State.writeCrec, if_neg (not_not.2 halign), hpa, State.wr_mem]

/-- STATUS stands behind the four bytes of MAGIC. -/
theorem crecBytes_eq (k : Kernel) (e : EndInfo) (requeue : Bool) (sid : W64) :
    ∃ rest, crecBytes k e requeue sid = natLe 4 0x01435A44 ++ (natLe 2 (statusCode e.status) ++ rest) :=
  ⟨_, by simp only [crecBytes, List.append_assoc]; rfl⟩

theorem crecBytes_status (k : Kernel) (e : EndInfo) (requeue : Bool) (sid : W64) :
    (crecBytes k e requeue sid).getD 4 0 = BitVec.ofNat 8 (statusCode e.status) ∧ (crecBytes k e requeue sid).getD 5 0 = 0 := by
  obtain ⟨rest, heq⟩ := crecBytes_eq k e requeue sid
  have hhigh : statusCode e.status / 256 = 0 := by cases e.status <;> rfl
  rw [heq]
  simp [natLe, hhigh]

theorem six_le_length_crecBytes (k : Kernel) (e : EndInfo) (requeue : Bool) (sid : W64) : 6 ≤ (crecBytes k e requeue sid).length := by
  obtain ⟨rest, heq⟩ := crecBytes_eq k e requeue sid
  simp only [heq, natLe, List.length_append, List.length_cons, List.length_nil]
  omega

/-- A completion record that can be written gives the status (17 R380). -/
theorem State.byte_finishKernel_status {s : State} {k : Kernel} {pa : Nat} (halign : k.krec.crec.toNat % 64 = 0)
    (hpa : s.devXlate k.q k.krec.crec.toNat .write = .ok pa) (e : EndInfo) (requeue : Bool) :
    (s.finishKernel k e requeue).byte (pa + 4) = BitVec.ofNat 8 (statusCode e.status) ∧ (s.finishKernel k e requeue).byte (pa + 5) = 0 := by
  have hlen := six_le_length_crecBytes k e requeue s.sys.sidt
  obtain ⟨hlow, hhigh⟩ := crecBytes_status k e requeue s.sys.sidt
  rw [State.byte, State.byte, State.mem_finishKernel halign hpa, memWr_get, memWr_get, if_pos (by omega), if_pos (by omega),
    Nat.add_sub_cancel_left, Nat.add_sub_cancel_left]
  exact ⟨hlow, hhigh⟩

end Sys2Proof.Machine
end

section
/-! SUPPORT. The dispatcher takes queue entries with their records and sees dependences (02 R28, R30, R31; 03 R46, R49, R53). -/

namespace Sys2Proof.SMap

theorem put_put {α : Type} (m : SMap α) (k : Nat) (v w : α) : (m.put k v).put k w = m.put k w := by
  induction m with
  | nil => simp [put]
  | cons e m ih =>
    obtain ⟨j, u⟩ := e
    by_cases hlt : k < j
    · simp [put, hlt]
    by_cases heq : k = j
    · simp [put, heq]
    · simp [put, hlt, heq, ih]

end Sys2Proof.SMap

namespace Sys2Proof.Machine

theorem State.setQueue_setQueue (s : State) (q : Nat) (v w : Queue) : (s.setQueue q v).setQueue q w = s.setQueue q w :=
  congrArg (fun m => ({ s with queues := m } : State)) (SMap.put_put _ _ _ _)

/-! ## Wait entries (02 R28; 03 R53) -/

/-- A wait entry is satisfied after a look: it names nothing, was satisfied before, or is satisfied by the object seen. -/
theorem State.satNow_getD (s : State) (k : Kernel) (taken : Bool) (sees : Nat → Bool) {i : Nat} (hi : i < 4) :
    (s.satNow k taken sees).getD i false = true ↔ ∀ w, k.krec.waits.getD i none = some w →
      k.sat.getD i false = true ∨ (sees w.1 = true ∧ s.waitMet taken w = true) := by
  simp only [State.satNow, List.getD_eq_getElem?_getD, List.getElem?_map, List.getElem?_range hi, Option.map_some, Option.getD_some]
  cases k.krec.waits[i]?.getD none with
  | none => simp
  | some w => simp

theorem State.waitBroken_iff (s : State) (k : Kernel) (sees : Nat → Bool) :
    s.waitBroken k sees = true ↔ ∃ i, i < 4 ∧ ∃ w, k.krec.waits.getD i none = some w ∧ k.sat.getD i false = false ∧
      sees w.1 = true ∧ (s.phaser w.1).broken = true := by
  simp only [State.waitBroken, List.any_eq_true, List.mem_range]
  refine exists_congr fun i => and_congr_right fun _ => ?_
  cases k.krec.waits.getD i none with
  | none => simp
  | some w => simp [and_assoc]

theorem recOf_waits_length (bs : List Byte) : (recOf bs).waits.length = 4 := by simp [recOf]

/-- The valid wait entries of a record are those at its four places. -/
theorem mem_recOf_waits {bs : List Byte} {w : Nat × W32} :
    some w ∈ (recOf bs).waits ↔ ∃ i, i < 4 ∧ (recOf bs).waits.getD i none = some w := by
  have hlen := recOf_waits_length bs
  constructor
  · intro h
    obtain ⟨i, hi, heq⟩ := List.mem_iff_getElem.1 h
    exact ⟨i, hlen ▸ hi, (List.getD_eq_getElem _ _ hi).trans heq⟩
  · rintro ⟨i, hi, heq⟩
    have hi' : i < (recOf bs).waits.length := hlen ▸ hi
    rw [List.getD_eq_getElem _ _ hi'] at heq
    exact heq ▸ List.getElem_mem hi'

/-! ## Candidates that are discarded -/

/-- Only contexts and matrix groups are freed. -/
theorem State.freeAll_rest (s : State) (kid : Nat) :
    s.freeAll kid = { s with ctxs := (s.freeAll kid).ctxs, groups := (s.freeAll kid).groups } := by
  refine List.foldlRecOn (motive := fun u : State => u = { s with ctxs := u.ctxs, groups := u.groups }) _ _ rfl fun u hu x _ => ?_
  rw [hu]
  unfold State.freeCtx
  dsimp only
  split <;> rfl

theorem State.queue_uncand_self (s : State) (k : Kernel) (kid : Nat) :
    (s.uncand k kid).queue k.q = { s.queue k.q with cands := (s.queue k.q).cands.filter (· != kid) } := State.queue_setQueue_self _ _ _

theorem State.not_mem_cands_uncand (s : State) (k : Kernel) (kid : Nat) : kid ∉ ((s.uncand k kid).queue k.q).cands := by
  simp [State.queue_uncand_self]

/-- Kernel `k` leaves the dispatcher with DEPFAIL. -/
def State.discard (s : State) (k : Kernel) (kid : Nat) : State :=
  (((s.freeAll kid).uncand k kid).setKernel kid none).finishKernel k (EndInfo.plain .depfail) false

theorem State.reports_discard (s : State) (k : Kernel) (kid : Nat) :
    (((s.freeAll kid).uncand k kid).setKernel kid none).Reports (s.discard k kid) := State.reports_finishKernel _ _ _ _

theorem State.kernel_discard (s : State) (k : Kernel) (kid : Nat) : (s.discard k kid).kernel kid = none :=
  ((s.reports_discard k kid).kernel kid).trans (State.kernel_setKernel_self _ _ _)

theorem State.not_mem_cands_discard (s : State) (k : Kernel) (kid : Nat) : kid ∉ ((s.discard k kid).queue k.q).cands := by
  rw [(s.reports_discard k kid).cands]
  exact (s.freeAll kid).not_mem_cands_uncand k kid

theorem State.queue_freeAll (s : State) (kid q : Nat) : (s.freeAll kid).queue q = s.queue q := by rw [s.freeAll_rest kid]; rfl

theorem State.head_discard (s : State) (k : Kernel) (kid : Nat) : ((s.discard k kid).queue k.q).head = (s.queue k.q).head := by
  rw [(s.reports_discard k kid).head, State.setKernel_queue, State.queue_uncand_self, State.queue_freeAll]

theorem State.part_discard (s : State) (k : Kernel) (kid : Nat) : ((s.discard k kid).queue k.q).part = (s.queue k.q).part := by
  rw [(s.reports_discard k kid).part, State.setKernel_queue, State.queue_uncand_self, State.queue_freeAll]

theorem State.byte_discard {s : State} {k : Kernel} {pa : Nat} (halign : k.krec.crec.toNat % 64 = 0)
    (hpa : s.devXlate k.q k.krec.crec.toNat .write = .ok pa) (kid : Nat) :
    (s.discard k kid).byte (pa + 4) = 3 ∧ (s.discard k kid).byte (pa + 5) = 0 := by
  have hfree := s.freeAll_rest kid
  have hsame : (((s.freeAll kid).uncand k kid).setKernel kid none).devXlate k.q k.krec.crec.toNat .write = .ok pa :=
    (State.devXlate_congr (by rw [hfree]; rfl) (by rw [hfree]; rfl) _ _ _).trans hpa
  exact State.byte_finishKernel_status halign hsame _ _

/-! ## A look at the objects -/

/-- The kernel after a look. -/
def State.seen (s : State) (k : Kernel) (taken : Bool) (sees : Nat → Bool) : Kernel := { k with sat := s.satNow k taken sees }

section Look

variable {s : State} {kid : Nat} {k : Kernel} {taken : Bool} {sees : Nat → Bool}

theorem State.look_of_closed (hk : s.kernel kid = some k) (hclosed : k.open = false) : s.look kid taken sees = s := by
  simp [State.look, hk, hclosed]

theorem State.look_of_broken (hk : s.kernel kid = some k) (hopen : k.open = true) (h : s.waitBroken (s.seen k taken sees) sees = true) :
    s.look kid taken sees = s.discard (s.seen k taken sees) kid := by
  simp only [State.look, hk, hopen, Bool.not_true, Bool.false_eq_true, ↓reduceIte]
  exact if_pos h

theorem State.look_of_not_broken (hk : s.kernel kid = some k) (hopen : k.open = true) (h : ¬ s.waitBroken (s.seen k taken sees) sees = true) :
    s.look kid taken sees = s.setKernel kid (some (s.seen k taken sees)) := by
  simp only [State.look, hk, hopen, Bool.not_true, Bool.false_eq_true, ↓reduceIte]
  exact if_neg h

end Look

/-! ## Reading an entry and its record (02 R30; 03 R46) -/

/-- Entry HEAD of queue `q` is reported: nothing at `a` can be taken as a record. -/
def State.badEntry (s : State) (q a : Nat) : State :=
  s.setQueue q { s.queue q with err := (s.queue q).err ||| 1, errptr := BitVec.ofNat 64 a, head := (s.queue q).head + 1, part := none }

/-- Entry HEAD of queue `q` has been taken. -/
def State.pastEntry (s : State) (q : Nat) : State := s.setQueue q { s.queue q with head := (s.queue q).head + 1, part := none }

/-- The record with the bytes `bs` becomes a candidate of queue `q`. -/
def State.hold (s : State) (q : Nat) (bs : List Byte) : State :=
  { s with
    queues := s.queues.put q
      { s.queue q with head := (s.queue q).head + 1, part := none, cands := (s.queue q).cands ++ [s.nextKid] }
    kernels := s.kernels.put s.nextKid (some (Kernel.new (recOf bs) q s.sys.cyc)), nextKid := s.nextKid + 1 }

/-- The kernel of a record that has just been taken, after the look at its objects. -/
def State.taken (s : State) (q : Nat) (bs : List Byte) : Kernel :=
  (s.hold q bs).seen (Kernel.new (recOf bs) q s.sys.cyc) true fun _ => true

theorem State.kernel_hold (s : State) (q : Nat) (bs : List Byte) : (s.hold q bs).kernel s.nextKid = some (Kernel.new (recOf bs) q s.sys.cyc) :=
  SMap.get_put_self _ _ _ _

theorem State.queue_hold (s : State) (q : Nat) (bs : List Byte) : (s.hold q bs).queue q =
    { s.queue q with head := (s.queue q).head + 1, part := none, cands := (s.queue q).cands ++ [s.nextKid] } :=
  SMap.get_put_self _ _ _ _

/-- Units of the record that the dispatcher reads at once. -/
def State.unitsRead (s : State) : Nat := 32 - (Config.freeW32 s.nfree 0x510000).toNat % 33

section Reading

variable {s : State} {q ptr n a : Nat} {bs more : List Byte}

theorem State.badPtr_of_unread (h : (s.queue q).part = none) : s.badPtr q a = s.badEntry q a := by
  rw [State.badPtr, State.badEntry, ← h]

theorem State.readRecord_error (h : s.devRead q (ptr + bs.length) (min (8 * n) (256 - bs.length)) = .error a) :
    s.readRecord q ptr bs n = s.badEntry q a := by
  simp only [State.readRecord, h, State.badPtr, State.queue_setQueue_self]
  exact State.setQueue_setQueue _ _ _ _

variable (h : s.devRead q (ptr + bs.length) (min (8 * n) (256 - bs.length)) = .ok more)

include h

theorem State.readRecord_short (hlen : (bs ++ more).length < 256) :
    s.readRecord q ptr bs n = s.setQueue q { s.queue q with part := some (ptr, bs ++ more) } := by
  simp only [State.readRecord, h]
  exact if_pos hlen

theorem State.readRecord_whole (hlen : 256 ≤ (bs ++ more).length) :
    s.readRecord q ptr bs n = (s.setQueue q { s.queue q with part := none }).takeRecord q (bs ++ more) := by
  simp only [State.readRecord, h]
  exact if_neg (Nat.not_lt.2 hlen)

theorem State.readRecord_bad (hlen : 256 ≤ (bs ++ more).length) (hbad : s.recBad q (bs ++ more) = true) :
    s.readRecord q ptr bs n = (s.pastEntry q).finishKernel (Kernel.new (recOf (bs ++ more)) q s.sys.cyc) (EndInfo.plain .badrec) false := by
  rw [State.readRecord_whole h hlen, State.takeRecord]
  simp only [State.queue_setQueue_self, State.setQueue_setQueue]
  exact if_pos hbad

theorem State.readRecord_held (hlen : 256 ≤ (bs ++ more).length) (hgood : s.recBad q (bs ++ more) = false) :
    s.readRecord q ptr bs n = (s.hold q (bs ++ more)).look s.nextKid true fun _ => true := by
  rw [State.readRecord_whole h hlen, State.takeRecord]
  simp only [State.queue_setQueue_self, State.setQueue_setQueue]
  refine (if_neg (Bool.eq_false_iff.1 hgood)).trans (congrArg (fun u : State => u.look s.nextKid true fun _ => true) ?_)
  exact congrArg (fun m => ({ s.hold q (bs ++ more) with queues := m } : State)) (SMap.put_put _ _ _ _)

end Reading

end Sys2Proof.Machine

namespace Sys2Proof.Claims

open Sys2Proof.Machine

variable {s : State} {q : Fin 64}

/-! ## TAKE_QUEUE_ENTRY -/

theorem makes_takeQueueEntry_idle (hpart : (s.queue q).part = none)
    (h : (s.queue q).en = false ∨ (s.queue q).cands ≠ [] ∨ (s.queue q).head = (s.queue q).tail) : Makes (.takeQueueEntry q) s s := by
  have hidle : (!(s.queue q).en || !(s.queue q).cands.isEmpty || (s.queue q).head == (s.queue q).tail) = true := by
    simpa [or_assoc] using h
  change execTakeQueueEntry q s = _
  simp only [execTakeQueueEntry, hpart, hidle, ↓reduceIte]

theorem exec_takeQueueEntry_part {ptr : Nat} {bs : List Byte} (hpart : (s.queue q).part = some (ptr, bs)) :
    exec (.takeQueueEntry q) s = .next (s.readRecord q ptr bs s.unitsRead).draw := by
  change execTakeQueueEntry q s = _
  simp only [execTakeQueueEntry, hpart]
  rfl

section NewEntry

variable (hpart : (s.queue q).part = none) (hen : (s.queue q).en = true) (hcands : (s.queue q).cands = [])
  (hmore : (s.queue q).head ≠ (s.queue q).tail)

include hen hcands hmore

/-- The queue is enabled, has no candidate from its entries and holds one that has not been taken (03 R46, R49). -/
theorem entry_ready : (!(s.queue q).en || !(s.queue q).cands.isEmpty || (s.queue q).head == (s.queue q).tail) = false := by
  simp [hen, hcands, hmore]

include hpart

theorem makes_takeQueueEntry_unreadable {a : Nat} (h : s.devRead q ((s.queue q).entryVa (s.queue q).head) 8 = .error a) :
    Makes (.takeQueueEntry q) s (s.badEntry q a) := by
  change execTakeQueueEntry q s = _
  simp only [execTakeQueueEntry, hpart, entry_ready hen hcands hmore, h, State.badPtr_of_unread hpart, Bool.false_eq_true, ↓reduceIte]

variable {bs : List Byte} (h : s.devRead q ((s.queue q).entryVa (s.queue q).head) 8 = .ok bs)

include h

theorem makes_takeQueueEntry_misplaced (hbad : leNat bs % 256 ≠ 0 ∨ 2 ^ 48 ≤ leNat bs) :
    Makes (.takeQueueEntry q) s (s.badEntry q (leNat bs)) := by
  change execTakeQueueEntry q s = _
  simp only [execTakeQueueEntry, hpart, entry_ready hen hcands hmore, h, State.badPtr_of_unread hpart, Bool.false_eq_true, ↓reduceIte]
  rw [if_pos hbad]

theorem exec_takeQueueEntry_new (hplace : leNat bs % 256 = 0) (hlow : leNat bs < 2 ^ 48) :
    exec (.takeQueueEntry q) s = .next (s.readRecord q (leNat bs) [] s.unitsRead).draw := by
  change execTakeQueueEntry q s = _
  have hgood : ¬(leNat bs % 256 ≠ 0 ∨ 2 ^ 48 ≤ leNat bs) := by omega
  simp only [execTakeQueueEntry, hpart, entry_ready hen hcands hmore, h, Bool.false_eq_true, ↓reduceIte]
  rw [if_neg hgood]
  rfl

end NewEntry

/-! ## A record that has been read whole -/

/-- An object that was broken when the record was taken satisfies none of its entries (02 R28). -/
theorem waitMet_taken_iff {w : Nat × W32} :
    s.waitMet true w = true ↔ ((s.phaser w.1).phase - w.2).toNat < 2 ^ 31 ∧ (s.phaser w.1).broken = false := by
  simp [State.waitMet, waitMetBy]

/-- The look at a record that has just been taken finds it broken just where one of its objects is, whatever the phase (02 R28). -/
theorem waitBroken_hold_iff (bs : List Byte) : (s.hold q bs).waitBroken (s.taken q bs) (fun _ => true) = true ↔
    ∃ w, some w ∈ (recOf bs).waits ∧ (s.phaser w.1).broken = true := by
  rw [State.waitBroken_iff]
  constructor
  · rintro ⟨i, hi, w, hw, -, -, hbroken⟩
    exact ⟨w, mem_recOf_waits.2 ⟨i, hi, hw⟩, hbroken⟩
  · rintro ⟨w, hw, hbroken⟩
    obtain ⟨i, hi, hget⟩ := mem_recOf_waits.1 hw
    refine ⟨i, hi, w, hget, Bool.eq_false_iff.2 fun hsat => ?_, rfl, hbroken⟩
    obtain hold | ⟨-, hmet⟩ := ((s.hold q bs).satNow_getD (Kernel.new (recOf bs) q s.sys.cyc) true (fun _ => true) hi).1 hsat w hget
    · cases hold
    · exact absurd hbroken (Bool.eq_false_iff.1 (waitMet_taken_iff.1 hmet).2)

section Record

variable {i : Instr} {ptr n : Nat} {bs more : List Byte} (hexec : exec i s = .next (s.readRecord q ptr bs n).draw)
  (hread : s.devRead q (ptr + bs.length) (min (8 * n) (256 - bs.length)) = .ok more) (hlen : 256 ≤ (bs ++ more).length)

include hexec hread hlen

/-- A rejected record (02 R31): the entry is taken, and the completion record says BADREC. -/
theorem ends_badRecord (hbad : s.recBad q (bs ++ more) = true) : Ends i s fun t =>
    t.kernels = s.kernels ∧ (t.queue q).head = (s.queue q).head + 1 ∧ (t.queue q).part = none ∧ (t.queue q).cands = (s.queue q).cands ∧
      ∀ pc, (recOf (bs ++ more)).crec.toNat % 64 = 0 → s.devXlate q (recOf (bs ++ more)).crec.toNat .write = .ok pc →
        t.byte (pc + 4) = 4 ∧ t.byte (pc + 5) = 0 := by
  have hrep := (s.pastEntry q).reports_finishKernel (Kernel.new (recOf (bs ++ more)) q s.sys.cyc) (EndInfo.plain .badrec) false
  have hqueue : (s.pastEntry q).queue q = { s.queue q with head := (s.queue q).head + 1, part := none } := State.queue_setQueue_self _ _ _
  rw [State.readRecord_bad hread hlen hbad] at hexec
  refine ⟨_, hexec, hrep.kernels, ?_, ?_, ?_, fun pc halign hpc => ?_⟩
  · exact (hrep.head q).trans (by rw [hqueue])
  · exact (hrep.part q).trans (by rw [hqueue])
  · exact (hrep.cands q).trans (by rw [hqueue])
  · exact State.byte_finishKernel_status (s := s.pastEntry q) (k := Kernel.new (recOf (bs ++ more)) q s.sys.cyc) halign
      ((State.devXlate_congr (s := s) (t := s.pastEntry q) rfl rfl _ _ _).trans hpc) _ _

variable (hgood : s.recBad q (bs ++ more) = false)

include hgood

/-- A record that waits for a broken object is discarded as it is taken, and the completion record says DEPFAIL (02 R28). -/
theorem ends_takenBroken (hbroken : ∃ w, some w ∈ (recOf (bs ++ more)).waits ∧ (s.phaser w.1).broken = true) : Ends i s fun t =>
    t.kernel s.nextKid = none ∧ (t.queue q).head = (s.queue q).head + 1 ∧ (t.queue q).part = none ∧ s.nextKid ∉ (t.queue q).cands ∧
      ∀ pc, (recOf (bs ++ more)).crec.toNat % 64 = 0 → s.devXlate q (recOf (bs ++ more)).crec.toNat .write = .ok pc →
        t.byte (pc + 4) = 3 ∧ t.byte (pc + 5) = 0 := by
  have hqueue := s.queue_hold q (bs ++ more)
  rw [State.readRecord_held hread hlen hgood, State.look_of_broken (s.kernel_hold q (bs ++ more)) rfl ((waitBroken_hold_iff _).2 hbroken)]
    at hexec
  refine ⟨_, hexec, State.kernel_discard _ _ _, ?_, ?_, ?_, fun pc halign hpc => ?_⟩
  · exact (State.head_discard _ (s.taken q (bs ++ more)) _).trans (congrArg Queue.head hqueue)
  · exact (State.part_discard _ (s.taken q (bs ++ more)) _).trans (congrArg Queue.part hqueue)
  · exact State.not_mem_cands_discard _ (s.taken q (bs ++ more)) _
  · exact State.byte_discard (s := s.hold q (bs ++ more)) (k := s.taken q (bs ++ more)) halign
      ((State.devXlate_congr (s := s) (t := s.hold q (bs ++ more)) rfl rfl _ _ _).trans hpc) _

/-- A record of which no object is broken becomes a candidate, with the entries satisfied whose phase has come (02 R28; 03 R49). -/
theorem ends_taken (hwhole : ∀ w, some w ∈ (recOf (bs ++ more)).waits → (s.phaser w.1).broken = false) : Ends i s fun t =>
    t = { s with queues := t.queues, kernels := t.kernels, nextKid := s.nextKid + 1, nfree := s.nfree + 1 } ∧
    t.queue q = { s.queue q with head := (s.queue q).head + 1, part := none, cands := (s.queue q).cands ++ [s.nextKid] } ∧
    (∀ y, y ≠ s.nextKid → t.kernel y = s.kernel y) ∧
    ∃ b, t.kernel s.nextKid = some { Kernel.new (recOf (bs ++ more)) q s.sys.cyc with sat := b } ∧ ∀ i, i < 4 →
      (b.getD i false = true ↔ ∀ w, (recOf (bs ++ more)).waits.getD i none = some w → ((s.phaser w.1).phase - w.2).toNat < 2 ^ 31) := by
  have hnone : ¬ (s.hold q (bs ++ more)).waitBroken (s.taken q (bs ++ more)) (fun _ => true) = true := by
    rw [waitBroken_hold_iff]
    rintro ⟨w, hw, hbroken⟩
    exact absurd hbroken (Bool.eq_false_iff.1 (hwhole w hw))
  rw [State.readRecord_held hread hlen hgood, State.look_of_not_broken (s.kernel_hold q (bs ++ more)) rfl hnone] at hexec
  refine ⟨_, hexec, rfl, s.queue_hold q (bs ++ more), fun y hy => ?_, _, State.kernel_setKernel_self _ _ _, fun i hi => ?_⟩
  · exact (State.kernel_setKernel_of_ne _ _ hy).trans (SMap.get_put_of_ne _ _ _ hy)
  · rw [State.satNow_getD _ _ _ _ hi]
    refine forall₂_congr fun w hw => ⟨?_, fun hmet => .inr ⟨rfl, ?_⟩⟩
    · rintro (hold | ⟨-, hmet⟩)
      · cases hold
      · exact (waitMet_taken_iff.1 hmet).1
    · exact waitMet_taken_iff.2 ⟨hmet, hwhole w (mem_recOf_waits.2 ⟨i, hi, hw⟩)⟩

end Record

/-! ## DEPENDENCE_EVENT_SEEN -/

section Seen

variable {o : Fin 16384} {kid : Nat}

theorem exec_dependenceEventSeen (hkids : s.kids = [kid]) :
    exec (.dependenceEventSeen o) s = .next (s.look kid false (· == o.val)) := by
  change execDependenceEventSeen o s = _
  rw [execDependenceEventSeen, hkids]
  rfl

/-- Wait entry `i` of kernel `k` is satisfied once object `o` has been seen (03 R53). -/
def Met (s : State) (o : Fin 16384) (k : Kernel) (i : Nat) : Prop :=
  ∀ w, k.krec.waits.getD i none = some w → k.sat.getD i false = true ∨
    w.1 = o.val ∧ ((s.phaser o).phase - w.2).toNat < 2 ^ 31 ∧
      ((s.phaser o).broken = true → ((s.phaser o).brokenAt - w.2).toNat < 2 ^ 31)

theorem satNow_seen_iff (o : Fin 16384) (k : Kernel) {i : Nat} (hi : i < 4) :
    (s.satNow k false (· == o.val)).getD i false = true ↔ Met s o k i := by
  rw [State.satNow_getD _ _ _ _ hi]
  refine forall₂_congr fun w _ => or_congr_right ?_
  rw [beq_iff_eq]
  refine and_congr_right fun hobj => ?_
  cases hbroken : (s.phaser o).broken <;> simp [State.waitMet, waitMetBy, hobj, hbroken]

theorem waitBroken_seen_iff (o : Fin 16384) (k : Kernel) : s.waitBroken (s.seen k false (· == o.val)) (· == o.val) = true ↔
    (s.phaser o).broken = true ∧ ∃ i, i < 4 ∧ ∃ w, k.krec.waits.getD i none = some w ∧ w.1 = o.val ∧ ¬ Met s o k i := by
  rw [State.waitBroken_iff]
  constructor
  · rintro ⟨i, hi, w, hw, hsat, hobj, hbroken⟩
    rw [beq_iff_eq] at hobj
    exact ⟨hobj ▸ hbroken, i, hi, w, hw, hobj, mt (satNow_seen_iff o k hi).2 (Bool.eq_false_iff.1 hsat)⟩
  · rintro ⟨hbroken, i, hi, w, hw, hobj, hmet⟩
    exact ⟨i, hi, w, hw, Bool.eq_false_iff.2 (mt (satNow_seen_iff o k hi).1 hmet), beq_iff_eq.2 hobj, hobj ▸ hbroken⟩

variable {k : Kernel} (hkids : s.kids = [kid]) (hk : s.kernel kid = some k)

include hkids hk

theorem makes_dependenceEventSeen_closed (hclosed : k.open = false) : Makes (.dependenceEventSeen o) s s :=
  (exec_dependenceEventSeen hkids).trans (by rw [State.look_of_closed hk hclosed])

variable (hopen : k.open = true)

include hopen

theorem ends_dependenceEventSeen_broken (h : s.waitBroken (s.seen k false (· == o.val)) (· == o.val) = true) :
    Ends (.dependenceEventSeen o) s fun t => t.kernel kid = none ∧ kid ∉ (t.queue k.q).cands :=
  ⟨_, (exec_dependenceEventSeen hkids).trans (by rw [State.look_of_broken hk hopen h]), State.kernel_discard _ _ _,
    State.not_mem_cands_discard s (s.seen k false (· == o.val)) kid⟩

theorem makes_dependenceEventSeen_seen (h : ¬ s.waitBroken (s.seen k false (· == o.val)) (· == o.val) = true) :
    Makes (.dependenceEventSeen o) s (s.setKernel kid (some (s.seen k false (· == o.val)))) :=
  (exec_dependenceEventSeen hkids).trans (by rw [State.look_of_not_broken hk hopen h])

end Seen

end Sys2Proof.Claims
end

section
/-! SUPPORT. The dispatcher decides and starts: candidates in order, placement with its preparation, starts of instances and preloads (03 R49
to R62). -/

namespace Sys2Proof.Machine

/-! ## Candidates and preloads -/

theorem State.kernel_of_mem_ranked {s : State} {e : Nat × Kernel} (h : e ∈ s.ranked) : s.kernel e.1 = some e.2 := by
  obtain ⟨⟨q, v⟩, -, hv⟩ := List.mem_filterMap.1 (List.mem_mergeSort.1 h)
  dsimp only at hv
  split at hv
  · obtain ⟨k, hk, heq⟩ := Option.bind_eq_some_iff.1 hv
    split_ifs at heq
    obtain rfl := Option.some.inj heq
    exact hk
  · cases hv

/-- Which kernels stand first in their queues rests on the queues and the kernels alone. -/
theorem State.mem_ranked_congr {s t : State} (hqueues : t.queues = s.queues) (hkernels : t.kernels = s.kernels) {e : Nat × Kernel} :
    e ∈ t.ranked ↔ e ∈ s.ranked := by
  simp only [State.ranked, List.mem_mergeSort, State.kernel, hqueues, hkernels]

/-- No candidate may be preloaded, so none is. -/
theorem State.preloadFirst_of_no_preload {s : State} (h : ∀ e ∈ s.ranked, e.2.krec.preload = false) : s.preloadFirst = s := by
  unfold State.preloadFirst
  dsimp only
  refine iteInduction (motive := fun u => u = s) (fun _ => rfl) fun _ => ?_
  split
  next kid y hfind =>
    have hpreload : y.krec.preload = false := h _ (List.mem_of_find?_eq_some hfind)
    have hno : s.preloadable y = false := by rw [State.preloadable, hpreload]; rfl
    rw [hno]
    rfl
  · rfl

theorem State.draw_once_or_twice (s : State) (b : Bool) : ∃ n, (if b then s.draw.draw else s.draw) = { s with nfree := n } := by
  cases b
  · exact ⟨_, rfl⟩
  · exact ⟨_, rfl⟩

/-! ## Placement -/

/-- A decision has been taken in this cycle (03 R52). -/
def State.atDecision (s : State) : State := { s with sys := { s.sys with decided := some s.sys.cyc } }

/-- A decision for an eligible candidate, which returns the device to C0 (17 R387). -/
def State.atDecisionC0 (s : State) : State := { s with sys := { s.sys with decided := some s.sys.cyc, cstate := 0 } }

/-- Preparation changes contexts and cores. -/
theorem State.prepare_rest (s : State) (kid : Nat) (r : KRec) (st : OccSt) (l : List (Nat × Nat)) :
    ∃ (cs : SMap Ctx) (ks : SMap Core), l.foldl (fun s p => s.prepare kid r st p.1 p.2) s = { s with ctxs := cs, cores := ks } := by
  refine List.foldlRecOn (motive := fun u : State => ∃ (cs : SMap Ctx) (ks : SMap Core), u = { s with ctxs := cs, cores := ks }) _ _
    ⟨_, _, rfl⟩ fun u hu p _ => ?_
  obtain ⟨cs, ks, rfl⟩ := hu
  exact ⟨_, _, rfl⟩

/-- The contexts `xs` reserved and prepared for the instances of kernel `k` that have not retired (06 R132). -/
def State.prepared (s : State) (kid : Nat) (k : Kernel) (xs : List Nat) : State :=
  (s.slots kid k xs).foldl (fun s p => s.prepare kid k.krec .prepared p.1 p.2) s

/-- The kernel as placed on the contexts `xs`. -/
def Kernel.placedOn (k : Kernel) (xs : List Nat) : Kernel := { k with st := .placed, ctxs := xs, cycles := 0 }

theorem State.seat_fresh (s : State) (kid : Nat) {k : Kernel} (xs : List Nat) (h : k.saved = false) :
    s.seat kid k xs = ((s.prepared kid k xs).setKernel kid (some (k.placedOn xs))).uncand k kid := by
  rw [State.seat, h]
  rfl

theorem State.kernel_seat_fresh (s : State) (kid : Nat) {k : Kernel} (xs : List Nat) (h : k.saved = false) :
    (s.seat kid k xs).kernel kid = some (k.placedOn xs) := by
  rw [s.seat_fresh kid xs h]
  exact State.kernel_setKernel_self _ _ _

theorem State.kernel_seat_fresh_of_ne (s : State) {kid y : Nat} {k : Kernel} (xs : List Nat) (h : k.saved = false) (hne : y ≠ kid) :
    (s.seat kid k xs).kernel y = s.kernel y := by
  obtain ⟨cs, ks, hrest⟩ := s.prepare_rest kid k.krec .prepared (s.slots kid k xs)
  rw [s.seat_fresh kid xs h, State.prepared, hrest]
  exact State.kernel_setKernel_of_ne _ _ hne

theorem State.sys_seat_fresh (s : State) (kid : Nat) {k : Kernel} (xs : List Nat) (h : k.saved = false) :
    (s.seat kid k xs).sys = s.sys := by
  obtain ⟨cs, ks, hrest⟩ := s.prepare_rest kid k.krec .prepared (s.slots kid k xs)
  rw [s.seat_fresh kid xs h, State.prepared, hrest]
  rfl

theorem State.not_mem_cands_seat (s : State) (kid : Nat) (k : Kernel) (xs : List Nat) : kid ∉ ((s.seat kid k xs).queue k.q).cands :=
  State.not_mem_cands_uncand _ _ _

/-- The only context of a placement is prepared unless its occupant has retired (03 R58). -/
theorem State.ctx_seat_single (s : State) {kid y : Nat} {k : Kernel} (h : k.saved = false) (hretired : s.hasRetired kid k 0 = false) :
    (s.seat kid k [y]).ctx y = s.freshCtx kid k.krec 0 y .prepared := by
  have hslots : s.slots kid k [y] = [(0, y)] := List.filter_cons_of_pos (by rw [hretired]; rfl)
  rw [s.seat_fresh kid [y] h, State.prepared, hslots]
  exact State.ctx_setCtx_self _ _ _

/-- An address kept to 48 bits does not tell whether its sum wrapped at 2^64. -/
theorem KRec.at_entry (r : KRec) : r.at r.entry.toNat = BitVec.ofNat 48 ((r.codeBase.toNat + r.entry.toNat) % 2 ^ 64) := by
  apply BitVec.eq_of_toNat_eq
  rw [KRec.at, BitVec.toNat_ofNat, BitVec.toNat_ofNat, Nat.mod_mod_of_dvd _ (Nat.pow_dvd_pow 2 (by decide))]

/-! ## Starts -/

theorem State.startFresh_of_low {r : KRec} (h : (r.codeBase.toNat + r.entry.toNat) % 2 ^ 64 < 2 ^ 48) (s : State) (x : Nat) :
    s.startFresh x r = s.upCtx x fun c => { c with occ := c.occ.map fun o => { o with st := .running } } :=
  if_neg (Nat.not_le.2 h)

/-- What the step at `y` brings about, and every step keeps, holds at the end of a fold over a list with `y`. -/
theorem foldl_of_mem {σ α : Type} {f : σ → α → σ} {P : σ → Prop} {y : α} (hmake : ∀ u, P (f u y)) (hkeep : ∀ u x, P u → P (f u x))
    (xs : List α) (s : σ) (hy : y ∈ xs ∨ P s) : P (xs.foldl f s) := by
  induction xs generalizing s with
  | nil => exact hy.resolve_left List.not_mem_nil
  | cons x xs ih =>
    refine ih (f s x) ?_
    obtain hmem | hs := hy
    · obtain rfl | hmem := List.mem_cons.1 hmem
      · exact .inr (hmake s)
      · exact .inl hmem
    · exact .inr (hkeep s x hs)

/-- A context of a preload starts, with an empty L1 (03 R62). -/
def State.startOne (r : KRec) (s : State) (x : Nat) : State := (s.upCore (coreOf x) Core.l1Flush).startFresh x r

/-- The instances of a preload start. -/
def State.startAll (r : KRec) (xs : List Nat) (s : State) : State := xs.foldl (State.startOne r) s

section StartAll

variable {r : KRec} (h : (r.codeBase.toNat + r.entry.toNat) % 2 ^ 64 < 2 ^ 48)

include h

theorem State.startOne_of_low (s : State) (x : Nat) : State.startOne r s x =
    (s.upCore (coreOf x) Core.l1Flush).upCtx x fun c => { c with occ := c.occ.map fun o => { o with st := .running } } :=
  State.startFresh_of_low h _ _

theorem State.startAll_rest (xs : List Nat) (s : State) :
    ∃ (cs : SMap Ctx) (ks : SMap Core), State.startAll r xs s = { s with ctxs := cs, cores := ks } := by
  refine List.foldlRecOn (motive := fun u : State => ∃ (cs : SMap Ctx) (ks : SMap Core), u = { s with ctxs := cs, cores := ks }) _ _
    ⟨_, _, rfl⟩ fun u hu x _ => ?_
  obtain ⟨cs, ks, rfl⟩ := hu
  rw [State.startOne_of_low h]
  exact ⟨_, _, rfl⟩

theorem State.l1_startAll {y : Nat} {xs : List Nat} (hy : y ∈ xs) (s : State) : ((State.startAll r xs s).core (coreOf y)).l1 = [] := by
  have hflush : ∀ u x, coreOf y = coreOf x → ((State.startOne r u x).core (coreOf y)).l1 = [] := fun u x hcore => by
    rw [State.startOne_of_low h, State.upCtx_core, hcore, State.core_upCore_self]
    rfl
  refine foldl_of_mem (P := fun u : State => (u.core (coreOf y)).l1 = []) (fun u => hflush u y rfl) (fun u x hu => ?_) xs s (.inl hy)
  by_cases hcore : coreOf y = coreOf x
  · exact hflush u x hcore
  · rw [State.startOne_of_low h, State.upCtx_core, State.core_upCore_of_ne _ _ hcore]
    exact hu

theorem State.occ_startAll {y : Nat} {oc : Occ} (xs : List Nat) (s : State)
    (hy : y ∈ xs ∧ (s.ctx y).occ = some oc ∨ (s.ctx y).occ = some { oc with st := .running }) :
    ((State.startAll r xs s).ctx y).occ = some { oc with st := .running } := by
  induction xs generalizing s with
  | nil => exact hy.resolve_left fun hmem => List.not_mem_nil hmem.1
  | cons x xs ih =>
    refine ih (State.startOne r s x) ?_
    rw [State.startOne_of_low h]
    by_cases hyx : y = x
    · subst hyx
      rw [State.ctx_upCtx_self, State.upCore_ctx]
      obtain ⟨-, hocc⟩ | hocc := hy <;> exact .inr (by rw [hocc]; rfl)
    · rw [State.ctx_upCtx_of_ne _ _ hyx, State.upCore_ctx]
      exact hy.imp_left fun hmem => ⟨(List.mem_cons.1 hmem.1).resolve_left hyx, hmem.2⟩

end StartAll

end Sys2Proof.Machine

namespace Sys2Proof.Claims

open Sys2Proof.Machine

variable {s : State}

theorem Holds.kernelOf {x : Nat} {oc : Occ} {k : Kernel} (h : Holds s x oc k) : s.kernelOf x = some k := by
  obtain ⟨hocc, hk⟩ := h
  rw [State.kernelOf, hocc]
  exact hk

/-! ## PLACEMENT_DECISION -/

theorem makes_placementDecision_early (h : s.mayDecide = false) : Makes .placementDecision s s := by
  change execPlacementDecision s = _
  simp only [execPlacementDecision, h, Bool.not_false, ↓reduceIte]

theorem makes_placementDecision_empty (hmay : s.mayDecide = true) (h : s.ranked = []) :
    ∃ n, Makes .placementDecision s { s.atDecision with nfree := n } := by
  have hno : s.atDecision.draw.preloadFirst = s.atDecision.draw := State.preloadFirst_of_no_preload fun e he => by
    have hmem : e ∈ s.ranked := (State.mem_ranked_congr rfl rfl).1 he
    rw [h] at hmem
    cases hmem
  have hexec : execPlacementDecision s =
      .next (if Config.freeBit s.nfree 0x500000 then s.atDecision.draw.preloadFirst.draw else s.atDecision.draw) := by
    simp only [execPlacementDecision, hmay, h]
    rfl
  rw [hno] at hexec
  exact (s.atDecision.draw_once_or_twice _).imp fun n hn => hexec.trans (congrArg _ hn)

section Placed

variable {kid : Nat} {k : Kernel} {xs : List Nat} (hmay : s.mayDecide = true) (hranked : s.ranked = [(kid, k)])
  (heligible : k.eligible = true) (hfits : s.fits k.krec = some xs)

include hmay hranked heligible hfits

/-- The only candidate is eligible and fits: it is placed, and a preload may be tried after it. -/
theorem exec_placementDecision_placed : exec .placementDecision s =
    .next (if Config.freeBit s.nfree 0x500000 then (s.atDecisionC0.seat kid k xs).draw.preloadFirst.draw
      else (s.atDecisionC0.seat kid k xs).draw) := by
  have helig : s.ranked.filter (fun e => e.2.eligible) = [(kid, k)] := by
    rw [hranked]
    exact List.filter_cons_of_pos heligible
  have hfit : s.atDecisionC0.fitOrEvict k = some (s.atDecisionC0, xs) := by
    have hsame : s.atDecisionC0.fits k.krec = some xs := hfits
    rw [State.fitOrEvict, hsame]
  have hplace : s.atDecisionC0.placeFirst [(kid, k)] = s.atDecisionC0.seat kid k xs := by
    rw [State.placeFirst, hfit]
  have hreserved : s.atDecisionC0.reserved [(kid, k)] = false := by
    rw [State.reserved, hfit]
    exact Bool.and_false _
  change execPlacementDecision s = _
  simp only [execPlacementDecision, hmay, helig, Bool.not_true, Bool.false_eq_true, ↓reduceIte, List.isEmpty_cons]
  change Host.Outcome.next (if s.atDecisionC0.reserved [(kid, k)] = true then _ else
    if Config.freeBit s.nfree 0x500000 then (s.atDecisionC0.placeFirst [(kid, k)]).draw.preloadFirst.draw
    else (s.atDecisionC0.placeFirst [(kid, k)]).draw) = _
  rw [hreserved, hplace]
  rfl

variable (hno : ∀ y z, s.kernel y = some z → z.krec.preload = false) (hsaved : k.saved = false)

include hno hsaved

theorem makes_placementDecision_placed : ∃ n, Makes .placementDecision s { s.atDecisionC0.seat kid k xs with nfree := n } := by
  have hkernel : s.kernel kid = some k := State.kernel_of_mem_ranked (e := (kid, k)) (hranked ▸ List.mem_singleton_self _)
  have hexec := exec_placementDecision_placed hmay hranked heligible hfits
  rw [State.preloadFirst_of_no_preload] at hexec
  · exact (State.draw_once_or_twice _ _).imp fun n hn => hexec.trans (congrArg _ hn)
  · intro e he
    have hmem := State.kernel_of_mem_ranked he
    rw [State.draw_kernel] at hmem
    by_cases hkid : e.1 = kid
    · rw [hkid, State.kernel_seat_fresh _ _ _ hsaved] at hmem
      rw [← Option.some.inj hmem]
      exact hno kid k hkernel
    · rw [State.kernel_seat_fresh_of_ne _ _ hsaved hkid] at hmem
      exact hno _ _ hmem

/-- The only candidate is placed as 03 R54 to R58 say. -/
theorem ends_placementDecision_placed : Ends .placementDecision s fun t =>
    t.kernel kid = some { k with st := .placed, ctxs := xs, cycles := 0 } ∧ t.sys = { s.atDecision.sys with cstate := 0 } ∧
      kid ∉ (t.queue k.q).cands ∧
      ∀ y, xs = [y] → s.hasRetired kid k 0 = false → (t.ctx y).occ = some ⟨kid, 0, .prepared⟩ ∧ (t.ctx y).s[0] = 0 ∧
        (t.ctx y).pc = BitVec.ofNat 48 ((k.krec.codeBase.toNat + k.krec.entry.toNat) % 2 ^ 64) := by
  obtain ⟨n, hmakes⟩ := makes_placementDecision_placed hmay hranked heligible hfits hno hsaved
  refine ⟨_, hmakes, State.kernel_seat_fresh _ _ _ hsaved, State.sys_seat_fresh _ _ _ hsaved, State.not_mem_cands_seat _ _ _ _, ?_⟩
  rintro y rfl hretired
  have hctx : State.ctx { s.atDecisionC0.seat kid k [y] with nfree := n } y = s.atDecisionC0.freshCtx kid k.krec 0 y .prepared :=
    State.ctx_seat_single s.atDecisionC0 hsaved hretired
  rw [hctx, ← KRec.at_entry]
  refine ⟨rfl, ?_, rfl⟩
  simp [State.freshCtx, Ctx.fresh]

end Placed

/-! ## Starts -/

section Start

variable {x : Nat} {oc : Occ} {k : Kernel} (h : Holds s x oc k)

include h

theorem makes_instanceStart_idle (hidle : oc.st ≠ .prepared ∨ k.st ≠ .placed) : Makes (.instanceStart x) s s := by
  have hkernel := h.kernelOf
  obtain ⟨hocc, -⟩ := h
  change execInstanceStart x s = _
  simp only [execInstanceStart, hocc, hkernel]
  rw [if_pos hidle]

theorem makes_instanceStart_fresh (hst : oc.st = .prepared) (hplaced : k.st = .placed) (hctx : k.ctxs.getD oc.n x = x)
    (hlow : (k.krec.codeBase.toNat + k.krec.entry.toNat) % 2 ^ 64 < 2 ^ 48) :
    Makes (.instanceStart x) s ((s.upCore (coreOf x) fun c => { c with icache := [], ifill := [], l1 := [] }).upCtx x fun c =>
      { c with occ := some { oc with st := .running } }) := by
  have hkernel := h.kernelOf
  obtain ⟨hocc, -⟩ := h
  have hgo : ¬(oc.st ≠ .prepared ∨ k.st ≠ .placed) := by simp [hst, hplaced]
  change execInstanceStart x s = _
  simp only [execInstanceStart, hocc, hkernel]
  rw [if_neg hgo, if_pos hctx, State.startFresh_of_low hlow]
  refine congrArg Host.Outcome.next ?_
  simp only [State.upCtx, State.upCore_ctx, hocc]
  rfl

end Start

section Preload

variable {kid : Nat} {k : Kernel} (hk : s.kernel kid = some k)

include hk

theorem makes_preloadStart_idle (h : k.st ≠ .preloaded ∨ k.eligible = false ∨ (∃ y ∈ k.deferred, s.kernel y ≠ none) ∨
    (s.queue k.q).cands.head? ≠ some kid) : Makes (.preloadStart kid) s s := by
  change execPreloadStart kid s = _
  simp only [execPreloadStart, hk]
  refine congrArg Host.Outcome.next (if_pos ?_)
  simpa [Option.isSome_iff_ne_none] using h

theorem ends_preloadStart (hst : k.st = .preloaded) (heligible : k.eligible = true) (hdeferred : ∀ y ∈ k.deferred, s.kernel y = none)
    (hhead : (s.queue k.q).cands.head? = some kid) (hlow : (k.krec.codeBase.toNat + k.krec.entry.toNat) % 2 ^ 64 < 2 ^ 48) :
    Ends (.preloadStart kid) s fun t =>
      t.kernel kid = some { k with st := .placed } ∧ kid ∉ (t.queue k.q).cands ∧ (∀ y ∈ k.ctxs, (t.core (coreOf y)).l1 = []) ∧
        ∀ y ∈ k.ctxs, ∀ oc, (s.ctx y).occ = some oc → (t.ctx y).occ = some { oc with st := .running } := by
  have hgo : ¬(k.st ≠ .preloaded ∨ (!k.eligible) = true ∨ (k.deferred.any fun x => (s.kernel x).isSome) = true ∨
      (s.queue k.q).cands.head? ≠ some kid) := by
    simpa [hst, heligible, hhead] using hdeferred
  have hexec : exec (.preloadStart kid) s =
      .next (State.startAll k.krec k.ctxs ((s.setKernel kid (some { k with st := .placed })).uncand k kid)) := by
    change execPreloadStart kid s = _
    simp only [execPreloadStart, hk]
    rw [if_neg hgo]
    rfl
  obtain ⟨cs, ks, hrest⟩ := State.startAll_rest hlow k.ctxs ((s.setKernel kid (some { k with st := .placed })).uncand k kid)
  refine ⟨_, hexec, ?_, ?_, fun y hy => State.l1_startAll hlow hy _,
    fun y hy oc hocc => State.occ_startAll hlow _ _ (.inl ⟨hy, hocc⟩)⟩
  · rw [hrest]
    exact State.kernel_setKernel_self _ _ _
  · rw [hrest]
    exact State.not_mem_cands_uncand (s.setKernel kid (some { k with st := .placed })) k kid

end Preload

end Sys2Proof.Claims
end

section
/-! SUPPORT. How the dispatcher ends the runs of kernels: overruns, requeues, kills, reruns and retirement, and the statement about the
dispatcher (03 R60, R61, R63; 06 R131; 16 R360; 17 R379, R380). -/

namespace Sys2Proof.Machine

/-! ## Changes to the contexts of a list -/

theorem State.upCtxs_rest (s : State) (f : Ctx → Ctx) (xs : List Nat) : ∃ cs, s.upCtxs f xs = { s with ctxs := cs } := by
  induction xs generalizing s with
  | nil => exact ⟨_, rfl⟩
  | cons x xs ih =>
    obtain ⟨cs, heq⟩ := ih (s.upCtx x f)
    exact ⟨cs, heq⟩

@[simp] theorem State.upCtxs_kernel (s : State) (f : Ctx → Ctx) (xs : List Nat) (i : Nat) : (s.upCtxs f xs).kernel i = s.kernel i := by
  obtain ⟨cs, heq⟩ := s.upCtxs_rest f xs
  rw [heq]
  rfl

@[simp] theorem State.upCtxs_queue (s : State) (f : Ctx → Ctx) (xs : List Nat) (i : Nat) : (s.upCtxs f xs).queue i = s.queue i := by
  obtain ⟨cs, heq⟩ := s.upCtxs_rest f xs
  rw [heq]
  rfl

@[simp] theorem State.upCtxs_sys (s : State) (f : Ctx → Ctx) (xs : List Nat) : (s.upCtxs f xs).sys = s.sys := by
  obtain ⟨cs, heq⟩ := s.upCtxs_rest f xs
  rw [heq]

theorem State.ctx_upCtxs_of_not_mem (s : State) (f : Ctx → Ctx) {xs : List Nat} {y : Nat} (h : y ∉ xs) :
    (s.upCtxs f xs).ctx y = s.ctx y := by
  induction xs generalizing s with
  | nil => rfl
  | cons x xs ih =>
    obtain ⟨hne, hmem⟩ := List.ne_and_not_mem_of_not_mem_cons h
    exact (ih (s.upCtx x f) hmem).trans (s.ctx_upCtx_of_ne f hne)

theorem State.upCtxs_eq_foldl (s : State) (f : Ctx → Ctx) (xs : List Nat) : s.upCtxs f xs = xs.foldl (fun s x => s.upCtx x f) s := by
  induction xs generalizing s with
  | nil => rfl
  | cons x xs ih => exact ih _

/-- What the change brings about holds of every context of the list. -/
theorem State.ctx_upCtxs_of_mem {f : Ctx → Ctx} {P : Ctx → Prop} (hf : ∀ c, P (f c)) (s : State) {xs : List Nat} {y : Nat} (hy : y ∈ xs) :
    P ((s.upCtxs f xs).ctx y) := by
  rw [State.upCtxs_eq_foldl]
  refine foldl_of_mem (P := fun u : State => P (u.ctx y)) (fun u => ?_) (fun u x hu => ?_) xs s (.inl hy)
  · rw [State.ctx_upCtx_self]
    exact hf _
  by_cases hyx : y = x
  · subst hyx
    rw [State.ctx_upCtx_self]
    exact hf _
  · rw [State.ctx_upCtx_of_ne _ _ hyx]
    exact hu

theorem State.dropCopies_rest (s : State) (kid : Nat) (xs : List Nat) : ∃ ks, s.dropCopies kid xs = { s with cores := ks } := by
  induction xs generalizing s with
  | nil => exact ⟨_, rfl⟩
  | cons x xs ih =>
    obtain ⟨ks, heq⟩ := ih (s.upCore (coreOf x) fun k => { k with copies := k.copies.filter fun c => c.kid != kid })
    exact ⟨ks, heq⟩

@[simp] theorem State.dropCopies_kernel (s : State) (kid : Nat) (xs : List Nat) (i : Nat) :
    (s.dropCopies kid xs).kernel i = s.kernel i := by
  obtain ⟨ks, heq⟩ := s.dropCopies_rest kid xs
  rw [heq]
  rfl

@[simp] theorem State.dropCopies_ctx (s : State) (kid : Nat) (xs : List Nat) (i : Nat) : (s.dropCopies kid xs).ctx i = s.ctx i := by
  obtain ⟨ks, heq⟩ := s.dropCopies_rest kid xs
  rw [heq]
  rfl

theorem State.not_mem_ownCtxs {s : State} {kid y : Nat} (k : Kernel) (h : ∀ oc, (s.ctx y).occ = some oc → oc.kid ≠ kid) :
    y ∉ s.ownCtxs kid k := by
  intro hmem
  obtain ⟨oc, hocc, hkid⟩ := (Option.any_eq_true _ _).1 (List.mem_filter.1 hmem).2
  exact h oc hocc (beq_iff_eq.1 hkid)

/-! ## Kernels -/

theorem State.kernel_upKernel_of_ne (s : State) {y kid : Nat} (f : Kernel → Kernel) (h : kid ≠ y) :
    (s.upKernel y f).kernel kid = s.kernel kid := by
  unfold State.upKernel
  split
  · exact s.kernel_setKernel_of_ne _ h
  · rfl

theorem State.upKernel_rest (s : State) (y : Nat) (f : Kernel → Kernel) : ∃ ks, s.upKernel y f = { s with kernels := ks } := by
  unfold State.upKernel
  split
  · exact ⟨_, rfl⟩
  · exact ⟨_, rfl⟩

theorem State.upKernels_rest (s : State) (f : Kernel → Kernel) (l : List Nat) :
    ∃ ks, l.foldl (fun s y => s.upKernel y f) s = { s with kernels := ks } := by
  refine List.foldlRecOn (motive := fun u : State => ∃ ks, u = { s with kernels := ks }) _ _ ⟨_, rfl⟩ fun u hu _ _ => ?_
  obtain ⟨ks, rfl⟩ := hu
  exact State.upKernel_rest _ _ f

theorem State.kernel_upKernels_of_not_mem (s : State) (f : Kernel → Kernel) {l : List Nat} {kid : Nat} (h : kid ∉ l) :
    (l.foldl (fun s y => s.upKernel y f) s).kernel kid = s.kernel kid :=
  List.foldlRecOn (motive := fun u : State => u.kernel kid = s.kernel kid) _ _ rfl fun u hu _ hy =>
    (u.kernel_upKernel_of_ne f (ne_of_mem_of_not_mem hy h).symm).trans hu

/-- Only preloads stand behind a kernel. -/
theorem State.not_mem_preloadsBehind {s : State} {kid : Nat} {k : Kernel} (hk : s.kernel kid = some k) (h : k.st ≠ .preloaded)
    (x : Kernel) : kid ∉ s.preloadsBehind x := by
  intro hmem
  have hany := (List.mem_filter.1 hmem).2
  rw [hk] at hany
  exact h (beq_iff_eq.1 (Bool.and_eq_true_iff.1 hany).1)

theorem State.tally_eq (s : State) (k : Kernel) (xs : List Nat) : ∃ a c, s.tally k xs = { k with arith := a, cycles := c } := by
  refine List.foldlRecOn (motive := fun u : Kernel => ∃ a c, u = { k with arith := a, cycles := c }) _ _ ⟨_, _, rfl⟩ fun u hu x _ => ?_
  obtain ⟨a, c, rfl⟩ := hu
  exact ⟨_, _, rfl⟩

theorem State.mem_cands_recand (s : State) (q kid : Nat) : kid ∈ ((s.recand q kid).queue q).cands := by
  rw [State.recand, State.queue_setQueue_self]
  simp

/-- Some context of kernel `k` that runs or has halted has a count that reaches BUDGET (03 R60). -/
def State.countReached (s : State) (kid : Nat) (k : Kernel) : Bool :=
  k.ctxs.any fun x => (s.ctx x).occ.any fun o =>
    o.kid == kid && (o.st == .running || o.st == .halted) && decide (k.krec.budget.toNat ≤ (s.ctx x).cycle.toNat)

/-! ## A kill and a requeue begin -/

/-- A kill that begins marks the kernel, and touches no context of another (16 R360). -/
theorem State.kill_begins {s : State} {kid : Nat} {k : Kernel} (hk : s.kernel kid = some k) (h : k.st ≠ .killing) (e : EndInfo) :
    (s.kill kid e).kernel kid = some { k with st := .killing, fin := some e, finAt := s.sys.cyc } ∧
      ∀ y, (∀ oc, (s.ctx y).occ = some oc → oc.kid ≠ kid) → (s.kill kid e).ctx y = s.ctx y := by
  simp only [State.kill, hk, h, ↓reduceIte, State.dropCopies_kernel, State.dropCopies_ctx, State.upCtxs_kernel,
    State.kernel_setKernel_self, true_and]
  exact fun y hy => State.ctx_upCtxs_of_not_mem _ _ (State.not_mem_ownCtxs k hy)

/-- A requeue that begins marks the kernel and its queue, and touches no context of another (03 R60). -/
theorem State.requeue_begins (s : State) (kid : Nat) (k : Kernel) (overrun : Bool) :
    (s.beginRequeue kid k overrun).kernel kid = some { k with st := .requeueing overrun } ∧
      ((s.beginRequeue kid k overrun).queue k.q).savedKid = some kid ∧
      ∀ y, (∀ oc, (s.ctx y).occ = some oc → oc.kid ≠ kid) → (s.beginRequeue kid k overrun).ctx y = s.ctx y := by
  simp only [State.beginRequeue, State.upCtxs_kernel, State.upCtxs_queue, State.setQueue_kernel, State.kernel_setKernel_self,
    State.queue_setQueue_self, true_and]
  exact fun y hy => State.ctx_upCtxs_of_not_mem _ _ (State.not_mem_ownCtxs k hy)

/-! ## What a kernel's end frees -/

theorem State.core_freeCtx (s : State) (x k : Nat) : (s.freeCtx x).core k = s.core k := by
  unfold State.freeCtx
  dsimp only
  split <;> rfl

theorem State.ctxs_freeCtx (s : State) (x : Nat) : (s.freeCtx x).ctxs = s.ctxs.del x := by
  unfold State.freeCtx
  dsimp only
  split <;> rfl

theorem State.ctx_freeCtx_self (s : State) (x : Nat) : (s.freeCtx x).ctx x = Ctx.init := by
  rw [State.ctx, State.ctxs_freeCtx, SMap.get_del_self]

theorem State.ctx_freeCtx_of_ne (s : State) {x y : Nat} (h : y ≠ x) : (s.freeCtx x).ctx y = s.ctx y := by
  rw [State.ctx, State.ctxs_freeCtx, SMap.get_del_of_ne _ _ h]
  rfl

/-- Every context of the list is free, and one that was free stays so. -/
theorem State.occ_freeCtxs (s : State) (xs : List Nat) {y : Nat} (hy : y ∈ xs ∨ (s.ctx y).occ = none) :
    ((xs.foldl State.freeCtx s).ctx y).occ = none := by
  have hself : ∀ u : State, ((u.freeCtx y).ctx y).occ = none := fun u => by
    rw [State.ctx_freeCtx_self]
    rfl
  refine foldl_of_mem (P := fun u : State => (u.ctx y).occ = none) hself (fun u x hu => ?_) xs s hy
  by_cases hyx : y = x
  · subst hyx
    exact hself u
  · rw [State.ctx_freeCtx_of_ne _ hyx]
    exact hu

theorem State.upKernel_ctx (s : State) (y : Nat) (f : Kernel → Kernel) (x : Nat) : (s.upKernel y f).ctx x = s.ctx x := by
  obtain ⟨ks, heq⟩ := s.upKernel_rest y f
  rw [heq]
  rfl

/-- Preloads that are discarded take no context (03 R63). -/
theorem State.occ_dropBehind (s : State) (k : Kernel) (kid : Nat) {y : Nat} (hy : (s.ctx y).occ = none) :
    ((s.dropBehind k kid).ctx y).occ = none := by
  refine List.foldlRecOn (motive := fun u : State => (u.ctx y).occ = none) _ _ hy fun u hu z _ => ?_
  rw [State.upKernel_ctx, State.unpreload, State.upKernel_ctx]
  exact u.occ_freeCtxs _ (.inr hu)

theorem State.ctx_endKernel (s : State) (kid x : Nat) : (s.endKernel kid).ctx x = s.ctx x := by
  rw [State.ctx, (s.abroad_endKernel kid).ctxs]
  rfl

theorem State.core_endKernel (s : State) (kid k : Nat) : (s.endKernel kid).core k = s.core k := by
  rw [State.core, (s.abroad_endKernel kid).cores]
  rfl

theorem State.kernel_forget (s : State) (k : Kernel) (kid : Nat) : (s.forget k kid).kernel kid = none := State.kernel_setKernel_self _ _ _

theorem State.ctx_forget (s : State) (k : Kernel) (kid x : Nat) : (s.forget k kid).ctx x = s.ctx x := rfl

theorem State.core_forget (s : State) (k : Kernel) (kid c : Nat) : (s.forget k kid).core c = s.core c := rfl

/-- The contexts `xs` of kernel `k` that has halted are stripped and freed, the cores go that held saved instances in the model, and the
dispatcher holds the kernel no more (16 R360). -/
def State.bury (s : State) (k : Kernel) (kid : Nat) (xs : List Nat) : State :=
  let u := xs.foldl State.freeCtx (xs.foldl (fun s x => s.strip k.krec kid x) s)
  (State.endKernel { u with cores := u.cores.filter fun e => decide (e.1 < 384) || !(xs.any fun x => coreOf x == e.1) } kid).forget k kid

theorem State.occ_bury (s : State) (k : Kernel) (kid : Nat) {xs : List Nat} {y : Nat} (hy : y ∈ xs) :
    ((s.bury k kid xs).ctx y).occ = none := by
  rw [State.bury, State.ctx_forget, State.ctx_endKernel]
  exact State.occ_freeCtxs _ xs (.inl hy)

theorem State.kernel_bury (s : State) (k : Kernel) (kid : Nat) (xs : List Nat) : (s.bury k kid xs).kernel kid = none :=
  State.kernel_forget _ _ _

/-- The candidate that a rerun makes of kernel `k` (03 R61). -/
def Kernel.rerunAt (k : Kernel) (cyc : Nat) : Kernel :=
  { k with
    st := .cand, saved := false, born := cyc, again := true, reruns := k.reruns + 1, ctxs := [], gone := [], fin := none
    arith := 0, cycles := 0 }

/-- Kernel `k`, buried in `s`, runs again (03 R61). -/
def State.rerun (s : State) (k : Kernel) (kid : Nat) : State :=
  ((s.dropBehind k kid).setKernel kid (some (k.rerunAt (s.dropBehind k kid).sys.cyc))).recand k.q kid

theorem State.occ_rerun (s : State) (k : Kernel) (kid : Nat) {y : Nat} (hy : (s.ctx y).occ = none) :
    ((s.rerun k kid).ctx y).occ = none :=
  s.occ_dropBehind k kid hy

theorem State.kernel_rerun (s : State) (k : Kernel) (kid : Nat) :
    (s.rerun k kid).kernel kid = some (k.rerunAt (s.dropBehind k kid).sys.cyc) := State.kernel_setKernel_self _ _ _

theorem State.mem_cands_rerun (s : State) (k : Kernel) (kid : Nat) : kid ∈ ((s.rerun k kid).queue k.q).cands :=
  State.mem_cands_recand _ _ _

/-! ## Requeues -/

/-- The contexts of a kernel's saved instances. -/
def State.savedOf (s : State) (kid : Nat) : List Nat := (s.heldBy kid).filter fun x => (s.ctx x).occ.any fun o => o.st == .saved

/-- The counts of the saved instances are reset, and the overrun is reported (03 R60). -/
def State.reportOverrun (s : State) (k : Kernel) (kid : Nat) : State :=
  (s.upCtxs (fun c => { c with cycle := 0 }) (s.savedOf kid)).finishKernel k (EndInfo.plain .overrun) true

/-- Kernel `k`, saved in `s`, is a candidate again (03 R60). -/
def State.requeue (s : State) (k : Kernel) (kid : Nat) : State :=
  ((s.reportOverrun k kid).setKernel kid
    (some { k with st := .cand, saved := true, born := (s.reportOverrun k kid).sys.cyc, again := true, fin := none })).recand k.q kid

theorem State.reports_reportOverrun (s : State) (k : Kernel) (kid : Nat) :
    (s.upCtxs (fun c => { c with cycle := 0 }) (s.savedOf kid)).Reports (s.reportOverrun k kid) := State.reports_finishKernel _ _ _ _

theorem State.kernel_requeue (s : State) (k : Kernel) (kid : Nat) : (s.requeue k kid).kernel kid =
    some { k with st := .cand, saved := true, born := s.sys.cyc, again := true, fin := none } := by
  have hcyc : (s.reportOverrun k kid).sys.cyc = s.sys.cyc := by rw [(s.reports_reportOverrun k kid).cyc, State.upCtxs_sys]
  rw [← hcyc]
  exact State.kernel_setKernel_self _ _ _

theorem State.mem_cands_requeue (s : State) (k : Kernel) (kid : Nat) : kid ∈ ((s.requeue k kid).queue k.q).cands :=
  State.mem_cands_recand _ _ _

theorem State.cycle_requeue (s : State) (k : Kernel) (kid : Nat) {y : Nat} (hy : y ∈ s.savedOf kid) : ((s.requeue k kid).ctx y).cycle = 0 :=
  (congrArg Ctx.cycle ((s.reports_reportOverrun k kid).ctx y)).trans
    (State.ctx_upCtxs_of_mem (P := fun c => c.cycle = 0) (fun _ => rfl) s hy)

/-! ## Retirement -/

/-- The message brings a fault record to a handle that record `r` gives at core `k` (06 R132; 12 R270). -/
def PhMsg.faultFor (m : PhMsg) (k : Nat) (r : KRec) : Bool :=
  match m with
  | .anon _ _ (some _) c (some h) => c == k && decide (r.phlo ≤ h.val) && decide (h.val < r.phlo + r.phcnt)
  | _ => false

theorem PhMsg.faultFor_iff {m : PhMsg} {k : Nat} {r : KRec} : m.faultFor k r = true ↔
    ∃ ob n f h, m = .anon ob n (some f) k (some h) ∧ r.phlo ≤ h.val ∧ h.val < r.phlo + r.phcnt := by
  constructor
  · intro hm
    unfold PhMsg.faultFor at hm
    split at hm
    next ob n f c h =>
      simp only [Bool.and_eq_true, beq_iff_eq, decide_eq_true_eq] at hm
      obtain ⟨⟨rfl, hlo⟩, hhi⟩ := hm
      exact ⟨ob, n, f, h, rfl, hlo, hhi⟩
    · cases hm
  · rintro ⟨ob, n, f, h, rfl, hlo, hhi⟩
    simp [PhMsg.faultFor, hlo, hhi]

/-- Work in context `x` that outlasts its HALT is still to be performed (06 R131). -/
def State.trailing (s : State) (x : Nat) (k : Kernel) : Bool :=
  ((s.core (coreOf x)).copies.any fun c => c.ctx == x) || !(s.ctx x).mxq.isEmpty || !(s.runners x).isEmpty || !(s.ctx x).sigs.isEmpty ||
    s.transit.any (·.faultFor (coreOf x) k.krec)


theorem State.claim_upCore {f : Core → Core} (hf : ∀ q, (f q).claim = q.claim) (s : State) (k c : Nat) :
    ((s.upCore k f).core c).claim = (s.core c).claim := by
  by_cases hc : c = k
  · subst hc
    rw [State.core_upCore_self, hf]
  · rw [State.core_upCore_of_ne _ _ hc]

theorem State.claim_releaseClaim (s : State) (k : Nat) (check : Bool) : ((s.releaseClaim k check).core k).claim = none := by
  have hclear : ((s.upCore k fun c => { c.clearTile with claim := none }).core k).claim = none := by rw [State.core_upCore_self]
  have hpair : ∀ u : State, ((if check then u.upCore (k + 1) Core.clearTile else u).core k).claim = (u.core k).claim := by
    intro u
    split
    · exact State.claim_upCore (f := Core.clearTile) (fun _ => rfl) _ _ _
    · rfl
  refine (hpair _).trans ?_
  split <;> exact hclear

theorem State.claim_upHandle (s : State) (k : Nat) (h : Fin 96) (f : Handle → Handle) (c : Nat) :
    ((s.upHandle k h f).core c).claim = (s.core c).claim :=
  State.claim_upCore (f := fun q => { q with handles := q.handles.set h (f q.handles[h]) }) (fun _ => rfl) s k c

theorem State.core_post (s : State) (m : PhMsg) (c : Nat) : (s.post m).core c = s.core c := rfl

theorem State.claim_dropHandles (s : State) (k lo n c : Nat) : ((s.dropHandles k lo n).core c).claim = (s.core c).claim := by
  refine List.foldlRecOn (motive := fun u : State => (u.core c).claim = (s.core c).claim) _ _ rfl fun u hu h _ => ?_
  split
  next o _ =>
    refine Eq.trans ?_ hu
    rw [State.dropReg, if_pos rfl]
    exact iteInduction (motive := fun v : State => (v.core c).claim = (u.core c).claim)
      (fun _ => (congrArg Core.claim (State.core_post _ _ _)).trans (u.claim_upHandle _ _ _ c))
      fun _ => u.claim_upHandle _ _ _ c
  · exact hu

/-- Context `x`, whose trailing work has been performed, becomes free, and its claim and its registrations go (06 R131). -/
def State.vacate (s : State) (r : KRec) (x : Nat) : State :=
  let s := if (s.core (coreOf x)).claim = some x then s.releaseClaim (coreOf x) ((s.ctx x).gmode == 2) else s
  ((s.dropHandles (coreOf x) r.phlo r.phcnt).freeCtx x).upCtx x (·.leaveTstat (s.ctx x))

theorem State.occ_vacate (s : State) (r : KRec) (x : Nat) : ((s.vacate r x).ctx x).occ = none := by
  rw [State.vacate, State.ctx_upCtx_self, State.ctx_freeCtx_self]
  rfl

theorem State.claim_vacate (s : State) (r : KRec) (x : Nat) : ((s.vacate r x).core (coreOf x)).claim ≠ some x := by
  rw [State.vacate, State.upCtx_core, State.core_freeCtx, State.claim_dropHandles]
  split_ifs with h
  · rw [State.claim_releaseClaim]
    exact Option.some_ne_none x |>.symm
  · exact h

end Sys2Proof.Machine

namespace Sys2Proof.Claims

open Sys2Proof.Machine

variable {s : State}

/-! ## BUDGET_OVERRUN -/

section Overrun

/-- A count of kernel `k` has reached BUDGET (03 R60). -/
def Spent (s : State) (kid : Nat) (k : Kernel) : Prop :=
  k.krec.budget ≠ 0 ∧ ∃ y ∈ k.ctxs, ∃ oc, (s.ctx y).occ = some oc ∧ oc.kid = kid ∧ (oc.st = .running ∨ oc.st = .halted) ∧
    k.krec.budget.toNat ≤ (s.ctx y).cycle.toNat

theorem spent_iff {kid : Nat} {k : Kernel} :
    Spent s kid k ↔ k.krec.budget ≠ 0 ∧ s.countReached kid k = true := by
  simp [Spent, State.countReached, Option.any_eq_true, and_assoc]

/-- The kernel with one more overrun. -/
def overran (k : Kernel) : Kernel := { k with ovrcnt := min 255 (k.ovrcnt + 1) }

variable {kid : Nat} {k : Kernel} (hk : s.kernel kid = some k)

include hk

theorem exec_budgetOverrun : exec (.budgetOverrun kid) s = .next
    (if k.st ≠ .placed ∨ k.krec.budget = 0 ∨ (!s.countReached kid k) = true then s
    else if k.krec.ovr = true ∧ s.canSave (overran k) kid = true then
      (s.preloadsBehind (overran k)).foldl (fun s y => s.upKernel y fun v => { v with deferred := kid :: v.deferred })
        (s.beginRequeue kid (overran k) true)
    else (s.setKernel kid (some (overran k))).kill kid (EndInfo.plain .overrun)) := by
  change execBudgetOverrun kid s = _
  simp only [execBudgetOverrun, hk]
  rfl

theorem makes_budgetOverrun_idle (h : k.st ≠ .placed ∨ ¬ Spent s kid k) : Makes (.budgetOverrun kid) s s := by
  refine (exec_budgetOverrun hk).trans (congrArg _ (if_pos (h.imp_right fun hno => ?_)))
  rw [spent_iff, not_and_or, not_not] at hno
  exact hno.imp_right fun hcount => by rw [Bool.eq_false_iff.2 hcount]; rfl

/-- A placed kernel that has overrun is requeued, or killed where it cannot be saved (03 R60). -/
theorem exec_budgetOverrun_spent (hst : k.st = .placed) (hspent : Spent s kid k) : exec (.budgetOverrun kid) s = .next
    (if k.krec.ovr = true ∧ s.canSave (overran k) kid = true then
      (s.preloadsBehind (overran k)).foldl (fun s y => s.upKernel y fun v => { v with deferred := kid :: v.deferred })
        (s.beginRequeue kid (overran k) true)
    else (s.setKernel kid (some (overran k))).kill kid (EndInfo.plain .overrun)) := by
  obtain ⟨hbudget, hcount⟩ := spent_iff.1 hspent
  exact (exec_budgetOverrun hk).trans (congrArg _ (if_neg (not_or.2 ⟨not_not.2 hst, not_or.2 ⟨hbudget, by simp [hcount]⟩⟩)))

variable (hst : k.st = .placed) (hspent : Spent s kid k)

include hst hspent

theorem ends_budgetOverrun_requeued (hovr : k.krec.ovr = true) (hsave : (s.queue k.q).save ≠ 0) (hsaved : (s.queue k.q).savedKid = none) :
    Ends (.budgetOverrun kid) s fun t =>
      t.kernel kid = some { k with ovrcnt := min 255 (k.ovrcnt + 1), st := .requeueing true } ∧ (t.queue k.q).savedKid = some kid ∧
        ∀ y, (∀ oc, (s.ctx y).occ = some oc → oc.kid ≠ kid) → t.ctx y = s.ctx y := by
  have hcan : s.canSave (overran k) kid = true := by simpa [State.canSave, overran, hsaved] using hsave
  obtain ⟨hkernel, hqueue, hctx⟩ := s.requeue_begins kid (overran k) true
  obtain ⟨ks, hrest⟩ := (s.beginRequeue kid (overran k) true).upKernels_rest (fun v => { v with deferred := kid :: v.deferred })
    (s.preloadsBehind (overran k))
  have hbehind : kid ∉ s.preloadsBehind (overran k) := State.not_mem_preloadsBehind hk (by rw [hst]; decide) _
  refine ⟨_, (exec_budgetOverrun_spent hk hst hspent).trans (congrArg _ (if_pos ⟨hovr, hcan⟩)),
    (State.kernel_upKernels_of_not_mem _ _ hbehind).trans hkernel, ?_, fun y hy => ?_⟩
  · rw [hrest]
    exact hqueue
  · rw [hrest]
    exact hctx y hy

theorem ends_budgetOverrun_killed (h : k.krec.ovr = false ∨ (s.queue k.q).save = 0) : Ends (.budgetOverrun kid) s fun t =>
    (∃ k', t.kernel kid = some k' ∧ k'.st = .killing ∧ k'.fin = some (EndInfo.plain .overrun) ∧ k'.ovrcnt = min 255 (k.ovrcnt + 1)) ∧
      ∀ y, (∀ oc, (s.ctx y).occ = some oc → oc.kid ≠ kid) → t.ctx y = s.ctx y := by
  have hcannot : ¬(k.krec.ovr = true ∧ s.canSave (overran k) kid = true) := by
    rintro ⟨hovr, hcan⟩
    obtain hno | hno := h
    · rw [hno] at hovr
      cases hovr
    · simp [State.canSave, overran, hno] at hcan
  have hlive : (overran k).st ≠ .killing := by rw [overran, hst]; decide
  obtain ⟨hkernel, hctx⟩ := State.kill_begins (s.kernel_setKernel_self kid (some (overran k))) hlive (EndInfo.plain .overrun)
  exact ⟨_, (exec_budgetOverrun_spent hk hst hspent).trans (congrArg _ (if_neg hcannot)), ⟨_, hkernel, rfl, rfl, rfl⟩, hctx⟩

end Overrun

/-! ## REQUEUE_SETTLE -/

/-- Context `y` is occupied, and its occupant stands so. -/
def Stands (s : State) (y : Nat) (st : OccSt) : Prop := ∃ oc, (s.ctx y).occ = some oc ∧ oc.st = st

theorem mem_savedOf {kid y : Nat} : y ∈ s.savedOf kid ↔ y ∈ s.heldBy kid ∧ Stands s y .saved := by
  simp [State.savedOf, Stands, List.mem_filter, Option.any_eq_true]

section Requeue

variable {kid : Nat} {k : Kernel} (hk : s.kernel kid = some k)

include hk

theorem makes_requeueSettle_idle (h : ∀ b, k.st ≠ .requeueing b) : Makes (.requeueSettle kid) s s := by
  change execRequeueSettle kid s = _
  cases hst : k.st with
  | requeueing b => exact absurd hst (h b)
  | cand | preloaded | placed | killing => simp only [execRequeueSettle, hk, hst]

/-- Nothing is left to be saved: the kernel is requeued. -/
theorem exec_requeueSettle {b : Bool} (hst : k.st = .requeueing b) (hsaved : ∃ y ∈ s.heldBy kid, Stands s y .saved)
    (hall : ∀ y ∈ s.heldBy kid, Stands s y .saved ∨ Stands s y .retired) :
    ∃ xs, exec (.requeueSettle kid) s = .next (s.requeue (s.tally k xs) kid) := by
  obtain ⟨y, hy, hyst⟩ := hsaved
  have hsome : (s.savedOf kid).isEmpty = false := List.isEmpty_eq_false_iff_exists_mem.2 ⟨y, mem_savedOf.2 ⟨hy, hyst⟩⟩
  have hrest : ((s.heldBy kid).filter fun x => (s.ctx x).occ.any fun o => o.st != .saved && o.st != .retired) = [] := by
    refine List.filter_eq_nil_iff.2 fun z hz => ?_
    obtain ⟨oc, hocc, hoc⟩ | ⟨oc, hocc, hoc⟩ := hall z hz <;> simp [hocc, hoc]
  refine ⟨(s.heldBy kid).filter fun x => (s.ctx x).occ.any fun o => o.st == .saved || o.st == .retired, ?_⟩
  change execRequeueSettle kid s = _
  simp only [execRequeueSettle, hk, hst, hrest]
  refine congrArg _ ((if_neg ?_).trans rfl)
  rw [State.savedOf] at hsome
  simp [hsome]

/-- A kernel whose instances have all been saved or have retired is a candidate again (03 R60). -/
theorem ends_requeueSettle {b : Bool} (hst : k.st = .requeueing b) (hsaved : ∃ y ∈ s.heldBy kid, Stands s y .saved)
    (hall : ∀ y ∈ s.heldBy kid, Stands s y .saved ∨ Stands s y .retired) : Ends (.requeueSettle kid) s fun t =>
      (∃ k', t.kernel kid = some k' ∧ k'.st = .cand ∧ k'.saved = true ∧ k'.again = true ∧ k'.born = s.sys.cyc ∧ k'.krec = k.krec) ∧
        kid ∈ (t.queue k.q).cands ∧ ∀ y ∈ s.heldBy kid, Stands s y .saved → (t.ctx y).cycle = 0 := by
  obtain ⟨xs, hexec⟩ := exec_requeueSettle hk hst hsaved hall
  obtain ⟨a, c, htally⟩ := s.tally_eq k xs
  rw [htally] at hexec
  exact ⟨_, hexec, ⟨_, State.kernel_requeue _ _ _, rfl, rfl, rfl, rfl, rfl⟩, State.mem_cands_requeue _ _ _,
    fun y hy hyst => State.cycle_requeue _ _ _ (mem_savedOf.2 ⟨hy, hyst⟩)⟩

end Requeue

/-! ## KILL_SETTLE -/

section Kill

variable {kid : Nat} {k : Kernel} (hk : s.kernel kid = some k)

include hk

theorem makes_killSettle_idle (h : k.st ≠ .killing ∨ (∃ y ∈ s.heldBy kid, (s.ctx y).running = true)) : Makes (.killSettle kid) s s := by
  change execKillSettle kid s = _
  simp only [execKillSettle, hk]
  exact congrArg Host.Outcome.next (if_pos (h.imp_right List.any_eq_true.2))

variable (hst : k.st = .killing) (hhalted : ∀ y ∈ s.heldBy kid, (s.ctx y).running = false)

include hst hhalted

theorem exec_killSettle : ∃ k', (∃ a c, k' = { k with arith := a, cycles := c }) ∧ exec (.killSettle kid) s = .next
    (if k'.reruns? (k.fin.getD (EndInfo.plain .killed)) = true then ((s.bury k' kid (s.heldBy kid)).rerun k' kid).draw
    else ((s.bury k' kid (s.heldBy kid)).finishKernel k' (k.fin.getD (EndInfo.plain .killed)) false).draw) := by
  have hgo : ¬(k.st ≠ .killing ∨ ((s.heldBy kid).any fun x => (s.ctx x).running) = true) := by simpa [hst] using hhalted
  refine ⟨s.tally k (s.heldBy kid), s.tally_eq k _, ?_⟩
  change execKillSettle kid s = _
  simp only [execKillSettle, hk]
  refine congrArg _ ((if_neg hgo).trans ?_)
  rw [State.bury]
  exact if_congr Iff.rfl rfl rfl

/-- A killed kernel whose instances have halted leaves its contexts, and runs again or is gone (03 R61; 16 R360). -/
theorem ends_killSettle : Ends (.killSettle kid) s fun t =>
    (∀ y ∈ s.heldBy kid, (t.ctx y).occ = none) ∧
      (¬((∃ e, k.fin = some e ∧ e.status = .fault) ∧ k.reruns < k.krec.rerun) → t.kernel kid = none) ∧
      ((∃ e, k.fin = some e ∧ e.status = .fault) ∧ k.reruns < k.krec.rerun → ∃ k', t.kernel kid = some k' ∧ k'.st = .cand ∧
        k'.reruns = k.reruns + 1 ∧ k'.krec = k.krec ∧ k'.ctxs = [] ∧ kid ∈ (t.queue k.q).cands) := by
  obtain ⟨k', ⟨a, c, rfl⟩, hexec⟩ := exec_killSettle hk hst hhalted
  generalize hk' : ({ k with arith := a, cycles := c } : Kernel) = k' at hexec
  have hagain : k'.reruns? (k.fin.getD (EndInfo.plain .killed)) = true ↔
      (∃ e, k.fin = some e ∧ e.status = .fault) ∧ k.reruns < k.krec.rerun := by
    subst hk'
    cases k.fin with
    | none => simp [Kernel.reruns?, EndInfo.plain]
    | some e => simp [Kernel.reruns?]
  rw [← hagain]
  by_cases hrerun : k'.reruns? (k.fin.getD (EndInfo.plain .killed)) = true
  · rw [if_pos hrerun] at hexec
    refine ⟨_, hexec, fun y hy => ?_, fun hno => absurd hrerun hno, fun _ => ?_⟩
    · rw [State.draw_ctx]
      exact State.occ_rerun _ _ _ (s.occ_bury k' kid hy)
    · subst hk'
      exact ⟨_, (State.draw_kernel _ _).trans (State.kernel_rerun _ _ _), rfl, rfl, rfl, rfl,
        (congrArg (fun v : Queue => kid ∈ v.cands) (State.draw_queue _ _)).mpr (State.mem_cands_rerun _ _ _)⟩
  · rw [if_neg hrerun] at hexec
    have hrep := (s.bury k' kid (s.heldBy kid)).reports_finishKernel k' (k.fin.getD (EndInfo.plain .killed)) false
    refine ⟨_, hexec, fun y hy => ?_, fun _ => ?_, fun hyes => absurd hyes hrerun⟩
    · rw [State.draw_ctx, hrep.ctx]
      exact s.occ_bury k' kid hy
    · rw [State.draw_kernel, hrep.kernel]
      exact s.kernel_bury _ _ _

end Kill

/-! ## INSTANCE_RETIRE_DONE -/

section Retire

/-- The trailing work of kernel `k` in context `x` has been performed (06 R131). -/
def WorkDone (s : State) (x : Nat) (k : Kernel) : Prop :=
  (∀ d ∈ (s.core (coreOf x)).copies, d.ctx ≠ x) ∧ (s.ctx x).mxq = [] ∧ s.runners x = [] ∧ (s.ctx x).sigs = [] ∧
    ∀ ob n f (h : Fin 96), PhMsg.anon ob n (some f) (coreOf x) (some h) ∈ s.transit →
      h.val < k.krec.phlo ∨ k.krec.phlo + k.krec.phcnt ≤ h.val

theorem workDone_iff {x : Nat} {k : Kernel} : WorkDone s x k ↔ s.trailing x k = false := by
  have hfault : (∀ ob n f (h : Fin 96), PhMsg.anon ob n (some f) (coreOf x) (some h) ∈ s.transit →
      h.val < k.krec.phlo ∨ k.krec.phlo + k.krec.phcnt ≤ h.val) ↔ s.transit.any (·.faultFor (coreOf x) k.krec) = false := by
    rw [List.any_eq_false]
    constructor
    · rintro hall m hm hfor
      obtain ⟨ob, n, f, h, rfl, hlo, hhi⟩ := PhMsg.faultFor_iff.1 hfor
      have := hall ob n f h hm
      omega
    · rintro hnone ob n f h hm
      by_contra hin
      exact hnone _ hm (PhMsg.faultFor_iff.2 ⟨ob, n, f, h, rfl, by omega, by omega⟩)
  rw [WorkDone, hfault]
  simp [State.trailing, and_assoc]

variable {x : Nat} {oc : Occ} {k : Kernel} (h : Holds s x oc k)

include h

theorem exec_instanceRetireDone : exec (.instanceRetireDone x) s = .next
    (if oc.st ≠ .retired ∨ k.st = .killing ∨ s.trailing x k = true then s
    else
      let k' : Kernel := { s.tally k [x] with gone := oc.n :: k.gone }
      if k'.gone.length = k'.krec.count then
        (((s.vacate k.krec x).endKernel oc.kid).forget k' oc.kid).finishKernel k' (EndInfo.plain .ok) false
      else (s.vacate k.krec x).setKernel oc.kid (some k')) := by
  change execInstanceRetireDone x s = _
  have hkernel := h.kernelOf
  obtain ⟨hocc, -⟩ := h
  simp only [execInstanceRetireDone, hocc, hkernel]
  exact congrArg _ (if_congr Iff.rfl rfl rfl)

theorem makes_instanceRetireDone_idle (hidle : oc.st ≠ .retired ∨ k.st = .killing ∨ ¬ WorkDone s x k) :
    Makes (.instanceRetireDone x) s s := by
  rw [workDone_iff, Bool.not_eq_false] at hidle
  exact (exec_instanceRetireDone h).trans (congrArg _ (if_pos hidle))

/-- Once its trailing work has been performed a retired context is free, and the last one ends the kernel (06 R131). -/
theorem ends_instanceRetireDone (hst : oc.st = .retired) (hlive : k.st ≠ .killing) (hdone : WorkDone s x k) :
    Ends (.instanceRetireDone x) s fun t =>
      (t.ctx x).occ = none ∧ (t.core (coreOf x)).claim ≠ some x ∧ (k.gone.length + 1 = k.krec.count → t.kernel oc.kid = none) ∧
        (k.gone.length + 1 ≠ k.krec.count → ∃ k', t.kernel oc.kid = some k' ∧ k'.gone = oc.n :: k.gone ∧ k'.st = k.st) := by
  have hgo : ¬(oc.st ≠ .retired ∨ k.st = .killing ∨ s.trailing x k = true) := by simp [hst, hlive, workDone_iff.1 hdone]
  have hexec := (exec_instanceRetireDone h).trans (congrArg _ (if_neg hgo))
  obtain ⟨a, c, htally⟩ := s.tally_eq k [x]
  rw [htally] at hexec
  by_cases hlast : k.gone.length + 1 = k.krec.count
  · have hexec' := hexec.trans (congrArg _ (if_pos hlast))
    have hrep := State.reports_finishKernel (((s.vacate k.krec x).endKernel oc.kid).forget
      { k with arith := a, cycles := c, gone := oc.n :: k.gone } oc.kid) { k with arith := a, cycles := c, gone := oc.n :: k.gone }
      (EndInfo.plain .ok) false
    refine ⟨_, hexec', ?_, ?_, fun _ => ?_, fun hno => absurd hlast hno⟩
    · rw [hrep.ctx, State.ctx_forget, State.ctx_endKernel]
      exact s.occ_vacate _ _
    · rw [hrep.core, State.core_forget, State.core_endKernel]
      exact s.claim_vacate _ _
    · rw [hrep.kernel]
      exact State.kernel_forget _ _ _
  · have hexec' := hexec.trans (congrArg _ (if_neg hlast))
    exact ⟨_, hexec', s.occ_vacate _ _, s.claim_vacate _ _, fun hyes => absurd hyes hlast,
      fun _ => ⟨_, State.kernel_setKernel_self _ _ _, rfl, rfl⟩⟩

end Retire

/-! ## The statement -/

/-- Settles O45: each clause is the lemma above about its happening; an entry's record is read alike whether it is begun or continued. -/
theorem dispatcherResult : Obligations.DispatcherResult := by
  intro s q o x kid v take dec bad reads
  have hreads : ∀ ptr bs, exec take s = .next (s.readRecord q ptr bs s.unitsRead).draw → reads ptr bs := fun ptr bs hexec =>
    ⟨s.unitsRead, Nat.sub_le _ _, fun a herr => hexec.trans (by rw [State.readRecord_error herr]; rfl), fun more hmore =>
      ⟨fun hlen => hexec.trans (by rw [State.readRecord_short hmore hlen]), fun hlen =>
        ⟨ends_badRecord hexec hmore hlen, ends_takenBroken hexec hmore hlen, ends_taken hexec hmore hlen⟩⟩⟩
  refine ⟨makes_takeQueueEntry_idle, fun hpart hen hcands hmore => ⟨fun a => makes_takeQueueEntry_unreadable hpart hen hcands hmore,
      fun bs hbs => ⟨makes_takeQueueEntry_misplaced hpart hen hcands hmore hbs,
        fun hplace hlow => hreads _ _ (exec_takeQueueEntry_new hpart hen hcands hmore hbs hplace hlow)⟩⟩,
    fun ptr bs hpart => hreads ptr bs (exec_takeQueueEntry_part hpart), fun k hkids hk => ?_, makes_placementDecision_early,
    fun hmay => ⟨makes_placementDecision_empty hmay, fun k xs hranked heligible hno _ hsaved hfits =>
      ends_placementDecision_placed hmay hranked heligible hfits hno hsaved⟩,
    fun oc k h => ⟨makes_instanceStart_idle h, makes_instanceStart_fresh h⟩, fun k hk => ?_,
    fun oc k h => ⟨makes_instanceRetireDone_idle h, ends_instanceRetireDone h⟩⟩
  · exact ⟨makes_dependenceEventSeen_closed hkids hk,
      fun hopen hbroken => ends_dependenceEventSeen_broken hkids hk hopen ((waitBroken_seen_iff o k).2 hbroken),
      fun hopen hwhole => ⟨_, makes_dependenceEventSeen_seen hkids hk hopen (mt (waitBroken_seen_iff o k).1 hwhole),
        fun i hi => satNow_seen_iff o k hi⟩⟩
  · exact ⟨makes_preloadStart_idle hk, ends_preloadStart hk,
      ⟨makes_budgetOverrun_idle hk, ends_budgetOverrun_requeued hk, ends_budgetOverrun_killed hk⟩, makes_requeueSettle_idle hk,
      fun b => ends_requeueSettle hk, makes_killSettle_idle hk, ends_killSettle hk⟩

end Sys2Proof.Claims
end

section
/-! SUPPORT. What the host does to launch queues and phaser objects: writes of QTAIL and QCFG, KSTOP and the initialisation of an object, and
the statement about them (03 R45, R47; 12 R264; 16 R362; 17 R388). -/

namespace Sys2Proof.SMap

variable {α : Type}

/-- A map lists every key at which it does not read the default. -/
theorem mem_keys_of_get_ne {d : α} {m : SMap α} {k : Nat} (h : m.get d k ≠ d) : k ∈ m.map (·.1) := by
  induction m with
  | nil => exact absurd rfl h
  | cons e m ih =>
    obtain ⟨j, v⟩ := e
    by_cases hkj : k = j
    · exact hkj ▸ List.mem_cons_self
    · exact List.mem_cons_of_mem _ (ih (by rwa [get, if_neg hkj] at h))

/-- A change of every value that keeps the default. -/
theorem get_map {d : α} {f : α → α} (hf : f d = d) (m : SMap α) (k : Nat) : get d (m.map fun e => (e.1, f e.2)) k = f (m.get d k) := by
  induction m with
  | nil => exact hf.symm
  | cons e m ih =>
    obtain ⟨j, v⟩ := e
    change (if k = j then f v else get d (m.map fun e => (e.1, f e.2)) k) = f (if k = j then v else get d m k)
    rw [ih, apply_ite f]

end Sys2Proof.SMap

namespace Sys2Proof.Machine

/-! ## Queue registers (03 R45) -/

theorem ofNat_bf {w : Nat} (x : BitVec w) (lo n : Nat) : BitVec.ofNat n (bf x lo n) = x.extractLsb' lo n := by
  refine BitVec.eq_of_toNat_eq ?_
  rw [BitVec.toNat_ofNat, BitVec.extractLsb'_toNat, bf, Nat.mod_mod, Nat.shiftRight_eq_div_pow]

/-- The fields of QCFG but EN as a write of `v` leaves them: LOG2N and SRC stay while EN is 1. -/
def Queue.configured (k : Queue) (v : W32) : Queue :=
  { k with
    qprio := v.extractLsb' 5 3, log2n := if k.en = true then k.log2n else v.extractLsb' 0 5, src := if k.en = true then k.src else v.getLsbD 8 }

/-- EN cannot become 1: LOG2N is illegal, or BASE is not a multiple of 64. -/
def Queue.badCfg (k : Queue) : Bool :=
  !(decide (4 ≤ k.log2n.toNat) && decide (k.log2n.toNat ≤ 16)) || k.base.toNat % 64 != 0

theorem Queue.badCfg_iff (k : Queue) : k.badCfg = true ↔ k.log2n.toNat < 4 ∨ 16 < k.log2n.toNat ∨ k.base.toNat % 64 ≠ 0 := by
  simp [Queue.badCfg, or_assoc]

/-! ## Kernels of a queue -/

theorem State.mem_kids {s : State} {kid : Nat} {k : Kernel} (hk : s.kernel kid = some k) : kid ∈ s.kids :=
  SMap.mem_keys_of_get_ne (d := none) (by rw [show s.kernels.get none kid = some k from hk]; exact Option.some_ne_none k)

theorem Kernel.open_eq_false_iff (k : Kernel) : k.open = false ↔ k.st ≠ .cand ∧ k.st ≠ .preloaded := by
  simp [Kernel.open]

/-- A placed kernel is neither a candidate nor a preload, and is not being killed. -/
theorem Kernel.closed_of_placed {k : Kernel} (hst : k.st = .placed) : k.open = false ∧ k.st ≠ .killing := by
  rw [Kernel.open_eq_false_iff, hst]
  exact ⟨⟨nofun, nofun⟩, nofun⟩

theorem State.mem_placedOf {s : State} {q kid : Nat} :
    kid ∈ s.placedOf q ↔ ∃ k, s.kernel kid = some k ∧ k.q = q ∧ k.open = false ∧ k.st ≠ .killing := by
  rw [State.placedOf, List.mem_filter, Option.any_eq_true]
  simp only [Bool.and_eq_true, beq_iff_eq, Bool.not_eq_true', bne_iff_ne, and_assoc]
  exact ⟨And.right, fun h => ⟨h.elim fun k hk => State.mem_kids hk.1, h⟩⟩

/-! ## Steps that each concern one kernel -/

/-- Every step of `f` leaves each kernel alone but the one it is for. -/
def OneKernel (f : State → Nat → State) : Prop := ∀ (s : State) {y kid : Nat}, kid ≠ y → (f s y).kernel kid = s.kernel kid

namespace OneKernel

variable {f : State → Nat → State} (hf : OneKernel f)

include hf

theorem foldl_of_not_mem (s : State) {l : List Nat} {kid : Nat} (h : kid ∉ l) : (l.foldl f s).kernel kid = s.kernel kid :=
  List.foldlRecOn (motive := fun u : State => u.kernel kid = s.kernel kid) _ _ rfl fun u hu _ hy =>
    (hf u (ne_of_mem_of_not_mem hy h).symm).trans hu

/-- Steps over a list with `kid` take kernel `k` from its state to `P`, where steps that find it so leave it. `I` holds throughout. -/
theorem foldl_of_mem {I : State → Prop} {P : Option Kernel → Prop} {kid : Nat} {k : Kernel} (hI : ∀ u y, I u → I (f u y))
    (hfirst : ∀ u, I u → u.kernel kid = some k → P ((f u kid).kernel kid)) (hagain : ∀ u, P (u.kernel kid) → P ((f u kid).kernel kid))
    (l : List Nat) (s : State) (hs : I s) (h : kid ∈ l ∧ s.kernel kid = some k ∨ P (s.kernel kid)) : P ((l.foldl f s).kernel kid) := by
  induction l generalizing s with
  | nil => exact h.resolve_left fun hmem => List.not_mem_nil hmem.1
  | cons y l ih =>
    refine ih (f s y) (hI s y hs) ?_
    by_cases hy : kid = y
    · subst hy
      exact .inr (h.elim (fun hk => hfirst s hs hk.2) (hagain s))
    · rw [hf s hy]
      exact h.imp_left fun hmem => ⟨(List.mem_cons.1 hmem.1).resolve_left hy, hmem.2⟩

end OneKernel

/-- A list of steps of which only those for `a` change anything, and these but once. -/
theorem foldl_eq_of_mem {σ α : Type} [DecidableEq α] {f : σ → α → σ} {s t : σ} {a : α} {l : List α} (ha : a ∈ l) (hmake : f s a = t)
    (hskip : ∀ b ∈ l, b ≠ a → f s b = s) (hstay : ∀ b ∈ l, f t b = t) : l.foldl f s = t := by
  have hkeep : ∀ l' : List α, (∀ b ∈ l', f t b = t) → l'.foldl f t = t := fun l' h =>
    List.foldlRecOn (motive := fun u => u = t) l' f rfl fun u hu b hb => hu ▸ (h b hb)
  induction l with
  | nil => cases ha
  | cons b l ih =>
    have hrest : ∀ c ∈ l, f t c = t := fun c hc => hstay c (List.mem_cons_of_mem _ hc)
    rw [List.foldl_cons]
    by_cases hb : b = a
    · rw [hb, hmake]
      exact hkeep l hrest
    · rw [hskip b List.mem_cons_self hb]
      exact ih ((List.mem_cons.1 ha).resolve_left (Ne.symm hb)) (fun c hc => hskip c (List.mem_cons_of_mem _ hc)) hrest

/-! ## Preloads that are dropped -/

theorem State.kernel_upKernel_self (s : State) (y : Nat) (f : Kernel → Kernel) : (s.upKernel y f).kernel y = (s.kernel y).map f := by
  unfold State.upKernel
  split
  next v hv => rw [State.kernel_setKernel_self, hv, Option.map_some]
  next hv => rw [hv, Option.map_none]

theorem State.kernel_freeAll (s : State) (y kid : Nat) : (s.freeAll y).kernel kid = s.kernel kid := by rw [s.freeAll_rest y]; rfl

theorem State.oneKernel_unpreload : OneKernel State.unpreload := fun s y _ h =>
  ((s.freeAll y).kernel_upKernel_of_ne _ h).trans (s.kernel_freeAll _ _)

theorem State.kernel_unpreload_self (s : State) (y : Nat) :
    (s.unpreload y).kernel y = (s.kernel y).map fun k => { k with st := .cand, ctxs := [], deferred := [] } := by
  rw [State.unpreload, State.kernel_upKernel_self, State.kernel_freeAll]

theorem State.queue_dropPreloads (s : State) (q r : Nat) : (s.dropPreloads q).queue r = s.queue r := by
  refine List.foldlRecOn (motive := fun u : State => u.queue r = s.queue r) _ _ rfl fun u hu y _ => ?_
  obtain ⟨ks, heq⟩ := (u.freeAll y).upKernel_rest y fun k => { k with st := .cand, ctxs := [], deferred := [] }
  rw [State.unpreload, heq]
  exact (u.queue_freeAll y r).trans hu

/-- Only preloads of the queue are dropped. -/
theorem State.kernel_dropPreloads {s : State} {q kid : Nat} {k : Kernel} (hk : s.kernel kid = some k) (h : k.q ≠ q ∨ k.st ≠ .preloaded) :
    (s.dropPreloads q).kernel kid = some k := by
  refine (State.oneKernel_unpreload.foldl_of_not_mem s fun hmem => ?_).trans hk
  have hany := (List.mem_filter.1 hmem).2
  rw [hk, Option.any_some, Bool.and_eq_true, beq_iff_eq, beq_iff_eq] at hany
  obtain ⟨hq, hst⟩ := hany
  exact h.elim (absurd hq) (absurd hst)

/-- A preload that is dropped is not placed by that. -/
theorem State.not_placed_dropPreloads {s : State} {q y : Nat} (h : ∀ z, s.kernel y = some z → z.q = q → z.st ≠ .placed) (z : Kernel) :
    (s.dropPreloads q).kernel y = some z → z.q = q → z.st ≠ .placed := by
  refine List.foldlRecOn (motive := fun u : State => ∀ z, u.kernel y = some z → z.q = q → z.st ≠ .placed) _ _ h (fun u hu x _ z hz => ?_) z
  by_cases hyx : y = x
  · subst hyx
    rw [State.kernel_unpreload_self] at hz
    obtain ⟨v, -, rfl⟩ := Option.map_eq_some_iff.1 hz
    exact fun _ => KSt.noConfusion
  · exact hu z ((State.oneKernel_unpreload u hyx).symm.trans hz)

/-! ## KSTOP (16 R362) -/

/-- The dispatcher holds a kernel that is being killed, with nothing to blame for it. -/
def IsDying (o : Option Kernel) : Prop := ∃ k, o = some k ∧ k.st = .killing ∧ k.fin = some (EndInfo.plain .killed)

theorem State.oneKernel_kill (e : EndInfo) : OneKernel fun s y => s.kill y e := by
  intro s y kid h
  simp only [State.kill]
  split
  · rfl
  split_ifs
  · exact s.kernel_setKernel_of_ne _ h
  · rfl
  · rw [State.dropCopies_kernel, State.upCtxs_kernel]
    exact s.kernel_setKernel_of_ne _ h

/-- Without a cause of its own a kill replaces none (16 R360). -/
theorem State.kill_of_killing {s : State} {kid : Nat} {k : Kernel} (hk : s.kernel kid = some k) (hst : k.st = .killing) (v : Status) :
    s.kill kid (EndInfo.plain v) = s := by
  have hrank : k.outranks s.sys.cyc (EndInfo.plain v) = false := by simp [Kernel.outranks, EndInfo.plain]
  simp [State.kill, hk, hst, hrank]

theorem State.queue_kill (s : State) (kid : Nat) (e : EndInfo) (r : Nat) : (s.kill kid e).queue r = s.queue r := by
  simp only [State.kill]
  split
  · rfl
  split_ifs
  · rfl
  · rfl
  · obtain ⟨ks, hcores⟩ := State.dropCopies_rest _ _ _
    rw [hcores]
    exact State.upCtxs_queue _ _ _ _

theorem State.isDying_kill {s : State} {kid : Nat} {k : Kernel} (hk : s.kernel kid = some k) (hst : k.st ≠ .killing) :
    IsDying ((s.kill kid (EndInfo.plain .killed)).kernel kid) := ⟨_, (State.kill_begins hk hst _).1, rfl, rfl⟩

theorem State.oneKernel_beginRequeue (s : State) {y kid : Nat} (k : Kernel) (overrun : Bool) (h : kid ≠ y) :
    (s.beginRequeue y k overrun).kernel kid = s.kernel kid := by
  rw [State.beginRequeue, State.upCtxs_kernel]
  exact s.kernel_setKernel_of_ne _ h

theorem State.save_beginRequeue (s : State) (kid : Nat) (k : Kernel) (overrun : Bool) (r : Nat) :
    ((s.beginRequeue kid k overrun).queue r).save = (s.queue r).save := by
  rw [State.beginRequeue, State.upCtxs_queue]
  by_cases hr : r = k.q
  · rw [hr, State.queue_setQueue_self]
    rfl
  · exact congrArg Queue.save (State.queue_setQueue_of_ne _ _ hr)

/-- Every placed kernel of the queue is killed. -/
def State.killPlaced (s : State) (q : Nat) : State :=
  ((s.dropPreloads q).placedOf q).foldl (fun s kid => s.kill kid (EndInfo.plain .killed)) (s.dropPreloads q)

/-- KSTOP PREEMPT of one kernel: a placed one is saved and requeued, or killed where the save area cannot take it. -/
def State.preemptOne (s : State) (kid : Nat) : State :=
  match s.kernel kid with
  | none => s
  | some k => if k.st ≠ .placed then s else if s.canSave k kid then s.beginRequeue kid k false else s.kill kid (EndInfo.plain .killed)

/-- Every placed kernel of the queue is preempted. -/
def State.preemptPlaced (s : State) (q : Nat) : State := ((s.dropPreloads q).placedOf q).foldl State.preemptOne (s.dropPreloads q)

theorem State.preemptOne_of_not_placed {s : State} {kid : Nat} (h : ∀ k, s.kernel kid = some k → k.st ≠ .placed) : s.preemptOne kid = s := by
  unfold State.preemptOne
  split
  · rfl
  next k hk => exact if_pos (h k hk)

theorem State.preemptOne_of_placed {s : State} {kid : Nat} {k : Kernel} (hk : s.kernel kid = some k) (hst : k.st = .placed) : s.preemptOne kid =
    if s.canSave k kid = true then s.beginRequeue kid k false else s.kill kid (EndInfo.plain .killed) := by
  unfold State.preemptOne
  rw [hk]
  exact if_neg (not_not.2 hst)

/-- A preemption does nothing, begins a requeue or begins a kill. -/
theorem State.preemptOne_cases (s : State) (kid : Nat) : s.preemptOne kid = s ∨ (∃ k, s.preemptOne kid = s.beginRequeue kid k false) ∨
    s.preemptOne kid = s.kill kid (EndInfo.plain .killed) := by
  unfold State.preemptOne
  split
  · exact .inl rfl
  next k _ =>
    split_ifs
    · exact .inl rfl
    · exact .inr (.inl ⟨k, rfl⟩)
    · exact .inr (.inr rfl)

theorem State.oneKernel_preemptOne : OneKernel State.preemptOne := by
  intro s y kid h
  obtain heq | ⟨k, heq⟩ | heq := s.preemptOne_cases y <;> rw [heq]
  · exact s.oneKernel_beginRequeue k false h
  · exact State.oneKernel_kill _ s h

theorem State.save_preemptOne (s : State) (kid r : Nat) : ((s.preemptOne kid).queue r).save = (s.queue r).save := by
  obtain heq | ⟨k, heq⟩ | heq := s.preemptOne_cases kid <;> rw [heq]
  · exact s.save_beginRequeue kid k false r
  · rw [State.queue_kill]

section Stopped

variable {s : State} {q kid : Nat} {k : Kernel} (hk : s.kernel kid = some k)

include hk

theorem State.not_mem_placed_of_ne (hq : k.q ≠ q) : kid ∉ (s.dropPreloads q).placedOf q := by
  rw [State.mem_placedOf]
  rintro ⟨v, hv, hvq, -, -⟩
  rw [State.kernel_dropPreloads hk (.inl hq)] at hv
  exact hq (Option.some.inj hv ▸ hvq)

theorem State.kernel_killPlaced_of_ne (hq : k.q ≠ q) : (s.killPlaced q).kernel kid = some k :=
  ((State.oneKernel_kill _).foldl_of_not_mem _ (State.not_mem_placed_of_ne hk hq)).trans (State.kernel_dropPreloads hk (.inl hq))

theorem State.kernel_preemptPlaced_of_ne (hq : k.q ≠ q) : (s.preemptPlaced q).kernel kid = some k :=
  (State.oneKernel_preemptOne.foldl_of_not_mem _ (State.not_mem_placed_of_ne hk hq)).trans (State.kernel_dropPreloads hk (.inl hq))

variable (hq : k.q = q) (hclosed : k.open = false)

include hq hclosed

omit hq in
/-- A kernel that is neither a candidate nor a preload stands through the drop of the preloads. -/
theorem State.kernel_dropPreloads_of_closed : (s.dropPreloads q).kernel kid = some k :=
  State.kernel_dropPreloads hk (.inr ((Kernel.open_eq_false_iff k).1 hclosed).2)

theorem State.mem_placed_of_closed (hst : k.st ≠ .killing) : kid ∈ (s.dropPreloads q).placedOf q :=
  State.mem_placedOf.2 ⟨k, State.kernel_dropPreloads_of_closed hk hclosed, hq, hclosed, hst⟩

theorem State.isDying_killPlaced (hst : k.st ≠ .killing) : IsDying ((s.killPlaced q).kernel kid) := by
  refine (State.oneKernel_kill _).foldl_of_mem (I := fun _ => True) (k := k) (fun _ _ h => h) (fun u _ hu => State.isDying_kill hu hst)
    (fun u hu => ?_) _ _ trivial (.inl ⟨State.mem_placed_of_closed hk hq hclosed hst, State.kernel_dropPreloads_of_closed hk hclosed⟩)
  obtain ⟨v, hv, hvst, -⟩ := id hu
  rwa [State.kill_of_killing hv hvst]

omit hclosed

variable (hst : k.st = .placed)

include hst

theorem State.isDying_preemptPlaced (hsave : (s.queue q).save = 0) : IsDying ((s.preemptPlaced q).kernel kid) := by
  obtain ⟨hclosed, hlive⟩ := Kernel.closed_of_placed hst
  refine State.oneKernel_preemptOne.foldl_of_mem (I := fun u => (u.queue q).save = 0) (k := k)
    (fun u y hu => (u.save_preemptOne y q).trans hu) (fun u hu hku => ?_) (fun u hu => ?_) _ _ (by rwa [State.queue_dropPreloads])
    (.inl ⟨State.mem_placed_of_closed hk hq hclosed hlive, State.kernel_dropPreloads_of_closed hk hclosed⟩)
  · have hcannot : u.canSave k kid = false := by rw [State.canSave, hq, hu]; rfl
    rw [State.preemptOne_of_placed hku hst, hcannot]
    exact State.isDying_kill hku hlive
  · obtain ⟨v, hv, hvst, -⟩ := id hu
    rwa [State.preemptOne_of_not_placed fun w hw => by rw [← Option.some.inj (hv.symm.trans hw), hvst]; exact nofun]

/-- The only placed kernel of a queue whose save area is free is requeued. -/
theorem State.preemptPlaced_eq (hsave : (s.queue q).save ≠ 0) (hsaved : (s.queue q).savedKid = none)
    (honly : ∀ y z, y ≠ kid → s.kernel y = some z → z.q = q → z.st ≠ .placed) :
    s.preemptPlaced q = (s.dropPreloads q).beginRequeue kid k false := by
  obtain ⟨hclosed, hlive⟩ := Kernel.closed_of_placed hst
  have hdrop : (s.dropPreloads q).kernel kid = some k := State.kernel_dropPreloads_of_closed hk hclosed
  have hcan : (s.dropPreloads q).canSave k kid = true := by simpa [State.canSave, hq, State.queue_dropPreloads, hsaved] using hsave
  have hother : ∀ y ∈ (s.dropPreloads q).placedOf q, y ≠ kid → ∀ z, (s.dropPreloads q).kernel y = some z → z.st ≠ .placed := by
    intro y hy hne z hz
    obtain ⟨v, hv, hvq, -, -⟩ := State.mem_placedOf.1 hy
    obtain rfl := Option.some.inj (hv.symm.trans hz)
    exact State.not_placed_dropPreloads (fun z => honly y z hne) v hv hvq
  refine foldl_eq_of_mem (State.mem_placed_of_closed hk hq hclosed hlive) ?_
    (fun y hy hne => State.preemptOne_of_not_placed (hother y hy hne)) fun y hy => State.preemptOne_of_not_placed fun z hz => ?_
  · rw [State.preemptOne_of_placed hdrop hst, if_pos hcan]
  by_cases hne : y = kid
  · rw [hne, (State.requeue_begins _ kid k false).1] at hz
    rw [← Option.some.inj hz]
    exact nofun
  · rw [State.oneKernel_beginRequeue _ k false hne] at hz
    exact hother y hy hne z hz

end Stopped

/-! ## The initialisation of a phaser object (12 R264) -/

theorem State.phaser_initObj_self (s : State) (o : Nat) (phase : W32) (anon : Nat) :
    (s.initObj o phase anon).phaser o = { Phaser.init with phase := phase, anon := anon } := s.phaser_setPhaser_self _ _

theorem State.phaser_initObj_of_ne (s : State) {o x : Nat} (phase : W32) (anon : Nat) (h : x ≠ o) :
    (s.initObj o phase anon).phaser x = s.phaser x := s.phaser_setPhaser_of_ne _ h

/-- Handles that no core has bound have nothing to clear. -/
theorem clear_init (o : Nat) : { Core.init with handles := Core.init.handles.map fun h => h.cleared o } = Core.init := by
  have hsame : (Vector.replicate 96 Handle.unbound).map (fun h => h.cleared o) = Vector.replicate 96 Handle.unbound := Vector.map_replicate
  rw [Core.init, hsame]

theorem State.handle_initObj (s : State) (o : Nat) (phase : W32) (anon c : Nat) (h : Fin 96) :
    ((s.initObj o phase anon).core c).handles[h] = ((s.core c).handles[h]).cleared o := by
  have hcore : (s.initObj o phase anon).core c = { s.core c with handles := (s.core c).handles.map fun h => h.cleared o } :=
    SMap.get_map (f := fun k : Core => { k with handles := k.handles.map fun h => h.cleared o }) (clear_init o) s.cores c
  rw [hcore]
  exact Vector.getElem_map _ _

end Sys2Proof.Machine

namespace Sys2Proof.Claims

open Sys2Proof Sys2Proof.Machine

variable (s : State) (q : Fin 64) (v : W32) (z : Bool)

/-! ## Each operation, for a queue of either world -/

theorem makes_qtailWrite : Makes (.qtailWrite ⟨q, z⟩ v) s
    (if s.queueTakes q z = false ∨ (s.queue q).src = true then s.regAccess z
    else if 2 ^ (s.queue q).log2n.toNat < (v - (s.queue q).head).toNat then
      (s.regAccess z).setQueue q { s.queue q with err := (s.queue q).err ||| 4 }
    else (s.regAccess z).setQueue q { s.queue q with tail := v }) := by
  change execQtailWrite ⟨q, z⟩ v s = _
  simp only [execQtailWrite, State.queueTakes_regAccess, State.queue_regAccess, Bool.not_eq_true']

theorem makes_qcfgWrite : Makes (.qcfgWrite ⟨q, z⟩ v) s
    (if s.queueTakes q z = false then s.regAccess z
    else (s.regAccess z).setQueue q
      (if (v.getLsbD 9 && ((s.queue q).configured v).badCfg) = true then
        { (s.queue q).configured v with en := false, err := (s.queue q).err ||| 8 }
      else { (s.queue q).configured v with en := v.getLsbD 9 })) := by
  change execQcfgWrite ⟨q, z⟩ v s = _
  simp only [execQcfgWrite, State.queueTakes_regAccess, State.queue_regAccess, Bool.not_eq_true', ofNat_bf]
  rfl

theorem makes_kstopKill : Makes (.kstopKill ⟨q, z⟩) s
    (if s.queueTakes q z = false then s.regAccess z else (s.regAccess z).killPlaced q) := by
  change execKstopKill ⟨q, z⟩ s = _
  simp only [execKstopKill, State.queueTakes_regAccess, Bool.not_eq_true']
  rfl

theorem makes_kstopPreempt : Makes (.kstopPreempt ⟨q, z⟩) s
    (if s.queueTakes q z = false then s.regAccess z else (s.regAccess z).preemptPlaced q) := by
  change execKstopPreempt ⟨q, z⟩ s = _
  simp only [execKstopPreempt, State.queueTakes_regAccess, Bool.not_eq_true']
  rfl

/-- A wake by the access concerns no kernel. -/
theorem kernel_regAccess (i : Nat) : (s.regAccess z).kernel i = s.kernel i := by cases z <;> rfl

theorem dying_iff (t : State) (kid : Nat) : Dying t kid ↔ IsDying (t.kernel kid) := Iff.rfl

/-! ## A queue of the other world (17 R388) -/

variable {s q z}

section Shut

variable (h : s.sys.worldQueue.get false q ≠ z)

include h

theorem queueTakes_of_shut : s.queueTakes q z = false := Bool.eq_false_iff.2 (mt (s.queueTakes_eq_true_iff q z).1 h)

theorem makes_hostQueue_shut : Makes (.qtailWrite ⟨q, z⟩ v) s (s.regAccess z) ∧ Makes (.qcfgWrite ⟨q, z⟩ v) s (s.regAccess z) ∧
    Makes (.kstopKill ⟨q, z⟩) s (s.regAccess z) ∧ Makes (.kstopPreempt ⟨q, z⟩) s (s.regAccess z) := by
  have hshut := queueTakes_of_shut h
  exact ⟨(makes_qtailWrite s q v z).trans (congrArg _ (if_pos (.inl hshut))), (makes_qcfgWrite s q v z).trans (congrArg _ (if_pos hshut)),
    (makes_kstopKill s q z).trans (congrArg _ (if_pos hshut)), (makes_kstopPreempt s q z).trans (congrArg _ (if_pos hshut))⟩

end Shut

/-! ## A queue of the writer's world -/

theorem makes_qtailWrite_fed (hsrc : (s.queue q).src = true) : Makes (.qtailWrite ⟨q, z⟩ v) s (s.regAccess z) :=
  (makes_qtailWrite s q v z).trans (congrArg _ (if_pos (.inr hsrc)))

section Open

variable (h : s.sys.worldQueue.get false q = z)

include h

theorem not_queueTakes_of_open : ¬s.queueTakes q z = false := Bool.not_eq_false _ ▸ (s.queueTakes_eq_true_iff q z).2 h

/-- QTAIL takes a count that the queue has room for, and another is ignored (03 R47). -/
theorem makes_qtailWrite_open (hsrc : (s.queue q).src = false) :
    (2 ^ (s.queue q).log2n.toNat < (v - (s.queue q).head).toNat →
      Makes (.qtailWrite ⟨q, z⟩ v) s ((s.regAccess z).setQueue q { s.queue q with err := (s.queue q).err ||| 4 })) ∧
    ((v - (s.queue q).head).toNat ≤ 2 ^ (s.queue q).log2n.toNat →
      Makes (.qtailWrite ⟨q, z⟩ v) s ((s.regAccess z).setQueue q { s.queue q with tail := v })) := by
  have hgo : ¬(s.queueTakes q z = false ∨ (s.queue q).src = true) := not_or.2 ⟨not_queueTakes_of_open h, Bool.not_eq_true _ ▸ hsrc⟩
  have hmakes := (makes_qtailWrite s q v z).trans (congrArg _ (if_neg hgo))
  exact ⟨fun hover => hmakes.trans (congrArg _ (if_pos hover)), fun hroom => hmakes.trans (congrArg _ (if_neg (Nat.not_lt.2 hroom)))⟩

/-- EN becomes 1 on a good configuration only (03 R45). -/
theorem makes_qcfgWrite_open :
    (v.getLsbD 9 = true → ((s.queue q).configured v).badCfg = true → Makes (.qcfgWrite ⟨q, z⟩ v) s
      ((s.regAccess z).setQueue q { (s.queue q).configured v with en := false, err := (s.queue q).err ||| 8 })) ∧
    (v.getLsbD 9 = false ∨ ¬((s.queue q).configured v).badCfg = true → Makes (.qcfgWrite ⟨q, z⟩ v) s
      ((s.regAccess z).setQueue q { (s.queue q).configured v with en := v.getLsbD 9 })) := by
  have hmakes := (makes_qcfgWrite s q v z).trans (congrArg _ (if_neg (not_queueTakes_of_open h)))
  refine ⟨fun hen hbad => hmakes.trans ?_, fun hgood => hmakes.trans ?_⟩
  · rw [hen, hbad]
    rfl
  · rw [Bool.not_eq_true] at hgood
    obtain hen | hok := hgood
    · rw [hen]
      rfl
    · rw [hok, Bool.and_false]
      rfl

/-- KSTOP KILL kills the placed kernels of the queue (16 R360, R362). -/
theorem ends_kstopKill : Ends (.kstopKill ⟨q, z⟩) s fun t => ∀ kid k, s.kernel kid = some k →
    (k.q ≠ q.val → t.kernel kid = some k) ∧ (k.q = q.val → k.open = false → k.st ≠ .killing → Dying t kid) := by
  refine ⟨_, (makes_kstopKill s q z).trans (congrArg _ (if_neg (not_queueTakes_of_open h))), fun kid k hk => ?_⟩
  rw [← kernel_regAccess s z] at hk
  exact ⟨State.kernel_killPlaced_of_ne hk, fun hq hclosed hst => (dying_iff _ _).2 (State.isDying_killPlaced hk hq hclosed hst)⟩

/-- KSTOP PREEMPT kills a placed kernel that has no save area, and requeues the only placed one whose save area is free (16 R362). -/
theorem ends_kstopPreempt : Ends (.kstopPreempt ⟨q, z⟩) s fun t => ∀ kid k, s.kernel kid = some k →
    (k.q ≠ q.val → t.kernel kid = some k) ∧ (k.q = q.val → k.st = .placed → (s.queue q).save = 0 → Dying t kid) ∧
      (k.q = q.val → k.st = .placed → (s.queue q).save ≠ 0 → (s.queue q).savedKid = none →
        (∀ y z, y ≠ kid → s.kernel y = some z → z.q = q.val → z.st ≠ .placed) →
        t.kernel kid = some { k with st := .requeueing false } ∧ (t.queue q).savedKid = some kid) := by
  refine ⟨_, (makes_kstopPreempt s q z).trans (congrArg _ (if_neg (not_queueTakes_of_open h))), fun kid k hk => ?_⟩
  simp only [← kernel_regAccess s z, ← State.queue_regAccess s q z] at hk ⊢
  refine ⟨State.kernel_preemptPlaced_of_ne hk, fun hq hst hsave => (dying_iff _ _).2 (State.isDying_preemptPlaced hk hq hst hsave),
    fun hq hst hsave hsaved honly => ?_⟩
  rw [State.preemptPlaced_eq hk hq hst hsave hsaved honly, ← hq]
  obtain ⟨hkernel, hqueue, -⟩ := State.requeue_begins ((s.regAccess z).dropPreloads k.q) kid k false
  exact ⟨hkernel, hqueue⟩

end Open

/-! ## The statement -/

/-- Initialising an object sets it, and discards what is pending at it and on its way (12 R264). -/
theorem ends_phaserObjectInit (o : Fin 16384) (phase : W32) (anon : BitVec 16) : Ends (.phaserObjectInit o phase anon) s fun t =>
    t = { s.barAccess with phasers := t.phasers, cores := t.cores, transit := t.transit } ∧
      t.phaser o = { Phaser.init with phase := phase, anon := anon.toNat } ∧ (∀ x, x ≠ o.val → t.phaser x = s.phaser x) ∧
      (t.transit = s.transit.filter fun m => !m.ofMember o) ∧
      ∀ c (h : Fin 96), (t.core c).handles[h] = ((s.core c).handles[h]).cleared o :=
  ⟨s.barAccess.initObj o phase anon.toNat, rfl, rfl, State.phaser_initObj_self _ _ _ _, fun _ => State.phaser_initObj_of_ne _ _ _, rfl,
    State.handle_initObj _ _ _ _⟩

theorem not_ofMember_eq (o : Nat) : (fun m : PhMsg => !m.ofMember o) =
    fun m => match m with | .member x _ _ _ => x != o | .reg x .. => x != o | .anon .. => true := by
  funext m
  cases m <;> rfl

/-- Settles O41: each clause is the lemma above about its operation; a host's access also wakes the device. -/
theorem hostQueueResult : Obligations.HostQueueResult := by
  intro s q v z o phase anon w a k shut new bad
  have hbad : (k.configured v).badCfg = true ↔ bad := (k.configured v).badCfg_iff
  have hopen : ¬ shut → s.sys.worldQueue.get false q = z := not_not.1
  refine ⟨makes_hostQueue_shut v, makes_qtailWrite_fed v, fun h hsrc => makes_qtailWrite_open v (hopen h) hsrc, fun h => ?_,
    fun h => ends_kstopKill (hopen h), fun h => ends_kstopPreempt (hopen h), ?_⟩
  · rw [← hbad]
    exact makes_qcfgWrite_open v (hopen h)
  · obtain ⟨t, hexec, hrest, hself, hother, htransit, hhandles⟩ := ends_phaserObjectInit (s := s) o phase anon
    rw [not_ofMember_eq] at htransit
    exact ⟨t, hexec, hrest, hself, hother, htransit, hhandles⟩

end Sys2Proof.Claims
end

section
/-! SUPPORT. The fields of an encoded word: each reader of a field takes back what its code put there (04 R74 to R80). -/

namespace Sys2Proof

/-! ## Registers -/

theorem r5_eq {w lo : Nat} {a : Fin 32} (h : fld w lo 5 = a) : r5 w lo = a := Fin.ext h

theorem r6_eq {w lo : Nat} {a : Fin 64} (h : fld w lo 6 = a) : r6 w lo = a := Fin.ext h

/-! ## Codes of operand fields -/

theorem condOf_condCode (c : Cond) : condOf (condCode c) = some c := by cases c <;> rfl

theorem ldcOf_ldcCode (z : LdcSz) : ldcOf (ldcCode z) = some z := by cases z <;> rfl

theorem cvtOf_cvtCode (c : CvtCode) : cvtOf (cvtCode c) = some c := by cases c <;> rfl

theorem qfmtOf_qfmtCode (t : QFmt) : qfmtOf (qfmtCode t) = some t := by cases t <;> rfl

theorem sfOf_sfCode (f : SfFmt) : sfOf (sfCode f) = some f := by cases f <;> rfl

theorem bcOf_bcCode (z : BcSz) : bcOf (bcCode z) = some z := by cases z <;> rfl

theorem qloadOf_qloadCode (q : QLoad) : qloadOf (qloadCode q) = some q := by cases q <;> rfl

theorem qstoreOf_qstoreCode (q : QStore) : qstoreOf (qstoreCode q) = some q := by cases q <;> rfl

theorem scopeOf_scopeCode (p : Scope) : scopeOf (scopeCode p) = some p := by cases p <;> rfl

theorem regModeOf_regModeCode (m : RegMode) : regModeOf (regModeCode m) = some m := by cases m <;> rfl

theorem redOf_eq {w : Nat} {op : RedOp} (h : fld w 0 3 = redCode op) : redOf w = op := by
  have h : w % 8 = redCode op := by simpa [fld] using h
  unfold redOf
  rw [h]
  cases op <;> rfl

theorem maskOf_eq {w : Nat} {m : Mask} (h : fld w 0 1 = maskCode m) : maskOf w = m := by
  have h : w % 2 = maskCode m := by simpa [fld] using h
  unfold maskOf
  rw [h]
  cases m <;> rfl

theorem maskYOf_eq {w : Nat} {y : MaskY} (hc : fld w 1 1 = y.code) (hr : fld w 12 5 = y.regNum) : maskYOf w = y := by
  unfold maskYOf
  rw [hc]
  cases y with
  | other => rfl
  | reg a => exact congrArg MaskY.reg (r5_eq hr)

theorem selOf_selCode (a : Sel) : selOf (selCode a) = some a := by
  have hi : ∀ (i : Fin 64) (x : Nat), x % 64 = i → Fin.ofNat 64 x = i := fun i x h => Fin.ext h
  cases a with
  | row i =>
    have : selCode (.row i) / 64 % 4 = 0 := by simp only [selCode]; omega
    unfold selOf
    rw [this]
    exact congrArg (some <| Sel.row ·) (hi i _ (by simp only [selCode]; omega))
  | col i =>
    have : selCode (.col i) / 64 % 4 = 1 := by simp only [selCode]; omega
    unfold selOf
    rw [this]
    exact congrArg (some <| Sel.col ·) (hi i _ (by simp only [selCode]; omega))
  | diag i =>
    have : selCode (.diag i) / 64 % 4 = 2 := by simp only [selCode]; omega
    unfold selOf
    rw [this]
    exact congrArg (some <| Sel.diag ·) (hi i _ (by simp only [selCode]; omega))

/-! ## Widened immediates (04 R79) -/

theorem sextN_eq_sub (n : Nat) (i : Int) : ∃ q : Int, i = sextN n (lowF n i) + 2 ^ n * q := by
  have hm : (0 : Int) < 2 ^ n := by positivity
  have hlow : ((lowF n i : Nat) : Int) = i % 2 ^ n := Int.toNat_of_nonneg (Int.emod_nonneg i hm.ne')
  have hdiv := Int.emod_add_mul_ediv i (2 ^ n)
  unfold sextN
  split
  · exact ⟨i / 2 ^ n, by omega⟩
  · exact ⟨i / 2 ^ n + 1, by rw [mul_add, mul_one]; omega⟩

theorem sextN_bounds {n x : Nat} (hn : 0 < n) (hx : x < 2 ^ n) : -(2 ^ (n - 1) : Int) ≤ sextN n x ∧ sextN n x < 2 ^ (n - 1) := by
  have hp : (2 : Int) ^ n = 2 * 2 ^ (n - 1) := by rw [← pow_succ', Nat.sub_add_cancel hn]
  have hx' : (x : Int) < 2 ^ n := by exact_mod_cast hx
  unfold sextN
  split
  · next h =>
    have : (x : Int) < 2 ^ (n - 1) := by exact_mod_cast h
    omega
  · next h =>
    have : (2 : Int) ^ (n - 1) ≤ x := by exact_mod_cast Nat.le_of_not_lt h
    omega

theorem sextN_emod {q : Int} (hlo : -256 ≤ q) (hhi : q ≤ 255) : sextN 9 (q % 512).toNat = q := by
  unfold sextN
  split <;> omega

theorem wid_lowF_lendF {n : Nat} (hn : 0 < n) {i : Int} (h : widOk n i = true) : wid n (lowF n i) (lendF n i) = i := by
  obtain ⟨q, hq⟩ := sextN_eq_sub n i
  obtain ⟨hlo, hhi⟩ := sextN_bounds hn (lowF_lt n i)
  have hp : (2 : Int) ^ n = 2 * 2 ^ (n - 1) := by rw [← pow_succ', Nat.sub_add_cancel hn]
  have hpos : (0 : Int) < 2 ^ (n - 1) := by positivity
  have hlend : lendF n i = (q % 512).toNat := by
    have hsub : i - sextN n (lowF n i) = 2 ^ n * q := by omega
    unfold lendF
    rw [hsub, Int.mul_ediv_cancel_left _ (by positivity)]
  simp only [widOk, inRange, Bool.and_eq_true, decide_eq_true_eq] at h
  rw [hp] at h hq
  have hqlo : -256 ≤ q := by nlinarith
  have hqhi : q ≤ 255 := by nlinarith
  unfold wid
  rw [hlend, sextN_emod hqlo hqhi, hp, ← hq]

/-! ## The checks of a word that reads back -/

theorem rsv_ok {c : Bool} {k : Except Reason Instr} {i : Instr} (hc : c = false) (hk : k = .ok i) : rsv c k = .ok i := by
  rw [hc, hk]; rfl

theorem hdrOk_ok {c : Bool} {k : Except Reason Instr} {i : Instr} (hc : c = true) (hk : k = .ok i) : hdrOk c k = .ok i := by
  rw [hc, hk]; rfl

theorem noLend_zero (k : Except Reason Instr) : noLend 0 k = k := rfl

theorem sel2_eq {w : Nat} {a b : Sel} {k : Sel → Sel → Except Reason Instr} (ha : fld w 8 8 = selCode a) (hb : fld w 0 8 = selCode b) :
    sel2 w k = k a b := by
  simp only [sel2, ha, hb, selOf_selCode]

theorem sel1_eq {w : Nat} {a : Sel} {k : Sel → Except Reason Instr} (ha : fld w 8 8 = selCode a) : sel1 w k = k a := by
  simp only [sel1, ha, selOf_selCode]

theorem withH_eq {w : Nat} {h : Hnd} {k : Hnd → Except Reason Instr} (hh : fld w 0 7 = hndCode h) : withH w k = k h := by
  unfold withH
  rw [hh]
  cases h with
  | none => rfl
  | some h =>
    have h127 : hndCode (some h) ≠ 127 := by simp only [hndCode]; omega
    have h96 : hndCode (some h) < 96 := by simp [hndCode]
    rw [if_neg h127, if_pos h96]
    simp [hndCode]

theorem withHReq_eq {w : Nat} {h : Fin 96} {k : Fin 96 → Except Reason Instr} (hh : fld w 0 7 = h) : withHReq w k = k h := by
  unfold withHReq
  rw [hh, if_pos h.isLt]
  simp

theorem copyLend_eq {l : CopyLend} {ok : Nat → Bool} {k : CopyLend → Except Reason Instr} (hl : (l.ok && ok l.opx) = true) :
    copyLend l.code ok k = k l := by
  have hp := scopeCode_lt l.scope
  have hx := l.opx.isLt
  have hcode : l.code = l.acq.toNat * 256 + l.rel.toNat * 128 + scopeCode l.scope * 16 + l.ord.toNat * 8 + l.opx := by
    unfold CopyLend.code
    cases l.acq <;> cases l.rel <;> cases l.ord <;> rfl
  have hbit : ∀ (b : Bool) (x : Nat), x = b.toNat → (x == 1) = b := by rintro (_ | _) x rfl <;> rfl
  have ha := Bool.toNat_lt l.acq
  have hr := Bool.toNat_lt l.rel
  have ho := Bool.toNat_lt l.ord
  have hscope : fld l.code 4 3 = scopeCode l.scope := by simp only [fld]; omega
  have hopx : l.code % 8 = l.opx := by omega
  have hl' : (⟨fld l.code 8 1 == 1, fld l.code 7 1 == 1, l.scope, fld l.code 3 1 == 1, Fin.ofNat 8 l.code⟩ : CopyLend) = l := by
    rw [hbit l.acq (fld l.code 8 1) (by simp only [fld]; omega), hbit l.rel (fld l.code 7 1) (by simp only [fld]; omega),
      hbit l.ord (fld l.code 3 1) (by simp only [fld]; omega), show Fin.ofNat 8 l.code = l.opx from Fin.ext hopx]
  obtain ⟨hok, hopok⟩ := Bool.and_eq_true_iff.mp hl
  unfold copyLend
  rw [hscope, scopeOf_scopeCode]
  simp only [hl', hopx, hok, hopok]
  rfl

end Sys2Proof
end

section
/-! SUPPORT. Words of the scalar unit are read back, from the operand bits of their formats (04 R75 to R77). The decoder's table is one
match of 217 rows, more than the default recursion depth takes in. -/

namespace Sys2Proof

/-! ## The operand bits of a word, by format (04 R76 to R78) -/

/-- Formats S.R, S.M and E.R: three fields of five bits and one of seven. -/
structure RFields (w d a b f : Nat) : Prop where
  hd : fld w 17 5 = d
  ha : fld w 12 5 = a
  hb : fld w 7 5 = b
  hf : fld w 0 7 = f
  hda : fld w 12 10 = d * 32 + a
  hab : fld w 7 10 = a * 32 + b
  hbf : fld w 0 12 = b * 128 + f
  hdab : fld w 7 15 = (d * 32 + a) * 32 + b

/-- Formats S.I and M.S: two fields of five bits and one of twelve. -/
structure IFields (w d a n : Nat) : Prop where
  hd : fld w 17 5 = d
  ha : fld w 12 5 = a
  hn : fld w 0 12 = n

/-- Formats V.VV, V.VI and V.S: a field of six bits and two of eight. -/
structure VFields (w d x y : Nat) : Prop where
  hd : fld w 16 6 = d
  hx : fld w 8 8 = x
  hy : fld w 0 8 = y

/-- Format M.V: fields of six, five and eleven bits. -/
structure MFields (w v a n : Nat) : Prop where
  hv : fld w 16 6 = v
  ha : fld w 11 5 = a
  hn : fld w 0 11 = n

/-- Format S.B: fields of three, five and fourteen bits. -/
structure BFields (w c a n : Nat) : Prop where
  hc : fld w 19 3 = c
  ha : fld w 14 5 = a
  hca : fld w 14 8 = c * 32 + a
  hn : fld w 0 14 = n

/-- A field inside a field. -/
theorem fld_inside {w n m : Nat} (lo k : Nat) (h : fld w 0 n = m) (hk : lo + k ≤ n) : fld w lo k = m / 2 ^ lo % 2 ^ k := by
  subst h
  simp only [fld, pow_zero, Nat.div_one]
  rw [← Nat.mod_mod_of_dvd (w / 2 ^ lo) (pow_dvd_pow 2 (show k ≤ n - lo by omega)),
    show 2 ^ n = 2 ^ lo * 2 ^ (n - lo) by rw [← pow_add]; congr 1; omega, Nat.mod_mul_right_div_self]

/-! ## Words that are read back -/

/-- A word with opcode `u` and these operand bits, whatever its B bit, is read back as `i` (04 R75). -/
def ReadsAs (u body lend : Nat) (hdr : Bool) (i : Instr) : Prop :=
  u < 480 ∧ body < 4194304 ∧
    ∀ (w : Nat) (h : Bool), w / 4194304 % 512 = u → w % 4194304 = body → (hdr = true → h = true) → decodeWord w lend h = .ok i

section
variable {u l f n x y c d a b v : Nat} {hdr : Bool} {i : Instr}

theorem ReadsAs.ofR (H : ∀ w h, w / 4194304 % 512 = u → RFields w d a b f → decodeWord w l h = .ok i)
    (hu : Nat.blt u 480 = true := by rfl) (hd : d < 32 := by omega) (ha : a < 32 := by omega) (hb : b < 32 := by omega)
    (hf : f < 128 := by omega) : ReadsAs u (rB d a b f) l hdr i := by
  refine ⟨Nat.le_of_ble_eq_true hu, by unfold rB; omega, fun w h hop hb _ => H w h hop ?_⟩
  unfold rB at hb
  constructor <;> simp only [fld] <;> omega

theorem ReadsAs.ofI (H : ∀ w h, w / 4194304 % 512 = u → IFields w d a n → decodeWord w l h = .ok i)
    (hu : Nat.blt u 480 = true := by rfl) (hd : d < 32 := by omega) (ha : a < 32 := by omega) (hn : n < 4096 := by omega) :
    ReadsAs u (rB d a 0 0 + n) l hdr i := by
  refine ⟨Nat.le_of_ble_eq_true hu, by unfold rB; omega, fun w h hop hb _ => H w h hop ?_⟩
  unfold rB at hb
  constructor <;> simp only [fld] <;> omega

theorem ReadsAs.ofV (H : ∀ w h, w / 4194304 % 512 = u → VFields w d x y → (hdr = true → h = true) → decodeWord w l h = .ok i)
    (hu : Nat.blt u 480 = true := by rfl) (hd : d < 64 := by omega) (hx : x < 256 := by omega) (hy : y < 256 := by omega) :
    ReadsAs u (d * 65536 + x * 256 + y) l hdr i := by
  refine ⟨Nat.le_of_ble_eq_true hu, by omega, fun w h hop hb hh => H w h hop ?_ hh⟩
  constructor <;> simp only [fld] <;> omega

theorem ReadsAs.ofM (H : ∀ w h, w / 4194304 % 512 = u → MFields w v a n → decodeWord w l h = .ok i)
    (hu : Nat.blt u 480 = true := by rfl) (hv : v < 64 := by omega) (ha : a < 32 := by omega) (hn : n < 2048 := by omega) :
    ReadsAs u (mvB v a 0 + n) l hdr i := by
  refine ⟨Nat.le_of_ble_eq_true hu, by unfold mvB; omega, fun w h hop hb _ => H w h hop ?_⟩
  unfold mvB at hb
  constructor <;> simp only [fld] <;> omega

theorem ReadsAs.ofB (H : ∀ w h, w / 4194304 % 512 = u → BFields w c a n → decodeWord w l h = .ok i)
    (hu : Nat.blt u 480 = true := by rfl) (hc : c < 8 := by omega) (ha : a < 32 := by omega) (hn : n < 16384 := by omega) :
    ReadsAs u (c * 524288 + a * 16384 + n) l hdr i := by
  refine ⟨Nat.le_of_ble_eq_true hu, by omega, fun w h hop hb _ => H w h hop ?_⟩
  constructor <;> simp only [fld] <;> omega
end

theorem ok_congr {i j : Instr} (h : i = j) : (Except.ok i : Except Reason Instr) = .ok j := congrArg _ h

theorem widOk_of_inRange {i : Int} (h : inRange i 0 63 = true) : widOk 12 i = true := by
  simp only [widOk, inRange, Bool.and_eq_true, decide_eq_true_eq] at *
  omega

section
set_option maxRecDepth 2000

/-- The words of the scalar unit (04 R76, R77). -/
theorem readsAs_scalar {i : Instr} {x : WordInfo} (hx : i.info = some x) (hwf : i.wf = true) (hu : x.unit = 0) :
    ReadsAs x.uop x.body x.lend x.hdr i := by
  cases i with
  | nop | brkl =>
    cases hx
    refine ⟨by decide, by decide, fun w h hop hb _ => ?_⟩
    unfold decodeWord
    rw [hop]
    exact rsv_ok (by simp [hb]) rfl
  | add d a b | sub d a b | and d a b | or d a b | xor d a b | shl d a b | shr d a b | sra d a b | mul d a b | mulhs d a b | mulhu d a b
  | min d a b | max d a b | minu d a b | maxu d a b | seq d a b | slt d a b | sltu d a b | addw d a b =>
    cases hx
    refine .ofR fun w h hop F => ?_
    unfold decodeWord
    rw [hop]
    exact rsv_ok (by simp [F.hf]) (by rw [noLend_zero, r5_eq F.hd, r5_eq F.ha, r5_eq F.hb])
  | sel d a b c =>
    cases hx
    refine .ofR fun w h hop F => ?_
    have hc := fld_inside 0 5 F.hf (by decide)
    have hz := fld_inside 5 2 F.hf (by decide)
    unfold decodeWord
    rw [hop]
    exact rsv_ok (by rw [hz]; simp; omega) (by rw [noLend_zero, r5_eq F.hd, r5_eq F.ha, r5_eq F.hb, r5_eq (a := c) (by rw [hc]; omega)])
  | clz d a | popc d a =>
    cases hx
    refine .ofR fun w h hop F => ?_
    unfold decodeWord
    rw [hop]
    exact rsv_ok (by simp [F.hbf]) (by rw [noLend_zero, r5_eq F.hd, r5_eq F.ha])
  | extr d a pos len1 | insr d a pos len1 =>
    cases hx
    have hsum : pos.val + len1.val < 64 := of_decide_eq_true hwf
    dsimp only
    rw [Nat.add_assoc]
    refine .ofI fun w h hop F => ?_
    have hp : fld w 6 6 = pos := by rw [fld_inside 6 6 F.hn (by decide)]; omega
    have hl : fld w 0 6 = len1 := by rw [fld_inside 0 6 F.hn (by decide)]; omega
    unfold decodeWord
    rw [hop]
    exact rsv_ok (by rw [hp, hl]; simpa using hsum) (by rw [noLend_zero, r5_eq F.hd, r5_eq F.ha, r6_eq hp, r6_eq hl])
  | addi d a i | andi d a i | ori d a i | xori d a i | slti d a i =>
    cases hx
    have := lowF_lt 12 i
    refine .ofI fun w h hop F => ?_
    unfold decodeWord
    rw [hop]
    exact ok_congr (by rw [r5_eq F.hd, r5_eq F.ha, F.hn, wid_lowF_lendF (by decide) hwf])
  | shli d a i | shri d a i | srai d a i =>
    cases hx
    have hw : wid 12 (lowF 12 i) (lendF 12 i) = i := wid_lowF_lendF (by decide) (widOk_of_inRange hwf)
    have := lowF_lt 12 i
    refine .ofI fun w h hop F => ?_
    unfold decodeWord
    rw [hop]
    refine rsv_ok ?_ (by rw [r5_eq F.hd, r5_eq F.ha, F.hn, hw])
    rw [F.hn, hw]
    exact congrArg _ hwf
  | lui d i =>
    cases hx
    have := lowF_lt 12 i
    refine .ofI fun w h hop F => ?_
    unfold decodeWord
    rw [hop]
    exact rsv_ok (by simp [F.ha]) (by rw [r5_eq F.hd, F.hn, wid_lowF_lendF (by decide) hwf])
  | br c a o =>
    cases hx
    obtain ⟨hw, hc⟩ := Bool.and_eq_true_iff.mp hwf
    have := condCode_lt c
    have := lowF_lt 14 o
    refine .ofB fun w h hop F => ?_
    unfold decodeWord
    rw [hop, F.hc, condOf_condCode]
    refine rsv_ok ?_ (by rw [r5_eq F.ha, F.hn, wid_lowF_lendF (by decide) hw])
    rw [F.ha]
    simp at hc ⊢
    tauto
  | jmp o | call o =>
    cases hx
    have := lowF_lt 14 o
    refine .ofB (c := 6) (a := 0) fun w h hop F => ?_
    unfold decodeWord
    rw [hop]
    exact rsv_ok (by simp [F.hca]) (by rw [F.hn, wid_lowF_lendF (by decide) hwf])
  | jr a | callr a =>
    cases hx
    refine .ofR fun w h hop F => ?_
    unfold decodeWord
    rw [hop]
    exact rsv_ok (by simp [F.hd, F.hbf]) (by rw [noLend_zero, r5_eq F.ha])
  | loop a e =>
    cases hx
    have he : e < 2097152 := of_decide_eq_true hwf
    refine .ofI fun w h hop F => ?_
    unfold decodeWord
    rw [hop]
    exact rsv_ok (by simp [F.ha]) (by rw [r5_eq F.hd, F.hn]; congr 2; dsimp only; omega)
  | loopi n e =>
    cases hx
    have he : e < 2097152 := of_decide_eq_true hwf
    refine ⟨by dsimp only; omega, by dsimp only; omega, fun w h hop hb _ => ?_⟩
    dsimp only at hb
    have hn : Fin.ofNat 1024 (w / 4096) = n := Fin.ext (show w / 4096 % 1024 = n by omega)
    have hfin : fld w 0 12 + 4096 * (e / 4096 % 512) = e := by simp only [fld]; omega
    unfold decodeWord
    rw [hop]
    exact ok_congr (by rw [hn, hfin])
  | lidx d k =>
    cases hx
    refine .ofR fun w h hop F => ?_
    have hk : fld w 0 3 = k := by rw [fld_inside 0 3 F.hf (by decide)]; omega
    have hz : fld w 3 14 = 0 := by
      have := F.hab
      have := F.hf
      simp only [fld] at *
      omega
    unfold decodeWord
    rw [hop]
    exact rsv_ok (by simp [hz, hk]) (by rw [noLend_zero, r5_eq F.hd, hk]; simp)
  | msave d m | mpopc d m =>
    cases hx
    have := maskCode_lt m
    refine .ofR fun w h hop F => ?_
    have hm : fld w 0 1 = maskCode m := by rw [fld_inside 0 1 F.hf (by decide)]; omega
    have hz : fld w 1 16 = 0 := by
      have := F.hab
      have := F.hf
      simp only [fld] at *
      omega
    unfold decodeWord
    rw [hop]
    exact rsv_ok (by simp [hz]) (by rw [noLend_zero, r5_eq F.hd, maskOf_eq hm])
  | mrest m a | mset m a =>
    cases hx
    have := maskCode_lt m
    refine .ofR fun w h hop F => ?_
    have hm : fld w 0 1 = maskCode m := by rw [fld_inside 0 1 F.hf (by decide)]; omega
    have hz : fld w 1 11 = 0 := by
      have := F.hbf
      simp only [fld] at *
      omega
    unfold decodeWord
    rw [hop]
    exact rsv_ok (by simp [hz, F.hd]) (by rw [noLend_zero, r5_eq F.ha, maskOf_eq hm])
  | mand m y | mor m y | mandn m y =>
    cases hx
    have := maskCode_lt m
    have := y.code_lt
    have := y.regNum_lt
    refine .ofR fun w h hop F => ?_
    have hm : fld w 0 1 = maskCode m := by rw [fld_inside 0 1 F.hf (by decide)]; omega
    have hy : fld w 1 1 = y.code := by rw [fld_inside 1 1 F.hf (by decide)]; omega
    have hz : fld w 2 10 = 0 := by
      have := F.hbf
      simp only [fld] at *
      omega
    unfold decodeWord
    rw [hop]
    refine rsv_ok ?_ (by rw [noLend_zero, maskOf_eq hm, maskYOf_eq hy F.ha])
    rw [F.hd, hz, hy, F.ha]
    cases y <;> rfl
  | mcmv m =>
    cases hx
    have hlt := maskCode_lt m
    refine ⟨Nat.le_of_ble_eq_true rfl, lt_trans hlt (by decide), fun w h hop hb _ => ?_⟩
    dsimp only at hb
    have hm : fld w 0 1 = maskCode m := by simp only [fld]; omega
    have hz : fld w 1 21 = 0 := by simp only [fld]; omega
    unfold decodeWord
    rw [hop]
    exact rsv_ok (by simp [hz]) (by rw [noLend_zero, maskOf_eq hm])
  | rdsr d r | wrsr r d =>
    cases hx
    refine .ofI fun w h hop F => ?_
    have hr : Fin.ofNat 4096 w = r := Fin.ext (by simpa [fld] using F.hn)
    unfold decodeWord
    rw [hop]
    refine rsv_ok ?_ (by rw [noLend_zero, r5_eq F.hd, hr])
    rw [F.ha, F.hn]
    exact congrArg Bool.not hwf
  | ldc d z o =>
    cases hx
    have := ldcCode_lt z
    have := lowF_lt 12 o
    refine ⟨Nat.le_of_ble_eq_true rfl, by simp only [rB]; omega, fun w h hop hb _ => ?_⟩
    simp only [rB] at hb
    have hd : fld w 17 5 = d := by simp only [fld]; omega
    have hz : fld w 15 2 = ldcCode z := by simp only [fld]; omega
    have h0 : fld w 12 3 = 0 := by simp only [fld]; omega
    have ho : fld w 0 12 = lowF 12 o := by simp only [fld]; omega
    unfold decodeWord
    rw [hop, hz, ldcOf_ldcCode]
    exact rsv_ok (by simp [h0]) (by rw [r5_eq hd, ho, wid_lowF_lendF (by decide) hwf])
  | _ => cases hx <;> simp [WordInfo.unit] at hu
end

end Sys2Proof
end

section
/-! SUPPORT. Words of the vector unit are read back (04 R78). -/

namespace Sys2Proof

theorem vvB_row0 (d : Nat) (a : Sel) : vvB d a (.row 0) = d * 65536 + selCode a * 256 := Nat.add_zero _

theorem ReadsAs.ofV1 {u l d y : Nat} {a : Sel} {hdr : Bool} {i : Instr}
    (H : ∀ w h, w / 4194304 % 512 = u → VFields w d (selCode a) y → decodeWord w l h = .ok i)
    (hu : Nat.blt u 480 = true := by rfl) (hd : d < 64 := by omega) (hy : y < 256 := by omega) :
    ReadsAs u (vvB d a (.row 0) + y) l hdr i := by
  rw [vvB_row0]
  exact .ofV (fun w h hop F _ => H w h hop F) hu hd (selCode_lt a)

theorem ReadsAs.ofV0 {u l d y : Nat} {hdr : Bool} {i : Instr}
    (H : ∀ w h, w / 4194304 % 512 = u → VFields w d 0 y → decodeWord w l h = .ok i)
    (hu : Nat.blt u 480 = true := by rfl) (hd : d < 64 := by omega) (hy : y < 256 := by omega) :
    ReadsAs u (d * 65536 + y) l hdr i := by
  have := ReadsAs.ofV (x := 0) (hdr := hdr) (fun w h hop F _ => H w h hop F) hu hd
  rwa [Nat.zero_mul, Nat.add_zero] at this

/-- A scalar destination in the field of a row (04 R78). -/
theorem scalar_of_row {w : Nat} {d : Fin 32} (h : fld w 16 6 = d) : Fin.ofNat 32 (w / 65536) = d ∧ fld w 21 1 = 0 := by
  refine ⟨Fin.ext (show w / 65536 % 32 = d from ?_), ?_⟩ <;> simp only [fld] at * <;> omega

set_option maxRecDepth 2000 in
/-- The words of the vector unit (04 R78). -/
theorem readsAs_vector {i : Instr} {x : WordInfo} (hx : i.info = some x) (hwf : i.wf = true) (hu : x.unit = 1) :
    ReadsAs x.uop x.body x.lend x.hdr i := by
  cases i with
  | vaddI32 d a b | vsubI32 d a b | vmulI32 d a b | vmulhI32 d a b | vaddI16 d a b | vsubI16 d a b | vaddI8 d a b | vsubI8 d a b
  | vaddsI16 d a b | vsubsI16 d a b | vaddsI8 d a b | vsubsI8 d a b | vminI32 d a b | vmaxI32 d a b | vminuI32 d a b | vmaxuI32 d a b
  | vand d a b | vor d a b | vxor d a b | vshl d a b | vshr d a b | vsra d a b | vsel d a b | vfaddF32 d a b | vfsubF32 d a b
  | vfmulF32 d a b | vfmaF32 d a b | vfminF32 d a b | vfmaxF32 d a b | vfaddBf16 d a b | vfmulBf16 d a b | vfmaBf16 d a b
  | vfaddF16 d a b | vfmulF16 d a b | vfmaF16 d a b | vdqnt d a b | vperm d a b =>
    cases hx
    have := selCode_lt a
    have := selCode_lt b
    refine .ofV fun w h hop F _ => ?_
    unfold decodeWord
    rw [hop]
    exact (sel2_eq F.hx F.hy).trans (by rw [noLend_zero, r6_eq F.hd])
  | vcmpeqI32 a b | vcmpltI32 a b | vcmpltuI32 a b | vcmpeqF32 a b | vcmpltF32 a b | vcmpleF32 a b | vcmpunF32 a b =>
    cases hx
    have := selCode_lt a
    have := selCode_lt b
    refine .ofV fun w h hop F _ => ?_
    unfold decodeWord
    rw [hop]
    exact rsv_ok (by simp [F.hd]) (sel2_eq F.hx F.hy)
  | vlut3 d a b n | vfshl d a b n | vfshr d a b n =>
    cases hx
    have := selCode_lt a
    have := selCode_lt b
    refine .ofV fun w h hop F hh => ?_
    unfold decodeWord
    rw [hop]
    exact (sel2_eq F.hx F.hy).trans (hdrOk_ok (by simp [hh rfl]) (by rw [r6_eq F.hd]; simp))
  | vqnt t d a b =>
    cases hx
    have := selCode_lt a
    have := selCode_lt b
    refine .ofV fun w h hop F hh => ?_
    unfold decodeWord
    rw [hop]
    refine (sel2_eq F.hx F.hy).trans ?_
    rw [hh rfl, qfmtOf_qfmtCode, r6_eq F.hd]
  | vcvt d a code part rm =>
    cases hx
    obtain ⟨hparts, hrm⟩ := Bool.and_eq_true_iff.mp hwf
    have := cvtCode_lt code
    have hbif : (bif rm then 128 else 0) = rm.toNat * 128 := by cases rm <;> rfl
    have := Bool.toNat_lt rm
    dsimp only
    rw [hbif, Nat.add_assoc, Nat.add_assoc]
    refine .ofV1 fun w h hop F => ?_
    have hc : fld w 0 5 = cvtCode code := by rw [fld_inside 0 5 F.hy (by decide)]; omega
    have hp : fld w 5 2 = part := by rw [fld_inside 5 2 F.hy (by decide)]; omega
    have hr : fld w 7 1 = rm.toNat := by rw [fld_inside 7 1 F.hy (by decide)]; omega
    have hpart : Fin.ofNat 4 (w / 32) = part := Fin.ext hp
    unfold decodeWord
    rw [hop, hc, cvtOf_cvtCode]
    refine rsv_ok ?_ ((sel1_eq F.hx).trans (by rw [noLend_zero, r6_eq F.hd, hpart, hr]; cases rm <;> rfl))
    rw [hp, hr, decide_eq_false (Nat.not_le.mpr (of_decide_eq_true hparts))]
    revert hrm
    cases code.widening <;> cases rm <;> decide
  | vbmax d a | vclz d a | vmov d a =>
    cases hx
    rw [← Nat.add_zero (WordInfo.body _)]
    refine .ofV1 fun w h hop F => ?_
    unfold decodeWord
    rw [hop]
    exact rsv_ok (by simp [F.hy]) ((sel1_eq F.hx).trans (by rw [noLend_zero, r6_eq F.hd]))
  | vrcp d a f | vrsq d a f | vsqrt d a f | vexp2 d a f | vlog2 d a f | vsinpi d a f | vcospi d a f | vtanh d a f =>
    cases hx
    have := sfCode_lt f
    refine .ofV1 fun w h hop F => ?_
    unfold decodeWord
    rw [hop, F.hy, sfOf_sfCode]
    exact (sel1_eq F.hx).trans (by rw [noLend_zero, r6_eq F.hd])
  | vrot d a b =>
    cases hx
    refine .ofV1 fun w h hop F => ?_
    have hz : fld w 0 3 = 0 := by rw [fld_inside 0 3 F.hy (by decide)]; omega
    have hb : fld w 3 5 = b := by rw [fld_inside 3 5 F.hy (by decide)]; omega
    unfold decodeWord
    rw [hop]
    exact rsv_ok (by simp [hz]) ((sel1_eq F.hx).trans (by rw [noLend_zero, r6_eq F.hd, r5_eq hb]))
  | vbcst z d b =>
    cases hx
    have := bcCode_lt z
    dsimp only
    rw [Nat.add_assoc]
    refine .ofV0 fun w h hop F => ?_
    have hz : fld w 0 3 = bcCode z := by rw [fld_inside 0 3 F.hy (by decide)]; omega
    have hb : fld w 3 5 = b := by rw [fld_inside 3 5 F.hy (by decide)]; omega
    unfold decodeWord
    rw [hop, hz, bcOf_bcCode]
    exact rsv_ok (by simp [F.hx]) (by rw [noLend_zero, r6_eq F.hd, r5_eq hb])
  | vext sx d a b =>
    cases hx
    have hbif : (bif sx then 1 else 0) = sx.toNat := by cases sx <;> rfl
    have := Bool.toNat_lt sx
    dsimp only
    rw [hbif, Nat.add_assoc]
    refine .ofV1 fun w h hop F => ?_
    obtain ⟨hd, h21⟩ := scalar_of_row F.hd
    have hs : fld w 0 1 = sx.toNat := by rw [fld_inside 0 1 F.hy (by decide)]; omega
    have hz : fld w 1 2 = 0 := by rw [fld_inside 1 2 F.hy (by decide)]; omega
    have hb : fld w 3 5 = b := by rw [fld_inside 3 5 F.hy (by decide)]; omega
    unfold decodeWord
    rw [hop]
    exact rsv_ok (by simp [hz, h21]) ((sel1_eq F.hx).trans (by rw [noLend_zero, hd, r5_eq hb, hs]; cases sx <;> rfl))
  | vins d b k =>
    cases hx
    refine .ofV fun w h hop F _ => ?_
    have hz : fld w 0 3 = 0 := by rw [fld_inside 0 3 F.hy (by decide)]; omega
    have hb : fld w 3 5 = b := by rw [fld_inside 3 5 F.hy (by decide)]; omega
    obtain ⟨hk, h14⟩ : fld w 8 6 = k ∧ fld w 14 2 = 0 := by
      have := F.hx
      simp only [fld] at *
      omega
    unfold decodeWord
    rw [hop]
    exact rsv_ok (by simp [hz, h14]) (by rw [noLend_zero, r6_eq F.hd, r5_eq hb, r6_eq hk])
  | vred op d a =>
    cases hx
    have := redCode_lt op
    refine .ofV1 fun w h hop F => ?_
    obtain ⟨hd, h21⟩ := scalar_of_row F.hd
    have hz : fld w 3 5 = 0 := by rw [fld_inside 3 5 F.hy (by decide)]; omega
    have hr : fld w 0 3 = redCode op := by rw [fld_inside 0 3 F.hy (by decide)]; omega
    unfold decodeWord
    rw [hop]
    exact rsv_ok (by simp [hz, h21]) ((sel1_eq F.hx).trans (by rw [noLend_zero, redOf_eq hr, hd]))
  | vpopc d a =>
    cases hx
    rw [← Nat.add_zero (WordInfo.body _)]
    refine .ofV1 fun w h hop F => ?_
    obtain ⟨hd, h21⟩ := scalar_of_row F.hd
    unfold decodeWord
    rw [hop]
    exact rsv_ok (by simp [F.hy, h21]) ((sel1_eq F.hx).trans (by rw [noLend_zero, hd]))
  | viota cm d =>
    cases hx
    have hbif : (bif cm then 1 else 0) = cm.toNat := by cases cm <;> rfl
    have := Bool.toNat_lt cm
    dsimp only
    rw [hbif]
    refine .ofV0 fun w h hop F => ?_
    have hc : fld w 0 1 = cm.toNat := by rw [fld_inside 0 1 F.hy (by decide)]; omega
    have hz : fld w 1 15 = 0 := by
      have := F.hx
      have := F.hy
      simp only [fld] at *
      omega
    unfold decodeWord
    rw [hop]
    exact rsv_ok (by simp [hz]) (by rw [noLend_zero, r6_eq F.hd, hc]; cases cm <;> rfl)
  | vaddiI32 d a n | vandi d a n =>
    cases hx
    refine .ofV1 (hy := n.isLt) fun w h hop F => ?_
    have hn : BitVec.ofNat 8 w = n := BitVec.eq_of_toNat_eq (by simpa [fld] using F.hy)
    unfold decodeWord
    rw [hop]
    exact (sel1_eq F.hx).trans (by rw [noLend_zero, r6_eq F.hd, hn])
  | vshli d a n | vshri d a n | vsrai d a n =>
    cases hx
    refine .ofV1 fun w h hop F => ?_
    have hz : fld w 5 3 = 0 := by rw [fld_inside 5 3 F.hy (by decide)]; omega
    have hn : fld w 0 5 = n := by rw [fld_inside 0 5 F.hy (by decide)]; omega
    unfold decodeWord
    rw [hop]
    exact rsv_ok (by simp [hz]) ((sel1_eq F.hx).trans (by rw [noLend_zero, r6_eq F.hd, r5_eq hn]))
  | vmovi d n =>
    cases hx
    refine .ofV0 (hy := n.isLt) fun w h hop F => ?_
    have hn : BitVec.ofNat 8 w = n := BitVec.eq_of_toNat_eq (by simpa [fld] using F.hy)
    unfold decodeWord
    rw [hop]
    exact rsv_ok (by simp [F.hx]) (by rw [noLend_zero, r6_eq F.hd, hn])
  | _ => cases hx <;> simp [WordInfo.unit] at hu

end Sys2Proof
end

section
/-! SUPPORT. Words of the memory unit and of the engine unit are read back (04 R78, 11 R241). -/

namespace Sys2Proof

open Sys2Proof.Claims

theorem mvB_add (v a q n : Nat) : mvB v a q + n = mvB v a 0 + (q * 512 + n) := by
  unfold mvB
  omega

set_option maxRecDepth 2000 in
/-- The words of the memory unit (04 R78). -/
theorem readsAs_memory {i : Instr} {x : WordInfo} (hx : i.info = some x) (hwf : i.wf = true) (hu : x.unit = 2) :
    ReadsAs x.uop x.body x.lend x.hdr i := by
  cases i with
  | ldv q d a o =>
    cases hx
    have := qloadCode_lt q
    have := lowF_lt 9 o
    dsimp only
    rw [mvB_add]
    refine .ofM fun w h hop F => ?_
    have hq : fld w 9 2 = qloadCode q := by rw [fld_inside 9 2 F.hn (by decide)]; omega
    have ho : fld w 0 9 = lowF 9 o := by rw [fld_inside 0 9 F.hn (by decide)]; omega
    unfold decodeWord
    rw [hop, hq, qloadOf_qloadCode]
    exact ok_congr (by rw [r6_eq F.hv, r5_eq F.ha, ho, wid_lowF_lendF (by decide) hwf])
  | stv q d a o =>
    cases hx
    have := qstoreCode_lt q
    have := lowF_lt 9 o
    dsimp only
    rw [mvB_add]
    refine .ofM fun w h hop F => ?_
    have hq : fld w 9 2 = qstoreCode q := by rw [fld_inside 9 2 F.hn (by decide)]; omega
    have ho : fld w 0 9 = lowF 9 o := by rw [fld_inside 0 9 F.hn (by decide)]; omega
    unfold decodeWord
    rw [hop, hq, qstoreOf_qstoreCode]
    exact ok_congr (by rw [r6_eq F.hv, r5_eq F.ha, ho, wid_lowF_lendF (by decide) hwf])
  | ldsD q d a o | ldsW q d a o | ldsWu q d a o | ldsH q d a o | ldsB q d a o =>
    cases hx
    have := qloadCode_lt q
    have := lowF_lt 10 o
    dsimp only
    rw [Nat.add_assoc]
    refine .ofI fun w h hop F => ?_
    have hq : fld w 10 2 = qloadCode q := by rw [fld_inside 10 2 F.hn (by decide)]; omega
    have ho : fld w 0 10 = lowF 10 o := by rw [fld_inside 0 10 F.hn (by decide)]; omega
    unfold decodeWord
    rw [hop, hq, qloadOf_qloadCode]
    exact ok_congr (by rw [r5_eq F.hd, r5_eq F.ha, ho, wid_lowF_lendF (by decide) hwf])
  | stsD q d a o | stsW q d a o | stsH q d a o | stsB q d a o =>
    cases hx
    have := qstoreCode_lt q
    have := lowF_lt 10 o
    dsimp only
    rw [Nat.add_assoc]
    refine .ofI fun w h hop F => ?_
    have hq : fld w 10 2 = qstoreCode q := by rw [fld_inside 10 2 F.hn (by decide)]; omega
    have ho : fld w 0 10 = lowF 10 o := by rw [fld_inside 0 10 F.hn (by decide)]; omega
    unfold decodeWord
    rw [hop, hq, qstoreOf_qstoreCode]
    exact ok_congr (by rw [r5_eq F.hd, r5_eq F.ha, ho, wid_lowF_lendF (by decide) hwf])
  | ldvg d a y | stvs d a y =>
    cases hx
    refine .ofM fun w h hop F => ?_
    have hz : fld w 0 5 = 0 := by rw [fld_inside 0 5 F.hn (by decide)]; omega
    have hy : fld w 5 6 = y := by rw [fld_inside 5 6 F.hn (by decide)]; omega
    unfold decodeWord
    rw [hop]
    exact rsv_ok (by simp [hz]) (by rw [noLend_zero, r6_eq F.hv, r5_eq F.ha, r6_eq hy])
  | feset a o | feclr a o =>
    cases hx
    have := lowF_lt 10 o
    refine .ofI fun w h hop F => ?_
    have hz : fld w 10 2 = 0 := by rw [fld_inside 10 2 F.hn (by decide)]; omega
    have ho : fld w 0 10 = lowF 10 o := by rw [fld_inside 0 10 F.hn (by decide)]; omega
    unfold decodeWord
    rw [hop]
    exact rsv_ok (by simp [F.hd, hz]) (by rw [r5_eq F.ha, ho, wid_lowF_lendF (by decide) hwf])
  | fetest d a o =>
    cases hx
    have := lowF_lt 10 o
    refine .ofI fun w h hop F => ?_
    have hz : fld w 10 2 = 0 := by rw [fld_inside 10 2 F.hn (by decide)]; omega
    have ho : fld w 0 10 = lowF 10 o := by rw [fld_inside 0 10 F.hn (by decide)]; omega
    unfold decodeWord
    rw [hop]
    exact rsv_ok (by simp [hz]) (by rw [r5_eq F.hd, r5_eq F.ha, ho, wid_lowF_lendF (by decide) hwf])
  | ldgD f d a o | ldgW f d a o =>
    cases hx
    have hbif : (bif f then 2048 else 0) = f.toNat * 2048 := by cases f <;> rfl
    have := Bool.toNat_lt f
    have := lowF_lt 11 o
    dsimp only
    rw [hbif, Nat.add_assoc]
    refine .ofI fun w h hop F => ?_
    have hf : fld w 11 1 = f.toNat := by rw [fld_inside 11 1 F.hn (by decide)]; omega
    have ho : fld w 0 11 = lowF 11 o := by rw [fld_inside 0 11 F.hn (by decide)]; omega
    unfold decodeWord
    rw [hop]
    exact ok_congr (by rw [r5_eq F.hd, r5_eq F.ha, ho, wid_lowF_lendF (by decide) hwf, hf]; cases f <;> rfl)
  | ldgv f d a o =>
    cases hx
    have hbif : (bif f then 1024 else 0) = f.toNat * 1024 := by cases f <;> rfl
    have := Bool.toNat_lt f
    have := lowF_lt 10 o
    dsimp only
    rw [hbif, Nat.add_assoc]
    refine .ofM fun w h hop F => ?_
    have hf : fld w 10 1 = f.toNat := by rw [fld_inside 10 1 F.hn (by decide)]; omega
    have ho : fld w 0 10 = lowF 10 o := by rw [fld_inside 0 10 F.hn (by decide)]; omega
    unfold decodeWord
    rw [hop]
    exact ok_congr (by rw [r6_eq F.hv, r5_eq F.ha, ho, wid_lowF_lendF (by decide) hwf, hf]; cases f <;> rfl)
  | _ => cases hx <;> simp [WordInfo.unit] at hu

/-- A ring number in the field of a register (04 R78). -/
theorem ring_of_register {w : Nat} {q : Fin 8} (h : fld w 12 5 = q) : Fin.ofNat 8 (w / 4096) = q ∧ fld w 15 2 = 0 := by
  refine ⟨Fin.ext (show w / 4096 % 8 = q from ?_), ?_⟩ <;> simp only [fld] at * <;> omega

section
set_option maxRecDepth 2000

/-- The words of the engine unit (04 R78). -/
theorem readsAs_engine {i : Instr} {x : WordInfo} (hx : i.info = some x) (hwf : i.wf = true) (hn : Named i) (hu : 3 ≤ x.unit) :
    ReadsAs x.uop x.body x.lend x.hdr i := by
  cases i with
  | cpy l a b c h | cpys l a b c h | cpyaAddi32 l a b c h | cpyaAddi64 l a b c h | cpyaAddf l a b c h | cpyaMin l a b c h
  | cpyaMax l a b c h | cpyaOr l a b c h | cpyaAnd l a b c h | cpyaXor l a b c h | fopAdd l a b c h | fopBadd l a b c h
  | fopSwap l a b c h | puts l a b c h =>
    cases hx
    have := hndCode_lt h
    refine .ofR fun w _ hop F => ?_
    unfold decodeWord
    rw [hop]
    exact (withH_eq F.hf).trans ((copyLend_eq (by exact hwf)).trans (by rw [r5_eq F.hd, r5_eq F.ha, r5_eq F.hb]))
  | cpyz l a c h =>
    cases hx
    have := hndCode_lt h
    refine .ofR fun w _ hop F => ?_
    unfold decodeWord
    rw [hop]
    exact rsv_ok (by simp [F.ha]) ((withH_eq F.hf).trans ((copyLend_eq (by exact hwf)).trans (by rw [r5_eq F.hd, r5_eq F.hb])))
  | fopCas l a b h =>
    cases hx
    have := hndCode_lt h
    refine .ofR fun w _ hop F => ?_
    unfold decodeWord
    rw [hop]
    exact rsv_ok (by simp [F.hb]) ((withH_eq F.hf).trans ((copyLend_eq (by exact hwf)).trans (by rw [r5_eq F.hd, r5_eq F.ha])))
  | cpyq c | mxstat c =>
    cases hx
    refine .ofR fun w _ hop F => ?_
    unfold decodeWord
    rw [hop]
    exact rsv_ok (by simp [F.hda, F.hf]) (by rw [noLend_zero, r5_eq F.hb])
  | mxcfg n a b =>
    cases hx
    refine .ofR fun w _ hop F => ?_
    obtain ⟨h7, h8, h11⟩ : fld w 7 1 = 0 ∧ fld w 8 3 = n ∧ fld w 11 1 = 0 := by
      have := F.hb
      simp only [fld] at *
      omega
    have hn : Fin.ofNat 8 (w / 256) = n := Fin.ext h8
    unfold decodeWord
    rw [hop]
    exact rsv_ok (by simp [h7, h11, F.hf]) (by rw [noLend_zero, hn, r5_eq F.hd, r5_eq F.ha])
  | mxgo h =>
    cases hx
    have := hndCode_lt h
    refine .ofR fun w _ hop F => ?_
    unfold decodeWord
    rw [hop]
    exact rsv_ok (by simp [F.hdab]) (withH_eq F.hf)
  | mxwait a | scinv a | trap a =>
    cases hx
    refine .ofR fun w _ hop F => ?_
    unfold decodeWord
    rw [hop]
    exact rsv_ok (by simp [F.hab, F.hf]) (by rw [noLend_zero, r5_eq F.hd])
  | mxlease | mxleaseJoin | mxfree | mxfreeJoin | mxfreeClaim =>
    cases hx
    refine .ofR fun w _ hop F => ?_
    unfold decodeWord
    rw [hop, F.hb]
    exact rsv_ok (by simp [F.hda, F.hf]) rfl
  | mxld a b st h | mxst a b st h =>
    cases hx
    have := hndCode_lt h
    have hbif : (bif st then 1 else 0) = st.toNat := by cases st <;> rfl
    have := Bool.toNat_lt st
    dsimp only
    rw [hbif]
    refine .ofR fun w _ hop F => ?_
    obtain ⟨hs, h8⟩ : fld w 7 1 = st.toNat ∧ fld w 8 4 = 0 := by
      have := F.hb
      simp only [fld] at *
      omega
    unfold decodeWord
    rw [hop]
    exact rsv_ok (by simp [h8]) ((withH_eq F.hf).trans (by rw [noLend_zero, r5_eq F.hd, r5_eq F.ha, hs]; cases st <;> rfl))
  | mxz b st h =>
    cases hx
    have := hndCode_lt h
    have hbif : (bif st then 1 else 0) = st.toNat := by cases st <;> rfl
    have := Bool.toNat_lt st
    dsimp only
    rw [hbif]
    refine .ofR fun w _ hop F => ?_
    obtain ⟨hs, h8⟩ : fld w 7 1 = st.toNat ∧ fld w 8 4 = 0 := by
      have := F.hb
      simp only [fld] at *
      omega
    unfold decodeWord
    rw [hop]
    exact rsv_ok (by simp [h8, F.hd]) ((withH_eq F.hf).trans (by rw [noLend_zero, r5_eq F.ha, hs]; cases st <;> rfl))
  | ringset q a c =>
    cases hx
    refine .ofR fun w _ hop F => ?_
    obtain ⟨hq, h15⟩ := ring_of_register F.ha
    unfold decodeWord
    rw [hop]
    exact rsv_ok (by simp [h15, F.hf]) (by rw [noLend_zero, hq, r5_eq F.hd, r5_eq F.hb])
  | ringpush q a =>
    cases hx
    refine .ofR fun w _ hop F => ?_
    obtain ⟨hq, h15⟩ := ring_of_register F.ha
    unfold decodeWord
    rw [hop]
    exact rsv_ok (by simp [h15, F.hb, F.hf]) (by rw [noLend_zero, hq, r5_eq F.hd])
  | ringstat c q =>
    cases hx
    refine .ofR fun w _ hop F => ?_
    obtain ⟨hq, h15⟩ := ring_of_register F.ha
    have h15' : fld w 15 7 = 0 := by
      have := F.hd
      simp only [fld] at *
      omega
    unfold decodeWord
    rw [hop]
    exact rsv_ok (by simp [h15', F.hf]) (by rw [noLend_zero, hq, r5_eq F.hb])
  | sctab a b c | launch c a b | smc c a b | wstat c a b =>
    cases hx
    refine .ofR fun w _ hop F => ?_
    unfold decodeWord
    rw [hop]
    exact rsv_ok (by simp [F.hf]) (by rw [noLend_zero, r5_eq F.hd, r5_eq F.ha, r5_eq F.hb])
  | phbind c a h | coll c a h =>
    cases hx
    refine .ofR fun w _ hop F => ?_
    unfold decodeWord
    rw [hop]
    exact rsv_ok (by simp [F.ha]) ((withHReq_eq F.hf).trans (by rw [noLend_zero, r5_eq F.hd, r5_eq F.hb]))
  | phreg m h =>
    cases hx
    have := regModeCode_lt m
    refine .ofR fun w _ hop F => ?_
    obtain ⟨hm, h9⟩ : fld w 7 2 = regModeCode m ∧ fld w 9 13 = 0 := by
      have := F.hdab
      simp only [fld] at *
      omega
    unfold decodeWord
    rw [hop, hm, regModeOf_regModeCode]
    exact rsv_ok (by simp [h9]) (withHReq_eq F.hf)
  | phdrop h =>
    cases hx
    refine .ofR fun w _ hop F => ?_
    unfold decodeWord
    rw [hop]
    exact rsv_ok (by simp [F.hdab]) (withHReq_eq F.hf)
  | phsig p h | phwait p h | phnext p h =>
    cases hx
    have := scopeCode_lt p
    refine .ofR fun w _ hop F => ?_
    obtain ⟨hp, h10⟩ : fld w 7 3 = scopeCode p ∧ fld w 10 12 = 0 := by
      have := F.hdab
      simp only [fld] at *
      omega
    unfold decodeWord
    rw [hop, hp, scopeOf_scopeCode]
    exact rsv_ok (by simp [h10]) (withHReq_eq F.hf)
  | phadd p h a =>
    cases hx
    have := scopeCode_lt p
    refine .ofR fun w _ hop F => ?_
    obtain ⟨hp, h10⟩ : fld w 7 3 = scopeCode p ∧ fld w 10 7 = 0 := by
      have := F.hab
      simp only [fld] at *
      omega
    unfold decodeWord
    rw [hop, hp, scopeOf_scopeCode]
    exact rsv_ok (by simp [h10]) ((withHReq_eq F.hf).trans (by rw [noLend_zero, r5_eq F.hd]))
  | phtest c h =>
    cases hx
    refine .ofR fun w _ hop F => ?_
    unfold decodeWord
    rw [hop]
    exact rsv_ok (by simp [F.hda]) ((withHReq_eq F.hf).trans (by rw [noLend_zero, r5_eq F.hb]))
  | bwreq c a b h | ctxctlHalt c a b h =>
    cases hx
    have := hndCode_lt h
    refine .ofR fun w _ hop F => ?_
    unfold decodeWord
    rw [hop]
    exact (withH_eq F.hf).trans (by rw [noLend_zero, r5_eq F.hd, r5_eq F.ha, r5_eq F.hb])
  | bwrel a h =>
    cases hx
    have := hndCode_lt h
    refine .ofR fun w _ hop F => ?_
    unfold decodeWord
    rw [hop]
    exact rsv_ok (by simp [F.hab]) ((withH_eq F.hf).trans (by rw [noLend_zero, r5_eq F.hd]))
  | bwqry c a | fabst c a | collq c a =>
    cases hx
    refine .ofR fun w _ hop F => ?_
    unfold decodeWord
    rw [hop]
    exact rsv_ok (by simp [F.ha, F.hf]) (by rw [noLend_zero, r5_eq F.hd, r5_eq F.hb])
  | rels a b =>
    cases hx
    refine .ofR fun w _ hop F => ?_
    unfold decodeWord
    rw [hop]
    exact rsv_ok (by simp [F.hb, F.hf]) (by rw [noLend_zero, r5_eq F.hd, r5_eq F.ha])
  | lrset c a h | waitev c a h =>
    cases hx
    have := hndCode_lt h
    refine .ofR fun w _ hop F => ?_
    unfold decodeWord
    rw [hop]
    exact rsv_ok (by simp [F.ha]) ((withH_eq F.hf).trans (by rw [noLend_zero, r5_eq F.hd, r5_eq F.hb]))
  | decpl | rejn | fetchb | halt | eret | brk | yield =>
    cases hx
    refine .ofR fun w _ hop F => ?_
    unfold decodeWord
    rw [hop]
    exact rsv_ok (by simp [F.hdab, F.hf]) rfl
  | fence p =>
    cases hx
    have := scopeCode_lt p
    refine ⟨Nat.le_of_ble_eq_true rfl, by dsimp only; omega, fun w _ hop hb _ => ?_⟩
    dsimp only at hb
    obtain ⟨hp, h12, h7, h0⟩ : fld w 9 3 = scopeCode p ∧ fld w 12 10 = 0 ∧ fld w 7 2 = 0 ∧ fld w 0 7 = 127 := by
      simp only [fld]
      omega
    unfold decodeWord
    rw [hop, hp, scopeOf_scopeCode]
    exact rsv_ok (by simp [h12, h7, h0]) rfl
  | icinv p a b | tlbinv p a b =>
    cases hx
    have := scopeCode_lt p
    dsimp only
    rw [Nat.add_assoc]
    refine .ofI fun w _ hop F => ?_
    have hp : fld w 9 3 = scopeCode p := by rw [fld_inside 9 3 F.hn (by decide)]; omega
    have h7 : fld w 7 2 = 0 := by rw [fld_inside 7 2 F.hn (by decide)]; omega
    have h0 : fld w 0 7 = 127 := by rw [fld_inside 0 7 F.hn (by decide)]; omega
    unfold decodeWord
    rw [hop, hp, scopeOf_scopeCode]
    exact rsv_ok (by simpa using bne_iff_ne.mp hwf) (rsv_ok (by simp [h7, h0]) (by rw [noLend_zero, r5_eq F.hd, r5_eq F.ha]))
  | ctxctlFlush | ctxctlRestart | ctxctlResume | ctxctlWake => exact hn.elim
  | _ => cases hx <;> simp [WordInfo.unit] at hu
end

end Sys2Proof
end

section
/-! SUPPORT. A bundle of one word, alone or behind a header, is decoded to the instruction it encodes (04 R69, R79, R81), and the words that
the spec writes out. -/

namespace Sys2Proof

open Sys2Proof.Claims

/-- The decoder reads each encoded word back from its opcode and operand bits (04 R75 to R80). -/
theorem readsAs_of_info {i : Instr} {x : WordInfo} (hx : i.info = some x) (hwf : i.wf = true) (hn : Named i) :
    ReadsAs x.uop x.body x.lend x.hdr i := by
  by_cases h0 : x.unit = 0
  · exact readsAs_scalar hx hwf h0
  by_cases h1 : x.unit = 1
  · exact readsAs_vector hx hwf h1
  by_cases h2 : x.unit = 2
  · exact readsAs_memory hx hwf h2
  · exact readsAs_engine hx hwf hn (by omega)

/-- A lend has nine bits (04 R79). -/
theorem lend_lt {i : Instr} {x : WordInfo} (hx : i.info = some x) : x.lend < 512 := by
  cases i with
  | addi _ _ o | andi _ _ o | ori _ _ o | xori _ _ o | shli _ _ o | shri _ _ o | srai _ _ o | slti _ _ o | lui _ o | br _ _ o | jmp o | call o
  | ldc _ _ o | ldv _ _ _ o | stv _ _ _ o | ldsD _ _ _ o | ldsW _ _ _ o | ldsWu _ _ _ o | ldsH _ _ _ o | ldsB _ _ _ o | stsD _ _ _ o
  | stsW _ _ _ o | stsH _ _ _ o | stsB _ _ _ o | feset _ o | feclr _ o | fetest _ _ o | ldgD _ _ _ o | ldgW _ _ _ o | ldgv _ _ _ o =>
    cases hx
    exact lendF_lt _ o
  | loop _ e | loopi _ e =>
    cases hx
    exact Nat.mod_lt _ (by decide)
  | vlut3 _ _ _ n | vfshl _ _ _ n | vfshr _ _ _ n =>
    cases hx
    exact n.isLt.trans_le (by decide)
  | vqnt t =>
    cases hx
    exact (qfmtCode_lt t).trans (by decide)
  | cpy l | cpys l | cpyz l | cpyaAddi32 l | cpyaAddi64 l | cpyaAddf l | cpyaMin l | cpyaMax l | cpyaOr l | cpyaAnd l | cpyaXor l | fopAdd l
  | fopBadd l | fopSwap l | fopCas l | puts l =>
    cases hx
    exact l.code_lt
  | _ => cases hx <;> exact Nat.zero_lt_succ 511

/-- The first word of a bundle, for a kernel with every handle and ring, fails only the view check (04 R81, R33). -/
theorem composeCheck_first {x : WordInfo} (hs : selsBad x.sels = false) : composeCheck 0 96 8 [] x = none := by
  have hunit : ¬(if x.unit = 1 then 2 else 1) ≤ 0 := by split <;> decide
  unfold composeCheck
  rcases x.hnd with _ | h <;> rcases x.ring with _ | q <;> simp [hs, hunit]

theorem decodeItem_word {i : Instr} {x : WordInfo} {n w : Nat} {h : Bool} (hx : i.info = some x)
    (hr : ReadsAs x.uop x.body x.lend x.hdr i) (hs : selsBad x.sels = false) (he : ∀ e, x.endOff = some e → n ≤ e)
    (hw : w % 2147483648 = x.word) (hh : x.hdr = true → h = true) : decodeItem 0 96 8 n [] w x.lend h = .ok (i, x) := by
  obtain ⟨hu, hb, hdec⟩ := hr
  unfold WordInfo.word at hw
  have hhead : w / 134217728 % 16 ≠ 15 := by omega
  unfold decodeItem
  rw [if_neg hhead, hdec w h (by omega) (by omega) hh]
  simp only [hx, composeCheck_first hs]
  cases hend : x.endOff with
  | none => rfl
  | some e => exact if_neg (Nat.not_lt.mpr (he e hend))

theorem decodeBundle_alone {i : Instr} {x : WordInfo} {w : Nat} (hx : i.info = some x) (hr : ReadsAs x.uop x.body x.lend x.hdr i)
    (hs : selsBad x.sels = false) (he : ∀ e, x.endOff = some e → 1 ≤ e) (hl : x.lend = 0) (hh : x.hdr = false)
    (hw : w % 2147483648 = x.word) : decodeBundle 0 96 8 [w] = .ok ⟨[w], [i]⟩ := by
  have hitem := decodeItem_word (h := false) hx hr hs he hw (by simp [hh])
  have hhead : w / 134217728 % 16 ≠ 15 := by
    obtain ⟨hu, hb, -⟩ := hr
    unfold WordInfo.word at hw
    omega
  rw [hl] at hitem
  simp [decodeBundle, hhead, withLends, decodeItems, hitem]

theorem decodeBundle_header {i : Instr} {x : WordInfo} (hx : i.info = some x) (hr : ReadsAs x.uop x.body x.lend x.hdr i)
    (hs : selsBad x.sels = false) (he : ∀ e, x.endOff = some e → 2 ≤ e) (hl : x.lend < 512) :
    decodeBundle 0 96 8 [4160749568 + x.lend * 262144, x.word] = .ok ⟨[4160749568 + x.lend * 262144, x.word], [i]⟩ := by
  have hitem := decodeItem_word (h := true) hx hr hs he (Nat.mod_eq_of_lt (by obtain ⟨hu, hb, -⟩ := hr; unfold WordInfo.word; omega)) (fun _ => rfl)
  have hhead : (4160749568 + x.lend * 262144) / 134217728 % 16 = 15 := by omega
  have hlends : lends (4160749568 + x.lend * 262144) = [x.lend, 0, 0] := by
    simp only [lends, fld, List.cons.injEq, and_true]
    omega
  simp [decodeBundle, hhead, hlends, withLends, decodeItems, hitem]

end Sys2Proof

namespace Sys2Proof.Claims

/-- Settles O58: the decoder reads each encoded word back from its opcode and operand bits, and a word that is alone, or behind a header
that lends to it alone, passes the checks of a bundle. -/
theorem encodeDecodes : Obligations.EncodeDecodes := by
  intro i x hx hwf hn hs he
  have hr := readsAs_of_info hx hwf hn
  have henc : encode i = if x.lend = 0 ∧ x.hdr = false then [2147483648 + x.word] else [4160749568 + x.lend * 262144, x.word] := by
    unfold encode
    rw [hx]
  rw [henc] at he ⊢
  split
  · next h =>
    simp only [if_pos h] at he
    exact decodeBundle_alone hx hr hs he h.1 h.2 (by obtain ⟨hu, hb, -⟩ := hr; unfold WordInfo.word; omega)
  · next h =>
    simp only [if_neg h] at he
    exact decodeBundle_header hx hr hs he (lend_lt hx)

/-- Settles O57: each word or bundle is closed, and the decoder is evaluated on it. -/
theorem wordsDecode : Obligations.WordsDecode := by
  refine ⟨by decide, by decide, by decide, by decide, by decide, by decide, by decide, by decide, by decide, by decide, by decide, by decide,
    rfl, rfl, rfl, rfl, rfl⟩

end Sys2Proof.Claims
end

section
/-! SUPPORT. What the issue of a bundle of one word leaves of the context: what the word has built, but for the place where the program goes
on, the fetch buffer, the model's latches and the commit signature (05 R107; 06 R121). -/

open Sys2Proof.Claims

namespace Sys2Proof.Machine

@[simp] theorem State.iss_s (s : State) (x : Nat) : (s.iss x).s = s := rfl
@[simp] theorem State.iss_x (s : State) (x : Nat) : (s.iss x).x = x := rfl

/-- `c` differs from `d` in what belongs to the issue of a bundle only. -/
def Ctx.IssuedAs (c d : Ctx) : Prop := d = c.issued d

/-- The word has taken no tag and has left RSDCTR and the place of its bundle alone. -/
structure Out.InPlace (s : State) (o : Out) : Prop where
  tags : o.tags = 0
  wrRsd : o.wrRsd = none
  rsdctr : o.c.rsdctr = s.me.rsdctr
  pc : o.c.pc = s.me.pc
  loops : o.c.loops = s.me.loops
  bsucc : o.c.bsucc = s.me.bsucc

theorem Out.InPlace.rsdAfter {s : State} {o : Out} (h : o.InPlace s) : rsdAfter (s.iss s.cur) o = o.c.rsdctr := by
  unfold Machine.rsdAfter
  rw [h.tags, h.wrRsd, h.rsdctr]
  exact BitVec.add_zero _

theorem Out.InPlace.sealed {s : State} {o : Out} (h : o.InPlace s) (at_ : Bool) : o.c.IssuedAs (o.sealed s at_) := by
  unfold Ctx.IssuedAs Out.sealed Ctx.sign
  rw [h.rsdAfter]
  split <;> rfl

/-- The place of the bundle as the word leaves it. -/
theorem Out.sealed_place (s : State) (o : Out) (at_ : Bool) :
    (o.sealed s at_).pc = o.c.pc ∧ (o.sealed s at_).loops = o.c.loops ∧ (o.sealed s at_).bsucc = o.c.bsucc ∧ (o.sealed s at_).fbuf = o.c.fbuf ∧
      (o.sealed s at_).occ = o.c.occ := by
  unfold Out.sealed Ctx.sign
  split <;> exact ⟨rfl, rfl, rfl, rfl, rfl⟩

/-- EndOf looks at the pc, the loop stack and the sequential successor only. -/
theorem Ctx.endSeq_place {c d : Ctx} (hpc : d.pc = c.pc) (hl : d.loops = c.loops) (hs : d.bsucc = c.bsucc) :
    d.endSeq.pc = c.endSeq.pc ∧ d.endSeq.loops = c.endSeq.loops := by
  unfold Ctx.endSeq
  rw [hpc, hl]
  split <;> simp [Ctx.goto, hs]

theorem Ctx.IssuedAs.endSeq {c d : Ctx} (h : c.IssuedAs d) : c.IssuedAs d.endSeq := by
  unfold Ctx.IssuedAs Ctx.endSeq at *
  rw [h]
  split <;> rfl

/-- An empty fetch buffer stays empty where EndOf returns to a loop start. -/
theorem Ctx.endSeq_fbuf_nil {c : Ctx} (h : c.fbuf = []) : c.endSeq.fbuf = [] := by
  unfold Ctx.endSeq
  split
  · simp [Ctx.goto, h]
  · exact h

/-- A word that has been performed in place and goes on in sequence: the context is what the word has built, and the rest of the state
is what it has left. -/
theorem issueWords_goesOn {e : Eff} {s : State} {o : Out} (h : e (s.iss s.cur) s.out0 = .ok o) (hn : o.next = .seq) (hp : o.InPlace s)
    (hcur : o.s.cur = s.cur) :
    ∃ c, issueWords [e] s = .next (o.s.setCtx s.cur c).draw ∧ GoesOn s (o.s.setCtx s.cur c).draw ∧ (o.s.setCtx s.cur c).draw.me = c ∧
      o.c.IssuedAs c ∧ (o.c.fbuf = [] → c.fbuf = []) := by
  have hme : ∀ c : Ctx, (o.s.setCtx s.cur c).draw.me = c := fun c => by
    rw [State.me, State.draw_ctx, State.draw_cur, State.setCtx_cur, hcur, State.ctx_setCtx_self]
  obtain ⟨hpc, hloops, hsucc, hfbuf, -⟩ := o.sealed_place s (o.c.atEnd s.me.pc)
  refine ⟨_, issueWords_seq h hn, ?_, hme _, (hp.sealed _).endSeq, fun hnil => Ctx.endSeq_fbuf_nil (hfbuf.trans hnil)⟩
  rw [GoesOn, hme]
  exact Ctx.endSeq_place (hpc.trans hp.pc) (hloops.trans hp.loops) (hsucc.trans hp.bsucc)

/-- A new context for the executing one, and a free value drawn: nothing else changes. -/
theorem State.onlyMe_setCtx (s : State) (c : Ctx) : OnlyMe s (s.setCtx s.cur c).draw :=
  ⟨rfl, fun y hy => by rw [State.draw_ctx, State.ctx_setCtx_of_ne _ _ hy], fun _ => rfl⟩

/-- A fetch, and a new context for the executing one. -/
theorem Fetches.onlyFetch {s u : State} (h : Fetches s u) (c : Ctx) : OnlyFetch s (u.setCtx s.cur c) := by
  refine ⟨?_, fun y hy => by rw [State.ctx_setCtx_of_ne _ _ hy, h.ctx], h.core, fun a => by simp only [State.byte, State.setCtx_mem, h.mem]⟩
  rw [h.state]; rfl

theorem OnlyFetch.draw {s t : State} (h : OnlyFetch s t) : OnlyFetch s t.draw :=
  ⟨congrArg (fun u : State => ({ u with nfree := t.draw.nfree } : State)) h.1, h.2⟩

/-- A word that leaves the state outside its context alone. -/
theorem leavesMe_of_eff {e : Eff} {i : Instr} {s : State} {o : Out} (hi : exec i s = issueWords [e] s)
    (h : e (s.iss s.cur) s.out0 = .ok o) (hn : o.next = .seq) (hp : o.InPlace s) (hs : o.s = s) : LeavesMe i s o.c := by
  obtain ⟨c, ht, hgo, hme, hc, -⟩ := issueWords_goesOn h hn hp (by rw [hs])
  rw [hs] at ht hgo hme
  exact ⟨_, hi.trans ht, hgo, s.onlyMe_setCtx c, hme.symm ▸ hc⟩

end Sys2Proof.Machine
end

section
/-! SUPPORT. What landings change: registers, masks, flags and the stream of signatures of one context, and, for a CHECK primary, what its
checker has still to take (05 R95, R106). -/

open Sys2Proof.Claims

namespace Sys2Proof.Machine

/-- The context `d` is `c` after landings. -/
def Ctx.LandsTo (c d : Ctx) : Prop :=
  d = { c with s := d.s, v := d.v, cm := d.cm, arith := d.arith, flight := d.flight, sigs := d.sigs, mirv := d.mirv } ∧
    (c.flight = [] → d.flight = [])

theorem Ctx.LandsTo.refl (c : Ctx) : c.LandsTo c := ⟨rfl, id⟩

theorem Ctx.LandsTo.trans {c d e : Ctx} (h : c.LandsTo d) (g : d.LandsTo e) : c.LandsTo e := by
  refine ⟨?_, fun hf => g.2 (h.2 hf)⟩
  rw [g.1, h.1]

theorem Ctx.landsTo_land (c : Ctx) (f : Flight) : c.LandsTo (c.land f) := by
  unfold Ctx.land
  dsimp only
  split
  · split <;> exact ⟨rfl, id⟩
  · exact ⟨rfl, id⟩
  · exact ⟨rfl, id⟩

theorem Ctx.landsTo_cut (c : Ctx) (v : FVal) (l : W64) : c.LandsTo { c with flight := c.flight.map (·.cut v l) } :=
  ⟨rfl, fun h => by simp [h]⟩

theorem Ctx.landsTo_comes (c : Ctx) (v : FVal) (l : W64) (fl : Flags) : c.LandsTo (c.comes v l fl) :=
  (c.landsTo_cut v l).trans (Ctx.landsTo_land _ _)

theorem Ctx.landsTo_signed (c : Ctx) (v : FVal) : c.LandsTo (c.signed v) := ⟨rfl, id⟩

theorem Ctx.landsTo_foldl_land (fs : List Flight) (c : Ctx) : c.LandsTo (fs.foldl Ctx.land c) := by
  induction fs generalizing c with
  | nil => exact .refl c
  | cons f fs ih => exact (c.landsTo_land f).trans (ih _)

/-- After all results in flight have landed none is in flight. -/
theorem Ctx.landAll_flight (c : Ctx) : c.landAll.flight = [] := (Ctx.landsTo_foldl_land c.flight _).2 rfl

theorem Ctx.landsTo_landAll (c : Ctx) : c.LandsTo c.landAll := by
  have h := Ctx.landsTo_foldl_land c.flight { c with flight := [], sigs := c.sigs.map fun g => { g with left := 0 } }
  refine ⟨?_, fun _ => c.landAll_flight⟩
  unfold Ctx.landAll
  rw [h.1]

/-- The state `t` is `s` after landings in context `x`. -/
structure Lands (x : Nat) (s t : State) : Prop where
  rest : t = { s with ctxs := t.ctxs }
  other : ∀ y, y ≠ x → ((s.ctx x).gmode = 2 → (s.ctx x).gchk = false → y ≠ x + 2) → t.ctx y = s.ctx y
  self : (s.ctx x).LandsTo (t.ctx x)

theorem Lands.refl (x : Nat) (s : State) : Lands x s s := ⟨rfl, fun _ _ _ => rfl, .refl _⟩

theorem Lands.gang {x : Nat} {s t : State} (h : Lands x s t) : (t.ctx x).gmode = (s.ctx x).gmode ∧ (t.ctx x).gchk = (s.ctx x).gchk := by
  rw [h.self.1]
  exact ⟨rfl, rfl⟩

theorem Lands.trans {x : Nat} {s t u : State} (h : Lands x s t) (g : Lands x t u) : Lands x s u := by
  refine ⟨?_, fun y hy hg => ?_, h.self.trans g.self⟩
  · rw [g.rest, h.rest]
  · obtain ⟨hm, hc⟩ := h.gang
    rw [g.other y hy (by rw [hm, hc]; exact hg), h.other y hy hg]

theorem State.lands_setCtx (s : State) (x : Nat) (c : Ctx) (h : (s.ctx x).LandsTo c) : Lands x s (s.setCtx x c) :=
  ⟨rfl, fun y hy _ => State.ctx_setCtx_of_ne _ _ hy, by rwa [State.ctx_setCtx_self]⟩

variable (s : State) (x : Nat)

theorem State.lands_landVal (v : FVal) (l : W64) (fl : Flags) (alone : Bool) : Lands x s (s.landVal x v l fl alone) := by
  have h := s.lands_setCtx x _ (((s.ctx x).landsTo_comes v l fl).trans (Ctx.landsTo_signed _
    (match v with | .v n _ => .v n ((s.ctx x).comes v l fl).v[n] | v => v)))
  unfold State.landVal
  dsimp only
  split
  · rename_i hg
    obtain ⟨hm, hc, -⟩ := hg
    have hne : x ≠ x + 2 := by omega
    refine h.trans ⟨rfl, fun y hy hy2 => ?_, ?_⟩
    · have hy2 : y ≠ x + 2 := hy2 (h.gang.1.trans hm) (h.gang.2.trans hc)
      exact State.ctx_upCtx_of_ne _ _ hy2
    · rw [State.ctx_upCtx_of_ne _ _ hne]
      exact .refl _
  · exact h

theorem State.lands_landMirror (d : Dest) (em : W64) : Lands x s (s.landMirror x d em) := by
  unfold State.landMirror
  split
  · rename_i v _
    exact (s.lands_setCtx x { s.ctx x with mirv := (s.ctx x).mirv.erase v } ⟨rfl, id⟩).trans (State.lands_landVal _ x _ _ _ _)
  · exact .refl x s

theorem State.lands_landAnswers (ps : List Pend) : Lands x s (s.landAnswers x ps) := by
  induction ps generalizing s with
  | nil => exact .refl x s
  | cons p ps ih =>
    unfold State.landAnswers
    split
    · exact (s.lands_landVal x _ _ _ _).trans (ih _)
    · exact ih s

theorem State.lands_landMirrors (ps : List Pend) : Lands x s (s.landMirrors x ps) := by
  induction ps generalizing s with
  | nil => exact .refl x s
  | cons p ps ih =>
    unfold State.landMirrors
    split
    · exact (s.lands_landMirror x _ _).trans (ih _)
    · exact ih s

/-- What HALT lands before the context retires (06 R131). -/
theorem State.retireCtx_eq : ∃ u, Lands x s u ∧ (u.ctx x).flight = [] ∧ s.retireCtx x = u.upCtx x Ctx.retire := by
  have h1 := s.lands_setCtx x _ (s.ctx x).landsTo_landAll
  have h2 := State.lands_landAnswers (s.upCtx x Ctx.landAll) x ((s.upCtx x Ctx.landAll).ctx x).pends
  have hf : ((s.upCtx x Ctx.landAll).ctx x).flight = [] := by rw [State.ctx_upCtx_self]; exact Ctx.landAll_flight _
  have h3 := h2.trans (State.lands_landMirrors _ x (((s.upCtx x Ctx.landAll).landAnswers x ((s.upCtx x Ctx.landAll).ctx x).pends).ctx x).pends)
  exact ⟨_, h1.trans h3, h3.self.2 hf, rfl⟩

end Sys2Proof.Machine
end

section
/-! SUPPORT. NOP, YIELD, FETCHB and HALT (04 R69, R89; 05 R112; 06 R131). -/

open Sys2Proof.Machine

namespace Sys2Proof.Claims

theorem nop_leavesMe (s : State) : LeavesMe .nop s s.me :=
  leavesMe_of_eff (e := effNop) rfl rfl rfl ⟨rfl, rfl, rfl, rfl, rfl, rfl⟩ rfl

theorem yield_leavesMe (s : State) : LeavesMe .yield s { s.me with yielded := true } :=
  leavesMe_of_eff (e := effYield) rfl rfl rfl ⟨rfl, rfl, rfl, rfl, rfl, rfl⟩ rfl

theorem fetchb_empties (s : State) :
    ∃ t, exec .fetchb s = .next t ∧ GoesOn s t ∧ OnlyMe s t ∧ t.me.fbuf = [] ∧ t.me = s.me.issued t.me := by
  let o : Out := { s.out0 with c := { s.me with fbuf := [] }, sig := [] ++ (s.iss s.cur).sigE }
  have hp : o.InPlace s := ⟨rfl, rfl, rfl, rfl, rfl, rfl⟩
  obtain ⟨c, ht, hgo, hme, hc, hfb⟩ := issueWords_goesOn (e := effFetchb) (o := o) rfl rfl hp rfl
  exact ⟨_, ht, hgo, s.onlyMe_setCtx c, hme.symm ▸ hfb rfl, hme.symm ▸ hc⟩

/-- HALT without a kept fault record: what is in flight lands, and the context retires. -/
theorem halt_retires {s : State} (h : s.me.frec = none) :
    ∃ t, exec .halt s = .next t ∧ t = { s with ctxs := t.ctxs, nfree := t.nfree } ∧
      (∀ y, y ≠ s.cur → (s.me.gmode = 2 → s.me.gchk = false → y ≠ s.cur + 2) → t.ctx y = s.ctx y) ∧ (∀ a, t.byte a = s.byte a) ∧
      t.me.occ = s.me.occ.map (fun o => { o with st := .retired }) ∧ t.me.flight = [] ∧ t.me.hreq = none ∧
      t.me.pends = s.me.pends.filter Pend.isSmc ∧ t.me.pc = s.me.pc := by
  let o : Out := { s.out0 with sig := [] ++ (s.iss s.cur).sigE, next := .stop }
  have hp : o.InPlace s := ⟨rfl, rfl, rfl, rfl, rfl, rfl⟩
  have he : effHalt (s.iss s.cur) s.out0 = .ok o := by
    have h : (s.iss s.cur).c.frec = none := h
    unfold effHalt
    rw [h]; rfl
  let c := o.sealed s (o.c.atEnd s.me.pc)
  have hc : c = s.me.issued c := hp.sealed _
  obtain ⟨u, hu, hflight, hret⟩ := (s.setCtx s.cur c).retireCtx_eq s.cur
  obtain ⟨hself, -⟩ := hu.self
  rw [State.ctx_setCtx_self] at hself
  have hexec : exec .halt s = .next (u.upCtx s.cur Ctx.retire).draw := by
    rw [← hret]
    exact issueWords_stop he rfl
  have hcur : u.cur = s.cur := by rw [hu.rest]; rfl
  have hme : (u.upCtx s.cur Ctx.retire).draw.me = (u.ctx s.cur).retire := by
    rw [State.me, State.draw_ctx, State.draw_cur, State.upCtx_cur, hcur, State.ctx_upCtx_self]
  refine ⟨_, hexec, ?_, fun y hy hg => ?_, fun a => ?_, ?_, ?_, ?_, ?_, ?_⟩
  · rw [hu.rest]; rfl
  · rw [State.draw_ctx, State.ctx_upCtx_of_ne _ _ hy, hu.other y hy, State.ctx_setCtx_of_ne _ _ hy]
    rw [State.ctx_setCtx_self, hc]
    exact hg
  · rw [hu.rest]; rfl
  · rw [hme, hself, hc]; rfl
  · rw [hme]; exact hflight
  · rw [hme]; rfl
  · rw [hme, hself, hc]; rfl
  · rw [hme, hself, (o.sealed_place s (o.c.atEnd s.me.pc)).1]; rfl

theorem halt_raises {s : State} {f : FaultRec} (h : s.me.frec = some f) : TrapsRec .halt s f := by
  have he : effHalt (s.iss s.cur) s.out0 = .trap ⟨f.cause, s.me.pc, f.info, f.unit⟩ := by
    have h : (s.iss s.cur).c.frec = some f := h
    unfold effHalt
    rw [h]; rfl
  exact issueWords_trap he

/-- Settles O10: NOP, YIELD and FETCHB are words that go on in sequence; HALT ends by the landings of what is in flight, or raises the
record that it finds. -/
theorem plainControlResult : Obligations.PlainControlResult := fun s =>
  ⟨nop_leavesMe s, yield_leavesMe s, fetchb_empties s, halt_retires, fun _ => halt_raises⟩

end Sys2Proof.Claims
end

section
/-! SUPPORT. A taken transfer finds its target (04 R70): what the fetch there brings does not depend on what the bundle has built. -/

open Sys2Proof.Claims

namespace Sys2Proof.Machine

/-- What a fetch buffer or else the cache holds of a packet. -/
theorem State.packet_setCtx_snd (s : State) (x pk : Nat) (c : Ctx) (hocc : c.occ = (s.ctx x).occ) :
    ((s.setCtx x c).packet x pk).2 = match bufFind c.fbuf pk with
      | some ws => .ok ws
      | none => (s.fetchPacket x pk).2 := by
  rw [State.packet_setCtx _ _ _ _ hocc]
  cases bufFind c.fbuf pk with
  | some ws => rfl
  | none => rcases s.fetchPacket x pk with ⟨u, _ | _ | _⟩ <;> rfl

theorem fetchedAt_eq (s : State) (fb : List Packet) (a : Nat) :
    fetchedAt s fb a = match bufFind fb (a / 32 * 32) with
      | some ws => .ok ws
      | none => (s.fetchPacket s.cur (a / 32 * 32)).2 :=
  s.packet_setCtx_snd s.cur (a / 32 * 32) { s.ctx s.cur with fbuf := fb } rfl

/-- The fetch at the target of a transfer to `t`, with the fetch buffer that the transfer leaves (04 R68). -/
theorem State.packet_goto (s : State) (c : Ctx) (t : Addr) (hocc : c.occ = s.me.occ) :
    ∃ u d, (s.setCtx s.cur (c.goto t)).packet s.cur (t.toNat / 32 * 32) = (u.setCtx s.cur d, fetchedAt s c.fbuf t.toNat) ∧ Fetches s u ∧
      d = { c with pc := t, fbuf := d.fbuf } := by
  have hf := s.fetchPacket_fetches s.cur (t.toNat / 32 * 32)
  rw [State.packet_setCtx _ _ _ _ (show (c.goto t).occ = _ from hocc), fetchedAt_eq]
  cases hb : bufFind c.fbuf (t.toNat / 32 * 32) with
  | some ws =>
    have hfb : (c.goto t).fbuf = c.fbuf := by simp [Ctx.goto, hb]
    rw [hfb, hb]
    exact ⟨s, _, rfl, .refl s, rfl⟩
  | none =>
    have hfb : bufFind (c.goto t).fbuf (t.toNat / 32 * 32) = none := by
      rw [Ctx.goto, hb]; rfl
    rw [hfb]
    rcases hfetch : s.fetchPacket s.cur (t.toNat / 32 * 32) with ⟨u, _ | _ | _⟩ <;> rw [hfetch] at hf <;> exact ⟨u, _, rfl, hf, rfl⟩

end Sys2Proof.Machine
end

section
/-! SUPPORT. The end of a bundle whose word transfers, by what is found at its target (04 R70). -/

open Sys2Proof.Machine

namespace Sys2Proof.Claims

variable {i : Instr} {s : State} {o : Out} {a : W64}

/-- The context of a transfer once the fetch at the target has been made. -/
structure AtTarget (s : State) (a : W64) (c : Ctx) (t : State) : Prop where
  goes : GoesTo s t (a.setWidth 48)
  only : OnlyFetch s t
  me : t.me = c.issued t.me

theorem AtTarget.draw {c : Ctx} {t : State} (h : AtTarget s a c t) : AtTarget s a c t.draw := ⟨h.goes, h.only.draw, h.me⟩

theorem atTarget_setCtx {u : State} {c d : Ctx} (hu : Fetches s u) (hc : c.IssuedAs d) (hpc : d.pc = a.setWidth 48) (hl : d.loops = s.me.loops) :
    AtTarget s a c (u.setCtx s.cur d) := by
  have hme : (u.setCtx s.cur d).me = d := by rw [State.me, State.setCtx_cur, hu.cur, State.ctx_setCtx_self]
  refine ⟨?_, hu.onlyFetch d, hme.symm ▸ hc⟩
  rw [GoesTo, hme]
  exact ⟨hpc, hl⟩

theorem TransfersInto.of_raised {c : Ctx} {t : State} {k : Cause} {info : W64} {unit : BitVec 16}
    (h : exec i s = (Ended.raised t ⟨k, a.setWidth 48, info, unit⟩).outcome s s.cur) (ht : AtTarget s a c t) :
    TransfersInto i s a c k info unit := ⟨t, h, ht.goes, ht.only, ht.me⟩

/-- The page of a parked fetch waits for the host, or the transfer is completed and faults at its target. -/
theorem parksAt_of_parkFetch {c : Ctx} {t : State} (ha : a.toNat < 2 ^ 48) (ht : AtTarget s a c t)
    (hexec : exec i s = (match s.parkFetch s.cur a.toNat with | .trap k => Ended.raised t k | e => e).outcome s s.cur) :
    ParksAt i s a.toNat (a.setWidth 48) (TransfersInto i s a c .xlate a 0) := by
  have h48 : BitVec.ofNat 48 a.toNat = a.setWidth 48 := by bv_omega
  have h64 : BitVec.ofNat 64 (a.toNat % 2 ^ 48) = a := by bv_omega
  unfold State.parkFetch at hexec
  unfold ParksAt
  rw [h48] at hexec
  cases hp : s.park (s.asidOf s.cur) 0 (BitVec.ofNat 32 (a.toNat / 65536)) with
  | some u =>
    rw [hp] at hexec
    exact ⟨_, hexec, rfl, rfl, rfl, rfl⟩
  | none =>
    rw [hp, h64] at hexec
    exact .of_raised hexec ht

/-- The end of a bundle whose word transfers to `a` is what the claims say of a taken transfer (04 R70). -/
theorem takes_of_jumpTo {c e : Ctx} (hexec : exec i s = (jumpTo (s.iss s.cur) s c a).outcome s s.cur) (hc : e.IssuedAs c)
    (hl : c.loops = s.me.loops) (hocc : c.occ = s.me.occ) : Takes i s c.fbuf a e := by
  have hmoved : ∀ fb, e.IssuedAs { c with pc := a.setWidth 48, fbuf := fb } := fun fb => by
    unfold Ctx.IssuedAs at hc ⊢
    rw [hc]; rfl
  unfold jumpTo at hexec
  rw [show bf a 0 2 = a.toNat % 4 by simp [bf]] at hexec
  refine ⟨fun h => ?_, fun h hfar => ?_, fun h hnear => ?_⟩
  · rw [if_pos (by simpa using h)] at hexec
    exact hexec
  · have hinfo : (a.setWidth 48).setWidth 64 = BitVec.ofNat 64 (a.toNat % 2 ^ 48) := by bv_omega
    rw [if_neg (by simpa using h)] at hexec
    dsimp only at hexec
    rw [if_pos hfar, hinfo] at hexec
    exact .of_raised hexec (atTarget_setCtx (.refl s) (hmoved c.fbuf) rfl hl)
  · have ht : (a.setWidth 48).toNat = a.toNat := by bv_omega
    have hinfo : (a.setWidth 48).setWidth 64 = a := by bv_omega
    obtain ⟨u, d, hpacket, hu, hd⟩ := s.packet_goto c (a.setWidth 48) hocc
    have harr : AtTarget s a e (u.setCtx s.cur d) := by
      refine atTarget_setCtx hu ?_ (hd ▸ rfl) (hd ▸ hl)
      rw [hd]
      exact hmoved _
    have hhost : (u.setCtx s.cur d).hostPf = s.hostPf := by rw [hu.state]; rfl
    rw [if_neg (by simpa using h)] at hexec
    dsimp only [State.iss_s, State.iss_x] at hexec
    rw [if_neg (by omega), hpacket, ht] at hexec
    cases hf : fetchedAt s c.fbuf a.toNat with
    | ok ws =>
      rw [hf] at hexec
      dsimp only at hexec ⊢
      split
      case isTrue hpool =>
        rw [if_pos hpool] at hexec
        exact .of_raised hexec harr
      case isFalse hpool =>
        rw [if_neg hpool] at hexec
        split
        case isTrue hb =>
          rw [hb] at hexec
          exact ⟨_, hexec, harr.draw.goes, harr.draw.only, harr.draw.me⟩
        case isFalse hb =>
          rw [if_pos (by simpa using hb)] at hexec
          exact hexec
    | fault f =>
      rw [hf] at hexec
      dsimp only at hexec ⊢
      rw [hhost, hinfo] at hexec
      by_cases hpark : f = xNomap ∧ s.hostPf = true
      · rw [if_pos hpark]
        rw [if_pos (by simpa using hpark)] at hexec
        exact parksAt_of_parkFetch hnear harr hexec
      · rw [if_neg hpark]
        rw [if_neg (by simpa using hpark)] at hexec
        exact .of_raised hexec harr
    | poison n =>
      rw [hf] at hexec
      exact ⟨_, .of_raised hexec harr⟩

/-- A word that transfers. -/
theorem takes_of_eff {e : Eff} (hi : exec i s = issueWords [e] s) (h : e (s.iss s.cur) s.out0 = .ok o) (hn : o.next = .jump a)
    (hp : o.InPlace s) (hs : o.s = s) (hocc : o.c.occ = s.me.occ) (hfb : o.c.fbuf = s.me.fbuf) : Takes i s s.me.fbuf a o.c := by
  obtain ⟨-, hloops, -, hfbuf, hsocc⟩ := o.sealed_place s (o.c.atEnd s.me.pc)
  have hjump := issueWords_jump h hn
  rw [hs] at hjump
  rw [← hfb, ← hfbuf]
  exact takes_of_jumpTo (hi.trans hjump) (hp.sealed _) (hloops.trans hp.loops) (hsocc.trans hocc)

end Sys2Proof.Claims
end

section
/-! SUPPORT. BR, JMP, CALL, JR and CALLR (06 R118, R119). -/

open Sys2Proof.Machine

namespace Sys2Proof.Claims

variable {s : State}

/-- A scalar source with no result in flight reads its register (05 R94). -/
theorem Still.rS {n : Fin 32} (h : Still s n) : (s.iss s.cur).rS n = s.me.rd n := by
  unfold Iss.rS Ctx.rd
  rw [show (s.iss s.cur).c.busyS n = false from h]
  rfl

/-- The target of a PC-relative transfer. -/
theorem iss_target (s : State) (o : Int) : (s.iss s.cur).target o = s.me.pc.setWidth 64 + BitVec.ofInt 64 (4 * o) := rfl

/-- The word after its link has been written. -/
theorem inPlace_link (s : State) (a : W64) :
    ({ s.out0.link (s.iss s.cur) with next := .jump a } : Out).InPlace s := ⟨rfl, rfl, rfl, rfl, rfl, rfl⟩

theorem jmp_takes (o : Int) : Takes (.jmp o) s s.me.fbuf (s.me.pc.setWidth 64 + BitVec.ofInt 64 (4 * o)) s.me :=
  takes_of_eff (e := effJmp o) (o := { s.out0 with next := .jump _ }) rfl rfl rfl ⟨rfl, rfl, rfl, rfl, rfl, rfl⟩ rfl rfl rfl

theorem call_takes (o : Int) :
    Takes (.call o) s s.me.fbuf (s.me.pc.setWidth 64 + BitVec.ofInt 64 (4 * o)) (Ctx.withS s.me 31 (s.me.bsucc.setWidth 64)) :=
  takes_of_eff (e := effCall o) (o := { s.out0.link (s.iss s.cur) with next := .jump _ }) rfl rfl rfl (inPlace_link s _) rfl rfl rfl

theorem jr_takes {a : Fin 32} (h : Still s a) : Takes (.jr a) s s.me.fbuf (s.me.rd a) s.me :=
  takes_of_eff (e := effJr a) (o := { s.out0 with next := .jump _ }) rfl (by unfold effJr; rw [h.rS]) rfl ⟨rfl, rfl, rfl, rfl, rfl, rfl⟩
    rfl rfl rfl

theorem callr_takes {a : Fin 32} (h : Still s a) :
    Takes (.callr a) s s.me.fbuf (s.me.rd a) (Ctx.withS s.me 31 (s.me.bsucc.setWidth 64)) :=
  takes_of_eff (e := effCallr a) (o := { s.out0.link (s.iss s.cur) with next := .jump _ }) rfl (by unfold effCallr; rw [h.rS]) rfl
    (inPlace_link s _) rfl rfl rfl

theorem br_takes {a : Fin 32} (o : Int) {c : Cond} (h : Still s a) (hc : Cond.holds c (s.me.rd a) = true) :
    Takes (.br c a o) s s.me.fbuf (s.me.pc.setWidth 64 + BitVec.ofInt 64 (4 * o)) s.me :=
  takes_of_eff (e := effBr c a o) (o := { s.out0 with next := .jump _ }) rfl (by unfold effBr; rw [h.rS, if_pos hc, iss_target]) rfl
    ⟨rfl, rfl, rfl, rfl, rfl, rfl⟩ rfl rfl rfl

theorem br_falls {a : Fin 32} (o : Int) {c : Cond} (h : Still s a) (hc : ¬ Cond.holds c (s.me.rd a) = true) : LeavesMe (.br c a o) s s.me :=
  leavesMe_of_eff (e := effBr c a o) (o := s.out0) rfl (by unfold effBr; rw [h.rS, if_neg hc]) rfl ⟨rfl, rfl, rfl, rfl, rfl, rfl⟩ rfl

/-- A condition of S.B, by its meaning. -/
theorem cond_holds_iff (c : Cond) (x : W64) : Cond.holds c x = true ↔ match c with
    | .z => x = 0 | .nz => x ≠ 0 | .ltz => x.toInt < 0 | .gez => 0 ≤ x.toInt | .gtz => 0 < x.toInt | .lez => x.toInt ≤ 0
    | .always => True := by
  cases c <;> simp [Cond.holds]

/-- Settles O7: a transfer's end is found at its target from the state before the bundle; BR takes it where its condition holds. -/
theorem transferResult : Obligations.TransferResult := fun _ _ o c h =>
  ⟨fun hc => br_falls o h (mt (cond_holds_iff c _).1 hc), fun hc => br_takes o h ((cond_holds_iff c _).2 hc), jmp_takes o, call_takes o,
    jr_takes h, callr_takes h⟩

end Sys2Proof.Claims
end

section
/-! SUPPORT. LDC (04 R71, R74, R83), by what the fetch of its packet brings. -/

open Sys2Proof.Machine

namespace Sys2Proof.Claims

/-- The address of LDC with offset `o` (04 R74). -/
def ldcAddr (s : State) (o : Int) : W64 := s.me.pc.setWidth 64 + BitVec.ofInt 64 (4 * o)

/-- The words that LDC reads. -/
def ldcCount (z : LdcSz) : Nat := match z with | .d => 2 | _ => 1

/-- The header of a pool packet that lists the words from `k` to `k + n - 1`, bit by bit (04 R71). -/
theorem poolOk_iff (hdr : W32) (k n : Nat) :
    poolOk hdr k n = true ↔ hdr.toNat / 2 ^ 22 = 0x3CB ∧ hdr.toNat / 2 ^ 21 % 2 = 0 ∧ hdr.toNat / 8 % 2 ^ 17 = 0 ∧ 1 ≤ k ∧
      k + n - 1 ≤ hdr.toNat % 8 := by
  have htop : bf hdr 22 10 = hdr.toNat / 2 ^ 22 := Nat.mod_eq_of_lt (by omega)
  unfold poolOk
  rw [htop]
  simp only [bf, Bool.and_eq_true, beq_iff_eq, decide_eq_true_eq, and_assoc, pow_zero, pow_one, Nat.div_one]
  rfl

theorem coreVa_near {a : W64} (h : a.toNat < 2 ^ 48) : coreVa a = .ok a.toNat := if_pos h

/-- Past 2^48 no address is a core's (09 R186). -/
theorem coreVa_far {a : W64} (h : 2 ^ 48 ≤ a.toNat) : ∃ f, coreVa a = .error f ∧ f.cause = .xlate := by
  unfold coreVa
  rw [if_neg (by omega)]
  split
  · exact ⟨_, rfl, rfl⟩
  · exact ⟨_, rfl, rfl⟩

/-- The single word of a bundle is its S word. -/
theorem unitWord_single {c : Ctx} {w : Nat} (h : c.bwords = [w]) (hu : w / 2 ^ 29 % 4 = 0) (hh : w / 2 ^ 27 % 16 ≠ 15) :
    c.unitWord 0 = (0, w) := by
  unfold Ctx.unitWord
  have hfind : ((List.range [w].length).zip [w]).find? (fun p => p.2 / 2 ^ 29 % 4 == 0 && p.2 / 2 ^ 27 % 16 != 15) = some (0, w) :=
    List.find?_cons_of_pos (by simpa only [hu, Bool.and_eq_true, bne_iff_ne, beq_iff_eq, true_and] using hh)
  rw [h, hfind]

theorem encInfo_poolref (w : Nat) : encInfo 0 .poolref w = BitVec.ofNat 64 (0xA0 + 2 ^ 32 * (w % 2 ^ 32)) := by
  simp [encInfo, Reason.code]

variable {s u : State} {d : Fin 32} {z : LdcSz} {o : Int}

theorem iss_ldcAddr (s : State) (o : Int) : (s.iss s.cur).c.pc.setWidth 64 + w64 (4 * o) = ldcAddr s o := rfl

/-- LDC with an address past 2^48 names no packet. -/
theorem ldc_far (h : 2 ^ 48 ≤ (ldcAddr s o).toNat) :
    Traps (.ldc d z o) s .xlate (BitVec.ofNat 64 ((ldcAddr s o).toNat % 2 ^ 48)) := by
  obtain ⟨f, hva, hcause⟩ := coreVa_far h
  have hinfo : ((ldcAddr s o).setWidth 48).setWidth 64 = BitVec.ofNat 64 ((ldcAddr s o).toNat % 2 ^ 48) := by bv_omega
  refine issueWords_trap (e := effLdc d z o) ?_
  simp only [effLdc, iss_ldcAddr, hva, hcause, hinfo]
  rfl

section
variable (hnear : (ldcAddr s o).toNat < 2 ^ 48)
include hnear

/-- A fetch that fails raises its cause at the LDC, or parks. -/
theorem ldc_fault {f : XFault} (hf : s.fetchPacket s.cur ((ldcAddr s o).toNat / 32 * 32) = (u, .fault f)) :
    if f = xNomap ∧ s.hostPf = true then
      ParksAt (.ldc d z o) s (ldcAddr s o).toNat s.me.pc (Traps (.ldc d z o) s .xlate (ldcAddr s o))
    else Traps (.ldc d z o) s f.cause (ldcAddr s o) := by
  have hinfo : BitVec.ofNat 64 (ldcAddr s o).toNat = ldcAddr s o := by simp
  have hfetch : s.out0.s.fetchPacket (s.iss s.cur).x ((ldcAddr s o).toNat / 32 * 32) = (u, .fault f) := hf
  split
  case isFalse h =>
    have hassist : (decide (f = xNomap) && (s.iss s.cur).s.hostPf) = false := by simpa using h
    refine issueWords_trap (e := effLdc d z o) ?_
    simp only [effLdc, iss_ldcAddr, coreVa_near hnear, hfetch, hassist, hinfo]
    rfl
  case isTrue h =>
    have hassist : (decide (f = xNomap) && (s.iss s.cur).s.hostPf) = true := by simpa using h
    have hmod : BitVec.ofNat 64 (ldcAddr s o).toNat = BitVec.ofNat 64 ((ldcAddr s o).toNat % 2 ^ 48) := by rw [Nat.mod_eq_of_lt hnear]
    unfold ParksAt
    generalize hpark : s.park (s.asidOf s.cur) 0 (BitVec.ofNat 32 ((ldcAddr s o).toNat / 65536)) = r
    have hpark : (s.iss s.cur).s.park ((s.iss s.cur).s.asidOf (s.iss s.cur).x) 0 (BitVec.ofNat 32 ((ldcAddr s o).toNat / 65536)) = r := hpark
    cases r with
    | some v =>
      let w : Wait :=
        { kind := 11, since := s.me.cycle.setWidth 32, page := BitVec.ofNat 32 ((ldcAddr s o).toNat / 65536), tpc := s.me.pc,
          info := BitVec.ofNat 64 (ldcAddr s o).toNat }
      refine ⟨w, issueWords_wait (e := effLdc d z o) ?_, rfl, rfl, rfl, hmod⟩
      simp only [effLdc, iss_ldcAddr, coreVa_near hnear, hfetch, hassist, hpark, if_true]
      rfl
    | none =>
      refine issueWords_trap (e := effLdc d z o) ?_
      simp only [effLdc, iss_ldcAddr, coreVa_near hnear, hfetch, hassist, hpark, hinfo, if_true]
      rfl

/-- A poisoned packet is raised at the LDC. -/
theorem ldc_poison {n : BitVec 16} (hf : s.fetchPacket s.cur ((ldcAddr s o).toNat / 32 * 32) = (u, .poison n)) :
    TrapsAt (.ldc d z o) s s.me.pc .poison (s.poisonInfo s.cur) n := by
  have hfetch : s.out0.s.fetchPacket (s.iss s.cur).x ((ldcAddr s o).toNat / 32 * 32) = (u, .poison n) := hf
  refine issueWords_trap (e := effLdc d z o) ?_
  simp only [effLdc, iss_ldcAddr, coreVa_near hnear, hfetch]
  rfl

section
variable {ws : List W32} (hf : s.fetchPacket s.cur ((ldcAddr s o).toNat / 32 * 32) = (u, .ok ws))
include hf

/-- What the words of the packet are read for. -/
theorem effLdc_ok : effLdc d z o (s.iss s.cur) s.out0 =
    if poolOk (ws.getD 0 0) ((ldcAddr s o).toNat % 32 / 4) (ldcCount z) then
      .ok ({ s.out0 with s := u }.fS d (ldcVal z ws ((ldcAddr s o).toNat % 32 / 4)) 6 0)
    else .trap ⟨.illegalEnc, s.me.pc, encInfo (s.me.unitWord 0).1 .poolref (s.me.unitWord 0).2, 0⟩ := by
  have hfetch : s.out0.s.fetchPacket (s.iss s.cur).x ((ldcAddr s o).toNat / 32 * 32) = (u, .ok ws) := hf
  have hcount : (if z = .d then 2 else 1) = ldcCount z := by cases z <;> rfl
  simp only [effLdc, iss_ldcAddr, coreVa_near hnear, hfetch, hcount]
  rfl

/-- Outside the words that a pool lists. -/
theorem ldc_outside (h : poolOk (ws.getD 0 0) ((ldcAddr s o).toNat % 32 / 4) (ldcCount z) = false) :
    Traps (.ldc d z o) s .illegalEnc (encInfo (s.me.unitWord 0).1 .poolref (s.me.unitWord 0).2) :=
  issueWords_trap (e := effLdc d z o) (by rw [effLdc_ok hnear hf, h]; rfl)

/-- On words that a pool lists the value is in flight with bound 6 (05 R94). -/
theorem ldc_launches (h : poolOk (ws.getD 0 0) ((ldcAddr s o).toNat % 32 / 4) (ldcCount z) = true) :
    let v := ldcVal z ws ((ldcAddr s o).toNat % 32 / 4)
    let on : W64 := if d = 0 then 0 else 1
    ∃ t, exec (.ldc d z o) s = .next t ∧ GoesOn s t ∧ OnlyFetch s t ∧
      t.me = ({ s.me with flight := Newer s (.s d v) on ++ [⟨.s d v, on, on, 5, 0⟩] } : Ctx).issued t.me := by
  have hu := s.fetchPacket_fetches s.cur ((ldcAddr s o).toNat / 32 * 32)
  rw [hf] at hu
  have he := effLdc_ok (d := d) (z := z) hnear hf
  rw [if_pos h] at he
  obtain ⟨c, ht, hgo, hme, hc, -⟩ := issueWords_goesOn he rfl ⟨rfl, rfl, rfl, rfl, rfl, rfl⟩ hu.cur
  exact ⟨_, ht, hgo, (hu.onlyFetch c).draw, hme.symm ▸ hc⟩

end
end

/-- Settles O6: the fetch of the packet decides how LDC ends, and on a packet the pool header does. -/
theorem loadConstantResult : Obligations.LoadConstantResult := by
  intro s d z o
  refine ⟨ldc_far, fun hnear => ?_⟩
  have hnear : (ldcAddr s o).toNat < 2 ^ 48 := hnear
  change match (s.fetchPacket s.cur ((ldcAddr s o).toNat / 32 * 32)).2 with | .ok ws => _ | .fault f => _ | .poison n => _
  rcases hf : s.fetchPacket s.cur ((ldcAddr s o).toNat / 32 * 32) with ⟨u, ws | f | n⟩
  · have hpool := poolOk_iff (ws.getD 0 0) ((ldcAddr s o).toNat % 32 / 4) (ldcCount z)
    refine ⟨fun h => ldc_launches hnear hf (hpool.2 h), fun h => ?_⟩
    have htrap := ldc_outside (d := d) hnear hf (Bool.eq_false_iff.2 (mt hpool.1 h))
    refine ⟨htrap, fun w hw hunit hhdr => ?_⟩
    rw [unitWord_single hw hunit hhdr, encInfo_poolref] at htrap
    exact htrap
  · exact ldc_fault hnear hf
  · exact ⟨_, ldc_poison hnear hf⟩

end Sys2Proof.Claims
end

section
/-! SUPPORT. What a landing writes (05 R94, R95). -/

namespace Sys2Proof.Machine

theorem Ctx.land_scalar (c : Ctx) {f : Flight} {n : Fin 32} {y : W64} (h : f.val = .s n y) :
    c.land f = { c with arith := c.arith ||| f.flags, s := if f.live = 0 then c.s else c.s.set n y } := by
  unfold Ctx.land
  rw [h]
  dsimp only
  split <;> rfl

theorem Ctx.land_row (c : Ctx) {f : Flight} {n : Fin 64} {y : Row} (h : f.val = .v n y) :
    c.land f = { c with
      arith := c.arith ||| f.flags
      v := c.v.set n (rowOf fun k => if f.live.getLsbD k then lane y k else lane c.v[n] k) } := by
  unfold Ctx.land
  rw [h]
  rfl

theorem Ctx.land_mask (c : Ctx) {f : Flight} {y : W64} (h : f.val = .cm y) :
    c.land f = { c with arith := c.arith ||| f.flags, cm := (c.cm &&& ~~~f.live) ||| (y &&& f.live) } := by
  unfold Ctx.land
  rw [h]
  rfl

/-- A vector written at an index of `Fin` and read there. -/
theorem vector_set_self {α : Type} {m : Nat} (v : Vector α m) (n : Fin m) (a : α) : (v.set n a)[n] = a := by simp

/-- A vector written at an index of `Fin` and read at another. -/
theorem vector_set_of_ne {α : Type} {m : Nat} (v : Vector α m) {n k : Fin m} (a : α) (h : k ≠ n) : (v.set n a)[k] = v[k] :=
  Vector.getElem_set_ne n.isLt k.isLt fun e => h (Fin.ext e.symm)

/-- The lanes of a row that a landing has written. -/
theorem Ctx.land_row_lane (c : Ctx) {f : Flight} {n : Fin 64} {y : Row} (h : f.val = .v n y) (k : Fin 64) :
    (c.land f).v[n][k] = if f.live.getLsbD k then y[k] else c.v[n][k] := by
  rw [c.land_row h]
  dsimp only
  rw [vector_set_self, rowOf_getElem, lane_eq, lane_eq]

theorem mask_mix_bit (a y l : W64) (k : Nat) (hk : k < 64) :
    ((a &&& ~~~l) ||| (y &&& l)).getLsbD k = if l.getLsbD k then y.getLsbD k else a.getLsbD k := by
  simp only [BitVec.getLsbD_or, BitVec.getLsbD_and, BitVec.getLsbD_not, hk, decide_true, Bool.true_and]
  cases l.getLsbD k <;> simp

/-- A landing before the bound of its result (05 R94). -/
theorem resultLands_ends (s : State) (x j : Nat) {f : Flight} (h : (s.ctx x).flight[j]? = some f) :
    exec (.resultLands x j) s = .next (s.upCtx x fun c =>
      ({ c with flight := (c.flight.take j).map (·.cut f.val f.live) ++ c.flight.drop (j + 1) } : Ctx).land f) := by
  refine congrArg Host.Outcome.next ?_
  rw [h]

end Sys2Proof.Machine
end

section
/-! SUPPORT. A scoreboarded destination takes its value (05 R96): the reads of a load (09 R200, R206), and what landing leaves. -/

namespace Sys2Proof.Machine

/-! ## Landing -/

theorem State.ctx_landVal (s : State) (x : Nat) (v : FVal) (l : W64) (fl : Flags) (alone : Bool) :
    ∃ w, (s.landVal x v l fl alone).ctx x = ((s.ctx x).comes v l fl).signed w := by
  have hne : x ≠ x + 2 := by omega
  unfold State.landVal
  dsimp only
  split
  · rw [State.ctx_upCtx_of_ne _ _ hne, State.ctx_setCtx_self]
    exact ⟨_, rfl⟩
  · rw [State.ctx_setCtx_self]
    exact ⟨_, rfl⟩

/-- Context `x` of `t` has received a value, and the rest of the state stands, but for what a CHECK primary passes on. -/
theorem Lands.quiet {x : Nat} {s t : State} (h : Lands x s t) :
    t.mem = s.mem ∧ t.cores = s.cores ∧ (∀ y, y ≠ x → y ≠ x + 2 → t.ctx y = s.ctx y) ∧ (t.ctx x).pends = (s.ctx x).pends := by
  refine ⟨by rw [h.rest], by rw [h.rest], fun y hy hy2 => h.other y hy fun _ _ => hy2, ?_⟩
  rw [h.self.1]

theorem Ctx.comes_scalar (c : Ctx) (n : Fin 32) (y l : W64) (fl : Flags) :
    (c.comes (.s n y) l fl).s = if l = 0 then c.s else c.s.set n y := by
  unfold Ctx.comes
  rw [Ctx.land_scalar _ rfl]

/-- A value for a scalar register, and one for s0, which keeps nothing (05 R97). -/
theorem State.landVal_scalar (s : State) (x : Nat) (n : Fin 32) (y : W64) (fl : Flags) (alone : Bool) (m : Fin 32) :
    ((s.landVal x (.s n y) (wholeLanes (.s n y)) fl alone).ctx x).s[m] = if m = n ∧ m ≠ 0 then y else (s.ctx x).s[m] := by
  obtain ⟨w, hw⟩ := s.ctx_landVal x (.s n y) (wholeLanes (.s n y)) fl alone
  rw [hw]
  change ((s.ctx x).comes (.s n y) (if n = 0 then 0 else 1) fl).s[m] = _
  rw [Ctx.comes_scalar]
  by_cases hn : n = 0
  · subst hn
    rw [if_pos (if_pos rfl), if_neg fun h => h.2 h.1]
  · rw [if_neg hn, if_neg (by decide)]
    by_cases hm : m = n
    · subst hm
      rw [if_pos ⟨rfl, hn⟩, vector_set_self]
    · rw [if_neg fun h => hm h.1, vector_set_of_ne _ _ hm]

/-- A value for the lanes `l` of a row. -/
theorem State.landVal_row (s : State) (x : Nat) (n : Fin 64) (y : Row) (l : W64) (fl : Flags) (alone : Bool) :
    (∀ m : Fin 64, m ≠ n → ((s.landVal x (.v n y) l fl alone).ctx x).v[m] = (s.ctx x).v[m]) ∧
      ∀ k : Fin 64, ((s.landVal x (.v n y) l fl alone).ctx x).v[n][k] = if l.getLsbD k then y[k] else (s.ctx x).v[n][k] := by
  obtain ⟨w, hw⟩ := s.ctx_landVal x (.v n y) l fl alone
  rw [hw]
  unfold Ctx.signed Ctx.comes
  refine ⟨fun m hm => ?_, fun k => Ctx.land_row_lane _ rfl k⟩
  rw [Ctx.land_row _ rfl]
  exact vector_set_of_ne _ _ hm

/-! ## Reads -/

/-- A read of plain memory that finds no poison brings the bytes of memory, at the home or into a new L1 copy. -/
theorem State.refRead_mem (s : State) (k : Nat) {f refill : Bool} {pa n : Nat} (h : f = true ∨ refill = true) (hp : s.poisonAt pa n = none) :
    ∃ t, s.refRead k f refill n (.mem pa) = (t, .ok (s.rd pa n) 0) ∧ t.mem = s.mem ∧ t.ctxs = s.ctxs ∧ (f = true → t = s) := by
  cases f with
  | true =>
    refine ⟨s, ?_, rfl, rfl, fun _ => rfl⟩
    simp only [State.refRead, State.homeRead, hp, if_true]
  | false =>
    obtain rfl : refill = true := h.resolve_left (by decide)
    have hgran : L1Line.empty.gran (pa % 128 / 16) = none := by
      unfold L1Line.gran L1Line.empty
      rw [Vector.getElem?_replicate]
      split <;> rfl
    simp only [State.refRead, State.l1Read, hp, if_true, Option.getD_none, hgran, Bool.false_eq_true, if_false]
    refine ⟨_, rfl, ?_, ?_, fun h => absurd h (by decide)⟩
    · split <;> rfl
    · split <;> rfl

/-- The bytes of memory at the reference of a lane. -/
def State.laneBytes (s : State) (n : Nat) (e : Nat × GRef) : List Byte := s.rd (e.2.span n).1 n

/-- The lanes of a load that are all read now, at the home. -/
theorem State.readLanes_home (k n : Nat) (refill : Bool) (now : Nat × GRef → Bool) (ls : List (Nat × GRef)) (s : State)
    (h : ∀ e ∈ ls, now e = true ∧ ∃ pa, e.2 = .mem pa ∧ s.poisonAt pa n = none) :
    State.readLanes k true refill n now ls s = (s, [], ls.map fun e => (e.1, .ok (s.laneBytes n e) 0)) := by
  induction ls with
  | nil => rfl
  | cons e ls ih =>
    obtain ⟨hnow, pa, hpa, hpoison⟩ := h e (.head _)
    obtain ⟨t, ht, -, -, hts⟩ := s.refRead_mem k (f := true) (refill := refill) (.inl rfl) hpoison
    obtain rfl := hts rfl
    simp only [State.readLanes, hnow, if_true, hpa, ht, ih fun e he => h e (.tail _ he), List.map_cons, State.laneBytes, GRef.span]

/-- No lane of the load is read now. -/
theorem State.readLanes_none (k n : Nat) (f refill : Bool) (now : Nat × GRef → Bool) (ls : List (Nat × GRef)) (s : State)
    (h : ∀ e ∈ ls, now e = false) : State.readLanes k f refill n now ls s = (s, ls, []) := by
  induction ls with
  | nil => rfl
  | cons e ls ih =>
    simp only [State.readLanes, h e (.head _), Bool.false_eq_true, if_false, ih fun e he => h e (.tail _ he)]

theorem gotAll_ok {α : Type} (ls : List (Nat × α)) (b : Nat × α → List Byte) :
    gotAll (ls.map fun e => (e.1, .ok (b e) 0)) = .ok (ls.map fun e => (e.1, b e), 0) := by
  induction ls with
  | nil => rfl
  | cons e ls ih =>
    simp only [List.map_cons, gotAll, ih]
    rfl

/-- The entry of a key that stands once. -/
theorem find_key {α β : Type} {ls : List (Nat × α)} (b : Nat × α → β) {e : Nat × α} (he : e ∈ ls) (hn : (ls.map (·.1)).Nodup) :
    (ls.map fun e => (e.1, b e)).find? (fun p => p.1 == e.1) = some (e.1, b e) := by
  induction ls with
  | nil => cases he
  | cons d ls ih =>
    rw [List.map_cons, List.nodup_cons] at hn
    obtain ⟨hd, hn⟩ := hn
    rcases List.mem_cons.1 he with rfl | he
    · exact List.find?_cons_of_pos (by simp)
    · have hne : d.1 ≠ e.1 := fun h => hd (h ▸ List.mem_map_of_mem he)
      rw [List.map_cons, List.find?_cons_of_neg (by simpa using hne)]
      exact ih he hn

theorem sx_w64 (x : Nat) : w64 (sx 32 x) = (BitVec.ofNat 32 x).signExtend 64 := by
  have h : sx 32 x = (BitVec.ofNat 32 x).toInt := by
    rw [BitVec.toInt_eq_toNat_cond, BitVec.toNat_ofNat, sx]
    split <;> split <;> omega
  rw [w64, h]
  rfl

end Sys2Proof.Machine
end

section
/-! SUPPORT. LOAD_RESULT_LANDS by what is outstanding at its index: an answer, a refused service, a load that has read all its lanes, one
that has not, and one that meets poison (05 R96; 09 R206; 16 R372). -/

open Sys2Proof.Machine

namespace Sys2Proof.Claims

variable {s : State} {x j : Nat} {p : Pend}

/-- Context `x` has received `v` for sn, and its destination at index `j` is free. -/
def Received (s : State) (x j : Nat) (n : Fin 32) (v : W64) (t : State) : Prop :=
  (t.ctx x).pends = (s.ctx x).pends.eraseIdx j ∧ (∀ m : Fin 32, (t.ctx x).s[m] = if m = n ∧ m ≠ 0 then v else (s.ctx x).s[m]) ∧
    t.mem = s.mem ∧ ∀ y, y ≠ x → y ≠ x + 2 → t.ctx y = s.ctx y

/-- The state in which the destination at index `j` of context `x` has been freed. -/
def freed (s : State) (x j : Nat) : State := s.upCtx x fun c => c.unpend j

theorem received_landVal {u : State} (hmem : u.mem = s.mem) (hctxs : u.ctxs = (freed s x j).ctxs) (n : Fin 32) (v : W64) (fl : Flags)
    (alone : Bool) : Received s x j n v (u.landVal x (.s n v) (wholeLanes (.s n v)) fl alone).draw := by
  have hctx : ∀ y, u.ctx y = (freed s x j).ctx y := fun y => by rw [State.ctx, hctxs]; rfl
  have hself : u.ctx x = (s.ctx x).unpend j := (hctx x).trans (State.ctx_upCtx_self _ _ _)
  obtain ⟨hm, -, hother, hpends⟩ := (u.lands_landVal x (.s n v) (wholeLanes (.s n v)) fl alone).quiet
  refine ⟨?_, fun m => ?_, hm.trans hmem, fun y hy hy2 => ?_⟩
  · exact hpends.trans (by rw [hself]; rfl)
  · exact (u.landVal_scalar x n v fl alone m).trans (by rw [hself]; rfl)
  · exact (hother y hy hy2).trans ((hctx y).trans (State.ctx_upCtx_of_ne _ _ hy))

/-- How a load lands whose lanes have all been read by now. -/
theorem landPend_read (hp : (s.ctx x).pends[j]? = some p) {refill : Bool} {gs : BitVec 16} {va : Addr} {size : Nat} {f : Bool}
    {ls : List (Nat × GRef)} {t : State}
    {new : List (Nat × LdGot)} {vs : List (Nat × List Byte)} {fl : Flags} (hw : p.what = .load va size f ls [])
    (hread : State.readLanes (coreOf x) f refill size
      (fun e => gs.getLsbD (e.1 / 4) && !(e.2.home f && (s.ctx x).olderReads j (e.2.span size))) ls (freed s x j) = (t, [], new))
    (hgot : gotAll new = .ok (vs, fl)) :
    s.landPend x j refill gs = t.landVal x (loadVal p.dst size vs).1 (loadVal p.dst size vs).2 fl p.alone := by
  unfold State.landPend
  rw [hp]
  dsimp only
  rw [hw]
  dsimp only
  unfold freed at hread
  rw [hread]
  dsimp only
  rw [List.nil_append, hgot]

section
variable (hrun : (s.ctx x).running = true)
include hrun

theorem loadResultLands_ends (refill : Bool) (gs : BitVec 16) :
    exec (.loadResultLands x j ⟨refill, gs⟩) s = .next (s.landPend x j refill gs).draw := congrArg Host.Outcome.next (if_pos hrun)

variable (hp : (s.ctx x).pends[j]? = some p)
include hp

/-- An answer of a value that was sampled at issue. -/
theorem answer_lands (refill : Bool) (gs : BitVec 16) {n : Fin 32} {v : W64} (hd : p.dst = .s n) (hw : p.what = .ans v) :
    Ends (.loadResultLands x j ⟨refill, gs⟩) s fun t => t.cores = s.cores ∧ Received s x j n v t := by
  have hland : s.landPend x j refill gs = (freed s x j).landVal x (.s n v) (wholeLanes (.s n v)) 0 p.alone := by
    unfold State.landPend
    rw [hp]
    dsimp only
    rw [hw, hd]
    rfl
  refine ⟨_, loadResultLands_ends hrun refill gs, ?_, ?_⟩ <;> rw [hland]
  · exact (State.lands_landVal _ x _ _ _ _).quiet.2.1
  · exact received_landVal (s := s) (j := j) (u := freed s x j) rfl rfl n v 0 p.alone

/-- A service that the Zenith controller refuses answers −1 (17 R389). -/
theorem refusal_lands (refill : Bool) (gs : BitVec 16) {n : Fin 32} {svc a : W64} (hd : p.dst = .s n) (hw : p.what = .smc svc a)
    (hsvc : svc = 0 ∨ 5 < svc.toNat ∨ (2 < svc.toNat ∧ s.worldOf x = false)) :
    Ends (.loadResultLands x j ⟨refill, gs⟩) s fun t => (t.core (coreOf x)).l1 = [] ∧ Received s x j n (-1) t := by
  have hrefused : refusedSvc (s.worldOf x) svc = true := by
    unfold refusedSvc
    rcases hsvc with h | h | ⟨h, hworld⟩
    · simp [h]
    · simp [h]
    · simp [hworld, show 3 ≤ svc.toNat from h]
  have hland : s.landPend x j refill gs =
      ((freed s x j).landVal x (.s n (-1)) (wholeLanes (.s n (-1))) 0 p.alone).upCore (coreOf x) Core.l1Flush := by
    unfold State.landPend
    rw [hp]
    dsimp only
    rw [hw, hd]
    dsimp only
    rw [if_pos hrefused]
    rfl
  refine ⟨_, loadResultLands_ends hrun refill gs, ?_, ?_⟩ <;> rw [hland]
  · rw [State.draw_core, State.core_upCore_self]
    rfl
  · exact received_landVal (s := s) (j := j) (u := freed s x j) rfl rfl n (-1) 0 p.alone

/-- A scalar load of plain memory brings its bytes. -/
theorem scalarLoad_lands {refill f : Bool} {gs : BitVec 16} {va : Addr} {size pa : Nat} {n : Fin 32} (hd : p.dst = .s n)
    (hw : p.what = .load va size f [(0, .mem pa)] []) (hgs : gs.getLsbD 0 = true)
    (hfree : (f = true ∧ (s.ctx x).olderReads j (pa, size) = false) ∨ (f = false ∧ refill = true)) (hpoison : s.poisonAt pa size = none) :
    Ends (.loadResultLands x j ⟨refill, gs⟩) s fun t => True ∧
      Received s x j n (if size = 8 then BitVec.ofNat 64 (leNat (s.rd pa size)) else (BitVec.ofNat 32 (leNat (s.rd pa size))).signExtend 64) t := by
  have hnow : (gs.getLsbD (0 / 4) && !((GRef.mem pa).home f && (s.ctx x).olderReads j ((GRef.mem pa).span size))) = true := by
    rcases hfree with ⟨rfl, hold⟩ | ⟨rfl, -⟩
    · simp [hgs, GRef.span, hold]
    · simp [hgs, GRef.home]
  obtain ⟨t, hread, hmem, hctxs, -⟩ := (freed s x j).refRead_mem (coreOf x) (f := f) (refill := refill) (pa := pa) (n := size)
    (hfree.imp (·.1) (·.2)) hpoison
  have hland := landPend_read (refill := refill) (gs := gs) (t := t) (new := [(0, .ok (s.rd pa size) 0)]) (vs := [(0, s.rd pa size)])
    (fl := 0) hp hw (by simp only [State.readLanes, hnow, if_true, hread]; rfl) rfl
  refine ⟨_, loadResultLands_ends hrun refill gs, trivial, ?_⟩
  rw [hland, hd]
  simp only [loadVal, List.headD, sx_w64, destVal]
  exact received_landVal (s := s) (j := j) hmem hctxs n _ 0 p.alone

/-- A load of a row whose lanes are all read now, at the home, brings their bytes. -/
theorem rowLoad_lands {refill : Bool} {gs : BitVec 16} {va : Addr} {n : Fin 64} {ls : List (Nat × GRef)} (hd : p.dst = .v n)
    (hw : p.what = .load va 4 true ls [])
    (hls : ∀ e ∈ ls, gs.getLsbD (e.1 / 4) = true ∧ ∃ pa, e.2 = .mem pa ∧ (s.ctx x).olderReads j (pa, 4) = false ∧ s.poisonAt pa 4 = none)
    (hkeys : (ls.map (·.1)).Nodup) :
    Ends (.loadResultLands x j ⟨refill, gs⟩) s fun t =>
      (t.ctx x).pends = (s.ctx x).pends.eraseIdx j ∧ (∀ m : Fin 64, m ≠ n → (t.ctx x).v[m] = (s.ctx x).v[m]) ∧
        ∀ k : Fin 64, (∀ e ∈ ls, e.1 = k.val → (t.ctx x).v[n][k] = BitVec.ofNat 32 (leNat (s.laneBytes 4 e))) ∧
          ((∀ e ∈ ls, e.1 ≠ k.val) → (t.ctx x).v[n][k] = (s.ctx x).v[n][k]) := by
  let vs := ls.map fun e => (e.1, s.laneBytes 4 e)
  have hread := State.readLanes_home (coreOf x) 4 refill
    (fun e => gs.getLsbD (e.1 / 4) && !(e.2.home true && (s.ctx x).olderReads j (e.2.span 4))) ls (freed s x j) fun e he => by
      obtain ⟨hgs, pa, hpa, hold, hpoison⟩ := hls e he
      refine ⟨?_, pa, hpa, hpoison⟩
      simp only [hgs, hpa, GRef.span, hold, Bool.and_false, Bool.not_false, Bool.and_self]
  have hland := landPend_read hp hw hread (gotAll_ok ls (s.laneBytes 4))
  have hself : ((freed s x j).ctx x) = (s.ctx x).unpend j := State.ctx_upCtx_self _ _ _
  rw [hd] at hland
  obtain ⟨-, -, -, hpends⟩ := ((freed s x j).lands_landVal x (loadVal (.v n) 4 vs).1 (loadVal (.v n) 4 vs).2 0 p.alone).quiet
  obtain ⟨hrows, hrow⟩ := (freed s x j).landVal_row x n (rowOf fun i => BitVec.ofNat 32 (leNat ((vs.find? fun p => p.1 == i).elim [] (·.2))))
    (maskOfFn fun i => vs.any fun p => p.1 == i) 0 p.alone
  rw [hself] at hpends hrows hrow
  refine ⟨_, loadResultLands_ends hrun refill gs, ?_⟩
  rw [hland]
  refine ⟨hpends, hrows, fun k => ⟨fun e he hk => ?_, fun hk => ?_⟩⟩
  · have hfind : vs.find? (fun p => p.1 == k.val) = some (e.1, s.laneBytes 4 e) := hk ▸ find_key (s.laneBytes 4) he hkeys
    have hany : vs.any (fun p => p.1 == k.val) = true :=
      List.any_eq_true.2 ⟨(e.1, s.laneBytes 4 e), List.mem_map_of_mem he, by simpa using hk⟩
    refine (hrow k).trans ?_
    rw [maskOfFn_getLsbD _ _ k.isLt, hany, if_pos rfl, rowOf_getElem, hfind]
    rfl
  · have hany : vs.any (fun p => p.1 == k.val) = false := by
      rw [List.any_eq_false]
      intro p hp
      obtain ⟨e, he, rfl⟩ := List.mem_map.1 hp
      simpa using hk e he
    refine (hrow k).trans ?_
    rw [maskOfFn_getLsbD _ _ k.isLt, hany]
    rfl

/-- A load none of whose lanes is read now stays as it is. -/
theorem load_waits {refill f : Bool} {gs : BitVec 16} {va : Addr} {size : Nat} {e : Nat × GRef} {es : List (Nat × GRef)}
    {got : List (Nat × LdGot)} (hw : p.what = .load va size f (e :: es) got) (hls : ∀ i ∈ e :: es, ¬ gs.getLsbD (i.1 / 4) = true) :
    Ends (.loadResultLands x j ⟨refill, gs⟩) s fun t => t = { s with ctxs := t.ctxs, nfree := s.nfree + 1 } ∧ t.ctx x = s.ctx x := by
  have hread := State.readLanes_none (coreOf x) size f refill
    (fun e => gs.getLsbD (e.1 / 4) && !(e.2.home f && (s.ctx x).olderReads j (e.2.span size))) (e :: es) (s.upCtx x fun c => c.unpend j)
    fun i hi => by simp only [Bool.eq_false_iff.2 (hls i hi), Bool.false_and]
  have hkeep : ({ p with what := .load va size f (e :: es) (got ++ []) } : Pend) = p := by rw [List.append_nil, ← hw]
  have hset : (s.ctx x).pends.set j p = (s.ctx x).pends := by
    obtain ⟨hj, rfl⟩ := List.getElem?_eq_some_iff.1 hp
    exact List.set_getElem_self hj
  have hland : s.landPend x j refill gs = (s.upCtx x fun c => c.unpend j).upCtx x fun c => { c with pends := (s.ctx x).pends } := by
    unfold State.landPend
    rw [hp]
    dsimp only
    rw [hw]
    dsimp only
    rw [hread]
    dsimp only
    rw [hkeep, hset]
  refine ⟨_, loadResultLands_ends hrun refill gs, ?_⟩
  rw [hland]
  refine ⟨rfl, ?_⟩
  rw [State.draw_ctx, State.ctx_upCtx_self, State.ctx_upCtx_self]
  rfl

end

end Sys2Proof.Claims
end

section
/-! SUPPORT. A terminal trap kills the kernel, of a context alone and of a gang's member (05 R108; 16 R357, R360). -/

open Sys2Proof.Claims

namespace Sys2Proof.Machine

/-- What a stopped context keeps of its occupant. -/
theorem State.occ_upCtxs_stop (s : State) (xs : List Nat) {x : Nat} {o : Occ} (h : (s.ctx x).occ = some o) :
    ∃ p, ((s.upCtxs Ctx.stop xs).ctx x).occ = some p ∧ p.kid = o.kid ∧ p.n = o.n := by
  rw [State.upCtxs_eq_foldl]
  refine List.foldlRecOn (motive := fun u : State => ∃ p, (u.ctx x).occ = some p ∧ p.kid = o.kid ∧ p.n = o.n) _ _ ⟨o, h, rfl, rfl⟩
    fun u hu y _ => ?_
  obtain ⟨p, hp, hkid, hn⟩ := hu
  by_cases hy : x = y
  · subst hy
    rw [State.ctx_upCtx_self]
    exact ⟨{ p with st := .halted }, by rw [Ctx.stop, hp]; rfl, hkid, hn⟩
  · rw [State.ctx_upCtx_of_ne _ _ hy]
    exact ⟨p, hp, hkid, hn⟩

theorem State.trapKill_killedBy {s : State} {x : Nat} {o : Occ} {k : Kernel} (h : Holds s x o k) (hst : k.st ≠ .killing) (t : Trap) :
    KilledBy (s.trapKill x t) o.kid fun e => e = ⟨.fault, some t.cause, t.tpc, t.info, o.n, t.unit, false, false⟩ := by
  obtain ⟨hocc, hk⟩ := h
  unfold State.trapKill
  dsimp only
  rw [hocc]
  exact ⟨_, _, (State.kill_begins (s := s.setCtx x (s.ctx x).stop) hk hst _).1, rfl, rfl, rfl⟩

/-- A cause that no handler may take. -/
theorem State.trapIn_killedBy {s : State} {x : Nat} {o : Occ} {k : Kernel} (h : Holds s x o k) (hst : k.st ≠ .killing) {t : Trap}
    (ht : causeFielded t.cause = false) :
    KilledBy (s.trapIn x t) o.kid fun e => e = ⟨.fault, some t.cause, t.tpc, t.info, o.n, t.unit, false, false⟩ := by
  have hfields : (s.ctx x).fields t = false := by simp [Ctx.fields, ht]
  unfold State.trapIn
  split
  · unfold State.takeTrap
    dsimp only
    rw [hfields]
    exact State.trapKill_killedBy h hst t
  · obtain ⟨p, hp, hkid, hn⟩ := s.occ_upCtxs_stop (s.runners x) h.1
    have hfind : [(x, t)].find? (fun r => !(s.ctx r.1).fields r.2) = some (x, t) := List.find?_cons_of_pos (by simpa using hfields)
    have hkernel : (s.upCtxs Ctx.stop (s.runners x)).kernel p.kid = some k := by rw [State.upCtxs_kernel, hkid]; exact h.2
    simp only [State.gangTrap, hfind]
    rw [← hkid, ← hn]
    exact State.trapKill_killedBy ⟨hp, hkernel⟩ hst t

theorem KilledBy.imp {t : State} {kid : Nat} {P Q : EndInfo → Prop} (h : KilledBy t kid P) (hpq : ∀ e, P e → Q e) : KilledBy t kid Q := by
  obtain ⟨k, e, hk, hst, he, hp⟩ := h
  exact ⟨k, e, hk, hst, he, hpq e hp⟩

end Sys2Proof.Machine

namespace Sys2Proof.Claims

open Sys2Proof.Machine

/-- A load that meets poison kills its kernel, at the bundle that issued it (16 R375). -/
theorem load_poisoned {s : State} {x j : Nat} {p : Pend} {refill : Bool} {gs : BitVec 16} {n m pa : Nat} {va : Addr} {f : Bool}
    {u : BitVec 16} {o : Occ} {k : Kernel} (hrun : (s.ctx x).running = true) (hp : (s.ctx x).pends[j]? = some p)
    (hw : p.what = .load va m f [(n, .raw pa)] []) (hgs : gs.getLsbD (n / 4) = true) (hold : (s.ctx x).olderReads j (pa, m) = false)
    (hpoison : s.poisonAt pa m = some u) (hh : Holds s x o k) (hst : k.st ≠ .killing) :
    Ends (.loadResultLands x j ⟨refill, gs⟩) s fun t =>
      KilledBy t o.kid fun e => e.status = .fault ∧ e.cause = some .poison ∧ e.tpc = p.pc ∧ e.unit = u := by
  have hnow : (gs.getLsbD (n / 4) && !((GRef.raw pa).home f && (s.ctx x).olderReads j ((GRef.raw pa).span m))) = true := by
    simp [hgs, GRef.span, hold]
  have hread : (freed s x j).refRead (coreOf x) f refill m (.raw pa) = (freed s x j, .poison u) := by
    simp only [State.refRead, State.homeRead, show (freed s x j).poisonAt pa m = some u from hpoison]
  have hlanes : State.readLanes (coreOf x) f refill m
      (fun e => gs.getLsbD (e.1 / 4) && !(e.2.home f && (s.ctx x).olderReads j (e.2.span m))) [(n, .raw pa)] (freed s x j) =
      (freed s x j, [], [(n, .poison u)]) := by
    simp only [State.readLanes, hnow, if_true, hread]
  have hland : s.landPend x j refill gs = (freed s x j).trapIn x ⟨.poison, p.pc, s.poisonInfo x, u⟩ := by
    unfold freed at hlanes
    unfold State.landPend
    rw [hp]
    dsimp only
    rw [hw]
    dsimp only
    rw [hlanes]
    rfl
  have hheld : Holds (freed s x j) x o k := ⟨(congrArg Ctx.occ (State.ctx_upCtx_self s x _)).trans hh.1, hh.2⟩
  refine ⟨_, loadResultLands_ends hrun refill gs, ?_⟩
  rw [hland]
  refine KilledBy.imp (State.trapIn_killedBy hheld hst (t := ⟨.poison, p.pc, s.poisonInfo x, u⟩) rfl) fun e he => ?_
  subst he
  exact ⟨rfl, rfl, rfl, rfl⟩

end Sys2Proof.Claims
end

section
/-! SUPPORT. A forced turn, and the bundles that trap before they issue (04 R70 to R72, R82; 05 R92). -/

open Sys2Proof.Claims

namespace Sys2Proof.Machine

/-! ## What a fetch of code may fault with (09 R196) -/

/-- A translation or permission failure raises XLATE or PERM. -/
def XFault.Global (f : XFault) : Prop := f.cause = .xlate ∨ f.cause = .perm

theorem error_of_ite {ε α : Type} {c : Prop} [Decidable c] {e f : ε} {r : Except ε α} (h : (if c then .error e else r) = .error f) :
    f = e ∨ r = .error f := by
  split at h
  · exact .inl (Except.error.inj h).symm
  · exact .inr h

theorem leaf_global {e lvl va : Nat} {f : XFault} (h : leaf e lvl va = .error f) : f.Global := by
  rcases error_of_ite h with rfl | h
  · exact .inl rfl
  rcases error_of_ite h with rfl | h
  · exact .inr rfl
  · cases h

theorem State.walkOne_global {s : State} {w : Bool} {va lvl tab : Nat} {f : XFault} (h : s.walkOne w va lvl tab = .ends (.error f)) :
    f.Global := by
  unfold State.walkOne at h
  dsimp only at h
  split at h
  · cases h; exact .inr rfl
  split at h
  · cases h; exact .inl rfl
  split at h
  · split at h <;> cases h
    exact .inl rfl
  split at h
  · cases h; exact .inl rfl
  · exact leaf_global (PteSays.ends.inj h)

theorem State.walkFrom_global {s : State} {w : Bool} {va fuel lvl tab : Nat} {f : XFault} (h : s.walkFrom w va fuel lvl tab = .error f) :
    f.Global := by
  induction fuel generalizing lvl tab with
  | zero => cases h; exact .inl rfl
  | succ n ih =>
    unfold State.walkFrom at h
    split at h
    · rename_i e
      subst h
      exact State.walkOne_global e
    · exact ih h

theorem State.walk_global {s : State} {asid : Nat} {w : Bool} {va : Nat} {f : XFault} (h : s.walk asid w va = .error f) : f.Global := by
  unfold State.walk at h
  split at h
  · rename_i e
    cases h
    unfold State.rootOf at e
    dsimp only at e
    split at e
    · cases e; exact .inl rfl
    · split at e <;> cases e
      exact .inl rfl
  · exact State.walkFrom_global h

theorem State.missWalk_global {s : State} {d asid : Nat} {w : Bool} {va : Nat} {f : XFault} (h : (s.missWalk d asid w va).2 = .error f) :
    f.Global := by
  unfold State.missWalk at h
  split at h
  · dsimp only at h
    split at h
    · cases h
    · rename_i e
      split at h
      · exact State.walk_global h
      · cases h
        exact State.walkFrom_global e
  · exact State.walk_global h

theorem State.translate_global {s : State} {k asid : Nat} {w : Bool} {va : Nat} {f : XFault}
    (h : (s.translate k asid w .fetch va).2 = .error f) : f.Global := by
  have hpermit : ∀ {u : State} {x : Xl}, u.permit w .fetch x va = .error f → f.Global := fun h => by
    unfold State.permit at h
    split at h
    · cases h; exact .inr rfl
    split at h
    · cases h; exact .inr rfl
    · dsimp only at h
      split at h <;> cases h
      exact .inr rfl
  have hlookup : ∀ {u : State}, s.lookup k asid w va = (u, .error f) → f.Global := fun h => by
    unfold State.lookup at h
    split at h
    · cases h
    split at h
    · cases h
    split at h
    · cases h
    · rename_i e
      cases h
      exact State.missWalk_global (congrArg Prod.snd e)
  unfold State.translate at h
  split at h
  · exact hpermit h
  · rename_i e
    cases h
    exact hlookup e

theorem State.fetchPacket_global {s : State} {x pk : Nat} {f : XFault} (h : (s.fetchPacket x pk).2 = .fault f) : f.Global := by
  unfold State.fetchPacket at h
  split at h
  · rename_i e
    cases h
    exact State.translate_global (congrArg Prod.snd e)
  · rename_i u t _
    dsimp only at h
    split at h
    · cases h
    · rename_i e
      unfold State.icacheLine at e
      split at e
      · cases e
      · split at e <;> cases e
    · cases h

end Sys2Proof.Machine
end

section
/-! SUPPORT. A forced turn, and the bundles that trap before they issue (04 R70 to R72, R82; 05 R92). -/

open Sys2Proof.Machine

namespace Sys2Proof.Claims

theorem tryHand_notReady {s : State} {x : Nat} (h : s.mayIssue x = false) : s.tryHand x = .notReady s := by
  unfold State.tryHand
  rw [h]
  rfl

/-- No turn is forced, or context 1 may not issue. -/
theorem forcedIssue_idle {s : State} {core : Nat} (h : (s.core core).forced = false ∨ s.mayIssue (2 * core + 1) = false) :
    Makes (.forcedIssue core) s s := by
  change execForcedIssue core s = _
  unfold execForcedIssue
  cases hf : (s.core core).forced with
  | false => rfl
  | true =>
    dsimp only
    rw [tryHand_notReady (h.resolve_left (by rw [hf]; decide))]
    rfl

/-- A forced turn issues the bundle of context 1 (05 R92). -/
theorem forcedIssue_issues {s u : State} {core : Nat} {b : Bundle} {n : Addr} (hf : (s.core core).forced = true)
    (hr : s.tryHand (2 * core + 1) = .ready u b n) :
    Ends (.forcedIssue core) s fun t =>
      (∃ v, issueWords (bundleEffs b.items) { u.settleLoads (2 * core + 1) b.items with cur := 2 * core + 1 } = .next v ∧
        t = (v.deliverResume (2 * core + 1)).upCore core fun k => { k with w := 0, forced := false }) ∧
      (t.core core).w = 0 ∧ (t.core core).forced = false := by
  obtain ⟨v, hv⟩ := issueWords_next (bundleEffs b.items) { u.settleLoads (2 * core + 1) b.items with cur := 2 * core + 1 }
  refine ⟨_, ?_, ⟨v, hv, rfl⟩, ?_⟩
  · change execForcedIssue core s = _
    unfold execForcedIssue
    rw [hf]
    dsimp only
    rw [hr]
    dsimp only
    rw [hv]
    rfl
  · rw [State.core_upCore_self]
    exact ⟨rfl, rfl⟩

/-! ## The bundle at hand -/

theorem fetch_idle {s : State} {x : Nat} (h : s.mayIssue x = false) : Makes (.illegalEnc x) s s ∧ Makes (.fetchFault x) s s := by
  have he : exec (.illegalEnc x) s = execIllegalEnc x s := rfl
  have hf : exec (.fetchFault x) s = execFetchFault x s := rfl
  unfold Makes
  rw [he, hf, execIllegalEnc, execFetchFault, h]
  exact ⟨rfl, rfl⟩

theorem packet_gmode (s : State) (x pk : Nat) : ((s.packet x pk).1.ctx x).gmode = (s.ctx x).gmode := by
  have h := s.fetchPacket_fetches x pk
  unfold State.packet
  split
  · rfl
  · split <;> rename_i e <;> rw [e] at h <;> have hg := congrArg Ctx.gmode (h.ctx x)
    · rw [State.ctx_upCtx_self]
      exact hg
    · exact hg
    · exact hg

theorem packet_global {s : State} {x pk : Nat} {f : XFault} (h : (s.packet x pk).2 = .fault f) : f.Global := by
  unfold State.packet at h
  split at h
  · cases h
  · split at h <;> rename_i e
    · cases h
    · cases h
      exact State.fetchPacket_global (congrArg Prod.snd e)
    · cases h

section
variable {s u : State} {x : Nat} (hmay : s.mayIssue x = true)
include hmay

/-- Both happenings leave a bundle that can be had and decodes, and a fetch that parks. -/
theorem hand_quiet {r : Begin} (h : s.hand x = (u, r)) (hr : ∀ t, r ≠ .trap t) : Makes (.illegalEnc x) s u ∧ Makes (.fetchFault x) s u := by
  have he : exec (.illegalEnc x) s = execIllegalEnc x s := rfl
  have hf : exec (.fetchFault x) s = execFetchFault x s := rfl
  unfold Makes
  rw [he, hf, execIllegalEnc, execFetchFault, hmay, h]
  cases r with
  | trap t => exact absurd rfl (hr t)
  | bundle b ws n => exact ⟨rfl, rfl⟩
  | park => exact ⟨rfl, rfl⟩

/-- A bundle that traps is for the one or the other, by its cause. -/
theorem hand_traps {t : Trap} (h : s.hand x = (u, .trap t)) (hg : (u.ctx x).gmode = 0) :
    (t.cause = .illegalEnc → Makes (.illegalEnc x) s (u.takeTrap x t).draw ∧ Makes (.fetchFault x) s u) ∧
      (t.cause ≠ .illegalEnc → Makes (.illegalEnc x) s u ∧ Makes (.fetchFault x) s (u.takeTrap x t).draw) := by
  have he : exec (.illegalEnc x) s = execIllegalEnc x s := rfl
  have hf : exec (.fetchFault x) s = execFetchFault x s := rfl
  have htrap : u.trapIn x t = u.takeTrap x t := if_pos hg
  unfold Makes
  rw [he, hf, execIllegalEnc, execFetchFault, hmay, h, ← htrap]
  refine ⟨fun hc => ⟨congrArg Host.Outcome.next (if_pos hc), congrArg Host.Outcome.next (if_pos hc)⟩,
    fun hc => ⟨congrArg Host.Outcome.next (if_neg hc), congrArg Host.Outcome.next (if_neg hc)⟩⟩

end

/-- The first word of a bundle at a word of its packet. -/
theorem frameAt_head (ws : List W32) (i : Nat) : (frameAt ws i).getD 0 0 = ws.getD i 0 := by
  unfold frameAt
  cases h : ws.drop i with
  | nil =>
    have hlen : ws.length ≤ i := List.drop_eq_nil_iff.1 h
    simp [List.getD, List.getElem?_eq_none hlen]
  | cons w rest =>
    have hget : ws[i]? = some w := by
      have hdrop := List.getElem?_drop (xs := ws) (i := i) (j := 0)
      rw [h] at hdrop
      exact hdrop.symm
    simp [List.getD, hget]

/-- What is at hand where the packet of the pc can be had (04 R69 to R72, R82). -/
theorem hand_of_packet {s u : State} {x : Nat} {ws : List W32} (h : s.packet x ((s.ctx x).pc.toNat / 32 * 32) = (u, .ok ws)) :
    let pc := (s.ctx x).pc
    let i := pc.toNat % 32 / 4
    s.hand x = (u,
      if isPool ws then .trap ⟨.poolExec, pc, BitVec.ofNat 64 (pc.toNat / 32 * 32), 0⟩
      else if !bBit (ws.getD i 0) then .trap ⟨.illegalEnc, pc, encInfo 0 .frame (ws.getD i 0).toNat, 0⟩
      else match decodeBundle (u.phloOf x) (u.phcntOf x) (u.ringsOf x) ((frameAt ws i).map (·.toNat)) with
        | .error (k, r, w) => .trap ⟨.illegalEnc, pc, encInfo k r w, 0⟩
        | .ok d => .bundle d ((frameAt ws i).map (·.toNat)) (successor ws (pc.toNat / 32 * 32) i (frameAt ws i).length)) := by
  have hpc : BitVec.ofNat 48 (s.ctx x).pc.toNat = (s.ctx x).pc := by simp
  unfold State.hand State.beginAt
  dsimp only
  rw [h]
  dsimp only
  rw [hpc, frameAt_head]
  split
  · rfl
  · split
    · rfl
    · generalize decodeBundle _ _ _ _ = d
      rcases d with ⟨k, r, w⟩ | d
      · rfl
      · rfl

/-- The bundle at a pc whose packet can be had. -/
theorem fetch_of_packet {s u : State} {x : Nat} {ws : List W32} (hmay : s.mayIssue x = true) (hg : (u.ctx x).gmode = 0)
    (h : s.packet x ((s.ctx x).pc.toNat / 32 * 32) = (u, .ok ws)) :
    let pc := (s.ctx x).pc
    let i := pc.toNat % 32 / 4
    let trap := fun (cause : Cause) (info : W64) => (u.takeTrap x ⟨cause, pc, info, 0⟩).draw
    (isPool ws = true → Makes (.illegalEnc x) s u ∧ Makes (.fetchFault x) s (trap .poolExec (BitVec.ofNat 64 (pc.toNat / 32 * 32)))) ∧
      (isPool ws = false → bBit (ws.getD i 0) = false → Makes (.fetchFault x) s u ∧
        Makes (.illegalEnc x) s (trap .illegalEnc (encInfo 0 .frame (ws.getD i 0).toNat))) ∧
      (isPool ws = false → bBit (ws.getD i 0) = true →
        match decodeBundle (u.phloOf x) (u.phcntOf x) (u.ringsOf x) ((frameAt ws i).map (·.toNat)) with
        | .error (k, r, w) => Makes (.fetchFault x) s u ∧ Makes (.illegalEnc x) s (trap .illegalEnc (encInfo k r w))
        | .ok _ => Makes (.fetchFault x) s u ∧ Makes (.illegalEnc x) s u) := by
  have hhand := hand_of_packet h
  dsimp only at hhand
  refine ⟨fun hp => ?_, fun hp hb => ?_, fun hp hb => ?_⟩
  · rw [hp, if_pos rfl] at hhand
    exact (hand_traps hmay hhand hg).2 (show Cause.poolExec ≠ .illegalEnc by decide)
  · rw [hp, hb, if_neg (by decide), if_pos (by decide)] at hhand
    exact ((hand_traps hmay hhand hg).1 rfl).symm
  · rw [hp, hb, if_neg (by decide), if_neg (by decide)] at hhand
    cases hd : decodeBundle (u.phloOf x) (u.phcntOf x) (u.ringsOf x) ((frameAt ws ((s.ctx x).pc.toNat % 32 / 4)).map (·.toNat)) with
    | error e =>
      rw [hd] at hhand
      exact ((hand_traps hmay hhand hg).1 rfl).symm
    | ok d =>
      rw [hd] at hhand
      exact (hand_quiet hmay hhand fun _ h => by cases h).symm

/-- The bundle at a pc whose fetch faults. -/
theorem fetch_of_fault {s u : State} {x : Nat} {f : XFault} (hmay : s.mayIssue x = true) (hg : (u.ctx x).gmode = 0)
    (h : s.packet x ((s.ctx x).pc.toNat / 32 * 32) = (u, .fault f)) :
    Makes (.illegalEnc x) s u ∧ (f = xNomap ∧ u.hostPf = true → Makes (.fetchFault x) s u) ∧
      (¬(f = xNomap ∧ u.hostPf = true) →
        Makes (.fetchFault x) s (u.takeTrap x ⟨f.cause, (s.ctx x).pc, (s.ctx x).pc.setWidth 64, 0⟩).draw) := by
  have hpc : BitVec.ofNat 48 (s.ctx x).pc.toNat = (s.ctx x).pc := by simp
  have hinfo : BitVec.ofNat 64 ((s.ctx x).pc.toNat % 2 ^ 48) = (s.ctx x).pc.setWidth 64 := by bv_omega
  have hcause : f.cause ≠ .illegalEnc := by
    rcases packet_global (congrArg Prod.snd h) with hc | hc <;> rw [hc] <;> decide
  have hhand : s.hand x = if f = xNomap && u.hostPf then (u, .park)
      else (u, .trap ⟨f.cause, (s.ctx x).pc, (s.ctx x).pc.setWidth 64, 0⟩) := by
    unfold State.hand State.beginAt
    dsimp only
    rw [h]
    dsimp only
    rw [hpc, hinfo]
  by_cases hpark : f = xNomap ∧ u.hostPf = true
  · rw [if_pos (by simpa using hpark)] at hhand
    obtain ⟨hi, hf⟩ := hand_quiet hmay hhand fun _ h => by cases h
    exact ⟨hi, fun _ => hf, fun hn => absurd hpark hn⟩
  · rw [if_neg (by simpa using hpark)] at hhand
    obtain ⟨hi, hf⟩ := (hand_traps hmay hhand hg).2 hcause
    exact ⟨hi, fun hp => absurd hp hpark, fun _ => hf⟩

/-- The bundle at a pc whose packet is poisoned. -/
theorem fetch_of_poison {s u : State} {x : Nat} {n : BitVec 16} (hmay : s.mayIssue x = true) (hg : (u.ctx x).gmode = 0)
    (h : s.packet x ((s.ctx x).pc.toNat / 32 * 32) = (u, .poison n)) :
    Makes (.illegalEnc x) s u ∧ ∃ w, Makes (.fetchFault x) s (u.takeTrap x ⟨.poison, (s.ctx x).pc, w, n⟩).draw := by
  have hpc : BitVec.ofNat 48 (s.ctx x).pc.toNat = (s.ctx x).pc := by simp
  have hhand : s.hand x = (u, .trap ⟨.poison, (s.ctx x).pc, u.poisonInfo x, n⟩) := by
    unfold State.hand State.beginAt
    dsimp only
    rw [h]
    dsimp only
    rw [hpc]
  obtain ⟨hi, hf⟩ := (hand_traps hmay hhand hg).2 (show Cause.poison ≠ .illegalEnc by decide)
  exact ⟨hi, _, hf⟩

/-! ## The statement -/

/-- A result in flight lands (05 R94, R95). -/
theorem resultLands_result (s : State) (x j : Nat) (f : Flight) (h : (s.ctx x).flight[j]? = some f) :
    Ends (.resultLands x j) s fun t =>
      t = { s with ctxs := t.ctxs } ∧ (∀ y, y ≠ x → t.ctx y = s.ctx y) ∧
      t.ctx x = { s.ctx x with
        flight := ((s.ctx x).flight.take j).map (·.cut f.val f.live) ++ (s.ctx x).flight.drop (j + 1)
        arith := (s.ctx x).arith ||| f.flags, s := (t.ctx x).s, v := (t.ctx x).v, cm := (t.ctx x).cm } ∧
      match f.val with
      | .s n y => (t.ctx x).v = (s.ctx x).v ∧ (t.ctx x).cm = (s.ctx x).cm ∧
        (t.ctx x).s = if f.live = 0 then (s.ctx x).s else (s.ctx x).s.set n y
      | .v n y => (t.ctx x).s = (s.ctx x).s ∧ (t.ctx x).cm = (s.ctx x).cm ∧ (∀ m : Fin 64, m ≠ n → (t.ctx x).v[m] = (s.ctx x).v[m]) ∧
        ∀ k : Fin 64, (t.ctx x).v[n][k] = if f.live.getLsbD k then y[k] else (s.ctx x).v[n][k]
      | .cm y => (t.ctx x).s = (s.ctx x).s ∧ (t.ctx x).v = (s.ctx x).v ∧
        ∀ k, k < 64 → (t.ctx x).cm.getLsbD k = if f.live.getLsbD k then y.getLsbD k else (s.ctx x).cm.getLsbD k := by
  refine ⟨_, resultLands_ends s x j h, rfl, fun y hy => State.ctx_upCtx_of_ne _ _ hy, ?_⟩
  rw [State.ctx_upCtx_self]
  cases hv : f.val with
  | s n y =>
    rw [Ctx.land_scalar _ hv]
    exact ⟨rfl, rfl, rfl, rfl⟩
  | v n y =>
    refine ⟨?_, ?_, ?_, fun m hm => ?_, fun k => Ctx.land_row_lane _ hv k⟩ <;> rw [Ctx.land_row _ hv]
    exact vector_set_of_ne _ _ hm
  | cm y =>
    rw [Ctx.land_mask _ hv]
    exact ⟨rfl, rfl, rfl, fun k hk => mask_mix_bit _ _ _ k hk⟩

/-- Settles O48: a landing is a write of the live lanes, each outstanding destination lands by its kind, and a bundle that traps before it
issues is found by what its packet holds. -/
theorem landingResult : Obligations.LandingResult := by
  intro s x j core refill gs
  refine ⟨fun h => ?_, resultLands_result s x j, ⟨fun h => ?_, fun h hp => ?_, fun hrun p hp => ?_⟩, forcedIssue_idle,
    fun hf u b n hr => forcedIssue_issues hf hr, fetch_idle, fun hmay hg => ?_⟩
  · refine congrArg Host.Outcome.next ?_
    rw [h]
  · exact congrArg Host.Outcome.next (if_neg (by rw [h]; decide))
  · refine (loadResultLands_ends h refill gs).trans (congrArg (fun u : State => Host.Outcome.next u.draw) ?_)
    unfold State.landPend
    rw [hp]
  · refine ⟨fun n v hd hw => answer_lands hrun hp refill gs hd hw, fun n svc a hd hw hsvc => refusal_lands hrun hp refill gs hd hw hsvc,
      fun n va pa f hd hgs => ⟨fun hw hr => ?_, fun hw hr => ?_⟩, fun n va ls hd hw hls hkeys => ?_,
      fun va m f e es got hw hls => load_waits hrun hp hw hls,
      fun n va m f pa u o k hw hgs hold hpoison hh hst => load_poisoned hrun hp hw hgs hold hpoison hh hst⟩
    · have hland := scalarLoad_lands (gs := gs) hrun hp hd hw hgs hr.1 hr.2
      rw [if_pos rfl, State.rd_eq_map_byte] at hland
      exact hland
    · have hland := scalarLoad_lands (gs := gs) hrun hp hd hw hgs hr.1 hr.2
      rw [if_neg (by decide), State.rd_eq_map_byte] at hland
      exact hland
    · obtain ⟨t, ht, hpends, hrows, hrow⟩ := rowLoad_lands (refill := refill) (gs := gs) hrun hp hd hw (fun e he => by
        obtain ⟨hgs, pa, hpa, hread, hpoison⟩ := hls e he
        exact ⟨hgs, pa, hpa, (hread.resolve_right fun h => by cases h.1).2, hpoison⟩) hkeys
      refine ⟨t, ht, hpends, hrows, fun k => ⟨fun pa he => ?_, (hrow k).2⟩⟩
      dsimp only
      rw [← State.rd_eq_map_byte]
      exact (hrow k).1 _ he rfl
  · have hug := (packet_gmode s x ((s.ctx x).pc.toNat / 32 * 32)).trans hg
    dsimp only
    generalize hpacket : s.packet x ((s.ctx x).pc.toNat / 32 * 32) = r at hug ⊢
    obtain ⟨u, ws | f | n⟩ := r
    · obtain ⟨hpool, hframe, hdecode⟩ := fetch_of_packet hmay hug hpacket
      exact ⟨hpool, fun hp hb _ => hframe hp hb, fun hp hb _ => hdecode hp hb⟩
    · exact fetch_of_fault hmay hug hpacket
    · exact fetch_of_poison hmay hug hpacket

end Sys2Proof.Claims
end

section
/-! SUPPORT. A quarantined unit stays quarantined, and quarantine touches no memory and no context (16 R375); what a kill leaves alone. -/

open Sys2Proof.Claims

namespace Sys2Proof.Machine

/-! ## Quarantine -/

/-- Quarantine changes the list of quarantined units and, for a slice, the records of its lines. -/
theorem State.quarantine_rest (s : State) (u : Nat) (pair : Bool) :
    ∃ q ls, s.quarantine u pair = { s with sys := { s.sys with quar := q }, lines := ls } := by
  unfold State.quarantine
  dsimp only
  split <;> exact ⟨_, _, rfl⟩

theorem State.quar_quarantine (s : State) (u : Nat) (pair : Bool) : (s.quarantine u pair).sys.quar =
    if s.quarantined u then s.sys.quar.map fun e => if e.unit.toNat = u then { e with pair := e.pair || pair } else e
    else s.sys.quar ++ [⟨BitVec.ofNat 16 u, pair, s.hostQuar⟩] := by
  unfold State.quarantine
  dsimp only
  by_cases h : u / 4096 = 3
  · rw [if_pos h]; rfl
  · rw [if_neg h]; rfl

/-- A unit of the list is still on it. -/
theorem State.quarantined_mono {s : State} {v : Nat} (h : s.quarantined v = true) (u : Nat) (pair : Bool) :
    (s.quarantine u pair).quarantined v = true := by
  obtain ⟨e, he, hv⟩ := List.any_eq_true.1 h
  refine List.any_eq_true.2 ?_
  rw [State.quar_quarantine]
  split
  · refine ⟨_, List.mem_map_of_mem he, ?_⟩
    split <;> exact hv
  · exact ⟨e, List.mem_append_left _ he, hv⟩

theorem State.quarantined_quarantine (s : State) {u : Nat} (hu : u < 65536) (pair : Bool) : (s.quarantine u pair).quarantined u = true := by
  cases h : s.quarantined u with
  | true => exact State.quarantined_mono h u pair
  | false =>
    refine List.any_eq_true.2 ⟨⟨BitVec.ofNat 16 u, pair, s.hostQuar⟩, ?_, ?_⟩
    · rw [State.quar_quarantine, h]
      simp
    · simp only [BitVec.toNat_ofNat, beq_iff_eq]
      omega

/-- Quarantine isolates a unit, after a change that spares memory and contexts. -/
theorem State.isolates_quarantine {s s1 : State} {u : Nat} (hmem : s1.mem = s.mem) (hctxs : s1.ctxs = s.ctxs) (hu : u < 65536) (pair : Bool) :
    Isolates s (s1.quarantine u pair) u := by
  refine ⟨s1.quarantined_quarantine hu pair, ?_⟩
  obtain ⟨q, ls, heq⟩ := s1.quarantine_rest u pair
  rw [heq]
  exact ⟨hmem, hctxs⟩

theorem State.quarantine_core (s : State) (u : Nat) (pair : Bool) (k : Nat) : (s.quarantine u pair).core k = s.core k := by
  obtain ⟨q, ls, heq⟩ := s.quarantine_rest u pair
  rw [heq]; rfl

theorem State.quarantine_group (s : State) (u : Nat) (pair : Bool) (g : Nat) : (s.quarantine u pair).group g = s.group g := by
  obtain ⟨q, ls, heq⟩ := s.quarantine_rest u pair
  rw [heq]; rfl

theorem State.quarantine_ctx (s : State) (u : Nat) (pair : Bool) (y : Nat) : (s.quarantine u pair).ctx y = s.ctx y := by
  obtain ⟨q, ls, heq⟩ := s.quarantine_rest u pair
  rw [heq]; rfl

theorem State.quarantine_kernel (s : State) (u : Nat) (pair : Bool) (kid : Nat) : (s.quarantine u pair).kernel kid = s.kernel kid := by
  obtain ⟨q, ls, heq⟩ := s.quarantine_rest u pair
  rw [heq]; rfl

theorem State.quarantine_mem (s : State) (u : Nat) (pair : Bool) : (s.quarantine u pair).mem = s.mem := by
  obtain ⟨q, ls, heq⟩ := s.quarantine_rest u pair
  rw [heq]

/-! ## Records of lines -/

/-- A record at a key, after every record of the map has been changed by its key. -/
theorem get_map_put {α : Type} (d v : α) (f : Nat × α → α) (hf : f (l, v) = v) (m : SMap α) :
    SMap.get d ((m.put l v).map fun e => (e.1, f e)) l = v := by
  induction m with
  | nil => simp [SMap.put, SMap.get, hf]
  | cons e m ih =>
    obtain ⟨j, w⟩ := e
    unfold SMap.put
    split
    · simp [SMap.get, hf]
    split
    · simp [SMap.get, hf]
    · rename_i hne
      simp only [List.map_cons, SMap.get, if_neg hne]
      exact ih

/-- A poisoned record keeps its writer tag when its slice is quarantined (16 R375). -/
theorem State.line_quarantine_poisoned (s : State) (l u : Nat) (pair : Bool) {r : LineRec} (hr : r.poison.isNone = false) :
    (({ s with lines := s.lines.put l r } : State).quarantine u pair).lines.get LineRec.init l = r := by
  unfold State.quarantine
  dsimp only
  split
  · exact get_map_put _ _ _ (if_neg fun h => by simp [hr] at h) _
  · exact SMap.get_put_self _ _ _ _

theorem homeSlice_lt (pa : Nat) : homeSlice pa < 128 := by
  have hxor : nb pa 7 4 ^^^ nb pa 11 4 ^^^ nb pa 15 4 ^^^ nb pa 19 4 < 2 ^ 4 := by
    have h : ∀ n, nb pa n 4 < 2 ^ 4 := fun n => Nat.mod_lt _ (by decide)
    exact Nat.xor_lt_two_pow (Nat.xor_lt_two_pow (Nat.xor_lt_two_pow (h 7) (h 11)) (h 15)) (h 19)
  have hj : nb pa 36 3 < 2 ^ 3 := Nat.mod_lt _ (by decide)
  unfold homeSlice
  dsimp only
  omega

/-! ## Kills -/

/-- A kill changes contexts, cores and kernels only. -/
theorem State.kill_rest (s : State) (kid : Nat) (e : EndInfo) :
    ∃ cs ks vs, s.kill kid e = { s with ctxs := cs, cores := ks, kernels := vs } := by
  have hstops : ∀ (u : State) (f : Ctx → Ctx) (xs : List Nat),
      ∃ cs ks, (u.upCtxs f xs).dropCopies kid xs = { u with ctxs := cs, cores := ks } := fun u f xs => by
    obtain ⟨cs, hcs⟩ := u.upCtxs_rest f xs
    obtain ⟨ks, hks⟩ := (u.upCtxs f xs).dropCopies_rest kid xs
    exact ⟨cs, ks, by rw [hks, hcs]⟩
  unfold State.kill
  split
  · exact ⟨_, _, _, rfl⟩
  split
  · split <;> exact ⟨_, _, _, rfl⟩
  · obtain ⟨cs, ks, h⟩ := hstops _ _ _
    exact ⟨cs, ks, _, h⟩

theorem State.mem_kill (s : State) (kid : Nat) (e : EndInfo) : (s.kill kid e).mem = s.mem := by
  obtain ⟨cs, ks, vs, heq⟩ := s.kill_rest kid e
  rw [heq]

theorem State.sys_kill (s : State) (kid : Nat) (e : EndInfo) : (s.kill kid e).sys = s.sys := by
  obtain ⟨cs, ks, vs, heq⟩ := s.kill_rest kid e
  rw [heq]

theorem State.lines_kill (s : State) (kid : Nat) (e : EndInfo) : (s.kill kid e).lines = s.lines := by
  obtain ⟨cs, ks, vs, heq⟩ := s.kill_rest kid e
  rw [heq]

/-- What holds of a context whatever its loads and its halt request are holds of it after a kill. -/
theorem State.ctx_kill {P : Ctx → Prop} (hP : ∀ c, P c → P ((c.dropLoads).request .kill)) (s : State) (kid : Nat) (e : EndInfo) {y : Nat}
    (hy : P (s.ctx y)) : P ((s.kill kid e).ctx y) := by
  unfold State.kill
  split
  · exact hy
  split
  · split <;> exact hy
  · rw [State.dropCopies_ctx, State.upCtxs_eq_foldl]
    refine List.foldlRecOn (motive := fun u : State => P (u.ctx y)) _ _ hy fun u hu x _ => ?_
    by_cases hx : y = x
    · subst hx
      rw [State.ctx_upCtx_self]
      exact hP _ hu
    · rw [State.ctx_upCtx_of_ne _ _ hx]
      exact hu

end Sys2Proof.Machine
end

section
/-! SUPPORT. Double-bit errors, by the storage that they hit (16 R374 to R376). -/

open Sys2Proof.Machine

namespace Sys2Proof.Claims

/-- A filtered map lists none of the keys that were dropped. -/
theorem get_filter_none {α : Type} (d : α) (m : SMap α) {p : Nat → Bool} {k : Nat} (hk : p k = true) :
    SMap.get d (m.filter fun e => !p e.1) k = d := by
  induction m with
  | nil => rfl
  | cons e m ih =>
    obtain ⟨j, v⟩ := e
    by_cases hj : p j = true
    · rw [List.filter_cons_of_neg (by simpa using hj)]
      exact ih
    · rw [List.filter_cons_of_pos (by simpa using hj)]
      simp only [SMap.get]
      rw [if_neg (fun e : k = j => hj (e ▸ hk))]
      exact ih

theorem mem_addOnce {l : List Nat} {g : Nat} : g ∈ (if l.contains g then l else g :: l) := by
  split
  · rename_i h
    simpa using h
  · exact .head _

section
variable (s : State) {k : Nat} (g l : Nat)

section
variable (hk : k < 384)
include hk

theorem coreUnit_lt : 0x1000 + k < 65536 := by omega

/-- A core's part is changed, and its core quarantined. -/
theorem isolates_core (f : Core → Core) : Isolates s ((s.upCore k f).quarantine (0x1000 + k) false) (0x1000 + k) ∧
    ((s.upCore k f).quarantine (0x1000 + k) false).core k = f (s.core k) := by
  refine ⟨State.isolates_quarantine rfl rfl (coreUnit_lt hk) false, ?_⟩
  rw [State.quarantine_core, State.core_upCore_self]

theorem ecc_icache : Ends (.eccError (.icache k g)) s fun t => Isolates s t (0x1000 + k) ∧ (t.core k).icache.get none (g / 8) = none := by
  obtain ⟨hi, hc⟩ := isolates_core s hk fun c => c.icDrop (· == g / 8)
  refine ⟨_, rfl, hi, ?_⟩
  exact (congrArg (fun c : Core => c.icache.get none (g / 8)) hc).trans (get_filter_none _ _ (p := (· == g / 8)) (by simp))

theorem ecc_l1 : Ends (.eccError (.l1 k g)) s fun t => Isolates s t (0x1000 + k) ∧ (t.core k).l1.get none (g / 8) = none := by
  obtain ⟨hi, hc⟩ := isolates_core s hk fun c => { c with l1 := c.l1.del (g / 8) }
  exact ⟨_, rfl, hi, (congrArg (fun c : Core => c.l1.get none (g / 8)) hc).trans (SMap.get_del_self _ _ _)⟩

theorem ecc_tlb : Ends (.eccError (.tlb k)) s fun t => Isolates s t (0x1000 + k) ∧ ∀ e ∈ (t.core k).tlb, e ∈ (s.core k).tlb := by
  obtain ⟨hi, hc⟩ := isolates_core s hk fun c => { c with tlb := c.tlb.eraseIdx (Config.freeNat s.nfree (0x610000 + k) % max 1 c.tlb.length) }
  refine ⟨_, rfl, hi, fun e he => ?_⟩
  have he : e ∈ (s.core k).tlb.eraseIdx _ := (congrArg (fun c : Core => e ∈ c.tlb) hc).mp he
  exact List.mem_of_mem_eraseIdx he

theorem ecc_scratch : Ends (.eccError (.scratch k g)) s fun t => Isolates s t (0x1000 + k) ∧ g ∈ (t.core k).spPoison := by
  obtain ⟨hi, hc⟩ := isolates_core s hk fun c => { c with spPoison := if c.spPoison.contains g then c.spPoison else g :: c.spPoison }
  exact ⟨_, rfl, hi, (congrArg (fun c : Core => g ∈ c.spPoison) hc).mpr mem_addOnce⟩

theorem ecc_tile : Ends (.eccError (.tile k g)) s fun t => Isolates s t (0x1000 + k) ∧ g ∈ (t.core k).tilePoison := by
  obtain ⟨hi, hc⟩ := isolates_core s hk fun c => { c with tilePoison := if c.tilePoison.contains g then c.tilePoison else g :: c.tilePoison }
  exact ⟨_, rfl, hi, (congrArg (fun c : Core => g ∈ c.tilePoison) hc).mpr mem_addOnce⟩

end

theorem ecc_l2tlb (die : Fin 4) : Ends (.eccError (.l2tlb die)) s fun t => t = { s with l2tlb := t.l2tlb, nfree := t.nfree } ∧
    ∀ e ∈ t.l2tlb.get [] die.val, e ∈ s.l2tlb.get [] die.val := by
  refine ⟨_, rfl, rfl, fun e he => ?_⟩
  have he := (congrArg (e ∈ ·) (SMap.get_put_self _ _ _ _)).mp he
  exact List.mem_of_mem_eraseIdx he

theorem ecc_scaleCache (hg : g < 96) : Ends (.eccError (.scaleCache g)) s fun t => Isolates s t (0x2000 + g) ∧ (t.group g).scache = [] := by
  refine ⟨_, rfl, State.isolates_quarantine rfl rfl (show 0x2000 + g < 65536 by omega) false, ?_⟩
  rw [State.quarantine_group, State.group_setGroup_self]

theorem ecc_meridian (die : Fin 4) : Ends (.eccError (.meridian die)) s fun t => Isolates s t (0x6000 + die) :=
  ⟨_, rfl, State.isolates_quarantine rfl rfl (show 0x6000 + die.val < 65536 by omega) false⟩

theorem ecc_port (port : Fin 16) : Ends (.eccError (.port port)) s fun t => Isolates s t (0x7000 + port) :=
  ⟨_, rfl, State.isolates_quarantine rfl rfl (show 0x7000 + port.val < 65536 by omega) false⟩

/-! ## Lines of the last-level cache and of HBM -/

theorem sliceUnit_lt : 0x3000 + homeSlice (128 * l) < 65536 := by
  have := homeSlice_lt (128 * l)
  omega

theorem ecc_cleanLine : Ends (.eccError (.cleanLine l)) s fun t => Isolates s t (0x3000 + homeSlice (128 * l)) :=
  ⟨_, rfl, State.isolates_quarantine rfl rfl (sliceUnit_lt l) false⟩

theorem ecc_dirtyLine_idle (h : (s.lines.get LineRec.init l).tag = none) : Makes (.eccError (.dirtyLine l)) s s :=
  congrArg Host.Outcome.next (if_pos (by rw [h]; rfl))

theorem ecc_dirtyLine (h : (s.lines.get LineRec.init l).tag ≠ none) : Ends (.eccError (.dirtyLine l)) s fun t =>
    Isolates s t (0x3000 + homeSlice (128 * l)) ∧
      t.lines.get LineRec.init l = { s.lines.get LineRec.init l with poison := some (BitVec.ofNat 16 (0x3000 + homeSlice (128 * l))) } :=
  ⟨_, congrArg Host.Outcome.next (if_neg (by simpa using h)), State.isolates_quarantine rfl rfl (sliceUnit_lt l) false,
    State.line_quarantine_poisoned s l _ false rfl⟩

theorem ecc_hbmLine_idle (h : (s.lines.get LineRec.init l).tag ≠ none) : Makes (.eccError (.hbmLine l)) s s :=
  congrArg Host.Outcome.next (if_pos (by simpa [Option.isSome_iff_ne_none] using h))

theorem ecc_hbmLine (h : (s.lines.get LineRec.init l).tag = none) : Ends (.eccError (.hbmLine l)) s fun t =>
    Isolates s t (0x4000 + 128 * l / 2 ^ 36 % 8) ∧
      t.lines.get LineRec.init l = { s.lines.get LineRec.init l with poison := some (BitVec.ofNat 16 (0x4000 + 128 * l / 2 ^ 36 % 8)) } :=
  ⟨_, congrArg Host.Outcome.next (if_neg (by rw [h]; decide)),
    State.isolates_quarantine rfl rfl (show 0x4000 + 128 * l / 2 ^ 36 % 8 < 65536 by omega) false,
    State.line_quarantine_poisoned s l _ false rfl⟩

end

end Sys2Proof.Claims
end

section
/-! SUPPORT. A double-bit error in the array fails its operation (10 R227), and one in an Orrery's staging its collective (15 R350). -/

open Sys2Proof.Claims

namespace Sys2Proof.Machine

/-! ## The array -/

/-- Cores alone separate `t` from `s`. -/
def State.OnlyCores (s t : State) : Prop := ∃ ks, t = { s with cores := ks }

theorem State.OnlyCores.foldl {α : Type} {f : State → α → State} (hf : ∀ u a, State.OnlyCores u (f u a)) (l : List α) (s : State) :
    s.OnlyCores (l.foldl f s) :=
  List.foldlRecOn (motive := fun u => s.OnlyCores u) l f ⟨_, rfl⟩ fun u ⟨ks, hu⟩ a _ => by
    obtain ⟨ks', h⟩ := hf u a
    exact ⟨ks', by rw [h, hu]⟩

theorem State.onlyCores_undefineCmd (s : State) (k : Nat) (m : MxCmd) : s.OnlyCores (s.undefineCmd k m) := by
  unfold State.undefineCmd
  split
  · exact State.OnlyCores.foldl (fun u _ => ⟨_, rfl⟩) _ s
  · split
    · exact State.OnlyCores.foldl (fun u _ => ⟨_, rfl⟩) _ s
    · exact ⟨_, rfl⟩
  · split
    · exact State.OnlyCores.foldl (fun u _ => ⟨_, rfl⟩) _ s
    · exact ⟨_, rfl⟩
  · exact ⟨_, rfl⟩

/-- The array's queue of a context has been discarded, and a record is kept. -/
def Ctx.Failed (c : Ctx) : Prop := c.mxq = [] ∧ c.mxfault.isSome = true

theorem Ctx.Failed.request {c : Ctx} (h : c.Failed) : ((c.dropLoads).request .kill).Failed := by
  unfold Ctx.request
  split
  · dsimp only
    split <;> exact h
  · exact h

/-- After a fault of the operation at its head the queue is empty, and memory stands. -/
theorem State.mxFail_fails (s : State) (x : Nat) (f : FaultRec) : (s.mxFail x f).mem = s.mem ∧ ((s.mxFail x f).ctx x).Failed := by
  have hgone : ∀ u : State, ((u.upCtx x fun c => { c with mxq := [], mxfault := c.mxfault.or (some f) }).ctx x).Failed := fun u => by
    rw [State.ctx_upCtx_self]
    exact ⟨rfl, by simp⟩
  obtain ⟨ks, hcores⟩ := State.OnlyCores.foldl (fun u m => u.onlyCores_undefineCmd (coreOf x) m) (s.ctx x).mxq s
  unfold State.mxFail
  dsimp only
  rw [hcores]
  split
  · split
    · exact ⟨State.mem_kill _ _ _, State.ctx_kill (fun c => Ctx.Failed.request) _ _ _ (hgone _)⟩
    split
    · exact ⟨rfl, hgone _⟩
    · obtain ⟨_, _, _, h⟩ := State.Abroad.foldl (fun u (m : MxCmd) => u.abroad_arrive (coreOf x) m.arr (some f)) (s.ctx x).mxq
        { s with cores := ks }
      rw [h]
      exact ⟨rfl, hgone _⟩
  · exact ⟨rfl, hgone _⟩

/-! ## Staging -/

/-- The Orrery of die `d` stands, and every message on its way to a phaser object is still on its way. -/
def State.KeepsOrrery (d : Nat) (s t : State) : Prop := t.orrery d = s.orrery d ∧ ∀ m ∈ s.transit, m ∈ t.transit

theorem State.KeepsOrrery.refl (d : Nat) (s : State) : s.KeepsOrrery d s := ⟨rfl, fun _ h => h⟩

theorem State.KeepsOrrery.trans {d : Nat} {s t u : State} (h : s.KeepsOrrery d t) (g : t.KeepsOrrery d u) : s.KeepsOrrery d u :=
  ⟨g.1.trans h.1, fun m hm => g.2 m (h.2 m hm)⟩

theorem State.Tells.keepsOrrery {s t : State} (h : s.Tells t) (d : Nat) : s.KeepsOrrery d t := by
  obtain ⟨w, q, rfl⟩ := h
  exact .refl d s

theorem State.keepsOrrery_upOrrery (s : State) {d e : Nat} (h : d ≠ e) (f : Orrery → Orrery) : s.KeepsOrrery d (s.upOrrery e f) :=
  ⟨SMap.get_put_of_ne _ _ _ h, fun _ hm => hm⟩

theorem State.keepsOrrery_arrive (s : State) (d k : Nat) (arr : Option Arrive) (f : Option FaultRec) : s.KeepsOrrery d (s.arrive k arr f) := by
  unfold State.arrive
  split
  · exact ⟨rfl, fun _ hm => List.mem_append_left _ hm⟩
  · exact .refl d s

theorem State.keepsOrrery_abortAt (s : State) {d e : Nat} (h : d ≠ e) (t : Nat) (f : FaultRec) (dog : Bool) :
    s.KeepsOrrery d (s.abortAt e t f dog) := by
  unfold State.abortAt
  split
  · exact .refl d s
  · exact ((s.keepsOrrery_upOrrery h _).trans (State.Tells.keepsOrrery (State.Tells.foldl (fun u _ => u.tells_emit _) _ _) d)).trans
      (State.keepsOrrery_arrive _ d _ _ _)

theorem State.keepsOrrery_abortIn (s : State) {d e : Nat} (h : d ≠ e) (comm : BitVec 16) (key : W64) (dog : Bool) :
    s.KeepsOrrery d (s.abortIn e comm key dog) := by
  unfold State.abortIn
  split
  · exact s.keepsOrrery_abortAt h _ _ _
  · exact s.keepsOrrery_upOrrery h _

/-- The ticket of a collective that faults is freed, and its handle is told. -/
theorem State.abortAt_ends (s : State) (d t : Nat) {v : Ticket} (h : (s.orrery d).ticket t = some v) (f : FaultRec) (dog : Bool) :
    TicketEnds (s.abortAt d t f dog) d t v (some f) := by
  unfold State.abortAt
  rw [h]
  dsimp only
  generalize hu : s.upOrrery d _ = u
  have hnone : (u.orrery d).ticket t = none := by
    rw [← hu]
    unfold State.orrery State.upOrrery
    rw [SMap.get_put_self]
    unfold Orrery.ticket
    dsimp only
    exact SMap.get_set_self _ _ _ _
  have hkeeps := (State.Tells.foldl (fun w (e : BitVec 13 × Fin 4) => w.tells_emit (.abort e.1 e.2 v.coll.comm v.coll.key dog))
    ((v.group.filter fun e => e.1 != u.sys.nodeid).dedup) u).keepsOrrery d
  exact ⟨(congrArg (·.ticket t) hkeeps.1).trans hnone, List.mem_append_right _ (.head _)⟩

/-- A collective ends at the die where it faults, whatever follows at the other dies of the node. -/
theorem State.abort_ends (s : State) (d t : Nat) {v : Ticket} (h : (s.orrery d).ticket t = some v) (f : FaultRec) (dog : Bool) :
    TicketEnds (s.abort d t f dog) d t v (some f) := by
  have hend := s.abortAt_ends d t h f dog
  unfold State.abort
  rw [h]
  dsimp only
  have hkeeps : (s.abortAt d t f dog).KeepsOrrery d ((((v.group.filter fun e => e.1 == (s.abortAt d t f dog).sys.nodeid && e.2.val != d).map
      (·.2.val)).dedup).foldl (fun s e => s.abortIn e v.coll.comm v.coll.key dog) (s.abortAt d t f dog)) := by
    refine List.foldlRecOn (motive := fun u => (s.abortAt d t f dog).KeepsOrrery d u) _ _ (.refl d _) fun u hu e he => ?_
    obtain ⟨m, hm, rfl⟩ := List.mem_map.1 (List.mem_dedup.1 he)
    have hne : m.2.val ≠ d := by simpa using (Bool.and_eq_true_iff.1 (List.mem_filter.1 hm).2).2
    exact hu.trans (u.keepsOrrery_abortIn hne.symm _ _ _)
  exact ⟨(congrArg (·.ticket t) hkeeps.1).trans hend.1, hkeeps.2 _ hend.2⟩

end Sys2Proof.Machine

namespace Sys2Proof.Claims

open Sys2Proof.Machine

theorem ecc_array_isolates {s : State} {g : Nat} (hg : g < 96) (h : s.arrayPoison g = s) :
    Ends (.eccError (.array g)) s fun t => Isolates s t (0x2000 + g) := by
  refine ⟨_, rfl, ?_⟩
  dsimp only
  rw [h]
  exact State.isolates_quarantine rfl rfl (show 0x2000 + g < 65536 by omega) false

theorem arrayPoison_idle {s : State} {g : Nat} (h : s.servedOp g = none) : s.arrayPoison g = s := by
  unfold State.arrayPoison
  rw [h]

theorem arrayPoison_waiting {s : State} {g y : Nat} {m : MxCmd} {r : Vector W64 16} (h : s.servedOp g = some (y, m, r))
    (hm : m.started = false) : s.arrayPoison g = s := by
  unfold State.arrayPoison
  rw [h]
  dsimp only
  rw [hm]
  rfl

theorem ecc_array_fails {s : State} {g y : Nat} {m : MxCmd} {r : Vector W64 16} (hg : g < 96) (h : s.servedOp g = some (y, m, r))
    (hm : m.started = true) : Ends (.eccError (.array g)) s fun t =>
      t.quarantined (0x2000 + g) = true ∧ t.mem = s.mem ∧ (t.ctx y).mxq = [] ∧ (t.ctx y).mxfault.isSome = true := by
  obtain ⟨hmem, hfail⟩ := s.mxFail_fails y { s.mxPoison (coreOf y) with unit := BitVec.ofNat 16 (unitGroup g) }
  have hp : s.arrayPoison g = (s.mxFail y { s.mxPoison (coreOf y) with unit := BitVec.ofNat 16 (unitGroup g) }).draw := by
    unfold State.arrayPoison
    rw [h]
    dsimp only
    rw [hm]
    rfl
  refine ⟨_, rfl, State.quarantined_quarantine _ (show 0x2000 + g < 65536 by omega) false, ?_⟩
  dsimp only
  rw [State.quarantine_mem, State.quarantine_ctx, hp]
  exact ⟨hmem, hfail⟩

theorem ecc_staging {s : State} {die : Fin 4} {g : Nat} {v : Ticket} (h : (s.orrery die).ticket g = some v) :
    Ends (.eccError (.staging die g)) s fun t => t.quarantined (0x5000 + die) = true ∧ t.mem = s.mem ∧
      ∃ f : FaultRec, f.cause = .poison ∧ f.unit = BitVec.ofNat 16 (0x5000 + die) ∧ TicketEnds t die g v (some f) := by
  let f : FaultRec := (accPoison (BitVec.ofNat 16 (0x5000 + die.val))).record 0 0x38
  have hend := s.abort_ends die g h f false
  have hmem : (s.abort die g f false).mem = s.mem := by
    obtain ⟨_, _, _, heq⟩ := s.abroad_abort die g f false
    rw [heq]
  have hexec : exec (.eccError (.staging die g)) s = .next ((s.abort die g f false).quarantine (0x5000 + die.val) false) := rfl
  refine ⟨_, hexec, State.quarantined_quarantine _ (by omega) false, (State.quarantine_mem _ _ _).trans hmem, f, rfl, rfl, ?_⟩
  obtain ⟨q, ls, hq⟩ := (s.abort die g f false).quarantine_rest (0x5000 + die.val) false
  rw [hq]
  exact hend

end Sys2Proof.Claims
end

section
/-! SUPPORT. A poisoned write-back kills the kernel of its writer, or posts an event (16 R374); the signatures of a CHECK pair are compared
(05 R107; 16 R377). -/

open Sys2Proof.Machine

namespace Sys2Proof.Claims

/-! ## Write-backs -/

section
variable {s : State} {l : Nat} {w : BitVec 12}

/-- The record of line `l`, and the record once its error has been delivered. -/
def lineOf (s : State) (l : Nat) : LineRec := s.lines.get LineRec.init l

def delivered (r : LineRec) : LineRec := { (if r.back.isNone then r.leave else r) with back := none }

theorem delivered_eq (r : LineRec) : delivered r = if r.back = none then { r with tag := none, zero := false } else { r with back := none } := by
  obtain ⟨tag, zero, poison, back⟩ := r
  cases back <;> rfl

/-- The writer tag through which a write-back is charged. -/
def chargedTo (r : LineRec) : Option (BitVec 12) := (if r.back.isNone && r.poison.isSome then r.leave else r).back

theorem chargedTo_none {r : LineRec} (hb : r.back = none) (h : r.tag = none ∨ r.poison = none) : chargedTo r = none := by
  obtain ⟨tag, zero, poison, back⟩ := r
  dsimp only at hb h
  subst hb
  rcases h with rfl | rfl
  · cases poison <;> rfl
  · rfl

theorem chargedTo_some {r : LineRec} (h : r.back = some w ∨ (r.back = none ∧ r.tag = some w ∧ r.poison ≠ none)) : chargedTo r = some w := by
  obtain ⟨tag, zero, poison, back⟩ := r
  dsimp only at h
  rcases h with rfl | ⟨rfl, rfl, hp⟩
  · rfl
  · cases poison with
    | none => exact absurd rfl hp
    | some u => rfl

theorem writeback_idle (h : chargedTo (lineOf s l) = none) : Makes (.writebackPoison l) s s := by
  change execWritebackPoison l s = _
  unfold execWritebackPoison
  dsimp only
  rw [show (if (s.lines.get LineRec.init l).back.isNone && (s.lines.get LineRec.init l).poison.isSome then (s.lines.get LineRec.init l).leave
    else s.lines.get LineRec.init l).back = none from h]

/-- The state in which the error of line `l` has been delivered. -/
def cleared (s : State) (l : Nat) : State := { s with lines := s.lines.set LineRec.init l (delivered (lineOf s l)) }

/-- Whom a write-back kills, or that it posts an event. -/
theorem writeback_exec (h : chargedTo (lineOf s l) = some w) :
    exec (.writebackPoison l) s = .next (match (if w.toNat < 768 then (s.ctx w.toNat).occ else none) with
      | some o => ((cleared s l).kill o.kid ⟨.fault, some .poison, BitVec.setWidth 48 (Config.freeW64 s.nfree (0x620000 + l)),
        Config.freeW64 s.nfree (0x630000 + l), o.n, BitVec.ofNat 16 (0x3000 + homeSlice (128 * l)), true, false⟩).draw
      | none => ((cleared s l).event ((cleared s l).ev (Config.freeNat s.nfree 0x640000 % 65536))).draw) := by
  change execWritebackPoison l s = _
  unfold execWritebackPoison
  dsimp only
  rw [show (if (s.lines.get LineRec.init l).back.isNone && (s.lines.get LineRec.init l).poison.isSome then (s.lines.get LineRec.init l).leave
    else s.lines.get LineRec.init l).back = some w from h]
  rfl

theorem event_counts (s : State) (e : EvRec) : (s.event e).sys.evSeq = s.sys.evSeq + 1 := by
  have hwr : ∀ tag pa bs, (s.wr tag pa bs).sys = s.sys := fun tag pa bs => by rw [s.wr_frame tag pa bs]
  unfold State.event
  dsimp only
  split
  · simp only [State.msi, State.upSys, hwr]
  · rfl

theorem writeback_event (h : chargedTo (lineOf s l) = some w) (hocc : ∀ o, w.toNat < 768 → (s.ctx w.toNat).occ ≠ some o) :
    Ends (.writebackPoison l) s fun t => t.sys.evSeq = s.sys.evSeq + 1 := by
  have hnone : (if w.toNat < 768 then (s.ctx w.toNat).occ else none) = none := by
    split
    · exact Option.eq_none_iff_forall_ne_some.2 fun o => hocc o ‹_›
    · rfl
  refine ⟨_, writeback_exec h, ?_⟩
  rw [hnone]
  exact event_counts (cleared s l) _

theorem writeback_kills (h : chargedTo (lineOf s l) = some w) {o : Occ} {q : Kernel} (hw : w.toNat < 768) (hh : Holds s w.toNat o q)
    (hst : q.st ≠ .killing) : Ends (.writebackPoison l) s fun t =>
      t.lines.get LineRec.init l = delivered (lineOf s l) ∧
      KilledBy t o.kid fun e =>
        e.status = .fault ∧ e.cause = some .poison ∧ e.unit = BitVec.ofNat 16 (0x3000 + homeSlice (128 * l)) ∧ e.evict = true := by
  obtain ⟨hocc, hk⟩ := hh
  have hsome : (if w.toNat < 768 then (s.ctx w.toNat).occ else none) = some o := (if_pos hw).trans hocc
  refine ⟨_, writeback_exec h, ?_⟩
  rw [hsome]
  dsimp only
  refine ⟨?_, _, _, (State.kill_begins (s := cleared s l) hk hst _).1, rfl, rfl, rfl, rfl, rfl, rfl⟩
  rw [State.draw_lines, State.lines_kill]
  exact SMap.get_set_self _ _ _ _

end

/-! ## Commit signatures -/

section
variable {s : State} {k : Nat}

theorem compare_exec (s : State) (k : Nat) : exec (.checkSignatureCompare k) s = .next (s.compare (2 * k) 0) := rfl

/-- No pair stands there, or one of its cores has no signature. -/
theorem compare_idle (h : (s.ctx (2 * k)).gmode ≠ 2 ∨ (s.ctx (2 * k)).gchk = true ∨ (s.ctx (2 * k)).sigs = [] ∨ (s.ctx (2 * k + 2)).sigs = []) :
    Makes (.checkSignatureCompare k) s s := by
  refine (compare_exec s k).trans (congrArg Host.Outcome.next ?_)
  unfold State.compare
  by_cases hg : (s.ctx (2 * k)).gmode ≠ 2 ∨ (s.ctx (2 * k)).gchk = true
  · exact if_pos hg
  · rw [if_neg hg]
    rcases h with h | h | h | h
    · exact absurd (.inl h) hg
    · exact absurd (.inr h) hg
    · rw [h]
    · rw [h]
      cases (s.ctx (2 * k)).sigs <;> rfl

variable {a b : Sig} {ps qs : List Sig} (hm : (s.ctx (2 * k)).gmode = 2) (hc : (s.ctx (2 * k)).gchk = false)
  (ha : (s.ctx (2 * k)).sigs = a :: ps) (hb : (s.ctx (2 * k + 2)).sigs = b :: qs)
include hm hc ha hb

/-- The comparison of the oldest signatures. -/
theorem compare_pair : s.compare (2 * k) 0 =
    if !a.whole || !b.whole then s
    else if a.word = b.word then (s.upCtx (2 * k) fun c => { c with sigs := ps }).upCtx (2 * k + 2) fun c => { c with sigs := qs }
    else s.mismatch (2 * k) a.pc := by
  unfold State.compare
  rw [if_neg (by simp [hm, hc]), ha, hb]
  dsimp only
  rw [show decide (b.age < 0) = false from decide_eq_false (Nat.not_lt_zero _), Bool.or_false]

theorem compare_early (h : a.whole = false ∨ b.whole = false) : Makes (.checkSignatureCompare k) s s := by
  refine (compare_exec s k).trans (congrArg Host.Outcome.next ?_)
  rw [compare_pair hm hc ha hb]
  exact if_pos (by rcases h with h | h <;> simp [h])

theorem compare_equal (hw : a.whole = true) (hv : b.whole = true) (h : a.word = b.word) : Ends (.checkSignatureCompare k) s fun t =>
    t = { s with ctxs := t.ctxs } ∧ t.ctx (2 * k) = { s.ctx (2 * k) with sigs := ps } ∧
      t.ctx (2 * k + 2) = { s.ctx (2 * k + 2) with sigs := qs } ∧ ∀ z, z ≠ 2 * k → z ≠ 2 * k + 2 → t.ctx z = s.ctx z := by
  have hne : 2 * k ≠ 2 * k + 2 := by omega
  refine ⟨_, compare_exec s k, ?_⟩
  rw [compare_pair hm hc ha hb, if_neg (by simp [hw, hv]), if_pos h]
  refine ⟨rfl, ?_, ?_, fun z hz hz2 => ?_⟩
  · rw [State.ctx_upCtx_of_ne _ _ hne, State.ctx_upCtx_self]
  · rw [State.ctx_upCtx_self, State.ctx_upCtx_of_ne _ _ hne.symm]
  · rw [State.ctx_upCtx_of_ne _ _ hz2, State.ctx_upCtx_of_ne _ _ hz]

theorem compare_unequal (hk : k < 384) (hw : a.whole = true) (hv : b.whole = true) (h : a.word ≠ b.word) {o : Occ} {q : Kernel}
    (hh : Holds s (2 * k) o q) (hst : q.st ≠ .killing) : Ends (.checkSignatureCompare k) s fun t =>
      t.quarantined (0x1000 + k) = true ∧ t.quarantined (0x1001 + k) = true ∧
        KilledBy t o.kid fun e => e.status = .fault ∧ e.cause = some .checkMismatch ∧ e.tpc = a.pc ∧ e.pair = true := by
  obtain ⟨hocc, hkernel⟩ := hh
  have hcore : coreOf (2 * k) = k := by unfold coreOf; omega
  let u := (s.quarantine (0x1000 + k) true).quarantine (0x1000 + (k + 1)) true
  let v := u.upCtxs (fun c => if c.running then c.stop else c) [2 * k, 2 * k + 2]
  let e : EndInfo := ⟨.fault, some .checkMismatch, a.pc, Config.freeW64 s.nfree (0x600000 + 2 * k), o.n, BitVec.ofNat 16 (0x1000 + k), false, true⟩
  have hmis : s.mismatch (2 * k) a.pc = (v.kill o.kid e).draw := by
    unfold State.mismatch
    dsimp only
    rw [hocc, hcore]
    rfl
  have hfirst : u.quarantined (0x1000 + k) = true :=
    State.quarantined_mono (State.quarantined_quarantine _ (by omega) _) _ _
  have hsecond : u.quarantined (0x1001 + k) = true := by
    rw [show 0x1001 + k = 0x1000 + (k + 1) by omega]
    exact State.quarantined_quarantine _ (by omega) _
  have hsys : ∀ n, ((v.kill o.kid e).draw).quarantined n = u.quarantined n := fun n => by
    unfold State.quarantined
    rw [State.draw_sys, State.sys_kill, State.upCtxs_sys]
  have hkern : v.kernel o.kid = some q := by
    rw [State.upCtxs_kernel, State.quarantine_kernel, State.quarantine_kernel]
    exact hkernel
  refine ⟨_, compare_exec s k, ?_⟩
  rw [compare_pair hm hc ha hb, if_neg (by simp [hw, hv]), if_neg h, hmis]
  exact ⟨(hsys _).trans hfirst, (hsys _).trans hsecond, _, _, (State.kill_begins hkern hst e).1, rfl, rfl, rfl, rfl, rfl, rfl⟩

end

end Sys2Proof.Claims
end

section
/-! SUPPORT. Fills of the instruction cache and of the fetch buffer, and the translation that a walk brings (04 R67, R68; 09 R194). -/

open Sys2Proof.Machine

namespace Sys2Proof.Claims

/-! ## ICACHE_FILL -/

section
variable (s : State) (k l : Nat) (gs : BitVec 8)

/-- The granules of line `l` that a fill reads, where it has read none before. -/
def granulesRead : List (Nat × Gran) := (List.range 8).filterMap fun i => if gs.getLsbD i then some (i, s.rdGran (8 * l + i)) else none

theorem mem_granulesRead (e : Nat × Gran) : e ∈ granulesRead s l gs ↔ e.1 < 8 ∧ gs.getLsbD e.1 = true ∧ e.2 = s.rdGran (8 * l + e.1) := by
  obtain ⟨i, g⟩ := e
  unfold granulesRead
  rw [List.mem_filterMap]
  constructor
  · rintro ⟨j, hj, h⟩
    split at h <;> cases h
    exact ⟨List.mem_range.1 hj, ‹_›, rfl⟩
  · rintro ⟨hi, hgs, hg⟩
    refine ⟨i, List.mem_range.2 hi, ?_⟩
    rw [if_pos hgs]
    exact congrArg (fun g => some (i, g)) hg.symm

theorem length_granulesRead : (granulesRead s l gs).length = 8 ↔ gs = 255 := by
  have hcount : (granulesRead s l gs).length = (List.range 8).countP fun i => gs.getLsbD i := by
    unfold granulesRead
    rw [List.length_filterMap_eq_countP]
    congr 1
    funext i
    cases gs.getLsbD i <;> rfl
  rw [hcount]
  constructor
  · intro h
    have hall := List.countP_eq_length.1 (h.trans List.length_range.symm)
    refine BitVec.eq_of_getLsbD_eq fun i hi => ?_
    rw [hall i (List.mem_range.2 hi)]
    have hones : ∀ j : Fin 8, true = (255 : BitVec 8).getLsbD j := by decide
    exact hones ⟨i, hi⟩
  · rintro rfl
    decide

/-- A fill whose granules are all read brings the line as memory holds it. -/
theorem fillLine_of_read {u : State} (h : (u.core k).ifill.get [] l = granulesRead s l gs) (hmem : u.mem = s.mem) :
    u.fillLine k l = s.memLine l := by
  have hgran : ∀ g, u.rdGran g = s.rdGran g := fun g => by
    unfold State.rdGran
    rw [hmem]
  refine congrArg Vector.ofFn (funext fun i => ?_)
  rw [h]
  split
  · rename_i e he
    obtain ⟨-, -, hg⟩ := (mem_granulesRead s l gs e).1 (List.mem_of_find?_eq_some he)
    have hkey : e.1 = i.val := by simpa using List.find?_some he
    rw [hg, hkey]
  · exact hgran _

theorem icacheFill_idle (h : (s.core k).icache.get none l ≠ none ∨ s.poisonAt (128 * l) 128 ≠ none) : Makes (.icacheFill k l gs) s s := by
  refine congrArg Host.Outcome.next (if_pos ?_)
  rwa [Option.isSome_iff_ne_none, Option.isSome_iff_ne_none]

variable (hi : (s.core k).icache.get none l = none) (hp : s.poisonAt (128 * l) 128 = none) (hf : (s.core k).ifill.get [] l = [])
include hi hp hf

/-- A fill that begins. -/
theorem icacheFill_exec : exec (.icacheFill k l gs) s = .next (
    if (granulesRead s l gs).length = 8 then
      let u := s.upCore k fun c => { c with ifill := c.ifill.put l (granulesRead s l gs) }
      u.upCore k fun c => c.icPut (u.icRoom k) l (u.fillLine k l)
    else s.upCore k fun c => { c with ifill := c.ifill.set [] l (granulesRead s l gs) }) := by
  change execIcacheFill k l gs s = _
  have hnew : ((List.range 8).filterMap fun i =>
      if gs.getLsbD i && !(([] : List (Nat × Gran)).any fun e => e.1 == i) then some (i, s.rdGran (8 * l + i)) else none) =
      granulesRead s l gs := by
    simp [granulesRead]
  unfold execIcacheFill
  dsimp only
  rw [if_neg (by simp [hi, hp]), hf, List.nil_append, hnew]

theorem icacheFill_ends : Ends (.icacheFill k l gs) s fun t =>
    t = { s with cores := t.cores } ∧ (∀ m, m ≠ k → t.core m = s.core m) ∧
      (gs = 255 → (t.core k).icache.get none l = some (s.memLine l)) ∧
      (gs ≠ 255 → (t.core k).icache.get none l = none ∧ ∀ e, e ∈ (t.core k).ifill.get [] l ↔
        e.1 < 8 ∧ gs.getLsbD e.1 = true ∧ e.2 = s.rdGran (8 * l + e.1)) := by
  refine ⟨_, icacheFill_exec s k l gs hi hp hf, ?_⟩
  by_cases hgs : gs = 255
  · rw [if_pos ((length_granulesRead s l gs).2 hgs)]
    dsimp only
    refine ⟨rfl, fun m hm => ?_, fun _ => ?_, fun h => absurd hgs h⟩
    · rw [State.core_upCore_of_ne _ _ hm, State.core_upCore_of_ne _ _ hm]
    · have hline : (s.upCore k fun c => { c with ifill := c.ifill.put l (granulesRead s l gs) }).fillLine k l = s.memLine l :=
        fillLine_of_read s k l gs (by rw [State.core_upCore_self]; exact SMap.get_put_self _ _ _ _) rfl
      rw [State.core_upCore_self, hline]
      exact SMap.get_put_self _ _ _ _
  · rw [if_neg fun h => hgs ((length_granulesRead s l gs).1 h)]
    refine ⟨rfl, fun m hm => State.core_upCore_of_ne _ _ hm, fun h => absurd h hgs, fun _ => ?_⟩
    rw [State.core_upCore_self]
    refine ⟨hi, fun e => ?_⟩
    rw [← mem_granulesRead]
    exact iff_of_eq (congrArg (e ∈ ·) (SMap.get_set_self _ _ _ _))

end

/-! ## FETCH_BUFFER_FILL -/

section
variable {s : State} {x : Nat}

theorem fetchBufferFill_idle (h : (s.ctx x).running = false ∨ s.fetches x = false) : Makes (.fetchBufferFill x) s s :=
  congrArg Host.Outcome.next (if_pos (by rcases h with h | h <;> simp [h]))

theorem fetchBufferFill_exec (hr : (s.ctx x).running = true) (hf : s.fetches x = true) : exec (.fetchBufferFill x) s =
    .next (match (s.ctx x).nextPacket with | some pk => (s.packet x pk).1 | none => s) :=
  congrArg Host.Outcome.next (if_neg (by simp [hr, hf]))

/-- The buffer holds three packets past the current one. -/
theorem fetchBufferFill_full (hr : (s.ctx x).running = true) (hf : s.fetches x = true) {q : Packet} (hq : (s.ctx x).fbuf.getLast? = some q)
    (hfar : (s.ctx x).pc.toNat / 32 * 32 + 96 < q.va.toNat + 32) : Makes (.fetchBufferFill x) s s := by
  have hnone : (s.ctx x).nextPacket = none := by
    unfold Ctx.nextPacket
    rw [hq]
    exact if_neg fun h => by omega
  refine (fetchBufferFill_exec hr hf).trans ?_
  rw [hnone]

/-- An empty buffer takes in the current packet, where its fetch brings it. -/
theorem fetchBufferFill_empty (hr : (s.ctx x).running = true) (hf : s.fetches x = true) (hnil : (s.ctx x).fbuf = []) :
    Ends (.fetchBufferFill x) s fun t => t.mem = s.mem ∧ (∀ z, z ≠ x → t.ctx z = s.ctx z) ∧
      t.ctx x = { s.ctx x with fbuf :=
        match (s.fetchPacket x ((s.ctx x).pc.toNat / 32 * 32)).2 with
        | .ok ws => [⟨BitVec.ofNat 48 ((s.ctx x).pc.toNat / 32 * 32), ws⟩]
        | _ => [] } := by
  have hnext : (s.ctx x).nextPacket = some ((s.ctx x).pc.toNat / 32 * 32) := by
    unfold Ctx.nextPacket
    rw [hnil]
    rfl
  refine ⟨_, fetchBufferFill_exec hr hf, ?_⟩
  rw [hnext]
  generalize (s.ctx x).pc.toNat / 32 * 32 = pk
  have hfetch := s.fetchPacket_fetches x pk
  have hself : s.ctx x = { s.ctx x with fbuf := [] } := by rw [← hnil]
  dsimp only
  unfold State.packet
  rw [hnil]
  change _ ∧ _ ∧ _
  dsimp only [bufFind, List.find?_nil, Option.map_none]
  rcases he : s.fetchPacket x pk with ⟨u, ws | f | n⟩ <;> rw [he] at hfetch
  · refine ⟨hfetch.mem, fun z hz => (State.ctx_upCtx_of_ne _ _ hz).trans (hfetch.ctx z), ?_⟩
    have hu : u.ctx x = s.ctx x := hfetch.ctx x
    rw [State.ctx_upCtx_self, hu, hnil]
    rfl
  · exact ⟨hfetch.mem, fun z _ => hfetch.ctx z, (hfetch.ctx x).trans hself⟩
  · exact ⟨hfetch.mem, fun z _ => hfetch.ctx z, (hfetch.ctx x).trans hself⟩

end

/-! ## TRANSLATION_WALK_END -/

/-- A page holds the address. -/
def covers (e : Xl) (va : Nat) : Prop := e.va ≤ va ∧ va < e.va + e.size

theorem ok_of_ite {ε α : Type} {c : Prop} [Decidable c] {e : ε} {a : α} {r : Except ε α} (h : (if c then .error e else r) = .ok a) : r = .ok a := by
  split at h
  · cases h
  · exact h

theorem leaf_covers {e lvl va : Nat} {x : Xl} (h : leaf e lvl va = .ok x) : covers x va := by
  have hpos : 0 < 2 ^ leafLog lvl := Nat.two_pow_pos _
  obtain rfl := Except.ok.inj (ok_of_ite (ok_of_ite h))
  exact ⟨Nat.div_mul_le_self _ _, Nat.lt_div_mul_add hpos⟩

theorem walkOne_covers {s : State} {w : Bool} {va lvl tab : Nat} {x : Xl} (h : s.walkOne w va lvl tab = .ends (.ok x)) : covers x va := by
  unfold State.walkOne at h
  dsimp only at h
  split at h
  · cases h
  split at h
  · cases h
  split at h
  · split at h <;> cases h
  split at h
  · cases h
  · exact leaf_covers (PteSays.ends.inj h)

theorem walkFrom_covers {s : State} {w : Bool} {va fuel lvl tab : Nat} {x : Xl} (h : s.walkFrom w va fuel lvl tab = .ok x) : covers x va := by
  induction fuel generalizing lvl tab with
  | zero => cases h
  | succ n ih =>
    unfold State.walkFrom at h
    split at h
    · rename_i e
      subst h
      exact walkOne_covers e
    · exact ih h

/-- A walk brings the page of its address. -/
theorem walk_covers {s : State} {asid : Nat} {w : Bool} {va : Nat} {x : Xl} (h : s.walk asid w va = .ok x) : covers x va := by
  unfold State.walk at h
  split at h
  · cases h
  · exact walkFrom_covers h

/-- The entry that was put last serves its page. -/
theorem tlbFind_put {cap free asid : Nat} {t : List Tlbe} {w : Bool} {va : Nat} {x : Xl} (h : covers x va) :
    tlbFind (tlbPut cap free t ⟨asid, w, x⟩) asid w va = some x := by
  have hhits : (⟨asid, w, x⟩ : Tlbe).hits asid w va = true := by
    unfold Tlbe.hits
    simp [h.1, h.2]
  unfold tlbFind tlbPut
  dsimp only
  rw [List.find?_cons_of_pos (p := fun e : Tlbe => e.hits asid w va) hhits]
  rfl

section
variable {s : State} {k : Nat} {asid : Fin 64} {va : Addr}

theorem walkEnd_idle (h : s.walksFor k asid = false) : Makes (.translationWalkEnd k asid va) s s :=
  congrArg Host.Outcome.next (if_neg (by simp [h]))

variable {w : Bool} (hw : s.sys.worldQueue.get false asid = w) (h : s.walksFor k asid = true)
  (h1 : tlbFind (s.core k).tlb asid w va.toNat = none) (h2 : tlbFind (s.l2tlb.get [] (dieOf k)) asid w va.toNat = none)
  (hroom : (s.walksOf (dieOf k)).length < 96) (hjoin : ∀ z ∈ s.walksOf (dieOf k), z.serves asid w va.toNat = false)
include hw h h1 h2 hroom hjoin

/-- A miss of both TLBs that neither joins a walk nor waits for a walker. -/
theorem walkEnd_exec : exec (.translationWalkEnd k asid va) s = .next (match s.walk asid w va.toNat with
    | .ok x => (s.l2Fill (dieOf k) asid w x).tlbFill k asid w x
    | .error _ => s) := by
  have hfind : (s.walksOf (dieOf k)).find? (fun z => z.serves asid w va.toNat) = none := by
    rw [List.find?_eq_none]
    exact fun z hz => by simp [hjoin z hz]
  have hmiss : s.missWalk (dieOf k) asid w va.toNat = (s, s.walk asid w va.toNat) := by
    have hzero : (s.walksOf (dieOf k)).length + 1 - walkers = 0 := Nat.sub_eq_zero_of_le hroom
    unfold State.missWalk
    rw [hfind]
    dsimp only
    rw [hzero]
    rfl
  refine congrArg Host.Outcome.next ((if_pos h).trans ?_)
  rw [hw]
  unfold State.lookup
  rw [h1]
  dsimp only
  rw [h2]
  dsimp only
  rw [hmiss]
  cases s.walk asid w va.toNat <;> rfl

theorem walkEnd_fails {f : XFault} (hwalk : s.walk asid w va.toNat = .error f) : Makes (.translationWalkEnd k asid va) s s := by
  refine (walkEnd_exec hw h h1 h2 hroom hjoin).trans ?_
  rw [hwalk]

/-- A walk that succeeds fills both TLBs. -/
theorem walkEnd_fills {e : Xl} (hwalk : s.walk asid w va.toNat = .ok e) : Ends (.translationWalkEnd k asid va) s fun t =>
    t = { s with cores := t.cores, l2tlb := t.l2tlb } ∧ tlbFind (t.core k).tlb asid w va.toNat = some e ∧
      tlbFind (t.l2tlb.get [] (dieOf k)) asid w va.toNat = some e := by
  have hcovers := walk_covers hwalk
  refine ⟨_, walkEnd_exec hw h h1 h2 hroom hjoin, ?_⟩
  rw [hwalk]
  refine ⟨rfl, ?_, ?_⟩
  · dsimp only [State.tlbFill]
    rw [State.core_upCore_self]
    exact tlbFind_put hcovers
  · dsimp only [State.tlbFill, State.l2Fill]
    rw [State.upCore_l2tlb, SMap.get_put_self]
    exact tlbFind_put hcovers

end

/-- Settles O44: an error site is a change of its storage and a quarantine; a write-back, a comparison, a fill and a walk go by what their
line, their pair, their buffer and their tables hold. -/
theorem errorAndFillResult : Obligations.ErrorAndFillResult := by
  intro s k g l x gs asid va die port hk
  refine ⟨rfl, ecc_icache s g hk, ecc_l1 s g hk, ecc_tlb s hk, ecc_scratch s g hk, ecc_tile s g hk, ecc_l2tlb s die,
    fun hg => ⟨ecc_scaleCache s g hg, fun h => ecc_array_isolates hg (arrayPoison_idle h), fun y m r h =>
      ⟨fun hm => ecc_array_isolates hg (arrayPoison_waiting h hm), ecc_array_fails hg h⟩⟩,
    fun v h => ecc_staging h, ecc_meridian s die, ecc_port s port, ecc_cleanLine s l, ecc_dirtyLine_idle s l, ecc_dirtyLine s l,
    ecc_hbmLine_idle s l, ecc_hbmLine s l, fun hb h => writeback_idle (chargedTo_none hb h),
    fun w h => ⟨writeback_event (chargedTo_some h), fun o q hw hh hst => ?_⟩,
    ⟨compare_idle, fun hm hc a b ps qs ha hb => ⟨compare_early hm hc ha hb, compare_equal hm hc ha hb,
      fun hw hv hne o q hh hst => compare_unequal hm hc ha hb hk hw hv hne hh hst⟩⟩,
    icacheFill_idle s k l gs, icacheFill_ends s k l gs, fetchBufferFill_idle,
    fun hr hf => ⟨fun q hq hfar => fetchBufferFill_full hr hf hq hfar, fetchBufferFill_empty hr hf⟩, walkEnd_idle,
    fun h h1 h2 hroom hjoin => ?_⟩
  · have hkill := writeback_kills (chargedTo_some h) hw hh hst
    rw [delivered_eq] at hkill
    exact hkill
  · cases hwalk : s.walk asid (s.sys.worldQueue.get false asid) va.toNat with
    | error f => exact walkEnd_fails rfl h h1 h2 hroom hjoin hwalk
    | ok e => exact walkEnd_fills rfl h h1 h2 hroom hjoin hwalk

end Sys2Proof.Claims
end

section
/-! SUPPORT. The Ephemeris as reset gives it: each emitter and detector of the first 16 channels on its rotor line (13 R297). -/

namespace Sys2Proof.Machine

theorem ephLine_ephWord {l : Nat} (u : Nat) (hl : l < 128) : ephLine (ephWord l u 0) = l := by
  simp only [ephLine, ephWord, bf, BitVec.toNat_ofNat]
  omega

theorem ephUse_ephWord (l : Nat) {u : Nat} (hu : u < 4) : ephUse (ephWord l u 0) = u := by
  simp only [ephUse, ephWord, bf, BitVec.toNat_ofNat]
  omega

/-- The entry that reset gives channel `d + c` of a port in a slot, where `d` is 0 for an emitter and 18 for a detector. -/
theorem rotorEntry_ephIdx (p : Nat) {sl c d : Nat} (hsl : sl < 64) (hc : c < 18) (hd : d = 0 ∨ d = 18) :
    rotorEntry (ephIdx p sl (d + c)) = if c < 16 then ephWord (16 * (sl % 4) + c) 1 0 else 0 := by
  have hchan : ephIdx p sl (d + c) % 36 % 18 = c := by unfold ephIdx; omega
  have hslot : ephIdx p sl (d + c) / 36 % 64 = sl := by unfold ephIdx; omega
  unfold rotorEntry
  rw [hchan, hslot]

theorem Fabric.active_reset (p sl ch : Nat) : State.reset.fab.active p sl ch = rotorEntry (ephIdx p sl ch) := rfl

theorem Ctx.init_legal : Ctx.init.legal := by
  unfold Ctx.legal
  decide

end Sys2Proof.Machine

namespace Sys2Proof.Claims

open Sys2Proof.Machine

/-- Settles O60: the reset state lists no entry in any map, so that each reads as its default; of the Ephemeris that is the rotor entry. -/
theorem resetState : Obligations.ResetState := by
  refine ⟨rfl, fun _ => ⟨rfl, Ctx.init_legal⟩, fun _ => ⟨rfl, rfl⟩, rfl, rfl, rfl, rfl, fun _ => rfl,
    fun _ => ⟨rfl, rfl, rfl, rfl, rfl, rfl⟩, fun p sl c _ hsl hc d hd => ?_⟩
  have hentry := rotorEntry_ephIdx p hsl hc hd
  rw [Fabric.active_reset]
  refine ⟨fun h => ?_, fun h => ?_⟩
  · rw [hentry, if_pos h]
    exact ⟨ephUse_ephWord _ (by omega), ephLine_ephWord _ (by omega)⟩
  · rw [hentry, if_neg (by omega)]

end Sys2Proof.Claims
end

section
/-! SUPPORT. RDSR puts what the map gives for its index in flight (05 R102, R103; 06 R128). -/

open Sys2Proof.Claims

namespace Sys2Proof.Machine

/-- A word whose one effect is a scalar result in flight with bound `l` (05 R94). -/
theorem launchesScalar_of_eff {e : Eff} {i : Instr} {s : State} {d : Fin 32} {v : W64} {l : Nat} (hi : exec i s = issueWords [e] s)
    (h : e (s.iss s.cur) s.out0 = .ok (s.out0.fS d v l 0)) : LaunchesScalar i s d v l := by
  obtain ⟨c, ht, hgo, hme, hc, -⟩ := issueWords_goesOn h rfl ⟨rfl, rfl, rfl, rfl, rfl, rfl⟩ rfl
  exact ⟨_, hi.trans ht, hgo, s.onlyMe_setCtx c, hme.symm ▸ hc⟩

/-- Loop entries are numbered from the outermost, which stands at the end of the list (05 R101). -/
theorem Ctx.loopEnt_eq (c : Ctx) (n : Nat) : c.loopEnt n = c.loops.reverse[n]? := by
  unfold Ctx.loopEnt
  split
  · rw [List.getElem?_reverse ‹_›]
  · rw [List.getElem?_eq_none (by rw [List.length_reverse]; omega)]

theorem srRead_loop (s : State) (x : Nat) (c : Ctx) {n k : Nat} (hn : n < 6) (hk : k < 3) :
    srRead s x c (0x20 + 3 * n + k) = c.loopReg n k := by
  unfold srRead
  rw [if_pos (by omega), show (0x20 + 3 * n + k - 0x20) / 3 = n by omega, show (0x20 + 3 * n + k - 0x20) % 3 = k by omega]

end Sys2Proof.Machine

namespace Sys2Proof.Claims

open Sys2Proof.Machine

/-- Outside a CHECK pair RDSR reads the register itself: nothing is passed on or taken over (05 R106). -/
theorem rdsr_launches {s : State} (d : Fin 32) (r : Fin 4096) (h : s.me.gmode ≠ 2) :
    LaunchesScalar (.rdsr d r) s d (srRead s s.cur s.me r) (if r.val = 0x050 then 16 else 2) := by
  refine launchesScalar_of_eff (e := effRdsr d r) rfl ?_
  have hmode : ((s.iss s.cur).c.gmode == 2) = false := beq_false_of_ne h
  have hchk : (s.iss s.cur).chk = false := Bool.and_eq_false_imp.2 fun h2 => absurd (beq_iff_eq.1 h2) h
  simp only [effRdsr, hchk, hmode, Bool.and_false, Bool.false_eq_true, if_false]
  rfl

section
variable {s : State} (h : s.me.gmode ≠ 2) (d : Fin 32)
include h

/-- A register of bound 2, by its number. -/
theorem rdsr_reads (r : Fin 4096) {v : Nat} (hr : r.val ≠ 0x050) (hv : srRead s s.cur s.me r = BitVec.ofNat 64 v) :
    LaunchesScalar (.rdsr d r) s d (BitVec.ofNat 64 v) 2 := by
  have hl := rdsr_launches d r h
  rwa [hv, if_neg hr] at hl

/-- A register whose field holds `x`, with zeros above it. -/
theorem rdsr_readsField (r : Fin 4096) {w : Nat} (x : BitVec w) (hr : r.val ≠ 0x050) (hv : srRead s s.cur s.me r = x.setWidth 64) :
    LaunchesScalar (.rdsr d r) s d (BitVec.ofNat 64 x.toNat) 2 :=
  rdsr_reads h d r hr (hv.trans (BitVec.ofNat_toNat 64 x).symm)

/-- A register of 64 bits. -/
theorem rdsr_readsWord (r : Fin 4096) (x : W64) (hr : r.val ≠ 0x050) (hv : srRead s s.cur s.me r = x) :
    LaunchesScalar (.rdsr d r) s d (BitVec.ofNat 64 x.toNat) 2 :=
  rdsr_readsField h d r x hr (hv.trans (BitVec.setWidth_eq x).symm)

theorem rdsr_readsLoop {n k : Nat} (hn : n < 6) (hk : k < 3) : LaunchesScalar (.rdsr d (Fin.ofNat 4096 (0x20 + 3 * n + k))) s d
    (match s.me.loops.reverse[n]? with
      | none => 0
      | some l => if k = 0 then l.count.setWidth 64 else if k = 1 then l.first.setWidth 64 else l.fin.setWidth 64) 2 := by
  have hval : (Fin.ofNat 4096 (0x20 + 3 * n + k)).val = 0x20 + 3 * n + k := Nat.mod_eq_of_lt (by omega)
  have hl := rdsr_launches d (Fin.ofNat 4096 (0x20 + 3 * n + k)) h
  rw [hval, srRead_loop s s.cur s.me hn hk, if_neg (by omega), Ctx.loopReg, Ctx.loopEnt_eq] at hl
  exact hl

end

/-- Settles O5: each index is read from the map, and its value is the register's. -/
theorem specialRegisterReadResult : Obligations.SpecialRegisterReadResult := by
  intro s d h
  have hword := rdsr_readsWord h d
  have hfield := @rdsr_readsField s h d
  refine ⟨rdsr_reads h d 0 (by decide) rfl, hword 1 _ (by decide) rfl, hword 2 _ (by decide) rfl, hfield 3 _ (by decide) rfl,
    hfield 4 _ (by decide) rfl, hfield 0x10 _ (by decide) rfl, hfield 0x11 _ (by decide) rfl, hword 0x12 _ (by decide) rfl,
    hfield 0x13 _ (by decide) rfl, rdsr_reads h d 0x32 (by decide) rfl, hfield 0x40 _ (by decide) rfl, hfield 0x41 _ (by decide) rfl,
    hfield 0x42 _ (by decide) rfl, hword 0x43 _ (by decide) rfl, rdsr_reads h d 0x44 (by decide) rfl, rdsr_launches d 0x50 h,
    hword 0x51 _ (by decide) rfl, hfield 0x60 _ (by decide) rfl, fun hw => rdsr_reads h d 0x70 (by decide) ?_,
    rdsr_reads h d 0x80 (by decide) rfl, rdsr_reads h d 0x81 (by decide) rfl, rdsr_reads h d 0x90 (by decide) rfl,
    hfield 0xA0 _ (by decide) rfl, hfield 0xA1 _ (by decide) rfl, fun n hn k hk => rdsr_readsLoop h d hn hk⟩
  change s.me.wait.elim 0 Wait.word = 0
  rw [hw]
  rfl

end Sys2Proof.Claims
end

section
/-! SUPPORT. Operations that change each core, die or context of a list once; and the scopes as such lists (04 R88; 16 R373). -/

open Sys2Proof.Claims

namespace Sys2Proof.Machine

/-- Of a fold that changes each place of a list once: the places listed are changed, the others stay. -/
theorem foldl_each {σ ι β : Type} [DecidableEq ι] {f : σ → ι → σ} {get : σ → ι → β} {F : ι → β → β}
    (hself : ∀ s i, get (f s i) i = F i (get s i)) (hother : ∀ s i j, j ≠ i → get (f s i) j = get s j) {is : List ι} (hn : is.Nodup) (s : σ)
    (j : ι) : get (is.foldl f s) j = if j ∈ is then F j (get s j) else get s j := by
  induction is generalizing s with
  | nil => rfl
  | cons i is ih =>
    obtain ⟨hi, hn⟩ := List.nodup_cons.1 hn
    rw [List.foldl_cons, ih hn]
    by_cases hj : j = i
    · subst hj
      rw [if_neg hi, if_pos (List.mem_cons_self), hself]
    · rw [hother s i j hj]
      exact if_congr (by simp [hj]) rfl rfl

theorem State.core_upCores (s : State) (f : Core → Core) {ks : List Nat} (hn : ks.Nodup) (j : Nat) :
    (s.upCores f ks).core j = if j ∈ ks then f (s.core j) else s.core j :=
  foldl_each (f := fun s k => State.upCore s k f) (get := State.core) (F := fun _ => f) (fun s i => s.core_upCore_self i f)
    (fun s _ _ h => s.core_upCore_of_ne f h) hn s j

theorem State.upCores_rest (s : State) (f : Core → Core) (ks : List Nat) : s.upCores f ks = { s with cores := (s.upCores f ks).cores } := by
  induction ks generalizing s with
  | nil => rfl
  | cons k ks ih => exact ih (s.upCore k f)

theorem scopeCores_nodup (p : Scope) (k : Nat) : (scopeCores p k).Nodup := by
  have hshift : ∀ n a : Nat, ((List.range n).map (a + ·)).Nodup := fun n a =>
    List.nodup_range.map fun _ _ h => Nat.add_left_cancel h
  cases p with
  | ctx => exact List.nodup_singleton k
  | core => exact List.nodup_singleton k
  | group => exact hshift _ _
  | die => exact hshift _ _
  | device => exact List.nodup_range
  | pod => exact List.nodup_range

theorem mem_block {a n j : Nat} (hn : 0 < n) : j ∈ (List.range n).map (n * a + ·) ↔ j / n = a := by
  simp only [List.mem_map, List.mem_range]
  constructor
  · rintro ⟨i, hi, rfl⟩
    rw [Nat.mul_add_div hn, Nat.div_eq_of_lt hi, Nat.add_zero]
  · rintro rfl
    exact ⟨j % n, Nat.mod_lt _ hn, Nat.div_add_mod j n⟩

theorem mem_scopeCores (p : Scope) (k j : Nat) : j ∈ scopeCores p k ↔ within p k j = true := by
  cases p with
  | ctx => simp [scopeCores, within]
  | core => simp [scopeCores, within]
  | group => simpa [scopeCores, within, groupOf] using mem_block (a := k / 4) (n := 4) (j := j) (by decide)
  | die => simpa [scopeCores, within, dieOf] using mem_block (a := k / 96) (n := 96) (j := j) (by decide)
  | device => simp [scopeCores, within]
  | pod => simp [scopeCores, within]

/-- A change of the cores in scope. -/
theorem State.core_upCores_scope (s : State) (f : Core → Core) (p : Scope) (k j : Nat) :
    (s.upCores f (scopeCores p k)).core j = if within p k j = true then f (s.core j) else s.core j :=
  (s.core_upCores f (scopeCores_nodup p k) j).trans (if_congr (mem_scopeCores p k j) rfl rfl)

end Sys2Proof.Machine
end

section
/-! SUPPORT. The instruction-cache lines that ICINV drops are those of what its range translates to (04 R88). -/

open Sys2Proof.Claims

namespace Sys2Proof.Machine

/-- A filtered map lists the keys that are kept as before. -/
theorem get_filter_keep {α : Type} (d : α) (m : SMap α) {p : Nat → Bool} {k : Nat} (hk : p k = false) :
    SMap.get d (m.filter fun e => !p e.1) k = m.get d k := by
  induction m with
  | nil => rfl
  | cons e m ih =>
    obtain ⟨j, v⟩ := e
    by_cases hj : p j = true
    · rw [List.filter_cons_of_neg (by simpa using hj), ih, SMap.get, if_neg fun e : k = j => by simp [← e, hk] at hj]
    · rw [List.filter_cons_of_pos (by simpa using hj)]
      simp only [SMap.get, ih]

/-- Stretches of `w + 1` places that begin one after another without a gap leave no gap: each of the blocks of 128 from the first place to the
last is met by one of them. -/
theorem exists_block {f : Nat → Nat} {w : Nat} (hstep : ∀ v, f (v + 1) ≤ f v + w + 1) {lo hi l : Nat} (hle : lo ≤ hi)
    (hlo : f lo / 128 ≤ l) (hhi : l ≤ (f hi + w) / 128) : ∃ v, lo ≤ v ∧ v ≤ hi ∧ f v / 128 ≤ l ∧ l ≤ (f v + w) / 128 := by
  induction hi, hle using Nat.le_induction with
  | base => exact ⟨lo, le_rfl, le_rfl, hlo, hhi⟩
  | succ hi hle ih =>
    by_cases hl : f (hi + 1) / 128 ≤ l
    · exact ⟨hi + 1, by omega, le_rfl, hl, hhi⟩
    · have := hstep hi
      obtain ⟨v, h1, h2, h3⟩ := ih (by omega)
      exact ⟨v, h1, by omega, h3⟩

/-- The bytes after the first that an address of a page stands for: a cell of a value page takes 32. -/
def Xl.tail (t : Xl) : Nat := if t.isValue = true then 31 else 0

theorem Xl.paOf_eq (t : Xl) (va : Nat) : t.paOf va = if t.isValue = true then t.pa + 32 * ((va - t.va) / 4) else t.pa + (va - t.va) := rfl

theorem Xl.paOf_step (t : Xl) (va : Nat) : t.paOf (va + 1) ≤ t.paOf va + t.tail + 1 := by
  rw [Xl.paOf_eq, Xl.paOf_eq, Xl.tail]
  split <;> omega

theorem Xl.paOf_mono (t : Xl) {a b : Nat} (h : a ≤ b) : t.paOf a ≤ t.paOf b := by
  rw [Xl.paOf_eq, Xl.paOf_eq]
  split <;> omega

theorem Xl.mem_linesOf (t : Xl) {lo hi l : Nat} (h : lo ≤ hi) :
    l ∈ t.linesOf lo hi ↔ ∃ va, lo ≤ va ∧ va ≤ hi ∧ t.paOf va / 128 ≤ l ∧ l ≤ (t.paOf va + t.tail) / 128 := by
  have hmem : l ∈ t.linesOf lo hi ↔ t.paOf lo / 128 ≤ l ∧ l ≤ (t.paOf hi + t.tail) / 128 := by
    have htail : (if t.cell && !t.raw then 31 else 0) = t.tail := rfl
    simp only [Xl.linesOf, htail, List.mem_map, List.mem_range]
    refine ⟨?_, fun ⟨h1, h2⟩ => ⟨l - t.paOf lo / 128, by omega, by omega⟩⟩
    rintro ⟨j, hj, rfl⟩
    omega
  rw [hmem]
  refine ⟨fun ⟨h1, h2⟩ => exists_block t.paOf_step h h1 h2, fun ⟨va, h1, h2, h3, h4⟩ => ?_⟩
  have := t.paOf_mono h1
  have := t.paOf_mono h2
  omega

/-- Where a byte of the range is translated. -/
theorem State.mem_icinvLines (s : State) (x a : Nat) {n : Nat} (l : Nat) (hn : n ≠ 0) : l ∈ s.icinvLines x a n ↔
    ∃ va t, a ≤ va ∧ va < a + n ∧ va < 2 ^ 48 ∧ (s.lookup (coreOf x) (s.asidOf x) (s.worldOf x) (va / 128 * 128)).2 = .ok t ∧
      t.paOf va / 128 ≤ l ∧ l ≤ (t.paOf va + t.tail) / 128 := by
  unfold State.icinvLines
  simp only [List.mem_flatMap, List.mem_range]
  constructor
  · rintro ⟨j, hj, hl⟩
    split at hl
    · cases hl
    rename_i hva
    split at hl
    · rename_i t ht
      obtain ⟨va, h1, h2, h3⟩ := (t.mem_linesOf (by omega)).1 hl
      refine ⟨va, t, by omega, by omega, by omega, ?_, h3⟩
      rw [show va / 128 * 128 = 128 * (a / 128 + j) by omega]
      exact ht
    · cases hl
  · rintro ⟨va, t, h1, h2, h3, ht, hl⟩
    refine ⟨va / 128 - a / 128, by omega, ?_⟩
    rw [show 128 * (a / 128 + (va / 128 - a / 128)) = va / 128 * 128 by omega, if_neg (by omega), ht]
    exact (t.mem_linesOf (by omega)).2 ⟨va, by omega, by omega, hl⟩

/-- ICINV drops the stale lines of the caches in scope. -/
theorem State.icInvalidate_eq (s : State) (p : Scope) (a : Nat) {n : Nat} (hn : n ≠ 0) : ∃ drop : Nat → Bool,
    s.icInvalidate s.cur p a n = s.upCores (·.icDrop drop) (scopeCores p (coreOf s.cur)) ∧ ∀ l, drop l = true ↔ Stale s a n l := by
  unfold State.icInvalidate Stale
  split
  · rename_i h
    exact ⟨fun _ => true, rfl, fun _ => ⟨fun _ => .inl h, fun _ => rfl⟩⟩
  · rename_i h
    refine ⟨(s.icinvLines s.cur a n).contains, rfl, fun l => ?_⟩
    rw [List.contains_iff_mem, s.mem_icinvLines s.cur a l hn]
    simp only [h, false_or]
    rfl

theorem State.refetches_icInvalidate (s : State) (p : Scope) (a : Nat) {n : Nat} (hn : n ≠ 0) :
    Refetches s (s.icInvalidate s.cur p a n) p a n := by
  obtain ⟨drop, heq, hdrop⟩ := s.icInvalidate_eq p a hn
  rw [heq]
  refine ⟨s.upCores_rest _ _, fun j => ⟨fun hj => ?_, fun hj => ?_⟩⟩
  · rw [State.core_upCores_scope, if_neg (by simp [hj])]
  · rw [State.core_upCores_scope, if_pos hj]
    refine ⟨rfl, fun l => ⟨fun hl => ?_, fun hl => ?_⟩⟩
    · have hl := (hdrop l).2 hl
      exact ⟨get_filter_none none _ hl, get_filter_none [] _ hl⟩
    · have hl := Bool.eq_false_iff.2 (mt (hdrop l).1 hl)
      exact ⟨get_filter_keep none _ hl, get_filter_keep [] _ hl⟩

end Sys2Proof.Machine
end

section
/-! SUPPORT. TLBINV takes the selected entries from the TLBs in scope, and stops the walks that might bring one (16 R373). -/

open Sys2Proof.Claims

namespace Sys2Proof.Machine

theorem tlbHit_eq (x : W64) (n : Nat) (e : Tlbe) : tlbHit x n e = removes x n e.asid e.xl.va e.xl.size := by
  simp only [tlbHit, removes, bitOf, bf, pow_zero, Nat.div_one]
  rfl

theorem Walk.stopped_eq (x : W64) (n : Nat) (w : Walk) : w.stopped x n = removes x n w.asid (w.va / 2 ^ 30 * 2 ^ 30) (2 ^ 30) := tlbHit_eq _ _ _

/-- Takes the entries from the L2 TLB of a die, and stops its walks. -/
def State.tlbDropDie (x : W64) (n : Nat) (s : State) (d : Nat) : State :=
  ({ s with l2tlb := s.l2tlb.put d ((s.l2tlb.get [] d).filter fun e => !tlbHit x n e) }).setWalks d ((s.walksOf d).filter fun w => !w.stopped x n)

theorem State.tlbDropDie_rest (x : W64) (n : Nat) (ds : List Nat) (s : State) : ds.foldl (State.tlbDropDie x n) s =
    { s with l2tlb := (ds.foldl (State.tlbDropDie x n) s).l2tlb, walks := (ds.foldl (State.tlbDropDie x n) s).walks } := by
  induction ds generalizing s with
  | nil => rfl
  | cons d ds ih => exact ih (s.tlbDropDie x n d)

/-- The L2 TLB and the walks of a die. -/
def State.dieXlate (s : State) (d : Nat) : List Tlbe × List Walk := (s.l2tlb.get [] d, s.walksOf d)

theorem State.dieXlate_tlbDropDie (x : W64) (n : Nat) (s : State) {ds : List Nat} (hn : ds.Nodup) (d : Nat) :
    (ds.foldl (State.tlbDropDie x n) s).dieXlate d = if d ∈ ds then
      ((s.l2tlb.get [] d).filter fun e => !tlbHit x n e, (s.walksOf d).filter fun w => !w.stopped x n) else s.dieXlate d :=
  foldl_each (f := State.tlbDropDie x n) (get := State.dieXlate)
    (F := fun _ v => (v.1.filter fun e => !tlbHit x n e, v.2.filter fun w => !w.stopped x n))
    (fun _ _ => Prod.ext (SMap.get_put_self _ _ _ _) (SMap.get_set_self _ _ _ _))
    (fun _ _ _ h => Prod.ext (SMap.get_put_of_ne _ _ _ h) (SMap.get_set_of_ne _ _ _ h)) hn s d

theorem scopeDies_nodup (p : Scope) (k : Nat) : (scopeDies p k).Nodup := by
  cases p with
  | die => exact List.nodup_singleton _
  | device => exact List.nodup_range
  | pod => exact List.nodup_range
  | _ => exact List.nodup_nil

theorem mem_scopeDies (p : Scope) (k d : Nat) : d ∈ scopeDies p k ↔ (p = .die ∧ d = dieOf k) ∨ ((p = .device ∨ p = .pod) ∧ d < 4) := by
  cases p <;> simp [scopeDies]

theorem scopeDies_isEmpty (p : Scope) (k : Nat) : (scopeDies p k).isEmpty = true ↔ ¬(p = .die ∨ p = .device ∨ p = .pod) := by
  cases p <;> simp [scopeDies]

/-- What the fabric keeps of translations, without the selected ones. -/
def Fabric.tlbDrop (x : W64) (n : Nat) (f : Fabric) : Fabric :=
  { f with verdicts := f.verdicts.map fun v => { v with xl := v.xl.filter fun e => !tlbHit x n ⟨e.1, false, e.2⟩ } }

theorem Fabric.tlbDrop_eq (x : W64) (n : Nat) (f : Fabric) : f.tlbDrop x n =
    { f with verdicts := f.verdicts.map fun v => { v with xl := v.xl.filter fun e => !removes x n e.1 e.2.va e.2.size } } := by
  simp only [Fabric.tlbDrop, tlbHit_eq]

/-- TLBINV, by what it changes in turn: the cores, the fabric, the dies. -/
theorem State.tlbInvalidate_eq (s : State) (p : Scope) (x : W64) (n : Nat) : s.tlbInvalidate s.cur p x n =
    (scopeDies p (coreOf s.cur)).foldl (State.tlbDropDie x n)
      { s.upCores (fun k => { k with tlb := k.tlb.filter fun e => !tlbHit x n e }) (scopeCores p (coreOf s.cur)) with
        fab := if p = .die ∨ p = .device ∨ p = .pod then s.fab.tlbDrop x n else s.fab } := by
  have hempty := scopeDies_isEmpty p (coreOf s.cur)
  have hfab : (s.upCores (fun k => { k with tlb := k.tlb.filter fun e => !tlbHit x n e }) (scopeCores p (coreOf s.cur))).fab = s.fab := by
    rw [State.upCores_rest]
  unfold State.tlbInvalidate
  dsimp only
  split
  · rename_i h
    rw [if_neg (hempty.1 h), ← hfab]
    rfl
  · rename_i h
    rw [if_pos (not_not.1 (mt hempty.2 h)), ← hfab]
    rfl

theorem State.retranslates_tlbInvalidate (s : State) (p : Scope) (x : W64) (n : Nat) :
    Retranslates s (s.tlbInvalidate s.cur p x n) p x n := by
  have hhit : ∀ es : List Tlbe, es.filter (fun e => !tlbHit x n e) = es.filter fun e => !removes x n e.asid e.xl.va e.xl.size := fun es => by
    simp only [tlbHit_eq]
  have hstop : ∀ ws : List Walk, ws.filter (fun w => !w.stopped x n) =
      ws.filter fun w => !removes x n w.asid (w.va / 2 ^ 30 * 2 ^ 30) (2 ^ 30) := fun ws => by simp only [Walk.stopped_eq]
  rw [State.tlbInvalidate_eq]
  set v : State := { s.upCores (fun k => { k with tlb := k.tlb.filter fun e => !tlbHit x n e }) (scopeCores p (coreOf s.cur)) with
    fab := if p = .die ∨ p = .device ∨ p = .pod then s.fab.tlbDrop x n else s.fab } with hv
  have hrest : v = { s with cores := v.cores, fab := v.fab } := by
    rw [hv, State.upCores_rest]
  have hcore : ∀ j, v.core j = if within p (coreOf s.cur) j = true then
      { s.core j with tlb := (s.core j).tlb.filter fun e => !removes x n e.asid e.xl.va e.xl.size } else s.core j := fun j => by
    rw [← hhit]
    exact s.core_upCores_scope _ p (coreOf s.cur) j
  have hdie := fun d => State.dieXlate_tlbDropDie x n v (scopeDies_nodup p (coreOf s.cur)) d
  have hsame : ∀ d, v.l2tlb.get [] d = s.l2tlb.get [] d ∧ v.walksOf d = s.walksOf d := fun d => by rw [hrest]; exact ⟨rfl, rfl⟩
  have hu := State.tlbDropDie_rest x n (scopeDies p (coreOf s.cur)) v
  refine ⟨?_, fun j => ?_, fun d => ⟨fun hd => ?_, fun hd => ?_⟩, ?_⟩
  · rw [hu, hrest]
  · rw [hu]
    exact hcore j
  · have h := hdie d
    rw [if_pos ((mem_scopeDies p _ d).2 hd), hhit, hstop, (hsame d).1, (hsame d).2] at h
    exact Prod.ext_iff.1 h
  · have h := hdie d
    rw [if_neg (mt (mem_scopeDies p _ d).1 hd)] at h
    obtain ⟨h1, h2⟩ := Prod.ext_iff.1 h
    exact ⟨h1.trans (hsame d).1, h2.trans (hsame d).2⟩
  · rw [hu, ← Fabric.tlbDrop_eq]

end Sys2Proof.Machine
end

section
/-! SUPPORT. DECPL, REJN, ICINV and TLBINV as words (04 R88; 05 R110, R111; 16 R373). -/

open Sys2Proof.Claims

namespace Sys2Proof.Machine

variable {e : Eff} {i : Instr} {s : State}

/-- A word that changes the state outside its context. -/
theorem does_of_eff {o : Out} (hi : exec i s = issueWords [e] s) (h : e (s.iss s.cur) s.out0 = .ok o) (hn : o.next = .seq) (hp : o.InPlace s)
    (hcur : o.s.cur = s.cur) : Does i s o.c o.s := by
  obtain ⟨c, ht, hgo, hme, hc, -⟩ := issueWords_goesOn h hn hp hcur
  exact ⟨_, hi.trans ht, hgo, hme.symm ▸ hc, rfl, fun y hy => State.ctx_setCtx_of_ne _ _ hy, fun _ => rfl⟩

theorem onlyMe_refl (s : State) : OnlyMe s s := ⟨rfl, fun _ _ => rfl, fun _ => rfl⟩

/-- A word that waits, where only its context has changed. -/
theorem waits_of_eff {u : State} {w : Wait} (hi : exec i s = issueWords [e] s) (h : e (s.iss s.cur) s.out0 = .wait u w) (hu : OnlyMe s u) :
    ∃ t, exec i s = .next t ∧ OnlyMe s t ∧ t.me = { u.me with wait := some w } := by
  obtain ⟨hrest, hother, hbyte⟩ := hu
  have hcur : u.cur = s.cur := by rw [hrest]
  refine ⟨_, hi.trans (issueWords_wait h), ⟨?_, fun y hy => ?_, hbyte⟩, ?_⟩
  · rw [hrest]; rfl
  · rw [State.draw_ctx, State.ctx_upCtx_of_ne _ _ hy, hother y hy]
  · rw [State.me, State.draw_ctx, State.draw_cur, State.upCtx_cur, hcur, State.ctx_upCtx_self, State.me, hcur]

theorem onceGranted_granted {n : Nat} {u : State} {k : Res} (h : s.me.granted = some n) : onceGranted (s.iss s.cur) n u k = k := if_pos h

theorem onceGranted_waits {n : Nat} {u : State} {k : Res} (h : s.me.granted ≠ some n) :
    onceGranted (s.iss s.cur) n u k = .wait u { kind := n, since := s.me.cycle.setWidth 32 } := if_neg h

theorem performs_iff_chk (s : State) : Performs s ↔ (s.iss s.cur).chk = false := by
  rw [Performs, State.iss, Bool.eq_false_iff, ne_eq, Bool.and_eq_true, beq_iff_eq]
  rfl

/-- A word of the E unit that has done nothing but sign (05 R107). -/
def State.outE (s : State) : Out := { s.out0 with sig := s.out0.sig ++ (s.iss s.cur).sigE }

end Sys2Proof.Machine

namespace Sys2Proof.Claims

open Sys2Proof.Machine

variable {s : State} {p : Scope} {a b : Fin 32}

/-! ## Release and rejoining (05 R110, R111) -/

theorem decpl_leavesMe (h : s.me.gmode ≠ 0) : LeavesMe .decpl s { s.me with gdec := true } := by
  have hgang : (s.iss s.cur).c.ganged = true := bne_iff_ne.2 h
  cases hd : s.me.gdec with
  | false =>
    have hd : (s.iss s.cur).c.gdec = false := hd
    refine leavesMe_of_eff (e := effDecpl) (o := { s.outE with c := { s.me with gdec := true } }) rfl ?_ rfl ⟨rfl, rfl, rfl, rfl, rfl, rfl⟩ rfl
    simp only [effDecpl, hgang, hd]
    rfl
  | true =>
    have hd' : (s.iss s.cur).c.gdec = true := hd
    rw [show ({ s.me with gdec := true } : Ctx) = s.me by rw [← hd]]
    refine leavesMe_of_eff (e := effDecpl) (o := s.outE) rfl ?_ rfl ⟨rfl, rfl, rfl, rfl, rfl, rfl⟩ rfl
    simp only [effDecpl, hgang, hd']
    rfl

theorem decpl_alone (h : s.me.gmode = 0) : LeavesMe .decpl s s.me := by
  have hgang : (s.iss s.cur).c.ganged = false := by rw [Ctx.ganged, show (s.iss s.cur).c.gmode = 0 from h]; rfl
  refine leavesMe_of_eff (e := effDecpl) (o := s.outE) rfl ?_ rfl ⟨rfl, rfl, rfl, rfl, rfl, rfl⟩ rfl
  simp only [effDecpl, hgang]
  rfl

theorem rejn_coupled (h : s.me.gdec = false) : LeavesMe .rejn s s.me := by
  have hd : (s.iss s.cur).c.gdec = false := h
  refine leavesMe_of_eff (e := effRejn) (o := s.outE) rfl ?_ rfl ⟨rfl, rfl, rfl, rfl, rfl, rfl⟩ rfl
  simp only [effRejn, hd]
  rfl

section
variable (hdec : s.me.gdec = true) (hperf : Performs s)
include hdec hperf

theorem effRejn_eq : effRejn (s.iss s.cur) s.out0 = onceGranted (s.iss s.cur) 10 (s.upCtx s.cur fun c => { c with arrived := true })
    (.ok { s.outE with c := { s.me with arrived := false } }) := by
  have hd : (s.iss s.cur).c.gdec = true := hdec
  simp only [effRejn, hd, (performs_iff_chk s).1 hperf]
  rfl

theorem rejn_granted (h : s.me.granted = some 10) : LeavesMe .rejn s { s.me with arrived := false } :=
  leavesMe_of_eff (e := effRejn) (o := { s.outE with c := { s.me with arrived := false } }) rfl
    ((effRejn_eq hdec hperf).trans (onceGranted_granted h)) rfl ⟨rfl, rfl, rfl, rfl, rfl, rfl⟩ rfl

theorem rejn_waits (h : s.me.granted ≠ some 10) : ∃ t, exec .rejn s = .next t ∧ OnlyMe s t ∧
    t.me = { s.me with arrived := true, wait := some { kind := 10, since := s.me.cycle.setWidth 32 } } := by
  obtain ⟨t, ht, honly, hme⟩ := waits_of_eff (e := effRejn) (i := .rejn) rfl ((effRejn_eq hdec hperf).trans (onceGranted_waits h))
    ⟨rfl, fun y hy => State.ctx_upCtx_of_ne _ _ hy, fun _ => rfl⟩
  refine ⟨t, ht, honly, ?_⟩
  rw [hme, State.me, State.upCtx_cur, State.ctx_upCtx_self]
  rfl

end

/-! ## ICINV (04 R88) -/

theorem icinv_empty (hb : Still s b) (h : s.me.rd b = 0) : LeavesMe (.icinv p a b) s s.me := by
  refine leavesMe_of_eff (e := effIcinv p a b) (o := s.outE) rfl ?_ rfl ⟨rfl, rfl, rfl, rfl, rfl, rfl⟩ rfl
  simp only [effIcinv, hb.rS, h]
  rfl

theorem effIcinv_eq (ha : Still s a) (hb : Still s b) (h : s.me.rd b ≠ 0) : effIcinv p a b (s.iss s.cur) s.out0 =
    onceGranted (s.iss s.cur) 9 s (.ok { s.outE with s := s.icInvalidate s.cur p (s.me.rd a).toNat (s.me.rd b).toNat }) := by
  simp only [effIcinv, ha.rS, hb.rS, if_neg h]
  rfl

theorem icinv_granted (ha : Still s a) (hb : Still s b) (h : s.me.rd b ≠ 0) (hg : s.me.granted = some 9) :
    ∃ u, Does (.icinv p a b) s s.me u ∧ Refetches s u p (s.me.rd a).toNat (s.me.rd b).toNat := by
  have hn : (s.me.rd b).toNat ≠ 0 := fun e => h (BitVec.eq_of_toNat_eq e)
  have hr := s.refetches_icInvalidate p (s.me.rd a).toNat hn
  have hcur : (s.icInvalidate s.cur p (s.me.rd a).toNat (s.me.rd b).toNat).cur = s.cur := by rw [hr.1]
  exact ⟨_, does_of_eff (e := effIcinv p a b)
    (o := { s.outE with s := s.icInvalidate s.cur p (s.me.rd a).toNat (s.me.rd b).toNat }) rfl
    ((effIcinv_eq ha hb h).trans (onceGranted_granted hg)) rfl ⟨rfl, rfl, rfl, rfl, rfl, rfl⟩ hcur, hr⟩

theorem icinv_waits (ha : Still s a) (hb : Still s b) (h : s.me.rd b ≠ 0) (hg : s.me.granted ≠ some 9) : Waits (.icinv p a b) s { kind := 9 } :=
  waits_of_eff (e := effIcinv p a b) rfl ((effIcinv_eq ha hb h).trans (onceGranted_waits hg)) (onlyMe_refl s)

/-! ## TLBINV (16 R373) -/

theorem tlbinv_traps (h : s.worldOf s.cur = false) : ∃ w, Traps (.tlbinv p a b) s .priv w := by
  have hpriv : (s.iss s.cur).priv = false := h
  have he : effTlbinv p a b (s.iss s.cur) s.out0 = privTrap (s.iss s.cur) := by
    simp only [effTlbinv, hpriv]
    rfl
  exact ⟨_, issueWords_trap he⟩

section
variable (hworld : s.worldOf s.cur = true)
include hworld

theorem tlbinv_checker (h : ¬ Performs s) : LeavesMe (.tlbinv p a b) s s.me := by
  have hpriv : (s.iss s.cur).priv = true := hworld
  have hchk : (s.iss s.cur).chk = true := Bool.not_eq_false _ ▸ mt (performs_iff_chk s).2 h
  refine leavesMe_of_eff (e := effTlbinv p a b) (o := s.outE) rfl ?_ rfl ⟨rfl, rfl, rfl, rfl, rfl, rfl⟩ rfl
  simp only [effTlbinv, hpriv, hchk]
  rfl

variable (hperf : Performs s) (ha : Still s a) (hb : Still s b)
include hperf ha hb

theorem effTlbinv_eq : effTlbinv p a b (s.iss s.cur) s.out0 =
    onceGranted (s.iss s.cur) 15 s (.ok { s.outE with s := s.tlbInvalidate s.cur p (s.me.rd a) (s.me.rd b).toNat }) := by
  have hpriv : (s.iss s.cur).priv = true := hworld
  simp only [effTlbinv, hpriv, (performs_iff_chk s).1 hperf, ha.rS, hb.rS]
  rfl

theorem tlbinv_granted (hg : s.me.granted = some 15) :
    ∃ u, Does (.tlbinv p a b) s s.me u ∧ Retranslates s u p (s.me.rd a) (s.me.rd b).toNat := by
  have hr := s.retranslates_tlbInvalidate p (s.me.rd a) (s.me.rd b).toNat
  have hcur : (s.tlbInvalidate s.cur p (s.me.rd a) (s.me.rd b).toNat).cur = s.cur := by rw [hr.1]
  exact ⟨_, does_of_eff (e := effTlbinv p a b)
    (o := { s.outE with s := s.tlbInvalidate s.cur p (s.me.rd a) (s.me.rd b).toNat }) rfl
    ((effTlbinv_eq hworld hperf ha hb).trans (onceGranted_granted hg)) rfl ⟨rfl, rfl, rfl, rfl, rfl, rfl⟩ hcur, hr⟩

theorem tlbinv_waits (hg : s.me.granted ≠ some 15) : Waits (.tlbinv p a b) s { kind := 15 } :=
  waits_of_eff (e := effTlbinv p a b) rfl ((effTlbinv_eq hworld hperf ha hb).trans (onceGranted_waits hg)) (onlyMe_refl s)

end

/-- Settles O34: each word goes on, waits for its grant or traps; granted, the invalidations are what they remove. -/
theorem gangAndInvalidationResult : Obligations.GangAndInvalidationResult := fun _ _ _ _ ha hb =>
  ⟨decpl_leavesMe, decpl_alone, rejn_coupled, fun hd hp => ⟨rejn_granted hd hp, rejn_waits hd hp⟩, icinv_empty hb,
    fun h => ⟨icinv_granted ha hb h, icinv_waits ha hb h⟩, tlbinv_checker,
    fun hw hp => ⟨tlbinv_granted hw hp ha hb, tlbinv_waits hw hp ha hb⟩, tlbinv_traps⟩

end Sys2Proof.Claims
end

section
/-! SUPPORT. The ends of waits by the re-examination of the bundle, the grants, and the wait half of a PHNEXT (04 R88; 12 R271, R276; 16 R373). -/

open Sys2Proof.Claims

namespace Sys2Proof.Machine

variable {s : State} {x : Nat}

theorem State.endWait_idle {w : Wait} {kind : Nat} (hw : (s.ctx x).wait = some w) (h : w.kind ≠ kind ∨ (s.ctx x).running = false) :
    s.endWait kind x = s := by
  have hcond : w.kind ≠ kind ∨ (!(s.ctx x).running) = true ∨ (s.ctx x).phnext.isSome = true := h.imp_right fun hr => .inl (by rw [hr]; rfl)
  simp only [State.endWait, hw, if_pos hcond]

theorem State.endWait_rewait {w : Wait} (hw : (s.ctx x).wait = some w) (hr : (s.ctx x).running = true) (hph : (s.ctx x).phnext = none) :
    s.endWait w.kind x = match (s.upCtx x fun c => { c with wait := none }).rewait x with
      | none => s.upCtx x fun c => { c with wait := none }
      | some (u, v) => u.enter x (if v.kind = w.kind then { v with since := w.since } else v) := by
  simp only [State.endWait, hw, hr, hph]
  rw [if_neg (by simp)] <;> rfl

theorem endsWait_of_exec {i : Instr} {kind : Nat} (hi : exec i s = .next (s.endWait kind x)) (hph : (s.ctx x).phnext = none) :
    EndsWait s x i kind := by
  refine ⟨fun hw => ?_, fun w hw => ⟨fun h => ?_, fun hk hr => ?_⟩⟩
  · rw [Makes, hi, State.endWait, hw]
  · rw [Makes, hi, State.endWait_idle hw h]
  · subst hk
    rw [State.endWait_rewait hw hr hph] at hi
    generalize (s.upCtx x fun c => { c with wait := none }).rewait x = r at hi
    rcases r with _ | ⟨u, v⟩ <;> exact hi

theorem exec_phwaitEnd_plain (hph : (s.ctx x).phnext = none) : exec (.phwaitEnd x) s = .next (s.endWait 1 x) := by
  change execPhwaitEnd x s = _
  rw [execPhwaitEnd, hph]

/-! ## Grants -/

/-- A context after a grant of the kind: one that waits with it waits no more. -/
def Ctx.grantedTo (kind : Nat) (c : Ctx) : Ctx :=
  if c.running ∧ (c.wait.any fun w => w.kind == kind) then { c with wait := none, granted := some kind } else c

theorem State.ctx_grant_self (s : State) (kind x : Nat) : (s.grant kind x).ctx x = (s.ctx x).grantedTo kind := State.ctx_upCtx_self _ _ _

theorem State.ctx_grant_of_ne (s : State) (kind : Nat) {x y : Nat} (h : y ≠ x) : (s.grant kind x).ctx y = s.ctx y := State.ctx_upCtx_of_ne _ _ h

theorem State.ctx_grant_of_waits {w : Wait} (hr : (s.ctx x).running = true) (hw : (s.ctx x).wait = some w) :
    (s.grant w.kind x).ctx x = { s.ctx x with wait := none, granted := some w.kind } := by
  rw [State.ctx_grant_self, Ctx.grantedTo, if_pos ⟨hr, by simp [hw]⟩]

theorem State.ctx_grant_of_idle {kind : Nat} (h : (s.ctx x).running = false ∨ ∀ w, (s.ctx x).wait = some w → w.kind ≠ kind) :
    (s.grant kind x).ctx x = s.ctx x := by
  rw [State.ctx_grant_self, Ctx.grantedTo, if_neg]
  rintro ⟨hr, hw⟩
  obtain ⟨w, hw, hk⟩ := (Option.any_eq_true _ _).1 hw
  obtain h | h := h
  · rw [h] at hr
    cases hr
  · exact h w hw (beq_iff_eq.1 hk)

theorem grantsWait_of_exec {i : Instr} {kind : Nat} (hi : exec i s = .next (s.grant kind x)) : GrantsWait s x i kind := by
  refine ⟨_, hi, rfl, fun y hy => s.ctx_grant_of_ne kind hy, ?_, State.ctx_grant_of_idle⟩
  rintro hr ⟨w, hw, rfl⟩
  exact State.ctx_grant_of_waits hr hw

/-! ## The wait half of a PHNEXT (12 R276) -/

theorem exec_phwaitEnd_stopped {h : Fin 96} {p : Scope} {pc : Addr} (hph : (s.ctx x).phnext = some (h, p, pc))
    (hr : (s.ctx x).running = false) : exec (.phwaitEnd x) s = .next s := by
  change execPhwaitEnd x s = _
  simp only [execPhwaitEnd, hph, hr]
  rfl

/-- The context after its PHNEXT, waiting no more. -/
def State.unwait (s : State) (x : Nat) : State := s.upCtx x fun c => { c with phnext := none, wait := none }

theorem exec_phwaitEnd_phnext {h : Fin 96} {p : Scope} {pc : Addr} (hph : (s.ctx x).phnext = some (h, p, pc))
    (hr : (s.ctx x).running = true) : exec (.phwaitEnd x) s = .next (match s.phSee x (s.ctx x) h with
      | .held f => (s.unwait x).raise x ⟨f.cause, pc, f.info, f.unit⟩
      | .broken w => (s.unwait x).raise x ⟨.phaserBroken, pc, w, 0⟩
      | .done => (s.unwait x).phDone x h p
      | .wait _ => s) := by
  change execPhwaitEnd x s = _
  simp only [execPhwaitEnd, hph, hr] <;> rfl

/-- A context that runs alone takes its trap alone (05 R108). -/
theorem State.raise_alone {t : Trap} (h : (s.ctx x).gmode = 0) : s.raise x t = (s.takeTrap x t).draw := by
  rw [State.raise, State.trapIn, if_pos h]

theorem State.unwait_gmode (s : State) (x : Nat) : ((s.unwait x).ctx x).gmode = (s.ctx x).gmode := by
  rw [State.unwait, State.ctx_upCtx_self]

theorem phGt_iff (a b : W32) : phGt a b = true ↔ 1 ≤ (a - b).toNat ∧ (a - b).toNat ≤ 2 ^ 31 - 1 := by
  rw [phGt, Bool.and_eq_true, decide_eq_true_eq, decide_eq_true_eq]

theorem State.phSee_held {c : Ctx} {h : Fin 96} {f : FaultRec} (hf : (s.handle (coreOf x) h).frec.or c.frec = some f) :
    s.phSee x c h = .held f := by
  simp only [State.phSee, hf]

theorem State.phSee_bound {c : Ctx} {h : Fin 96} {ob : Nat} (hq : (s.core (coreOf x)).handles[h].frec = none) (hc : c.frec = none)
    (hob : (s.core (coreOf x)).handles[h].obj = some ob) : s.phSee x c h =
      if phGt (s.phaser ob).phase (s.core (coreOf x)).handles[h].lph then .done
      else if (s.phaser ob).broken then .broken (brokenInfo ob false h (s.core (coreOf x)).handles[h].lph) else .wait ob := by
  simp only [State.phSee, State.handle, hq, hc, hob, Option.or_none]
  rfl

theorem brokenInfo_bound (ob : Nat) (h : Fin 96) (lph : W32) :
    brokenInfo ob false h lph = BitVec.ofNat 64 (ob % 2 ^ 14 + 2 ^ 16 * h.val + 2 ^ 32 * lph.toNat) := rfl

theorem State.acquire_rest (s : State) (k : Nat) (p : Scope) : s.acquire k p = { s with cores := (s.acquire k p).cores } := by
  cases p <;> rfl

theorem State.core_acquire_of_ne (s : State) (p : Scope) {k m : Nat} (h : m ≠ k) : (s.acquire k p).core m = s.core m := by
  cases p
  case device => exact State.core_upCore_of_ne _ _ h
  case pod => exact State.core_upCore_of_ne _ _ h
  all_goals rfl

theorem State.core_acquire_self (s : State) (k : Nat) (p : Scope) :
    (s.acquire k p).core k = { s.core k with l1 := match p with | .device | .pod => [] | _ => (s.core k).l1 } := by
  cases p
  case device => exact State.core_upCore_self _ _ _
  case pod => exact State.core_upCore_self _ _ _
  all_goals rfl

/-- A completed wait changes its handle, and the L1 of its core where the acquire reaches the device. -/
theorem State.phDone_does (s : State) (x : Nat) (h : Fin 96) (p : Scope) : s.phDone x h p = { s with cores := (s.phDone x h p).cores } ∧
    (∀ m, m ≠ coreOf x → (s.phDone x h p).core m = s.core m) ∧
    (s.phDone x h p).core (coreOf x) = { s.core (coreOf x) with
      handles := (s.core (coreOf x)).handles.set h { (s.core (coreOf x)).handles[h] with lph := (s.core (coreOf x)).handles[h].lph + 1 }
      l1 := match p with | .device | .pod => [] | _ => (s.core (coreOf x)).l1 } := by
  unfold State.phDone
  refine ⟨?_, fun m hm => ?_, ?_⟩
  · rw [State.acquire_rest]; rfl
  · rw [State.core_acquire_of_ne _ _ hm]
    exact State.core_upCore_of_ne _ _ hm
  · rw [State.core_acquire_self, State.upHandle, State.core_upCore_self]

end Sys2Proof.Machine

namespace Sys2Proof.Claims

open Sys2Proof.Machine

section
variable {s : State} {x : Nat} {h : Fin 96} {p : Scope} {pc : Addr} (hph : (s.ctx x).phnext = some (h, p, pc)) (halone : Alone s x)
include hph halone

theorem phnext_held {f : FaultRec} (hf : ((s.core (coreOf x)).handles[h].frec).or (s.ctx x).frec = some f) :
    Makes (.phwaitEnd x) s ((s.unwait x).takeTrap x ⟨f.cause, pc, f.info, f.unit⟩).draw := by
  rw [Makes, exec_phwaitEnd_phnext hph halone.1, State.phSee_held hf]
  dsimp only
  rw [State.raise_alone ((s.unwait_gmode x).trans halone.2)]

variable (hq : (s.core (coreOf x)).handles[h].frec = none) (hc : (s.ctx x).frec = none) {ob : Nat}
  (hob : (s.core (coreOf x)).handles[h].obj = some ob)
include hq hc hob

theorem phnext_waits (hgt : ¬ phGt (s.phaser ob).phase (s.core (coreOf x)).handles[h].lph = true) (hb : (s.phaser ob).broken = false) :
    Makes (.phwaitEnd x) s s := by
  rw [Makes, exec_phwaitEnd_phnext hph halone.1, State.phSee_bound hq hc hob, if_neg hgt, hb]
  rfl

theorem phnext_broken (hgt : ¬ phGt (s.phaser ob).phase (s.core (coreOf x)).handles[h].lph = true) (hb : (s.phaser ob).broken = true) :
    Makes (.phwaitEnd x) s ((s.unwait x).takeTrap x ⟨.phaserBroken, pc,
      BitVec.ofNat 64 (ob % 2 ^ 14 + 2 ^ 16 * h.val + 2 ^ 32 * ((s.core (coreOf x)).handles[h].lph).toNat), 0⟩).draw := by
  rw [Makes, exec_phwaitEnd_phnext hph halone.1, State.phSee_bound hq hc hob, if_neg hgt, if_pos hb]
  dsimp only
  rw [State.raise_alone ((s.unwait_gmode x).trans halone.2), brokenInfo_bound]

theorem phnext_passes (hgt : phGt (s.phaser ob).phase (s.core (coreOf x)).handles[h].lph = true) :
    exec (.phwaitEnd x) s = .next ((s.unwait x).phDone x h p) := by
  rw [exec_phwaitEnd_phnext hph halone.1, State.phSee_bound hq hc hob]
  rw [if_pos hgt]

end

end Sys2Proof.Claims
end

section
/-! SUPPORT. REJN_COMPLETE: the members that have arrived go on decoupled, or behind their lead (05 R111). -/

open Sys2Proof.Claims

namespace Sys2Proof.Machine

/-- The contexts 0 of a group. -/
theorem firsts_nodup (g : Nat) : ((List.range 4).map fun j => 8 * g + 2 * j).Nodup :=
  List.nodup_range.map fun _ _ h => by omega

theorem State.rejoiners_nodup (s : State) (g : Nat) : (s.rejoiners g).Nodup := (firsts_nodup g).filter _

/-- What an arrival says of the member. -/
theorem State.arrivedAt_waits {s : State} {y : Nat} (h : s.arrivedAt y = true) :
    (s.ctx y).running = true ∧ ∃ w, (s.ctx y).wait = some w ∧ w.kind = 10 := by
  simp only [State.arrivedAt, Bool.and_eq_true, Option.any_eq_true, beq_iff_eq] at h
  obtain ⟨⟨⟨⟨hr, -⟩, -⟩, hw⟩, -⟩ := h
  exact ⟨hr, hw⟩

theorem State.ctx_grants (s : State) (kind : Nat) {us : List Nat} (hn : us.Nodup) (y : Nat) :
    (us.foldl (fun s y => s.grant kind y) s).ctx y = if y ∈ us then (s.grant kind y).ctx y else s.ctx y := by
  have h := foldl_each (f := fun s y => State.grant s kind y) (get := State.ctx) (F := fun _ => Ctx.grantedTo kind)
    (fun s y => s.ctx_grant_self kind y) (fun s _ _ h => s.ctx_grant_of_ne kind h) hn s y
  rw [h, State.ctx_grant_self]

/-- A delivery of arrivals takes them from their context, and touches no other part of one. -/
theorem State.ctx_deliverResume (s : State) (x y : Nat) : ∃ r, (s.deliverResume x).ctx y = { s.ctx y with rarr := r } := by
  unfold State.deliverResume
  dsimp only
  split
  · exact ⟨_, rfl⟩
  have harrive : ∀ (as : List (Nat × Arrive)) (u : State), (as.foldl (fun s a => s.arrive a.1 (some a.2) none) u).ctxs = u.ctxs := by
    intro as
    induction as with
    | nil => exact fun _ => rfl
    | cons a as ih => exact fun u => ih _
  unfold State.ctx
  rw [harrive]
  by_cases hy : y = x
  · subst hy
    exact ⟨[], State.ctx_upCtx_self _ _ _⟩
  · exact ⟨_, State.ctx_upCtx_of_ne _ _ hy⟩

theorem State.ctx_delivers (s : State) (ys : List Nat) (y : Nat) : ∃ r, (s.delivers ys).ctx y = { s.ctx y with rarr := r } := by
  refine List.foldlRecOn (motive := fun u : State => ∃ r, u.ctx y = { s.ctx y with rarr := r }) ys _ ⟨_, rfl⟩ fun u hu x _ => ?_
  obtain ⟨r, hr⟩ := hu
  obtain ⟨r', hr'⟩ := u.ctx_deliverResume x y
  exact ⟨r', by rw [hr', hr]⟩

/-- A context of the group after the rejoining, where `l` is its lead: a member that runs stands behind the lead. -/
def Ctx.rejoined (c l : Ctx) (isLead : Prop) [Decidable isLead] : Ctx :=
  if c.running && c.ganged then
    { c with gdec := false, stream := [], pc := l.pc, loops := l.loops, fbuf := if isLead then c.fbuf else [] }
  else c

theorem State.ctx_rejoin {s : State} {g j : Nat} (hj : j < 4) :
    (s.rejoin g).ctx (8 * g + 2 * j) = (s.ctx (8 * g + 2 * j)).rejoined (s.ctx (8 * g)) (8 * g + 2 * j = 8 * g) := by
  have hmem : 8 * g + 2 * j ∈ (List.range 4).map fun j => 8 * g + 2 * j := List.mem_map_of_mem (List.mem_range.2 hj)
  have h := foldl_each (f := fun u y => State.upCtx u y fun c => c.rejoined (s.ctx (8 * g)) (y = 8 * g)) (get := State.ctx)
    (F := fun y c => c.rejoined (s.ctx (8 * g)) (y = 8 * g)) (fun u y => u.ctx_upCtx_self y _)
    (fun u _ _ h => u.ctx_upCtx_of_ne _ h) (firsts_nodup g) s (8 * g + 2 * j)
  exact h.trans (if_pos hmem)

theorem Ctx.rejoined_behind {l c : Ctx} {isLead : Prop} [Decidable isLead] (hr : c.running = true) (hg : c.gmode ≠ 0) :
    (c.rejoined l isLead).gdec = false ∧ (c.rejoined l isLead).pc = l.pc ∧ (c.rejoined l isLead).loops = l.loops := by
  have hcond : (c.running && c.ganged) = true := by rw [hr, Ctx.ganged, bne_iff_ne.2 hg]; rfl
  rw [Ctx.rejoined, if_pos hcond]
  exact ⟨rfl, rfl, rfl⟩

end Sys2Proof.Machine

namespace Sys2Proof.Claims

open Sys2Proof.Machine

variable {s : State} {g : Nat}

theorem rejnComplete_waits (h : s.rejoiners g = [] ∨ ∃ y ∈ s.rejoiners g, s.arrivedAt y = false) : Makes (.rejnComplete g) s s := by
  change execRejnComplete g s = _
  have hcond : (s.rejoiners g).isEmpty = true ∨ (!(s.rejoiners g).all s.arrivedAt) = true := by
    refine h.imp List.isEmpty_iff.2 fun ⟨y, hy, hn⟩ => ?_
    rw [Bool.not_eq_true', List.all_eq_false]
    exact ⟨y, hy, by simp [hn]⟩
  simp only [execRejnComplete, if_pos hcond]

section
variable (hne : s.rejoiners g ≠ []) (hall : ∀ y ∈ s.rejoiners g, s.arrivedAt y = true)
include hne hall

theorem rejnComplete_cond : ¬((s.rejoiners g).isEmpty = true ∨ (!(s.rejoiners g).all s.arrivedAt) = true) := by
  rintro (h | h)
  · exact hne (List.isEmpty_iff.1 h)
  · rw [List.all_eq_true.2 hall] at h
    cases h

/-- The lead has retired: the others go on decoupled. -/
theorem rejnComplete_grants (hlead : (s.rejoiners g).head? ≠ some (8 * g)) : Ends (.rejnComplete g) s fun t =>
    ∀ y ∈ s.rejoiners g, t.ctx y = { s.ctx y with wait := none, granted := some 10 } := by
  have hexec : exec (.rejnComplete g) s = .next ((s.rejoiners g).foldl (fun s y => s.grant 10 y) s) := by
    change execRejnComplete g s = _
    simp only [execRejnComplete, if_neg (rejnComplete_cond hne hall), if_pos hlead]
  refine ⟨_, hexec, fun y hy => ?_⟩
  obtain ⟨hr, w, hw, hk⟩ := State.arrivedAt_waits (hall y hy)
  rw [s.ctx_grants 10 (s.rejoiners_nodup g), if_pos hy, ← hk, State.ctx_grant_of_waits hr hw]

/-- The lead's bundle is issued with the others'. -/
theorem exec_rejnComplete_lead (hlead : (s.rejoiners g).head? = some (8 * g)) : exec (.rejnComplete g) s =
    .next (match State.issueRejns (s.rejoiners g) s with
      | some u => ((u.delivers (s.rejoiners g)).rejoin g).draw
      | none => s) := by
  change execRejnComplete g s = _
  simp only [execRejnComplete, if_neg (rejnComplete_cond hne hall), if_neg (not_not.2 hlead)] <;> rfl

end

theorem rejnComplete_joins (hlead : (s.rejoiners g).head? = some (8 * g)) (hall : ∀ y ∈ s.rejoiners g, s.arrivedAt y = true) :
    (State.issueRejns (s.rejoiners g) s = none → Makes (.rejnComplete g) s s) ∧
    ∀ u, State.issueRejns (s.rejoiners g) s = some u → Ends (.rejnComplete g) s fun t => ∀ j, j < 4 →
      let y := 8 * g + 2 * j
      (u.ctx y).running = true → (u.ctx y).gmode ≠ 0 →
        (t.ctx y).gdec = false ∧ (t.ctx y).pc = (u.ctx (8 * g)).pc ∧ (t.ctx y).loops = (u.ctx (8 * g)).loops := by
  have hne : s.rejoiners g ≠ [] := fun h => by rw [h] at hlead; cases hlead
  have hexec := exec_rejnComplete_lead hne hall hlead
  refine ⟨fun h => by rw [Makes, hexec, h], fun u hu => ⟨_, by rw [hexec, hu], fun j hj hr hg => ?_⟩⟩
  obtain ⟨r, hy⟩ := u.ctx_delivers (s.rejoiners g) (8 * g + 2 * j)
  obtain ⟨r', hl⟩ := u.ctx_delivers (s.rejoiners g) (8 * g)
  have h := State.ctx_rejoin (s := u.delivers (s.rejoiners g)) (g := g) hj
  rw [hl, hy] at h
  rw [show (((u.delivers (s.rejoiners g)).rejoin g).draw).ctx _ = _ from h]
  exact Ctx.rejoined_behind hr hg

end Sys2Proof.Claims
end

section
/-! SUPPORT. The watchdogs (09 R185; 16 R368). -/

open Sys2Proof.Claims

namespace Sys2Proof.Machine

variable {s : State} {x : Nat} {w : Wait}

/-- A wait is late where a limit is set and has passed. -/
theorem Ctx.late_iff (c : Ctx) (w : Wait) (n : W32) :
    ¬(n ≠ 0 ∧ n.toNat ≤ (c.cycle.setWidth 32 - w.since).toNat) ↔ n = 0 ∨ c.waited w < n.toNat := by
  rw [Ctx.waited, not_and_or, not_not, not_le]

theorem exec_feWatchdog_none (hw : (s.ctx x).wait = none) : exec (.feWatchdog x) s = .next s := by
  change execFeWatchdog x s = _
  simp only [execFeWatchdog, hw]

theorem exec_waitTimeout_none (hw : (s.ctx x).wait = none) : exec (.waitTimeout x) s = .next s := by
  change execWaitTimeout x s = _
  simp only [execWaitTimeout, hw]

theorem exec_feWatchdog_idle (hw : (s.ctx x).wait = some w)
    (h : w.kind ≠ 3 ∨ (s.ctx x).fewdog = 0 ∨ (s.ctx x).waited w < (s.ctx x).fewdog.toNat) : exec (.feWatchdog x) s = .next s := by
  change execFeWatchdog x s = _
  have hcond : w.kind ≠ 3 ∨ (!(s.ctx x).running) = true ∨ (s.ctx x).fewdog = 0 ∨ (s.ctx x).waited w < (s.ctx x).fewdog.toNat :=
    h.imp_right .inr
  simp only [execFeWatchdog, hw, if_pos hcond]

theorem exec_waitTimeout_idle (hw : (s.ctx x).wait = some w)
    (h : w.kind = 3 ∨ w.kind = 11 ∨ w.kind = 13 ∨ (s.ctx x).waitdog = 0 ∨ (s.ctx x).waited w < (s.ctx x).waitdog.toNat) :
    exec (.waitTimeout x) s = .next s := by
  change execWaitTimeout x s = _
  have hcond : w.kind = 3 ∨ w.kind = 11 ∨ w.kind = 13 ∨ (!(s.ctx x).running) = true ∨ (s.ctx x).waitdog = 0 ∨
      (s.ctx x).waited w < (s.ctx x).waitdog.toNat := h.imp_right (.imp_right (.imp_right .inr))
  simp only [execWaitTimeout, hw, if_pos hcond]

theorem exec_feWatchdog_late (hrun : (s.ctx x).running = true) (hw : (s.ctx x).wait = some w) (hk : w.kind = 3)
    (hl : ¬((s.ctx x).fewdog = 0 ∨ (s.ctx x).waited w < (s.ctx x).fewdog.toNat)) {u : State} {v : Wait}
    (hre : (s.upCtx x fun c => { c with wait := none }).rewait x = some (u, v)) (hv : v.kind = 3) :
    exec (.feWatchdog x) s = .next (s.raise x ⟨.feWatchdog, (s.ctx x).pc, BitVec.ofNat 64 (16 * v.arg), 0⟩) := by
  change execFeWatchdog x s = _
  simp only [execFeWatchdog, hw]
  rw [if_neg (by simpa [hk, hrun] using hl), hre]
  exact congrArg _ (if_pos hv)

theorem exec_waitTimeout_late (hrun : (s.ctx x).running = true) (hw : (s.ctx x).wait = some w)
    (h3 : w.kind ≠ 3) (h11 : w.kind ≠ 11) (h13 : w.kind ≠ 13)
    (hl : ¬((s.ctx x).waitdog = 0 ∨ (s.ctx x).waited w < (s.ctx x).waitdog.toNat)) (hph : (s.ctx x).phnext = none) :
    exec (.waitTimeout x) s =
      .next ((s.upCtx x fun c => { c with phnext := none }).raise x ⟨.waitTimeout, (s.ctx x).pc, w.word, 0⟩) := by
  change execWaitTimeout x s = _
  simp only [execWaitTimeout, hw, hph]
  rw [if_neg (by simpa [h3, h11, h13, hrun] using hl)]
  rfl

end Sys2Proof.Machine

namespace Sys2Proof.Claims

open Sys2Proof.Machine

/-- A timed-out wait kills its kernel: no handler may take WAIT_TIMEOUT (16 R360). -/
theorem waitTimeout_kills {s : State} {x : Nat} {o : Occ} {k : Kernel} (hh : Holds s x o k) (hst : k.st ≠ .killing) (word : W64) :
    KilledBy ((s.upCtx x fun c => { c with phnext := none }).raise x ⟨.waitTimeout, (s.ctx x).pc, word, 0⟩) o.kid fun e =>
      e.status = .fault ∧ e.cause = some .waitTimeout ∧ e.tpc = (s.ctx x).pc ∧ e.info = word := by
  have hheld : Holds (s.upCtx x fun c => { c with phnext := none }) x o k :=
    ⟨(congrArg Ctx.occ (State.ctx_upCtx_self s x _)).trans hh.1, hh.2⟩
  refine KilledBy.imp (State.trapIn_killedBy hheld hst (t := ⟨.waitTimeout, (s.ctx x).pc, word, 0⟩) rfl) fun e he => ?_
  subst he
  exact ⟨rfl, rfl, rfl, rfl⟩

end Sys2Proof.Claims
end

section
/-! SUPPORT. The answers of the page-fault service (17 R384). -/

open Sys2Proof.Claims

namespace Sys2Proof.Machine

/-- A value that is not the default stands in the map with its key. -/
theorem SMap.mem_of_get_ne {α : Type} {d : α} {m : SMap α} {k : Nat} (h : m.get d k ≠ d) : (k, m.get d k) ∈ m := by
  induction m with
  | nil => exact absurd rfl h
  | cons e m ih =>
    obtain ⟨j, v⟩ := e
    rw [SMap.get] at h ⊢
    by_cases hkj : k = j
    · rw [if_pos hkj, hkj]
      exact List.mem_cons_self
    · rw [if_neg hkj] at h ⊢
      exact List.mem_cons_of_mem _ (ih h)

/-- A core with a copy command in its queue is listed. -/
theorem State.core_mem_of_copy {s : State} {k : Nat} {d : Copy} (hd : d ∈ (s.core k).copies) : (k, s.core k) ∈ s.cores := by
  refine SMap.mem_of_get_ne fun h => ?_
  rw [State.core, h] at hd
  cases hd

theorem State.mem_copiesOn {s : State} {asid : Nat} {page : W32} {k : Nat} {d : Copy} (hd : d ∈ (s.core k).copies)
    (hp : d.parked = true) (hpage : d.page = page) (ha : s.asidOf d.ctx = asid) : (k, d) ∈ s.copiesOn asid page := by
  refine List.mem_flatMap.2 ⟨_, State.core_mem_of_copy hd, List.mem_map.2 ⟨d, List.mem_filter.2 ⟨hd, ?_⟩, rfl⟩⟩
  simp [hp, hpage, ha]

/-- Command `id` of core `k` walks again. -/
def State.unparkCopy (s : State) (e : Nat × Copy) : State := s.upCopy e.1 e.2.id fun c => { c with parked := false }

/-- A command that stays parked was parked before, under another number. -/
theorem State.parked_unparkCopy {s : State} {e : Nat × Copy} {k : Nat} {d : Copy} (hd : d ∈ ((s.unparkCopy e).core k).copies)
    (hp : d.parked = true) : d ∈ (s.core k).copies ∧ (e.1 = k → d.id ≠ e.2.id) := by
  by_cases hk : k = e.1
  · subst hk
    rw [State.unparkCopy, State.upCopy, State.core_upCore_self] at hd
    obtain ⟨c, hc, rfl⟩ := List.mem_map.1 hd
    by_cases hid : c.id = e.2.id
    · rw [if_pos hid] at hp
      cases hp
    · rw [if_neg hid]
      exact ⟨hc, fun _ => hid⟩
  · rw [State.unparkCopy, State.upCopy, State.core_upCore_of_ne _ _ hk] at hd
    exact ⟨hd, fun h => absurd h.symm hk⟩

theorem State.parked_unparkCopies (es : List (Nat × Copy)) {s : State} {k : Nat} {d : Copy}
    (hd : d ∈ ((es.foldl State.unparkCopy s).core k).copies) (hp : d.parked = true) :
    d ∈ (s.core k).copies ∧ (k, d) ∉ es := by
  induction es generalizing s with
  | nil => exact ⟨hd, List.not_mem_nil⟩
  | cons e es ih =>
    obtain ⟨hmem, hes⟩ := ih hd
    obtain ⟨hmem, he⟩ := State.parked_unparkCopy hmem hp
    refine ⟨hmem, fun h => ?_⟩
    obtain rfl | h := List.mem_cons.1 h
    · exact he rfl rfl
    · exact hes h

theorem State.unparkCopies_rest (s : State) (es : List (Nat × Copy)) : ∃ cs, es.foldl State.unparkCopy s = { s with cores := cs } := by
  induction es generalizing s with
  | nil => exact ⟨_, rfl⟩
  | cons e es ih =>
    obtain ⟨cs, heq⟩ := ih (s.unparkCopy e)
    exact ⟨cs, heq⟩

theorem State.isParked_unpark (s : State) (asid : Nat) (page : W32) : (s.unpark asid page).isParked asid page = false := by
  simp only [State.isParked, State.unpark, State.upSys, List.any_eq_false, List.mem_filter]
  rintro p ⟨-, hp⟩
  intro h
  rw [h] at hp
  cases hp

variable {s : State} {asid : Fin 64} {page : W32}

theorem exec_pfansRetry_unparked (h : s.isParked asid page = false) : exec (.pfansRetry asid page) s = .next s.barAccess := by
  change execPfansRetry asid page s = _
  simp only [execPfansRetry, show s.barAccess.isParked asid page = false from h]
  rfl

theorem exec_pfansFail_unparked (h : s.isParked asid page = false) : exec (.pfansFail asid page) s = .next s.barAccess := by
  change execPfansFail asid page s = _
  simp only [execPfansFail, show s.barAccess.isParked asid page = false from h]
  rfl

/-- The state after RETRY of a parked page. -/
def State.retried (s : State) (asid : Nat) (page : W32) : State :=
  (s.copiesOn asid page).foldl State.unparkCopy
    ((s.barAccess.unpark asid page).upCtxs (fun c => { c with wait := none }) (s.parkedOn asid page))

theorem exec_pfansRetry_parked (h : s.isParked asid page = true) : exec (.pfansRetry asid page) s = .next (s.retried asid page) := by
  change execPfansRetry asid page s = _
  simp only [execPfansRetry, show s.barAccess.isParked asid page = true from h]
  rfl

theorem State.retried_isParked (s : State) (asid : Nat) (page : W32) : (s.retried asid page).isParked asid page = false := by
  obtain ⟨cs, hcs⟩ := State.unparkCopies_rest
    ((s.barAccess.unpark asid page).upCtxs (fun c => { c with wait := none }) (s.parkedOn asid page)) (s.copiesOn asid page)
  obtain ⟨ds, hds⟩ := (s.barAccess.unpark asid page).upCtxs_rest (fun c => { c with wait := none }) (s.parkedOn asid page)
  rw [State.retried, hcs, hds]
  exact s.barAccess.isParked_unpark asid page

theorem State.retried_mem (s : State) (asid : Nat) (page : W32) : (s.retried asid page).mem = s.mem := by
  obtain ⟨cs, hcs⟩ := State.unparkCopies_rest
    ((s.barAccess.unpark asid page).upCtxs (fun c => { c with wait := none }) (s.parkedOn asid page)) (s.copiesOn asid page)
  obtain ⟨ds, hds⟩ := (s.barAccess.unpark asid page).upCtxs_rest (fun c => { c with wait := none }) (s.parkedOn asid page)
  rw [State.retried, hcs, hds]
  rfl

theorem State.retried_wait {y : Nat} {asid : Nat} (hy : y ∈ s.parkedOn asid page) : ((s.retried asid page).ctx y).wait = none := by
  obtain ⟨cs, hcs⟩ := State.unparkCopies_rest
    ((s.barAccess.unpark asid page).upCtxs (fun c => { c with wait := none }) (s.parkedOn asid page)) (s.copiesOn asid page)
  rw [State.retried, hcs]
  exact State.ctx_upCtxs_of_mem (f := fun c => { c with wait := none }) (P := fun c => c.wait = none) (fun _ => rfl) _ hy

theorem State.retried_copies {k asid : Nat} {d : Copy} (hd : d ∈ ((s.retried asid page).core k).copies) (hp : d.parked = true)
    (hpage : d.page = page) : s.asidOf d.ctx ≠ asid := by
  obtain ⟨hmem, hes⟩ := State.parked_unparkCopies _ hd hp
  obtain ⟨ds, hds⟩ := (s.barAccess.unpark asid page).upCtxs_rest (fun c => { c with wait := none }) (s.parkedOn asid page)
  rw [hds] at hmem
  exact fun ha => hes (State.mem_copiesOn hmem hp hpage ha)

/-- FAIL of a page on which one access of a context alone is parked, at its own bundle. -/
theorem exec_pfansFail_one {y : Nat} {w : Wait} (h : s.isParked asid page = true) (hy : s.parkedOn asid page = [y])
    (hc : s.copiesOn asid page = []) (hw : (s.ctx y).wait = some w) (hk : w.kind = 11) (hg : (s.ctx y).gmode = 0)
    (hpc : w.tpc = (s.ctx y).pc) :
    exec (.pfansFail asid page) s = .next ((s.barAccess.unpark asid page).takeTrap y ⟨.xlate, w.tpc, w.info, 0⟩).draw := by
  change execPfansFail asid page s = _
  simp only [execPfansFail, show s.barAccess.isParked asid page = true from h, show s.barAccess.parkedOn asid page = [y] from hy,
    show s.barAccess.copiesOn asid page = [] from hc, List.map_nil, List.foldl_nil, List.foldl_cons,
    show ((s.barAccess.unpark asid page).ctx y).wait = some w from hw, hk, show w.tpc = ((s.barAccess.unpark asid page).ctx y).pc from hpc]
  rw [if_neg (by simp), if_neg (by simp), if_pos trivial]
  exact congrArg _ (State.raise_alone hg)

end Sys2Proof.Machine

namespace Sys2Proof.Claims

open Sys2Proof.Machine

/-- Settles O47: each end of a wait re-examines the bundle, and the watchdogs and answers raise what the wait word keeps. -/
theorem waitEndResult : Obligations.WaitEndResult := by
  unfold Obligations.WaitEndResult
  intro s x g asid page
  refine ⟨fun hph => ⟨endsWait_of_exec (exec_phwaitEnd_plain hph) hph, endsWait_of_exec rfl hph, endsWait_of_exec rfl hph,
      endsWait_of_exec rfl hph, endsWait_of_exec rfl hph, endsWait_of_exec rfl hph, endsWait_of_exec rfl hph, endsWait_of_exec rfl hph,
      endsWait_of_exec rfl hph, endsWait_of_exec rfl hph, endsWait_of_exec rfl hph⟩, fun h p pc hph => ⟨exec_phwaitEnd_stopped hph,
      fun halone f hf => phnext_held hph halone hf, fun halone hq hc ob hob => ⟨fun hgt hb => ?_, fun hgt hb => ?_, fun hgt => ?_⟩⟩,
    grantsWait_of_exec rfl, grantsWait_of_exec rfl, ⟨rejnComplete_waits, rejnComplete_grants, rejnComplete_joins⟩,
    ⟨fun hw => ⟨exec_feWatchdog_none hw, exec_waitTimeout_none hw⟩, fun w hw => ⟨fun h => ?_, fun halone hk hl u v hre hv => ?_,
      fun h => ?_, fun halone h3 h11 h13 hl hph => ?_⟩⟩,
    fun h => ⟨exec_pfansRetry_unparked h, exec_pfansFail_unparked h⟩, fun h => ⟨⟨_, exec_pfansRetry_parked h, s.retried_isParked asid page,
      fun y hy => State.retried_wait hy, fun k d hd hp hpage => State.retried_copies hd hp hpage, s.retried_mem asid page⟩,
      fun y w hy hc hw hk hg hpc => exec_pfansFail_one h hy hc hw hk hg hpc⟩⟩
  · exact phnext_waits hph halone hq hc hob (mt (phGt_iff _ _).1 hgt) hb
  · exact phnext_broken hph halone hq hc hob (mt (phGt_iff _ _).1 hgt) hb
  · exact ⟨_, phnext_passes hph halone hq hc hob ((phGt_iff _ _).2 hgt), (s.unwait x).phDone_does x h p⟩
  · exact exec_feWatchdog_idle hw (h.imp_right ((s.ctx x).late_iff w _).1)
  · have hexec := exec_feWatchdog_late halone.1 hw hk (mt ((s.ctx x).late_iff w _).2 (not_not.2 hl)) hre hv
    rwa [State.raise_alone halone.2] at hexec
  · exact exec_waitTimeout_idle hw (h.imp_right (.imp_right (.imp_right ((s.ctx x).late_iff w _).1)))
  · exact ⟨_, exec_waitTimeout_late halone.1 hw h3 h11 h13 (mt ((s.ctx x).late_iff w _).2 (not_not.2 hl)) hph,
      fun o k hh hst => waitTimeout_kills hh hst w.word⟩

end Sys2Proof.Claims
end

section
/-! SUPPORT. A core's turn also compares the signatures of its second context (05 R91, R107). -/

open Sys2Proof.Claims

namespace Sys2Proof.Claims

open Sys2Proof.Machine

/-- A NOP stands at the pc of context 0, which runs alone. Context 1 is free, but it still carries the GMODE of a CHECK pair and the
signature of a bundle, and context 3 the same one. -/
def strandedPair : State := { State.reset with
  ctxs := [(0, { Ctx.init with occ := some ⟨0, 0, .running⟩, fbuf := [⟨0, 0x80000000 :: List.replicate 7 0⟩] }),
    (1, { Ctx.init with gmode := 2, sigs := [⟨0, [], 0, 20⟩] }), (3, { Ctx.init with sigs := [⟨0, [], 0, 20⟩] })] }

/-- The signatures of context 1 that wait for their comparison. -/
def waitingSigs : Host.Outcome State Fault Refusal → List Sig
  | .next t => (t.ctx 1).sigs
  | _ => []

/-- The attempt of a bundle ends in a wait. -/
def endsInWait : Ended → Bool
  | .wait _ _ => true
  | _ => false

theorem strandedPair_turn : TurnOf strandedPair 0 := by unfold TurnOf; decide

theorem strandedPair_atPc : AtPc (strandedPair.tick 0) (strandedPair.tick 0) 0 .nop [0x80000000] 32 :=
  ⟨0x80000000 :: List.replicate 7 0, by rfl, by decide, by decide, by decide, by decide, by decide⟩

theorem strandedPair_ready :
    endsInWait (tryWords (bundleEffs [.nop]) ((strandedPair.tick 0).latch 0 [0x80000000] 32) 0) = false := by decide

/-- The turn makes the comparison of context 1. -/
theorem strandedPair_compared : waitingSigs (step strandedPair) = [] := by decide

/-- The instruction alone leaves it waiting. -/
theorem strandedPair_uncompared :
    waitingSigs (andThen (exec .nop { ((strandedPair.tick 0).latch 0 [0x80000000] 32).settleLoads 0 [.nop] with cur := 0 }) fun t =>
      andThen (second 0 (some [unitOf .nop]) false false (t.deliverResume 0)) fun t =>
        .next (if 0 % 4 = 0 then t.stallTick (0 / 4) else t).passTurn) = [⟨0, [], 0, 20⟩] := by decide

/-- Refutes O56: a core's turn makes the due signature comparisons of both its contexts, so a free context 1 that is left in the GMODE of
a CHECK pair loses its waiting signature, which no part of the stated right-hand side touches. -/
theorem not_stepRunsInstruction : ¬ Obligations.StepRunsInstruction := by
  unfold Obligations.StepRunsInstruction
  rintro ⟨h, -, -, -⟩
  have hready : ∀ t w, tryWords (bundleEffs [.nop]) ((strandedPair.tick 0).latch 0 [0x80000000] 32) 0 ≠ .wait t w :=
    fun _ _ hwait => Bool.false_ne_true (strandedPair_ready.symm.trans (congrArg endsInWait hwait))
  have hstep := congrArg waitingSigs (h strandedPair 0 .nop [0x80000000] 32 (strandedPair.tick 0) strandedPair_turn (by decide) (by decide)
    strandedPair_atPc (by decide) hready)
  exact absurd (strandedPair_compared.symm.trans (hstep.trans strandedPair_uncompared)) (by decide)

end Sys2Proof.Claims
end

section
/-! SUPPORT. Words whose one effect is a scalar register or a mask written at once, outside what belongs to the issue of the bundle
(05 R94, R95, R97). -/

open Sys2Proof.Claims

namespace Sys2Proof.Machine

/-- Writing a scalar register touches the registers and the results in flight only. -/
theorem Ctx.putS_eq (c : Ctx) (d : Fin 32) (x : W64) : c.putS d x =
    { c with s := (c.putS d x).s, flight := if d = 0 then c.flight else c.flight.map fun f => f.cut (.s d x) 1 } := by
  unfold Ctx.putS
  split <;> rfl

theorem Ctx.rd_congr {c d : Ctx} (h : c.s = d.s) (n : Fin 32) : c.rd n = d.rd n := by
  unfold Ctx.rd
  rw [h]

/-- A scalar result of bound 1 leaves the word in place. -/
theorem Out.inPlace_wS (s : State) (d : Fin 32) (x : W64) : (s.out0.wS d x).InPlace s :=
  ⟨rfl, rfl, Ctx.putS_rsdctr _ _ _, Ctx.putS_pc _ _ _, Ctx.putS_loops _ _ _, Ctx.putS_bsucc _ _ _⟩

theorem Out.inPlace_wM (s : State) (m : Mask) (x : W64) : (s.out0.wM m x).InPlace s := by
  cases m <;> exact ⟨rfl, rfl, rfl, rfl, rfl, rfl⟩

variable {e : Eff} {i : Instr} {s : State}

/-- A word whose one effect is a scalar result of bound 1. -/
theorem writesScalar_of_eff {d : Fin 32} {v : W64} (hi : exec i s = issueWords [e] s) (h : e (s.iss s.cur) s.out0 = .ok (s.out0.wS d v)) :
    WritesScalar i s d v := by
  obtain ⟨t, ht, hgo, honly, hme⟩ := leavesMe_of_eff hi h rfl (Out.inPlace_wS s d v) rfl
  have hs : t.me.s = (s.me.putS d v).s := by rw [hme]; rfl
  refine ⟨t, ht, fun n => (Ctx.rd_congr hs n).trans (Ctx.rd_putS _ _ _ _), hgo, honly, ?_⟩
  have hput := s.me.putS_eq d v
  rw [← hs] at hput
  exact hme.trans (congrArg (Ctx.issued · t.me) hput)

/-- A word whose one effect is a mask written at once. -/
theorem writesMask_of_eff {m : Mask} {v : W64} (hi : exec i s = issueWords [e] s) (h : e (s.iss s.cur) s.out0 = .ok (s.out0.wM m v)) :
    WritesMask i s m v := by
  obtain ⟨t, ht, hgo, honly, hme⟩ := leavesMe_of_eff hi h (by cases m <;> rfl) (Out.inPlace_wM s m v) (by cases m <;> rfl)
  cases m
  case em => exact ⟨t, ht, congrArg Ctx.em hme, hgo, honly, hme⟩
  case cm => exact ⟨t, ht, congrArg Ctx.cm hme, hgo, honly, hme⟩

end Sys2Proof.Machine
end

section
/-! SUPPORT. Two-source scalar members and multiplies (06 R113, R114). -/

open Sys2Proof.Machine

namespace Sys2Proof.Claims

variable {s : State} {i : Instr} {d a b : Fin 32}

theorem w64b_decide (p : Prop) [Decidable p] : w64b (decide p) = if p then 1 else 0 := by
  unfold w64b b2n
  split <;> simp [*]

section
variable (ha : Still s a)
include ha

/-- A one-source member writes `f` of its source. -/
theorem writesScalar_scal1 (f : W64 → W64) {v : W64} (hi : exec i s = issueWords [scal1 f d a] s) (hv : f (s.me.rd a) = v) :
    WritesScalar i s d v :=
  writesScalar_of_eff hi (by rw [scal1, ha.rS, hv])

variable (hb : Still s b)
include hb

/-- A two-source member of bound 1 writes `f` of its sources. -/
theorem writesScalar_scal2 (f : W64 → W64 → W64) {v : W64} (hi : exec i s = issueWords [scal2 f d a b] s)
    (hv : f (s.me.rd a) (s.me.rd b) = v) : WritesScalar i s d v :=
  writesScalar_of_eff hi (by rw [scal2, ha.rS, hb.rS, hv])

/-- A two-source member of bound 4 has `f` of its sources in flight. -/
theorem launchesScalar_scalMul (f : W64 → W64 → W64) {v : W64} (hi : exec i s = issueWords [scalMul f d a b] s)
    (hv : f (s.me.rd a) (s.me.rd b) = v) : LaunchesScalar i s d v 4 :=
  launchesScalar_of_eff hi (by rw [scalMul, ha.rS, hb.rS, hv])

end

/-- Equal values are the greater of the two, whichever is taken. -/
theorem greater_toInt_eq (x y : W64) : (if x.toInt ≤ y.toInt then y else x) = if y.toInt ≤ x.toInt then x else y := by
  split
  · split
    · exact BitVec.eq_of_toInt_eq (by omega)
    · rfl
  · rw [if_pos (by omega)]

theorem greater_toNat_eq (x y : W64) : (if x.toNat ≤ y.toNat then y else x) = if y.toNat ≤ x.toNat then x else y := by
  split
  · split
    · exact BitVec.eq_of_toNat_eq (by omega)
    · rfl
  · rw [if_pos (by omega)]

theorem scalarAlu_holds : scalarAlu := by
  intro s d a b ha hb
  have two := fun {i} f {v} => writesScalar_scal2 (i := i) (d := d) (v := v) ha hb f
  exact ⟨two (· + ·) rfl rfl, two (· - ·) rfl rfl, two (· &&& ·) rfl rfl, two (· ||| ·) rfl rfl, two (· ^^^ ·) rfl rfl,
    two (fun x y => x <<< shAmt y) rfl rfl, two (fun x y => x >>> shAmt y) rfl rfl, two (fun x y => x.sshiftRight (shAmt y)) rfl rfl,
    two (fun x y => if x.toInt ≤ y.toInt then x else y) rfl rfl,
    two (fun x y => if x.toInt ≤ y.toInt then y else x) rfl (greater_toInt_eq _ _),
    two (fun x y => if x.toNat ≤ y.toNat then x else y) rfl rfl,
    two (fun x y => if x.toNat ≤ y.toNat then y else x) rfl (greater_toNat_eq _ _),
    two (fun x y => w64b (x == y)) rfl (w64b_decide _), two (fun x y => w64b (decide (x.toInt < y.toInt))) rfl (w64b_decide _),
    two (fun x y => w64b (decide (x.toNat < y.toNat))) rfl (w64b_decide _),
    two (fun x y => ((x + y).setWidth 32).signExtend 64) rfl (congrArg _ (BitVec.setWidth_eq_extractLsb' (by decide)))⟩

theorem scalarMultiply_holds : scalarMultiply := by
  intro s d a b ha hb
  have two := fun {i} f {v} => launchesScalar_scalMul (i := i) (d := d) (v := v) ha hb f
  exact ⟨two (· * ·) rfl (BitVec.mul_def ..), two (fun x y => BitVec.ofInt 64 (x.toInt * y.toInt / 2 ^ 64)) rfl rfl,
    two (fun x y => BitVec.ofNat 64 (x.toNat * y.toNat / 2 ^ 64)) rfl rfl⟩

/-- Settles O1: each member is its function of two sources that are read, written at once or in flight with bound 4. -/
theorem scalarAluResult : Obligations.ScalarAluResult := ⟨scalarAlu_holds, scalarMultiply_holds⟩

end Sys2Proof.Claims
end

section
/-! SUPPORT. Counts of bits, and the bit field that INSR puts in (06 R113, R116). -/

namespace Sys2Proof.Machine

/-- Adding up bits counts those that are set. -/
theorem foldl_b2n_eq_countP (f : Nat → Bool) (l : List Nat) (n : Nat) : l.foldl (fun a i => a + b2n (f i)) n = n + l.countP f := by
  induction l generalizing n with
  | nil => rfl
  | cons i l ih =>
    rw [List.foldl_cons, ih, List.countP_cons, b2n, Nat.add_assoc, Nat.add_comm (l.countP f), Bool.cond_eq_ite]

theorem popCount_eq_countP {w : Nat} (x : BitVec w) : popCount x = (List.range w).countP fun k => x.getLsbD k :=
  (foldl_b2n_eq_countP _ _ 0).trans (Nat.zero_add _)

/-- What the search of `leadZeros` has found in the low `n` bits: no bit set, or the highest one. -/
theorem leadZeros_foldl {w : Nat} (x : BitVec w) (n : Nat) :
    let r := (List.range n).foldl (fun a i => if x.getLsbD i then w - 1 - i else a) w
    (r = w ∧ ∀ j, j < n → x.getLsbD j = false) ∨
      ∃ i, i < n ∧ r = w - 1 - i ∧ x.getLsbD i = true ∧ ∀ j, i < j → j < n → x.getLsbD j = false := by
  induction n with
  | zero => exact .inl ⟨rfl, fun j hj => absurd hj (Nat.not_lt_zero j)⟩
  | succ n ih =>
    simp only [List.range_succ, List.foldl_append, List.foldl_cons, List.foldl_nil]
    cases hbit : x.getLsbD n with
    | true => exact .inr ⟨n, Nat.lt_succ_self n, if_pos rfl, hbit, fun j h1 h2 => by omega⟩
    | false =>
      have hlast : ∀ j, j < n + 1 → (j < n → x.getLsbD j = false) → x.getLsbD j = false := fun j hj h =>
        (Nat.lt_succ_iff_lt_or_eq.1 hj).elim h fun e => e ▸ hbit
      rw [if_neg Bool.false_ne_true]
      obtain ⟨hr, hz⟩ | ⟨i, hi, hr, hset, hz⟩ := ih
      · exact .inl ⟨hr, fun j hj => hlast j hj (hz j)⟩
      · exact .inr ⟨i, by omega, hr, hset, fun j hij hj => hlast j hj (hz j hij)⟩

/-- `leadZeros` is the number of the highest set bit, counted from the top. -/
theorem leadZeros_spec {w : Nat} (x : BitVec w) :
    leadZeros x ≤ w ∧ (leadZeros x < w → x.getMsbD (leadZeros x) = true) ∧ ∀ k, k < leadZeros x → x.getMsbD k = false := by
  obtain ⟨hr, hz⟩ | ⟨i, hi, hr, hset, hz⟩ := leadZeros_foldl x w
  · have hr : leadZeros x = w := hr
    rw [hr]
    refine ⟨Nat.le_refl w, fun h => absurd h (Nat.lt_irrefl w), fun k hk => ?_⟩
    rw [BitVec.getMsbD, hz _ (by omega), Bool.and_false]
  · have hr : leadZeros x = w - 1 - i := hr
    rw [hr]
    refine ⟨by omega, fun _ => ?_, fun k hk => ?_⟩
    · rw [BitVec.getMsbD, show w - 1 - (w - 1 - i) = i by omega, hset, Bool.and_true, decide_eq_true_eq]
      omega
    · rw [BitVec.getMsbD, hz _ (by omega) (by omega), Bool.and_false]

/-- The low `n` bits of `x` in place of those of `y` from bit `pos` on. -/
theorem getLsbD_insertField (x y : W64) (pos n k : Nat) (hk : k < 64) :
    ((y &&& ~~~(BitVec.ofNat 64 ((2 ^ n - 1) * 2 ^ pos))) |||
      (BitVec.ofNat 64 (bf x 0 n * 2 ^ pos) &&& BitVec.ofNat 64 ((2 ^ n - 1) * 2 ^ pos))).getLsbD k =
      if pos ≤ k ∧ k < pos + n then x.getLsbD (k - pos) else y.getLsbD k := by
  have hmask : ((2 ^ n - 1) * 2 ^ pos).testBit k = decide (pos ≤ k ∧ k < pos + n) := by
    rw [Nat.testBit_mul_two_pow, Nat.testBit_two_pow_sub_one, ← Bool.decide_and, decide_eq_decide]
    omega
  have hfield : (bf x 0 n * 2 ^ pos).testBit k = (decide (pos ≤ k ∧ k < pos + n) && x.getLsbD (k - pos)) := by
    rw [bf, Nat.pow_zero, Nat.div_one, Nat.testBit_mul_two_pow, Nat.testBit_mod_two_pow, BitVec.testBit_toNat, ← Bool.and_assoc,
      ← Bool.decide_and]
    congr 1
    rw [decide_eq_decide]
    omega
  simp only [BitVec.getLsbD_or, BitVec.getLsbD_and, BitVec.getLsbD_not, BitVec.getLsbD_ofNat, hmask, hfield, hk, decide_true, Bool.true_and]
  split
  · simp [*]
  · simp [*]

end Sys2Proof.Machine
end

section
/-! SUPPORT. Select, counts, bit fields and the immediate forms (06 R113, R115 to R117). -/

open Sys2Proof.Machine

namespace Sys2Proof.Claims

variable {s : State} {d a b c : Fin 32}

theorem sel_writes (ha : Still s a) (hb : Still s b) (hc : Still s c) :
    WritesScalar (.sel d a b c) s d (if s.me.rd c = 0 then s.me.rd b else s.me.rd a) := by
  refine writesScalar_of_eff (e := effSel d a b c) rfl ?_
  simp only [effSel, ha.rS, hb.rS, hc.rS, bne_iff_ne, ite_not, ne_eq]

theorem clz_writes (ha : Still s a) : ∃ r : Nat, WritesScalar (.clz d a) s d (BitVec.ofNat 64 r) ∧ r ≤ 64 ∧
    (r < 64 → (s.me.rd a).getMsbD r = true) ∧ ∀ k, k < r → (s.me.rd a).getMsbD k = false :=
  ⟨_, writesScalar_scal1 ha (fun x => BitVec.ofNat 64 (leadZeros x)) rfl rfl, leadZeros_spec _⟩

theorem insr_writes (pos len1 : Fin 64) (ha : Still s a) (hd : Still s d) : ∃ v : W64, WritesScalar (.insr d a pos len1) s d v ∧
    ∀ k, k < 64 → v.getLsbD k =
      if pos.val ≤ k ∧ k ≤ pos.val + len1.val then (s.me.rd a).getLsbD (k - pos.val) else (s.me.rd d).getLsbD k := by
  refine ⟨_, writesScalar_of_eff (e := effInsr d a pos len1) rfl (by rw [effInsr, ha.rS, hd.rS]), fun k hk => ?_⟩
  rw [getLsbD_insertField _ _ _ _ _ hk]
  simp only [← Nat.add_assoc, Nat.lt_succ_iff]

theorem scalarField_holds : scalarField := fun _ _ _ _ _ pos len1 ha hb hc hd _ =>
  ⟨sel_writes ha hb hc, clz_writes ha,
    writesScalar_scal1 ha (fun x => BitVec.ofNat 64 (popCount x)) rfl (congrArg _ (popCount_eq_countP _)),
    writesScalar_scal1 ha (fun x => BitVec.ofNat 64 (bf x pos (len1.val + 1))) rfl rfl, insr_writes pos len1 ha hd⟩

theorem scalarImmediate_holds : scalarImmediate := by
  intro s d a i ha
  have one := fun {j} f {v} => writesScalar_scal1 (i := j) (d := d) (v := v) ha f
  exact ⟨one (· + w64 i) rfl rfl, one (· &&& w64 i) rfl rfl, one (· ||| w64 i) rfl rfl, one (· ^^^ w64 i) rfl rfl,
    fun n _ => ⟨one (· <<< n) rfl rfl, one (· >>> n) rfl rfl, one (·.sshiftRight n) rfl rfl⟩,
    one (fun x => w64b (decide (x.toInt < i))) rfl (w64b_decide _), writesScalar_of_eff (e := effLui d i) rfl rfl⟩

/-- Settles O2: each value is the member's function of its sources; the counts and the inserted field go by the bits they look at. -/
theorem scalarFieldResult : Obligations.ScalarFieldResult := ⟨scalarField_holds, scalarImmediate_holds⟩

end Sys2Proof.Claims
end

section
/-! SUPPORT. The mask members (06 R127). -/

open Sys2Proof.Machine

namespace Sys2Proof.Claims

variable {s : State}

/-- With no compare in flight CM is read as it stands (08 R164). -/
theorem NoCompare.cm (h : NoCompare s) : (s.iss s.cur).cm = s.me.cm := by
  unfold Iss.cm
  refine List.foldlRecOn (motive := (· = s.me.cm)) _ _ rfl fun m hm e he => ?_
  split
  case h_1 y hy => exact absurd hy (h e.1 (List.fst_mem_of_mem_zipIdx he) y)
  case h_2 => exact hm

theorem NoCompare.mask (h : NoCompare s) (m : Mask) : (s.iss s.cur).mask m = s.me.mask m := by
  cases m
  case em => rfl
  case cm => exact h.cm

/-- MSET's mask has the bits below its source's value. -/
theorem msetVal_getLsbD (x : W64) {k : Nat} (hk : k < 64) : (msetVal x).getLsbD k = true ↔ (k : Int) < x.toInt := by
  rw [msetVal, BitVec.getLsbD_ofNat, Nat.testBit_two_pow_sub_one, ← Bool.decide_and, decide_eq_true_eq]
  omega

/-- Settles O3: each member writes its function of the masks and the register, which are read as they stand. -/
theorem maskResult : Obligations.MaskResult := by
  intro s d a m ha hcm
  have hm := hcm.mask m
  have hother : (s.iss s.cur).maskY m .other = s.me.mask (Mask.other m) := hcm.mask _
  have hreg : (s.iss s.cur).maskY m (.reg a) = s.me.rd a := ha.rS
  exact ⟨writesScalar_of_eff (e := effMsave d m) rfl (by rw [effMsave, hm]),
    writesMask_of_eff (e := effMrest m a) rfl (by rw [effMrest, ha.rS]),
    writesMask_of_eff (e := effMand m .other) rfl (by rw [effMand, hm, hother]; rfl),
    writesMask_of_eff (e := effMand m (.reg a)) rfl (by rw [effMand, hm, hreg]),
    writesMask_of_eff (e := effMor m .other) rfl (by rw [effMor, hm, hother]; rfl),
    writesMask_of_eff (e := effMor m (.reg a)) rfl (by rw [effMor, hm, hreg]),
    writesMask_of_eff (e := effMandn m .other) rfl (by rw [effMandn, hm, hother]; rfl),
    writesMask_of_eff (e := effMandn m (.reg a)) rfl (by rw [effMandn, hm, hreg]),
    ⟨_, writesMask_of_eff (e := effMset m a) rfl (by rw [effMset, ha.rS]), fun k => msetVal_getLsbD _⟩,
    writesMask_of_eff (e := effMcmv m) rfl (by rw [effMcmv, hcm.mask]; rfl),
    writesScalar_of_eff (e := effMpopc d m) rfl (by rw [effMpopc, hm, popCount_eq_countP])⟩

end Sys2Proof.Claims
end

section
/-! SUPPORT. WRSR, by the register that it writes (05 R103; 06 R128, R129; 07 R148). -/

open Sys2Proof.Claims

namespace Sys2Proof.Machine

/-- What a word has built is sealed with the RSDCTR that its tags or its WRSR leave (06 R129; 07 R150). -/
theorem Out.sealed_issuedAs (s : State) (o : Out) (at_ : Bool) :
    ({ o.c with rsdctr := rsdAfter (s.iss s.cur) o } : Ctx).IssuedAs (o.sealed s at_) := by
  unfold Ctx.IssuedAs Out.sealed Ctx.sign
  split <;> rfl

/-- A word that leaves the place of its bundle and the state outside its context alone: RSDCTR becomes what the word makes of it. -/
theorem leavesMe_rsdAfter {e : Eff} {i : Instr} {s : State} {o : Out} (hi : exec i s = issueWords [e] s)
    (h : e (s.iss s.cur) s.out0 = .ok o) (hn : o.next = .seq) (hpc : o.c.pc = s.me.pc) (hl : o.c.loops = s.me.loops)
    (hb : o.c.bsucc = s.me.bsucc) (hs : o.s = s) : LeavesMe i s { o.c with rsdctr := rsdAfter (s.iss s.cur) o } := by
  have hme : ∀ c : Ctx, (s.setCtx s.cur c).draw.me = c := fun c => State.ctx_setCtx_self _ _ _
  have ht := issueWords_seq h hn
  obtain ⟨hpc', hl', hb', -, -⟩ := o.sealed_place s (o.c.atEnd s.me.pc)
  rw [hs] at ht
  refine ⟨_, hi.trans ht, ?_, s.onlyMe_setCtx _, ?_⟩
  · rw [GoesOn, hme]
    exact Ctx.endSeq_place (hpc'.trans hpc) (hl'.trans hl) (hb'.trans hb)
  · rw [hme]
    exact (o.sealed_issuedAs s _).endSeq

/-- WRSR leaves RSDCTR and the place of the bundle alone: RSDCTR is set once the bundle's tags have been taken. -/
theorem Ctx.srWrite_place (c : Ctx) (r : Nat) (x : W64) :
    (c.srWrite r x).rsdctr = c.rsdctr ∧ (c.srWrite r x).pc = c.pc ∧ (c.srWrite r x).loops = c.loops ∧
      (c.srWrite r x).bsucc = c.bsucc := by
  unfold Ctx.srWrite
  split <;> exact ⟨rfl, rfl, rfl, rfl⟩

theorem rmodeOf_eq (x : W64) : rmodeOf x = if x.toNat % 8 < 5 then x.setWidth 3 else 0 := by
  unfold rmodeOf bf
  split
  · rw [if_neg (by omega)]
  · rw [if_pos (by omega)]

/-- The two low bits of TVEC read zero (05 R103). -/
theorem setWidth_and_not_three (x : W64) : x.setWidth 48 &&& ~~~3 = BitVec.ofNat 48 (x.toNat / 4 * 4) := by
  refine BitVec.eq_of_getLsbD_eq fun k hk => ?_
  have hlow : (3 : Addr).getLsbD k = decide (k < 2) := by
    refine (BitVec.getLsbD_ofNat 48 3 k).trans ?_
    rw [decide_eq_true hk, Bool.true_and]
    exact Nat.testBit_two_pow_sub_one 2 k
  have hhigh : (x.toNat / 4 * 4).testBit k = (decide (2 ≤ k) && x.getLsbD k) := by
    rw [show x.toNat / 4 * 4 = x.toNat / 2 ^ 2 * 2 ^ 2 from rfl, Nat.testBit_mul_two_pow, Nat.testBit_div_two_pow, BitVec.testBit_toNat]
    by_cases h : 2 ≤ k
    · rw [Nat.sub_add_cancel h]
    · rw [decide_eq_false h, Bool.false_and, Bool.false_and]
  rw [BitVec.getLsbD_and, BitVec.getLsbD_not, BitVec.getLsbD_setWidth, BitVec.getLsbD_ofNat, hlow, hhigh, decide_eq_true hk]
  simp only [Bool.true_and, ← decide_not, Nat.not_lt]
  exact Bool.and_comm _ _

theorem pslackOf_eq (x : W64) : pslackOf x = BitVec.ofNat 15 (min x.toNat 16384) := by
  unfold pslackOf
  split
  · rw [Nat.min_eq_right (by omega)]; rfl
  · rw [Nat.min_eq_left (by omega), BitVec.ofNat_toNat]

end Sys2Proof.Machine

namespace Sys2Proof.Claims

open Sys2Proof.Machine

variable {s : State} {a : Fin 32}

/-- A register other than RSDCTR. -/
theorem wrsr_stores (ha : Still s a) (r : Fin 4096) (hr : r.val ≠ 0x013) {c : Ctx} (hc : s.me.srWrite r (s.me.rd a) = c) :
    LeavesMe (.wrsr r a) s c := by
  obtain ⟨hrsd, hpc, hloops, hsucc⟩ := s.me.srWrite_place r (s.me.rd a)
  rw [← hc]
  refine leavesMe_of_eff (e := effWrsr r a)
    (o := { s.out0 with c := s.me.srWrite r (s.me.rd a), sig := [] ++ sigR r (s.me.rd a) }) rfl ?_ rfl
    ⟨rfl, rfl, hrsd, hpc, hloops, hsucc⟩ rfl
  simp only [effWrsr, ha.rS, if_neg hr]
  rfl

/-- RSDCTR takes the value after the tags of the bundle (06 R129). -/
theorem wrsr_rsdctr (ha : Still s a) : LeavesMe (.wrsr 0x013 a) s { s.me with rsdctr := (s.me.rd a).setWidth 32 } := by
  refine leavesMe_rsdAfter (e := effWrsr 0x013 a)
    (o := { s.out0 with sig := [] ++ sigR 0x013 (s.me.rd a), wrRsd := some ((s.me.rd a).setWidth 32) }) rfl ?_ rfl rfl rfl rfl rfl
  simp only [effWrsr, ha.rS]
  rfl

/-- Settles O4: each register stores what its treatment leaves of the written value. -/
theorem specialRegisterWriteResult : Obligations.SpecialRegisterWriteResult := by
  intro s a ha
  have stores := fun (r : Fin 4096) hr {c} => wrsr_stores ha r hr (c := c)
  refine ⟨stores 0x010 (by decide) rfl, stores 0x011 (by decide) ?_, stores 0x012 (by decide) rfl, wrsr_rsdctr ha,
    stores 0x040 (by decide) ?_, stores 0x042 (by decide) rfl, stores 0x060 (by decide) ?_, stores 0x0A0 (by decide) rfl,
    stores 0x0A1 (by decide) rfl⟩
  · rw [← rmodeOf_eq]; rfl
  · rw [← setWidth_and_not_three]; rfl
  · rw [← pslackOf_eq]; rfl

end Sys2Proof.Claims
end

section
/-! SUPPORT. EndOf, by the innermost entry of the loop stack (06 R121). -/

namespace Sys2Proof.Machine

/-- No loop, or one whose END is elsewhere. -/
theorem endOf_elsewhere {a : Addr} {ls : List LoopEnt} (h : ∀ l ∈ ls.head?, l.fin ≠ a) : endOf a ls = (ls, none) := by
  cases ls with
  | nil => rfl
  | cons l ls => exact if_neg (h l rfl)

/-- The last time through the innermost loop. -/
theorem endOf_last {a : Addr} {l : LoopEnt} (ls : List LoopEnt) (hfin : l.fin = a) (hcount : l.count.toNat ≤ 1) :
    endOf a (l :: ls) = endOf a ls := by
  rw [endOf, if_pos hfin, if_neg (Nat.not_lt.2 hcount)]

theorem endOf_again {a : Addr} {l : LoopEnt} (ls : List LoopEnt) (hfin : l.fin = a) (hcount : 1 < l.count.toNat) :
    endOf a (l :: ls) = ({ l with count := l.count - 1 } :: ls, some l.first) := by
  rw [endOf, if_pos hfin, if_pos hcount]

theorem Ctx.endSeq_elsewhere {c : Ctx} (h : ∀ l ∈ c.loops.head?, l.fin ≠ c.pc) : c.endSeq = { c with pc := c.bsucc } := by
  unfold Ctx.endSeq
  rw [endOf_elsewhere h]

variable {c : Ctx} {l : LoopEnt} {ls : List LoopEnt} (hloops : c.loops = l :: ls) (hfin : l.fin = c.pc)
include hloops hfin

theorem Ctx.endSeq_last (hcount : l.count.toNat ≤ 1) : c.endSeq = { c with loops := ls }.endSeq := by
  unfold Ctx.endSeq
  rw [hloops, endOf_last ls hfin hcount]

theorem Ctx.endSeq_again (hcount : 1 < l.count.toNat) :
    c.endSeq = { c with loops := { l with count := l.count - 1 } :: ls }.goto l.first := by
  unfold Ctx.endSeq
  rw [hloops, endOf_again ls hfin hcount]

end Sys2Proof.Machine

namespace Sys2Proof.Claims

open Sys2Proof.Machine

/-- Settles O9: EndOf goes by the innermost entry. -/
theorem endOfProcedure : Obligations.EndOfProcedure := by
  intro c
  refine ⟨fun h => Ctx.endSeq_elsewhere (by simp [h]), fun l ls hloops => ⟨fun h => Ctx.endSeq_elsewhere (by simpa [hloops] using h),
    Ctx.endSeq_last hloops, fun hfin hcount => ?_⟩⟩
  rw [Ctx.endSeq_again hloops hfin hcount]
  exact ⟨rfl, rfl, rfl⟩

end Sys2Proof.Claims
end

section
/-! SUPPORT. What the issue of a loop word comes to: a pushed entry, or a skip to an END (04 R69; 06 R121 to R123). -/

open Sys2Proof.Claims

namespace Sys2Proof.Machine

/-- What a word has built that leaves the loop stack as `ls`. -/
def State.outLoops (s : State) (ls : List LoopEnt) (n : Next) : Out := { s.out0 with c := { s.me with loops := ls }, next := n }

/-- Of the context such a word changes the place only. -/
theorem State.outLoops_sealed (s : State) (ls : List LoopEnt) (n : Next) (at_ : Bool) : s.me.IssuedAs ((s.outLoops ls n).sealed s at_) := by
  have hrsd : rsdAfter (s.iss s.cur) (s.outLoops ls n) = s.me.rsdctr := BitVec.add_zero _
  have h := (s.outLoops ls n).sealed_issuedAs s at_
  rw [hrsd] at h
  exact h

theorem Ctx.IssuedAs.moved {c d : Ctx} (h : c.IssuedAs d) (pc : Addr) (fb : List Packet) : c.IssuedAs { d with pc := pc, fbuf := fb } := by
  unfold Ctx.IssuedAs at *
  rw [h]
  rfl

variable {e : Eff} {i : Instr} {s : State}

/-- A word that pushes the entry `l`. -/
theorem pushes_of_eff {l : LoopEnt} (hi : exec i s = issueWords [e] s)
    (h : e (s.iss s.cur) s.out0 = .ok (s.outLoops (l :: s.me.loops) .fall)) :
    ∃ t, exec i s = .next t ∧ OnlyMe s t ∧ t.me.pc = s.me.bsucc ∧ t.me.loops = l :: s.me.loops ∧ t.me = s.me.issued t.me := by
  let o := s.outLoops (l :: s.me.loops) .fall
  obtain ⟨-, hloops, hsucc, -, -⟩ := o.sealed_place s (o.c.atEnd s.me.pc)
  obtain ⟨d, hd, hpc, hl, ht⟩ : ∃ d, s.me.IssuedAs d ∧ d.pc = s.me.bsucc ∧ d.loops = l :: s.me.loops ∧
      exec i s = .next (s.setCtx s.cur d).draw :=
    ⟨_, (s.outLoops_sealed _ _ _).moved _ _, hsucc, hloops, hi.trans (issueWords_fall h rfl)⟩
  have hme : (s.setCtx s.cur d).draw.me = d := State.ctx_setCtx_self _ _ _
  exact ⟨_, ht, s.onlyMe_setCtx d, hme.symm ▸ hpc, hme.symm ▸ hl, hme.symm ▸ hd⟩

/-! ## Skips -/

/-- How a skip to the END at `l` ends, by what is found there. -/
def skipEnd (s : State) (l : Addr) : State × Fetched (Except W32 Nat) → Ended
  | (t, .ok (.ok n)) => .done (t.upCtx s.cur fun c => c.goto (BitVec.ofNat 48 n))
  | (_, .ok (.error w)) => .trap ⟨.illegalEnc, l, encInfo 0 .frame w.toNat, 0⟩
  | (t, .fault f) => if f = xNomap && t.hostPf then s.parkFetch s.cur l.toNat else .trap ⟨f.cause, l, l.setWidth 64, 0⟩
  | (_, .poison u) => .trap ⟨.poison, l, s.poisonInfo s.cur, u⟩

/-- The end of a bundle that skips to an END which no enclosing loop shares. -/
theorem finish_endAt {s : State} {o : Out} {l : Addr} (hn : o.next = .endAt l) (hl : ∀ e ∈ o.c.loops.head?, e.fin ≠ l) :
    finish (s.iss s.cur) o = skipEnd s l ((o.s.setCtx s.cur (o.sealed s (o.c.atEnd l))).succOf s.cur l.toNat) := by
  let c := o.c.sign o.sig (o.c.lastLanding (s.ctx s.cur).flight.length)
  have hend : endOf l c.loops = (c.loops, none) := endOf_elsewhere (by rw [Ctx.sign_loops]; exact hl)
  simp only [finish, hn, State.iss, Out.sealed, hend, c]
  rfl

theorem issueWords_eq_finish {o : Out} (h : e (s.iss s.cur) s.out0 = .ok o) :
    issueWords [e] s = (finish (s.iss s.cur) o).outcome s s.cur := by
  simp only [issueWords, tryWords, runEffs]
  unfold State.out0 at h
  simp only [State.iss] at h ⊢
  rw [h]

theorem issueWords_endAt {ls : List LoopEnt} {l : Addr} (hi : exec i s = issueWords [e] s)
    (h : e (s.iss s.cur) s.out0 = .ok (s.outLoops ls (.endAt l))) (hl : ∀ o ∈ ls.head?, o.fin ≠ l) :
    ∃ c, s.me.IssuedAs c ∧ c.loops = ls ∧ c.occ = s.me.occ ∧ c.fbuf = s.me.fbuf ∧
      exec i s = (skipEnd s l ((s.setCtx s.cur c).succOf s.cur l.toNat)).outcome s s.cur := by
  let o := s.outLoops ls (.endAt l)
  obtain ⟨-, hloops, -, hfbuf, hocc⟩ := o.sealed_place s (o.c.atEnd l)
  refine ⟨_, s.outLoops_sealed _ _ _, hloops, hocc, hfbuf, hi.trans ?_⟩
  rw [issueWords_eq_finish h, finish_endAt rfl hl]
  rfl

/-- The bundle at `a`, as the context `c` finds it. -/
theorem State.succOf_setCtx (s : State) (c : Ctx) (a : Nat) (hocc : c.occ = s.me.occ) :
    ∃ u d, Fetches s u ∧ d = { c with fbuf := d.fbuf } ∧ (s.setCtx s.cur c).succOf s.cur a = (u.setCtx s.cur d,
      match fetchedAt s c.fbuf a with
      | .ok ws => .ok (if bBit (ws.getD (a % 32 / 4) 0) then
          .ok (successor ws (a / 32 * 32) (a % 32 / 4) (frameAt ws (a % 32 / 4)).length) else .error (ws.getD (a % 32 / 4) 0))
      | .fault f => .fault f
      | .poison n => .poison n) := by
  have hf := s.fetchPacket_fetches s.cur (a / 32 * 32)
  unfold State.succOf
  rw [State.packet_setCtx _ _ _ _ hocc, fetchedAt_eq]
  cases bufFind c.fbuf (a / 32 * 32) with
  | some ws => exact ⟨s, c, .refl s, rfl, rfl⟩
  | none =>
    rcases hfetch : s.fetchPacket s.cur (a / 32 * 32) with ⟨u, _ | _ | _⟩ <;> rw [hfetch] at hf <;> exact ⟨u, _, hf, rfl, rfl⟩

/-- Only the executing context changes further. -/
theorem OnlyFetch.upCtx {s t : State} (h : OnlyFetch s t) (f : Ctx → Ctx) : OnlyFetch s (t.upCtx s.cur f) := by
  obtain ⟨hrest, hctx, hcore, hbyte⟩ := h
  refine ⟨?_, fun y hy => ?_, hcore, hbyte⟩
  · exact congrArg (fun u : State => ({ u with ctxs := (t.upCtx s.cur f).ctxs } : State)) hrest
  · rw [State.ctx_upCtx_of_ne _ _ hy, hctx y hy]

end Sys2Proof.Machine

namespace Sys2Proof.Claims

open Sys2Proof.Machine

/-- `i` leaves the loop stack as `ls` and goes on behind the bundle at `l`; what keeps that bundle from being framed is raised there
(06 R121 to R123). -/
def SkipsTo (i : Instr) (s : State) (ls : List LoopEnt) (l : Addr) : Prop :=
  (∀ p, Follows s l p → ∃ t, exec i s = .next t ∧ OnlyFetch s t ∧ t.me.pc = p ∧ t.me.loops = ls ∧ t.me = s.me.issued t.me) ∧
  match fetchedAt s s.me.fbuf l.toNat with
  | .ok ws =>
    bBit (ws.getD (l.toNat % 32 / 4) 0) = false →
      TrapsAt i s l .illegalEnc (encInfo 0 .frame (ws.getD (l.toNat % 32 / 4) 0).toNat) 0
  | .fault f =>
    if f = xNomap ∧ s.hostPf = true then ParksAt i s l.toNat l (TrapsAt i s l .xlate (l.setWidth 64) 0)
    else TrapsAt i s l f.cause (l.setWidth 64) 0
  | .poison u => ∃ w, TrapsAt i s l .poison w u

/-- A fetch at the END that fails waits for the host, or its cause is raised there. -/
theorem skip_fault {i : Instr} {s t : State} {l : Addr} {f : XFault} (hhost : t.hostPf = s.hostPf)
    (hexec : exec i s = (skipEnd s l (t, .fault f)).outcome s s.cur) :
    if f = xNomap ∧ s.hostPf = true then ParksAt i s l.toNat l (TrapsAt i s l .xlate (l.setWidth 64) 0)
    else TrapsAt i s l f.cause (l.setWidth 64) 0 := by
  have h48 : BitVec.ofNat 48 l.toNat = l := (BitVec.ofNat_toNat 48 l).trans (BitVec.setWidth_eq l)
  have h64 : BitVec.ofNat 64 (l.toNat % 2 ^ 48) = l.setWidth 64 := by bv_omega
  rw [skipEnd, hhost] at hexec
  by_cases hpark : f = xNomap ∧ s.hostPf = true
  · rw [if_pos hpark]
    rw [if_pos (by simpa using hpark), State.parkFetch, h48, h64] at hexec
    unfold ParksAt
    cases hp : s.park (s.asidOf s.cur) 0 (BitVec.ofNat 32 (l.toNat / 65536)) with
    | some u =>
      rw [hp] at hexec
      exact ⟨_, hexec, rfl, rfl, rfl, h64.symm⟩
    | none =>
      rw [hp] at hexec
      exact hexec
  · rw [if_neg hpark]
    rw [if_neg (by simpa using hpark)] at hexec
    exact hexec

/-- A skip goes by what the fetch of its END brings. -/
theorem skipsTo_of_eff {e : Eff} {i : Instr} {s : State} {ls : List LoopEnt} {l : Addr} (hi : exec i s = issueWords [e] s)
    (h : e (s.iss s.cur) s.out0 = .ok (s.outLoops ls (.endAt l))) (hl : ∀ o ∈ ls.head?, o.fin ≠ l) : SkipsTo i s ls l := by
  obtain ⟨c, hc, hloops, hocc, hfbuf, hexec⟩ := issueWords_endAt hi h hl
  obtain ⟨u, d, hu, hd, hsucc⟩ := s.succOf_setCtx c l.toNat hocc
  have hhost : (u.setCtx s.cur d).hostPf = s.hostPf := by rw [hu.state]; rfl
  have hdi : s.me.IssuedAs d := hd ▸ hc.moved c.pc d.fbuf
  have hdl : d.loops = ls := (congrArg Ctx.loops hd).trans hloops
  have hme : ∀ f, ((u.setCtx s.cur d).upCtx s.cur f).draw.me = f d := fun f => by
    rw [State.me, State.draw_ctx, State.draw_cur, State.upCtx_cur, State.setCtx_cur, hu.cur, State.ctx_upCtx_self, State.ctx_setCtx_self]
  rw [hsucc, hfbuf] at hexec
  unfold SkipsTo Follows
  cases hf : fetchedAt s s.me.fbuf l.toNat with
  | ok ws =>
    rw [hf] at hexec
    refine ⟨?_, fun hb => ?_⟩
    · rintro p ⟨ws', hws, hb, rfl⟩
      obtain rfl : ws = ws' := Fetched.ok.inj hws
      dsimp only at hexec
      rw [if_pos hb] at hexec
      refine ⟨_, hexec, ((hu.onlyFetch d).upCtx _).draw, ?_⟩
      rw [hme]
      exact ⟨rfl, hdl, hdi.moved _ _⟩
    · dsimp only at hexec
      rw [if_neg (Bool.eq_false_iff.1 hb)] at hexec
      exact hexec
  | fault f =>
    rw [hf] at hexec
    refine ⟨fun p hp => ?_, skip_fault hhost hexec⟩
    obtain ⟨ws, hws, -⟩ := hp
    cases hws
  | poison n =>
    rw [hf] at hexec
    refine ⟨fun p hp => ?_, _, hexec⟩
    obtain ⟨ws, hws, -⟩ := hp
    cases hws

end Sys2Proof.Claims
end

section
/-! SUPPORT. LOOP, LOOPI, BRKL and LIDX (06 R122 to R125). -/

open Sys2Proof.Machine

namespace Sys2Proof.Claims

variable {s : State} {e : Nat}

/-- END of a loop word with offset `e` (06 R122). -/
def loopFin (s : State) (e : Nat) : Addr := s.me.pc + BitVec.ofNat 48 (4 * e)

/-! ## What a count comes to -/

section
variable {n : Int}

theorem loopPush_large (h : 2 ^ 32 ≤ n) : loopPush n e (s.iss s.cur) s.out0 = .trap ⟨.loopOverflow, s.me.pc, 2, 0⟩ :=
  if_pos (by omega)

theorem loopPush_none (h : n ≤ 0) : loopPush n e (s.iss s.cur) s.out0 = .ok (s.outLoops s.me.loops (.endAt (loopFin s e))) := by
  unfold loopPush
  rw [if_neg (by omega), if_pos h]
  rfl

variable (hpos : 0 < n) (hlt : n < 2 ^ 32)
include hpos hlt

theorem loopPush_deep (h : 6 ≤ s.me.loops.length) : loopPush n e (s.iss s.cur) s.out0 = .trap ⟨.loopOverflow, s.me.pc, 1, 0⟩ := by
  unfold loopPush
  rw [if_neg (by omega), if_neg (by omega)]
  exact if_pos h

theorem loopPush_room (h : s.me.loops.length < 6) : loopPush n e (s.iss s.cur) s.out0 =
    .ok (s.outLoops (⟨BitVec.ofInt 32 n, s.me.bsucc, loopFin s e⟩ :: s.me.loops) .fall) := by
  unfold loopPush
  rw [if_neg (by omega), if_neg (by omega)]
  exact if_neg (Nat.not_le.2 h)

end

/-! ## The words -/

theorem effLoop_eq {a : Fin 32} (ha : Still s a) :
    effLoop a e (s.iss s.cur) s.out0 = loopPush (s.me.rd a).toInt e (s.iss s.cur) s.out0 := by rw [effLoop, ha.rS]

theorem toInt_eq_toNat_of_pos {x : W64} (h : 0 < x.toInt) : x.toInt = x.toNat := by
  rw [BitVec.toInt_eq_toNat_cond] at h ⊢
  split
  · rfl
  · rw [if_neg ‹_›] at h
    omega

/-- An entry is removed before the search for the END goes on with the enclosing ones. -/
theorem brkl_skips {l : LoopEnt} {ls : List LoopEnt} (h : s.me.loops = l :: ls) (hl : ∀ o ∈ ls.head?, o.fin ≠ l.fin) :
    SkipsTo .brkl s ls l.fin := by
  have h : (s.iss s.cur).c.loops = l :: ls := h
  refine skipsTo_of_eff (e := effBrkl) rfl ?_ hl
  rw [effBrkl, h]
  rfl

theorem lidx_writes (d : Fin 32) {k : Fin 6} {l : LoopEnt} (h : s.me.loops[k.val]? = some l) :
    WritesScalar (.lidx d k) s d (l.count.setWidth 64) := by
  have h : (s.iss s.cur).c.loops[k.val]? = some l := h
  refine writesScalar_of_eff (e := effLidx d k) rfl ?_
  rw [effLidx, h]

theorem loopWords_holds : loopWords := by
  intro s d a n e k ha
  have hloop := effLoop_eq (e := e) ha
  refine ⟨fun hroom => ⟨fun ⟨hpos, hlt⟩ => ?_, fun hn => ?_⟩, fun h => ?_, fun h => ?_, fun l ls h => brkl_skips h,
    fun l => lidx_writes d⟩
  · rw [loopPush_room hpos hlt hroom, toInt_eq_toNat_of_pos hpos, BitVec.ofInt_natCast] at hloop
    exact pushes_of_eff (e := effLoop a e) rfl hloop
  · exact pushes_of_eff (e := effLoopi n e) rfl (loopPush_room (n := n.val) (by omega) (by omega) hroom)
  · exact skipsTo_of_eff (e := effLoop a e) rfl (hloop.trans (loopPush_none h))
  · exact skipsTo_of_eff (e := effLoopi n e) rfl (loopPush_none (n := n.val) (by omega))

theorem loopTraps_holds : loopTraps := by
  intro s d a n e k ha
  have hloop := effLoop_eq (e := e) ha
  refine ⟨fun h => issueWords_trap (e := effLoop a e) (hloop.trans (loopPush_large h)),
    fun h hpos hlt => issueWords_trap (e := effLoop a e) (hloop.trans (loopPush_deep hpos hlt h)),
    fun h hn => issueWords_trap (e := effLoopi n e) (loopPush_deep (n := n.val) (by omega) (by omega) h),
    fun h => issueWords_trap (e := effBrkl) ?_, fun h => issueWords_trap (e := effLidx d k) ?_⟩
  · rw [effBrkl, show (s.iss s.cur).c.loops = [] from h]
    rfl
  · rw [effLidx, show (s.iss s.cur).c.loops[k.val]? = none from List.getElem?_eq_none h]
    rfl

/-- Settles O8: a loop word goes by its count and the depth of the stack; a skip by what is found at its END. -/
theorem loopResult : Obligations.LoopResult := ⟨loopWords_holds, loopTraps_holds⟩

end Sys2Proof.Claims
end

section
/-! SUPPORT. LAUNCH, by what its checks find in their order (03 R46; 06 R133). -/

open Sys2Proof.Claims

namespace Sys2Proof.Machine

/-- LAUNCH of a record at `ptr` into queue `n`, once the queue is open to the context. -/
def State.launchOpen (s : State) (x n : Nat) (ptr : W64) : State × Int :=
  let q := s.queue n
  if q.fill = 2 ^ q.log2n.toNat then (s, -3)
  else match s.devXlate n (q.entryVa q.tail) .write with
    | .error _ => (s, -7)
    | .ok pa => ((s.wr (BitVec.ofNat 12 x) pa (natLe 8 ptr.toNat)).setQueue n { q with tail := q.tail + 1 }, (q.tail.toNat : Int))

/-- The same once the operands are good. -/
def State.launchInto (s : State) (x n : Nat) (ptr : W64) : State × Int :=
  if (s.queue n).en = false then (s, -2)
  else if (s.queue n).src = false then (s, -1)
  else if s.sys.worldQueue.get false n = true ∧ s.worldOf x = false then (s, -6)
  else s.launchOpen x n ptr

section
variable (s : State) (x : Nat) {a ptr : W64}

theorem State.launch_noQueue (h : 64 ≤ a.toNat) : s.launch x a ptr = (s, -4) := if_pos h

variable (hq : a.toNat < 64)
include hq

theorem State.launch_badRecord (h : ptr.toNat % 256 ≠ 0 ∨ 2 ^ 48 ≤ ptr.toNat) : s.launch x a ptr = (s, -5) := by
  unfold State.launch
  rw [if_neg (Nat.not_le.2 hq)]
  exact if_pos (by simpa [bf] using h)

theorem State.launch_goodRecord (hal : ptr.toNat % 256 = 0) (hnear : ptr.toNat < 2 ^ 48) :
    s.launch x a ptr = s.launchInto x a.toNat ptr := by
  unfold State.launch State.launchInto
  rw [if_neg (Nat.not_le.2 hq), if_neg (by simpa [bf, hal] using hnear)]
  simp only [Bool.not_eq_true', Bool.and_eq_true] <;> rfl

end

section
variable {s : State} {x n : Nat} {ptr : W64}

theorem State.launchInto_disabled (hen : (s.queue n).en = false) : s.launchInto x n ptr = (s, -2) := if_pos hen

variable (hen : (s.queue n).en = true)
include hen

theorem State.launchInto_hostQueue (hsrc : (s.queue n).src = false) : s.launchInto x n ptr = (s, -1) := by
  rw [State.launchInto, if_neg (ne_false_of_eq_true hen)]
  exact if_pos hsrc

variable (hsrc : (s.queue n).src = true)
include hsrc

theorem State.launchInto_otherWorld (hz : s.sys.worldQueue.get false n = true) (hw : s.worldOf x = false) :
    s.launchInto x n ptr = (s, -6) := by
  rw [State.launchInto, if_neg (ne_false_of_eq_true hen), if_neg (ne_false_of_eq_true hsrc)]
  exact if_pos ⟨hz, hw⟩

variable (hworld : s.sys.worldQueue.get false n = false ∨ s.worldOf x = true)
include hworld

theorem State.launchInto_open : s.launchInto x n ptr = s.launchOpen x n ptr := by
  have hz : ¬(s.sys.worldQueue.get false n = true ∧ s.worldOf x = false) := by
    rcases hworld with h | h <;> simp [h]
  rw [State.launchInto, if_neg (ne_false_of_eq_true hen), if_neg (ne_false_of_eq_true hsrc), if_neg hz]

end

section
variable {s : State} {x n : Nat} {ptr : W64}

theorem State.launchOpen_full (h : (s.queue n).fill = 2 ^ (s.queue n).log2n.toNat) : s.launchOpen x n ptr = (s, -3) := if_pos h

variable (hroom : (s.queue n).fill ≠ 2 ^ (s.queue n).log2n.toNat)
include hroom

theorem State.launchOpen_unmapped {f : XFault} (h : s.devXlate n ((s.queue n).entryVa (s.queue n).tail) .write = .error f) :
    s.launchOpen x n ptr = (s, -7) := by
  rw [State.launchOpen, if_neg hroom, h]

/-- The entry at TAIL takes the record's address, byte by byte. -/
theorem State.launchOpen_takes {pa : Nat} (h : s.devXlate n ((s.queue n).entryVa (s.queue n).tail) .write = .ok pa) :
    s.launchOpen x n ptr =
      ((s.wr (BitVec.ofNat 12 x) pa ((List.range 8).map fun j => BitVec.ofNat 8 (ptr.toNat / 2 ^ (8 * j)))).setQueue n
        { s.queue n with tail := (s.queue n).tail + 1 }, ((s.queue n).tail.toNat : Int)) := by
  rw [State.launchOpen, if_neg hroom, h, natLe_eq_map]

end

end Sys2Proof.Machine

namespace Sys2Proof.Claims

open Sys2Proof.Machine

/-- LAUNCH answers the status, and leaves the state that goes with it. -/
theorem launch_answers {s u : State} {c a b : Fin 32} {r : Int} (ha : Still s a) (hb : Still s b) (hperf : Performs s)
    (hcur : u.cur = s.cur) (h : s.launch s.cur (s.me.rd a) (s.me.rd b) = (u, r)) : Answers (.launch c a b) s c r u := by
  refine does_of_eff (i := .launch c a b) (e := effLaunch c a b) (o := { s.outE with s := u }.ans c (w64 r)) rfl ?_ rfl
    ⟨rfl, rfl, rfl, rfl, rfl, rfl⟩ hcur
  have h : s.out0.s.launch (s.iss s.cur).x (s.me.rd a) (s.me.rd b) = (u, r) := h
  simp only [effLaunch, effE, (performs_iff_chk s).1 hperf, ha.rS, hb.rS, h]
  rfl

/-- Settles O35: the checks are made in their order, and the entry at TAIL takes the record's address in little-endian bytes. -/
theorem launchResult : Obligations.LaunchResult := by
  intro s c a b ha hb hperf
  have refused := fun {r} => launch_answers (c := c) (r := r) ha hb hperf (rfl : s.cur = s.cur)
  refine ⟨fun h => refused (s.launch_noQueue _ h), fun hq h => refused (s.launch_badRecord _ hq h), fun hq hal hnear => ?_⟩
  have hl := s.launch_goodRecord s.cur hq hal hnear
  refine ⟨fun hen => refused (hl.trans (State.launchInto_disabled hen)),
    fun hen hsrc => refused (hl.trans (State.launchInto_hostQueue hen hsrc)),
    fun hen hsrc hz hw => refused (hl.trans (State.launchInto_otherWorld hen hsrc hz hw)), fun hen hsrc hw => ?_⟩
  have ho := hl.trans (State.launchInto_open hen hsrc hw)
  refine ⟨fun hfull => refused (ho.trans (State.launchOpen_full hfull)), fun hroom =>
    ⟨fun f hx => refused (ho.trans (State.launchOpen_unmapped hroom hx)), fun pa hx =>
      launch_answers ha hb hperf ?_ (ho.trans (State.launchOpen_takes hroom hx))⟩⟩
  rw [State.wr_frame]
  rfl

end Sys2Proof.Claims
end

section
/-! SUPPORT. Words whose one effect is a row in flight (05 R94, R95; 08 R158): their sources, their flags, and the tag of a word that
reads RMODE (07 R150). -/

open Sys2Proof.Claims

namespace Sys2Proof.Machine

theorem viewExtra_eq_extra (as : List Sel) : viewExtra as = extra as := by
  induction as with
  | nil => rfl
  | cons a as ih =>
    cases a with
    | row n => exact ih
    | col j => rfl
    | diag d => rfl

/-! ## Sources -/

section Sources
variable {s : State} (h : StillRows s)
include h

theorem busyV_of_stillRows (n : Fin 64) (k : Nat) : s.me.busyV n k = false := by
  refine List.any_eq_false.2 fun f hf => ?_
  split
  · exact absurd ‹_› (h f hf _ _)
  · exact Bool.false_ne_true

theorem rSel_of_stillRows (a : Sel) (k : Fin 64) : (s.iss s.cur).rSel a k = s.me.at_ a k :=
  Iss.rSel_of_still (busyV_of_stillRows h) a k

theorem rV_of_stillRows (n : Fin 64) (k : Fin 64) : (s.iss s.cur).rV n k = s.me.v[n][k] :=
  (Iss.rV_of_still (busyV_of_stillRows h n k)).trans (lane_eq _ _)

theorem rowOf_rV_of_stillRows (n : Fin 64) : rowOf ((s.iss s.cur).rV n) = s.me.v[n] :=
  Vector.ext fun k hk => (rowOf_getElem _ ⟨k, hk⟩).trans (rV_of_stillRows h n ⟨k, hk⟩)

end Sources

/-! ## Flags and lanes -/

/-- A fold over the lanes' numbers is one over the lanes. -/
theorem foldl_range_eq_finRange {α : Type} (n : Nat) (f : α → Nat → α) (a : α) :
    (List.range n).foldl f a = (List.finRange n).foldl (fun a (k : Fin n) => f a k) a := by
  rw [← List.map_coe_finRange_eq_range, List.foldl_map]

/-- A bit of an OR is set where it was set, or in one of the words ORed in. -/
theorem getLsbD_foldl_or {α : Type} {w : Nat} (f : α → BitVec w) (l : List α) (a : BitVec w) (i : Nat) :
    (l.foldl (fun a x => a ||| f x) a).getLsbD i = true ↔ a.getLsbD i = true ∨ ∃ x ∈ l, (f x).getLsbD i = true := by
  induction l generalizing a with
  | nil => simp
  | cons x l ih => rw [List.foldl_cons, ih, BitVec.getLsbD_or, Bool.or_eq_true, or_assoc, List.exists_mem_cons_iff]

/-- A bit of an OR of the words of those elements that `p` picks. -/
theorem getLsbD_foldl_or_if {w : Nat} (p : Fin 64 → Bool) (f : Fin 64 → BitVec w) (i : Nat) :
    ((List.finRange 64).foldl (fun a k => if p k = true then a ||| f k else a) 0).getLsbD i = true ↔
      ∃ k, p k = true ∧ (f k).getLsbD i = true := by
  rw [← List.foldl_filter, getLsbD_foldl_or]
  simp

theorem flagsOf_getLsbD (em : W64) (f : Fin 64 → Flags) (i : Nat) :
    (flagsOf em f).getLsbD i = true ↔ ∃ k : Fin 64, em.getLsbD k = true ∧ (f k).getLsbD i = true :=
  getLsbD_foldl_or_if (fun k => em.getLsbD k) f i

/-- Only enabled lanes count. -/
theorem flagsOf_congr {em : W64} {f g : Fin 64 → Flags} (h : ∀ k : Fin 64, em.getLsbD k = true → f k = g k) :
    flagsOf em f = flagsOf em g := by
  refine List.foldl_ext _ _ _ fun a k _ => ?_
  split
  case isTrue hk => rw [h k hk]
  case isFalse => rfl

theorem lanesOf_flags (em : W64) (f : Nat → W32 × Flags) : (lanesOf em f).2 = flagsOf em fun k => (f k).2 := by
  rw [lanesOf, flagsOf, List.foldl_map, foldl_range_eq_finRange]
  refine List.foldl_ext _ _ _ fun a k _ => ?_
  split
  · rfl
  · exact BitVec.or_zero

/-- What a lane word gives whose enabled lanes are those of `F`. -/
theorem lanesOf_spec {em : W64} {f : Nat → W32 × Flags} {F : Fin 64 → W32 × Flags} (h : ∀ k : Fin 64, em.getLsbD k = true → f k = F k) :
    (lanesOf em f).2 = flagsOf em (fun k => (F k).2) ∧ ∀ k : Fin 64, em.getLsbD k = true → (lanesOf em f).1[k] = (F k).1 :=
  ⟨(lanesOf_flags em f).trans (flagsOf_congr fun k hk => congrArg Prod.snd (h k hk)),
    fun k hk => (lanesOf_getElem em f k hk).trans (congrArg Prod.fst (h k hk))⟩

/-! ## The words -/

/-- What a word builds whose one effect is a row in flight, with `g` for the commit signature. -/
def State.outRow (s : State) (d : Fin 64) (x : Row) (on : W64) (l : Nat) (f : Flags) (g : List SigItem) : Out :=
  { s.out0.fV d x on l f with sig := g }

/-- A word that reads RMODE counts one tag, where it takes one. -/
theorem tag_of_reads (i : Iss) {o : Out} (ho : o.tags = 0) (reads : Bool) :
    (if reads = true then o.tag i else o) = { o with tags := if reads = true ∧ takesTag i = true then 1 else 0 } := by
  unfold Out.tag
  cases reads <;> cases takesTag i <;> simp [← ho]

theorem rsdctr_add_tags (s : State) (reads : Bool) :
    s.me.rsdctr + BitVec.ofNat 32 (if reads = true ∧ takesTag (s.iss s.cur) = true then 1 else 0) = tagged s.me reads := by
  have htag : takesTag (s.iss s.cur) = true ↔ s.me.rmode = 4 ∧ s.me.em ≠ 0 := by
    rw [takesTag, Bool.and_eq_true, beq_iff_eq, bne_iff_ne]
    rfl
  simp only [tagged, htag]
  split
  · rfl
  · exact BitVec.add_zero _

theorem launchesRow_of_eff {e : Eff} {i : Instr} {s : State} {d : Fin 64} {x : Row} {on : W64} {l : Nat} {f : Flags} {g : List SigItem}
    {reads : Bool} {P : Row → Flags → Prop} (hi : exec i s = issueWords [e] s)
    (h : e (s.iss s.cur) s.out0 = .ok (if reads = true then (s.outRow d x on l f g).tag (s.iss s.cur) else s.outRow d x on l f g))
    (hP : P x f) : LaunchesRow i s d l on reads P := by
  rw [tag_of_reads _ rfl] at h
  obtain ⟨t, ht, hgo, honly, hme⟩ := leavesMe_rsdAfter hi h rfl rfl rfl rfl rfl
  refine ⟨t, x, f, ht, hP, hgo, honly, hme.trans ?_⟩
  rw [← rsdctr_add_tags]
  rfl

theorem launchesRow_mono {i : Instr} {s : State} {d : Fin 64} {l : Nat} {on : W64} {reads : Bool} {P Q : Row → Flags → Prop}
    (h : LaunchesRow i s d l on reads P) (hPQ : ∀ x f, P x f → Q x f) : LaunchesRow i s d l on reads Q := by
  obtain ⟨t, x, f, ht, hP, hrest⟩ := h
  exact ⟨t, x, f, ht, hPQ x f hP, hrest⟩

/-- A word that gives only a lane function, which is `F` on the enabled lanes. -/
theorem launchesRow_vLanes {i : Instr} {s : State} {d : Fin 64} (l : Nat) (as : List Sel) (f : Iss → Nat → W32 × Flags)
    (F : Fin 64 → W32 × Flags) (hi : exec i s = issueWords [vLanes l as d f] s)
    (hF : ∀ k : Fin 64, s.me.em.getLsbD k = true → f (s.iss s.cur) k = F k) :
    LaunchesRow i s d (l + extra as) s.me.em false fun r g =>
      g = flagsOf s.me.em (fun k => (F k).2) ∧ ∀ k : Fin 64, s.me.em.getLsbD k → r[k] = (F k).1 :=
  launchesRow_of_eff (reads := false) hi (by rw [← viewExtra_eq_extra]; rfl) (lanesOf_spec hF)

end Sys2Proof.Machine
end

section
/-! SUPPORT. The elements of a lane, and rows of packed codes (07 R142; 08 R170). -/

open Sys2Proof.Claims

namespace Sys2Proof.Machine

theorem bf_zero {w : Nat} (x : BitVec w) (n : Nat) : bf x 0 n = x.toNat % 2 ^ n := by
  rw [bf, Nat.pow_zero, Nat.div_one]

theorem el_eq_extractLsb' (w j : Nat) (x : W32) : el w j x = (x.extractLsb' (w * j) w).toNat := by
  rw [el, bf, BitVec.extractLsb'_toNat, Nat.shiftRight_eq_div_pow]

/-- `y` in place of the `w` bits of `n` from bit `p` on. -/
theorem testBit_replaceField (n p w y k : Nat) : (n - n / 2 ^ p % 2 ^ w * 2 ^ p + y % 2 ^ w * 2 ^ p).testBit k =
    if p ≤ k ∧ k < p + w then y.testBit (k - p) else n.testBit k := by
  have hparts : n - n / 2 ^ p % 2 ^ w * 2 ^ p + y % 2 ^ w * 2 ^ p = 2 ^ p * (2 ^ w * (n / 2 ^ p / 2 ^ w) + y % 2 ^ w) + n % 2 ^ p := by
    have hlow := Nat.div_add_mod n (2 ^ p)
    have hfield := congrArg (2 ^ p * ·) (Nat.div_add_mod (n / 2 ^ p) (2 ^ w))
    simp only [Nat.mul_add, Nat.mul_comm (_ % 2 ^ w)] at hfield ⊢
    omega
  rw [hparts, Nat.testBit_two_pow_mul_add _ (Nat.mod_lt _ (Nat.two_pow_pos p)),
    Nat.testBit_two_pow_mul_add _ (Nat.mod_lt _ (Nat.two_pow_pos w)), Nat.testBit_mod_two_pow, Nat.testBit_mod_two_pow,
    Nat.testBit_div_two_pow, Nat.testBit_div_two_pow]
  by_cases hlow : k < p
  · rw [if_pos hlow, if_neg (by omega), decide_eq_true hlow, Bool.true_and]
  · by_cases hfield : k - p < w
    · rw [if_neg hlow, if_pos hfield, if_pos (by omega), decide_eq_true hfield, Bool.true_and]
    · rw [if_neg hlow, if_neg hfield, if_neg (by omega), show k - p - w + w + p = k by omega]

/-- The bits of an element are the new code's, the others stay. -/
theorem getLsbD_setEl {w j k : Nat} {x : W32} {y : Nat} (hk : k < 32) :
    (setEl w j x y).getLsbD k = if w * j ≤ k ∧ k < w * j + w then y.testBit (k - w * j) else x.getLsbD k := by
  rw [setEl, el, bf, BitVec.getLsbD_ofNat, testBit_replaceField, decide_eq_true hk, Bool.true_and, BitVec.testBit_toNat]

theorem extractLsb'_setEl_self {w j : Nat} {x : W32} {y : Nat} (hj : w * j + w ≤ 32) :
    (setEl w j x y).extractLsb' (w * j) w = BitVec.ofNat w y := by
  refine BitVec.eq_of_getLsbD_eq fun k hk => ?_
  rw [BitVec.getLsbD_extractLsb', getLsbD_setEl (by omega), if_pos (by omega), BitVec.getLsbD_ofNat, Nat.add_sub_cancel_left]

theorem extractLsb'_setEl_of_ne {w i j : Nat} {x : W32} {y : Nat} (h : i ≠ j) (hi : w * i + w ≤ 32) :
    (setEl w j x y).extractLsb' (w * i) w = x.extractLsb' (w * i) w := by
  refine BitVec.eq_of_getLsbD_eq fun k hk => ?_
  have hapart : w * i + w ≤ w * j ∨ w * j + w ≤ w * i := by
    rw [← Nat.mul_succ, ← Nat.mul_succ]
    exact (Nat.lt_or_gt_of_ne h).imp (Nat.mul_le_mul_left w) (Nat.mul_le_mul_left w)
  rw [BitVec.getLsbD_extractLsb', BitVec.getLsbD_extractLsb', getLsbD_setEl (by omega), if_neg (by omega)]

/-! ## Packed codes -/

/-- The code of element `k` in a row of packed codes. -/
def codeOf (t : QFmt) (r : Row) (k : Fin 64) : BitVec (QFmt.bits t) :=
  (lane r (k / (32 / QFmt.bits t))).extractLsb' (QFmt.bits t * (k % (32 / QFmt.bits t))) (QFmt.bits t)

/-- A code lies in one lane. -/
theorem code_fits (t : QFmt) (k : Nat) : QFmt.bits t * (k % (32 / QFmt.bits t)) + QFmt.bits t ≤ 32 := by
  have := Nat.mod_lt k (show 0 < 32 / QFmt.bits t by cases t <;> decide)
  cases t <;> simp only [QFmt.bits] at * <;> omega

theorem lane_setIfInBounds (r : Row) (i : Nat) {j : Nat} (hj : j < 64) (x : W32) :
    lane (r.setIfInBounds i x) j = if i = j then x else lane r j := by
  rw [lane_eq _ ⟨j, hj⟩, lane_eq _ ⟨j, hj⟩]
  exact Vector.getElem_setIfInBounds hj

theorem codeOf_putCode_self (t : QFmt) (r : Row) (k : Fin 64) (c : Nat) : codeOf t (putCode t r k c) k = BitVec.ofNat _ c := by
  rw [codeOf, putCode, lane_setIfInBounds _ _ (Nat.lt_of_le_of_lt (Nat.div_le_self _ _) k.isLt), if_pos rfl,
    extractLsb'_setEl_self (code_fits t k)]

/-- Two elements stand in two lanes, or at two places of one. -/
theorem codeOf_putCode_of_ne (t : QFmt) (r : Row) {j k : Fin 64} (c : Nat) (h : j ≠ k) :
    codeOf t (putCode t r k c) j = codeOf t r j := by
  rw [codeOf, codeOf, putCode, lane_setIfInBounds _ _ (Nat.lt_of_le_of_lt (Nat.div_le_self _ _) j.isLt)]
  split
  case isFalse => rfl
  case isTrue hlane =>
    have hplace : j.val % (32 / QFmt.bits t) ≠ k.val % (32 / QFmt.bits t) := fun hmod =>
      h (Fin.ext (by rw [← Nat.div_add_mod j.val (32 / QFmt.bits t), ← hlane, hmod, Nat.div_add_mod]))
    rw [extractLsb'_setEl_of_ne hplace (code_fits t j), hlane]

/-- The lanes that hold a code of an enabled element (08 R170). -/
def codeLanes (t : QFmt) (em : W64) : W64 :=
  (List.finRange 64).foldl (fun a (k : Fin 64) => if em.getLsbD k then a ||| BitVec.ofNat 64 (2 ^ (k.val / (32 / QFmt.bits t))) else a) 0

theorem codeLanes_getLsbD (t : QFmt) (em : W64) (j : Fin 64) :
    (codeLanes t em).getLsbD j = true ↔ ∃ k : Fin 64, em.getLsbD k = true ∧ k.val / (32 / QFmt.bits t) = j.val := by
  refine (getLsbD_foldl_or_if (fun k => em.getLsbD k) _ j).trans (exists_congr fun k => and_congr_right fun _ => ?_)
  rw [BitVec.getLsbD_ofNat, decide_eq_true j.isLt, Bool.true_and, Nat.testBit_two_pow, decide_eq_true_eq]

/-- A row in which the codes of the enabled elements are `q`'s. -/
def packCodes (t : QFmt) (em : W64) (q : Fin 64 → Nat) (r : Row) : Row :=
  (List.finRange 64).foldl (fun r (k : Fin 64) => if em.getLsbD k then putCode t r k (q k) else r) r

theorem codeOf_packCodes (t : QFmt) (em : W64) (q : Fin 64 → Nat) (r : Row) (k : Fin 64) :
    codeOf t (packCodes t em q r) k = if em.getLsbD k then BitVec.ofNat _ (q k) else codeOf t r k := by
  have hfold := foldl_each (f := fun r (k : Fin 64) => if em.getLsbD k then putCode t r k (q k) else r) (get := codeOf t)
    (F := fun k c => if em.getLsbD k then BitVec.ofNat _ (q k) else c) (is := List.finRange 64)
    (fun r i => by split <;> simp only [codeOf_putCode_self])
    (fun r i j hj => by split <;> simp only [codeOf_putCode_of_ne t r _ hj]) (List.nodup_finRange 64) r k
  rwa [if_pos (List.mem_finRange k)] at hfold

/-- A fold whose steps change three parts side by side is a fold of each. -/
theorem foldl_if_triple {α β γ ι : Type} (p : ι → Bool) (f : α → ι → α) (g : β → ι → β) (h : γ → ι → γ) (l : List ι) (a : α) (b : β) (c : γ) :
    l.foldl (fun acc k => if p k = true then (f acc.1 k, g acc.2.1 k, h acc.2.2 k) else acc) (a, b, c) =
      (l.foldl (fun a k => if p k = true then f a k else a) a, l.foldl (fun b k => if p k = true then g b k else b) b,
        l.foldl (fun c k => if p k = true then h c k else c) c) := by
  induction l generalizing a b c with
  | nil => rfl
  | cons k l ih =>
    simp only [List.foldl_cons]
    split
    · exact ih _ _ _
    · exact ih a b c

/-- The elements one after the other: the row, its lanes and the flags. -/
theorem foldl_putCode (t : QFmt) (em : W64) (q : Fin 64 → Nat × Flags) (r : Row) :
    (List.finRange 64).foldl (fun (acc : Row × W64 × Flags) (k : Fin 64) =>
        if em.getLsbD k = true then
          (putCode t acc.1 k (q k).1, acc.2.1 ||| BitVec.ofNat 64 (2 ^ (k.val / (32 / QFmt.bits t))), acc.2.2 ||| (q k).2)
        else acc) (r, 0, 0) =
      (packCodes t em (fun k => (q k).1) r, codeLanes t em, flagsOf em fun k => (q k).2) :=
  foldl_if_triple (fun k : Fin 64 => em.getLsbD k) (fun r k => putCode t r k (q k).1)
    (fun a k => a ||| BitVec.ofNat 64 (2 ^ (k.val / (32 / QFmt.bits t)))) (fun f k => f ||| (q k).2) (List.finRange 64) r 0 0

end Sys2Proof.Machine
end

section
/-! SUPPORT. The largest magnitude of a block (08 R169). -/

namespace Sys2Proof.Machine

/-- The greatest value of a function on a list is met, and bounds the others. -/
theorem foldl_max_spec {α : Type} (f : α → Nat) {l : List α} {x : α} (hx : x ∈ l) :
    let m := l.foldl (fun m x => max m (f x)) 0
    (∃ y ∈ l, m = f y) ∧ ∀ y ∈ l, f y ≤ m := by
  obtain ⟨m, hm⟩ := Option.isSome_iff_exists.1 (List.isSome_max?_of_mem (List.mem_map_of_mem (f := f) hx))
  obtain ⟨hmem, hle⟩ := List.max?_eq_some_iff.1 hm
  obtain ⟨y, hy, hym⟩ := List.mem_map.1 hmem
  have hfold : l.foldl (fun m x => max m (f x)) 0 = m := by
    rw [← List.foldl_map (f := f) (g := max), List.foldl_max, hm, Option.getD_some, Nat.zero_max]
  simp only [hfold]
  exact ⟨⟨y, hy, hym.symm⟩, fun z hz => hle _ (List.mem_map_of_mem hz)⟩

/-- Without its sign bit a code is its magnitude. -/
theorem and_magnitudeMask (x : W32) : x &&& 0x7FFFFFFF = BitVec.ofNat 32 (x.toNat % 2 ^ 31) := by
  refine BitVec.eq_of_toNat_eq ?_
  rw [BitVec.toNat_and, BitVec.toNat_ofNat, Nat.mod_eq_of_lt (b := 2 ^ 32) (by omega)]
  exact Nat.and_two_pow_sub_one_eq_mod x.toNat 31

section Block
variable {i : Iss} {a : Sel} {x : Fin 64 → W32}

/-- The codes of the enabled lanes of a half row. -/
def blockCodes (i : Iss) (a : Sel) (b : Nat) : List Nat :=
  ((List.range 32).filter fun j => i.em.getLsbD (32 * b + j)).map fun j => (i.rSel a (32 * b + j)).toNat

/-- Lane `j` is an enabled lane of block `b`. -/
def Iss.InBlock (i : Iss) (b : Nat) (j : Fin 64) : Prop := i.em.getLsbD j = true ∧ j.val / 32 = b

variable (hx : ∀ k : Fin 64, i.rSel a k = x k) {b : Nat} (hb : b < 2)
include hx hb

theorem mem_blockCodes (n : Nat) : n ∈ blockCodes i a b ↔ ∃ j, i.InBlock b j ∧ (x j).toNat = n := by
  simp only [blockCodes, List.mem_map, List.mem_filter, List.mem_range]
  constructor
  · rintro ⟨j, ⟨hj, hon⟩, hn⟩
    exact ⟨⟨32 * b + j, by omega⟩, ⟨hon, show (32 * b + j) / 32 = b by omega⟩, by rw [← hx]; exact hn⟩
  · rintro ⟨j, ⟨hon, hdiv⟩, hn⟩
    have hlane : 32 * b + j.val % 32 = j.val := by omega
    exact ⟨j.val % 32, ⟨by omega, by rw [hlane]; exact hon⟩, by rw [hlane, hx]; exact hn⟩

theorem blockMax_flags (n : Nat) :
    (blockMax i a b).2.getLsbD n = true ↔ ∃ j, i.InBlock b j ∧ (fp32.dec (x j).toNat).opFlags.getLsbD n = true := by
  have hfl : (blockMax i a b).2 = (blockCodes i a b).foldl (fun f c => f ||| (fp32.dec c).opFlags) 0 :=
    (apply_ite Prod.snd _ _ _).trans (ite_self _)
  rw [hfl, getLsbD_foldl_or]
  simp only [mem_blockCodes hx hb]
  simp

theorem blockMax_of_nan (h : ∃ j, i.InBlock b j ∧ (fp32.dec (x j).toNat).isNan = true) : (blockMax i a b).1 = 0x7FC00000 := by
  obtain ⟨j, hj, hnan⟩ := h
  have hany : (blockCodes i a b).any (fun c => (fp32.dec c).isNan) = true :=
    List.any_eq_true.2 ⟨_, (mem_blockCodes hx hb _).2 ⟨j, hj, rfl⟩, hnan⟩
  exact congrArg Prod.fst (if_pos hany)

theorem blockMax_of_not_nan (h : ∀ j, i.InBlock b j → (fp32.dec (x j).toNat).isNan = false) {k : Fin 64} (hk : i.InBlock b k) :
    (∃ j, i.InBlock b j ∧ (blockMax i a b).1 = x j &&& 0x7FFFFFFF) ∧ ∀ j, i.InBlock b j → (x j).toNat % 2 ^ 31 ≤ ((blockMax i a b).1).toNat := by
  have hany : ¬(blockCodes i a b).any (fun c => (fp32.dec c).isNan) = true := by
    rw [List.any_eq_true]
    rintro ⟨c, hc, hnan⟩
    obtain ⟨j, hj, rfl⟩ := (mem_blockCodes hx hb c).1 hc
    exact Bool.false_ne_true ((h j hj).symm.trans hnan)
  have hmax : (blockMax i a b).1 = BitVec.ofNat 32 ((blockCodes i a b).foldl (fun m c => max m (c % 2 ^ 31)) 0) :=
    congrArg Prod.fst (if_neg hany)
  obtain ⟨⟨c, hc, hcm⟩, hle⟩ := foldl_max_spec (· % 2 ^ 31) ((mem_blockCodes hx hb _).2 ⟨k, hk, rfl⟩)
  obtain ⟨j, hj, rfl⟩ := (mem_blockCodes hx hb c).1 hc
  rw [hmax]
  simp only [hcm] at hle ⊢
  refine ⟨⟨j, hj, (and_magnitudeMask _).symm⟩, fun j' hj' => ?_⟩
  rw [BitVec.toNat_ofNat, Nat.mod_eq_of_lt (b := 2 ^ 32) (by omega)]
  exact hle _ ((mem_blockCodes hx hb _).2 ⟨j', hj', rfl⟩)

end Block

end Sys2Proof.Machine
end

section
/-! SUPPORT. VCVT, VQNT, VBMAX and VDQNT (08 R168 to R171). -/

open Sys2Proof.Machine

namespace Sys2Proof.Claims

section Words
variable {s : State} (h : StillRows s) (d : Fin 64) (a b : Sel)
include h

/-- VCVT converts each enabled lane; the mode of an element is that of its index (07 R150). -/
theorem vcvt_launches (code : CvtCode) (part : Fin 4) (rm : Bool) :
    let cv := fun k : Fin 64 => cvtLane code part
      (if rm = true then modeOf s.me.rmode s.me.srseed s.me.rsdctr (cvtIndex code part k) else .rne) (s.me.at_ a k) (s.me.v[d][k])
    LaunchesRow (.vcvt d a code part rm) s d (4 + extra [a]) s.me.em rm fun r g =>
      g = flagsOf s.me.em (fun k => (cv k).2) ∧ ∀ k : Fin 64, s.me.em.getLsbD k → r[k] = (cv k).1 := by
  refine launchesRow_of_eff (e := effVcvt d a code part rm) rfl (by rw [← viewExtra_eq_extra]; rfl) (lanesOf_spec fun k _ => ?_)
  have hmode : (s.iss s.cur).mode s.out0 (cvtIndex code part k) = modeOf s.me.rmode s.me.srseed s.me.rsdctr (cvtIndex code part k) :=
    congrArg (modeOf s.me.rmode s.me.srseed · _) (BitVec.add_zero s.me.rsdctr)
  rw [hmode, rSel_of_stillRows h, rV_of_stillRows h]

/-- The flags of the blocks are together those of the enabled lanes. -/
theorem vbmax_launches :
    LaunchesRow (.vbmax d a) s d (6 + extra [a]) s.me.em false fun r g =>
      g = flagsOf s.me.em (fun k => (fp32.dec (s.me.at_ a k).toNat).opFlags) ∧
      ∀ k : Fin 64, s.me.em.getLsbD k → r[k] = (blockMax (s.iss s.cur) a (k / 32)).1 := by
  refine launchesRow_mono (launchesRow_vLanes 6 [a] (fun i k => blockMax i a (k / 32)) (fun k => blockMax (s.iss s.cur) a (k / 32)) rfl
    fun _ _ => rfl) fun r g ⟨hg, hr⟩ => ⟨?_, hr⟩
  rw [hg]
  -- every enabled lane stands in its own block
  refine BitVec.eq_of_getLsbD_eq fun n _ => Bool.eq_iff_iff.2 ?_
  have hblock := fun k : Fin 64 => blockMax_flags (rSel_of_stillRows h a) (b := k / 32) (by omega) n
  simp only [flagsOf_getLsbD, hblock]
  constructor
  · rintro ⟨k, hk, j, hj, hn⟩
    exact ⟨j, hj.1, hn⟩
  · rintro ⟨k, hk, hn⟩
    exact ⟨k, hk, k, ⟨hk, rfl⟩, hn⟩

/-- Lane `k` of VDQNT: element `k` of the codes `x` by the record in `y`, rounded to FP32 (08 R171). -/
def dequantised (x y : Fin 64 → W32) (k : Fin 64) : Nat × Flags :=
  let w := (y ⟨k / 32, by omega⟩).toNat
  match qfmtOf (w / 65536 % 8) with
  | some t =>
    let n := 32 / QFmt.bits t
    let v := qdec t ((x ⟨k.val / n, Nat.lt_of_le_of_lt (Nat.div_le_self _ _) k.isLt⟩).extractLsb'
      (QFmt.bits t * (k.val % n)) (QFmt.bits t)).toNat (w % 65536)
    roundV fp32 .rne v v.opFlags
  | none => (0x7FC00000, fINV)

theorem dqLane_eq (k : Fin 64) : dqLane (s.iss s.cur) a b k = lane32 (dequantised (s.me.at_ a) (s.me.at_ b) k) := by
  have hrec : (s.iss s.cur).rSel b (k / 32) = s.me.at_ b ⟨k / 32, by omega⟩ := rSel_of_stillRows h b ⟨k / 32, by omega⟩
  have hcode : ∀ t, getCode t ((s.iss s.cur).rSel a) k =
      ((s.me.at_ a ⟨k.val / (32 / QFmt.bits t), Nat.lt_of_le_of_lt (Nat.div_le_self _ _) k.isLt⟩).extractLsb'
        (QFmt.bits t * (k.val % (32 / QFmt.bits t))) (QFmt.bits t)).toNat := fun t => by
    rw [getCode, el_eq_extractLsb', rSel_of_stillRows h a ⟨k.val / (32 / QFmt.bits t), _⟩]
  have hfmt : bf (s.me.at_ b ⟨k / 32, by omega⟩) 16 3 = (s.me.at_ b ⟨k / 32, by omega⟩).toNat / 65536 % 8 := rfl
  unfold dqLane dequantised
  simp only [hrec, hcode, hfmt, bf_zero]
  cases qfmtOf ((s.me.at_ b ⟨k / 32, by omega⟩).toNat / 65536 % 8) with
  | none => rfl
  | some t => rfl

/-- The codes that VQNT gives, with their flags (08 R170). -/
def quantised (t : QFmt) (x y : Fin 64 → W32) (k : Fin 64) : Nat × Flags :=
  quantise (x k).toNat ((y ⟨k / 32, by omega⟩).toNat % 65536) t

/-- VQNT, element by element: three folds side by side. -/
theorem effVqnt_eq (t : QFmt) :
    let q := quantised t (s.me.at_ a) (s.me.at_ b)
    ∃ g, effVqnt t d a b (s.iss s.cur) s.out0 =
      .ok (s.outRow d (packCodes t s.me.em (fun k => (q k).1) s.me.v[d]) (codeLanes t s.me.em) (6 + extra [a, b])
        (flagsOf s.me.em fun k => (q k).2) g) := by
  have hq : ∀ k : Fin 64, quantise ((s.iss s.cur).rSel a k).toNat (bf ((s.iss s.cur).rSel b (k / 32)) 0 16) t =
      quantised t (s.me.at_ a) (s.me.at_ b) k := fun k => by
    rw [rSel_of_stillRows h, rSel_of_stillRows h b ⟨k / 32, by omega⟩, bf_zero]
    rfl
  have hem : (s.iss s.cur).em = s.me.em := rfl
  unfold effVqnt
  rw [foldl_range_eq_finRange, ← viewExtra_eq_extra]
  simp only [hq, hem, rowOf_rV_of_stillRows h, foldl_putCode]
  exact ⟨_, rfl⟩

theorem vqnt_launches (t : QFmt) :
    LaunchesRow (.vqnt t d a b) s d (6 + extra [a, b]) (codeLanes t s.me.em) false fun r g =>
      g = flagsOf s.me.em (fun k => (quantised t (s.me.at_ a) (s.me.at_ b) k).2) ∧
      r = packCodes t s.me.em (fun k => (quantised t (s.me.at_ a) (s.me.at_ b) k).1) s.me.v[d] := by
  obtain ⟨g, heff⟩ := effVqnt_eq h d a b t
  exact launchesRow_of_eff (reads := false) rfl heff ⟨rfl, rfl⟩

end Words

/-- Settles O16: VCVT and VDQNT give each enabled lane its conversion; of VQNT's row each code is that of its element, put there once;
VBMAX goes by the codes of the enabled lanes of a block. -/
theorem vectorConvertResult : Obligations.VectorConvertResult := by
  intro s d a b code part rm t h
  refine ⟨vcvt_launches h d a code part rm, ⟨codeLanes t s.me.em, codeLanes_getLsbD t s.me.em, ?_⟩, ?_,
    launchesRow_vLanes 6 [a, b] (fun i k => dqLane i a b k) (fun k => lane32 (dequantised (s.me.at_ a) (s.me.at_ b) k)) rfl
      fun k _ => dqLane_eq h a b k⟩
  · refine launchesRow_mono (vqnt_launches h d a b t) ?_
    rintro r g ⟨rfl, rfl⟩
    refine ⟨rfl, fun k hk => ?_, fun k hk _ => ?_⟩
    · exact (codeOf_packCodes _ _ _ _ k).trans (if_pos hk)
    · exact (codeOf_packCodes _ _ _ _ k).trans (if_neg (ne_true_of_eq_false hk))
  · refine launchesRow_mono (vbmax_launches h d a) fun r g ⟨hg, hr⟩ => ⟨hg, fun k hk => ?_⟩
    rw [hr k hk]
    have hx := rSel_of_stillRows h a
    have hb : k.val / 32 < 2 := by omega
    exact ⟨blockMax_of_nan hx hb, fun hnan => blockMax_of_not_nan hx hb hnan ⟨hk, rfl⟩⟩

end Sys2Proof.Claims
end

section
/-! SUPPORT. Words that give each enabled lane a function of that lane of their sources (08 R158): without flags, or with those of each
lane. -/

open Sys2Proof.Claims

namespace Sys2Proof.Machine

theorem flagsOf_zero (em : W64) : flagsOf em (fun _ => 0) = 0 :=
  BitVec.eq_of_getLsbD_eq fun i _ => Bool.eq_iff_iff.2 (by rw [flagsOf_getLsbD]; simp)

/-- A flag that each lane raises or not is raised where some enabled lane raises it. -/
theorem flagsOf_flagIf (em : W64) (p : Fin 64 → Bool) (g : Flags) :
    flagsOf em (fun k => flagIf (p k) g) = flagIf ((List.finRange 64).any fun k => em.getLsbD k && p k) g := by
  have hbit : ∀ (b : Bool) (i : Nat), (flagIf b g).getLsbD i = (b && g.getLsbD i) := fun b i => by cases b <;> simp [flagIf]
  refine BitVec.eq_of_getLsbD_eq fun i _ => Bool.eq_iff_iff.2 ?_
  simp only [flagsOf_getLsbD, hbit, Bool.and_eq_true, List.any_eq_true, List.mem_finRange, true_and, ← and_assoc, exists_and_right]

/-- A lane word without flags, which gives `F` on the enabled lanes. -/
theorem launchesRow_vLanes_pure {i : Instr} {s : State} {d : Fin 64} (l : Nat) (as : List Sel) (f : Iss → Nat → W32 × Flags)
    (F : Fin 64 → W32) (hi : exec i s = issueWords [vLanes l as d f] s)
    (hF : ∀ k : Fin 64, s.me.em.getLsbD k = true → f (s.iss s.cur) k = (F k, 0)) :
    LaunchesRow i s d (l + extra as) s.me.em false fun r g => g = 0 ∧ ∀ k : Fin 64, s.me.em.getLsbD k → r[k] = F k :=
  launchesRow_mono (launchesRow_vLanes l as f (fun k => (F k, 0)) hi hF) fun _ _ ⟨hg, hr⟩ => ⟨hg.trans (flagsOf_zero _), hr⟩

section TwoSources
variable {i : Instr} {s : State} (h : StillRows s) {d : Fin 64} {a b : Sel}
include h

/-- A lane function of two sources. -/
theorem launchesRow_vOp2f (l : Nat) (f : W32 → W32 → W32 × Flags) (hi : exec i s = issueWords [vOp2f l f d a b] s) :
    LaunchesRow i s d (l + extra [a, b]) s.me.em false fun r g =>
      g = flagsOf s.me.em (fun k => (f (s.me.at_ a k) (s.me.at_ b k)).2) ∧
      ∀ k : Fin 64, s.me.em.getLsbD k → r[k] = (f (s.me.at_ a k) (s.me.at_ b k)).1 :=
  launchesRow_vLanes l [a, b] _ (fun k => f (s.me.at_ a k) (s.me.at_ b k)) hi fun k _ =>
    congrArg₂ f (rSel_of_stillRows h a k) (rSel_of_stillRows h b k)

/-- A lane function of two sources without flags; `F` says what it gives. -/
theorem lanes_vOp2 (f : W32 → W32 → W32) {F : Fin 64 → W32} (hi : exec i s = issueWords [vOp2 f d a b] s)
    (hF : ∀ k, f (s.me.at_ a k) (s.me.at_ b k) = F k) : Lanes i s d [a, b] F :=
  launchesRow_vLanes_pure 2 [a, b] _ F hi fun k _ =>
    Prod.ext ((congrArg₂ f (rSel_of_stillRows h a k) (rSel_of_stillRows h b k)).trans (hF k)) rfl

/-- A lane function of one source without flags. -/
theorem lanes_vOp1 (f : W32 → W32) (hi : exec i s = issueWords [vOp1 f d a] s) : Lanes i s d [a] fun k => f (s.me.at_ a k) :=
  launchesRow_vLanes_pure 2 [a] _ _ hi fun k _ => by rw [rSel_of_stillRows h]

end TwoSources

end Sys2Proof.Machine
end

section
/-! SUPPORT. What single lanes hold after integer words (08 R161, R162): orders, counts, truth tables and funnel shifts. -/

namespace Sys2Proof.Machine

theorem slt_not_iff (x y : W32) : x.slt y = true ↔ ¬y.toInt ≤ x.toInt := by rw [BitVec.slt_iff_toInt_lt, Int.not_le]

theorem minBy_slt (x y : W32) : minBy BitVec.slt x y = if x.toInt ≤ y.toInt then x else y := by
  rw [minBy]
  simp only [slt_not_iff, ite_not]

theorem maxBy_slt (x y : W32) : maxBy BitVec.slt x y = if x.toInt ≤ y.toInt then y else x := by
  rw [maxBy]
  simp only [BitVec.slt_iff_toInt_lt]
  split
  · rw [if_pos (by omega)]
  · split
    · exact BitVec.eq_of_toInt_eq (by omega)
    · rfl

theorem minBy_ult (x y : W32) : minBy BitVec.ult x y = if x.toNat ≤ y.toNat then x else y := by
  rw [minBy]
  simp only [BitVec.ult, decide_eq_true_eq, ← Nat.not_le, ite_not]

theorem maxBy_ult (x y : W32) : maxBy BitVec.ult x y = if x.toNat ≤ y.toNat then y else x := by
  rw [maxBy]
  simp only [BitVec.ult, decide_eq_true_eq]
  split
  · rw [if_pos (by omega)]
  · split
    · exact BitVec.eq_of_toNat_eq (by omega)
    · rfl

/-- Bits added up at their places are the bits of the sum. -/
theorem testBit_foldl_bits (f : Nat → Bool) (n : Nat) :
    let x := (List.range n).foldl (fun a i => a + b2n (f i) * 2 ^ i) 0
    x < 2 ^ n ∧ ∀ k, x.testBit k = (decide (k < n) && f k) := by
  induction n with
  | zero => exact ⟨Nat.one_pos, fun k => by simp⟩
  | succ n ih =>
    obtain ⟨hlt, hbits⟩ := ih
    simp only [List.range_succ, List.foldl_append, List.foldl_cons, List.foldl_nil]
    rw [Nat.add_comm, Nat.mul_comm]
    have hb : b2n (f n) ≤ 1 := by cases f n <;> decide
    refine ⟨?_, fun k => ?_⟩
    · have := Nat.mul_le_mul_left (2 ^ n) hb
      rw [Nat.pow_succ]
      omega
    · rw [Nat.testBit_two_pow_mul_add _ hlt, hbits]
      rcases Nat.lt_trichotomy k n with h | rfl | h
      · simp [h, Nat.lt_succ_of_lt h]
      · cases hf : f k <;> simp [b2n]
      · rw [if_neg (by omega), decide_eq_false (by omega), Bool.false_and, Nat.testBit_lt_two_pow]
        exact Nat.lt_of_le_of_lt hb (Nat.one_lt_two_pow (by omega))

theorem nb_one (x n : Nat) : nb x n 1 = b2n (x.testBit n) := by
  rw [nb, Nat.pow_one, Nat.testBit_eq_decide_div_mod_eq]
  rcases Nat.mod_two_eq_zero_or_one (x / 2 ^ n) with h | h <;> simp [h, b2n]

/-- Each bit of the result is the one that the table has for the sources' bits (08 R162). -/
theorem getLsbD_lut3 (tt : Nat) (x y z : W32) {j : Nat} (hj : j < 32) :
    (lut3 tt x y z).getLsbD j = tt.testBit (4 * b2n (x.getLsbD j) + 2 * b2n (y.getLsbD j) + b2n (z.getLsbD j)) := by
  rw [lut3]
  simp only [nb_one]
  rw [BitVec.getLsbD_ofNat, (testBit_foldl_bits _ 32).2, decide_eq_true hj, Bool.true_and, Bool.true_and]

theorem toNat_append_eq {v w : Nat} (x : BitVec v) (y : BitVec w) : (x ++ y).toNat = x.toNat * 2 ^ w + y.toNat := by
  rw [BitVec.toNat_append, ← Nat.shiftLeft_add_eq_or_of_lt y.isLt, Nat.shiftLeft_eq]

/-- A funnel shift looks at 32 bits of the pair of its sources (08 R162). -/
theorem funnel_eq (x y : W32) (n : Nat) :
    BitVec.ofNat 32 (nb (x.toNat * 2 ^ 32 + y.toNat) n 32) = (x ++ y : BitVec 64).extractLsb' n 32 := by
  refine BitVec.eq_of_toNat_eq ?_
  rw [BitVec.extractLsb'_toNat, toNat_append_eq, Nat.shiftRight_eq_div_pow, BitVec.toNat_ofNat, nb, Nat.mod_mod]

end Sys2Proof.Machine
end

section
/-! SUPPORT. Packed elements of a lane: where each stands, and how it wraps or clamps (07 R141, R142; 08 R161). -/

open Sys2Proof.Claims

namespace Sys2Proof.Machine

theorem packEl_succ (w i : Nat) (xs : List Nat) : packEl w (i + 1) xs = 2 ^ w * packEl w i xs := by
  induction xs generalizing i with
  | nil => rfl
  | cons x xs ih =>
    rw [packEl, packEl, ih, Nat.mul_succ, Nat.pow_add]
    ring

theorem packEl_cons (w x : Nat) (xs : List Nat) : packEl w 0 (x :: xs) = x % 2 ^ w + 2 ^ w * packEl w 0 xs := by
  rw [packEl, packEl_succ, Nat.mul_zero, Nat.pow_zero, Nat.mul_one]

/-- Each element stands at its place. -/
theorem packEl_element (w : Nat) (xs : List Nat) (j : Nat) : packEl w 0 xs / 2 ^ (w * j) % 2 ^ w = xs.getD j 0 % 2 ^ w := by
  induction xs generalizing j with
  | nil => rw [packEl, Nat.zero_div, List.getD_nil]
  | cons x xs ih =>
    rw [packEl_cons]
    cases j with
    | zero => rw [Nat.mul_zero, Nat.pow_zero, Nat.div_one, Nat.add_mul_mod_self_left, Nat.mod_mod, List.getD_cons_zero]
    | succ j =>
      rw [Nat.mul_succ, Nat.add_comm (w * j), Nat.pow_add, ← Nat.div_div_eq_div_mul, Nat.add_mul_div_left _ _ (Nat.two_pow_pos w),
        Nat.div_eq_of_lt (Nat.mod_lt _ (Nat.two_pow_pos w)), Nat.zero_add, ih, List.getD_cons_succ]

/-- Element `j` of a lane that is packed from the elements `f`. -/
theorem extractLsb'_packEl {w j : Nat} (f : Nat → Nat) (hj : j < 32 / w) :
    (BitVec.ofNat 32 (packEl w 0 ((List.range (32 / w)).map f))).extractLsb' (w * j) w = BitVec.ofNat w (f j) := by
  have hfit : w * (j + 1) ≤ 32 := (Nat.mul_le_mul_left w hj).trans (Nat.mul_div_le 32 w)
  rw [Nat.mul_succ] at hfit
  have hel := packEl_element w ((List.range (32 / w)).map f) j
  rw [show ((List.range (32 / w)).map f).getD j 0 = f j by simp [List.getD_eq_getElem?_getD, hj]] at hel
  refine BitVec.eq_of_getLsbD_eq fun i hi => ?_
  have hbit := congrArg (Nat.testBit · i) hel
  simp only [Nat.testBit_mod_two_pow, Nat.testBit_div_two_pow, decide_eq_true hi, Bool.true_and] at hbit
  rw [BitVec.getLsbD_extractLsb', BitVec.getLsbD_ofNat, BitVec.getLsbD_ofNat, decide_eq_true hi, decide_eq_true (by omega), Bool.true_and,
    Bool.true_and, Bool.true_and, Nat.add_comm, hbit]

/-- An element as a number with its sign. -/
theorem sx_el {w : Nat} (hw : 0 < w) (j : Nat) (x : W32) : sx w (el w j x) = (x.extractLsb' (w * j) w).toInt := by
  have htwice : 2 ^ w = 2 * 2 ^ (w - 1) := by rw [Nat.mul_comm, Nat.two_pow_pred_mul_two hw]
  rw [el_eq_extractLsb', BitVec.toInt_eq_toNat_cond, sx, Nat.mod_eq_of_lt (BitVec.isLt _), Nat.cast_pow, Nat.cast_ofNat]
  exact if_congr (by omega) rfl rfl

/-- The low bits of a number, as an element. -/
theorem ofNat_emod (w : Nat) (z : Int) : BitVec.ofNat w (z % 2 ^ w).toNat = BitVec.ofInt w z := by
  have hcast : (2 ^ w : Int) = (2 ^ w : Nat) := by rw [Nat.cast_pow, Nat.cast_ofNat]
  refine BitVec.eq_of_toNat_eq ?_
  rw [BitVec.toNat_ofNat, BitVec.toNat_ofInt, hcast]
  have hlt := Int.emod_lt_of_pos z (Int.natCast_pos.2 (Nat.two_pow_pos w))
  exact Nat.mod_eq_of_lt (by omega)

theorem clamp_fst {lo hi : Int} (h : lo ≤ hi) (z : Int) : (clamp lo hi z).1 = max lo (min hi z) := by
  unfold clamp
  split
  · show lo = _; omega
  · split
    · show hi = _; omega
    · show z = _; omega

theorem clamp_snd (lo hi z : Int) : (clamp lo hi z).2 = true ↔ z < lo ∨ hi < z := by
  unfold clamp
  split
  · simp [*]
  · split <;> simp [*]

section Elements
variable {w j : Nat} (hw : 0 < w) (f : Int → Int → Int) (x y : W32)
include hw

theorem extractLsb'_elWrap (hj : j < 32 / w) : (elWrap w f x y).extractLsb' (w * j) w =
    BitVec.ofInt w (f (x.extractLsb' (w * j) w).toInt (y.extractLsb' (w * j) w).toInt) := by
  rw [elWrap, extractLsb'_packEl _ hj, ofNat_emod, sx_el hw, sx_el hw]

/-- A saturating element holds the nearest number that it can. -/
theorem toInt_extractLsb'_elSat (hj : j < 32 / w) : ((elSat w f x y).1.extractLsb' (w * j) w).toInt =
    max (-2 ^ (w - 1)) (min (2 ^ (w - 1) - 1) (f (x.extractLsb' (w * j) w).toInt (y.extractLsb' (w * j) w).toInt)) := by
  have hpos : (0 : Int) < 2 ^ (w - 1) := Int.pow_pos (by decide)
  have hle : (-2 ^ (w - 1) : Int) ≤ 2 ^ (w - 1) - 1 := by omega
  rw [elSat, List.map_map, extractLsb'_packEl _ hj, Function.comp_apply, ofNat_emod, sx_el hw, sx_el hw, clamp_fst hle]
  exact BitVec.toInt_ofInt_eq_self hw (by omega) (by omega)

/-- OV is raised where an element does not hold its result. -/
theorem elSat_flags : ∃ o, (elSat w f x y).2 = flagIf o fOV ∧ (o = true ↔ ∃ j, j < 32 / w ∧
    (f (x.extractLsb' (w * j) w).toInt (y.extractLsb' (w * j) w).toInt < -2 ^ (w - 1) ∨
      2 ^ (w - 1) - 1 < f (x.extractLsb' (w * j) w).toInt (y.extractLsb' (w * j) w).toInt)) :=
  ⟨_, rfl, by simp only [List.any_map, List.any_eq_true, List.mem_range, Function.comp_apply, clamp_snd, sx_el hw]⟩

end Elements

end Sys2Proof.Machine
end

section
/-! SUPPORT. Integer, logic, shift and packed words (08 R161, R162, R177). -/

open Sys2Proof.Machine

namespace Sys2Proof.Claims

section Words
variable {s : State} (h : StillRows s) (d : Fin 64) (a b : Sel)
include h

theorem vclz_launches : LaunchesRow (.vclz d a) s d (2 + extra [a]) s.me.em false fun r g =>
    g = 0 ∧ ∀ k : Fin 64, s.me.em.getLsbD k → (r[k]).toNat ≤ 32 ∧
      ((r[k]).toNat < 32 → (s.me.at_ a k).getMsbD (r[k]).toNat = true) ∧ ∀ j, j < (r[k]).toNat → (s.me.at_ a k).getMsbD j = false := by
  refine launchesRow_mono (lanes_vOp1 h (fun x => BitVec.ofNat 32 (leadZeros x)) rfl) fun r g ⟨hg, hr⟩ => ⟨hg, fun k hk => ?_⟩
  have hspec := leadZeros_spec (s.me.at_ a k)
  rw [hr k hk, BitVec.toNat_ofNat, Nat.mod_eq_of_lt (by omega)]
  exact hspec

theorem vlut3_launches (tt : Fin 256) : LaunchesRow (.vlut3 d a b tt) s d (2 + extra [a, b]) s.me.em false fun r g =>
    g = 0 ∧ ∀ k : Fin 64, s.me.em.getLsbD k → ∀ j, j < 32 → (r[k]).getLsbD j =
      tt.val.testBit (4 * b2n ((s.me.at_ a k).getLsbD j) + 2 * b2n ((s.me.at_ b k).getLsbD j) + b2n ((s.me.v[d][k]).getLsbD j)) := by
  refine launchesRow_mono (launchesRow_vLanes_pure 2 [a, b] (fun i k => (lut3 tt (i.rSel a k) (i.rSel b k) (i.rV d k), 0))
    (fun k => lut3 tt (s.me.at_ a k) (s.me.at_ b k) s.me.v[d][k]) rfl fun k _ => ?_) fun r g ⟨hg, hr⟩ => ⟨hg, fun k hk j hj => ?_⟩
  · rw [rSel_of_stillRows h, rSel_of_stillRows h, rV_of_stillRows h]
  · rw [hr k hk, getLsbD_lut3 _ _ _ _ hj]

variable {i : Instr} {d a b} {w : Nat} (hw : 0 < w) (f : Int → Int → Int)
include hw

/-- A wrapping word on elements of `w` bits, whose function is `g` on the elements as words. -/
theorem wraps_launches (g : BitVec w → BitVec w → BitVec w) (hg : ∀ u v, BitVec.ofInt w (f u.toInt v.toInt) = g u v)
    (hi : exec i s = issueWords [vOp2 (elWrap w f) d a b] s) :
    LaunchesRow i s d (2 + extra [a, b]) s.me.em false fun r fl => fl = 0 ∧ ∀ k : Fin 64, s.me.em.getLsbD k → ∀ j, j < 32 / w →
      (r[k]).extractLsb' (w * j) w = g ((s.me.at_ a k).extractLsb' (w * j) w) ((s.me.at_ b k).extractLsb' (w * j) w) :=
  launchesRow_mono (lanes_vOp2 h (elWrap w f) hi fun _ => rfl) fun r fl ⟨hfl, hr⟩ => ⟨hfl, fun k hk j hj => by
    rw [hr k hk, extractLsb'_elWrap hw f _ _ hj, hg]⟩

/-- A saturating word on elements of `w` bits. -/
theorem clamps_launches (hi : exec i s = issueWords [vOp2f 2 (elSat w f) d a b] s) :
    let e := fun (k : Fin 64) (j : Nat) => f ((s.me.at_ a k).extractLsb' (w * j) w).toInt ((s.me.at_ b k).extractLsb' (w * j) w).toInt
    LaunchesRow i s d (2 + extra [a, b]) s.me.em false fun r g =>
      (g = fOV ∧ (∃ k : Fin 64, s.me.em.getLsbD k ∧ ∃ j, j < 32 / w ∧ (e k j < -2 ^ (w - 1) ∨ 2 ^ (w - 1) - 1 < e k j)) ∨
       g = 0 ∧ ∀ k : Fin 64, s.me.em.getLsbD k → ∀ j, j < 32 / w → -2 ^ (w - 1) ≤ e k j ∧ e k j ≤ 2 ^ (w - 1) - 1) ∧
      ∀ k : Fin 64, s.me.em.getLsbD k → ∀ j, j < 32 / w →
        ((r[k]).extractLsb' (w * j) w).toInt = max (-2 ^ (w - 1)) (min (2 ^ (w - 1) - 1) (e k j)) := by
  refine launchesRow_mono (launchesRow_vOp2f h 2 (elSat w f) hi) fun r g ⟨hg, hr⟩ => ⟨?_, fun k hk j hj => ?_⟩
  · choose o ho hiff using fun k => elSat_flags hw f (s.me.at_ a k) (s.me.at_ b k)
    simp only [ho, flagsOf_flagIf] at hg
    cases hany : (List.finRange 64).any fun k => s.me.em.getLsbD k && o k with
    | true =>
      obtain ⟨k, -, hk⟩ := List.any_eq_true.1 hany
      obtain ⟨hon, hout⟩ := (Bool.and_eq_true ..).mp hk
      rw [hany] at hg
      exact .inl ⟨hg, k, hon, (hiff k).1 hout⟩
    | false =>
      rw [hany] at hg
      refine .inr ⟨hg, fun k hk j hj => ?_⟩
      have hin : ¬o k = true := fun hok => List.any_eq_false.1 hany k (List.mem_finRange k) ((Bool.and_eq_true ..).mpr ⟨hk, hok⟩)
      have hnot := fun hout => hin ((hiff k).2 ⟨j, hj, hout⟩)
      exact ⟨Int.not_lt.1 fun hlt => hnot (.inl hlt), Int.not_lt.1 fun hlt => hnot (.inr hlt)⟩
  · rw [hr k hk, toInt_extractLsb'_elSat hw f _ _ hj]

end Words

theorem vectorInteger_holds : vectorInteger := by
  intro s d a b n tt w h
  have two := fun {i} f {F} => lanes_vOp2 (i := i) (d := d) (a := a) (b := b) (F := F) h f
  have one := fun {i} f => lanes_vOp1 (i := i) (d := d) (a := a) h f
  exact ⟨two (· + ·) rfl fun _ => rfl, two (· - ·) rfl fun _ => rfl, two (· * ·) rfl fun _ => rfl,
    two (fun x y => BitVec.ofInt 32 (x.toInt * y.toInt / 2 ^ 32)) rfl fun _ => rfl,
    two (minBy BitVec.slt) rfl fun _ => minBy_slt _ _, two (maxBy BitVec.slt) rfl fun _ => maxBy_slt _ _,
    two (minBy BitVec.ult) rfl fun _ => minBy_ult _ _, two (maxBy BitVec.ult) rfl fun _ => maxBy_ult _ _,
    two (· &&& ·) rfl fun _ => rfl, two (· ||| ·) rfl fun _ => rfl, two (· ^^^ ·) rfl fun _ => rfl,
    two (fun x y => x <<< shLane y) rfl fun _ => rfl, two (fun x y => x >>> shLane y) rfl fun _ => rfl,
    two (fun x y => x.sshiftRight (shLane y)) rfl fun _ => rfl,
    two (fun x y => BitVec.ofNat 32 (nb (x.toNat * 2 ^ 32 + y.toNat) (32 - n.val) 32)) rfl fun _ => funnel_eq _ _ _,
    two (fun x y => BitVec.ofNat 32 (nb (x.toNat * 2 ^ 32 + y.toNat) n.val 32)) rfl fun _ => funnel_eq _ _ _,
    one id rfl, one (· + w.signExtend 32) rfl, one (· &&& w.signExtend 32) rfl, one (· <<< n.val) rfl, one (· >>> n.val) rfl,
    one (fun x => x.sshiftRight n.val) rfl,
    launchesRow_vLanes_pure 2 [] (fun _ _ => (w.signExtend 32, 0)) (fun _ => w.signExtend 32) rfl fun _ _ => rfl,
    vclz_launches h d a, vlut3_launches h d a b tt⟩

theorem vectorPacked_holds : vectorPacked := by
  intro s d a b h
  have add {w : Nat} (u v : BitVec w) : BitVec.ofInt w (u.toInt + v.toInt) = u + v := by
    rw [BitVec.ofInt_add, BitVec.ofInt_toInt, BitVec.ofInt_toInt]
  have sub {w : Nat} (u v : BitVec w) : BitVec.ofInt w (u.toInt - v.toInt) = u - v := by
    rw [Int.sub_eq_add_neg, BitVec.ofInt_add, BitVec.ofInt_neg, BitVec.ofInt_toInt, BitVec.ofInt_toInt, BitVec.sub_eq_add_neg]
  exact ⟨wraps_launches h (w := 16) (by decide) (· + ·) (· + ·) add rfl, wraps_launches h (w := 16) (by decide) (· - ·) (· - ·) sub rfl,
    wraps_launches h (w := 8) (by decide) (· + ·) (· + ·) add rfl, wraps_launches h (w := 8) (by decide) (· - ·) (· - ·) sub rfl,
    clamps_launches h (w := 16) (by decide) (· + ·) rfl, clamps_launches h (w := 16) (by decide) (· - ·) rfl,
    clamps_launches h (w := 8) (by decide) (· + ·) rfl, clamps_launches h (w := 8) (by decide) (· - ·) rfl⟩

/-- Settles O13: a word gives each enabled lane its function of the sources, or each element of the lane, which wraps or clamps. -/
theorem vectorIntegerResult : Obligations.VectorIntegerResult := ⟨vectorInteger_holds, vectorPacked_holds⟩

end Sys2Proof.Claims
end

section
/-! SUPPORT. Vector compares, and the selection by CM (08 R163, R164). -/

open Sys2Proof.Claims

namespace Sys2Proof.Machine

/-- A compare puts its bits of CM behind those of older compares, which land first. -/
theorem compares_of_eff {e : Eff} {i : Instr} {s : State} {as : List Sel} {f : Fin 64 → Bool} {P : Flags → Prop} {x : W64} {g : Flags}
    (hi : exec i s = issueWords [e] s) (h : e (s.iss s.cur) s.out0 = .ok (s.out0.fCM x s.me.em (2 + extra as) g))
    (hx : ∀ k : Fin 64, s.me.em.getLsbD k → x.getLsbD k = f k) (hg : P g) : Compares i s as f P := by
  obtain ⟨t, ht, hgo, honly, hme⟩ := leavesMe_of_eff hi h rfl ⟨rfl, rfl, rfl, rfl, rfl, rfl⟩ rfl
  have hflight : s.me.flight.map (·.behind (.cm x) s.me.em) = s.me.flight := List.map_id _
  have hleft : 2 + extra as - 1 = 1 + extra as := by omega
  have hlaunch : (s.out0.fCM x s.me.em (2 + extra as) g).c =
      { s.me with flight := s.me.flight ++ [⟨.cm x, s.me.em, s.me.em, 1 + extra as, g⟩] } :=
    congrArg (fun l => ({ s.me with flight := l } : Ctx)) (congrArg₂ (· ++ ·) hflight (by rw [hleft]))
  exact ⟨t, x, g, ht, hx, hg, hgo, honly, hme.trans (congrArg (Ctx.issued · t.me) hlaunch)⟩

/-- The flags of lanes of which a masked one gives `z`. -/
theorem foldl_lane_flags {α : Type} (em : W64) (f : Nat → α × Flags) (z : α) :
    ((List.range 64).map fun k => if em.getLsbD k then f k else (z, 0)).foldl (fun a r => a ||| r.2) 0 = flagsOf em fun k => (f k).2 := by
  refine Eq.trans ?_ (lanesOf_flags em fun k => (0, (f k).2))
  simp only [lanesOf, List.foldl_map, apply_ite Prod.snd]

/-- A compare of two sources gives `f` of them in each enabled lane. -/
theorem compares_vCmp {i : Instr} {s : State} (h : StillRows s) {a b : Sel} (f : W32 → W32 → Bool × Flags) {F : Fin 64 → Bool}
    {P : Flags → Prop} (hi : exec i s = issueWords [vCmp f a b] s) (hF : ∀ k, (f (s.me.at_ a k) (s.me.at_ b k)).1 = F k)
    (hP : P (flagsOf s.me.em fun k => (f (s.me.at_ a k) (s.me.at_ b k)).2)) : Compares i s [a, b] F P := by
  have hsrc : ∀ k : Fin 64, f ((s.iss s.cur).rSel a k) ((s.iss s.cur).rSel b k) = f (s.me.at_ a k) (s.me.at_ b k) := fun k =>
    congrArg₂ f (rSel_of_stillRows h a k) (rSel_of_stillRows h b k)
  refine compares_of_eff hi (by rw [← viewExtra_eq_extra]; rfl) (fun k hk => ?_) ?_
  · have hem : (s.iss s.cur).em.getLsbD k = true := hk
    rw [maskOfFn_getLsbD _ _ k.isLt]
    simp [hem, hsrc, hF]
  · rw [foldl_lane_flags]
    simp only [hsrc]
    exact hP

end Sys2Proof.Machine

namespace Sys2Proof.Claims

open Sys2Proof.Machine

/-- Settles O14: a compare gives each enabled lane its relation of the sources; VSEL reads CM as it stands. -/
theorem vectorCompareResult : Obligations.VectorCompareResult := by
  intro s d a b h
  have int := fun {i} f {F} hi hF => compares_vCmp (i := i) (a := a) (b := b) (F := F) (P := (· = 0)) h f hi hF
  have flt := fun {i} f {F} {P} hi hF => compares_vCmp (i := i) (a := a) (b := b) (F := F) (P := P) h (fCmp f) hi hF
  exact ⟨int (fun x y => (x == y, 0)) rfl (fun _ => rfl) (flagsOf_zero _),
    int (fun x y => (x.slt y, 0)) rfl (fun _ => BitVec.slt_eq_decide) (flagsOf_zero _),
    int (fun x y => (x.ult y, 0)) rfl (fun _ => rfl) (flagsOf_zero _),
    flt eqV rfl (fun _ => rfl) rfl, flt ltV rfl (fun _ => rfl) rfl, flt (fun x y => ltV x y || eqV x y) rfl (fun _ => rfl) rfl,
    flt (fun x y => x.isNan || y.isNan) rfl (fun _ => rfl) rfl,
    fun hcm => launchesRow_vLanes_pure 2 [a, b] (fun i k => (if i.cm.getLsbD k then i.rSel a k else i.rSel b k, 0)) _ rfl fun k _ => by
      rw [hcm.cm, rSel_of_stillRows h, rSel_of_stillRows h]⟩

end Sys2Proof.Claims
end

section
/-! SUPPORT. Words that round or evaluate each lane or each element of a 16-bit pair (08 R165, R166, R172). -/

open Sys2Proof.Claims

namespace Sys2Proof.Machine

/-- A word alone in its bundle takes the tag at RSDCTR (07 R150). -/
theorem mode_out0 (s : State) (e : Nat) : (s.iss s.cur).mode s.out0 e = modeOf s.me.rmode s.me.srseed s.me.rsdctr e :=
  congrArg (modeOf s.me.rmode s.me.srseed · e) (BitVec.add_zero s.me.rsdctr)

/-- Each element of a pair is one code. -/
theorem extractLsb'_pair16 (r : Nat → Nat × Flags) {j : Nat} (hj : j < 2) :
    (pair16 (r 0) (r 1)).1.extractLsb' (16 * j) 16 = BitVec.ofNat 16 (r j).1 := by
  refine BitVec.eq_of_toNat_eq ?_
  rw [BitVec.extractLsb'_toNat, pair16, BitVec.toNat_ofNat, BitVec.toNat_ofNat, Nat.shiftRight_eq_div_pow]
  obtain rfl | rfl : j = 0 ∨ j = 1 := by omega
  · omega
  · omega

/-- A row of pairs, element by element. -/
theorem launchesRow_pairs {i : Instr} {s : State} {d : Fin 64} {l : Nat} {reads : Bool} {r : Fin 64 → Nat → Nat × Flags}
    (h : LaunchesRow i s d l s.me.em reads fun x g => g = flagsOf s.me.em (fun k => (pair16 (r k 0) (r k 1)).2) ∧
      ∀ k : Fin 64, s.me.em.getLsbD k → x[k] = (pair16 (r k 0) (r k 1)).1) :
    LaunchesRow i s d l s.me.em reads fun x g => g = flagsOf s.me.em (fun k => (r k 0).2 ||| (r k 1).2) ∧
      ∀ k : Fin 64, s.me.em.getLsbD k → ∀ j, j < 2 → (x[k]).extractLsb' (16 * j) 16 = BitVec.ofNat 16 (r k j).1 :=
  launchesRow_mono h fun x g ⟨hg, hx⟩ => ⟨hg, fun k hk j hj => by rw [hx k hk, extractLsb'_pair16 (r k) hj]⟩

/-- A word that rounds its lanes under RMODE, each of which is `F`. -/
theorem launchesRow_vRound {i : Instr} {s : State} {d : Fin 64} (as : List Sel) (f : (Nat → RM) → Iss → Nat → W32 × Flags)
    (F : Fin 64 → W32 × Flags) (hi : exec i s = issueWords [vRound as d f] s)
    (hF : ∀ k : Fin 64, f (modeOf s.me.rmode s.me.srseed s.me.rsdctr) (s.iss s.cur) k = F k) :
    LaunchesRow i s d (4 + extra as) s.me.em true fun r g =>
      g = flagsOf s.me.em (fun k => (F k).2) ∧ ∀ k : Fin 64, s.me.em.getLsbD k → r[k] = (F k).1 := by
  have hmode : (s.iss s.cur).mode s.out0 = modeOf s.me.rmode s.me.srseed s.me.rsdctr := funext (mode_out0 s)
  exact launchesRow_of_eff (reads := true) hi (by rw [← viewExtra_eq_extra]; rfl) (lanesOf_spec fun k _ => by rw [hmode, hF])

end Sys2Proof.Machine
end

section
/-! SUPPORT. Vector floating-point arithmetic (08 R165, R166). -/

open Sys2Proof.Machine

namespace Sys2Proof.Claims

section Words
variable {i : Instr} {s : State} (h : StillRows s) {d : Fin 64} {a b : Sel}
include h

theorem rounds32_vf32 (f : RM → Nat → Nat → Nat → Nat × Flags) (hi : exec i s = issueWords [vf32 f d a b] s) : Rounds32 i s d a b f :=
  launchesRow_vRound [a, b] _ (fun _ => lane32 (f _ _ _ _)) hi fun k => by
    rw [rSel_of_stillRows h, rSel_of_stillRows h, rV_of_stillRows h]

theorem rounds16_vf16 (f : RM → Nat → Nat → Nat → Nat × Flags) (hi : exec i s = issueWords [vf16 f d a b] s) : Rounds16 i s d a b f := by
  unfold Rounds16
  extract_lets r
  refine launchesRow_pairs (r := r) (launchesRow_vRound [a, b] _ (fun k => pair16 (r k 0) (r k 1)) hi fun k => ?_)
  simp only [rSel_of_stillRows h, rV_of_stillRows h, el_eq_extractLsb', r]

end Words

/-- Settles O15: each lane or element is rounded under the mode of its index; VFMIN and VFMAX pick a lane of either source. -/
theorem vectorFloatResult : Obligations.VectorFloatResult := by
  intro s d a b h
  have f32 := fun {i} f => rounds32_vf32 (i := i) (d := d) (a := a) (b := b) h f
  have f16 := fun {i} f => rounds16_vf16 (i := i) (d := d) (a := a) (b := b) h f
  exact ⟨f32 (fun m x y _ => fadd fp32 m x y) rfl, f32 (fun m x y _ => fsub fp32 m x y) rfl, f32 (fun m x y _ => fmul fp32 m x y) rfl,
    f32 (fun m x y z => ffma fp32 m x y z) rfl, f16 (fun m x y _ => fadd bf16 m x y) rfl, f16 (fun m x y _ => fmul bf16 m x y) rfl,
    f16 (fun m x y z => ffma bf16 m x y z) rfl, f16 (fun m x y _ => fadd fp16 m x y) rfl, f16 (fun m x y _ => fmul fp16 m x y) rfl,
    f16 (fun m x y z => ffma fp16 m x y z) rfl, launchesRow_vOp2f h 4 (fun x y => lane32 (fminmax false x.toNat y.toNat)) rfl,
    launchesRow_vOp2f h 4 (fun x y => lane32 (fminmax true x.toNat y.toNat)) rfl⟩

end Sys2Proof.Claims
end

section
/-! SUPPORT. The special functions (08 R172). -/

open Sys2Proof.Machine

namespace Sys2Proof.Claims

section Words
variable {i : Instr} {s : State} (h : StillRows s) {d : Fin 64} {a : Sel}
include h

theorem special_f32 (g : FFmt → FV → Nat × Flags) (hi : exec i s = issueWords [vSpecial g d a .f32] s) :
    LaunchesRow i s d (12 + extra [a]) s.me.em false fun x f =>
      let r := fun k : Fin 64 => g fp32 (fp32.dec (s.me.at_ a k).toNat)
      f = flagsOf s.me.em (fun k => (r k).2) ∧ ∀ k : Fin 64, s.me.em.getLsbD k → x[k] = BitVec.ofNat 32 (r k).1 :=
  launchesRow_vLanes 12 [a] _ (fun k => lane32 (g fp32 (fp32.dec (s.me.at_ a k).toNat))) hi fun k _ => by
    rw [rSel_of_stillRows h]

/-- A lane word that evaluates `g` on both elements of each pair. -/
theorem special_pair (z : FFmt) (g : FFmt → FV → Nat × Flags)
    (hi : exec i s = issueWords [vLanes 12 [a] d fun i k =>
      pair16 (g z (z.dec (el 16 0 (i.rSel a k)))) (g z (z.dec (el 16 1 (i.rSel a k))))] s) :
    let r := fun (k : Fin 64) (j : Nat) => g z (z.dec ((s.me.at_ a k).extractLsb' (16 * j) 16).toNat)
    LaunchesRow i s d (12 + extra [a]) s.me.em false fun x f =>
      f = flagsOf s.me.em (fun k => (r k 0).2 ||| (r k 1).2) ∧ ∀ k : Fin 64, s.me.em.getLsbD k → ∀ j, j < 2 →
        (x[k]).extractLsb' (16 * j) 16 = BitVec.ofNat 16 (r k j).1 := by
  extract_lets r
  refine launchesRow_pairs (r := r) (launchesRow_vLanes 12 [a] _ (fun k => pair16 (r k 0) (r k 1)) hi fun k _ => ?_)
  simp only [rSel_of_stillRows h, el_eq_extractLsb', r]

end Words

/-- Settles O17: each function is evaluated on the lanes, or on the elements of the pairs, of the source. -/
theorem vectorSpecialResult : Obligations.VectorSpecialResult := by
  intro s d a h
  have all {i : SfFmt → Instr} g (hi : ∀ z, exec (i z) s = issueWords [vSpecial g d a z] s) :=
    And.intro (special_f32 h g (hi .f32)) (And.intro (special_pair h bf16 g (hi .bf16)) (special_pair h fp16 g (hi .f16)))
  exact ⟨all sfRcp fun _ => rfl, all sfRsq fun _ => rfl, all sfSqrt fun _ => rfl, all sfExp2 fun _ => rfl, all sfLog2 fun _ => rfl,
    all (sfTrig false) fun _ => rfl, all (sfTrig true) fun _ => rfl, all sfTanh fun _ => rfl⟩

end Sys2Proof.Claims
end

section
/-! SUPPORT. Lane movement, extraction, insertion and counts (08 R173, R174, R176). -/

open Sys2Proof.Claims

namespace Sys2Proof.Machine

/-- The copies of a halfword that VBCST puts in a lane. -/
theorem bcst_h (x : W64) : bcst .h x = (x.setWidth 16 ++ x.setWidth 16 : BitVec 32) := by
  refine BitVec.eq_of_toNat_eq ?_
  simp only [bcst, bf_zero, toNat_append_eq, BitVec.toNat_ofNat, BitVec.toNat_setWidth]
  omega

theorem bcst_b (x : W64) : bcst .b x = (x.setWidth 8 ++ x.setWidth 8 ++ x.setWidth 8 ++ x.setWidth 8 : BitVec 32) := by
  refine BitVec.eq_of_toNat_eq ?_
  simp only [bcst, bf_zero, toNat_append_eq, BitVec.toNat_ofNat, BitVec.toNat_setWidth]
  omega

/-- A lane whose number is taken modulo 64. -/
theorem rSel_mod_of_stillRows {s : State} (h : StillRows s) (a : Sel) (n : Nat) :
    (s.iss s.cur).rSel a (n % 64) = s.me.at_ a (Fin.ofNat 64 n) := rSel_of_stillRows h a (Fin.ofNat 64 n)

theorem ofNat_two_pow (w n : Nat) : BitVec.ofNat w (2 ^ n) = BitVec.twoPow w n :=
  BitVec.eq_of_toNat_eq (by rw [BitVec.toNat_ofNat, BitVec.toNat_twoPow])

/-- The set bits below bit `k`. -/
theorem popCount_and_low (x : W64) {k : Nat} (hk : k ≤ 64) :
    popCount (x &&& BitVec.ofNat 64 (2 ^ k - 1)) = (List.range k).countP fun j => x.getLsbD j := by
  obtain ⟨n, hn⟩ := Nat.exists_eq_add_of_le hk
  have hbit : ∀ j, j < 64 → (x &&& BitVec.ofNat 64 (2 ^ k - 1)).getLsbD j = (x.getLsbD j && decide (j < k)) := fun j hj => by
    rw [BitVec.getLsbD_and, BitVec.getLsbD_ofNat, decide_eq_true hj, Bool.true_and, Nat.testBit_two_pow_sub_one]
  have hlow : (List.range k).countP (fun j => (x &&& BitVec.ofNat 64 (2 ^ k - 1)).getLsbD j) = (List.range k).countP fun j => x.getLsbD j :=
    List.countP_congr fun j hj => by
      have hj := List.mem_range.1 hj
      rw [hbit j (by omega), decide_eq_true hj, Bool.and_true]
  have hhigh : ((List.range n).map fun j => k + j).countP (fun j => (x &&& BitVec.ofNat 64 (2 ^ k - 1)).getLsbD j) = 0 := by
    refine List.countP_eq_zero.2 fun j hj => ?_
    obtain ⟨i, hi, rfl⟩ := List.mem_map.1 hj
    have hi := List.mem_range.1 hi
    rw [hbit _ (by omega), decide_eq_false (by omega), Bool.and_false]
    exact Bool.false_ne_true
  have hsplit : List.range 64 = List.range k ++ (List.range n).map fun j => k + j := hn ▸ List.range_add
  rw [popCount_eq_countP, hsplit, List.countP_append, hlow, hhigh, Nat.add_zero]

/-- Adding up over the lanes that `p` picks. -/
theorem foldl_add_if {α : Type} (p : α → Bool) (f : α → Nat) (l : List α) :
    l.foldl (fun n k => if p k = true then n + f k else n) 0 = ((l.filter p).map f).sum := by
  rw [← List.foldl_filter, List.sum_eq_foldl, List.foldl_map]

end Sys2Proof.Machine

namespace Sys2Proof.Claims

open Sys2Proof.Machine

section Words
variable {s : State} (h : StillRows s) {c : Fin 32} (hc : Still s c) (d : Fin 64) (sd : Fin 32) (a b : Sel)

section
include h

theorem vperm_launches : LaunchesRow (.vperm d a b) s d (6 + extra [a, b]) s.me.em false fun r g => g = 0 ∧
    ∀ k : Fin 64, s.me.em.getLsbD k →
      r[k] = if (s.me.at_ b k).getLsbD 6 = true then 0 else s.me.at_ a (Fin.ofNat 64 (s.me.at_ b k).toNat) :=
  launchesRow_vLanes_pure 6 [a, b] (fun i k => (if (i.rSel b k).getLsbD 6 then 0 else i.rSel a ((i.rSel b k).toNat % 64), 0)) _ rfl
    fun k _ => by rw [rSel_of_stillRows h b, rSel_mod_of_stillRows h a]

theorem vpopc_launches : LaunchesScalar (.vpopc sd a) s sd
    (BitVec.ofNat 64 (((List.finRange 64).filter fun k : Fin 64 => s.me.em.getLsbD k).map
      fun k => (List.range 32).countP fun j => (s.me.at_ a k).getLsbD j).sum) (2 + extra [a]) := by
  refine launchesScalar_of_eff (e := effVpopc sd a) rfl ?_
  have hem : (s.iss s.cur).em = s.me.em := rfl
  rw [effVpopc, foldl_range_eq_finRange, ← viewExtra_eq_extra, ← foldl_add_if]
  simp only [rSel_of_stillRows h, popCount_eq_countP, hem]

include hc

theorem vrot_launches : LaunchesRow (.vrot d a c) s d (6 + extra [a]) s.me.em false fun r g => g = 0 ∧
    ∀ k : Fin 64, s.me.em.getLsbD k → r[k] = s.me.at_ a (Fin.ofNat 64 (k + 64 - (s.me.rd c).toNat % 64)) :=
  launchesRow_vLanes_pure 6 [a] (fun i k => (i.rSel a ((k + 64 - (i.rS c).toNat % 64) % 64), 0)) _ rfl fun k _ => by
    rw [hc.rS, rSel_mod_of_stillRows h a]

theorem vext_launches (sg : Bool) :
    LaunchesScalar (.vext sg sd a c) s sd (extS sg (s.me.at_ a (Fin.ofNat 64 (s.me.rd c).toNat))) (6 + extra [a]) :=
  launchesScalar_of_eff (e := effVext sg sd a c) rfl (by
    rw [effVext, hc.rS, rSel_mod_of_stillRows h a, viewExtra_eq_extra])

end

include hc in
/-- VINS writes one lane, if EM enables it. -/
theorem vins_launches (n : Fin 64) : LaunchesRow (.vins d c n) s d 2 (s.me.em &&& BitVec.twoPow 64 n) false fun r g =>
    g = 0 ∧ r[n] = (s.me.rd c).setWidth 32 :=
  launchesRow_of_eff (reads := false) (e := effVins d c n) rfl (by rw [effVins, hc.rS, ofNat_two_pow]; rfl)
    ⟨rfl, rowOf_getElem (fun _ => (s.me.rd c).setWidth 32) n⟩

end Words

/-- Settles O18: each word reads its lanes, its register and CM as they stand, and gives what its rule makes of them. -/
theorem vectorLaneResult : Obligations.VectorLaneResult := by
  intro s d sd a b c n z sg h hc
  have plain := fun {i} f F => launchesRow_vLanes_pure (i := i) (s := s) (d := d) 2 [] f F
  exact ⟨vperm_launches h d a b, vrot_launches h hc d a,
    plain (fun i _ => (bcst z (i.rS c), 0)) _ rfl fun _ _ => by
      rw [hc.rS]
      cases z with
      | w => rfl
      | h => exact congrArg (·, 0) (bcst_h _)
      | b => exact congrArg (·, 0) (bcst_b _),
    vext_launches h hc sd a sg, vins_launches hc d n, vpopc_launches h sd a,
    plain (fun _ k => (BitVec.ofNat 32 k, 0)) _ rfl fun _ _ => rfl,
    fun hcm => plain (fun i k => (BitVec.ofNat 32 (popCount (i.cm &&& BitVec.ofNat 64 (2 ^ k - 1))), 0)) _ rfl fun k _ => by
      rw [hcm.cm, popCount_and_low _ k.isLt.le]⟩

end Sys2Proof.Claims
end

section
/-! SUPPORT. The tree of a reduction (08 R175): where its nodes are an associative function with an identity, it gives what the lanes give
one after the other. -/

open Sys2Proof.Claims

namespace Sys2Proof.Machine

/-- What a node gives is `g` of its two sources, seen through `φ`, and raises no flag; the identity stands for a masked lane. -/
structure FoldsBy {β : Type} (op : RedOp) (φ : W32 → β) (g : β → β → β) : Prop where
  node : ∀ x y, φ (redNode op x y).1 = g (φ x) (φ y)
  flags : ∀ x y, (redNode op x y).2 = 0
  assoc : ∀ u v w, g (g u v) w = g u (g v w)
  id_left : ∀ x, g (φ (redId op)) (φ x) = φ x
  id_right : ∀ x, g (φ x) (φ (redId op)) = φ x

/-- A level halves the entries. -/
theorem redLevel_length (op : RedOp) (n : Nat) (xs : List W32) (h : xs.length = 2 * n) : (redLevel op xs).1.length = n := by
  induction n generalizing xs with
  | zero => rw [List.eq_nil_of_length_eq_zero h]; rfl
  | succ n ih =>
    match xs, h with
    | x :: y :: rest, h => exact congrArg (· + 1) (ih rest (by simp only [List.length_cons] at h; omega))

/-- The tree over 2^n entries has one root. -/
theorem redTree_length (op : RedOp) (n : Nat) (xs : List W32) (fl : Flags) (h : xs.length = 2 ^ n) : (redTree op n xs fl).1.length = 1 := by
  induction n generalizing xs fl with
  | zero => exact h
  | succ n ih => exact ih _ _ (redLevel_length op (2 ^ n) xs (by rw [h, Nat.pow_succ, Nat.mul_comm]))

section Folds
variable {β : Type} {op : RedOp} {φ : W32 → β} {g : β → β → β} (h : FoldsBy op φ g)
include h

theorem FoldsBy.level (xs : List W32) :
    (redLevel op xs).2 = 0 ∧ ∀ m, (redLevel op xs).1.foldl (fun m x => g m (φ x)) m = xs.foldl (fun m x => g m (φ x)) m := by
  induction xs using redLevel.induct op with
  | case1 x y rest ih =>
    refine ⟨?_, fun m => ?_⟩
    · rw [redLevel, h.flags, ih.1]; rfl
    · rw [redLevel, List.foldl_cons, ih.2, h.node, ← h.assoc]; rfl
  | case2 xs hxs => rw [redLevel.eq_2 _ _ hxs]; exact ⟨rfl, fun _ => rfl⟩

theorem FoldsBy.tree (n : Nat) (xs : List W32) (fl : Flags) :
    (redTree op n xs fl).2 = fl ∧ ∀ m, (redTree op n xs fl).1.foldl (fun m x => g m (φ x)) m = xs.foldl (fun m x => g m (φ x)) m := by
  induction n generalizing xs fl with
  | zero => exact ⟨rfl, fun _ => rfl⟩
  | succ n ih =>
    obtain ⟨hfl, hfold⟩ := h.level xs
    obtain ⟨hfl', hfold'⟩ := ih (redLevel op xs).1 (fl ||| (redLevel op xs).2)
    exact ⟨hfl'.trans (by rw [hfl]; exact BitVec.or_zero), fun m => (hfold' m).trans (hfold m)⟩

/-- Masked lanes leave what the enabled lanes give. -/
theorem FoldsBy.masked {α : Type} (p : α → Bool) (x : α → W32) (l : List α) (w : W32) :
    l.foldl (fun m k => g m (φ (if p k = true then x k else redId op))) (φ w) =
      l.foldl (fun m k => if p k = true then g m (φ (x k)) else m) (φ w) := by
  induction l generalizing w with
  | nil => rfl
  | cons k l ih =>
    rw [List.foldl_cons, List.foldl_cons]
    split
    · rw [← h.node]; exact ih _
    · rw [h.id_right]; exact ih _

/-- The root over the lanes, of which the masked ones stand as the identity. -/
theorem FoldsBy.root (p : Fin 64 → Bool) (x : Fin 64 → W32) :
    let r := redTree op 6 ((List.finRange 64).map fun k => if p k = true then x k else redId op) 0
    r.2 = 0 ∧ φ (r.1.headD 0) = (List.finRange 64).foldl (fun m k => if p k = true then g m (φ (x k)) else m) (φ (redId op)) := by
  obtain ⟨hfl, hfold⟩ := h.tree 6 ((List.finRange 64).map fun k => if p k = true then x k else redId op) 0
  obtain ⟨v, hv⟩ := List.length_eq_one_iff.1 (redTree_length op 6
    ((List.finRange 64).map fun k => if p k = true then x k else redId op) 0 (by rw [List.length_map, List.length_finRange]; rfl))
  refine ⟨hfl, ?_⟩
  have hroot := hfold (φ (redId op))
  rw [List.foldl_map, h.masked, hv, List.foldl_cons, List.foldl_nil, h.id_left] at hroot
  rw [hv]
  exact hroot

end Folds

/-! ## The integer reductions -/

theorem addI32_folds : FoldsBy .addI32 id (· + ·) :=
  ⟨fun _ _ => rfl, fun _ _ => rfl, BitVec.add_assoc, fun _ => BitVec.zero_add _, fun _ => BitVec.add_zero _⟩

theorem toInt_range (x : W32) : -2 ^ 31 ≤ x.toInt ∧ x.toInt ≤ 2 ^ 31 - 1 :=
  ⟨BitVec.le_toInt x, Int.le_sub_one_of_lt (BitVec.toInt_lt (x := x))⟩

theorem minI32_folds : FoldsBy .minI32 BitVec.toInt min where
  node x y := by rw [redNode, minBy_slt, apply_ite BitVec.toInt, min_def]
  flags _ _ := rfl
  assoc := min_assoc
  id_left x := min_eq_right (toInt_range x).2
  id_right x := min_eq_left (toInt_range x).2

theorem maxI32_folds : FoldsBy .maxI32 BitVec.toInt max where
  node x y := by rw [redNode, maxBy_slt, apply_ite BitVec.toInt, max_def]
  flags _ _ := rfl
  assoc := max_assoc
  id_left x := max_eq_right (toInt_range x).1
  id_right x := max_eq_left (toInt_range x).1

theorem minuI32_folds : FoldsBy .minuI32 (fun x => (x.toNat : Int)) min where
  node x y := by rw [redNode, minBy_ult, apply_ite BitVec.toNat, ← min_def, Nat.cast_min]
  flags _ _ := rfl
  assoc := min_assoc
  id_left x := min_eq_right (Int.ofNat_le.2 (Nat.le_pred_of_lt x.isLt))
  id_right x := min_eq_left (Int.ofNat_le.2 (Nat.le_pred_of_lt x.isLt))

theorem maxuI32_folds : FoldsBy .maxuI32 (fun x => (x.toNat : Int)) max where
  node x y := by rw [redNode, maxBy_ult, apply_ite BitVec.toNat, ← max_def, Nat.cast_max]
  flags _ _ := rfl
  assoc := max_assoc
  id_left x := max_eq_right (Int.natCast_nonneg _)
  id_right x := max_eq_left (Int.natCast_nonneg _)

end Sys2Proof.Machine
end

section
/-! SUPPORT. VRED (08 R175). -/

open Sys2Proof.Machine

namespace Sys2Proof.Claims

section Words
variable {s : State} (h : StillRows s) (d : Fin 32) (a : Sel)
include h

/-- What VRED puts in flight is the root of the tree over the lanes. -/
theorem effVred_eq (op : RedOp) :
    let r := redTree op 6 ((List.finRange 64).map fun k : Fin 64 => if s.me.em.getLsbD k then s.me.at_ a k else redId op) 0
    effVred op d a (s.iss s.cur) s.out0 = .ok (s.out0.fS d (extS (redSigned op) (r.1.headD 0)) (6 + extra [a]) r.2) := by
  have hem : (s.iss s.cur).em = s.me.em := rfl
  rw [effVred, ← List.map_coe_finRange_eq_range, List.map_map, viewExtra_eq_extra]
  simp only [Function.comp_def, rSel_of_stillRows h, hem]

/-- A reduction whose nodes raise no flag. -/
theorem vred_launches {β : Type} {op : RedOp} {φ : W32 → β} {g : β → β → β} (hop : FoldsBy op φ g) :
    ∃ v : W32, LaunchesScalar (.vred op d a) s d (extS (redSigned op) v) (6 + extra [a]) ∧
      φ v = (List.finRange 64).foldl (fun m (k : Fin 64) => if s.me.em.getLsbD k then g m (φ (s.me.at_ a k)) else m) (φ (redId op)) := by
  obtain ⟨hfl, hv⟩ := hop.root (fun k => s.me.em.getLsbD k) (s.me.at_ a)
  exact ⟨_, launchesScalar_of_eff (e := effVred op d a) rfl ((effVred_eq h d a op).trans (by rw [hfl])), hv⟩

end Words

/-- Settles O19: the root of the tree is in flight with the flags of its nodes; of the integer operations it is what the enabled lanes give
one after the other. -/
theorem vectorReduceResult : Obligations.VectorReduceResult := by
  intro s d a h
  refine ⟨vred_launches h d a addI32_folds, vred_launches h d a minI32_folds, vred_launches h d a maxI32_folds,
    vred_launches h d a minuI32_folds, vred_launches h d a maxuI32_folds, fun op hop => ?_⟩
  have hsigned : redSigned op = false := by obtain rfl | rfl | rfl := hop <;> rfl
  obtain ⟨t, ht, hgo, honly, hme⟩ :=
    leavesMe_of_eff (e := effVred op d a) (i := .vred op d a) rfl (effVred_eq h d a op) rfl ⟨rfl, rfl, rfl, rfl, rfl, rfl⟩ rfl
  have hleft : 6 + extra [a] - 1 = 5 + extra [a] := by omega
  refine ⟨t, ht, hgo, honly, hme.trans ?_⟩
  rw [hsigned, ← hleft]
  rfl

end Sys2Proof.Claims
end

section
/-! SUPPORT. What it is to keep physical memory in its canonical form (09 R198): for an outcome, an end, a trial, a happening. The sections
below say it once of each function of the model that answers a state, in the model's order: `f_mem` where it leaves memory as it is,
`f_canonical` where it writes, through `State.wr` or a filter. -/

namespace Sys2Proof.Machine

theorem foldl_mem {α : Type} {f : State → α → State} (hf : ∀ s a, (f s a).mem = s.mem) (l : List α) (s : State) :
    (l.foldl f s).mem = s.mem := by
  induction l generalizing s with
  | nil => rfl
  | cons a l ih => exact (ih _).trans (hf s a)

theorem foldl_fst_mem {α β : Type} {f : State × β → α → State × β} (hf : ∀ p a, (f p a).1.mem = p.1.mem) (l : List α)
    (p : State × β) : (l.foldl f p).1.mem = p.1.mem := by
  induction l generalizing p with
  | nil => rfl
  | cons a l ih => exact (ih _).trans (hf p a)

theorem foldl_canonical {α : Type} {f : State → α → State} (hf : ∀ s a, s.canonical → (f s a).canonical) (l : List α) {s : State}
    (h : s.canonical) : (l.foldl f s).canonical := by
  induction l generalizing s with
  | nil => exact h
  | cons a l ih => exact ih (hf s a h)

theorem foldl_fst_canonical {α β : Type} {f : State × β → α → State × β} (hf : ∀ p a, p.1.canonical → (f p a).1.canonical)
    (l : List α) {p : State × β} (h : p.1.canonical) : (l.foldl f p).1.canonical := by
  induction l generalizing p with
  | nil => exact h
  | cons a l ih => exact ih (hf p a h)

/-- A happening keeps memory in its canonical form. -/
def KeepsCanonical (a : Act) : Prop := ∀ s t, s.canonical → a s = .next t → t.canonical

/-- Every state of a word's end stands in canonical form. -/
def Res.canonical : Res → Prop
  | .ok o => o.s.canonical
  | .trap _ => True
  | .wait s _ => s.canonical

/-- Every state of a bundle's end stands in canonical form. -/
def Ended.canonical : Ended → Prop
  | .done s => s.canonical
  | .raised s _ => s.canonical
  | .trap _ => True
  | .wait s _ => s.canonical

/-- The same of a member's bundle. -/
def MemEnd.canonical : MemEnd → Prop
  | .done s _ => s.canonical
  | .trap _ => True
  | .wait s _ => s.canonical

/-- The same of a trial of the bundle at hand. -/
def Trial.canonical : Trial → Prop
  | .notReady s => s.canonical
  | .ready s _ _ => s.canonical
  | .trap s _ => s.canonical
  | .wait s => s.canonical

/-- The same of an advance. -/
def Adv.canonical (v : Adv) : Prop := v.s.canonical ∧ ∀ s ∈ v.wait, s.canonical

/-- A word's effect keeps memory in its canonical form. -/
def Eff.KeepsCanonical (e : Eff) : Prop := ∀ i o, i.s.canonical → o.s.canonical → (e i o).canonical

theorem andThen_canonical {o : Host.Outcome State Fault Refusal} {f : State → Host.Outcome State Fault Refusal} {t : State}
    (ho : ∀ s, o = .next s → s.canonical) (hf : ∀ s t, s.canonical → f s = .next t → t.canonical) (ht : andThen o f = .next t) :
    t.canonical := by
  cases o with
  | next s => exact hf s t (ho s rfl) ht
  | fault r => cases ht
  | refused r => cases ht

theorem State.ite_mem {c : Prop} [Decidable c] {s t u : State} (hs : s.mem = u.mem) (ht : t.mem = u.mem) :
    (if c then s else t).mem = u.mem := by
  split
  · exact hs
  · exact ht

theorem State.wr_canonical {s : State} (tag : BitVec 12) (pa : Nat) (bs : List Byte) (h : s.canonical) : (s.wr tag pa bs).canonical :=
  State.wr_wf tag pa bs h

theorem State.canonical_ite {c : Prop} [Decidable c] {s t : State} (hs : s.canonical) (ht : t.canonical) :
    (if c then s else t).canonical := by
  split
  · exact hs
  · exact ht

theorem State.canonical_elim {α : Type} {s : State} {f : α → State} (hs : s.canonical) (hf : ∀ a, (f a).canonical) (o : Option α) :
    (o.elim s f).canonical := by
  cases o with
  | none => exact hs
  | some a => exact hf a

theorem State.canonical_of_mem {s t : State} (h : t.mem = s.mem) (hs : s.canonical) : t.canonical := by
  rwa [State.canonical, h]

end Sys2Proof.Machine
end

section
/-! SUPPORT. Accesses, fetches, loads and the end of a bundle keep physical memory in its canonical form (04; 05; 09 R198). -/

namespace Sys2Proof.Machine

/-! ## Operations over the state -/

theorem State.upKernel_mem (s : State) (k : Nat) (f : Kernel → Kernel) : (s.upKernel k f).mem = s.mem := by
  grind [State.upKernel, State.setKernel_mem]

theorem State.upCtxs_mem (s : State) (f : Ctx → Ctx) (l : List Nat) : (s.upCtxs f l).mem = s.mem := by
  fun_induction State.upCtxs s f l <;> grind [State.upCtx_mem]

theorem State.dropCopies_mem (s : State) (kid : Nat) (l : List Nat) : (s.dropCopies kid l).mem = s.mem := by
  fun_induction State.dropCopies s kid l <;> grind [State.upCore_mem]

theorem State.trapKill_mem (s : State) (x : Nat) (t : Trap) : (s.trapKill x t).mem = s.mem := by
  grind [State.trapKill, State.setCtx_mem, State.mem_kill]

theorem State.takeTrap_mem (s : State) (x : Nat) (t : Trap) : (s.takeTrap x t).mem = s.mem :=
  State.ite_mem (State.setCtx_mem ..) (State.trapKill_mem ..)

theorem State.cutPair_mem (s : State) (x : Nat) : (s.cutPair x).mem = s.mem := rfl

theorem State.gangTrap_mem (s : State) (us : List Nat) (rs : List (Nat × Trap)) : (s.gangTrap us rs).mem = s.mem := by
  grind [State.gangTrap.eq_def, State.trapKill_mem, State.upCtxs_mem, State.upCtx_mem, State.cutPair_mem, foldl_mem]

theorem State.trapIn_mem (s : State) (x : Nat) (t : Trap) : (s.trapIn x t).mem = s.mem :=
  State.ite_mem (State.takeTrap_mem ..) (State.gangTrap_mem ..)

/-! ## Translation -/

theorem State.tlbFill_mem (s : State) (k asid : Nat) (world : Bool) (x : Xl) : (s.tlbFill k asid world x).mem = s.mem :=
  (State.tlbFill_fetches ..).mem

theorem State.l2Fill_mem (s : State) (d asid : Nat) (world : Bool) (x : Xl) : (s.l2Fill d asid world x).mem = s.mem :=
  (State.l2Fill_fetches ..).mem

theorem State.setWalks_mem (s : State) (d : Nat) (ws : List Walk) : (s.setWalks d ws).mem = s.mem := rfl

theorem State.walkEnds_mem (s : State) (d : Nat) (w : Walk) (r : Except XFault Xl) : (s.walkEnds d w r).mem = s.mem :=
  (State.walkEnds_fetches ..).mem

theorem State.endWalks_mem (d n : Nat) (s : State) : (s.endWalks d n).mem = s.mem := (State.endWalks_fetches ..).mem

theorem State.missWalk_mem (s : State) (d asid : Nat) (world : Bool) (va : Nat) : (s.missWalk d asid world va).1.mem = s.mem :=
  (State.missWalk_fetches ..).mem

theorem State.walkBegins_mem (s : State) (d asid : Nat) (world : Bool) (va : Nat) : (s.walkBegins d asid world va).mem = s.mem := by
  grind [State.walkBegins, State.setWalks_mem]

theorem State.walkSteps_mem (s : State) (d j : Nat) : (s.walkSteps d j).mem = s.mem := by
  grind [State.walkSteps, State.walkEnds_mem, State.setWalks_mem]

theorem State.lookup_mem (s : State) (k asid : Nat) (world : Bool) (va : Nat) : (s.lookup k asid world va).1.mem = s.mem :=
  (State.lookup_fetches ..).mem

theorem State.translate_mem (s : State) (k asid : Nat) (world : Bool) (acc : Machine.Acc) (va : Nat) :
    (s.translate k asid world acc va).1.mem = s.mem :=
  (State.translate_fetches ..).mem

theorem State.msi_mem (s : State) (v : BitVec 16) : (s.msi v).mem = s.mem := rfl

theorem State.park_canonical (s : State) (asid acc : Nat) (page : W32) (h : s.canonical) {t : State} (ht : s.park asid acc page = some t) :
    t.canonical := by
  grind [State.park, State.canonical, State.msi_mem, State.upSys_mem, State.wr_canonical]

/-! ## Accumulator cells -/

theorem State.cellAdd_canonical (s : State) (tag : BitVec 12) (pa : Nat) (e : BitVec 10) (x : FV) (h : s.canonical) :
    (s.cellAdd tag pa e x).canonical := by
  grind [State.cellAdd, State.canonical, State.wr_canonical]

/-! ## Fetching -/

theorem State.icacheLine_mem (s : State) (k l : Nat) : (s.icacheLine k l).1.mem = s.mem := (State.icacheLine_fetches ..).mem

theorem State.fetchPacket_mem (s : State) (x pk : Nat) : (s.fetchPacket x pk).1.mem = s.mem := (State.fetchPacket_fetches ..).mem

theorem State.packet_mem (s : State) (x pk : Nat) : (s.packet x pk).1.mem = s.mem := by
  grind [State.packet, State.fetchPacket_mem, State.upCtx_mem]

theorem State.beginAt_mem (s : State) (x a : Nat) : (s.beginAt x a).1.mem = s.mem := by
  grind [State.beginAt, State.packet_mem]

theorem State.succOf_mem (s : State) (x a : Nat) : (s.succOf x a).1.mem = s.mem := by
  grind [State.succOf, State.packet_mem]

/-! ## Global loads -/

theorem State.l1Read_mem (s : State) (k pa n : Nat) (refill : Bool) : (s.l1Read k pa n refill).1.mem = s.mem := by
  grind [State.l1Read, State.upCore_mem]

theorem State.l1Fill_mem (s : State) (k l : Nat) (gs : BitVec 8) : (s.l1Fill k l gs).mem = s.mem := by
  grind [State.l1Fill, State.upCore_mem]

theorem State.refRead_keeps_mem (s : State) (k : Nat) (f refill : Bool) (n : Nat) (g : GRef) :
    (s.refRead k f refill n g).1.mem = s.mem := by
  grind [State.refRead.eq_def, State.l1Read_mem]

theorem State.readLanes_mem (k : Nat) (f refill : Bool) (n : Nat) (now : Nat × GRef → Bool) (l : List (Nat × GRef)) (s : State) :
    (s.readLanes k f refill n now l).1.mem = s.mem := by
  fun_induction State.readLanes k f refill n now l s <;> grind [State.refRead_keeps_mem]

theorem State.settleReads_mem (k : Nat) (l : List Pend) (s : State) : (s.settleReads k l).1.mem = s.mem := by
  fun_induction State.settleReads k l s <;> grind [State.readLanes_mem]

theorem State.settleLoads_mem (s : State) (x : Nat) (is : List Instr) : (s.settleLoads x is).mem = s.mem :=
  State.ite_mem ((State.upCtx_mem ..).trans (State.settleReads_mem ..)) rfl

/-! ## The end of a bundle -/

theorem State.landVal_mem (s : State) (x : Nat) (v : FVal) (lanes : W64) (fl : Flags) (alone : Bool) :
    (s.landVal x v lanes fl alone).mem = s.mem :=
  State.ite_mem (State.upCtx_mem ..) (State.setCtx_mem ..)

theorem State.landMirror_mem (s : State) (x : Nat) (d : Dest) (em : W64) : (s.landMirror x d em).mem = s.mem := by
  grind [State.landMirror, State.landVal_mem, State.upCtx_mem]

theorem State.landAnswers_mem (s : State) (x : Nat) (l : List Pend) : (s.landAnswers x l).mem = s.mem := by
  fun_induction State.landAnswers s x l <;> grind [State.landVal_mem]

theorem State.landMirrors_mem (s : State) (x : Nat) (l : List Pend) : (s.landMirrors x l).mem = s.mem := by
  fun_induction State.landMirrors s x l <;> grind [State.landMirror_mem]

theorem State.retireCtx_mem (s : State) (x : Nat) : (s.retireCtx x).mem = s.mem :=
  (State.upCtx_mem ..).trans ((State.landMirrors_mem ..).trans (State.landAnswers_mem ..))

theorem State.parkFetch_canonical {s : State} (h : s.canonical) (x a : Nat) : (s.parkFetch x a).canonical := by
  grind [State.parkFetch, Ended.canonical, State.park_canonical]

theorem jumpTo_canonical {i : Iss} {s : State} (hi : i.s.canonical) (h : s.canonical) (c : Ctx) (a : W64) :
    (jumpTo i s c a).canonical := by
  grind [jumpTo, State.canonical, Ended.canonical, State.setCtx_mem, State.packet_mem, State.parkFetch_canonical]

theorem finish_canonical {i : Iss} {o : Out} (hi : i.s.canonical) (ho : o.s.canonical) : (finish i o).canonical := by
  grind [finish, State.canonical, Ended.canonical, State.setCtx_mem, State.upCtx_mem, State.retireCtx_mem, State.succOf_mem, jumpTo_canonical,
    State.parkFetch_canonical]

theorem runEffs_canonical {es : List Eff} (hes : ∀ e ∈ es, Eff.KeepsCanonical e) {i : Iss} {o : Out} (hi : i.s.canonical)
    (ho : o.s.canonical) : (runEffs es i o).canonical := by
  induction es generalizing o with
  | nil => exact ho
  | cons e es ih =>
    have he := hes e List.mem_cons_self i o hi ho
    grind [runEffs, Res.canonical]

theorem tryWords_canonical {es : List Eff} (hes : ∀ e ∈ es, Eff.KeepsCanonical e) {s : State} (h : s.canonical) (x : Nat) :
    (tryWords es s x).canonical := by
  have := runEffs_canonical hes (i := s.iss x) (o := { c := (s.iss x).c, s := s, next := .seq, sig := [] }) h h
  have hi : (s.iss x).s.canonical := h
  grind [tryWords, Res.canonical, Ended.canonical, finish_canonical]

theorem Ended.outcome_canonical (s : State) (x : Nat) (h : s.canonical) {e : Ended} (he : e.canonical) {t : State}
    (ht : e.outcome s x = .next t) : t.canonical := by
  cases e <;> grind [Ended.outcome, Ended.canonical, State.canonical, State.draw_mem, State.takeTrap_mem, State.upCtx_mem]

theorem issueWords_canonical {es : List Eff} (hes : ∀ e ∈ es, Eff.KeepsCanonical e) {s t : State} (h : s.canonical)
    (ht : issueWords es s = .next t) : t.canonical :=
  Ended.outcome_canonical s s.cur h (tryWords_canonical hes h s.cur) ht

end Sys2Proof.Machine
end

section
/-! SUPPORT. Tables, the matrix array, fabric words and phasers keep physical memory in its canonical form (10; 12; 13). -/

namespace Sys2Proof.Machine

/-! ## Handles -/

theorem State.upHandle_mem (s : State) (k : Nat) (h : Fin 96) (f : Handle → Handle) : (s.upHandle k h f).mem = s.mem := rfl

/-! ## Scale tables -/

theorem State.scStale_mem (s : State) (k off n : Nat) : (s.scStale k off n).mem = s.mem := State.ite_mem rfl (State.setGroup_mem ..)

theorem State.spStore_mem (s : State) (k off : Nat) (bs : List Byte) : (s.spStore k off bs).mem = s.mem :=
  (State.upCore_mem ..).trans (State.scStale_mem ..)

theorem State.feMark_mem (s : State) (k off n : Nat) (fe : Option Bool) : (s.feMark k off n fe).mem = s.mem := by
  grind [State.feMark.eq_def, State.upCore_mem]

theorem State.engStore_mem (s : State) (k off : Nat) (bs : List Byte) : (s.engStore k off bs).mem = s.mem := by
  grind [State.engStore, State.feMark_mem, State.spStore_mem]

/-! ## Translation faults of a load -/

theorem readRefs_mem (k asid : Nat) (world : Bool) (l : List (Nat × W64)) (s : State) : (readRefs k asid world l s).1.mem = s.mem := by
  fun_induction readRefs k asid world l s <;> grind [State.translate_mem]

/-! ## Scale tables and claims -/

theorem State.releaseClaim_mem (s : State) (k : Nat) (check : Bool) : (s.releaseClaim k check).mem = s.mem := by
  grind [State.releaseClaim, State.upCore_mem, State.setGroup_mem]

theorem State.scDrop_mem (s : State) (x t : Nat) : (s.scDrop x t).mem = s.mem := rfl

/-! ## The matrix array -/

theorem State.post_mem (s : State) (m : PhMsg) : (s.post m).mem = s.mem := rfl

theorem State.arrive_mem (s : State) (k : Nat) (arr : Option Arrive) (f : Option FaultRec) : (s.arrive k arr f).mem = s.mem := by
  grind [State.arrive.eq_def, State.post_mem]

theorem State.failRetired_mem (s : State) (x : Nat) (o : Occ) (f : FaultRec) : (s.failRetired x o f).mem = s.mem := State.mem_kill ..

theorem State.keepRecs_mem (s : State) (x a n : Nat) : (s.keepRecs x a n).mem = s.mem := rfl

theorem State.cDrain_mem (s : State) (k : Nat) (r : Vector W64 16) (check : Bool) (acc : List W32) :
    (s.cDrain k r check acc).mem = s.mem := by
  grind [State.cDrain, State.upCore_mem, foldl_mem]

theorem State.tileFlags_mem (s : State) (c : Nat) (check : Bool) (f : Flags) : (s.tileFlags c check f).mem = s.mem :=
  State.ite_mem (State.upCore_mem ..) rfl

theorem State.upHead_mem (s : State) (x : Nat) (f : MxCmd → MxCmd) : (s.upHead x f).mem = s.mem := rfl

theorem execMxRunStart_canonical (g : Nat) : KeepsCanonical (execMxRunStart g) := by
  intro s t h ht
  grind [execMxRunStart, State.canonical, State.setGroup_mem]

theorem execMxRunEnd_canonical (g : Nat) : KeepsCanonical (execMxRunEnd g) := by
  intro s t h ht
  grind [execMxRunEnd, State.canonical, State.setGroup_mem]

theorem execMxSuspendComplete_canonical (g : Nat) : KeepsCanonical (execMxSuspendComplete g) := by
  intro s t h ht
  grind [execMxSuspendComplete, State.canonical, State.upHead_mem, State.cDrain_mem]

theorem State.undefine_mem (s : State) (c row col n : Nat) : (s.undefine c row col n).mem = s.mem := rfl

theorem State.undefineCmd_mem (s : State) (k : Nat) (m : MxCmd) : (s.undefineCmd k m).mem = s.mem := by
  grind [State.undefineCmd, State.undefine_mem, foldl_mem]

theorem State.mxFail_mem (s : State) (x : Nat) (f : FaultRec) : (s.mxFail x f).mem = s.mem := by
  grind [State.mxFail, State.undefineCmd_mem, State.mem_kill, State.upCtx_mem, State.arrive_mem, foldl_mem]

theorem State.opBegin_mem (s : State) (g x : Nat) (m : MxCmd) (r : Vector W64 16) : (s.opBegin g x m r).mem = s.mem := by
  grind [State.opBegin, State.upHead_mem, State.setGroup_mem]

theorem State.opChunk_mem (s : State) (g x : Nat) (m : MxCmd) (r : Vector W64 16) : (s.opChunk g x m r).mem = s.mem := by
  grind [State.opChunk, State.mxFail_mem, State.upHead_mem, State.setCtx_mem, State.tileFlags_mem, State.setGroup_mem]

theorem execMxPanelRead_canonical (g : Nat) : KeepsCanonical (execMxPanelRead g) := by
  intro s t h ht
  grind [execMxPanelRead, State.canonical, State.mxFail_mem, State.opBegin_mem, State.draw_mem, State.opChunk_mem]

theorem execMxOpComplete_canonical (g : Nat) : KeepsCanonical (execMxOpComplete g) := by
  intro s t h ht
  grind [execMxOpComplete, State.canonical, State.draw_mem, State.mxFail_mem, State.opBegin_mem, State.arrive_mem, State.upCtx_mem,
    State.cDrain_mem]

theorem execScaleMissFill_canonical (g t row blk : Nat) : KeepsCanonical (execScaleMissFill g t row blk) := by
  intro s u h hu
  grind [execScaleMissFill, State.canonical, State.setGroup_mem]

theorem State.tileDone_mem (s : State) (x : Nat) (m : MxCmd) : (s.tileDone x m).mem = s.mem :=
  (State.arrive_mem ..).trans (State.upCtx_mem ..)

theorem State.mxLoad_mem (s : State) (x a : Nat) (g : Region) (st : Bool) : (s.mxLoad x a g st).mem = s.mem := by
  grind [State.mxLoad, State.upCore_mem, foldl_mem]

theorem State.mxStore_mem (s : State) (x a : Nat) (g : Region) (st : Bool) : (s.mxStore x a g st).mem = s.mem := by
  grind [State.mxStore, State.keepRecs_mem, State.engStore_mem, foldl_mem]

theorem State.mxZeroes_mem (s : State) (x : Nat) (g : Region) (st : Bool) : (s.mxZeroes x g st).mem = s.mem := by
  grind [State.mxZeroes, State.upCore_mem, foldl_mem]

theorem execMxTileCmdComplete_canonical (x : Nat) : KeepsCanonical (execMxTileCmdComplete x) := by
  intro s t h ht
  grind [execMxTileCmdComplete, State.canonical, State.draw_mem, State.mxFail_mem, State.tileDone_mem, State.mxLoad_mem, State.mxStore_mem,
    State.mxZeroes_mem]

theorem execMxJoinEffect_canonical (x : Nat) : KeepsCanonical (execMxJoinEffect x) := by
  intro s t h ht
  grind [execMxJoinEffect, State.canonical, State.upCtx_mem]

/-! ## The fabric -/

theorem State.put_mem (s : State) (m : FabMsg) : (s.put m).mem = s.mem := rfl

theorem State.queueCtl_mem (s : State) (fr lo hi : Nat) (line : Option Nat) (m : FabMsg) : (s.queueCtl fr lo hi line m).mem = s.mem := rfl

theorem State.emit_mem (s : State) (m : FabMsg) : (s.emit m).mem = s.mem := State.ite_mem (State.put_mem ..) (State.queueCtl_mem ..)

theorem State.event_canonical (s : State) (e : EvRec) (h : s.canonical) : (s.event e).canonical := by
  grind [State.event, State.canonical, State.msi_mem, State.upSys_mem, State.wr_canonical]

/-! ## Fabric and collective words -/

theorem State.setLease_mem (s : State) (l : Nat) (v : Option Lease) : (s.setLease l v).mem = s.mem := rfl

theorem State.leaseCheck_mem (s : State) (l : Nat) : (s.leaseCheck l).mem = s.mem := by
  grind [State.leaseCheck, State.arrive_mem, State.setLease_mem]

theorem State.bwreq_mem (s : State) (x : Nat) (a b : W64) (arr : Option Arrive) : (s.bwreq x a b arr).1.mem = s.mem := by
  grind [State.bwreq, State.leaseCheck_mem, State.upFab_mem, State.setLease_mem]

theorem State.sendReleases_mem (s : State) (l : Nat) (v : Lease) : (s.sendReleases l v).mem = s.mem :=
  foldl_mem (fun _ _ => State.queueCtl_mem ..) ..

theorem State.setRing_mem (s : State) (r : Nat) (v : Option LandRing) : (s.setRing r v).mem = s.mem := rfl

theorem State.upOrrery_mem (s : State) (d : Nat) (f : Orrery → Orrery) : (s.upOrrery d f).mem = s.mem := rfl

theorem State.upTicket_mem (s : State) (d t : Nat) (f : Ticket → Option Ticket) : (s.upTicket d t f).mem = s.mem := by
  grind [State.upTicket, State.upOrrery_mem]

theorem State.announce_mem (s : State) (d : Nat) (comm : BitVec 16) (key : W64) : (s.announce d comm key).mem = s.mem := by
  grind [State.announce, State.upOrrery_mem]

theorem State.tellMember_mem (s : State) (e : BitVec 13 × Fin 4) (loc : State → Nat → State) (m : FabMsg)
    (hloc : ∀ s d, (loc s d).mem = s.mem) : (s.tellMember e loc m).mem = s.mem := by
  grind [State.tellMember, State.emit_mem]

theorem State.collAnnounce_mem (s : State) (d t : Nat) : (s.collAnnounce d t).mem = s.mem := by
  grind [State.collAnnounce, State.tellMember_mem, State.announce_mem, State.upTicket_mem, foldl_mem]

theorem State.coll_mem (s : State) (x : Nat) (bs : List Byte) (arr : Arrive) : (s.coll x bs arr).1.mem = s.mem := by
  grind [State.coll, State.upOrrery_mem, State.collAnnounce_mem]

/-! ## Phasers -/

theorem State.applyReg_mem (s : State) (o : Nat) (e : Nat × Fin 96 × RegWhat) : (s.applyReg o e).mem = s.mem := by
  grind [State.applyReg, State.setPhaser_mem, State.upHandle_mem]

theorem State.applyPend_mem (s : State) (o : Nat) : (s.applyPend o).mem = s.mem := by
  grind [State.applyPend, State.applyReg_mem, State.setPhaser_mem, foldl_mem]

theorem State.settle_mem (s : State) (o n : Nat) : (s.settle o n).mem = s.mem := by
  fun_induction State.settle s o n <;> grind [State.applyPend_mem, State.setPhaser_mem]

theorem State.settled_mem (s : State) (o : Nat) : (s.settled o).mem = s.mem := State.settle_mem ..

theorem State.unpost_mem (s : State) (j : Nat) : (s.unpost j).mem = s.mem := rfl

theorem execMemberSignal_canonical (j : Nat) : KeepsCanonical (execMemberSignal j) := by
  intro s t h ht
  grind [execMemberSignal, State.canonical, State.unpost_mem, State.settled_mem, State.setPhaser_mem]

theorem State.record_mem (s : State) (k : Nat) (h : Fin 96) (f : FaultRec) : (s.record k h f).mem = s.mem := by
  grind [State.record, State.failRetired_mem, State.upHandle_mem]

theorem execAnonymousArrival_canonical (j : Nat) : KeepsCanonical (execAnonymousArrival j) := by
  intro s t h ht
  grind [execAnonymousArrival, State.canonical, State.unpost_mem, State.setPhaser_mem, State.settled_mem, State.record_mem]

theorem State.dropSignal_mem (s : State) (o k : Nat) (h : Fin 96) (w : RegWhat) (sph : W32) : (s.dropSignal o k h w sph).1.mem = s.mem := by
  grind [State.dropSignal, State.setPhaser_mem, State.upHandle_mem]

theorem execRegistrationArrives_canonical (j : Nat) : KeepsCanonical (execRegistrationArrives j) := by
  intro s t h ht
  grind [execRegistrationArrives, State.canonical, State.dropSignal_mem, State.unpost_mem, State.settled_mem, State.setPhaser_mem,
    State.applyPend_mem]

theorem State.initObj_mem (s : State) (o : Nat) (phase : W32) (anon : Nat) : (s.initObj o phase anon).mem = s.mem := rfl

theorem State.barAccess_mem (s : State) : s.barAccess.mem = s.mem := rfl

theorem State.regAccess_mem (s : State) (zenith : Bool) : (s.regAccess zenith).mem = s.mem := State.ite_mem (State.barAccess_mem ..) rfl

theorem execPhaserObjectInit_canonical (o : Fin 16384) (phase : W32) (anon : BitVec 16) :
    KeepsCanonical (execPhaserObjectInit o phase anon) := by
  rintro s _ h ⟨⟩
  exact State.canonical_of_mem ((State.initObj_mem ..).trans (State.barAccess_mem ..)) h

theorem State.killHandle_mem (s : State) (k : Nat) (h : Fin 96) : (s.killHandle k h).mem = s.mem := by
  grind [State.killHandle, State.upHandle_mem, State.setPhaser_mem]

theorem State.killHandles_mem (s : State) (k lo n : Nat) : (s.killHandles k lo n).mem = s.mem := by
  grind [State.killHandles, State.killHandle_mem, State.settled_mem, foldl_mem]

theorem State.dropReg_mem (s : State) (k : Nat) (h : Fin 96) (o : Nat) (gone : Bool) : (s.dropReg k h o gone).mem = s.mem := by
  grind [State.dropReg, State.upHandle_mem, State.post_mem]

theorem State.acquire_mem (s : State) (k : Nat) (p : Scope) : (s.acquire k p).mem = s.mem := by
  grind [State.acquire.eq_def, State.upCore_mem]

theorem State.phDone_mem (s : State) (x : Nat) (h : Fin 96) (p : Scope) : (s.phDone x h p).mem = s.mem :=
  (State.acquire_mem ..).trans (State.upHandle_mem ..)

end Sys2Proof.Machine
end

section
/-! SUPPORT. The copy engine keeps physical memory in its canonical form (11). -/

namespace Sys2Proof.Machine

theorem State.page_mem (s : State) (v : Via) (acc : Machine.Acc) (op : WinOp) (va : Nat) : (s.page v acc op va).1.mem = s.mem := by
  grind [State.page.eq_def, State.translate_mem]

theorem State.gRead_mem (v : Via) (n : Nat) (s : State) (n1 n2 : Nat) : (s.gRead v n n1 n2).1.mem = s.mem := by
  fun_induction State.gRead v n s n1 n2 <;> grind [State.page_mem]

theorem State.pageWrite_canonical (s : State) (x : Xl) (tag : BitVec 12) (va : Nat) (bs : List Byte) (clear flit : Bool) (h : s.canonical)
    {t : State} (ht : s.pageWrite x tag va bs clear flit = .ok t) : t.canonical := by
  grind [State.pageWrite, State.canonical, State.wr_canonical]

theorem State.gWrite_canonical (s : State) (v : Via) (tag : BitVec 12) (va : Nat) (bs : List Byte) (clear flit : Bool) (h : s.canonical) :
    (s.gWrite v tag va bs clear flit).1.canonical := by
  unfold State.gWrite
  split
  · exact h
  have hp := State.page_mem s v .write .wr va
  split
  · grind [State.canonical]
  · next s' x heq =>
    have hs : s'.canonical := by grind [State.canonical]
    split
    · exact State.pageWrite_canonical s' x tag va bs clear flit hs ‹_›
    · exact hs

theorem State.rmwBack_canonical (s : State) (tag : BitVec 12) (pa w old new : Nat) (h : s.canonical) :
    (s.rmwBack tag pa w old new).canonical := by
  grind [State.rmwBack, State.canonical, State.wr_canonical]

theorem State.pageAtom_canonical (s : State) (x : Xl) (tag : BitVec 12) (op opx va w code : Nat) (h : s.canonical) {t : State}
    (ht : s.pageAtom x tag op opx va w code = .ok t) : t.canonical := by
  grind [State.pageAtom, State.canonical, State.cellAdd_canonical, State.rmwBack_canonical]

theorem State.gAtom_canonical (s : State) (v : Via) (tag : BitVec 12) (op opx va code : Nat) (h : s.canonical) :
    (s.gAtom v tag op opx va code).1.canonical := by
  unfold State.gAtom
  split
  · exact h
  have hp := State.page_mem s v (if op = 5 then .write else .atom) .add va
  split
  · grind [State.canonical]
  · next s' x heq =>
    have hs : s'.canonical := by grind [State.canonical]
    split
    · exact State.pageAtom_canonical s' x tag op opx va _ code hs ‹_›
    · exact hs

theorem State.srcRead_mem (s : State) (c : Copy) (o n : Nat) : (s.srcRead c o n).1.mem = s.mem := by
  grind [State.srcRead, State.gRead_mem]

theorem State.dstWrite_canonical (s : State) (c : Copy) (o : Nat) (bs : List Byte) (h : s.canonical) : (s.dstWrite c o bs).1.canonical := by
  grind [State.dstWrite, State.canonical, State.gWrite_canonical, State.engStore_mem]

theorem State.ringStep_mem (s : State) (c : Copy) (o : Nat) : (s.ringStep c o).mem = s.mem := by
  grind [State.ringStep, State.upCtx_mem]

theorem State.upCopy_mem (s : State) (k id : Nat) (f : Copy → Copy) : (s.upCopy k id f).mem = s.mem := rfl

theorem State.copyFault_mem (s : State) (c : Copy) (f : AccFault) (va : Nat) : (s.copyFault c f va).mem = s.mem := rfl

theorem State.copyPark_canonical (s : State) (c : Copy) (acc va : Nat) (h : s.canonical) : (s.copyPark c acc va).canonical := by
  grind [State.copyPark, State.canonical, → State.park_canonical, State.upCopy_mem, State.copyFault_mem]

theorem State.copyGot_canonical (s : State) (c : Copy) (acc : Nat) (e : Got Unit) (h : s.canonical) : (s.copyGot c acc e).canonical := by
  grind [State.copyGot.eq_def, State.canonical, State.copyPark_canonical, State.copyFault_mem]

theorem State.acquireFor_mem (s : State) (c : Copy) : (s.acquireFor c).mem = s.mem :=
  State.ite_mem ((State.upCopy_mem ..).trans (State.acquire_mem ..)) rfl

theorem State.fopRun_canonical (s : State) (c : Copy) (h : s.canonical) : (s.fopRun c).canonical := by
  grind [State.fopRun, State.canonical, State.page_mem, State.copyPark_canonical, State.copyFault_mem, State.acquireFor_mem,
    State.upCopy_mem, State.engStore_mem, State.rmwBack_canonical]

theorem State.ready_mem (s : State) (own : FlitOwner) (f : Flit) : (s.ready own f).mem = s.mem := rfl

theorem State.copyFlit_mem (s : State) (c : Copy) (node : BitVec 13) (type addr : Nat) (bs : List Byte) :
    (s.copyFlit c node type addr bs).mem = s.mem := rfl

theorem State.copyOut_mem (s : State) (c : Copy) (n : Nat) : (s.copyOut c n).mem = s.mem := rfl

theorem State.atomOver_canonical (s : State) (c : Copy) (v : Via) (a : Nat) (h : s.canonical) : (s.atomOver c v a).canonical := by
  grind [State.atomOver, State.canonical, State.page_mem, State.wr_canonical]

theorem State.copySend_mem (s : State) (c : Copy) (node : BitVec 13) (a : Nat) (bs : List Byte) {t : State}
    (ht : s.copySend c node a bs = some t) : t.mem = s.mem := by
  grind [State.copySend, State.copyFault_mem, State.copyOut_mem, State.upCopy_mem, State.copyFlit_mem]

theorem State.copyPut_canonical (s : State) (c : Copy) (bs : List Byte) (h : s.canonical) {t : State} (ht : s.copyPut c bs = some t) :
    t.canonical := by
  unfold State.copyPut at ht
  split at ht
  · grind [State.canonical, State.copyOut_mem, State.copyFlit_mem, Option.map_eq_some_iff]
  · split at ht
    · exact State.canonical_of_mem (State.copySend_mem _ _ _ _ _ ht) h
    · cases ht
      exact State.canonical_of_mem (State.copyFault_mem _ _ _ _) h
    · have hd := State.dstWrite_canonical s c c.wr bs h
      have ha := fun v tag a => State.gAtom_canonical s v tag c.op c.lend.opx a (leNat bs) h
      grind [State.canonical, State.ringStep_mem, State.copyOut_mem, State.copyGot_canonical, State.atomOver_canonical, State.copyFault_mem]

theorem State.copyBad_mem (s : State) (c : Copy) (o : Nat) (r : FaultRec) : (s.copyBad c o r).mem = s.mem := rfl

theorem State.copyRead_canonical (s : State) (c : Copy) (h : s.canonical) : (s.copyRead c).canonical := by
  grind [State.copyRead, State.canonical, State.srcRead_mem, State.upCopy_mem, State.copyPark_canonical, State.copyBad_mem]

theorem State.copyAsk_mem (s : State) (c : Copy) {t : State} (ht : s.copyAsk c = some t) : t.mem = s.mem := by
  grind [State.copyAsk, State.copyBad_mem, State.upCopy_mem, State.copyFlit_mem]

theorem State.copyNext_canonical (s : State) (c : Copy) (upto : Nat) (h : s.canonical) {t : State} (ht : s.copyNext c upto = some t) :
    t.canonical := by
  grind [State.copyNext, State.canonical, State.upCopy_mem, State.copyPut_canonical, State.copyAsk_mem, State.copyRead_canonical]

theorem State.copyGo_canonical (n : Nat) (s : State) (n1 n2 n3 : Nat) (h : s.canonical) : (s.copyGo n n1 n2 n3).canonical := by
  fun_induction State.copyGo n s n1 n2 n3 <;> grind [State.canonical, State.copyNext_canonical]

theorem State.putsHead_mem (s : State) (c : Copy) : (s.putsHead c).mem = s.mem := by
  grind [State.putsHead, State.upCopy_mem, State.copyFlit_mem]

theorem State.copyBegin_mem (s : State) (c : Copy) : (s.copyBegin c).mem = s.mem := by
  grind [State.copyBegin, State.upCopy_mem, State.acquireFor_mem]

theorem State.copyRun_canonical (s : State) (c : Copy) (upto : Nat) (h : s.canonical) : (s.copyRun c upto).canonical := by
  unfold State.copyRun
  have hgo := State.copyGo_canonical (c.fuel (min upto c.len)) s (coreOf c.ctx) c.id (min upto c.len) h
  dsimp only
  repeat' split
  · exact h
  · exact State.fopRun_canonical s c h
  · exact h
  · exact State.canonical_of_mem (State.copyFault_mem s c _ _) h
  · exact h
  · exact State.canonical_elim hgo (fun d => State.canonical_of_mem (State.putsHead_mem _ d) hgo) _

theorem State.dropCopy_mem (s : State) (k id : Nat) : (s.dropCopy k id).mem = s.mem := rfl

theorem State.copyStep_canonical (s : State) (k : Nat) (c : Copy) (upto : Nat) (h : s.canonical) : (s.copyStep k c upto).canonical := by
  unfold State.copyStep
  have hb : (s.copyBegin c).canonical := State.canonical_of_mem (State.copyBegin_mem s c) h
  split
  · exact State.canonical_of_mem (State.dropCopy_mem s k c.id) h
  · exact State.canonical_elim hb (fun d => State.copyRun_canonical _ d upto hb) _

theorem execCommandStart_canonical (core j upto : Nat) : KeepsCanonical (execCommandStart core j upto) := by
  intro s t h ht
  grind [execCommandStart, State.canonical, State.draw_mem, State.copyStep_canonical]

theorem execRingPanelRoom_canonical (core j upto : Nat) : KeepsCanonical (execRingPanelRoom core j upto) := by
  intro s t h ht
  grind [execRingPanelRoom, State.canonical, State.draw_mem, State.copyStep_canonical]

theorem execPutsSlotRoom_canonical (core j : Nat) : KeepsCanonical (execPutsSlotRoom core j) := by
  intro s t h ht
  grind [execPutsSlotRoom, State.canonical, State.draw_mem, State.copyStep_canonical]

theorem State.deliverFault_mem (s : State) (x : Nat) (arr : Option Arrive) (f : FaultRec) : (s.deliverFault x arr f).mem = s.mem := by
  grind [State.deliverFault.eq_def, State.failRetired_mem, State.arrive_mem, State.setCtx_mem]

theorem execCommandComplete_canonical (core j : Nat) : KeepsCanonical (execCommandComplete core j) := by
  intro s t h ht
  grind [execCommandComplete, State.canonical, State.copyStep_canonical, State.draw_mem, State.deliverFault_mem, State.dropCopy_mem,
    State.arrive_mem]

end Sys2Proof.Machine
end

section
/-! SUPPORT. Flits, leases, repairs and Sidereal time keep physical memory in its canonical form (13; 14). -/

namespace Sys2Proof.Machine

/-! ## Flits -/

theorem State.toC0_mem (s : State) : s.toC0.mem = s.mem := rfl

theorem State.freeBuf_mem (s : State) (l hc : Nat) : (s.freeBuf l hc).mem = s.mem := rfl

theorem State.trailer_mem (s : State) (node : BitVec 13) (g : Flit) : (s.trailer node g).1.mem = s.mem := by
  unfold State.trailer
  split
  · rfl
  · rfl

theorem State.takeTrailer_mem (s : State) (l : Nat) (g : Flit) : (s.takeTrailer l g).mem = s.mem := by
  grind [State.takeTrailer, State.upFab_mem]

theorem State.putFlit_mem (s : State) (p ch k : Nat) (g : Flit) : (s.putFlit p ch k g).mem = s.mem := rfl

theorem State.ordSend_mem (s : State) (o : OutFlit) : (s.ordSend o).1.mem = s.mem := by
  grind [State.ordSend, State.upFab_mem]

theorem State.sendFlit_mem (s : State) (p ch k j : Nat) (node : BitVec 13) (o : OutFlit) : (s.sendFlit p ch k j node o).mem = s.mem := by
  grind [State.sendFlit, State.ordSend_mem, State.trailer_mem, State.putFlit_mem, State.upFab_mem]

theorem State.sendAgain_mem (s : State) (p ch k : Nat) (node : BitVec 13) (t : Stored) : (s.sendAgain p ch k node t).mem = s.mem :=
  (State.putFlit_mem ..).trans ((State.upFab_mem ..).trans (State.trailer_mem ..))

theorem State.sendReplay_mem (s : State) (p ch k : Nat) (node : BitVec 13) (t : Stored) : (s.sendReplay p ch k node t).mem = s.mem :=
  (State.putFlit_mem ..).trans ((State.upFab_mem ..).trans (State.trailer_mem ..))

theorem State.announceReplay_mem (s : State) (p k lost : Nat) : (s.announceReplay p k lost).mem = s.mem := by
  grind [State.announceReplay, State.upFab_mem, State.put_mem]

theorem State.runNext_mem (s : State) (p ch k : Nat) (node : BitVec 13) {t : State} (ht : s.runNext p ch k node = some t) :
    t.mem = s.mem := by
  grind [State.runNext, State.sendReplay_mem, State.upFab_mem]

theorem State.linkWork_mem (s : State) (p ch k : Nat) (node : BitVec 13) {t : State} (ht : s.linkWork p ch k node = some t) :
    t.mem = s.mem := by
  unfold State.linkWork at ht
  dsimp only at ht
  split at ht
  · grind [State.runNext_mem]
  · grind [State.sendAgain_mem]
  · split at ht
    · cases ht; rfl
    · obtain ⟨lost, -, rfl⟩ := Option.map_eq_some_iff.1 ht
      rw [← State.announceReplay_mem s p k lost]
      cases hr : (s.announceReplay p k lost).runNext p ch k node
      · rfl
      · exact State.runNext_mem _ _ _ _ _ hr

theorem State.restripe_mem (s : State) (p k : Nat) : (s.restripe p k).1.mem = s.mem := rfl

theorem execLinkAckRx_canonical (p : Fin 16) (k : Fin 128) (a : LinkAck) (f0 f1 f2 : Nat) :
    KeepsCanonical (execLinkAckRx p k a f0 f1 f2) := by
  rintro s _ h ⟨⟩
  exact State.canonical_of_mem ((State.upFab_mem ..).trans (State.toC0_mem ..)) h

theorem State.sendLack_mem (s : State) (l : Nat) (again : Bool) : (s.sendLack l again).mem = s.mem :=
  (State.emit_mem ..).trans (State.upFab_mem ..)

theorem execLackDue_canonical (p : Fin 16) (k : Fin 128) : KeepsCanonical (execLackDue p k) := by
  intro s t h ht
  grind [execLackDue, State.canonical, State.sendLack_mem]

theorem execReplayRx_canonical (p : Fin 16) (k : Fin 128) (lp : Fin 16) (lk : Fin 128) (r : ReplayAt) (n : Nat) :
    KeepsCanonical (execReplayRx p k lp lk r n) := by
  rintro s _ h ⟨⟩
  exact State.canonical_of_mem ((State.upFab_mem ..).trans (State.toC0_mem ..)) h

theorem State.accept_mem (s : State) (p k : Nat) (f : Flit) : (s.accept p k f).1.mem = s.mem := by
  grind [State.accept, State.toC0_mem, State.sendLack_mem, State.upFab_mem, State.takeTrailer_mem, State.freeBuf_mem]

theorem State.pkeyEvent_canonical (s : State) (p : Nat) (src : BitVec 13) (key : BitVec 16) (h : s.canonical) :
    (s.pkeyEvent p src key).canonical := by
  grind [State.pkeyEvent, State.canonical, State.upFab_mem, State.event_canonical]

theorem State.targetCheck_mem (s : State) (f : Flit) (op : WinOp) (acc : Machine.Acc) : (s.targetCheck f op acc).1.mem = s.mem := by
  grind [State.targetCheck, State.page_mem]

theorem State.verdict_canonical (s : State) (p : Nat) (f : Flit) (op : WinOp) (acc : Machine.Acc) (h : s.canonical) :
    (s.verdict p f op acc).1.canonical := by
  grind [State.verdict, State.canonical, State.targetCheck_mem, State.pkeyEvent_canonical, State.upFab_mem]

theorem State.refusedOn_mem (s : State) (f : Flit) (bad : Option FaultRec) : (s.refusedOn f bad).mem = s.mem := by
  grind [State.refusedOn.eq_def, State.upFab_mem]

theorem State.ackFlit_mem (s : State) (f : Flit) (bad : Option FaultRec) : (s.ackFlit f bad).mem = s.mem := State.emit_mem ..

theorem State.performFlit_canonical (s : State) (p : Nat) (f : Flit) (op : WinOp) (acc : Acc) (act : Via → State → State × Got Unit)
    (hact : ∀ v s, s.canonical → (act v s).1.canonical) (h : s.canonical) : (s.performFlit p f op acc act).canonical := by
  grind [State.performFlit, State.canonical, State.verdict_canonical, State.ackFlit_mem, State.refusedOn_mem]

theorem State.winWrite_canonical (v : Via) (n : Nat) (s : State) (n1 : Nat) (l : List Byte) (b : Bool) (h : s.canonical) :
    (s.winWrite v n n1 l b).1.canonical := by
  fun_induction State.winWrite v n s n1 l b <;> grind [State.canonical, State.gWrite_canonical]

theorem State.winAtoms_canonical (s : State) (v : Via) (op opx va : Nat) (l : List Byte) (n : Nat) (h : s.canonical) :
    (s.winAtoms v op opx va l n).1.canonical := by
  fun_induction State.winAtoms s v op opx va l n <;> grind [State.canonical, State.gAtom_canonical]

theorem State.readFlit_canonical (s : State) (p : Nat) (f : Flit) (h : s.canonical) : (s.readFlit p f).canonical := by
  grind [State.readFlit, State.canonical, State.verdict_canonical, State.ackFlit_mem, State.gRead_mem, State.ready_mem]

theorem State.ordAcked_mem (s : State) (node : BitVec 13) (tag : BitVec 16) (n : Nat) : (s.ordAcked node tag n).mem = s.mem := rfl

theorem State.copyHeard_canonical (s : State) (c : Copy) (g : Copy → Copy) (h : s.canonical) : (s.copyHeard c g).canonical :=
  State.copyGo_canonical _ _ _ _ _ (State.canonical_of_mem (State.upCopy_mem ..) h)

theorem State.answerFlit_canonical (s : State) (f : Flit) (h : s.canonical) : (s.answerFlit f).canonical := by
  grind [State.answerFlit, State.canonical, State.ordAcked_mem, State.copyHeard_canonical]

theorem State.landWrite_canonical (s : State) (r : LandRing) (va : Nat) (bs : List Byte) (h : s.canonical) :
    (s.landWrite r va bs).1.canonical := by
  grind [State.landWrite, State.canonical, → State.pageWrite_canonical, foldl_fst_canonical]

theorem State.land_canonical (s : State) (p : Nat) (f : Flit) (h : s.canonical) : (s.land p f).canonical := by
  unfold State.land
  extract_lets a off no
  have hno : ∀ u g, u.canonical → (no u g).canonical := fun u g => State.canonical_of_mem (State.ackFlit_mem u f _)
  refine State.canonical_ite (hno _ _ (State.pkeyEvent_canonical s p f.src f.pkey h)) ?_
  split
  · exact hno _ _ h
  next r _ =>
    have hwrite : ∀ {u : State} {g : Got Unit} {va : Nat} {bs : List Byte}, s.landWrite r va bs = (u, g) → u.canonical := fun hu =>
      State.canonical_of_mem (congrArg (·.1.mem) hu).symm (State.landWrite_canonical s r _ _ h)
    refine State.canonical_ite (hno _ _ h) (State.canonical_ite ?_ ?_)
    · split
      · next hu =>
        refine State.canonical_of_mem ((State.ackFlit_mem _ _ _).trans ?_) (hwrite hu)
        split
        · exact (State.post_mem _ _).trans (State.setRing_mem _ _ _)
        · exact State.setRing_mem _ _ _
      · next hu => exact hno _ _ (hwrite hu)
      · next hu => exact hno _ _ (hwrite hu)
    · split
      · next hu => exact State.canonical_of_mem ((State.ackFlit_mem _ _ _).trans (State.setRing_mem _ _ _)) (hwrite hu)
      · next hu => exact hno _ _ (hwrite hu)
      · next hu => exact hno _ _ (hwrite hu)

theorem State.performRx_canonical (s : State) (p : Nat) (f : Flit) (h : s.canonical) : (s.performRx p f).canonical := by
  grind [State.performRx, State.canonical, State.performFlit_canonical, State.winWrite_canonical, State.readFlit_canonical,
    State.answerFlit_canonical, State.land_canonical, State.winAtoms_canonical]

theorem State.setOrdRx_mem (s : State) (r : OrdRx) : (s.setOrdRx r).mem = s.mem := rfl

theorem State.ordRun_canonical (n : Nat) (s : State) (e : BitVec 13) (h : s.canonical) : (s.ordRun n e).canonical := by
  fun_induction State.ordRun n s e <;> grind [State.canonical, State.setOrdRx_mem, State.performRx_canonical, State.ackFlit_mem,
    State.freeBuf_mem]

theorem State.ordIn_canonical (s : State) (l : Nat) (f : Flit) (h : s.canonical) : (s.ordIn l f).canonical :=
  State.ordRun_canonical _ _ _ (State.canonical_of_mem (State.setOrdRx_mem ..) h)

theorem State.receive_canonical (s : State) (p k : Nat) (f : Flit) (mine : Nat → Bool) (h : s.canonical) :
    (s.receive p k f mine).canonical := by
  grind [State.receive, State.canonical, State.accept_mem, State.ordIn_canonical, State.freeBuf_mem, State.performRx_canonical]

theorem execFlitWriteRx_canonical (p : Fin 16) (k : Fin 128) (f : Flit) : KeepsCanonical (execFlitWriteRx p k f) := by
  rintro s _ h ⟨⟩
  exact State.receive_canonical _ _ _ _ _ h

theorem execFlitZeroRx_canonical (p : Fin 16) (k : Fin 128) (f : Flit) : KeepsCanonical (execFlitZeroRx p k f) := by
  rintro s _ h ⟨⟩
  exact State.receive_canonical _ _ _ _ _ h

theorem execFlitAtomicRx_canonical (p : Fin 16) (k : Fin 128) (f : Flit) : KeepsCanonical (execFlitAtomicRx p k f) := by
  rintro s _ h ⟨⟩
  exact State.receive_canonical _ _ _ _ _ h

theorem execFlitReadreqRx_canonical (p : Fin 16) (k : Fin 128) (f : Flit) : KeepsCanonical (execFlitReadreqRx p k f) := by
  rintro s _ h ⟨⟩
  exact State.receive_canonical _ _ _ _ _ h

theorem execFlitReadrspRx_canonical (p : Fin 16) (k : Fin 128) (f : Flit) : KeepsCanonical (execFlitReadrspRx p k f) := by
  rintro s _ h ⟨⟩
  exact State.canonical_of_mem (State.draw_mem ..) (State.receive_canonical _ _ _ _ _ h)

theorem execFlitLandRx_canonical (p : Fin 16) (k : Fin 128) (f : Flit) : KeepsCanonical (execFlitLandRx p k f) := by
  rintro s _ h ⟨⟩
  exact State.receive_canonical _ _ _ _ _ h

theorem State.refuseTransit_mem (s : State) (f : Flit) : (s.refuseTransit f).mem = s.mem := State.ackFlit_mem ..

theorem execFlitTransitRx_canonical (p : Fin 16) (k : Fin 128) (f : Flit) : KeepsCanonical (execFlitTransitRx p k f) := by
  intro s t h ht
  grind [execFlitTransitRx, State.canonical, State.accept_mem, State.ready_mem, State.freeBuf_mem, State.refuseTransit_mem]

theorem State.readRefused_canonical (s : State) (c : Copy) (r : FaultRec) (h : s.canonical) : (s.readRefused c r).canonical := by
  grind [State.readRefused, State.canonical, State.upCopy_mem, State.copyHeard_canonical, State.ordAcked_mem]

theorem State.copyAcked_canonical (s : State) (c : Copy) (src : BitVec 13) (n : Nat) (bad : Option FaultRec) (h : s.canonical) :
    (s.copyAcked c src n bad).canonical := by
  grind [State.copyAcked.eq_def, State.canonical, State.readRefused_canonical, State.upCopy_mem, State.ordAcked_mem]

theorem State.ordDrop_mem (s : State) (f : Flit) : (s.ordDrop f).mem = s.mem := State.ite_mem (State.upFab_mem ..) rfl

theorem State.refuseAnswer_mem (s : State) (f : Flit) : (s.refuseAnswer f).mem = s.mem := State.emit_mem ..

theorem State.abandonOwner_canonical (s : State) (own : FlitOwner) (f : Flit) (sent : Bool) (ticket : State → Nat → Nat → State)
    (hticket : ∀ s d t, s.canonical → (ticket s d t).canonical) (h : s.canonical) : (s.abandonOwner own f sent ticket).canonical := by
  grind [State.abandonOwner.eq_def, State.canonical, State.ordDrop_mem, State.copyHeard_canonical, State.copyBad_mem, State.upCopy_mem,
    State.copyFault_mem, State.freeBuf_mem, State.refuseTransit_mem, State.refuseAnswer_mem]

/-! ## Leases -/

theorem State.upPort_mem (s : State) (l p : Nat) (g : LPort → LPort) : (s.upPort l p g).mem = s.mem := by
  grind [State.upPort, State.setLease_mem]

theorem State.portOver_mem (s : State) (l p : Nat) (w : Why) : (s.portOver l p w).mem = s.mem := by
  grind [State.portOver, State.setLease_mem]

theorem State.upIncoming_mem (s : State) (src : BitVec 13) (lid sport : Nat) (g : Incoming → Incoming) :
    (s.upIncoming src lid sport g).mem = s.mem := rfl

theorem State.sendBack_mem (s : State) (fr lo hi p : Nat) (n : BitVec 13) (m : FabMsg) : (s.sendBack fr lo hi p n m).mem = s.mem := by
  grind [State.sendBack, State.queueCtl_mem]

theorem State.tellDisplaced_mem (s : State) (fr p k : Nat) : (s.tellDisplaced fr p k).mem = s.mem := by
  grind [State.tellDisplaced, State.queueCtl_mem, foldl_mem]

theorem State.endIncoming_mem (s : State) (src : BitVec 13) (lid sport fr : Nat) : (s.endIncoming src lid sport fr).mem = s.mem := by
  grind [State.endIncoming, State.upIncoming_mem, State.tellDisplaced_mem]

theorem State.sendRequest_mem (s : State) (l p : Nat) : (s.sendRequest l p).mem = s.mem := by
  grind [State.sendRequest, State.put_mem, State.upPort_mem]

theorem State.sendRequests_mem (s : State) : s.sendRequests.mem = s.mem := by
  grind [State.sendRequests, State.sendRequest_mem, foldl_mem]

theorem execLeaseRequestRx_canonical (r : LeaseReq) : KeepsCanonical (execLeaseRequestRx r) := by
  intro s t h ht
  grind [execLeaseRequestRx, State.canonical, State.toC0_mem, State.upFab_mem, State.queueCtl_mem]

theorem State.arbitrate_mem (s : State) (r : LeaseReq) : (s.arbitrate r).mem = s.mem := by
  grind [State.arbitrate, State.sendBack_mem, State.tellDisplaced_mem, State.upFab_mem]

theorem State.arbitrateAll_mem (s : State) : s.arbitrateAll.mem = s.mem := by
  grind [State.arbitrateAll, State.upFab_mem, State.arbitrate_mem, foldl_mem]

theorem State.forwardOne_mem (s : State) (x : Fwding) : (s.forwardOne x).mem = s.mem := by
  grind [State.forwardOne, State.queueCtl_mem, State.sendBack_mem, State.tellDisplaced_mem, State.upFab_mem]

theorem State.forwardAll_mem (s : State) : s.forwardAll.mem = s.mem := by
  grind [State.forwardAll, State.forwardOne_mem, State.upFab_mem, foldl_mem]

theorem execTimeFlitRx_canonical (p : Fin 16) (k : Fin 128) (m : TimeFlit) (agree : Bool) :
    KeepsCanonical (execTimeFlitRx p k m agree) := by
  intro s t h ht
  grind [execTimeFlitRx, State.canonical, State.toC0_mem, State.upFab_mem]

theorem State.denied_mem (s : State) (l p : Nat) : (s.denied l p).mem = s.mem := by
  grind [State.denied, State.setLease_mem, State.leaseCheck_mem, State.portOver_mem, State.upPort_mem]

theorem State.granted_mem (s : State) (l p : Nat) (g : BitVec 6) : (s.granted l p g).mem = s.mem := by
  grind [State.granted, State.leaseCheck_mem, State.upPort_mem]

theorem execLeaseAnswerRx_canonical (src : BitVec 13) (lid : Fin 256) (p : Fin 16) (a : LeaseReply) :
    KeepsCanonical (execLeaseAnswerRx src lid p a) := by
  intro s t h ht
  grind [execLeaseAnswerRx, State.canonical, State.toC0_mem, State.sendBack_mem, State.upFab_mem, State.leaseCheck_mem, State.portOver_mem,
    State.granted_mem, State.denied_mem, State.upPort_mem]

theorem execLeaseAnswerTimeout_canonical (lid : Fin 256) (p : Fin 16) : KeepsCanonical (execLeaseAnswerTimeout lid p) := by
  intro s t h ht
  grind [execLeaseAnswerTimeout, State.canonical, State.leaseCheck_mem, State.portOver_mem]

theorem execLeaseConfirmRx_canonical (src : BitVec 13) (lid : Fin 256) (p : Fin 16) : KeepsCanonical (execLeaseConfirmRx src lid p) := by
  intro s t h ht
  grind [execLeaseConfirmRx, State.canonical, State.tellDisplaced_mem, State.upIncoming_mem, State.toC0_mem]

theorem State.noticed_mem (s : State) (src : BitVec 13) (lid p : Nat) (m : BitVec 13 → FabMsg) : (s.noticed src lid p m).mem = s.mem := by
  grind [State.noticed, State.queueCtl_mem, State.upFab_mem, State.endIncoming_mem]

theorem execReleaseNoticeRx_canonical (src : BitVec 13) (lid : Fin 256) (p : Fin 16) : KeepsCanonical (execReleaseNoticeRx src lid p) := by
  rintro s _ h ⟨⟩
  exact State.canonical_of_mem ((State.noticed_mem ..).trans (State.toC0_mem ..)) h

theorem execCancelNoticeRx_canonical (src : BitVec 13) (lid : Fin 256) (p : Fin 16) : KeepsCanonical (execCancelNoticeRx src lid p) := by
  rintro s _ h ⟨⟩
  exact State.canonical_of_mem ((State.noticed_mem ..).trans (State.toC0_mem ..)) h

theorem execRevocationNoticeRx_canonical (src : BitVec 13) (lid : Fin 256) (p : Fin 16) :
    KeepsCanonical (execRevocationNoticeRx src lid p) := by
  intro s t h ht
  grind [execRevocationNoticeRx, State.canonical, State.toC0_mem, State.upPort_mem, State.endIncoming_mem, State.sendBack_mem]

theorem State.markAt_mem (s : State) (fr p : Nat) (w : MarkWhat) : (s.markAt fr p w).mem = s.mem := rfl

theorem execDisplacementNoticeRx_canonical (p : Fin 16) (k : Fin 128) (g : GroupsFrom) :
    KeepsCanonical (execDisplacementNoticeRx p k g) := by
  rintro s _ h ⟨⟩
  exact State.canonical_of_mem ((State.markAt_mem ..).trans (State.toC0_mem ..)) h

theorem execSkewNoticeRx_canonical (lid : Fin 256) (p : Fin 16) : KeepsCanonical (execSkewNoticeRx lid p) := by
  rintro s _ h ⟨⟩
  exact State.canonical_of_mem ((State.upPort_mem ..).trans (State.toC0_mem ..)) h

theorem execRheadNoticeRx_canonical (r : Fin 1024) (rhead : W32) : KeepsCanonical (execRheadNoticeRx r rhead) := by
  intro s t h ht
  grind [execRheadNoticeRx, State.canonical, State.toC0_mem, State.setRing_mem]

theorem State.revoke_mem (s : State) (i : Incoming) : (s.revoke i).mem = s.mem := by
  grind [State.revoke, State.queueCtl_mem]

theorem State.trim_mem (s : State) (cap p : Nat) (which : Incoming → Bool) : (s.trim cap p which).mem = s.mem := by
  grind [State.trim, State.revoke_mem, foldl_fst_mem]

theorem execFabricEnable_canonical (ports : BitVec 16) : KeepsCanonical (execFabricEnable ports) := by
  rintro s _ h ⟨⟩
  exact State.canonical_of_mem ((State.upFab_mem ..).trans (State.toC0_mem ..)) h

theorem execFabricDisable_canonical (ports : BitVec 16) : KeepsCanonical (execFabricDisable ports) := by
  intro s t h ht
  grind [execFabricDisable, State.canonical, State.upFab_mem, State.toC0_mem, State.leaseCheck_mem, foldl_mem]

theorem execRoutingCommit_canonical : KeepsCanonical execRoutingCommit := by
  rintro s _ h ⟨⟩
  exact State.canonical_of_mem ((State.upFab_mem ..).trans (State.toC0_mem ..)) h

theorem execLpolWrite_canonical (v : W32) : KeepsCanonical (execLpolWrite v) := by
  intro s t h ht
  grind [execLpolWrite, State.canonical, State.upFab_mem, State.toC0_mem, State.trim_mem, foldl_mem]

theorem execRevokeWrite_canonical (node : BitVec 13) (ports : BitVec 16) : KeepsCanonical (execRevokeWrite node ports) := by
  intro s t h ht
  grind [execRevokeWrite, State.canonical, State.revoke_mem, State.toC0_mem, foldl_mem]

theorem execMembershipWrite_canonical (j : Fin 256) (v : W32) : KeepsCanonical (execMembershipWrite j v) := by
  intro s t h ht
  grind [execMembershipWrite, State.canonical, State.upFab_mem, State.toC0_mem, State.trim_mem, foldl_mem]

/-! ## Repairs -/

theorem State.tell_mem (s : State) (ns : List (BitVec 13)) (m : Option (BitVec 13) → FabMsg) : (s.tell ns m).mem = s.mem :=
  foldl_mem (fun _ _ => State.emit_mem ..) ..

theorem State.tellPeers_mem (s : State) (p k : Nat) (m : Option (BitVec 13) → FabMsg) : (s.tellPeers p k m).mem = s.mem := State.tell_mem ..

theorem State.tellIn_mem (s : State) (p k : Nat) (m : Option (BitVec 13) → FabMsg) : (s.tellIn p k m).mem = s.mem := State.tell_mem ..

theorem State.postEv_mem (s : State) (e : EvRec) : (s.postEv e).mem = s.mem := rfl

theorem State.note_mem (s : State) (type p c : Nat) (k : Option Nat) (ks : List Nat) (g : EvRec → EvRec) :
    (s.note type p c k ks g).mem = s.mem := rfl

theorem State.shrink_mem (s : State) (fr p : Nat) (on : Nat → Bool) : (s.shrink fr p on).mem = s.mem := by
  grind [State.shrink, State.upFab_mem, State.tell_mem, State.endIncoming_mem, foldl_mem]

theorem State.shrinkIn_mem (s : State) (fr p : Nat) (on : Incoming → Bool) : (s.shrinkIn fr p on).mem = s.mem := by
  grind [State.shrinkIn, State.endIncoming_mem, State.tell_mem, foldl_mem]

theorem State.removeLine_mem (s : State) (p k : Nat) (host : Bool) : (s.removeLine p k host).mem = s.mem := by
  grind [State.removeLine, State.shrink_mem, State.tellPeers_mem, State.markAt_mem, State.note_mem]

theorem State.removeEmitter_mem (s : State) (p c : Nat) (host : Bool) : (s.removeEmitter p c host).mem = s.mem := by
  grind [State.removeEmitter, State.tellPeers_mem, State.shrink_mem, State.markAt_mem, State.note_mem, foldl_mem]

theorem State.repairRemove_mem (s : State) (r : Repair) : (s.repairRemove r).mem = s.mem := by
  grind [State.repairRemove, State.removeEmitter_mem, State.removeLine_mem]

theorem State.tryNext_mem (n : Nat) (s : State) (e : Repair) : (s.tryNext n e).mem = s.mem := by
  fun_induction State.tryNext n s e <;> grind [State.repairRemove_mem, State.upFab_mem]

theorem State.beginRepair_mem (s : State) (p k : Nat) (chan : Option Nat) : (s.beginRepair p k chan).mem = s.mem := by
  grind [State.beginRepair, State.upFab_mem, State.tryNext_mem]

theorem State.dropRepair_mem (s : State) (r : Repair) : (s.dropRepair r).mem = s.mem := rfl

theorem State.nextRepairs_mem (s : State) (p : Nat) : (s.nextRepairs p).mem = s.mem := by
  grind [State.nextRepairs, State.tryNext_mem, State.dropRepair_mem, foldl_mem]

theorem State.lineBackAt_mem (s : State) (fr p : Nat) (ks : List Nat) : (s.lineBackAt fr p ks).mem = s.mem := by
  grind [State.lineBackAt, State.markAt_mem, State.tellPeers_mem, foldl_mem]

theorem State.repaired_mem (s : State) (r : Repair) : (s.repaired r).mem = s.mem := by
  grind [State.repaired, State.note_mem, State.markAt_mem, State.tellPeers_mem, State.lineBackAt_mem, foldl_mem]

theorem State.attemptFailed_mem (s : State) (r : Repair) : (s.attemptFailed r).mem = s.mem := by
  grind [State.attemptFailed, State.note_mem, State.tryNext_mem, State.repairRemove_mem]

theorem execSpareAttemptEnd_canonical (p : Fin 16) (k : Fin 128) (locked : Bool) : KeepsCanonical (execSpareAttemptEnd p k locked) := by
  intro s t h ht
  grind [execSpareAttemptEnd, State.canonical, State.dropRepair_mem, State.draw_mem, State.nextRepairs_mem, State.repaired_mem,
    State.attemptFailed_mem]

theorem State.loseLight_mem (s : State) (p k : Nat) : (s.loseLight p k).mem = s.mem := by
  grind [State.loseLight, State.upFab_mem, State.note_mem]

theorem State.restripeAll_mem (s : State) : s.restripeAll.mem = s.mem := by
  grind [State.restripeAll, State.restripe_mem, State.upFab_mem, State.postEv_mem, State.beginRepair_mem, State.tellPeers_mem, foldl_mem,
    foldl_fst_mem]

theorem State.setSpc_mem (s : State) (p : Nat) (on : Bool) : (s.setSpc p on).mem = s.mem := by
  grind [State.setSpc, State.upFab_mem, foldl_mem]

theorem State.spareBack_mem (s : State) (p : Nat) : (s.spareBack p).mem = s.mem := rfl

theorem State.spareLost_mem (s : State) (p : Nat) : (s.spareLost p).mem = s.mem := by
  grind [State.spareLost, State.loseLight_mem, State.setSpc_mem, foldl_mem]

theorem execLossOfLight_canonical (p : Fin 16) (l : LostLight) : KeepsCanonical (execLossOfLight p l) := by
  intro s t h ht
  grind [execLossOfLight.eq_def, State.canonical, State.draw_mem, State.loseLight_mem, State.spareLost_mem, foldl_mem]

theorem State.replaceDetector_mem (s : State) (p ch : Nat) : (s.replaceDetector p ch).mem = s.mem := by
  grind [State.replaceDetector, State.note_mem, State.tellIn_mem, State.markAt_mem, State.shrinkIn_mem, foldl_mem]

theorem State.stopReplay_mem (s : State) (p k : Nat) : (s.stopReplay p k).mem = s.mem := rfl

theorem execLossOfSignal_canonical (p : Fin 16) (ch : Fin 18) (peerLit : Bool) : KeepsCanonical (execLossOfSignal p ch peerLit) := by
  intro s t h ht
  grind [execLossOfSignal, State.canonical, State.stopReplay_mem, State.tellIn_mem, State.note_mem, State.upFab_mem,
    State.replaceDetector_mem]

theorem execDrift_canonical (p : Fin 16) (ch : Fin 36) : KeepsCanonical (execDrift p ch) := by
  rintro s _ h ⟨⟩
  exact State.canonical_of_mem (State.postEv_mem ..) h

theorem State.channelLost_mem (s : State) (p ch : Nat) : (s.channelLost p ch).1.mem = s.mem := by
  grind [State.channelLost, State.upFab_mem, State.restripe_mem, State.tellPeers_mem, State.stopReplay_mem, State.tellIn_mem, foldl_fst_mem]

theorem execRetune_canonical (p : Fin 16) (ch : Fin 36) : KeepsCanonical (execRetune p ch) := by
  rintro s _ h ⟨⟩
  exact State.canonical_of_mem ((State.note_mem ..).trans (State.channelLost_mem ..)) h

theorem execRetuneRelock_canonical (p : Fin 16) (ch : Fin 36) : KeepsCanonical (execRetuneRelock p ch) := by
  intro s t h ht
  grind [execRetuneRelock, State.canonical, State.upFab_mem, State.tellPeers_mem, State.tellIn_mem, foldl_mem]

theorem execLockfail_canonical (p : Fin 16) (ch : Fin 36) : KeepsCanonical (execLockfail p ch) := by
  intro s t h ht
  grind [execLockfail, State.canonical, State.channelLost_mem, State.note_mem, State.replaceDetector_mem, State.draw_mem,
    State.beginRepair_mem]

theorem execSpareCombLightChange_canonical (p : Fin 16) (on : Bool) : KeepsCanonical (execSpareCombLightChange p on) := by
  intro s t h ht
  grind [execSpareCombLightChange, State.canonical, State.spareBack_mem, State.setSpc_mem, State.spareLost_mem]

theorem State.repans_mem (s : State) (p k attempt : Nat) : (s.repans p k attempt).mem = s.mem := by
  grind [State.repans, State.toC0_mem, State.dropRepair_mem, State.upFab_mem, State.tryNext_mem]

theorem execRepansSpareComb_canonical (p : Fin 16) (k : Fin 64) : KeepsCanonical (execRepansSpareComb p k) := by
  rintro s _ h ⟨⟩
  exact State.canonical_of_mem ((State.draw_mem ..).trans (State.repans_mem ..)) h

theorem execRepansSpareEmitter_canonical (p : Fin 16) (k : Fin 64) : KeepsCanonical (execRepansSpareEmitter p k) := by
  rintro s _ h ⟨⟩
  exact State.canonical_of_mem ((State.draw_mem ..).trans (State.repans_mem ..)) h

theorem execRepansRetryOriginal_canonical (p : Fin 16) (k : Fin 64) : KeepsCanonical (execRepansRetryOriginal p k) := by
  rintro s _ h ⟨⟩
  exact State.canonical_of_mem ((State.draw_mem ..).trans (State.repans_mem ..)) h

theorem execRepansRemove_canonical (p : Fin 16) (k : Fin 64) : KeepsCanonical (execRepansRemove p k) := by
  intro s t h ht
  grind [execRepansRemove, State.canonical, State.toC0_mem, State.repairRemove_mem, State.dropRepair_mem]

theorem execRepansTimeout_canonical (p : Fin 16) (k : Fin 64) : KeepsCanonical (execRepansTimeout p k) := by
  rintro s _ h ⟨⟩
  split
  · split
    · exact State.canonical_of_mem ((State.repairRemove_mem _ _).trans (State.dropRepair_mem s _)) h
    · exact h
  · exact h

theorem State.losOver_mem (s : State) (p k : Nat) : (s.losOver p k).mem = s.mem := rfl

theorem execLossNoticeRx_canonical (out : Bool) (p : Fin 16) (k : Fin 128) : KeepsCanonical (execLossNoticeRx out p k) := by
  intro s t h ht
  grind [execLossNoticeRx, State.canonical, State.toC0_mem, State.restripe_mem, State.upFab_mem, State.stopReplay_mem]

theorem execSubstNoticeRx_canonical (out : Bool) (p : Fin 16) (k : Fin 128) (n : LineFrom) :
    KeepsCanonical (execSubstNoticeRx out p k n) := by
  intro s t h ht
  grind [execSubstNoticeRx, State.canonical, State.toC0_mem, State.upFab_mem, State.markAt_mem, State.losOver_mem]

theorem execRemoveNoticeRx_canonical (out : Bool) (lid : Option (Fin 256)) (p : Fin 16) (n : LineFrom) :
    KeepsCanonical (execRemoveNoticeRx out lid p n) := by
  intro s t h ht
  grind [execRemoveNoticeRx, State.canonical, State.toC0_mem, State.upPort_mem, State.shrink_mem, State.markAt_mem, State.shrinkIn_mem,
    State.losOver_mem]

theorem execSkewDetected_canonical (src : BitVec 13) (lid : Fin 256) (p : Fin 16) : KeepsCanonical (execSkewDetected src lid p) := by
  intro s t h ht
  grind [execSkewDetected, State.canonical, State.event_canonical, State.emit_mem]

/-! ## Sidereal time -/

theorem State.leaving_mem (s : State) (m : FabMsg) : (s.leaving m).mem = s.mem := by
  grind [State.leaving.eq_def, State.upPort_mem, State.endIncoming_mem, State.upIncoming_mem]

theorem State.sendCtl_mem (s : State) : s.sendCtl.mem = s.mem := by
  grind [State.sendCtl, State.put_mem, State.leaving_mem, State.upFab_mem, foldl_mem]

theorem State.sendTime_mem (s : State) : s.sendTime.mem = s.mem := by
  grind [State.sendTime, State.put_mem, foldl_mem]

theorem State.windowOpen_mem (s : State) : s.windowOpen.mem = s.mem := by
  grind [State.windowOpen, State.sendTime_mem, State.sendCtl_mem, State.sendRequests_mem]

theorem State.flushEv_canonical (s : State) (h : s.canonical) : s.flushEv.canonical := by
  grind [State.flushEv, State.canonical, State.event_canonical, State.upFab_mem, foldl_canonical]

theorem State.slotStart_canonical (s : State) (h : s.canonical) : s.slotStart.canonical := by
  grind [State.slotStart, State.canonical, State.flushEv_canonical, State.upFab_mem, State.forwardAll_mem, State.arbitrateAll_mem]

theorem State.resync_canonical (s : State) (agree : Bool) (h : s.canonical) : (s.resync agree).canonical := by
  grind [State.resync, State.canonical, State.upFab_mem, State.event_canonical]

theorem State.frameStart_canonical (s : State) (agree : Bool) (h : s.canonical) : (s.frameStart agree).canonical := by
  grind [State.frameStart, State.canonical, State.upFab_mem, State.leaseCheck_mem, State.tellDisplaced_mem, State.resync_canonical,
    foldl_mem]

theorem State.setTime_mem (s : State) (t : W64) : (s.setTime t).mem = s.mem := rfl

theorem State.sidereal_canonical (s : State) (t : W64) (agree : Bool) (h : s.canonical) : (s.sidereal t agree).canonical := by
  grind [State.sidereal, State.canonical, State.windowOpen_mem, State.setTime_mem, State.restripeAll_mem, State.slotStart_canonical,
    State.frameStart_canonical]

theorem execSlotBoundary_canonical : KeepsCanonical execSlotBoundary := by
  rintro s _ h ⟨⟩
  exact State.canonical_of_mem (State.draw_mem ..) (State.sidereal_canonical _ _ _ h)

theorem execFrameBoundary_canonical (agree : Bool) : KeepsCanonical (execFrameBoundary agree) := by
  intro s t h ht
  grind [execFrameBoundary, State.canonical, State.sidereal_canonical, foldl_canonical]

theorem execSyncLoss_canonical : KeepsCanonical execSyncLoss := by
  intro s t h ht
  grind [execSyncLoss, State.canonical, State.event_canonical, State.upFab_mem]

end Sys2Proof.Machine
end

section
/-! SUPPORT. The Orreries keep physical memory in its canonical form (15). -/

namespace Sys2Proof.Machine

theorem State.abortAt_mem (s : State) (d t : Nat) (f : FaultRec) (dog : Bool) : (s.abortAt d t f dog).mem = s.mem := by
  grind [State.abortAt, State.upOrrery_mem, State.emit_mem, State.arrive_mem, foldl_mem]

theorem State.abortIn_mem (s : State) (d : Nat) (comm : BitVec 16) (key : W64) (dog : Bool) : (s.abortIn d comm key dog).mem = s.mem := by
  grind [State.abortIn, State.abortAt_mem, State.upOrrery_mem]

theorem State.abort_mem (s : State) (d t : Nat) (f : FaultRec) (dog : Bool) : (s.abort d t f dog).mem = s.mem := by
  grind [State.abort, State.abortAt_mem, State.abortIn_mem, foldl_mem]

theorem State.collFault_mem (s : State) (d t : Nat) (g : AccFault) (va : Nat) : (s.collFault d t g va).mem = s.mem := State.abort_mem ..

theorem State.doneIn_mem (s : State) (d : Nat) (comm : BitVec 16) (key : W64) (rank : Nat) : (s.doneIn d comm key rank).mem = s.mem := by
  grind [State.doneIn, State.upOrrery_mem, State.upTicket_mem, State.arrive_mem]

theorem State.walkDone_mem (s : State) (d t : Nat) : (s.walkDone d t).mem = s.mem := by
  grind [State.walkDone, State.upTicket_mem, State.tellMember_mem, State.doneIn_mem, foldl_mem]

theorem State.admitIn_mem (s : State) (d : Nat) (comm : BitVec 16) (key : W64) (rank : Nat) : (s.admitIn d comm key rank).mem = s.mem := by
  grind [State.admitIn, State.upTicket_mem, State.upOrrery_mem]

theorem execCollAdmission_canonical (die : Fin 4) (t : Fin 64) : KeepsCanonical (execCollAdmission die t) := by
  intro s u h hu
  grind [execCollAdmission, State.canonical, State.collAnnounce_mem, State.gRead_mem, State.collFault_mem, State.upTicket_mem,
    State.upOrrery_mem, State.tellMember_mem, State.admitIn_mem, foldl_mem]

theorem execAnnounceRx_canonical (die : Fin 4) (comm : BitVec 16) (key : W64) : KeepsCanonical (execAnnounceRx die comm key) := by
  rintro s _ h ⟨⟩
  exact State.canonical_of_mem ((State.announce_mem ..).trans (State.toC0_mem ..)) h

theorem execAdmitRx_canonical (die : Fin 4) (comm : BitVec 16) (key : W64) (rank : Nat) :
    KeepsCanonical (execAdmitRx die comm key rank) := by
  rintro s _ h ⟨⟩
  exact State.canonical_of_mem ((State.admitIn_mem ..).trans (State.toC0_mem ..)) h

theorem execCollDoneRx_canonical (die : Fin 4) (comm : BitVec 16) (key : W64) (rank : Nat) :
    KeepsCanonical (execCollDoneRx die comm key rank) := by
  rintro s _ h ⟨⟩
  exact State.canonical_of_mem ((State.doneIn_mem ..).trans (State.toC0_mem ..)) h

theorem execAbortRx_canonical (die : Fin 4) (comm : BitVec 16) (key : W64) (dog : Bool) :
    KeepsCanonical (execAbortRx die comm key dog) := by
  intro s t h ht
  grind [execAbortRx, State.canonical, State.toC0_mem, State.abort_mem, State.abortIn_mem]

theorem execAdmissionWatchdog_canonical (die : Fin 4) (t : Fin 64) : KeepsCanonical (execAdmissionWatchdog die t) := by
  rintro s _ h ⟨⟩
  split
  · split
    · exact State.canonical_of_mem (State.abort_mem _ _ _ _ _) h
    · exact h
  · exact h

theorem State.endTickets_mem (s : State) (kid : Nat) : (s.endTickets kid).mem = s.mem := by
  grind [State.endTickets, State.abort_mem, foldl_mem]

theorem State.xferUnit_mem (n : Nat) (s : State) (n1 n2 : Nat) (e : Ticket) (e1 : Xfer) (n3 : Nat) :
    (s.xferUnit n n1 n2 e e1 n3).1.mem = s.mem := by
  fun_induction State.xferUnit n s n1 n2 e e1 n3 <;> grind [State.ready_mem]

theorem State.xferNext_mem (s : State) (d t : Nat) (v : Ticket) (x : Xfer) : (s.xferNext d t v x).1.mem = s.mem := by
  grind [State.xferNext, State.collFault_mem, State.xferUnit_mem]

theorem State.xferStart_mem (s : State) (d t : Nat) (v : Ticket) (n : Nat) (node : BitVec 13) (bs : List Byte) (bad : Option FaultRec) :
    (s.xferStart d t v n node bs bad).mem = s.mem :=
  (State.upTicket_mem ..).trans (State.xferNext_mem ..)

theorem State.addElems_canonical (n : Nat) (s : State) (n1 n2 : Nat) (l : List Byte) (h : s.canonical) :
    (s.addElems n n1 n2 l).1.canonical := by
  fun_induction State.addElems n s n1 n2 l <;> grind [State.canonical, State.gAtom_canonical]

theorem State.orrWrite_canonical (v : Via) (n : Nat) (s : State) (n1 : Nat) (l : List Byte) (h : s.canonical) :
    (s.orrWrite v n n1 l).1.canonical := by
  fun_induction State.orrWrite v n s n1 l <;> grind [State.canonical, State.gWrite_canonical]

theorem State.collBroke_mem (s : State) (d t : Nat) (bad : Option FaultRec) : (s.collBroke d t bad).mem = s.mem := by
  cases bad <;> grind [State.collBroke, State.abort_mem]

theorem State.msgIn_mem (s : State) (d : Nat) (comm : BitVec 16) (key : W64) (n : Nat) (bs : List Byte) :
    (s.msgIn d comm key n bs).mem = s.mem := by
  grind [State.msgIn, State.upTicket_mem]

theorem State.sendMsg_mem (s : State) (d t n : Nat) (bs : List Byte) : (s.sendMsg d t n bs).mem = s.mem := by
  grind [State.sendMsg, State.upTicket_mem, State.msgIn_mem, State.collFault_mem, State.emit_mem]

theorem State.slotFreed_mem (s : State) (d : Nat) (comm : BitVec 16) (key : W64) (n : Nat) : (s.slotFreed d comm key n).mem = s.mem := by
  grind [State.slotFreed, State.upTicket_mem, State.walkDone_mem, State.sendMsg_mem]

theorem State.freeSlot_mem (s : State) (d t n : Nat) : (s.freeSlot d t n).mem = s.mem := by
  grind [State.freeSlot, State.upTicket_mem, State.tellMember_mem, State.slotFreed_mem]

theorem State.transfer_canonical (s : State) (d t : Nat) (v : Ticket) (n : Nat) (bs : List Byte) (bad : Option FaultRec) (h : s.canonical) :
    (s.transfer d t v n bs bad).canonical := by
  grind [State.transfer, State.canonical, State.collBroke_mem, State.freeSlot_mem, State.sendMsg_mem, State.orrWrite_canonical,
    State.collFault_mem, State.xferStart_mem, State.addElems_canonical]

theorem execCollTransfer_canonical (die : Fin 4) (t : Fin 64) : KeepsCanonical (execCollTransfer die t) := by
  intro s u h hu
  grind [execCollTransfer, State.canonical, State.gRead_mem, State.upTicket_mem, State.walkDone_mem, State.transfer_canonical]

theorem execRfwdMessageRx_canonical (die : Fin 4) (comm : BitVec 16) (key : W64) (n : Nat) (d : RfwdData) :
    KeepsCanonical (execRfwdMessageRx die comm key n d) := by
  intro s t h ht
  grind [execRfwdMessageRx, State.canonical, State.toC0_mem, State.emit_mem, State.msgIn_mem, State.pkeyEvent_canonical]

theorem execRfwdSlotFree_canonical (die : Fin 4) (comm : BitVec 16) (key : W64) (n : Nat) :
    KeepsCanonical (execRfwdSlotFree die comm key n) := by
  rintro s _ h ⟨⟩
  exact State.canonical_of_mem ((State.slotFreed_mem ..).trans (State.toC0_mem ..)) h

theorem State.xferAcked_mem (s : State) (d t : Nat) (v : Ticket) (x : Xfer) (n : Nat) : (s.xferAcked d t v x n).mem = s.mem := by
  grind [State.xferAcked, State.upTicket_mem, State.walkDone_mem, State.collBroke_mem, State.xferNext_mem]

theorem execPerformedAckRx_canonical (src : BitVec 13) (tag : BitVec 16) (n : Nat) (bad : Option FaultRec) :
    KeepsCanonical (execPerformedAckRx src tag n bad) := by
  intro s t h ht
  grind [execPerformedAckRx, State.canonical, State.toC0_mem, State.copyAcked_canonical, State.ordAcked_mem, State.abort_mem,
    State.xferAcked_mem]

theorem State.abandon_canonical (s : State) (own : FlitOwner) (f : Flit) (link : Option Nat) (h : s.canonical) :
    (s.abandon own f link).canonical := by
  grind [State.abandon, State.canonical, State.event_canonical, State.abandonOwner_canonical, State.collFault_mem]

theorem State.noWay_canonical (s : State) (j : Nat) (o : OutFlit) (h : s.canonical) : (s.noWay j o).canonical := by
  grind [State.noWay, State.canonical, State.abandonOwner_canonical, State.upFab_mem, State.collFault_mem]

theorem execFlitSend_canonical (p : Fin 16) (ch : Fin 18) (j : Nat) : KeepsCanonical (execFlitSend p ch j) := by
  intro s t h ht
  grind [execFlitSend, State.canonical, State.noWay_canonical, State.upFab_mem, State.linkWork_mem, State.sendFlit_mem]

theorem execFlitAbandon_canonical (j : Nat) : KeepsCanonical (execFlitAbandon j) := by
  rintro s _ h ⟨⟩
  have habandon := fun f own g link => State.abandon_canonical (s.upFab f) own g link (State.canonical_of_mem (State.upFab_mem s f) h)
  split
  · exact State.canonical_ite (habandon _ _ _ _) h
  · dsimp only
    split
    · exact State.canonical_ite (habandon _ _ _ _) h
    · exact h

end Sys2Proof.Machine
end

section
/-! SUPPORT. The dispatcher and the halts keep physical memory in its canonical form (03; 16). -/

namespace Sys2Proof.Machine

/-! ## System words -/

theorem State.upCores_mem (s : State) (f : Core → Core) (ks : List Nat) : (s.upCores f ks).mem = s.mem :=
  foldl_mem (fun _ _ => State.upCore_mem ..) ..

theorem State.icInvalidate_mem (s : State) (x : Nat) (p : Scope) (a n : Nat) : (s.icInvalidate x p a n).mem = s.mem := by
  grind [State.icInvalidate, State.upCores_mem]

theorem State.tlbInvalidate_mem (s : State) (x : Nat) (p : Scope) (sel : W64) (len : Nat) : (s.tlbInvalidate x p sel len).mem = s.mem := by
  grind [State.tlbInvalidate, State.upCores_mem, State.setWalks_mem, foldl_mem]

theorem State.launch_canonical (s : State) (x : Nat) (a ptr : W64) (h : s.canonical) : (s.launch x a ptr).1.canonical := by
  grind [State.launch, State.canonical, State.setQueue_mem, State.wr_canonical]

theorem State.beginOutside_mem (s : State) (x a : Nat) : (s.beginOutside x a).mem = s.mem := State.ite_mem (State.trapIn_mem ..) rfl

theorem State.flush_mem (s : State) (p : Nat) : (s.flush p).mem = s.mem := rfl

theorem State.ctxctlAt_mem (s : State) (k p op : Nat) (arg : W64) (arr : Option Arrive) : (s.ctxctlAt k p op arg arr).1.mem = s.mem := by
  grind [State.ctxctlAt.eq_def, State.upCtx_mem, State.arrive_mem, State.flush_mem, State.beginOutside_mem, foldl_mem]

theorem State.ctxctl_mem (s : State) (x : Nat) (w arg : W64) (arr : Option Arrive) : (s.ctxctl x w arg arr).1.mem = s.mem := by
  grind [State.ctxctl, State.ctxctlAt_mem]

/-! ## The dispatcher -/

theorem State.noCrec_mem (s : State) (q : Nat) (a : W64) : (s.noCrec q a).mem = s.mem := rfl

theorem State.writeCrec_canonical (s : State) (q : Nat) (a : W64) (bs : List Byte) (h : s.canonical) : (s.writeCrec q a bs).canonical := by
  grind [State.writeCrec, State.canonical, State.noCrec_mem, State.wr_canonical]

theorem State.breakObj_mem (s : State) (o : Nat) : (s.breakObj o).mem = s.mem := rfl

theorem State.cint_mem (s : State) : s.cint.mem = s.mem := State.ite_mem rfl ((State.upSys_mem ..).trans (State.msi_mem ..))

theorem State.finishKernel_canonical (s : State) (k : Kernel) (e : EndInfo) (requeue : Bool) (h : s.canonical) :
    (s.finishKernel k e requeue).canonical := by
  grind [State.finishKernel, State.canonical, State.writeCrec_canonical, State.post_mem, State.breakObj_mem, State.mem_finishInt]

theorem State.freeCtx_mem (s : State) (x : Nat) : (s.freeCtx x).mem = s.mem := State.ite_mem rfl (State.setGroup_mem ..)

theorem State.freeAll_mem (s : State) (kid : Nat) : (s.freeAll kid).mem = s.mem := foldl_mem (fun _ _ => State.freeCtx_mem ..) ..

theorem State.uncand_mem (s : State) (k : Kernel) (kid : Nat) : (s.uncand k kid).mem = s.mem := rfl

theorem State.recand_mem (s : State) (q kid : Nat) : (s.recand q kid).mem = s.mem := rfl

theorem State.look_canonical (s : State) (kid : Nat) (taken : Bool) (sees : Nat → Bool) (h : s.canonical) :
    (s.look kid taken sees).canonical := by
  grind [State.look, State.canonical, State.setKernel_mem, State.uncand_mem, State.freeAll_mem, State.finishKernel_canonical]

theorem execDependenceEventSeen_canonical (o : Fin 16384) : KeepsCanonical (execDependenceEventSeen o) := by
  intro s t h ht
  grind [execDependenceEventSeen, State.canonical, State.look_canonical, foldl_canonical]

theorem State.badPtr_mem (s : State) (q a : Nat) : (s.badPtr q a).mem = s.mem := rfl

theorem State.takeRecord_canonical (s : State) (q : Nat) (bs : List Byte) (h : s.canonical) : (s.takeRecord q bs).canonical := by
  grind [State.takeRecord, State.canonical, State.setQueue_mem, State.finishKernel_canonical, State.look_canonical, State.setKernel_mem]

theorem State.readRecord_canonical (s : State) (q ptr : Nat) (bs : List Byte) (n : Nat) (h : s.canonical) :
    (s.readRecord q ptr bs n).canonical := by
  grind [State.readRecord, State.canonical, State.badPtr_mem, State.setQueue_mem, State.takeRecord_canonical]

theorem execTakeQueueEntry_canonical (q : Fin 64) : KeepsCanonical (execTakeQueueEntry q) := by
  intro s t h ht
  grind [execTakeQueueEntry, State.canonical, State.draw_mem, State.readRecord_canonical, State.badPtr_mem]

theorem State.prepare_mem (s : State) (kid : Nat) (r : KRec) (st : OccSt) (n x : Nat) : (s.prepare kid r st n x).mem = s.mem := rfl

theorem State.preFetch_mem (s : State) (r : KRec) (x : Nat) : (s.preFetch r x).mem = s.mem := by
  grind [State.preFetch, State.fetchPacket_mem, State.upCore_mem, foldl_mem]

theorem State.reserveFresh_mem (s : State) (kid : Nat) (k : Kernel) (xs : List Nat) (pre : Bool) :
    (s.reserveFresh kid k xs pre).mem = s.mem := by
  grind [State.reserveFresh, State.prepare_mem, State.setKernel_mem, State.preFetch_mem, foldl_mem]

theorem State.reserveSaved_mem (s : State) (kid : Nat) (k : Kernel) (xs : List Nat) : (s.reserveSaved kid k xs).mem = s.mem := by
  grind [State.reserveSaved, State.setCtx_mem, State.setKernel_mem, foldl_mem]

theorem State.seat_mem (s : State) (kid : Nat) (k : Kernel) (xs : List Nat) : (s.seat kid k xs).mem = s.mem := by
  grind [State.seat, State.uncand_mem, State.reserveSaved_mem, State.reserveFresh_mem]

theorem State.unpreload_mem (s : State) (y : Nat) : (s.unpreload y).mem = s.mem := (State.upKernel_mem ..).trans (State.freeAll_mem ..)

theorem State.fitOrEvict_mem (s : State) (k : Kernel) {r : State × List Nat} (ht : s.fitOrEvict k = some r) : r.1.mem = s.mem := by
  grind [State.fitOrEvict, foldl_mem, State.unpreload_mem, Option.map_eq_some_iff]

theorem State.placeFirst_mem (s : State) (l : List (Nat × Kernel)) : (s.placeFirst l).mem = s.mem := by
  induction l with
  | nil => rfl
  | cons e es ih =>
    unfold State.placeFirst
    split
    · next hf => exact (State.seat_mem _ _ _ _).trans (State.fitOrEvict_mem s e.2 hf)
    · exact ih

theorem State.preloadFirst_mem (s : State) : s.preloadFirst.mem = s.mem := by
  grind [State.preloadFirst, State.reserveFresh_mem]

theorem execPlacementDecision_canonical : KeepsCanonical execPlacementDecision := by
  intro s t h ht
  grind [execPlacementDecision, State.canonical, State.upSys_mem, State.draw_mem, State.placeFirst_mem, State.preloadFirst_mem]

theorem State.startFault_mem (s : State) (x : Nat) (r : KRec) : (s.startFault x r).mem = s.mem := State.beginOutside_mem ..

theorem State.startFresh_mem (s : State) (x : Nat) (r : KRec) : (s.startFresh x r).mem = s.mem :=
  (State.startFault_mem ..).trans (State.upCtx_mem ..)

theorem execPreloadStart_canonical (kid : Nat) : KeepsCanonical (execPreloadStart kid) := by
  intro s t h ht
  grind [execPreloadStart, State.canonical, State.uncand_mem, State.setKernel_mem, State.startFresh_mem, State.upCore_mem, foldl_mem]

/-! ## Landing, halts, saves and kills -/

theorem State.smcAnswer_mem (s : State) (x : Nat) (d : Dest) (v : W64) (alone : Bool) : (s.smcAnswer x d v alone).mem = s.mem :=
  (State.upCore_mem ..).trans (State.landVal_mem ..)

theorem State.landPend_mem (s : State) (x j : Nat) (refill : Bool) (gs : BitVec 16) : (s.landPend x j refill gs).mem = s.mem := by
  unfold State.landPend
  split
  · rfl
  next p _ =>
    extract_lets s'
    have hs' : s'.mem = s.mem := State.upCtx_mem s x _
    split
    · exact (State.landVal_mem _ _ _ _ _ _).trans hs'
    · next size f lanes got _ =>
      extract_lets now
      have hread := State.readLanes_mem (coreOf x) f refill size now lanes s'
      grind [State.landVal_mem, State.trapIn_mem, State.upCtx_mem]
    · grind [State.landMirror_mem]
    · grind [State.smcAnswer_mem]
    · rfl

theorem execLoadResultLands_canonical (x j : Nat) (g : LoadTake) : KeepsCanonical (execLoadResultLands x j g) := by
  intro s t h ht
  grind [execLoadResultLands, State.canonical, State.draw_mem, State.landPend_mem]

theorem execResultLands_canonical (x j : Nat) : KeepsCanonical (execResultLands x j) := by
  intro s t h ht
  grind [execResultLands, State.canonical, State.upCtx_mem]

theorem State.reissue_canonical (s : State) (x : Nat) (ps qs : List Pend) (h : s.canonical) : (s.reissue x ps qs).canonical := by
  induction qs generalizing s ps with
  | nil => exact h
  | cons p qs ih =>
    unfold State.reissue
    split
    · next va size f lanes _ =>
      have := readRefs_mem (coreOf x) (s.asidOf x) (s.worldOf x) (lanes.map fun j => (j, va.setWidth 64 + BitVec.ofNat 64 (if size = 4 then
        4 * j else 0))) s
      dsimp only
      split
      · grind [State.canonical]
      · split
        · split
          · next hpark => exact State.canonical_of_mem (State.upCtx_mem _ _ _) (State.park_canonical _ _ _ _ (by grind [State.canonical])
            hpark)
          · grind [State.canonical, State.trapIn_mem]
        · grind [State.canonical, State.trapIn_mem]
    · exact ih s _ h

theorem State.haltOne_mem (s : State) (x : Nat) (forced : Bool) : (s.haltOne x forced).mem = s.mem := by
  grind [State.haltOne, State.upCtx_mem, State.landAnswers_mem, State.arrive_mem, foldl_mem]

theorem State.haltGang_mem (s : State) (x : Nat) (forced : Bool) : (s.haltGang x forced).mem = s.mem :=
  foldl_mem (fun _ _ => State.haltOne_mem ..) ..

theorem execHaltRequestArrives_canonical (x : Nat) : KeepsCanonical (execHaltRequestArrives x) := by
  intro s t h ht
  grind [execHaltRequestArrives, State.canonical, State.upCtx_mem]

theorem execContextHalt_canonical (x : Nat) : KeepsCanonical (execContextHalt x) := by
  intro s t h ht
  grind [execContextHalt, State.canonical, State.haltGang_mem]

theorem execForcedHalt_canonical (x : Nat) : KeepsCanonical (execForcedHalt x) := by
  intro s t h ht
  grind [execForcedHalt, State.canonical, State.haltGang_mem]

theorem State.beginRequeue_mem (s : State) (kid : Nat) (k : Kernel) (overrun : Bool) : (s.beginRequeue kid k overrun).mem = s.mem :=
  (State.upCtxs_mem ..).trans ((State.setQueue_mem ..).trans (State.setKernel_mem ..))

theorem execBudgetOverrun_canonical (kid : Nat) : KeepsCanonical (execBudgetOverrun kid) := by
  intro s t h ht
  grind [execBudgetOverrun, State.canonical, State.upKernel_mem, State.beginRequeue_mem, State.mem_kill, State.setKernel_mem, foldl_mem]

theorem State.dropPreloads_mem (s : State) (q : Nat) : (s.dropPreloads q).mem = s.mem := foldl_mem (fun _ _ => State.unpreload_mem ..) ..

theorem execKstopPreempt_canonical (a : QueueAt) : KeepsCanonical (execKstopPreempt a) := by
  intro s t h ht
  grind [execKstopPreempt, State.canonical, State.regAccess_mem, State.dropPreloads_mem, State.beginRequeue_mem, State.mem_kill, foldl_mem]

theorem execKstopKill_canonical (a : QueueAt) : KeepsCanonical (execKstopKill a) := by
  intro s t h ht
  grind [execKstopKill, State.canonical, State.regAccess_mem, State.dropPreloads_mem, State.mem_kill, foldl_mem]

theorem State.rekey_mem (s : State) (kid x y lo n : Nat) : (s.rekey kid x y lo n).mem = s.mem := rfl

theorem State.move_mem (s : State) (kid : Nat) (r : KRec) (x y b : Nat) (st : OccSt) : (s.move kid r x y b st).mem = s.mem := by
  grind [State.move, State.upCore_mem, State.releaseClaim_mem, State.freeCtx_mem, State.setCtx_mem, State.rekey_mem, State.upFab_mem]

theorem State.devWrite_canonical (s : State) (q n n1 : Nat) (l : List Byte) (h : s.canonical) : (s.devWrite q n n1 l).canonical := by
  fun_induction State.devWrite s q n n1 l <;> grind [State.canonical, State.wr_canonical]

theorem execInstanceSave_canonical (x : Nat) : KeepsCanonical (execInstanceSave x) := by
  intro s t h ht
  grind [execInstanceSave, State.canonical, State.freeCtx_mem, State.upCtx_mem, State.devWrite_canonical, State.move_mem, State.draw_mem,
    State.upKernel_mem]

theorem State.reload_mem (s : State) (q a x : Nat) : (s.reload q a x).mem = s.mem := by
  grind [State.reload, State.upCore_mem, State.upCtx_mem]

theorem execInstanceStart_canonical (x : Nat) : KeepsCanonical (execInstanceStart x) := by
  intro s t h ht
  grind [execInstanceStart, State.canonical, State.upCore_mem, State.startFresh_mem, State.move_mem, State.reload_mem, State.upCtx_mem,
    State.upKernel_mem, State.setQueue_mem]

theorem execRequeueSettle_canonical (kid : Nat) : KeepsCanonical (execRequeueSettle kid) := by
  intro s t h ht
  grind [execRequeueSettle, State.canonical, State.upCtxs_mem, State.finishKernel_canonical, State.recand_mem, State.setKernel_mem]

theorem State.endKernel_mem (s : State) (kid : Nat) : (s.endKernel kid).mem = s.mem := by
  grind [State.endKernel, State.endTickets_mem, State.upFab_mem, State.setLease_mem, State.sendReleases_mem, foldl_mem]

theorem State.strip_mem (s : State) (r : KRec) (kid x : Nat) : (s.strip r kid x).mem = s.mem := by
  grind [State.strip, State.undefineCmd_mem, State.killHandles_mem, State.releaseClaim_mem, State.upCore_mem, foldl_mem]

theorem State.dropBehind_mem (s : State) (x : Kernel) (kid : Nat) : (s.dropBehind x kid).mem = s.mem := by
  grind [State.dropBehind, State.upKernel_mem, State.unpreload_mem, foldl_mem]

theorem State.forget_mem (s : State) (k : Kernel) (kid : Nat) : (s.forget k kid).mem = s.mem := rfl

theorem execKillSettle_canonical (kid : Nat) : KeepsCanonical (execKillSettle kid) := by
  intro s t h ht
  grind [execKillSettle, State.canonical, State.strip_mem, State.freeCtx_mem, State.forget_mem, State.endKernel_mem, State.dropBehind_mem,
    State.draw_mem, State.recand_mem, State.setKernel_mem, State.finishKernel_canonical, foldl_mem]

theorem State.dropHandles_mem (s : State) (k lo n : Nat) : (s.dropHandles k lo n).mem = s.mem := by
  grind [State.dropHandles, State.dropReg_mem, foldl_mem]

theorem execInstanceRetireDone_canonical (x : Nat) : KeepsCanonical (execInstanceRetireDone x) := by
  intro s t h ht
  grind [execInstanceRetireDone, State.canonical, State.releaseClaim_mem, State.upCtx_mem, State.freeCtx_mem, State.dropHandles_mem,
    State.finishKernel_canonical, State.forget_mem, State.endKernel_mem, State.setKernel_mem]

end Sys2Proof.Machine
end

section
/-! SUPPORT. The effect of each instruction word keeps physical memory in its canonical form (06 to 16). -/

namespace Sys2Proof.Machine

/-! ## What a word is built from -/

theorem Res.canonical_ite {c : Prop} [Decidable c] {r r' : Res} (hr : r.canonical) (hr' : r'.canonical) :
    (if c then r else r').canonical := by
  split
  · exact hr
  · exact hr'

theorem withSp_canonical {i : Iss} {k : Nat → Res} (hk : ∀ n, (k n).canonical) (ea : W64) (n al : Nat) :
    (withSp i ea n al k).canonical := by
  unfold withSp
  split
  · trivial
  · exact hk _

theorem feWait_canonical {i : Iss} {k : Res} (hi : i.s.canonical) (hk : k.canonical) (q : QLoad) (g n : Nat) :
    (feWait i q g n k).canonical := by
  unfold feWait
  split
  · exact hk
  · exact hk
  · exact hi

theorem pinWait_canonical {i : Iss} {k : Res} (hi : i.s.canonical) (hk : k.canonical) (l : List (Nat × Nat)) :
    (pinWait i l k).canonical := by
  unfold pinWait
  split
  · exact hi
  · exact hk

theorem laneChecks_canonical {i : Iss} {k : Res} (hk : k.canonical) (a : Fin 32) (x : Fin 64) : (laneChecks i a x k).canonical := by
  unfold laneChecks
  split
  · trivial
  · exact hk

theorem withObj_canonical {i : Iss} {k : Nat → Res} (hk : ∀ n, (k n).canonical) (h : Fin 96) : (withObj i h k).canonical := by
  unfold withObj
  split
  · exact hk _
  · trivial

theorem capture_canonical {i : Iss} {k : Option Arrive → Res} (hk : ∀ a, (k a).canonical) (h : Hnd) : (capture i h k).canonical := by
  cases h with
  | none => exact hk none
  | some h => exact withObj_canonical (fun _ => hk _) h

theorem takeClaim_canonical {i : Iss} {k : Res} (hi : i.s.canonical) (hk : k.canonical) : (takeClaim i k).canonical := by
  unfold takeClaim
  split
  · split
    · exact hk
    · exact hi
  · exact hk

theorem queueRoom_canonical {i : Iss} {k : Res} (hi : i.s.canonical) (hk : k.canonical) : (queueRoom i k).canonical := by
  unfold queueRoom
  split
  · exact hi
  · exact hk

theorem onceGranted_canonical {i : Iss} {s : State} {k : Res} (h : s.canonical) (hk : k.canonical) (n : Nat) :
    (onceGranted i n s k).canonical := by
  unfold onceGranted
  split
  · exact hk
  · exact h

theorem effE_keepsCanonical {e : Eff} (he : e.KeepsCanonical) (d : Option (Fin 32)) : (effE d e).KeepsCanonical := by
  intro i o hi ho
  unfold effE
  dsimp only
  split
  · split
    · exact ho
    · exact ho
  · exact he i _ hi ho

@[simp] theorem Out.tag_s (o : Out) (i : Iss) : (o.tag i).s = o.s := by
  unfold Out.tag
  split <;> rfl

@[simp] theorem Out.feClear_s_mem (o : Out) (i : Iss) (q : QLoad) (a n : Nat) : (o.feClear i q a n).s.mem = o.s.mem := by
  cases q <;> rfl

theorem Out.store_s_mem (o : Out) (i : Iss) (a : Nat) (bs : List Byte) : (o.store i a bs).s.mem = o.s.mem := State.spStore_mem _ _ _ _

theorem foldl_store_s_mem (i : Iss) (l : List (Nat × List Byte)) (o : Out) :
    (l.foldl (fun o w => o.store i w.1 w.2) o).s.mem = o.s.mem := by
  induction l generalizing o with
  | nil => rfl
  | cons w l ih => exact (ih _).trans (Out.store_s_mem o i w.1 w.2)

/-! ## Scratchpad and global memory -/

theorem ldsN_keepsCanonical (n : Nat) (sgn : Bool) (q : QLoad) (d a : Fin 32) (off : Int) : (ldsN n sgn q d a off).KeepsCanonical := by
  refine fun i o hi ho => withSp_canonical (fun ea => feWait_canonical hi ?_ q _ 1) _ _ _
  split
  · trivial
  · grind [Res.canonical, State.canonical, Out.feClear_s_mem, Out.fS]

theorem effLdv_keepsCanonical (q : QLoad) (d : Fin 64) (a : Fin 32) (off : Int) : (effLdv q d a off).KeepsCanonical := by
  refine fun i o hi ho => withSp_canonical (fun ea => feWait_canonical hi ?_ q _ 16) _ _ _
  split
  · trivial
  · grind [Res.canonical, State.canonical, Out.feClear_s_mem, Out.fV]

theorem stsN_keepsCanonical (n : Nat) (q : QStore) (v a : Fin 32) (off : Int) : (stsN n q v a off).KeepsCanonical := by
  refine fun i o hi ho => withSp_canonical (fun ea => pinWait_canonical hi ?_ _) _ _ _
  grind [Res.canonical, State.canonical, Out.store_s_mem, State.feMark_mem]

theorem effStv_keepsCanonical (q : QStore) (v : Fin 64) (a : Fin 32) (off : Int) : (effStv q v a off).KeepsCanonical := by
  refine fun i o hi ho => withSp_canonical (fun ea => pinWait_canonical hi ?_ _) _ _ _
  exact State.canonical_of_mem ((State.feMark_mem _ _ _ _ _).trans (foldl_store_s_mem i _ o)) ho

theorem effStvs_keepsCanonical (v : Fin 64) (a : Fin 32) (x : Fin 64) : (effStvs v a x).KeepsCanonical := by
  refine fun i o hi ho => laneChecks_canonical (pinWait_canonical hi ?_ _) a x
  exact State.canonical_of_mem (foldl_store_s_mem i _ o) ho

theorem effLdvg_keepsCanonical (d : Fin 64) (a : Fin 32) (x : Fin 64) : (effLdvg d a x).KeepsCanonical := by
  refine fun i o hi ho => laneChecks_canonical ?_ a x
  split
  · trivial
  · exact ho

theorem feOp_keepsCanonical (v : Bool) (a : Fin 32) (off : Int) : (feOp v a off).KeepsCanonical := by
  grind [Eff.KeepsCanonical, feOp, Res.canonical, State.canonical, trapAt, State.feMark_mem]

theorem effFetest_keepsCanonical (d a : Fin 32) (off : Int) : (effFetest d a off).KeepsCanonical := by
  grind [Eff.KeepsCanonical, effFetest, Res.canonical, trapAt, Out.fS]

theorem globalFault_canonical {i : Iss} (hi : i.s.canonical) (acc : Nat) (f : XFault) (a : W64) : (globalFault i acc f a).canonical := by
  grind [globalFault, Res.canonical, trapAt, State.park_canonical]

theorem ldgN_keepsCanonical (f : Bool) (size al : Nat) (dst : Dest) (a : W64) (lanes : List (Nat × W64)) :
    (ldgN f size al dst a lanes).KeepsCanonical := by
  grind [Eff.KeepsCanonical, ldgN, Res.canonical, State.canonical, trapAt, Out.pend, readRefs_mem, globalFault_canonical]

theorem effLdc_keepsCanonical (d : Fin 32) (z : LdcSz) (off : Int) : (effLdc d z off).KeepsCanonical := by
  intro i o hi ho
  unfold effLdc
  dsimp only
  split
  · trivial
  · split
    · split
      · split
        · exact State.park_canonical _ _ _ _ hi ‹_›
        · trivial
      · trivial
    · trivial
    · next hread =>
        exact Res.canonical_ite
          (State.canonical_of_mem ((congrArg (·.1.mem) hread).symm.trans (State.fetchPacket_mem o.s i.x _)) ho) trivial

/-! ## The matrix unit -/

theorem effMxgo_keepsCanonical (h : Hnd) : (effMxgo h).KeepsCanonical := by
  refine effE_keepsCanonical (fun i o hi ho => queueRoom_canonical hi (takeClaim_canonical hi ?_)) _
  split
  · trivial
  · exact capture_canonical (by intro _; exact ho) h

theorem effMxwait_keepsCanonical (a : Fin 32) : (effMxwait a).KeepsCanonical := by
  grind [Eff.KeepsCanonical, effMxwait, Res.canonical, State.canonical, waitFor, trapRec, State.upCtx_mem]

theorem effMxlease_keepsCanonical : effMxlease.KeepsCanonical := by
  refine effE_keepsCanonical (fun i o hi ho => ?_) _
  split
  · trivial
  · exact takeClaim_canonical hi ho

theorem effMxleaseJoin_keepsCanonical : effMxleaseJoin.KeepsCanonical := by
  refine effE_keepsCanonical (fun i o hi ho => ?_) _
  split
  · trivial
  · exact takeClaim_canonical hi ho

theorem effMxfreeJoin_keepsCanonical : effMxfreeJoin.KeepsCanonical :=
  effE_keepsCanonical (by grind [Eff.KeepsCanonical, Res.canonical, waitFor]) _

theorem effMxfreeClaim_keepsCanonical : effMxfreeClaim.KeepsCanonical :=
  effE_keepsCanonical (by grind [Eff.KeepsCanonical, Res.canonical, State.canonical, waitFor, State.releaseClaim_mem]) _

theorem tileCmd_canonical {i : Iss} {o : Out} (hi : i.s.canonical) (ho : o.s.canonical) (b : W64) (h : Hnd) (kind : MxKind) :
    (tileCmd i o b h kind).canonical := by
  unfold tileCmd
  split
  · trivial
  · exact takeClaim_canonical hi (queueRoom_canonical hi (capture_canonical (by intro _; exact ho) h))

theorem tileMem_keepsCanonical (a b : Fin 32) (st : Bool) (h : Hnd) (kind : W64 → W64 → MxKind) : (tileMem a b st h kind).KeepsCanonical :=
  effE_keepsCanonical (fun _ _ hi ho => withSp_canonical (fun _ => tileCmd_canonical hi ho _ h _) _ _ _) _

theorem effMxz_keepsCanonical (b : Fin 32) (st : Bool) (h : Hnd) : (effMxz b st h).KeepsCanonical :=
  effE_keepsCanonical (fun _ _ hi ho => tileCmd_canonical hi ho _ h _) _

theorem effRingset_keepsCanonical (q : Fin 8) (a c : Fin 32) : (effRingset q a c).KeepsCanonical :=
  effE_keepsCanonical (fun i o hi ho => withSp_canonical (by grind [Res.canonical, mxTrap, trapAt, waitFor]) _ _ _) _

theorem effRingpush_keepsCanonical (q : Fin 8) (a : Fin 32) : (effRingpush q a).KeepsCanonical :=
  effE_keepsCanonical (by grind [Eff.KeepsCanonical, Res.canonical, mxTrap, trapAt, waitFor]) _

theorem effSctab_keepsCanonical (a b c : Fin 32) : (effSctab a b c).KeepsCanonical :=
  effE_keepsCanonical (fun i o hi ho =>
    withSp_canonical (by grind [Res.canonical, State.canonical, mxTrap, trapAt, waitFor, State.scDrop_mem]) _ _ _) _

theorem effScinv_keepsCanonical (a : Fin 32) : (effScinv a).KeepsCanonical :=
  effE_keepsCanonical (by grind [Eff.KeepsCanonical, Res.canonical, State.canonical, mxTrap, trapAt, waitFor, State.scDrop_mem]) _

/-! ## Copies -/

theorem enqueueCopy_canonical {i : Iss} {o : Out} (hi : i.s.canonical) (ho : o.s.canonical) (h : Hnd) (f : Option Arrive → Nat → Copy) :
    (enqueueCopy i o h f).canonical := by
  refine capture_canonical (fun _ => ?_) h
  split
  · exact hi
  · exact ho

theorem issueCopy_canonical {i : Iss} {o : Out} (hi : i.s.canonical) (ho : o.s.canonical) (r : CopyReq) (l : CopyLend) (h : Hnd) (b c : W64) :
    (issueCopy i o r l h b c).canonical := by
  grind [issueCopy, Res.canonical, trapAt, enqueueCopy_canonical]

theorem copy_keepsCanonical (r : Iss → CopyReq) (l : CopyLend) (h : Hnd) (b c : Iss → W64) :
    (effE none fun i o => issueCopy i o (r i) l h (b i) (c i)).KeepsCanonical :=
  effE_keepsCanonical (fun i _ hi ho => issueCopy_canonical hi ho (r i) l h (b i) (c i)) _

theorem effCpys_keepsCanonical (l : CopyLend) (a b c : Fin 32) (h : Hnd) : (effCpys l a b c h).KeepsCanonical := by
  refine effE_keepsCanonical (fun i o hi ho => withSp_canonical (fun x => ?_) _ _ _) _
  split
  · trivial
  · exact issueCopy_canonical hi ho _ l h _ _

theorem fop_canonical {i : Iss} {o : Out} (hi : i.s.canonical) (ho : o.s.canonical) (op : Nat) (l : CopyLend) (a b : Fin 32) (c : W64)
    (h : Hnd) : (fop op l a b c h i o).canonical := by
  grind [fop, Res.canonical, trapAt, withSp_canonical, enqueueCopy_canonical]

theorem fop_keepsCanonical (op : Nat) (l : CopyLend) (a b : Fin 32) (c : Iss → W64) (h : Hnd) :
    (effE none fun i o => fop op l a b (c i) h i o).KeepsCanonical :=
  effE_keepsCanonical (fun i _ hi ho => fop_canonical hi ho op l a b (c i) h) _

/-! ## The fabric -/

theorem effBwreq_keepsCanonical (c a b : Fin 32) (h : Hnd) : (effBwreq c a b h).KeepsCanonical :=
  effE_keepsCanonical (fun i o _ ho => capture_canonical (by grind [Res.canonical, State.canonical, Out.ans, Out.pend, State.bwreq_mem]) h) _

theorem effBwrel_keepsCanonical (a : Fin 32) (h : Hnd) : (effBwrel a h).KeepsCanonical :=
  effE_keepsCanonical (fun i o _ ho =>
    capture_canonical (by grind [Res.canonical, State.canonical, State.setLease_mem, State.sendReleases_mem]) h) _

theorem effLrset_keepsCanonical (c a : Fin 32) (h : Hnd) : (effLrset c a h).KeepsCanonical := by
  refine effE_keepsCanonical (fun i o _ ho => withSp_canonical (fun x => ?_) _ _ _) _
  split
  · trivial
  · exact capture_canonical (by grind [Res.canonical, State.canonical, Out.ans, Out.pend, State.setRing_mem]) h

theorem effPuts_keepsCanonical (l : CopyLend) (a b c : Fin 32) (h : Hnd) : (effPuts l a b c h).KeepsCanonical := by
  refine effE_keepsCanonical (fun i o hi ho => ?_) _
  have hcopy := fun r => issueCopy_canonical hi ho r l h (i.rS b) (i.rS c)
  grind [Res.canonical, State.canonical, trapAt, State.setRing_mem, State.upCore_mem]

theorem effRels_keepsCanonical (a b : Fin 32) : (effRels a b).KeepsCanonical :=
  effE_keepsCanonical (by grind [Eff.KeepsCanonical, Res.canonical, State.canonical, trapAt, waitFor, State.setRing_mem, State.queueCtl_mem]) _

theorem effColl_keepsCanonical (c a : Fin 32) (h : Fin 96) : (effColl c a h).KeepsCanonical := by
  refine effE_keepsCanonical (fun i o _ ho => withSp_canonical (fun x => withObj_canonical (fun ob => ?_) h) _ _ _) _
  split
  · trivial
  · grind [Res.canonical, State.canonical, Out.ans, Out.pend, State.coll_mem]

/-! ## Phasers -/

theorem signal_canonical {i : Iss} {s : State} {k : State → Res} (hi : i.s.canonical) (h : s.canonical)
    (hk : ∀ s, s.canonical → (k s).canonical) (n : Fin 96) (ob : Nat) : (signal i n ob s k).canonical := by
  unfold signal
  dsimp only
  split
  · split
    · exact hi
    · exact hk _ h
  · exact hk _ h

theorem effPhbind_keepsCanonical (c a : Fin 32) (h : Fin 96) : (effPhbind c a h).KeepsCanonical :=
  effE_keepsCanonical (by grind [Eff.KeepsCanonical, Res.canonical, State.canonical, Out.ans, Out.pend, State.dropReg_mem, State.initObj_mem,
    State.upHandle_mem]) _

theorem effPhdrop_keepsCanonical (h : Fin 96) : (effPhdrop h).KeepsCanonical :=
  effE_keepsCanonical (fun i o _ ho => withObj_canonical (by grind [Res.canonical, State.canonical, State.dropReg_mem]) h) _

theorem effPhsig_keepsCanonical (p : Scope) (h : Fin 96) : (effPhsig p h).KeepsCanonical :=
  effE_keepsCanonical (fun _ _ hi ho => withObj_canonical (fun ob => signal_canonical hi ho (by intro _ hs; exact hs) h ob) h) _

theorem effPhadd_keepsCanonical (p : Scope) (h : Fin 96) (a : Fin 32) : (effPhadd p h a).KeepsCanonical :=
  effE_keepsCanonical (fun i o _ ho => withObj_canonical (by grind [Res.canonical, State.canonical, State.post_mem]) h) _

theorem effPhwait_keepsCanonical (p : Scope) (h : Fin 96) : (effPhwait p h).KeepsCanonical :=
  effE_keepsCanonical (by grind [Eff.KeepsCanonical, Res.canonical, State.canonical, trapRec, trapAt, waitFor, State.phDone_mem]) _

theorem effPhnext_keepsCanonical (p : Scope) (h : Fin 96) : (effPhnext p h).KeepsCanonical := by
  refine effE_keepsCanonical (fun i o hi ho => ?_) _
  split
  · trivial
  · exact withObj_canonical (fun ob => signal_canonical hi ho (by intro _ hs; exact hs) h ob) h

theorem effFence_keepsCanonical (p : Scope) : (effFence p).KeepsCanonical :=
  effE_keepsCanonical (by grind [Eff.KeepsCanonical, Res.canonical, State.canonical, trapRec, waitFor, State.acquire_mem]) _

/-! ## Control and system words -/

theorem effRdsr_keepsCanonical (d : Fin 32) (r : Fin 4096) : (effRdsr d r).KeepsCanonical := by
  grind [Eff.KeepsCanonical, effRdsr, Res.canonical, State.canonical, Out.fS, State.upCtx_mem]

theorem effWrsr_keepsCanonical (r : Fin 4096) (a : Fin 32) : (effWrsr r a).KeepsCanonical := by
  grind [Eff.KeepsCanonical, effWrsr, Res.canonical]

theorem effBr_keepsCanonical (c : Cond) (a : Fin 32) (off : Int) : (effBr c a off).KeepsCanonical := by
  grind [Eff.KeepsCanonical, effBr, Res.canonical]

theorem loopPush_keepsCanonical (n : Int) (e : Nat) : (loopPush n e).KeepsCanonical := by
  grind [Eff.KeepsCanonical, loopPush, Res.canonical, trapAt]

theorem effBrkl_keepsCanonical : effBrkl.KeepsCanonical := by
  grind [Eff.KeepsCanonical, effBrkl, Res.canonical, trapAt]

theorem effLidx_keepsCanonical (d : Fin 32) (k : Fin 6) : (effLidx d k).KeepsCanonical := by
  grind [Eff.KeepsCanonical, effLidx, Res.canonical, trapAt, Out.wS]

theorem effHalt_keepsCanonical : effHalt.KeepsCanonical := by
  grind [Eff.KeepsCanonical, effHalt, Res.canonical]

theorem effVcvt_keepsCanonical (d : Fin 64) (a : Sel) (code : CvtCode) (part : Fin 4) (rm : Bool) :
    (effVcvt d a code part rm).KeepsCanonical := by
  grind [Eff.KeepsCanonical, effVcvt, Res.canonical, Out.tag_s, Out.fV]

theorem vRound_keepsCanonical (sels : List Sel) (d : Fin 64) (f : (Nat → RM) → Iss → Nat → W32 × Flags) :
    (vRound sels d f).KeepsCanonical := by
  grind [Eff.KeepsCanonical, vRound, Res.canonical, Out.tag_s, Out.fV]

theorem vf32_keepsCanonical (f : RM → Nat → Nat → Nat → Nat × Flags) (d : Fin 64) (a b : Sel) : (vf32 f d a b).KeepsCanonical :=
  vRound_keepsCanonical _ _ _

theorem vf16_keepsCanonical (f : RM → Nat → Nat → Nat → Nat × Flags) (d : Fin 64) (a b : Sel) : (vf16 f d a b).KeepsCanonical :=
  vRound_keepsCanonical _ _ _

theorem Out.wM_s (o : Out) (m : Mask) (x : W64) : (o.wM m x).s = o.s := by
  cases m <;> rfl

theorem wM_keepsCanonical (m : Mask) (x : Iss → W64) : Eff.KeepsCanonical fun i o => .ok (o.wM m (x i)) := fun i o _ ho =>
  (congrArg State.canonical (Out.wM_s o m (x i))).mpr ho

theorem effIcinv_keepsCanonical (p : Scope) (a b : Fin 32) : (effIcinv p a b).KeepsCanonical := by
  grind [Eff.KeepsCanonical, effIcinv, Res.canonical, State.canonical, onceGranted, State.icInvalidate_mem]

theorem effTlbinv_keepsCanonical (p : Scope) (a b : Fin 32) : (effTlbinv p a b).KeepsCanonical := by
  grind [Eff.KeepsCanonical, effTlbinv, Res.canonical, State.canonical, privTrap, trapAt, onceGranted, State.tlbInvalidate_mem]

theorem effDecpl_keepsCanonical : effDecpl.KeepsCanonical := by
  grind [Eff.KeepsCanonical, effDecpl, Res.canonical]

theorem effRejn_keepsCanonical : effRejn.KeepsCanonical := by
  grind [Eff.KeepsCanonical, effRejn, Res.canonical, State.canonical, onceGranted, State.upCtx_mem]

theorem effLaunch_keepsCanonical (c a b : Fin 32) : (effLaunch c a b).KeepsCanonical :=
  effE_keepsCanonical (by grind [Eff.KeepsCanonical, Res.canonical, Out.ans, Out.pend, State.launch_canonical]) _

theorem effWaitev_keepsCanonical (c a : Fin 32) (h : Hnd) : (effWaitev c a h).KeepsCanonical :=
  effE_keepsCanonical (fun i o hi ho =>
    capture_canonical (by grind [Res.canonical, State.canonical, waitFor, Out.mirror, Out.wS, State.upCtx_mem]) h) _

theorem effWstat_keepsCanonical (c a b : Fin 32) : (effWstat c a b).KeepsCanonical := by
  intro i o hi ho
  unfold effWstat
  split
  · trivial
  · exact effE_keepsCanonical (by intro _ _ _ ho; exact ho) _ i o hi ho

theorem ctxctl_keepsCanonical (c a b : Fin 32) (h : Hnd) : (ctxctl c a b h).KeepsCanonical := by
  intro i o hi ho
  unfold ctxctl
  split
  · trivial
  · exact effE_keepsCanonical (fun i o _ ho =>
      capture_canonical (by grind [Res.canonical, State.canonical, Out.ans, Out.pend, State.ctxctl_mem]) h) _ i o hi ho

theorem wordEff_keepsCanonical {i : Instr} {e : Eff} (h : wordEff i = some e) : e.KeepsCanonical := by
  cases i <;> cases h
  case nop | add | sub | and | or | xor | shl | shr | sra | mul | mulhs | mulhu | min | max | minu | maxu | seq | slt | sltu | sel | clz
      | popc | extr | insr | addw | addi | andi | ori | xori | shli | shri | srai | slti | lui | jmp | call | jr | callr | msave | mpopc
      | vaddI32 | vsubI32 | vmulI32 | vmulhI32 | vaddI16 | vsubI16 | vaddI8 | vsubI8 | vaddsI16 | vsubsI16 | vaddsI8 | vsubsI8 | vminI32
      | vmaxI32 | vminuI32 | vmaxuI32 | vand | vor | vxor | vlut3 | vshl | vshr | vsra | vfshl | vfshr | vcmpeqI32 | vcmpltI32 |
      vcmpltuI32 | vcmpeqF32 | vcmpltF32 | vcmpleF32 | vcmpunF32 | vsel | vfminF32 | vfmaxF32 | vqnt | vdqnt | vbmax | vrcp | vrsq |
      vsqrt | vexp2 | vlog2 | vsinpi | vcospi | vtanh | vperm | vrot | vbcst | vext | vins | vred | vpopc | vclz | viota | vmov |
      vaddiI32 | vandi | vshli | vshri | vsrai | vmovi | fetchb | trap | eret | brk | yield =>
    exact fun _ _ _ ho => ho
  case br => exact effBr_keepsCanonical _ _ _
  case loop => exact fun i o => loopPush_keepsCanonical _ _ i o
  case loopi => exact loopPush_keepsCanonical _ _
  case brkl => exact effBrkl_keepsCanonical
  case lidx => exact effLidx_keepsCanonical _ _
  case mrest | mand | mor | mandn | mset | mcmv => exact wM_keepsCanonical _ _
  case rdsr => exact effRdsr_keepsCanonical _ _
  case wrsr => exact effWrsr_keepsCanonical _ _
  case ldc => exact effLdc_keepsCanonical _ _ _
  case vfaddF32 | vfsubF32 | vfmulF32 | vfmaF32 => exact vf32_keepsCanonical _ _ _ _
  case vfaddBf16 | vfmulBf16 | vfmaBf16 | vfaddF16 | vfmulF16 | vfmaF16 => exact vf16_keepsCanonical _ _ _ _
  case vcvt => exact effVcvt_keepsCanonical _ _ _ _ _
  case ldv => exact effLdv_keepsCanonical _ _ _ _
  case stv => exact effStv_keepsCanonical _ _ _ _
  case ldsD | ldsW | ldsWu | ldsH | ldsB => exact ldsN_keepsCanonical _ _ _ _ _ _
  case stsD | stsW | stsH | stsB => exact stsN_keepsCanonical _ _ _ _ _
  case ldvg => exact effLdvg_keepsCanonical _ _ _
  case stvs => exact effStvs_keepsCanonical _ _ _
  case feset | feclr => exact feOp_keepsCanonical _ _ _
  case fetest => exact effFetest_keepsCanonical _ _ _
  case ldgD | ldgW | ldgv => exact fun i o => ldgN_keepsCanonical _ _ _ _ _ _ i o
  case cpy | cpyz | cpyaAddi32 | cpyaAddi64 | cpyaAddf | cpyaMin | cpyaMax | cpyaOr | cpyaAnd | cpyaXor =>
    exact copy_keepsCanonical _ _ _ _ _
  case cpys => exact effCpys_keepsCanonical _ _ _ _ _
  case fopAdd | fopBadd | fopSwap | fopCas => exact fop_keepsCanonical _ _ _ _ _ _
  case cpyq | mxcfg | mxfree | ringstat | mxstat | bwqry | fabst | collq | smc => exact effE_keepsCanonical (by intro _ _ _ ho; exact ho) _
  case mxgo => exact effMxgo_keepsCanonical _
  case mxwait => exact effMxwait_keepsCanonical _
  case mxlease => exact effMxlease_keepsCanonical
  case mxleaseJoin => exact effMxleaseJoin_keepsCanonical
  case mxfreeJoin => exact effMxfreeJoin_keepsCanonical
  case mxfreeClaim => exact effMxfreeClaim_keepsCanonical
  case mxld | mxst => exact tileMem_keepsCanonical _ _ _ _ _
  case mxz => exact effMxz_keepsCanonical _ _ _
  case ringset => exact effRingset_keepsCanonical _ _ _
  case ringpush => exact effRingpush_keepsCanonical _ _
  case sctab => exact effSctab_keepsCanonical _ _ _
  case scinv => exact effScinv_keepsCanonical _
  case phbind => exact effPhbind_keepsCanonical _ _ _
  case phreg | phtest => exact effE_keepsCanonical (fun _ _ _ ho => withObj_canonical (by intro _; exact ho) _) _
  case phdrop => exact effPhdrop_keepsCanonical _
  case phsig => exact effPhsig_keepsCanonical _ _
  case phwait => exact effPhwait_keepsCanonical _ _
  case phnext => exact effPhnext_keepsCanonical _ _
  case phadd => exact effPhadd_keepsCanonical _ _ _
  case bwreq => exact effBwreq_keepsCanonical _ _ _ _
  case bwrel => exact effBwrel_keepsCanonical _ _
  case puts => exact effPuts_keepsCanonical _ _ _ _ _
  case rels => exact effRels_keepsCanonical _ _
  case lrset => exact effLrset_keepsCanonical _ _ _
  case coll => exact effColl_keepsCanonical _ _ _
  case decpl => exact effDecpl_keepsCanonical
  case rejn => exact effRejn_keepsCanonical
  case fence => exact effFence_keepsCanonical _
  case icinv => exact effIcinv_keepsCanonical _ _ _
  case launch => exact effLaunch_keepsCanonical _ _ _
  case halt => exact effHalt_keepsCanonical
  case waitev => exact effWaitev_keepsCanonical _ _ _
  case tlbinv => exact effTlbinv_keepsCanonical _ _ _
  case ctxctlHalt | ctxctlFlush | ctxctlRestart | ctxctlResume | ctxctlWake => exact ctxctl_keepsCanonical _ _ _ _
  case wstat => exact effWstat_keepsCanonical _ _ _

theorem bundleEffs_keepCanonical (is : List Instr) : ∀ e ∈ bundleEffs is, Eff.KeepsCanonical e := by
  intro e he
  obtain ⟨i, -, hi⟩ := List.mem_filterMap.1 he
  exact wordEff_keepsCanonical hi

end Sys2Proof.Machine
end

section
/-! SUPPORT. Bundles and gangs, the ends of waits, errors and the host keep physical memory in its canonical form (05; 16; 17). -/

namespace Sys2Proof.Machine

/-! ## Bundles -/

theorem State.latch_mem (s : State) (x : Nat) (ws : List Nat) (n : Addr) : (s.latch x ws n).mem = s.mem := rfl

theorem State.hand_mem (s : State) (x : Nat) : (s.hand x).1.mem = s.mem := State.beginAt_mem ..

theorem State.enter_mem (s : State) (x : Nat) (w : Wait) : (s.enter x w).mem = s.mem := rfl

theorem State.deliverResume_mem (s : State) (x : Nat) : (s.deliverResume x).mem = s.mem := by
  grind [State.deliverResume, State.arrive_mem, State.upCtx_mem, foldl_mem]

theorem Out.follow_s (o : Out) : o.follow.s = o.s := by
  unfold Out.follow
  split <;> rfl

theorem Ended.member_canonical {e : Ended} (h : e.canonical) : e.member.canonical := by
  cases e <;> exact h

theorem tryMember_canonical {es : List Eff} (hes : ∀ e ∈ es, Eff.KeepsCanonical e) (own : Bool) {s : State} (h : s.canonical) (x : Nat) :
    (tryMember own es s x).canonical := by
  have hrun := runEffs_canonical hes (i := s.iss x) (o := { c := (s.iss x).c, s := s, next := .seq, sig := [] }) h h
  unfold tryMember
  dsimp only
  split
  · trivial
  · next hw => rwa [hw] at hrun
  · next o ho =>
    rw [ho] at hrun
    refine Ended.member_canonical (finish_canonical h ?_)
    split
    · exact hrun
    · rwa [Out.follow_s]

theorem tryBundle_canonical (is : List Instr) {s : State} (h : s.canonical) (x : Nat) : (tryWords (bundleEffs is) s x).canonical :=
  tryWords_canonical (bundleEffs_keepCanonical is) h x

theorem tryMemberBundle_canonical (own : Bool) (is : List Instr) {s : State} (h : s.canonical) (x : Nat) :
    (tryMember own (bundleEffs is) s x).canonical :=
  tryMember_canonical (bundleEffs_keepCanonical is) own h x

theorem issueBundleWords_canonical (is : List Instr) {s t : State} (h : s.canonical) (ht : issueWords (bundleEffs is) s = .next t) :
    t.canonical :=
  issueWords_canonical (bundleEffs_keepCanonical is) h ht

theorem State.tryHand_canonical (s : State) (x : Nat) (h : s.canonical) : (s.tryHand x).canonical := by
  have hand := State.hand_mem s x
  have hpark := fun t : State => fun ht : t.canonical => State.parkFetch_canonical ht x (s.ctx x).pc.toNat
  have htry := fun is => fun t : State => fun ht : t.canonical => tryBundle_canonical is ht x
  unfold State.tryHand
  split
  · exact h
  · split
    · next s' t hh => exact State.canonical_of_mem (by rw [← hand, hh]) h
    · next s' hh =>
      have hs' : s'.canonical := State.canonical_of_mem (by rw [← hand, hh]) h
      specialize hpark s' hs'
      grind [Ended.canonical, Trial.canonical, State.canonical, State.enter_mem]
    · next s' b ws n hh =>
      have hs' : (s'.latch x ws (BitVec.ofNat 48 n)).canonical :=
        State.canonical_of_mem ((State.latch_mem _ _ _ _).trans (by rw [← hand, hh])) h
      specialize htry b.items _ hs'
      grind [Ended.canonical, Trial.canonical, State.canonical, State.enter_mem]

theorem execForcedIssue_canonical (core : Nat) : KeepsCanonical (execForcedIssue core) := by
  intro s t h ht
  have htry := State.tryHand_canonical s (2 * core + 1) h
  have hissue : ∀ (b : Bundle) (u v : State), u.canonical →
      issueWords (bundleEffs b.items) { u.settleLoads (2 * core + 1) b.items with cur := 2 * core + 1 } = .next v → v.canonical :=
    fun b u v hu hv => issueBundleWords_canonical b.items (s := { u.settleLoads (2 * core + 1) b.items with cur := 2 * core + 1 })
      (State.canonical_of_mem (State.settleLoads_mem u _ _) hu) hv
  unfold execForcedIssue at ht
  dsimp only at ht
  split at ht
  · cases ht; exact h
  · split at ht
    · grind [Trial.canonical]
    · grind [Trial.canonical]
    · grind [Trial.canonical, State.canonical, State.upCore_mem, State.draw_mem, State.takeTrap_mem]
    · grind [Trial.canonical, State.canonical, State.upCore_mem, State.deliverResume_mem]

theorem execIllegalEnc_canonical (x : Nat) : KeepsCanonical (execIllegalEnc x) := by
  intro s t h ht
  grind [execIllegalEnc, State.canonical, State.hand_mem, State.draw_mem, State.trapIn_mem]

theorem execFetchFault_canonical (x : Nat) : KeepsCanonical (execFetchFault x) := by
  intro s t h ht
  grind [execFetchFault, State.canonical, State.hand_mem, State.draw_mem, State.trapIn_mem]

theorem State.part_mem (s : State) (own : Bool) (y : Nat) : (s.part own y).1.mem = s.mem := by
  grind [State.part, State.hand_mem]

theorem State.parts_mem (f : Nat) (l : List Nat) (s : State) : (s.parts f l).1.mem = s.mem := by
  fun_induction State.parts f l s <;> grind [State.part_mem]

theorem State.pushStream_mem (s : State) (p : Nat) (e : Addr × List Nat × Addr) : (s.pushStream p e).mem = s.mem := rfl

theorem State.delivers_mem (s : State) (ys : List Nat) : (s.delivers ys).mem = s.mem := foldl_mem (fun _ _ => State.deliverResume_mem ..) ..

theorem State.noYield_mem (s : State) (ys : List Nat) : (s.noYield ys).mem = s.mem := State.upCtxs_mem ..

theorem State.latchPc_mem (s : State) (x : Nat) (ws : List Nat) (n : Addr) (f : Ctx → Ctx) : ((s.latch x ws n).upCtx x f).mem = s.mem :=
  (State.upCtx_mem _ _ _).trans (State.latch_mem _ _ _ _)

theorem canonical_of_mem_or {w : Option State} (hw : ∀ t ∈ w, t.canonical) {s : State} (h : s.canonical) :
    ∀ t ∈ w.or (some s), t.canonical := by
  cases w with
  | none => rintro _ ⟨⟩; exact h
  | some u => exact hw

theorem Adv.member_canonical {s : State} (h : s.canonical) {v : Adv} (hv : v.canonical) (e : Nat × Part) :
    (Adv.member s v e).canonical := by
  obtain ⟨hs, hw⟩ := hv
  obtain ⟨y, p⟩ := e
  have henter := fun (u : State) (w : Wait) => fun hu : u.canonical => State.canonical_of_mem (State.enter_mem u y w) hu
  cases p with
  | none => exact ⟨hs, hw⟩
  | trap t => exact ⟨hs, hw⟩
  | park =>
    have hp := State.parkFetch_canonical h y (s.ctx y).pc.toNat
    unfold Adv.member
    dsimp only
    split
    · next hu => exact ⟨hs, canonical_of_mem_or hw (henter _ _ (by rwa [hu] at hp))⟩
    · exact ⟨hs, hw⟩
    · exact ⟨hs, hw⟩
    · exact ⟨hs, hw⟩
  | bundle own b a n =>
    have h1 : (((v.s.latch y b.words n).upCtx y fun c => { c with pc := a }).settleLoads y b.items).canonical :=
      State.canonical_of_mem ((State.settleLoads_mem _ _ _).trans (State.latchPc_mem _ _ _ _ _)) hs
    have h2 : ((s.latch y b.words n).upCtx y fun c => { c with pc := a }).canonical := State.canonical_of_mem (State.latchPc_mem _ _ _ _ _) h
    have ht1 := tryMemberBundle_canonical own b.items h1 y
    have ht2 := tryMemberBundle_canonical own b.items h2 y
    unfold Adv.member
    dsimp only
    split
    · next hu => exact ⟨by rwa [hu] at ht1, hw⟩
    · next hu => exact ⟨by rwa [hu] at ht1, hw⟩
    · exact ⟨hs, hw⟩
    · split
      · next hu => exact ⟨hs, canonical_of_mem_or hw (henter _ _ (by rwa [hu] at ht2))⟩
      · exact ⟨hs, canonical_of_mem_or hw h⟩

theorem foldl_member_canonical {s : State} (h : s.canonical) (ps : List (Nat × Part)) {v : Adv} (hv : v.canonical) :
    (ps.foldl (Adv.member s) v).canonical := by
  induction ps generalizing v with
  | nil => exact hv
  | cons e ps ih => exact ih (Adv.member_canonical h hv e)

theorem State.advance_canonical (s : State) (us : List Nat) (f : Nat) (feeds : List Nat) (h : s.canonical) :
    (s.advance us f feeds).1.canonical := by
  have h0 : (State.parts f us s).1.canonical := State.canonical_of_mem (State.parts_mem f us s) h
  have hv : ((State.parts f us s).2.foldl (Adv.member (State.parts f us s).1) { s := (State.parts f us s).1 }).canonical :=
    foldl_member_canonical h0 _ ⟨h0, by intro _ ht; cases ht⟩
  obtain ⟨hs, hw⟩ := hv
  unfold State.advance
  dsimp only
  split
  · exact h0
  · split
    · next hwait => exact State.canonical_of_mem (State.draw_mem _) (hw _ hwait)
    · split
      · exact State.canonical_of_mem ((State.draw_mem _).trans (State.gangTrap_mem _ _ _)) h0
      · refine State.canonical_of_mem ?_ hs
        exact (State.draw_mem _).trans <| (State.gangTrap_mem _ _ _).trans <| (State.delivers_mem _ _).trans <|
          (State.noYield_mem _ _).trans <| foldl_mem (fun s _ => State.pushStream_mem s _ _) _ _

/-! ## The ends of waits -/

theorem State.rewait_canonical (s : State) (x : Nat) (h : s.canonical) {r : State × Wait} (ht : State.rewait s x = some r) :
    r.1.canonical := by
  have hp := State.part_mem s (s.fetches x) x
  unfold State.rewait at ht
  split at ht
  · next s' own b a n hpart =>
    have hs' : s'.canonical := State.canonical_of_mem (by rw [← hp, hpart]) h
    have := tryMemberBundle_canonical own b.items (State.canonical_of_mem (State.latchPc_mem s' x b.words n fun c => { c with pc := a }) hs') x
    grind [MemEnd.canonical]
  · next s' hpart =>
    have hs' : s'.canonical := State.canonical_of_mem (by rw [← hp, hpart]) h
    have := State.parkFetch_canonical hs' x (s.ctx x).pc.toNat
    grind [Ended.canonical]
  · cases ht

theorem State.endWait_canonical (s : State) (kind x : Nat) (h : s.canonical) : (s.endWait kind x).canonical := by
  have hre := fun s' w => State.rewait_canonical (s.upCtx x fun c => { c with wait := none }) x (State.canonical_of_mem (State.upCtx_mem s x
    _) h)
    (r := (s', w))
  grind [State.endWait, State.canonical, State.upCtx_mem, State.enter_mem]

theorem State.grant_mem (s : State) (kind x : Nat) : (s.grant kind x).mem = s.mem := rfl

theorem State.raise_mem (s : State) (x : Nat) (t : Trap) : (s.raise x t).mem = s.mem := (State.draw_mem ..).trans (State.trapIn_mem ..)

theorem execPhwaitEnd_canonical (x : Nat) : KeepsCanonical (execPhwaitEnd x) := by
  intro s t h ht
  grind [execPhwaitEnd, State.canonical, State.endWait_canonical, State.upCtx_mem, State.raise_mem, State.phDone_mem]

theorem execPhsigHoldEnd_canonical (x : Nat) : KeepsCanonical (execPhsigHoldEnd x) := by
  rintro s _ h ⟨⟩
  exact State.endWait_canonical _ _ _ h

theorem execFeWaitEnd_canonical (x : Nat) : KeepsCanonical (execFeWaitEnd x) := by
  rintro s _ h ⟨⟩
  exact State.endWait_canonical _ _ _ h

theorem execCopyEntryFree_canonical (x : Nat) : KeepsCanonical (execCopyEntryFree x) := by
  rintro s _ h ⟨⟩
  exact State.endWait_canonical _ _ _ h

theorem execRingpushEnd_canonical (x : Nat) : KeepsCanonical (execRingpushEnd x) := by
  rintro s _ h ⟨⟩
  exact State.endWait_canonical _ _ _ h

theorem execMatrixQueueRoom_canonical (x : Nat) : KeepsCanonical (execMatrixQueueRoom x) := by
  rintro s _ h ⟨⟩
  exact State.endWait_canonical _ _ _ h

theorem execTileClaimGrant_canonical (x : Nat) : KeepsCanonical (execTileClaimGrant x) := by
  rintro s _ h ⟨⟩
  exact State.endWait_canonical _ _ _ h

theorem execMxwaitEnd_canonical (x : Nat) : KeepsCanonical (execMxwaitEnd x) := by
  rintro s _ h ⟨⟩
  exact State.endWait_canonical _ _ _ h

theorem execFenceComplete_canonical (x : Nat) : KeepsCanonical (execFenceComplete x) := by
  rintro s _ h ⟨⟩
  exact State.endWait_canonical _ _ _ h

theorem execWaitevEnd_canonical (x : Nat) : KeepsCanonical (execWaitevEnd x) := by
  rintro s _ h ⟨⟩
  exact State.endWait_canonical _ _ _ h

theorem execTableUnpinEnd_canonical (x : Nat) : KeepsCanonical (execTableUnpinEnd x) := by
  rintro s _ h ⟨⟩
  exact State.endWait_canonical _ _ _ h

theorem execIcinvComplete_canonical (x : Nat) : KeepsCanonical (execIcinvComplete x) := by
  rintro s _ h ⟨⟩
  exact State.canonical_of_mem (State.grant_mem ..) h

theorem execTlbinvComplete_canonical (x : Nat) : KeepsCanonical (execTlbinvComplete x) := by
  rintro s _ h ⟨⟩
  exact State.canonical_of_mem (State.grant_mem ..) h

theorem execFeWatchdog_canonical (x : Nat) : KeepsCanonical (execFeWatchdog x) := by
  intro s t h ht
  grind [execFeWatchdog, State.canonical, → State.rewait_canonical, State.upCtx_mem, State.raise_mem]

theorem execWaitTimeout_canonical (x : Nat) : KeepsCanonical (execWaitTimeout x) := by
  intro s t h ht
  grind [execWaitTimeout, State.canonical, State.raise_mem, State.upCtx_mem]

theorem State.issueRejn_canonical (s : State) (y : Nat) (h : s.canonical) {t : State} (ht : State.issueRejn s y = some t) :
    t.canonical := by
  unfold State.issueRejn at ht
  dsimp only at ht
  have hp := State.part_mem (s.upCtx y fun c => { c with wait := none, granted := some 10 }) true y
  split at ht
  · next s1 own b a n hpart =>
    have h1 : s1.canonical := State.canonical_of_mem (by rw [← hp.trans (State.upCtx_mem _ _ _), hpart]) h
    have htry1 := tryMemberBundle_canonical true b.items (State.canonical_of_mem (State.latch_mem s1 y b.words n) h1) y
    split at ht
    · cases ht
    · split at ht
      · next s2 hs2 =>
        rw [hs2] at htry1
        have htry2 := tryMemberBundle_canonical false b.items
          (State.canonical_of_mem (State.latchPc_mem s2 (y + 2) b.words n fun c => { c with pc := a }) htry1) (y + 2)
        grind [MemEnd.canonical]
      · cases ht
  · cases ht

theorem State.issueRejns_canonical (ys : List Nat) (s : State) (h : s.canonical) {t : State} (ht : State.issueRejns ys s = some t) :
    t.canonical := by
  induction ys generalizing s with
  | nil => cases ht; exact h
  | cons y ys ih =>
    obtain ⟨u, hu, ht⟩ := Option.bind_eq_some_iff.1 ht
    exact ih u (State.issueRejn_canonical s y h hu) ht

theorem State.rejoin_mem (s : State) (g : Nat) : (s.rejoin g).mem = s.mem := rfl

theorem execRejnComplete_canonical (g : Nat) : KeepsCanonical (execRejnComplete g) := by
  intro s t h ht
  grind [execRejnComplete, State.canonical, State.grant_mem, → State.issueRejns_canonical, State.draw_mem, State.rejoin_mem,
    State.delivers_mem, foldl_mem]

theorem execTranslationWalkEnd_canonical (core : Nat) (asid : Fin 64) (va : Addr) :
    KeepsCanonical (execTranslationWalkEnd core asid va) := by
  intro s t h ht
  grind [execTranslationWalkEnd, State.canonical, State.lookup_mem]

theorem State.unpark_mem (s : State) (asid : Nat) (page : W32) : (s.unpark asid page).mem = s.mem := rfl

theorem execPfansRetry_canonical (asid : Fin 64) (page : W32) : KeepsCanonical (execPfansRetry asid page) := by
  intro s t h ht
  grind [execPfansRetry, State.canonical, State.barAccess_mem, State.upCtxs_mem, State.unpark_mem, State.upCopy_mem, foldl_mem]

theorem State.failTarget_canonical (s : State) (x : Nat) (h : s.canonical) : (State.failTarget s x).canonical := by
  unfold State.failTarget
  dsimp only
  split
  · next t own b a n hpart =>
    have ht : t.canonical := State.canonical_of_mem ((congrArg (·.1.mem) hpart).symm.trans
      ((State.part_mem _ _ _).trans ((State.upSys_mem _ _).trans (State.upCtx_mem _ _ _)))) h
    have := tryMemberBundle_canonical own b.items (State.canonical_of_mem (State.latchPc_mem t x b.words n fun c => { c with pc := a }) ht) x
    grind [MemEnd.canonical, State.canonical, State.upSys_mem]
  · exact h

theorem execPfansFail_canonical (asid : Fin 64) (page : W32) : KeepsCanonical (execPfansFail asid page) := by
  intro s t h ht
  grind [execPfansFail, State.canonical, State.barAccess_mem, State.unpark_mem, State.upCopy_mem, State.raise_mem,
    State.failTarget_canonical, foldl_canonical]

/-! ## Errors and services -/

theorem execIcacheFill_canonical (core line : Nat) (gs : BitVec 8) : KeepsCanonical (execIcacheFill core line gs) := by
  intro s t h ht
  grind [execIcacheFill, State.canonical, State.upCore_mem]

theorem execFetchBufferFill_canonical (x : Nat) : KeepsCanonical (execFetchBufferFill x) := by
  intro s t h ht
  grind [execFetchBufferFill, State.canonical, State.packet_mem]

theorem State.dropSlice_mem (s : State) (n : Nat) : (s.dropSlice n).mem = s.mem := rfl

theorem State.mismatch_mem (s : State) (x : Nat) (a : Addr) : (s.mismatch x a).mem = s.mem := by
  grind [State.mismatch, State.upCtxs_mem, State.quarantine_mem, State.draw_mem, State.mem_kill]

theorem State.compare_mem (s : State) (x age : Nat) : (s.compare x age).mem = s.mem := by
  grind [State.compare, State.upCtx_mem, State.mismatch_mem]

theorem execCheckSignatureCompare_canonical (core : Nat) : KeepsCanonical (execCheckSignatureCompare core) := by
  rintro s _ h ⟨⟩
  exact State.canonical_of_mem (State.compare_mem ..) h

theorem State.compareDue_mem (s : State) (x : Nat) : (s.compareDue x).mem = s.mem := foldl_mem (fun _ _ => State.compare_mem ..) ..

theorem State.arrayPoison_mem (s : State) (g : Nat) : (s.arrayPoison g).mem = s.mem := by
  grind [State.arrayPoison, State.draw_mem, State.mxFail_mem]

theorem execEccError_canonical (e : EccSite) : KeepsCanonical (execEccError e) := by
  intro s t h ht
  grind [execEccError.eq_def, State.canonical, State.quarantine_mem, State.upCore_mem, State.draw_mem, State.setGroup_mem,
    State.arrayPoison_mem, State.collFault_mem]

theorem execWritebackPoison_canonical (line : Nat) : KeepsCanonical (execWritebackPoison line) := by
  intro s t h ht
  grind [execWritebackPoison, State.canonical, State.draw_mem, State.mem_kill, State.event_canonical]

theorem State.serve_canonical (s : State) (x svc : Nat) (f : State → W64 → State × W64) (hf : ∀ s a, s.canonical → (f s a).1.canonical)
    (h : s.canonical) : (s.serve x svc f).canonical := by
  grind [State.serve, State.canonical, State.upCtx_mem, State.draw_mem, State.smcAnswer_mem]

theorem State.setBoot_mem (s : State) (i : Nat) (e : BootEnt) : (s.setBoot i e).mem = s.mem := rfl

theorem execZenithAttest_canonical (j : Nat) : KeepsCanonical (execZenithAttest j) := by
  intro s t h ht
  grind [execZenithAttest, State.canonical, State.serve_canonical, State.wr_canonical]

theorem execZenithBootinfo_canonical (j : Nat) : KeepsCanonical (execZenithBootinfo j) := by
  intro s t h ht
  grind [execZenithBootinfo, State.canonical, State.serve_canonical]

theorem State.clearCarve_canonical (s : State) (i : Nat) (h : s.canonical) : (s.clearCarve i).canonical := SMap.wf_filter _ h

theorem State.setWorld_canonical (s : State) (k i : Nat) (w : Bool) (h : s.canonical) : (s.setWorld k i w).1.canonical := by
  grind [State.setWorld.eq_def, State.canonical, State.clearCarve_canonical, State.upSys_mem]

theorem execZenithSetworld_canonical (j : Nat) : KeepsCanonical (execZenithSetworld j) := by
  intro s t h ht
  grind [execZenithSetworld, State.canonical, State.serve_canonical, State.setWorld_canonical]

theorem execZenithBootclr_canonical (j : Nat) : KeepsCanonical (execZenithBootclr j) := by
  intro s t h ht
  grind [execZenithBootclr, State.canonical, State.serve_canonical, State.setBoot_mem]

theorem State.diagPassed_mem (s : State) (u : Nat) : (s.diagPassed u).mem = s.mem := rfl

theorem execZenithDiag_canonical (j : Nat) (pass : Bool) : KeepsCanonical (execZenithDiag j pass) := by
  intro s t h ht
  grind [execZenithDiag, State.canonical, State.serve_canonical, State.diagPassed_mem]

theorem execZenithAutoDiag_canonical (u : BitVec 16) (pass : Bool) : KeepsCanonical (execZenithAutoDiag u pass) := by
  intro s t h ht
  grind [execZenithAutoDiag, State.canonical, State.diagPassed_mem]

/-! ## The host -/

theorem State.answer_mem (s : State) (bs : List Byte) (err : Bool) : (s.answer bs err).mem = s.mem := rfl

theorem execBar0RegisterRead_canonical (off n : Nat) : KeepsCanonical (execBar0RegisterRead off n) := by
  rintro s _ h ⟨⟩
  exact State.canonical_of_mem ((State.answer_mem ..).trans (State.barAccess_mem ..)) h

theorem execPstateRead_canonical : KeepsCanonical execPstateRead := by
  rintro s _ h ⟨⟩
  exact State.canonical_of_mem ((State.answer_mem ..).trans (State.barAccess_mem ..)) h

theorem State.writeReach_mem (s : State) (i : Nat) (v m : W32) : (s.writeReach i v m).mem = s.mem := State.ite_mem rfl (State.upFab_mem ..)

theorem State.writeSys_mem (s : State) (o : Nat) (v m : W64) : (s.writeSys o v m).mem = s.mem := by
  grind [State.writeSys.eq_def, State.upSys_mem]

theorem State.writeCell_mem (s : State) (o : Nat) (v m : W64) (zenith : Bool) : (s.writeCell o v m zenith).mem = s.mem := by
  unfold State.writeCell
  dsimp only
  exact State.ite_mem (State.ite_mem (State.setQueue_mem _ _ _) rfl) <| State.ite_mem (State.ite_mem (State.upSys_mem _ _) rfl) <|
    State.ite_mem (State.ite_mem (State.upSys_mem _ _) rfl) <| State.ite_mem rfl <| State.ite_mem (State.upSys_mem _ _) <|
    State.ite_mem ((State.writeReach_mem _ _ _ _).trans (State.writeReach_mem _ _ _ _)) <| State.ite_mem (State.upFab_mem _ _) <|
    State.ite_mem (State.upSys_mem _ _) <| State.ite_mem (State.writeSys_mem _ _ _ _) <|
    State.ite_mem (State.ite_mem rfl (State.upFab_mem _ _)) rfl

theorem execRegisterWrite_canonical (r : RegAt) (n : Nat) (v : W64) : KeepsCanonical (execRegisterWrite r n v) := by
  intro s t h ht
  grind [execRegisterWrite, State.canonical, State.writeCell_mem, State.regAccess_mem]

theorem execQtailWrite_canonical (a : QueueAt) (v : W32) : KeepsCanonical (execQtailWrite a v) := by
  intro s t h ht
  grind [execQtailWrite, State.canonical, State.regAccess_mem, State.setQueue_mem]

theorem execQcfgWrite_canonical (a : QueueAt) (v : W32) : KeepsCanonical (execQcfgWrite a v) := by
  intro s t h ht
  grind [execQcfgWrite, State.canonical, State.regAccess_mem, State.setQueue_mem]

theorem execHostBar2Write_canonical (off : Nat) (data : List Byte) : KeepsCanonical (execHostBar2Write off data) := by
  intro s t h ht
  grind [execHostBar2Write, State.canonical, State.barAccess_mem, State.wr_canonical, State.answer_mem]

theorem execHostBar2Read_canonical (off n : Nat) : KeepsCanonical (execHostBar2Read off n) := by
  intro s t h ht
  grind [execHostBar2Read, State.canonical, State.barAccess_mem, State.draw_mem, State.answer_mem]

theorem execQliftWrite_canonical (u : BitVec 16) : KeepsCanonical (execQliftWrite u) := by
  rintro s _ h ⟨⟩
  exact State.canonical_of_mem ((State.barAccess_mem ..).trans (State.upSys_mem ..)) h

theorem execCintHoldoffExpiry_canonical : KeepsCanonical execCintHoldoffExpiry := by
  intro s t h ht
  grind [execCintHoldoffExpiry, State.canonical, State.upSys_mem, State.cint_mem]

theorem execLtrWrite_canonical (v : W32) : KeepsCanonical (execLtrWrite v) := by
  rintro s _ h ⟨⟩
  exact State.canonical_of_mem ((State.upSys_mem ..).trans (State.barAccess_mem ..)) h

theorem execEnterLowPower_canonical : KeepsCanonical execEnterLowPower := by
  intro s t h ht
  grind [execEnterLowPower, State.canonical, State.upSys_mem]

theorem execLowPowerExit_canonical : KeepsCanonical execLowPowerExit := by
  rintro s _ h ⟨⟩
  exact State.canonical_of_mem (State.barAccess_mem ..) h

theorem execD3Entry_canonical : KeepsCanonical execD3Entry := by
  rintro s _ h ⟨⟩
  exact State.canonical_of_mem (State.upSys_mem ..) h

theorem execPowerOnBoot_canonical (outcomes : List (Option W32)) : KeepsCanonical (execPowerOnBoot outcomes) := by
  rintro s _ h ⟨⟩
  exact SMap.wf_filter _ h

end Sys2Proof.Machine
end

section
/-! SUPPORT. A core cycle and every happening keep physical memory in its canonical form. -/

namespace Sys2Proof.Machine

/-! ## Instructions -/

theorem exec_of_wordEff {i : Instr} {e : Eff} (h : wordEff i = some e) (s : State) : exec i s = issueWords [e] s := by
  cases i <;> cases h <;> rfl

theorem happening_keepsCanonical {i : Instr} (h : wordEff i = none) : KeepsCanonical (exec i) := by
  cases i <;> cases h
  case qtailWrite => exact execQtailWrite_canonical _ _
  case qcfgWrite => exact execQcfgWrite_canonical _ _
  case kstopPreempt => exact execKstopPreempt_canonical _
  case kstopKill => exact execKstopKill_canonical _
  case phaserObjectInit => exact execPhaserObjectInit_canonical _ _ _
  case registerWrite => exact execRegisterWrite_canonical _ _ _
  case bar0RegisterRead => exact execBar0RegisterRead_canonical _ _
  case hostBar2Write => exact execHostBar2Write_canonical _ _
  case hostBar2Read => exact execHostBar2Read_canonical _ _
  case qliftWrite => exact execQliftWrite_canonical _
  case ltrWrite => exact execLtrWrite_canonical _
  case pfansRetry => exact execPfansRetry_canonical _ _
  case pfansFail => exact execPfansFail_canonical _ _
  case fabricEnable => exact execFabricEnable_canonical _
  case fabricDisable => exact execFabricDisable_canonical _
  case lpolWrite => exact execLpolWrite_canonical _
  case revokeWrite => exact execRevokeWrite_canonical _ _
  case membershipWrite => exact execMembershipWrite_canonical _ _
  case flitWriteRx => exact execFlitWriteRx_canonical _ _ _
  case flitReadrspRx => exact execFlitReadrspRx_canonical _ _ _
  case performedAckRx => exact execPerformedAckRx_canonical _ _ _ _
  case linkAckRx => exact execLinkAckRx_canonical _ _ _ _ _ _
  case timeFlitRx => exact execTimeFlitRx_canonical _ _ _ _
  case leaseAnswerRx => exact execLeaseAnswerRx_canonical _ _ _ _
  case frameBoundary => exact execFrameBoundary_canonical _
  case eccError => exact execEccError_canonical _
  case powerOnBoot => exact execPowerOnBoot_canonical _
  case takeQueueEntry => exact execTakeQueueEntry_canonical _
  case dependenceEventSeen => exact execDependenceEventSeen_canonical _
  case placementDecision => exact execPlacementDecision_canonical
  case instanceStart => exact execInstanceStart_canonical _
  case preloadStart => exact execPreloadStart_canonical _
  case budgetOverrun => exact execBudgetOverrun_canonical _
  case requeueSettle => exact execRequeueSettle_canonical _
  case killSettle => exact execKillSettle_canonical _
  case instanceRetireDone => exact execInstanceRetireDone_canonical _
  case cintHoldoffExpiry => exact execCintHoldoffExpiry_canonical
  case icacheFill => exact execIcacheFill_canonical _ _ _
  case fetchBufferFill => exact execFetchBufferFill_canonical _
  case forcedIssue => exact execForcedIssue_canonical _
  case resultLands => exact execResultLands_canonical _ _
  case loadResultLands => exact execLoadResultLands_canonical _ _ _
  case checkSignatureCompare => exact execCheckSignatureCompare_canonical _
  case feWaitEnd => exact execFeWaitEnd_canonical _
  case feWatchdog => exact execFeWatchdog_canonical _
  case waitTimeout => exact execWaitTimeout_canonical _
  case phwaitEnd => exact execPhwaitEnd_canonical _
  case phsigHoldEnd => exact execPhsigHoldEnd_canonical _
  case copyEntryFree => exact execCopyEntryFree_canonical _
  case ringpushEnd => exact execRingpushEnd_canonical _
  case matrixQueueRoom => exact execMatrixQueueRoom_canonical _
  case tileClaimGrant => exact execTileClaimGrant_canonical _
  case mxwaitEnd => exact execMxwaitEnd_canonical _
  case icinvComplete => exact execIcinvComplete_canonical _
  case rejnComplete => exact execRejnComplete_canonical _
  case fenceComplete => exact execFenceComplete_canonical _
  case waitevEnd => exact execWaitevEnd_canonical _
  case tlbinvComplete => exact execTlbinvComplete_canonical _
  case tableUnpinEnd => exact execTableUnpinEnd_canonical _
  case translationWalkEnd => exact execTranslationWalkEnd_canonical _ _ _
  case haltRequestArrives => exact execHaltRequestArrives_canonical _
  case contextHalt => exact execContextHalt_canonical _
  case forcedHalt => exact execForcedHalt_canonical _
  case instanceSave => exact execInstanceSave_canonical _
  case commandStart => exact execCommandStart_canonical _ _ _
  case ringPanelRoom => exact execRingPanelRoom_canonical _ _ _
  case putsSlotRoom => exact execPutsSlotRoom_canonical _ _
  case commandComplete => exact execCommandComplete_canonical _ _
  case mxRunStart => exact execMxRunStart_canonical _
  case mxRunEnd => exact execMxRunEnd_canonical _
  case mxPanelRead => exact execMxPanelRead_canonical _
  case scaleMissFill => exact execScaleMissFill_canonical _ _ _ _
  case mxOpComplete => exact execMxOpComplete_canonical _
  case mxSuspendComplete => exact execMxSuspendComplete_canonical _
  case mxTileCmdComplete => exact execMxTileCmdComplete_canonical _
  case mxJoinEffect => exact execMxJoinEffect_canonical _
  case memberSignal => exact execMemberSignal_canonical _
  case anonymousArrival => exact execAnonymousArrival_canonical _
  case registrationArrives => exact execRegistrationArrives_canonical _
  case slotBoundary => exact execSlotBoundary_canonical
  case syncLoss => exact execSyncLoss_canonical
  case flitSend => exact execFlitSend_canonical _ _ _
  case flitZeroRx => exact execFlitZeroRx_canonical _ _ _
  case flitAtomicRx => exact execFlitAtomicRx_canonical _ _ _
  case flitReadreqRx => exact execFlitReadreqRx_canonical _ _ _
  case flitLandRx => exact execFlitLandRx_canonical _ _ _
  case flitTransitRx => exact execFlitTransitRx_canonical _ _ _
  case lackDue => exact execLackDue_canonical _ _
  case replayRx => exact execReplayRx_canonical _ _ _ _ _ _
  case leaseRequestRx => exact execLeaseRequestRx_canonical _
  case leaseConfirmRx => exact execLeaseConfirmRx_canonical _ _ _
  case leaseAnswerTimeout => exact execLeaseAnswerTimeout_canonical _ _
  case releaseNoticeRx => exact execReleaseNoticeRx_canonical _ _ _
  case revocationNoticeRx => exact execRevocationNoticeRx_canonical _ _ _
  case cancelNoticeRx => exact execCancelNoticeRx_canonical _ _ _
  case displacementNoticeRx => exact execDisplacementNoticeRx_canonical _ _ _
  case lossNoticeRx => exact execLossNoticeRx_canonical _ _ _
  case substNoticeRx => exact execSubstNoticeRx_canonical _ _ _ _
  case removeNoticeRx => exact execRemoveNoticeRx_canonical _ _ _ _
  case skewNoticeRx => exact execSkewNoticeRx_canonical _ _
  case rheadNoticeRx => exact execRheadNoticeRx_canonical _ _
  case flitAbandon => exact execFlitAbandon_canonical _
  case lossOfLight => exact execLossOfLight_canonical _ _
  case lossOfSignal => exact execLossOfSignal_canonical _ _ _
  case drift => exact execDrift_canonical _ _
  case retune => exact execRetune_canonical _ _
  case retuneRelock => exact execRetuneRelock_canonical _ _
  case lockfail => exact execLockfail_canonical _ _
  case spareAttemptEnd => exact execSpareAttemptEnd_canonical _ _ _
  case repansSpareComb => exact execRepansSpareComb_canonical _ _
  case repansSpareEmitter => exact execRepansSpareEmitter_canonical _ _
  case repansRetryOriginal => exact execRepansRetryOriginal_canonical _ _
  case repansRemove => exact execRepansRemove_canonical _ _
  case repansTimeout => exact execRepansTimeout_canonical _ _
  case skewDetected => exact execSkewDetected_canonical _ _ _
  case routingCommit => exact execRoutingCommit_canonical
  case announceRx => exact execAnnounceRx_canonical _ _ _
  case collAdmission => exact execCollAdmission_canonical _ _
  case admitRx => exact execAdmitRx_canonical _ _ _ _
  case collTransfer => exact execCollTransfer_canonical _ _
  case rfwdMessageRx => exact execRfwdMessageRx_canonical _ _ _ _ _
  case collDoneRx => exact execCollDoneRx_canonical _ _ _ _
  case abortRx => exact execAbortRx_canonical _ _ _ _
  case admissionWatchdog => exact execAdmissionWatchdog_canonical _ _
  case pstateRead => exact execPstateRead_canonical
  case enterLowPower => exact execEnterLowPower_canonical
  case lowPowerExit => exact execLowPowerExit_canonical
  case d3Entry => exact execD3Entry_canonical
  case zenithAttest => exact execZenithAttest_canonical _
  case zenithBootinfo => exact execZenithBootinfo_canonical _
  case zenithSetworld => exact execZenithSetworld_canonical _
  case zenithBootclr => exact execZenithBootclr_canonical _
  case zenithDiag => exact execZenithDiag_canonical _ _
  case zenithAutoDiag => exact execZenithAutoDiag_canonical _ _
  case writebackPoison => exact execWritebackPoison_canonical _
  case illegalEnc => exact execIllegalEnc_canonical _
  case fetchFault => exact execFetchFault_canonical _
  case rfwdSlotFree => exact execRfwdSlotFree_canonical _ _ _ _
  case spareCombLightChange => exact execSpareCombLightChange_canonical _ _

theorem exec_keepsCanonical (i : Instr) : KeepsCanonical (exec i) := by
  intro s t h ht
  cases hw : wordEff i with
  | none => exact happening_keepsCanonical hw s t h ht
  | some e =>
    rw [exec_of_wordEff hw] at ht
    exact issueWords_canonical (List.forall_mem_singleton.2 (wordEff_keepsCanonical hw)) h ht

/-! ## A core cycle -/

theorem State.tick_mem (s : State) (x : Nat) : (s.tick x).mem = s.mem := State.ite_mem (State.upCtx_mem ..) rfl

theorem State.resumePend_canonical (s : State) (x : Nat) (h : s.canonical) : (s.resumePend x).canonical := by
  grind [State.resumePend, State.canonical, State.reissue_canonical, State.enter_mem]

theorem State.stallTick_mem (s : State) (g : Nat) : (s.stallTick g).mem = s.mem := State.ite_mem (State.setGroup_mem ..) rfl

theorem State.walkAhead_mem (s : State) (x n : Nat) : (s.walkAhead x n).mem = s.mem := State.walkBegins_mem ..

theorem State.passCycle_canonical (s : State) (h : s.canonical) : s.passCycle.canonical := by
  grind [State.passCycle, State.canonical, State.upSys_mem, State.draw_mem, State.sidereal_canonical]

theorem State.passTurn_canonical (s : State) (h : s.canonical) : s.passTurn.canonical := by
  grind [State.passTurn, State.canonical, State.passCycle_canonical]

theorem issueBundle_canonical (x : Nat) (b : Bundle) : KeepsCanonical (issueBundle x b) := by
  intro s t h ht
  have hs : ({ s.settleLoads x b.items with cur := x } : State).canonical := State.canonical_of_mem (State.settleLoads_mem s x b.items) h
  refine andThen_canonical (fun u hu => ?_) (fun u v hu hv => ?_) ht
  · split at hu
    · exact exec_keepsCanonical _ _ u hs hu
    · exact issueBundleWords_canonical _ hs hu
  · cases hv
    exact State.canonical_of_mem (State.deliverResume_mem u x) hu

theorem issueNext_canonical (x : Nat) {s t : State} (h : s.canonical) (ht : (issueNext x s).out = .next t) : t.canonical := by
  have htry := State.tryHand_canonical s x h
  unfold issueNext at ht
  split at ht
  · grind [Trial.canonical]
  · grind [Trial.canonical, State.canonical, State.draw_mem]
  · grind [Trial.canonical, State.canonical, State.draw_mem, State.takeTrap_mem]
  · next u b _ hb =>
    rw [hb] at htry
    exact issueBundle_canonical x b u t htry ht

theorem second_keepsCanonical (k : Nat) (used : Option (List Nat)) (y0 y1 : Bool) : KeepsCanonical (second k used y0 y1) := by
  intro s t h ht
  have htry := State.tryHand_canonical s (2 * k + 1) h
  have hrest : ∀ (f : Core → Core) (u v : State), u.canonical →
      Host.Outcome.next (u.upCore k f) = (.next v : Host.Outcome State Fault Refusal) → v.canonical := by
    rintro f u _ hu ⟨⟩
    exact State.canonical_of_mem (State.upCore_mem u k f) hu
  unfold second at ht
  dsimp only at ht
  split at ht
  · next u hb =>
    rw [hb] at htry
    exact hrest _ u t htry ht
  · next u hb =>
    rw [hb] at htry
    exact hrest _ _ t (State.canonical_of_mem (State.draw_mem u) htry) ht
  · next u r hb =>
    rw [hb] at htry
    split at ht
    · exact hrest _ _ t (State.canonical_of_mem ((State.draw_mem _).trans (State.takeTrap_mem u _ r)) htry) ht
    · exact hrest _ u t htry ht
  · next u b _ hb =>
    rw [hb] at htry
    split at ht
    · exact andThen_canonical (fun v => issueBundle_canonical (2 * k + 1) b u v htry) (hrest _) ht
    · exact hrest _ u t htry ht

theorem gangTurn_canonical (g : Nat) (ks : List Nat) (yield forced : Bool) {s t : State} (h : s.canonical)
    (ht : (gangTurn g ks yield forced s).out = .next t) : t.canonical := by
  grind [gangTurn, State.advance_canonical]

theorem pairTurn_canonical (k : Nat) (yield forced : Bool) {s t : State} (h : s.canonical)
    (ht : (pairTurn k yield forced s).out = .next t) : t.canonical := by
  grind [pairTurn, State.advance_canonical]

theorem firsts_canonical (k : Nat) (y f : Nat → Bool) {s t : State} (h : s.canonical) (ht : (firsts k y f s).out = .next t) :
    t.canonical := by
  unfold firsts at ht
  extract_lets ks cs own a at ht
  have hgang : ∀ u, a.out = .next u → u.canonical := by
    intro u hu
    unfold a at hu
    split at hu
    · cases hu; exact h
    · exact gangTurn_canonical _ _ _ _ h hu
  split at ht
  · exact hgang t ht
  · split at ht
    · exact pairTurn_canonical _ _ _ h ht
    · split at ht
      · next u hu =>
        split at ht
        · exact hgang t ht
        · exact issueNext_canonical _ (hgang u hu) ht
      · exact hgang t ht

theorem seconds_keepsCanonical (used : List (Nat × List Nat)) (y f : Nat → Bool) (js : List Nat) :
    KeepsCanonical (seconds used y f js) := by
  induction js with
  | nil => rintro s _ h ⟨⟩; exact h
  | cons j js ih =>
    intro s t h ht
    refine andThen_canonical (fun u hu => ?_) ih ht
    split at hu
    · exact execForcedIssue_canonical j s u h hu
    · exact second_keepsCanonical _ _ _ _ s u h hu

theorem coreCycle_keepsCanonical (k : Nat) : KeepsCanonical (coreCycle k) := by
  intro s t h ht
  have htick := fun xs : List Nat => (foldl_mem State.compareDue_mem xs (xs.foldl State.tick s)).trans (foldl_mem State.tick_mem xs s)
  have hpend := fun xs : List Nat => foldl_canonical State.resumePend_canonical xs (State.canonical_of_mem (htick xs) h)
  refine andThen_canonical (fun u hu => andThen_canonical (fun v hv => ?_) (seconds_keepsCanonical _ _ _ _) hu) (fun u v hu hv => ?_) ht
  · exact firsts_canonical _ _ _ (State.canonical_of_mem (State.upCtxs_mem _ _ _) (hpend _)) hv
  · cases hv
    split
    · exact State.canonical_of_mem (State.stallTick_mem _ _) hu
    · exact hu

/-! ## The device's own happenings -/

/-- Every happening of a list keeps memory in its canonical form. -/
def AllKeep (l : List Act) : Prop := ∀ a ∈ l, KeepsCanonical a

theorem allKeep_nil : AllKeep [] := List.forall_mem_nil _

theorem allKeep_cons {a : Act} {l : List Act} (ha : KeepsCanonical a) (hl : AllKeep l) : AllKeep (a :: l) := List.forall_mem_cons.2 ⟨ha, hl⟩

theorem allKeep_append {l m : List Act} (hl : AllKeep l) (hm : AllKeep m) : AllKeep (l ++ m) := List.forall_mem_append.2 ⟨hl, hm⟩

theorem allKeep_ite {c : Prop} [Decidable c] {l m : List Act} (hl : AllKeep l) (hm : AllKeep m) : AllKeep (if c then l else m) := by
  split
  · exact hl
  · exact hm

theorem allKeep_map {α : Type} {f : α → Act} (hf : ∀ e, KeepsCanonical (f e)) (l : List α) : AllKeep (l.map f) :=
  List.forall_mem_map.2 fun e _ => hf e

theorem allKeep_flatMap {α : Type} {f : α → List Act} (hf : ∀ e, AllKeep (f e)) (l : List α) : AllKeep (l.flatMap f) := by
  intro a ha
  obtain ⟨e, -, ha⟩ := List.mem_flatMap.1 ha
  exact hf e a ha

theorem allKeep_filterMap {α : Type} {f : α → Option Act} (hf : ∀ e, ∀ a ∈ f e, KeepsCanonical a) (l : List α) :
    AllKeep (l.filterMap f) := by
  intro a ha
  obtain ⟨e, -, ha⟩ := List.mem_filterMap.1 ha
  exact hf e a ha

theorem allKeep_elim {α : Type} {f : α → List Act} (hf : ∀ e, AllKeep (f e)) (o : Option α) : AllKeep (o.elim [] f) := by
  cases o with
  | none => exact allKeep_nil
  | some e => exact hf e

theorem keeps_of_mem_ite {c : Prop} [Decidable c] {a : Act} (ha : KeepsCanonical a) :
    ∀ b ∈ (if c then some a else none), KeepsCanonical b := by
  split
  · rintro _ ⟨⟩; exact ha
  · rintro _ ⟨⟩

theorem keepsCanonical_of_mem {f : State → State} (hf : ∀ s, (f s).mem = s.mem) : KeepsCanonical fun s => .next (f s) := by
  rintro s _ h ⟨⟩
  exact State.canonical_of_mem (hf s) h

theorem waitEvents_allKeep (x : Nat) (w : Wait) : AllKeep (waitEvents? x w) := by
  refine allKeep_append ?_ (allKeep_cons (execWaitTimeout_canonical x) allKeep_nil)
  split
  · exact allKeep_cons (execPhwaitEnd_canonical x) allKeep_nil
  · exact allKeep_cons (execPhsigHoldEnd_canonical x) allKeep_nil
  · exact allKeep_cons (execFeWaitEnd_canonical x) (allKeep_cons (execFeWatchdog_canonical x) allKeep_nil)
  · exact allKeep_cons (execCopyEntryFree_canonical x) allKeep_nil
  · exact allKeep_cons (execRingpushEnd_canonical x) allKeep_nil
  · exact allKeep_cons (execMatrixQueueRoom_canonical x) allKeep_nil
  · exact allKeep_cons (execTileClaimGrant_canonical x) allKeep_nil
  · exact allKeep_cons (execMxwaitEnd_canonical x) allKeep_nil
  · exact allKeep_cons (execIcinvComplete_canonical x) allKeep_nil
  · exact allKeep_cons (execRejnComplete_canonical _) allKeep_nil
  · exact allKeep_cons (execFenceComplete_canonical x) allKeep_nil
  · exact allKeep_cons (execWaitevEnd_canonical x) allKeep_nil
  · exact allKeep_cons (execTableUnpinEnd_canonical x) allKeep_nil
  · exact allKeep_cons (execTlbinvComplete_canonical x) allKeep_nil
  · exact allKeep_nil

theorem pendEvents_allKeep (x j n : Nat) (p : Pend) : AllKeep (pendEvents x j n p) := by
  unfold pendEvents
  split
  · split
    · exact allKeep_cons (execZenithAttest_canonical x) allKeep_nil
    · exact allKeep_cons (execZenithBootinfo_canonical x) allKeep_nil
    · exact allKeep_cons (execZenithSetworld_canonical x) allKeep_nil
    · exact allKeep_cons (execZenithBootclr_canonical x) allKeep_nil
    · exact allKeep_cons (execZenithDiag_canonical x true) (allKeep_cons (execZenithDiag_canonical x false) allKeep_nil)
    · exact allKeep_cons (execLoadResultLands_canonical x j _) allKeep_nil
  · exact allKeep_nil
  · exact allKeep_map (execLoadResultLands_canonical x j) _

theorem ctxEvents_allKeep (x n : Nat) (c : Ctx) : AllKeep (ctxEvents x n c) := by
  refine allKeep_append (allKeep_append (allKeep_append (allKeep_append (allKeep_append ?_ ?_) ?_) ?_) ?_) ?_
  · split
    · exact allKeep_nil
    · split
      · exact allKeep_cons (execInstanceStart_canonical x) (allKeep_cons (execInstanceSave_canonical x) allKeep_nil)
      · exact allKeep_cons (execInstanceRetireDone_canonical x) allKeep_nil
      · exact allKeep_cons (execInstanceSave_canonical x) allKeep_nil
      · exact allKeep_append (allKeep_append (allKeep_elim (waitEvents_allKeep x) _) (allKeep_map (execResultLands_canonical x) _))
          (allKeep_cons (execFetchBufferFill_canonical x) allKeep_nil)
      · exact allKeep_nil
  · exact allKeep_flatMap (fun _ => pendEvents_allKeep x _ n _) _
  · exact allKeep_ite (allKeep_cons (execHaltRequestArrives_canonical x) <| allKeep_cons (execContextHalt_canonical x) <|
      allKeep_cons (execForcedHalt_canonical x) allKeep_nil) allKeep_nil
  · exact allKeep_ite allKeep_nil (allKeep_cons (execMxTileCmdComplete_canonical x) allKeep_nil)
  · exact allKeep_ite (allKeep_cons (execMxJoinEffect_canonical x) allKeep_nil) allKeep_nil
  · exact allKeep_ite allKeep_nil (allKeep_cons (execCheckSignatureCompare_canonical _) allKeep_nil)

theorem copyEvents_allKeep (k n : Nat) (c : Core) : AllKeep (copyEvents k n c) :=
  allKeep_flatMap (fun j => allKeep_cons (execCommandStart_canonical k j n) <| allKeep_cons (execRingPanelRoom_canonical k j n) <|
    allKeep_cons (execPutsSlotRoom_canonical k j) <| allKeep_cons (execCommandComplete_canonical k j) allKeep_nil) _

theorem missEvents_allKeep (s : State) (g : Nat) : AllKeep (missEvents s g) := by
  unfold missEvents
  split
  · intro a ha
    obtain ⟨q, -, rfl⟩ := Option.map_eq_some_iff.1 (Option.mem_toList.1 ha)
    exact execScaleMissFill_canonical g _ _ _
  · exact allKeep_nil

theorem groupEvents_allKeep (s : State) (g : Nat) : AllKeep (groupEvents s g) :=
  allKeep_append (allKeep_cons (execMxRunStart_canonical g) <| allKeep_cons (execMxRunEnd_canonical g) <|
    allKeep_cons (execMxPanelRead_canonical g) <| allKeep_cons (execMxSuspendComplete_canonical g) <|
    allKeep_cons (execMxOpComplete_canonical g) allKeep_nil) (missEvents_allKeep s g)

theorem kernelEvents_allKeep (kid : Nat) (k : Kernel) : AllKeep (kernelEvents kid k) := by
  refine allKeep_append (allKeep_ite (allKeep_filterMap (fun w a ha => ?_) _) allKeep_nil) ?_
  · obtain ⟨v, -, rfl⟩ := Option.map_eq_some_iff.1 ha
    exact execDependenceEventSeen_canonical _
  · split
    · exact allKeep_cons execPlacementDecision_canonical allKeep_nil
    · exact allKeep_cons (execPreloadStart_canonical kid) allKeep_nil
    · exact allKeep_ite allKeep_nil (allKeep_cons (execBudgetOverrun_canonical kid) allKeep_nil)
    · exact allKeep_cons (execRequeueSettle_canonical kid) allKeep_nil
    · exact allKeep_cons (execKillSettle_canonical kid) allKeep_nil

theorem phEvent_keepsCanonical (j : Nat) (m : PhMsg) : KeepsCanonical (phEvent j m) := by
  cases m with
  | member => exact execMemberSignal_canonical j
  | anon => exact execAnonymousArrival_canonical j
  | reg => exact execRegistrationArrives_canonical j

theorem fabEvents_allKeep (s : State) (n : Nat) : AllKeep (fabEvents s n) := by
  refine allKeep_append (allKeep_append (allKeep_append ?_ ?_) ?_) ?_
  · exact allKeep_ite allKeep_nil (allKeep_cons (execFlitSend_canonical _ _ _) (allKeep_cons (execFlitAbandon_canonical _) allKeep_nil))
  · refine allKeep_filterMap (fun e => ?_) _
    split
    · rintro _ ⟨⟩
    · rintro _ ⟨⟩; exact execLackDue_canonical _ _
  · exact allKeep_flatMap (fun e => allKeep_elim (fun v => allKeep_map (fun q => execLeaseAnswerTimeout_canonical _ _) _) _) _
  · exact allKeep_filterMap (fun r => keeps_of_mem_ite (execRepansTimeout_canonical _ _)) _

theorem collEvents_allKeep (s : State) : AllKeep (collEvents s) :=
  allKeep_flatMap (fun _ => allKeep_flatMap (fun _ => allKeep_cons (execCollAdmission_canonical _ _) <|
    allKeep_cons (execCollTransfer_canonical _ _) <| allKeep_cons (execAdmissionWatchdog_canonical _ _) allKeep_nil) _) _

theorem cacheEvents_allKeep (s : State) (n : Nat) : AllKeep (cacheEvents s n) := by
  refine allKeep_append (allKeep_append (allKeep_append ?_ ?_) ?_) ?_
  · exact allKeep_flatMap (fun _ => allKeep_filterMap (fun _ => keeps_of_mem_ite (keepsCanonical_of_mem fun t => State.l1Fill_mem t _ _ _)) _) _
  · refine allKeep_filterMap (fun e => ?_) _
    split
    · rintro _ ⟨⟩; exact execWritebackPoison_canonical _
    · split
      · rintro _ ⟨⟩
      · rintro _ ⟨⟩; exact keepsCanonical_of_mem fun t => rfl
  · exact allKeep_flatMap (fun _ => allKeep_map (fun _ => keepsCanonical_of_mem fun t => State.walkSteps_mem t _ _) _) _
  · exact allKeep_filterMap (fun _ => keeps_of_mem_ite (keepsCanonical_of_mem fun t => State.walkAhead_mem t _ n)) _

theorem State.ownEvents_allKeep (s : State) (n : Nat) : AllKeep (s.ownEvents n) := by
  refine allKeep_append (allKeep_append (allKeep_append (allKeep_append (allKeep_append (allKeep_append (allKeep_append (allKeep_append
    (allKeep_append (allKeep_append (allKeep_append (allKeep_append ?_ ?_) ?_) ?_) ?_) ?_) ?_) (fabEvents_allKeep s n)) (collEvents_allKeep s))
    (cacheEvents_allKeep s n)) ?_) ?_) ?_
  · exact allKeep_filterMap (fun e => keeps_of_mem_ite (execTakeQueueEntry_canonical _)) _
  · exact allKeep_flatMap (fun _ => allKeep_elim (kernelEvents_allKeep _) _) _
  · exact allKeep_flatMap (fun _ => allKeep_ite (ctxEvents_allKeep _ n _) allKeep_nil) _
  · exact allKeep_flatMap (fun _ => copyEvents_allKeep _ n _) _
  · exact allKeep_flatMap (groupEvents_allKeep s) _
  · exact allKeep_flatMap (fun _ => allKeep_ite (groupEvents_allKeep s _) allKeep_nil) _
  · exact allKeep_map (fun _ => phEvent_keepsCanonical _ _) _
  · exact allKeep_ite (allKeep_cons execCintHoldoffExpiry_canonical allKeep_nil) allKeep_nil
  · exact allKeep_ite (allKeep_ite (allKeep_cons execEnterLowPower_canonical allKeep_nil) allKeep_nil)
      (allKeep_ite (allKeep_cons execLowPowerExit_canonical allKeep_nil) allKeep_nil)
  · exact allKeep_flatMap (fun _ => allKeep_cons (execZenithAutoDiag_canonical _ true) <|
      allKeep_cons (execZenithAutoDiag_canonical _ false) allKeep_nil) _

theorem runOwn_keepsCanonical : KeepsCanonical runOwn := by
  intro s t h ht
  unfold runOwn at ht
  split at ht
  · next e he => exact State.ownEvents_allKeep s _ e (List.mem_of_getElem? he) s t h ht
  · cases ht; exact h

/-! ## A step -/

theorem runListed_keepsCanonical (i : Instr) : KeepsCanonical (runListed i) := by
  intro s t h ht
  unfold runListed at ht
  split at ht
  · exact exec_keepsCanonical _ s t h ht
  · split at ht
    · cases ht
    · split at ht
      · cases ht; exact h
      · exact exec_keepsCanonical _ s t h ht

theorem step_keepsCanonical : KeepsCanonical step := by
  intro s t h ht
  unfold step at ht
  split at ht
  · next i rest _ => exact runListed_keepsCanonical i { s with agenda := rest } t h ht
  · split at ht
    · cases ht
    · split at ht
      · exact runOwn_keepsCanonical { s with devTurn := false } t h ht
      · refine andThen_canonical (fun u => coreCycle_keepsCanonical s.turn s u h) (fun u v hu hv => ?_) ht
        cases hv
        exact State.passTurn_canonical u hu

end Sys2Proof.Machine
end

section
/-! SUPPORT. Physical memory stays in its canonical form (09; R198). -/

namespace Sys2Proof.Claims

/-- Settles O59: every function of the model that answers a state either leaves memory as it is, or writes it through `State.wr` or a
filter, which keep the canonical form; a step only composes them. -/
theorem stepKeepsCanonical : Obligations.StepKeepsCanonical := Machine.step_keepsCanonical

end Sys2Proof.Claims
end

section
/-! SUPPORT. Scratchpad accesses of a word: the checks of the address, the full-empty wait, and what stores and full-empty marks leave of
the core (09 R180 to R184). -/

open Sys2Proof.Claims

namespace Sys2Proof.Machine

/-! ## The checks of an address -/

theorem spInfo_eq (ea : W64) : spInfo ea = BitVec.ofNat 64 (ea.toNat % 2 ^ 48) := by
  refine BitVec.eq_of_toNat_eq ?_
  rw [spInfo, BitVec.toNat_setWidth, BitVec.toNat_setWidth, BitVec.toNat_ofNat]

section
variable {s : State} {ea : W64} {n al : Nat} {k : Nat → Res}

theorem spCheck_iss (s : State) (ea : W64) (n al : Nat) : spCheck (s.iss s.cur) ea n al =
    if ea.toNat % al != 0 then some .align else if s.me.spsize < ea.toNat + n then some .scratchRange else none := rfl

theorem spCheck_ok (h : SpOk s ea n al) : spCheck (s.iss s.cur) ea n al = none := by
  rw [spCheck_iss, if_neg (by simpa using h.1), if_neg (Nat.not_lt.2 h.2)]

theorem withSp_ok (h : SpOk s ea n al) : withSp (s.iss s.cur) ea n al k = k ea.toNat := by
  unfold withSp
  rw [spCheck_ok h]

/-- Alignment comes before range (09 R180, R181). -/
theorem withSp_misaligned (h : ea.toNat % al ≠ 0) : withSp (s.iss s.cur) ea n al k = trapAt (s.iss s.cur) .align (spInfo ea) := by
  unfold withSp
  rw [spCheck_iss, if_pos (by simpa using h)]

theorem withSp_outside (ha : ea.toNat % al = 0) (h : s.me.spsize < ea.toNat + n) :
    withSp (s.iss s.cur) ea n al k = trapAt (s.iss s.cur) .scratchRange (spInfo ea) := by
  unfold withSp
  rw [spCheck_iss, if_neg (by simpa using ha), if_pos h]

end

/-- A word that finds a cause at its own bundle. -/
theorem traps_of_eff {e : Eff} {i : Instr} {s : State} {c : Cause} {ea : W64} (hi : exec i s = issueWords [e] s)
    (h : e (s.iss s.cur) s.out0 = trapAt (s.iss s.cur) c (spInfo ea)) : Traps i s c (BitVec.ofNat 64 (ea.toNat % 2 ^ 48)) := by
  rw [← spInfo_eq]
  exact hi.trans (issueWords_trap h)

/-! ## The full-empty wait -/

section
variable {s : State} {q : QLoad} {g n : Nat} {k : Res}

theorem firstEmpty_iss (s : State) (g n : Nat) : (s.iss s.cur).firstEmpty g n =
    ((List.range n).find? fun j => !(myCore s).feGet (s.me.spbase / 16 + g + j)).map (g + ·) := rfl

theorem feWait_full (h : q = .plain ∨ ∀ j, j < n → (myCore s).feGet (s.me.spbase / 16 + g + j) = true) :
    feWait (s.iss s.cur) q g n k = k := by
  unfold feWait
  split
  · rfl
  · rfl
  · next hq hf =>
    have hall := h.resolve_left hq
    rw [firstEmpty_iss, Option.map_eq_some_iff] at hf
    obtain ⟨j, hj, -⟩ := hf
    have hempty := List.find?_some hj
    rw [hall j (List.mem_range.1 (List.mem_of_find?_eq_some hj))] at hempty
    cases hempty

/-- The wait stands on the first empty granule. -/
theorem feWait_empty {j : Nat} (hq : q ≠ .plain) (hj : j < n) (h : (myCore s).feGet (s.me.spbase / 16 + (g + j)) = false)
    (hbelow : ∀ i, i < j → ¬ (myCore s).feGet (s.me.spbase / 16 + (g + i)) = false) :
    feWait (s.iss s.cur) q g n k = waitFor (s.iss s.cur) 3 127 (g + j) := by
  have hfind : (s.iss s.cur).firstEmpty g n = some (g + j) := by
    rw [firstEmpty_iss, Option.map_eq_some_iff]
    refine ⟨j, List.find?_range_eq_some.2 ⟨?_, List.mem_range.2 hj, fun i hij => ?_⟩, rfl⟩
    · rw [Nat.add_assoc, h]
      rfl
    · rw [Nat.add_assoc, Bool.eq_true_of_not_eq_false (hbelow i hij)]
      rfl
  unfold feWait
  rw [hfind]
  cases q with
  | plain => exact absurd rfl hq
  | wait => rfl
  | waitClr => rfl

end

/-! ## The state after stores and marks -/

/-- Nothing but the scratchpad of core `k`, with its full-empty bits and poison, and cached scale records. -/
def ScratchOnly (k : Nat) (s u : State) : Prop :=
  u = { s with cores := u.cores, groups := u.groups } ∧
    (∀ j, u.core j = { s.core j with sp := (u.core j).sp, fe := (u.core j).fe, spPoison := (u.core j).spPoison }) ∧
    (∀ j, j ≠ k → u.core j = s.core j) ∧ ∀ g, u.group g = { s.group g with scache := (u.group g).scache }

namespace ScratchOnly

variable {k : Nat} {s t u : State}

theorem refl (k : Nat) (s : State) : ScratchOnly k s s := ⟨rfl, fun _ => rfl, fun _ _ => rfl, fun _ => rfl⟩

theorem trans (h : ScratchOnly k s t) (h' : ScratchOnly k t u) : ScratchOnly k s u := by
  obtain ⟨hrest, hcore, hother, hgroup⟩ := h
  obtain ⟨hrest', hcore', hother', hgroup'⟩ := h'
  refine ⟨?_, fun j => ?_, fun j hj => (hother' j hj).trans (hother j hj), fun g => ?_⟩
  · rw [hrest', hrest]
  · rw [hcore', hcore]
  · rw [hgroup', hgroup]

/-- A change of the scratchpad of core `k` itself. -/
theorem upCore (k : Nat) (s : State) (f : Core → Core)
    (hf : f (s.core k) = { s.core k with sp := (f (s.core k)).sp, fe := (f (s.core k)).fe, spPoison := (f (s.core k)).spPoison }) :
    ScratchOnly k s (s.upCore k f) := by
  refine ⟨rfl, fun j => ?_, fun j hj => State.core_upCore_of_ne _ _ hj, fun _ => rfl⟩
  by_cases hj : j = k
  · subst hj
    rw [State.core_upCore_self]
    exact hf
  · rw [State.core_upCore_of_ne _ _ hj]

theorem feMark (k off n : Nat) (s : State) (fe : Option Bool) : ScratchOnly k s (s.feMark k off n fe) := by
  cases fe with
  | none => exact refl k s
  | some v => exact upCore k s (·.feSet v off n) rfl

theorem scStale (k off n : Nat) (s : State) : ScratchOnly k s (s.scStale k off n) := by
  unfold State.scStale
  dsimp only
  split
  · exact refl k s
  · refine ⟨rfl, fun _ => rfl, fun _ _ => rfl, fun g => ?_⟩
    by_cases hg : g = groupOf k
    · subst hg
      rw [State.group_setGroup_self]
    · rw [State.group_setGroup_of_ne _ _ hg]

theorem spStore (k off : Nat) (s : State) (bs : List Byte) : ScratchOnly k s (s.spStore k off bs) :=
  (scStale k off bs.length s).trans (upCore k _ (·.spWr off bs) rfl)

theorem cur (h : ScratchOnly k s u) : u.cur = s.cur := by rw [h.1]

theorem onlyScratch (h : ScratchOnly (coreOf s.cur) s u) (c : Ctx) : OnlyScratch s (u.setCtx s.cur c).draw := by
  obtain ⟨hrest, hcore, hother, hgroup⟩ := h
  refine ⟨?_, fun y hy => ?_, hcore, hother, hgroup, fun a => ?_⟩
  · rw [hrest]
    rfl
  · exact (State.ctx_setCtx_of_ne _ _ hy).trans ((congrArg (State.ctx · y) hrest).trans rfl)
  · rw [hrest]
    rfl

end ScratchOnly

/-! ## Bytes and full-empty bits afterwards -/

theorem State.scStale_core (s : State) (k off n j : Nat) : (s.scStale k off n).core j = s.core j := by
  unfold State.scStale
  dsimp only
  split
  · rfl
  · rfl

theorem State.spByte_spStore (s : State) (k off o : Nat) (bs : List Byte) :
    (s.spStore k off bs).spByte k o = if off ≤ o ∧ o < off + bs.length then bs.getD (o - off) 0 else s.spByte k o := by
  unfold State.spByte State.spStore
  rw [State.core_upCore_self, State.scStale_core]
  exact memWr_get _ _ _ _

theorem State.feGet_spStore (s : State) (k off g : Nat) (bs : List Byte) : ((s.spStore k off bs).core k).feGet g = (s.core k).feGet g := by
  unfold State.spStore
  rw [State.core_upCore_self, State.scStale_core]
  rfl

theorem State.spByte_feMark (s : State) (k off n o : Nat) (fe : Option Bool) : (s.feMark k off n fe).spByte k o = s.spByte k o := by
  cases fe with
  | none => rfl
  | some v =>
    unfold State.spByte State.feMark
    rw [State.core_upCore_self]
    rfl

theorem get_feFill (m : SMap Bool) (v : Bool) (g n j : Nat) :
    (feFill m v g n).get false j = if g ≤ j ∧ j < g + n then v else m.get false j := by
  induction n generalizing m g with
  | zero => rw [feFill, if_neg (by omega)]
  | succ n ih =>
    rw [feFill, ih, SMap.get_set]
    by_cases hj : j = g
    · rw [if_neg (by omega), if_pos hj, if_pos (by omega)]
    · rw [if_neg hj]
      exact if_congr (by omega) rfl rfl

theorem State.feGet_feMark (s : State) (k off n g : Nat) (fe : Option Bool) :
    ((s.feMark k off n fe).core k).feGet g = match fe with
      | some v => if off / 16 ≤ g ∧ g ≤ (off + n - 1) / 16 then v else (s.core k).feGet g
      | none => (s.core k).feGet g := by
  cases fe with
  | none => rfl
  | some v =>
    unfold State.feMark
    rw [State.core_upCore_self]
    exact (get_feFill _ _ _ _ _).trans (if_congr (by omega) rfl rfl)

/-! ## Several stores -/

/-- Stores into core `k`, in their order; their addresses count from `base`. -/
def State.spStores (s : State) (k base : Nat) (ws : List (Nat × List Byte)) : State :=
  ws.foldl (fun u w => u.spStore k (base + w.1) w.2) s

/-- A store reaches byte `b`. -/
def reaches (b : Nat) (w : Nat × List Byte) : Bool := decide (w.1 ≤ b) && decide (b < w.1 + w.2.length)

theorem reaches_iff {b : Nat} {w : Nat × List Byte} : reaches b w = true ↔ w.1 ≤ b ∧ b < w.1 + w.2.length := by
  rw [reaches, Bool.and_eq_true, decide_eq_true_eq, decide_eq_true_eq]

/-- What stores leave at byte `b`, if one of them reaches it: the last one's byte. -/
def lastByte (ws : List (Nat × List Byte)) (b : Nat) : Option Byte := (ws.reverse.find? (reaches b)).map fun w => w.2.getD (b - w.1) 0

theorem foldl_store (i : Iss) (ws : List (Nat × List Byte)) (o : Out) :
    ws.foldl (fun o w => o.store i w.1 w.2) o = { o with s := o.s.spStores (coreOf i.x) i.c.spbase ws } := by
  induction ws generalizing o with
  | nil => rfl
  | cons w ws ih => exact ih _

theorem ScratchOnly.spStores (k base : Nat) (s : State) (ws : List (Nat × List Byte)) : ScratchOnly k s (s.spStores k base ws) := by
  induction ws generalizing s with
  | nil => exact refl k s
  | cons w ws ih => exact (spStore k _ s w.2).trans (ih _)

theorem State.feGet_spStores (s : State) (k base g : Nat) (ws : List (Nat × List Byte)) :
    ((s.spStores k base ws).core k).feGet g = (s.core k).feGet g := by
  induction ws generalizing s with
  | nil => rfl
  | cons w ws ih => exact (ih _).trans (s.feGet_spStore k _ g w.2)

theorem State.spByte_spStores (s : State) (k base o : Nat) (ws : List (Nat × List Byte)) :
    (s.spStores k base ws).spByte k o = if base ≤ o then (lastByte ws (o - base)).getD (s.spByte k o) else s.spByte k o := by
  induction ws using List.reverseRecOn with
  | nil => split <;> rfl
  | append_singleton ws w ih =>
    rw [State.spStores, List.foldl_append, List.foldl_cons, List.foldl_nil, State.spByte_spStore]
    unfold lastByte at ih ⊢
    rw [List.reverse_append, List.reverse_singleton, List.singleton_append]
    by_cases hw : reaches (o - base) w = true ∧ base ≤ o
    · obtain ⟨hreach, hbase⟩ := hw
      rw [List.find?_cons_of_pos hreach, if_pos hbase]
      rw [reaches_iff] at hreach
      rw [if_pos (by omega), Option.map_some, Option.getD_some, Nat.sub_add_eq]
    · rw [reaches_iff] at hw
      rw [if_neg (by omega)]
      by_cases hbase : base ≤ o
      · rw [List.find?_cons_of_neg (by rw [reaches_iff]; exact fun h => hw ⟨h, hbase⟩)]
        exact ih
      · rw [if_neg hbase] at ih ⊢
        exact ih

/-- Stores of which all that reach byte `b` bring it the same value. -/
theorem lastByte_eq {ws : List (Nat × List Byte)} {b : Nat} {p : Prop} [Decidable p] {y : Byte}
    (hsome : p → ∃ w ∈ ws, w.1 ≤ b ∧ b < w.1 + w.2.length)
    (hval : ∀ w ∈ ws, w.1 ≤ b → b < w.1 + w.2.length → p ∧ w.2.getD (b - w.1) 0 = y) :
    lastByte ws b = if p then some y else none := by
  unfold lastByte
  cases hf : ws.reverse.find? (reaches b) with
  | none =>
    rw [List.find?_eq_none] at hf
    rw [if_neg, Option.map_none]
    intro hp
    obtain ⟨w, hw, hreach⟩ := hsome hp
    exact hf w (List.mem_reverse.2 hw) (reaches_iff.2 hreach)
  | some w =>
    obtain ⟨hlow, hhigh⟩ := reaches_iff.1 (List.find?_some hf)
    obtain ⟨hp, hy⟩ := hval w (List.mem_reverse.1 (List.mem_of_find?_eq_some hf)) hlow hhigh
    rw [if_pos hp, Option.map_some, hy]

/-! ## Words that load and store -/

section
variable {e : Eff} {i : Instr} {s : State}

/-- A load: the context is `c`, and `.WC` clears the granules it read. -/
theorem loadsLocal_of_eff {q : QLoad} {a n : Nat} {o : Out} (hi : exec i s = issueWords [e] s)
    (h : e (s.iss s.cur) s.out0 = .ok (o.feClear (s.iss s.cur) q a n)) (hn : o.next = .seq) (hp : o.InPlace s) (hs : o.s = s) :
    LoadsLocal i s q a n o.c := by
  have hclear : o.feClear (s.iss s.cur) q a n = { o with
      s := s.feMark (coreOf s.cur) (s.me.spbase + a) n (if q = .waitClr then some false else none)
      sig := (o.feClear (s.iss s.cur) q a n).sig } := by
    rw [← hs]
    cases q <;> rfl
  rw [hclear] at h
  have hu := ScratchOnly.feMark (coreOf s.cur) (s.me.spbase + a) n s (if q = .waitClr then some false else none)
  obtain ⟨c, ht, hgo, hme, hc, -⟩ := issueWords_goesOn h hn ⟨hp.tags, hp.wrRsd, hp.rsdctr, hp.pc, hp.loops, hp.bsucc⟩ hu.cur
  exact ⟨_, hi.trans ht, hgo, hu.onlyScratch c, hme.symm ▸ hc, fun b => s.spByte_feMark _ _ _ b _, fun g => s.feGet_feMark _ _ _ g _⟩

/-- A store: the bytes that `ws` leaves, and the full-empty bits. -/
theorem storesLocal_of_eff {a n : Nat} {fe : Option Bool} {ws : List (Nat × List Byte)} {g : List SigItem} (hi : exec i s = issueWords [e] s)
    (h : e (s.iss s.cur) s.out0 = .ok { s.out0 with
      s := (s.spStores (coreOf s.cur) s.me.spbase ws).feMark (coreOf s.cur) (s.me.spbase + a) n fe, sig := g }) :
    StoresLocal i s a n fe (lastByte ws) := by
  have hu := (ScratchOnly.spStores (coreOf s.cur) s.me.spbase s ws).trans (ScratchOnly.feMark _ (s.me.spbase + a) n _ fe)
  obtain ⟨c, ht, hgo, hme, hc, -⟩ := issueWords_goesOn h rfl ⟨rfl, rfl, rfl, rfl, rfl, rfl⟩ hu.cur
  refine ⟨_, hi.trans ht, hgo, hu.onlyScratch c, hme.symm ▸ hc, fun b => ?_, fun b => ?_⟩
  · have hmark := (s.spStores (coreOf s.cur) s.me.spbase ws).feGet_feMark (coreOf s.cur) (s.me.spbase + a) n b fe
    rw [State.feGet_spStores] at hmark
    exact hmark
  · exact (State.spByte_feMark _ _ _ _ b _).trans (State.spByte_spStores _ _ _ _ _)

end

end Sys2Proof.Machine
end

section
/-! SUPPORT. Scratchpad loads: the bytes that a load reads, as little-endian numbers (09 R202 to R204). -/

open Sys2Proof.Machine

namespace Sys2Proof.Claims

variable {s : State} {i : Instr} {d a : Fin 32} {q : QLoad}

/-! ## Bytes of the partition -/

theorem local_eq_map (s : State) (a n : Nat) : (s.iss s.cur).local a n = (List.range n).map fun j => myByte s (a + j) := by
  refine (memRd_eq_map _ _ _).trans (List.map_congr_left fun j _ => ?_)
  rw [Nat.add_assoc]
  rfl

theorem leNat_local (s : State) (a n : Nat) : leNat ((s.iss s.cur).local a n) = myNat s a n := congrArg leNat (local_eq_map s a n)

/-- A part of a block of bytes. -/
theorem take_drop_local (s : State) (a : Nat) {j m n : Nat} (h : j + m ≤ n) :
    (((s.iss s.cur).local a n).drop j).take m = (s.iss s.cur).local (a + j) m := by
  rw [local_eq_map, local_eq_map]
  refine List.ext_getElem (by simp; omega) fun k hk hk' => ?_
  simp [Nat.add_assoc]

theorem laneAt_local (s : State) (a : Nat) (k : Fin 64) : laneAt ((s.iss s.cur).local a 256) k = BitVec.ofNat 32 (myNat s (a + 4 * k) 4) := by
  rw [laneAt, take_drop_local s a (by omega), leNat_local]

theorem not_poisoned {a n : Nat} (h : NoPoison s a n) : ¬ (s.iss s.cur).poisoned a n = true := Bool.eq_false_iff.1 h

/-- No poison in a block, so none in a part of it. -/
theorem noPoison_part {a b n m : Nat} (h : NoPoison s a n) (hlow : a ≤ b) (hhigh : b + m ≤ a + n) (hm : 0 < m) : NoPoison s b m := by
  unfold NoPoison Core.spPoisoned at *
  rw [List.any_eq_false] at *
  intro g hg
  have := h g hg
  simp only [Bool.and_eq_true, decide_eq_true_eq, not_and, Nat.not_le] at *
  omega

/-! ## LDS and LDV -/

theorem ldsN_loads {n : Nat} {sgn : Bool} {o : Int} (hi : exec i s = issueWords [ldsN n sgn q d a o] s) (ha : Still s a) {v : W64}
    (hv : (if sgn = true then w64 (sx (8 * n) (myNat s (s.me.rd a + BitVec.ofInt 64 o).toNat n))
      else BitVec.ofNat 64 (myNat s (s.me.rd a + BitVec.ofInt 64 o).toNat n)) = v)
    (hok : SpOk s (s.me.rd a + BitVec.ofInt 64 o) n n) (hclean : NoPoison s (s.me.rd a + BitVec.ofInt 64 o).toNat n)
    (hfull : FullFor s q (s.me.rd a + BitVec.ofInt 64 o).toNat 1) :
    LoadsLocal i s q (s.me.rd a + BitVec.ofInt 64 o).toNat n { s.me with
      flight := Newer s (.s d v) (if d = 0 then 0 else 1) ++ [⟨.s d v, if d = 0 then 0 else 1, if d = 0 then 0 else 1, 7, 0⟩] } := by
  refine loadsLocal_of_eff (o := s.out0.fS d v 8 0) hi ?_ rfl ⟨rfl, rfl, rfl, rfl, rfl, rfl⟩ rfl
  unfold ldsN
  rw [ha.rS, w64, withSp_ok hok, feWait_full hfull, if_neg (not_poisoned hclean)]
  simp only [leNat_local, hv]

/-- The row that LDV reads at local address `ea`. -/
def rowAt (s : State) (ea : Nat) : Row := rowOf fun k => laneAt ((s.iss s.cur).local ea 256) k

theorem rowAt_getElem (s : State) (ea : Nat) (k : Fin 64) : (rowAt s ea)[k] = BitVec.ofNat 32 (myNat s (ea + 4 * k) 4) := by
  rw [rowAt, rowOf_getElem, laneAt_local]

theorem ldv_loads {v : Fin 64} {o : Int} (ha : Still s a) (hok : SpOk s (s.me.rd a + BitVec.ofInt 64 (16 * o)) 256 16)
    (hclean : NoPoison s (s.me.rd a + BitVec.ofInt 64 (16 * o)).toNat 256)
    (hfull : FullFor s q (s.me.rd a + BitVec.ofInt 64 (16 * o)).toNat 16) :
    LoadsLocal (.ldv q v a o) s q (s.me.rd a + BitVec.ofInt 64 (16 * o)).toNat 256 { s.me with
      flight := Newer s (.v v (rowAt s (s.me.rd a + BitVec.ofInt 64 (16 * o)).toNat)) s.me.em ++
        [⟨.v v (rowAt s (s.me.rd a + BitVec.ofInt 64 (16 * o)).toNat), s.me.em, s.me.em, 7, 0⟩] } := by
  refine loadsLocal_of_eff (e := effLdv q v a o) (o := s.out0.fV v (rowAt s _) s.me.em 8 0) rfl ?_ rfl ⟨rfl, rfl, rfl, rfl, rfl, rfl⟩ rfl
  have hlanes : (List.range 64).any (fun k => (s.iss s.cur).em.getLsbD k &&
      (s.iss s.cur).poisoned ((s.me.rd a + BitVec.ofInt 64 (16 * o)).toNat + 4 * k) 4) = false := by
    refine List.any_eq_false.2 fun k hk => ?_
    have hk := List.mem_range.1 hk
    rw [Bool.and_eq_true]
    exact fun h => not_poisoned (noPoison_part hclean (by omega) (by omega) (by omega)) h.2
  unfold effLdv
  rw [ha.rS, w64, withSp_ok hok, feWait_full hfull, if_neg (Bool.eq_false_iff.1 hlanes)]
  rfl

theorem scratchpadLoad_holds : scratchpadLoad := by
  intro s q d v a o ha
  exact ⟨ldsN_loads (n := 8) (sgn := false) rfl ha rfl, ldsN_loads (n := 4) (sgn := true) rfl ha (sx_w64 _),
    ldsN_loads (n := 4) (sgn := false) rfl ha rfl, ldsN_loads (n := 2) (sgn := false) rfl ha rfl,
    ldsN_loads (n := 1) (sgn := false) rfl ha rfl, fun hok hclean hfull => ⟨_, rowAt_getElem s _, ldv_loads ha hok hclean hfull⟩⟩

/-! ## LDVG -/

/-- A lane's address (09 R204). -/
def laneEa (s : State) (a : Fin 32) (n k : Fin 64) : W64 := s.me.rd a + (s.me.v[n][k]).setWidth 64

theorem mem_lanes {k : Nat} : k ∈ (s.iss s.cur).lanes ↔ ∃ j : Fin 64, j.val = k ∧ s.me.em.getLsbD j = true := by
  rw [Iss.lanes, List.mem_filter, List.mem_range]
  exact ⟨fun h => ⟨⟨k, h.1⟩, rfl, h.2⟩, by rintro ⟨j, rfl, hj⟩; exact ⟨j.isLt, hj⟩⟩

section
variable {n : Fin 64} (ha : Still s a) (hrows : StillRows s)
include ha hrows

theorem laneAddr_eq (k : Fin 64) : (s.iss s.cur).laneAddr a n k = laneEa s a n k := by
  rw [Iss.laneAddr, ha.rS, rV_of_stillRows hrows]
  rfl

theorem laneChecks_ok (h : ∀ k : Fin 64, s.me.em.getLsbD k = true → SpOk s (laneEa s a n k) 4 4) (k : Res) :
    laneChecks (s.iss s.cur) a n k = k := by
  have hnone : (s.iss s.cur).lanes.findSome? (fun j =>
      (spCheck (s.iss s.cur) ((s.iss s.cur).laneAddr a n j) 4 4).map fun c => (c, (s.iss s.cur).laneAddr a n j)) = none := by
    rw [List.findSome?_eq_none_iff]
    intro j hj
    obtain ⟨k, rfl, hk⟩ := mem_lanes.1 hj
    rw [laneAddr_eq ha hrows, spCheck_ok (h k hk), Option.map_none]
  unfold laneChecks
  rw [hnone]

end

/-- The row that LDVG reads. -/
def gathered (i : Iss) (a : Fin 32) (n : Fin 64) : Row :=
  rowOf fun k => if i.em.getLsbD k then BitVec.ofNat 32 (leNat (i.local (i.laneAddr a n k).toNat 4)) else 0

theorem gatherLoad_holds : gatherLoad := by
  intro s d a n ha hrows ea hlanes
  have hclean : (s.iss s.cur).lanes.any (fun k => (s.iss s.cur).poisoned ((s.iss s.cur).laneAddr a n k).toNat 4) = false := by
    refine List.any_eq_false.2 fun k hk => ?_
    obtain ⟨k, rfl, hon⟩ := mem_lanes.1 hk
    rw [laneAddr_eq ha hrows]
    exact not_poisoned (hlanes k hon).2
  refine launchesRow_of_eff (e := effLdvg d a n) (reads := false) (x := gathered (s.iss s.cur) a n)
    (g := (s.out0.fV d (gathered (s.iss s.cur) a n) s.me.em 8 0).sig) rfl ?_ ⟨rfl, fun k hk => ?_⟩
  · unfold effLdvg
    rw [laneChecks_ok ha hrows fun k hk => (hlanes k hk).1, if_neg (Bool.eq_false_iff.1 hclean)]
    rfl
  · have hon : (s.iss s.cur).em.getLsbD k = true := hk
    rw [gathered, rowOf_getElem, if_pos hon, laneAddr_eq ha hrows, leNat_local]
    rfl

/-- Settles O20: a load that passes its checks reads the bytes of its partition where they stand; only `.WC` changes the core. -/
theorem scratchpadLoadResult : Obligations.ScratchpadLoadResult := ⟨scratchpadLoad_holds, gatherLoad_holds⟩

end Sys2Proof.Claims
end

section
/-! SUPPORT. Scratchpad stores: the byte that a scalar store, a row store and a scatter bring to each place (09 R202 to R204). -/

open Sys2Proof.Machine

namespace Sys2Proof.Claims

variable {s : State} {i : Instr} {w a : Fin 32} {p : QStore}

/-! ## Bytes of a word -/

theorem natLe_length (n x : Nat) : (natLe n x).length = n := by
  rw [natLe_eq_map, List.length_map, List.length_range]

theorem natLe_getD {n j : Nat} (x : Nat) (h : j < n) : (natLe n x).getD j 0 = BitVec.ofNat 8 (x / 2 ^ (8 * j)) := by
  simp [natLe_eq_map, List.getD_eq_getElem?_getD, h]

theorem ofNat_byte {m : Nat} (x : BitVec m) (j : Nat) : BitVec.ofNat 8 (x.toNat / 2 ^ (8 * j)) = x.extractLsb' (8 * j) 8 := by
  refine BitVec.eq_of_toNat_eq ?_
  rw [BitVec.toNat_ofNat, BitVec.extractLsb'_toNat, Nat.shiftRight_eq_div_pow]

theorem natLe_byte {m n j : Nat} (x : BitVec m) (h : j < n) : (natLe n x.toNat).getD j 0 = x.extractLsb' (8 * j) 8 :=
  (natLe_getD _ h).trans (ofNat_byte x j)

/-- A byte of words laid one behind the other. -/
theorem flatMap_natLe_getD (f : Nat → Nat) (ks : List Nat) {j : Nat} (h : j < 4 * ks.length) :
    (ks.flatMap fun k => natLe 4 (f k)).getD j 0 = (natLe 4 (f (ks.getD (j / 4) 0))).getD (j % 4) 0 := by
  induction ks generalizing j with
  | nil => exact absurd h (Nat.not_lt_zero _)
  | cons k ks ih =>
    rw [List.flatMap_cons]
    by_cases hj : j < 4
    · rw [List.getD_append _ _ _ _ (by rwa [natLe_length]), Nat.div_eq_of_lt hj, Nat.mod_eq_of_lt hj, List.getD_cons_zero]
    · rw [List.length_cons] at h
      rw [List.getD_append_right _ _ _ _ (by rw [natLe_length]; omega), natLe_length, ih (by omega), show j / 4 = (j - 4) / 4 + 1 by omega,
        List.getD_cons_succ, show (j - 4) % 4 = j % 4 by omega]

theorem flatMap_natLe_length (f : Nat → Nat) (ks : List Nat) : (ks.flatMap fun k => natLe 4 (f k)).length = 4 * ks.length := by
  induction ks with
  | nil => rfl
  | cons k ks ih => rw [List.flatMap_cons, List.length_append, natLe_length, ih, List.length_cons]; omega

/-! ## No pinned table -/

/-- Without an operation that pins a scale table no store waits (10 R223). -/
theorem pinWait_none (h : pinsOf s.me.mxq = []) (l : List (Nat × Nat)) (k : Res) : pinWait (s.iss s.cur) l k = k := by
  have hfree : ∀ a n, (s.iss s.cur).c.pinned a n = false := fun a n => by
    change s.me.tablesMeet (pinsOf s.me.mxq) a n = false
    rw [h]
    rfl
  unfold pinWait
  rw [if_neg]
  simp [hfree]

/-! ## STS -/

theorem lastByte_sts (ea m b : Nat) (x : W64) : lastByte [(ea, natLe m x.toNat)] b =
    if ea ≤ b ∧ b < ea + m then some (x.extractLsb' (8 * (b - ea)) 8) else none := by
  refine lastByte_eq (fun h => ⟨_, List.mem_singleton_self _, h.1, by rw [natLe_length]; exact h.2⟩) fun w hw hlow hhigh => ?_
  obtain rfl := List.mem_singleton.1 hw
  rw [natLe_length] at hhigh
  exact ⟨⟨hlow, hhigh⟩, natLe_byte x (by omega)⟩

theorem stsN_stores {n : Nat} {o : Int} (hi : exec i s = issueWords [stsN n p w a o] s) (ha : Still s a) (hw : Still s w)
    (hpins : pinsOf s.me.mxq = []) (hok : SpOk s (s.me.rd a + BitVec.ofInt 64 o) n n) :
    StoresLocal i s (s.me.rd a + BitVec.ofInt 64 o).toNat n (QStore.fe p) fun b =>
      if (s.me.rd a + BitVec.ofInt 64 o).toNat ≤ b ∧ b < (s.me.rd a + BitVec.ofInt 64 o).toNat + n then
        some ((s.me.rd w).extractLsb' (8 * (b - (s.me.rd a + BitVec.ofInt 64 o).toNat)) 8) else none := by
  simp only [← lastByte_sts]
  refine storesLocal_of_eff hi 
    (g := sigL (s.me.rd a + BitVec.ofInt 64 o).toNat (natLe n (s.me.rd w).toNat) (QStore.feByte p)) ?_
  unfold stsN
  rw [ha.rS, hw.rS, w64, withSp_ok hok, pinWait_none hpins]
  rfl

/-! ## STV -/

/-- A store of a row: a granule whole, or one lane. -/
theorem mem_rowWrites {em : W64} {v : Nat → W32} {ea : Nat} {x : Nat × List Byte} : x ∈ rowWrites em v ea ↔ ∃ g, g < 16 ∧
    (((∀ j, j < 4 → em.getLsbD (4 * g + j) = true) ∧
        x = (ea + 16 * g, ((List.range 4).map (4 * g + ·)).flatMap fun k => natLe 4 (v k).toNat)) ∨
      (¬ (∀ j, j < 4 → em.getLsbD (4 * g + j) = true) ∧
        ∃ j, j < 4 ∧ em.getLsbD (4 * g + j) = true ∧ x = (ea + 4 * (4 * g + j), natLe 4 (v (4 * g + j)).toNat))) := by
  have hall : ∀ g, ((List.range 4).map (4 * g + ·)).all (fun k => em.getLsbD k) = true ↔ ∀ j, j < 4 → em.getLsbD (4 * g + j) = true :=
    fun g => by simp only [List.all_eq_true, List.forall_mem_map, List.mem_range]
  unfold rowWrites
  rw [List.mem_flatMap]
  refine exists_congr fun g => and_congr List.mem_range ?_
  dsimp only
  split
  · next h =>
    rw [hall] at h
    rw [List.mem_singleton]
    exact ⟨fun hx => .inl ⟨h, hx⟩, fun hx => (hx.resolve_right fun hn => hn.1 h).2⟩
  · next h =>
    rw [hall] at h
    simp only [h, false_and, not_false_eq_true, true_and, false_or, List.mem_map, List.mem_filter, List.mem_range]
    constructor
    · rintro ⟨_, ⟨⟨j, hj, rfl⟩, hon⟩, rfl⟩
      exact ⟨j, hj, hon, rfl⟩
    · rintro ⟨j, hj, hon, rfl⟩
      exact ⟨_, ⟨⟨j, hj, rfl⟩, hon⟩, rfl⟩

theorem wholeGranule_getD (v : Nat → W32) (g : Nat) {j : Nat} (h : j < 16) :
    (((List.range 4).map (4 * g + ·)).flatMap fun k => natLe 4 (v k).toNat).getD j 0 = (v (4 * g + j / 4)).extractLsb' (8 * (j % 4)) 8 := by
  rw [flatMap_natLe_getD _ _ (by simpa using h), natLe_byte _ (Nat.mod_lt _ (by decide))]
  congr 2
  simp [List.getD_eq_getElem?_getD, show j / 4 < 4 by omega]

theorem lastByte_stv (em : W64) (v : Nat → W32) (ea b : Nat) : lastByte (rowWrites em v ea) b =
    if ea ≤ b ∧ b < ea + 256 ∧ em.getLsbD ((b - ea) / 4) = true then some ((v ((b - ea) / 4)).extractLsb' (8 * ((b - ea) % 4)) 8)
    else none := by
  refine lastByte_eq (fun h => ?_) fun w hw hlow hhigh => ?_
  · obtain ⟨hlow, hhigh, hon⟩ := h
    have hsplit : 4 * ((b - ea) / 16) + (b - ea) / 4 % 4 = (b - ea) / 4 := by omega
    by_cases hall : ∀ j, j < 4 → em.getLsbD (4 * ((b - ea) / 16) + j) = true
    · refine ⟨_, mem_rowWrites.2 ⟨(b - ea) / 16, by omega, .inl ⟨hall, rfl⟩⟩, by dsimp only; omega, ?_⟩
      rw [flatMap_natLe_length, List.length_map, List.length_range]
      dsimp only
      omega
    · refine ⟨_, mem_rowWrites.2 ⟨(b - ea) / 16, by omega, .inr ⟨hall, (b - ea) / 4 % 4, by omega, by rwa [hsplit], rfl⟩⟩,
        by dsimp only; omega, ?_⟩
      rw [natLe_length]
      dsimp only
      omega
  · obtain ⟨g, hg, ⟨hall, rfl⟩ | ⟨-, j, hj, hon, rfl⟩⟩ := mem_rowWrites.1 hw
    · rw [flatMap_natLe_length, List.length_map, List.length_range] at hhigh
      dsimp only at hlow hhigh ⊢
      have hon := hall ((b - ea) / 4 - 4 * g) (by omega)
      rw [show 4 * g + ((b - ea) / 4 - 4 * g) = (b - ea) / 4 by omega] at hon
      rw [wholeGranule_getD v g (by omega), show 4 * g + (b - (ea + 16 * g)) / 4 = (b - ea) / 4 by omega,
        show (b - (ea + 16 * g)) % 4 = (b - ea) % 4 by omega]
      exact ⟨⟨by omega, by omega, hon⟩, rfl⟩
    · rw [natLe_length] at hhigh
      dsimp only at hlow hhigh ⊢
      have hlane : (b - ea) / 4 = 4 * g + j := by omega
      rw [hlane, natLe_byte _ (by omega), show b - (ea + 4 * (4 * g + j)) = (b - ea) % 4 by omega]
      exact ⟨⟨by omega, by omega, hon⟩, rfl⟩

theorem stv_stores {v : Fin 64} {o : Int} (ha : Still s a) (hrows : StillRows s) (hpins : pinsOf s.me.mxq = [])
    (hok : SpOk s (s.me.rd a + BitVec.ofInt 64 (16 * o)) 256 16) :
    StoresLocal (.stv p v a o) s (s.me.rd a + BitVec.ofInt 64 (16 * o)).toNat 256 (QStore.fe p)
      (lastByte (rowWrites s.me.em (lane s.me.v[v]) (s.me.rd a + BitVec.ofInt 64 (16 * o)).toNat)) := by
  have hrow : (s.iss s.cur).rV v = lane s.me.v[v] := funext fun k => Iss.rV_of_still (busyV_of_stillRows hrows v k)
  refine storesLocal_of_eff (e := effStv p v a o) rfl
    (g := sigL (s.me.rd a + BitVec.ofInt 64 (16 * o)).toNat
      ((rowWrites s.me.em (lane s.me.v[v]) (s.me.rd a + BitVec.ofInt 64 (16 * o)).toNat).flatMap (·.2)) (QStore.feByte p)) ?_
  unfold effStv
  rw [ha.rS, hrow, w64, withSp_ok hok, pinWait_none hpins]
  simp only [foldl_store]
  rfl

/-! ## STVS -/

theorem lanes_eq (s : State) :
    (s.iss s.cur).lanes = ((List.finRange 64).filter fun k : Fin 64 => s.me.em.getLsbD k).map fun k : Fin 64 => k.val := by
  rw [Iss.lanes, ← List.map_coe_finRange_eq_range, List.filter_map]
  rfl

/-- The stores of STVS, in rising order of the lanes. -/
def scatter (s : State) (a : Fin 32) (v n : Fin 64) : List (Nat × List Byte) :=
  ((List.finRange 64).filter fun k : Fin 64 => s.me.em.getLsbD k).map fun k => ((laneEa s a n k).toNat, natLe 4 (s.me.v[v][k]).toNat)

theorem lastByte_stvs (s : State) (a : Fin 32) (v n : Fin 64) (b : Nat) : lastByte (scatter s a v n) b =
    ((List.finRange 64).reverse.find? fun k : Fin 64 =>
      s.me.em.getLsbD k && decide ((laneEa s a n k).toNat ≤ b) && decide (b < (laneEa s a n k).toNat + 4)).map
        fun k : Fin 64 => (s.me.v[v][k]).extractLsb' (8 * (b - (laneEa s a n k).toNat)) 8 := by
  have hreach : (reaches b ∘ fun k : Fin 64 => ((laneEa s a n k).toNat, natLe 4 (s.me.v[v][k]).toNat)) = fun k =>
      decide ((laneEa s a n k).toNat ≤ b) && decide (b < (laneEa s a n k).toNat + 4) := funext fun k => by
    rw [Function.comp_apply, reaches, natLe_length]
  unfold lastByte scatter
  rw [← List.map_reverse, ← List.filter_reverse, List.find?_map, hreach, List.find?_filter, Option.map_map]
  simp only [Bool.decide_and, Bool.decide_eq_true, Bool.and_assoc]
  refine Option.map_congr fun k hk => ?_
  have hk := List.find?_some hk
  simp only [Bool.and_eq_true, decide_eq_true_eq] at hk
  dsimp only [Function.comp_apply]
  exact natLe_byte _ (by omega)

theorem stvs_stores {v n : Fin 64} (ha : Still s a) (hrows : StillRows s) (hpins : pinsOf s.me.mxq = [])
    (hok : ∀ k : Fin 64, s.me.em.getLsbD k = true → SpOk s (laneEa s a n k) 4 4) :
    StoresLocal (.stvs v a n) s 0 0 none (lastByte (scatter s a v n)) := by
  have hws : ((s.iss s.cur).lanes.map fun k => (((s.iss s.cur).laneAddr a n k).toNat, natLe 4 ((s.iss s.cur).rV v k).toNat)) =
      scatter s a v n := by
    rw [lanes_eq, List.map_map]
    refine List.map_congr_left fun k _ => ?_
    rw [Function.comp_apply, laneAddr_eq ha hrows, rV_of_stillRows hrows]
  refine storesLocal_of_eff (e := effStvs v a n) rfl (g := (scatter s a v n).flatMap fun w => sigL w.1 w.2 255) ?_
  unfold effStvs
  rw [laneChecks_ok ha hrows hok]
  dsimp only
  rw [hws, pinWait_none hpins, foldl_store]
  rfl

/-- Settles O21: a store's writes, in their order, and the byte that the last of them leaves at each place. -/
theorem scratchpadStoreResult : Obligations.ScratchpadStoreResult := by
  intro s q v w a n o ha hw hrows hpins
  refine ⟨stsN_stores (n := 8) rfl ha hw hpins, stsN_stores (n := 4) rfl ha hw hpins, stsN_stores (n := 2) rfl ha hw hpins,
    stsN_stores (n := 1) rfl ha hw hpins, fun hok => ?_, fun hok => ?_⟩
  · simp only [← lastByte_stv]
    exact stv_stores ha hrows hpins hok
  · have h := stvs_stores (v := v) ha hrows hpins hok
    rw [funext (lastByte_stvs s a v n)] at h
    exact h

end Sys2Proof.Claims
end

section
/-! SUPPORT. Full-empty bits as a program sets and samples them (09 R205), the causes of a scratchpad access, and the wait of a waiting
load (09 R180, R181, R184). -/

open Sys2Proof.Machine

namespace Sys2Proof.Claims

variable {s : State} {i : Instr} {d a w : Fin 32} {v : Fin 64} {q : QLoad} {p : QStore} {o : Int}

/-! ## FESET, FECLR and FETEST -/

/-- The bits that FETEST samples from local address `ea` on. -/
def sampled (s : State) (ea : Nat) : W64 :=
  maskOfFn fun j => decide (16 * (ea / 16 + j) < s.me.spsize) && (myCore s).feGet (s.me.spbase / 16 + ea / 16 + j)

theorem sampled_getLsbD (s : State) (ea : Nat) {j : Nat} (hj : j < 64) : (sampled s ea).getLsbD j =
    (decide (ea / 16 * 16 + 16 * j < s.me.spsize) && (myCore s).feGet (s.me.spbase / 16 + ea / 16 + j)) := by
  rw [sampled, maskOfFn_getLsbD _ _ hj, Nat.mul_add, Nat.mul_comm 16 (ea / 16)]

section
variable (ha : Still s a)
include ha

theorem feOp_stores {b : Bool} (hi : exec i s = issueWords [feOp b a o] s) (h : (s.me.rd a + BitVec.ofInt 64 o).toNat < s.me.spsize) :
    StoresLocal i s ((s.me.rd a + BitVec.ofInt 64 o).toNat / 16 * 16) 16 (some b) fun _ => none := by
  refine storesLocal_of_eff (ws := []) hi (g := sigL ((s.me.rd a + BitVec.ofInt 64 o).toNat / 16 * 16) [] (b2n b)) ?_
  have hin : ¬ (s.iss s.cur).c.spsize ≤ (s.me.rd a + BitVec.ofInt 64 o).toNat := Nat.not_le.2 h
  unfold feOp
  rw [ha.rS, w64]
  dsimp only
  rw [if_neg hin]
  rfl

theorem feOp_traps {b : Bool} (hi : exec i s = issueWords [feOp b a o] s) (h : s.me.spsize ≤ (s.me.rd a + BitVec.ofInt 64 o).toNat) :
    Traps i s .scratchRange (BitVec.ofNat 64 ((s.me.rd a + BitVec.ofInt 64 o).toNat % 2 ^ 48)) := by
  have hout : (s.iss s.cur).c.spsize ≤ (s.me.rd a + BitVec.ofInt 64 o).toNat := h
  refine traps_of_eff hi ?_
  unfold feOp
  rw [ha.rS, w64]
  exact if_pos hout

theorem fetest_launches (h : (s.me.rd a + BitVec.ofInt 64 o).toNat < s.me.spsize) :
    LaunchesScalar (.fetest d a o) s d (sampled s (s.me.rd a + BitVec.ofInt 64 o).toNat) 8 := by
  have hin : ¬ (s.iss s.cur).c.spsize ≤ (s.me.rd a + BitVec.ofInt 64 o).toNat := Nat.not_le.2 h
  refine launchesScalar_of_eff (e := effFetest d a o) rfl ?_
  unfold effFetest
  rw [ha.rS, w64]
  exact if_neg hin

theorem fetest_traps (h : s.me.spsize ≤ (s.me.rd a + BitVec.ofInt 64 o).toNat) :
    Traps (.fetest d a o) s .scratchRange (BitVec.ofNat 64 ((s.me.rd a + BitVec.ofInt 64 o).toNat % 2 ^ 48)) := by
  have hout : (s.iss s.cur).c.spsize ≤ (s.me.rd a + BitVec.ofInt 64 o).toNat := h
  refine traps_of_eff (e := effFetest d a o) rfl ?_
  unfold effFetest
  rw [ha.rS, w64]
  exact if_pos hout

end

/-- A set s field of FESET or FECLR is reserved. -/
theorem feset_reserved : ∀ n : Fin 32, n ≠ 0 →
    decodeTableWord 32 (0xC6002010 + n * 2 ^ 17) = none ∧ decodeTableWord 32 (0xC6402010 + n * 2 ^ 17) = none := by decide

/-- Settles O22: the bit of the granule, by what a mark leaves; FETEST, by the bits of a sampled mask; the encodings, one by one. -/
theorem fullEmptyResult : Obligations.FullEmptyResult := fun s _ _ _ ha =>
  ⟨fun h => ⟨feOp_stores ha rfl h, feOp_stores ha rfl h, _, fetest_launches ha h, fun _ => sampled_getLsbD s _⟩,
    fun h => ⟨feOp_traps ha rfl h, feOp_traps ha rfl h, fetest_traps ha h⟩, by decide, feset_reserved⟩

/-! ## Causes -/

/-- Alignment is checked before range, and each failing check traps. -/
def Checks (i : Instr) (s : State) (ea : W64) (n al : Nat) : Prop :=
  (ea.toNat % al ≠ 0 → Traps i s .align (BitVec.ofNat 64 (ea.toNat % 2 ^ 48))) ∧
    (ea.toNat % al = 0 → s.me.spsize < ea.toNat + n → Traps i s .scratchRange (BitVec.ofNat 64 (ea.toNat % 2 ^ 48)))

/-- A word whose effect runs behind the checks of an address. -/
theorem checks_of_eff {e : Eff} {ea : W64} {n al : Nat} (hi : exec i s = issueWords [e] s)
    (h : ∃ k : Nat → Res, e (s.iss s.cur) s.out0 = withSp (s.iss s.cur) ea n al k) : Checks i s ea n al := by
  obtain ⟨k, hk⟩ := h
  exact ⟨fun hmis => traps_of_eff hi (hk.trans (withSp_misaligned hmis)),
    fun hal hout => traps_of_eff hi (hk.trans (withSp_outside hal hout))⟩

/-- Every address is aligned to one byte, and a byte past the partition is one at its end. -/
theorem checks_of_byte {ea : W64} (h : s.me.spsize ≤ ea.toNat → Traps i s .scratchRange (BitVec.ofNat 64 (ea.toNat % 2 ^ 48))) :
    Checks i s ea 1 1 :=
  ⟨fun hmis => absurd (Nat.mod_one _) hmis, fun _ hout => h (Nat.lt_succ_iff.1 hout)⟩

/-! ## The wait on an empty granule -/

theorem waits_of_feWait {e : Eff} {g n j : Nat} {k : Res} (hi : exec i s = issueWords [e] s)
    (h : e (s.iss s.cur) s.out0 = feWait (s.iss s.cur) q g n k) (hq : q ≠ .plain) (hj : j < n)
    (hempty : (myCore s).feGet (s.me.spbase / 16 + (g + j)) = false)
    (hbelow : ∀ i, i < j → ¬ (myCore s).feGet (s.me.spbase / 16 + (g + i)) = false) : Waits i s { kind := 3, arg := g + j } :=
  waits_of_eff hi (h.trans (feWait_empty hq hj hempty hbelow)) (onlyMe_refl s)

section
variable (ha : Still s a)
include ha

theorem ldsN_eq (n : Nat) (sgn : Bool) : ∃ k : Nat → Res, ldsN n sgn q d a o (s.iss s.cur) s.out0 =
    withSp (s.iss s.cur) (s.me.rd a + BitVec.ofInt 64 o) n n fun ea => feWait (s.iss s.cur) q (ea / 16) 1 (k ea) := by
  unfold ldsN
  rw [ha.rS]
  exact ⟨_, rfl⟩

theorem effLdv_eq : ∃ k : Nat → Res, effLdv q v a o (s.iss s.cur) s.out0 =
    withSp (s.iss s.cur) (s.me.rd a + BitVec.ofInt 64 (16 * o)) 256 16 fun ea => feWait (s.iss s.cur) q (ea / 16) 16 (k ea) := by
  unfold effLdv
  rw [ha.rS]
  exact ⟨_, rfl⟩

theorem ldsN_waits {n : Nat} {sgn : Bool} (hi : exec i s = issueWords [ldsN n sgn q d a o] s) (hq : q ≠ .plain)
    (hok : SpOk s (s.me.rd a + BitVec.ofInt 64 o) n n)
    (hempty : (myCore s).feGet (s.me.spbase / 16 + (s.me.rd a + BitVec.ofInt 64 o).toNat / 16) = false) :
    Waits i s { kind := 3, arg := (s.me.rd a + BitVec.ofInt 64 o).toNat / 16 } := by
  obtain ⟨k, hk⟩ := ldsN_eq (q := q) (d := d) (o := o) ha n sgn
  exact waits_of_feWait (j := 0) hi (hk.trans (withSp_ok hok)) hq Nat.one_pos hempty fun j hj => absurd hj (Nat.not_lt_zero j)

theorem ldv_waits (hq : q ≠ .plain) (hok : SpOk s (s.me.rd a + BitVec.ofInt 64 (16 * o)) 256 16) (j : Nat) (hj : j < 16)
    (hempty : (myCore s).feGet (s.me.spbase / 16 + ((s.me.rd a + BitVec.ofInt 64 (16 * o)).toNat / 16 + j)) = false)
    (hbelow : ∀ i, i < j → ¬ (myCore s).feGet (s.me.spbase / 16 + ((s.me.rd a + BitVec.ofInt 64 (16 * o)).toNat / 16 + i)) = false) :
    Waits (.ldv q v a o) s { kind := 3, arg := (s.me.rd a + BitVec.ofInt 64 (16 * o)).toNat / 16 + j } := by
  obtain ⟨k, hk⟩ := effLdv_eq (q := q) (v := v) (o := o) ha
  exact waits_of_feWait (e := effLdv q v a o) rfl (hk.trans (withSp_ok hok)) hq hj hempty hbelow

theorem ldsN_checks {n : Nat} {sgn : Bool} (hi : exec i s = issueWords [ldsN n sgn q d a o] s) :
    Checks i s (s.me.rd a + BitVec.ofInt 64 o) n n := by
  obtain ⟨k, hk⟩ := ldsN_eq (q := q) (d := d) (o := o) ha n sgn
  exact checks_of_eff hi ⟨_, hk⟩

theorem stsN_checks {n : Nat} (hi : exec i s = issueWords [stsN n p w a o] s) : Checks i s (s.me.rd a + BitVec.ofInt 64 o) n n := by
  refine checks_of_eff hi ?_
  unfold stsN
  rw [ha.rS]
  exact ⟨_, rfl⟩

theorem ldv_checks : Checks (.ldv q v a o) s (s.me.rd a + BitVec.ofInt 64 (16 * o)) 256 16 := by
  obtain ⟨k, hk⟩ := effLdv_eq (q := q) (v := v) (o := o) ha
  exact checks_of_eff (e := effLdv q v a o) rfl ⟨_, hk⟩

theorem stv_checks : Checks (.stv p v a o) s (s.me.rd a + BitVec.ofInt 64 (16 * o)) 256 16 := by
  refine checks_of_eff (e := effStv p v a o) rfl ?_
  unfold effStv
  rw [ha.rS]
  exact ⟨_, rfl⟩

end

/-- Settles O23: every access runs behind the same two checks, and a waiting load behind the same search for an empty granule. -/
theorem scratchpadFaults : Obligations.ScratchpadFaults := fun _ _ _ _ _ _ _ _ ha =>
  ⟨ldsN_checks (n := 8) (sgn := false) ha rfl, ldsN_checks (n := 4) (sgn := true) ha rfl, ldsN_checks (n := 4) (sgn := false) ha rfl,
    ldsN_checks (n := 2) (sgn := false) ha rfl, ldsN_checks (n := 1) (sgn := false) ha rfl, stsN_checks (n := 8) ha rfl,
    stsN_checks (n := 4) ha rfl, stsN_checks (n := 2) ha rfl, stsN_checks (n := 1) ha rfl, ldv_checks ha, stv_checks ha,
    checks_of_byte (feOp_traps (b := true) ha rfl), checks_of_byte (feOp_traps (b := false) ha rfl), checks_of_byte (fetest_traps ha),
    ldsN_waits (n := 8) (sgn := false) ha rfl, ldsN_waits (n := 4) (sgn := true) ha rfl, ldsN_waits (n := 4) (sgn := false) ha rfl,
    ldsN_waits (n := 2) (sgn := false) ha rfl, ldsN_waits (n := 1) (sgn := false) ha rfl, ldv_waits ha⟩

end Sys2Proof.Claims
end

section
/-! SUPPORT. Global loads of a word: the translations that it makes at issue, and its outstanding destination (09 R206). -/

open Sys2Proof.Machine

namespace Sys2Proof.Claims

variable {s : State} {i : Instr} {d a : Fin 32} {v : Fin 64} {f : Bool} {o : Int}

/-- The translations of a load change what a fetch may change, and nothing else. -/
theorem readRefs_fetches (k asid : Nat) (world : Bool) (ls : List (Nat × W64)) (s : State) : Fetches s (readRefs k asid world ls s).1 := by
  induction ls generalizing s with
  | nil => exact .refl s
  | cons l ls ih =>
    obtain ⟨j, x⟩ := l
    unfold readRefs
    split
    · exact .refl s
    · next va _ =>
      have htranslate := s.translate_fetches k asid world .read va
      split
      · next hu => rwa [hu] at htranslate
      · next u _ hu =>
        rw [hu] at htranslate
        have hrest := ih u
        split
        · next hr =>
          rw [hr] at hrest
          exact htranslate.trans hrest
        · next hr =>
          rw [hr] at hrest
          exact htranslate.trans hrest

/-- A global load whose pages may be read leaves its destination outstanding. -/
theorem ldgN_does {e : Eff} {n al : Nat} {w : Dest} {x : W64} {ls : List (Nat × W64)} (hi : exec i s = issueWords [e] s)
    (he : e (s.iss s.cur) s.out0 = ldgN f n al w x ls (s.iss s.cur) s.out0) (hperf : Performs s) (hal : x.toNat % al = 0) (u : State)
    (rs : List (Nat × GRef)) (hrefs : readRefs (coreOf s.cur) (s.asidOf s.cur) (s.worldOf s.cur) ls s = (u, .ok rs)) :
    Does i s { s.me with pends := s.me.pends ++ [⟨w, .load (x.setWidth 48) n f rs [], s.me.pc, false⟩] } u := by
  have hcur : u.cur = s.cur := by
    have h := readRefs_fetches (coreOf s.cur) (s.asidOf s.cur) (s.worldOf s.cur) ls s
    rw [hrefs] at h
    exact h.cur
  have hload : ldgN f n al w x ls (s.iss s.cur) s.out0 =
      .ok (({ s.out0 with s := u } : Out).pend w (.load (x.setWidth 48) n f rs [])) := by
    have hperf := (performs_iff_chk s).1 hperf
    have hrefs : readRefs (coreOf (s.iss s.cur).x) ((s.iss s.cur).s.asidOf (s.iss s.cur).x) ((s.iss s.cur).s.worldOf (s.iss s.cur).x) ls
      s.out0.s = (u, .ok rs) := hrefs
    unfold ldgN
    rw [if_neg (by simpa using hal), hperf, if_neg Bool.false_ne_true, hrefs]
  exact does_of_eff hi (he.trans hload) rfl ⟨rfl, rfl, rfl, rfl, rfl, rfl⟩ hcur

theorem ldgN_traps {e : Eff} {n al : Nat} {w : Dest} {x : W64} {ls : List (Nat × W64)} (hi : exec i s = issueWords [e] s)
    (he : e (s.iss s.cur) s.out0 = ldgN f n al w x ls (s.iss s.cur) s.out0) (hmis : x.toNat % al ≠ 0) :
    Traps i s .align (BitVec.ofNat 64 (x.toNat % 2 ^ 48)) := by
  refine traps_of_eff hi (he.trans ?_)
  unfold ldgN
  rw [if_pos (by simpa using hmis)]

section
variable (ha : Still s a)
include ha

theorem effLdgD_eq : effLdgD f d a o (s.iss s.cur) s.out0 =
    ldgN f 8 8 (.s d) (s.me.rd a + BitVec.ofInt 64 o) [(0, s.me.rd a + BitVec.ofInt 64 o)] (s.iss s.cur) s.out0 := by
  unfold effLdgD
  rw [ha.rS]
  rfl

theorem effLdgW_eq : effLdgW f d a o (s.iss s.cur) s.out0 =
    ldgN f 4 4 (.s d) (s.me.rd a + BitVec.ofInt 64 o) [(0, s.me.rd a + BitVec.ofInt 64 o)] (s.iss s.cur) s.out0 := by
  unfold effLdgW
  rw [ha.rS]
  rfl

theorem effLdgv_eq : effLdgv f v a o (s.iss s.cur) s.out0 =
    ldgN f 4 16 (.v v) (s.me.rd a + BitVec.ofInt 64 (16 * o))
      (((List.finRange 64).filter fun k : Fin 64 => s.me.em.getLsbD k).map fun k : Fin 64 =>
        (k.val, s.me.rd a + BitVec.ofInt 64 (16 * o) + BitVec.ofNat 64 (4 * k))) (s.iss s.cur) s.out0 := by
  unfold effLdgv
  rw [ha.rS, lanes_eq]
  simp only [List.map_map]
  rfl

end

/-- Settles O24: behind the check of its address a load's lanes are translated, and its destination becomes outstanding. -/
theorem globalLoadResult : Obligations.GlobalLoadResult := fun _ f d a v o ha hperf =>
  ⟨ldgN_does (e := effLdgD f d a o) rfl (effLdgD_eq ha) hperf, ldgN_does (e := effLdgW f d a o) rfl (effLdgW_eq ha) hperf,
    ldgN_does (e := effLdgv f v a o) rfl (effLdgv_eq ha) hperf, ldgN_traps (e := effLdgD f d a o) rfl (effLdgD_eq ha),
    ldgN_traps (e := effLdgW f d a o) rfl (effLdgW_eq ha), ldgN_traps (e := effLdgv f v a o) rfl (effLdgv_eq ha)⟩

end Sys2Proof.Claims
end
